-- ==== Sys2Proof/Word.lean ====
section
/-! DEFINITION. The word types of the MQ8-2048 model (R8, R11): bytes, the 16-, 32- and 64-bit words the
manual's layouts are made of, and the sparse table in which the model keeps state that exists once per
instance. -/

namespace Sys2Proof

/-- One byte. -/
abbrev Byte := BitVec 8

/-- A 16-bit field: unit codes (R37), module IDs (R297), keys (R379), sequence numbers (R381). -/
abbrev W16 := BitVec 16

/-- A 32-bit field. -/
abbrev W32 := BitVec 32

/-- A 64-bit word: every set-up register (R11), thread register (R147) and sync value (R264). -/
abbrev W64 := BitVec 64

/-- A run of bytes, lowest address first. -/
abbrev Bytes := List Byte

/-- State that exists once per instance, keyed by the instance's number: the keys rise strictly and no
entry holds the default that an unlisted key reads as (`Machine/Table.lean` has the operations). -/
abbrev Tbl (V : Type) := List (Nat × V)

end Sys2Proof
end

