-- ==== Sys2Proof/Syntax.lean ====
section
/-! DEFINITION. The commands of the MQ8-2048: one constructor of `Instr` per row of spec/opcode_table.json,
with the operands that the row's rule gives the command, and the operand types.  What a command READS from
outside the module (a ring entry in host memory, an arriving flit, a returned value, the time at which it
happens where a rule compares times) is an operand; all else is state. -/

namespace Sys2Proof

/-! ### Names of the module's parts (R17, R37) -/

/-- A context, 0 to 63 (R18). -/
abbrev CtxId := Fin 64

/-- A PCIe function: 0 the physical function, n the virtual function VFn (R425). -/
abbrev FnId := Fin 64

/-- A compute die CD0 to CD7. -/
abbrev DieId := Fin 8

/-- A fabric port, 0 to 11 (R325). -/
abbrev PortId := Fin 12

/-- A quad Q00 to Q35. -/
abbrev QuadId := Fin 36

/-- A core CDn.Cmm (R17). -/
structure CoreRef where
  die : Fin 8
  core : Fin 12
  deriving DecidableEq, Repr

/-- A thread Tt of a core (R39). -/
structure ThreadRef where
  die : Fin 8
  core : Fin 12
  t : Fin 8
  deriving DecidableEq, Repr

/-- A matrix engine CDn.Cmm.Ek. -/
structure EngineRef where
  die : Fin 8
  core : Fin 12
  k : Fin 4
  deriving DecidableEq, Repr

/-- A stream engine CDn.Cmm.Ss. -/
structure StreamRef where
  die : Fin 8
  core : Fin 12
  s : Fin 2
  deriving DecidableEq, Repr

/-- A command queue of a core: 0 to 3 the engines, 4 the vector unit, 5 and 6 the stream engines (R119, R160). -/
structure QueueRef where
  die : Fin 8
  core : Fin 12
  q : Fin 7
  deriving DecidableEq, Repr

/-- The masters that give orders at the shared points (R7, R461). -/
inductive Master where
  | keeper
  | mmc
  | pf
  | vf
  deriving DecidableEq, Repr

/-- A contradictory order of another master that reaches the same shared point in the same FCLK cycle
(R7, R461): who gives it and, for a virtual function, the function and the context it names. -/
structure Rival where
  master : Master
  fn : FnId
  ctx : CtxId
  deriving DecidableEq, Repr

/-! ### The host link (R424 to R462) -/

/-- A submission ring: the administration ring or SQ i of a context (R430). -/
inductive HostRing where
  | adm
  | sq (c : CtxId) (i : Fin 8)
  deriving DecidableEq, Repr

/-- A completion ring (R430). -/
inductive CqRef where
  | adm
  | ctx (c : CtxId)
  deriving DecidableEq, Repr

/-- Any ring, as a ring configuration register places it (R462). -/
inductive RingSel where
  | sub (r : HostRing)
  | comp (q : CqRef)
  deriving DecidableEq, Repr

/-- A host command that the arbiter has fetched and starts now (R431, R432).  `entry` is its 64-byte submission
entry.  `data` is what the module's reads of host memory for the command return, from the address that the
command names on.  `now` is what the module's own time counter reads as the
arbiter accepts it, in units of 1/16 ns (R404); domain time is that plus what the time exchange has corrected (R407).
`rival` is a contradictory order of the same FCLK cycle (R461). -/
structure HostCmd where
  ring : HostRing
  entry : Bytes
  data : Bytes
  now : W64
  rival : Option Rival
  deriving DecidableEq, Repr

/-- Which halves of a set-up register a write acts on (R16). -/
inductive Lanes where
  | full
  | low
  | high
  deriving DecidableEq, Repr

/-- A write of a set-up register: the value on the 64 data bits and the halves it acts on (R11, R16). -/
structure RegWr where
  value : W64
  lanes : Lanes
  deriving DecidableEq, Repr

/-- Where a register access of the host lands (R428, R429). -/
inductive RegPath where
  | bar0 (fn : FnId)
  | bar2 (fn : FnId)
  | bar4
  deriving DecidableEq, Repr

/-- A write that the host makes to a BAR: path, offset, size in bytes, data (R16, R428); with the doorbell of an Ethernet
queue, the descriptors that stand in its ring (R471). -/
structure RegAccess where
  path : RegPath
  offset : Nat
  size : Nat
  data : W64
  descs : List Bytes
  now : W64
  deriving DecidableEq, Repr

/-! ### Security (R489 to R503) -/

/-- An SPDM request that reaches the Keeper through the Data Object Exchange of a function (R489).  `session` is
the number of the session it is sent in.  `body` is the message after its version and request code, Param1 first; for
the vendor-defined commands of R491 it is their payload.  `plain` says that the session's check of the message (its
MAC under the session keys) passes. -/
structure SpdmMsg where
  fn : FnId
  session : Option (Fin 128)
  body : Bytes
  plain : Bool
  deriving DecidableEq, Repr

/-! ### Power and start -/

/-- Why a start fails (R511). -/
inductive StartFailure where
  /-- Both slots of an image kind fail the check. -/
  | imageCheck (kind : Fin 6)
  /-- A unit of the Brynoa die fails its self-test. -/
  | selfTest (unit : W16)
  deriving DecidableEq, Repr

/-- What the power sensors read at a control step (R538 to R540, R557): VIN48 voltage in 10 mV, current in
10 mA, the averages in W, the die temperatures, the number of the 100 microsecond step's excursion reading. -/
structure PowerReading where
  volt : W16
  cur : W16
  pwr : W16
  avg1s : W16
  dieMax : Byte
  hbmMax : Byte
  excursionDone : Bool
  deriving DecidableEq, Repr

/-- What the coolant sensors read (R548, R557). -/
structure CoolantReading where
  inlet : Byte
  outlet : Byte
  flow : BitVec 10
  leak : Bool
  deriving DecidableEq, Repr

/-! ### Links and packets -/

/-- How the training of a quad ends (R330, R324, R351). -/
inductive TrainOutcome where
  | trained (peerSerial : W64)
  | failed
  | stray
  deriving DecidableEq, Repr

/-- A fabric packet (R357, R360): the fields of the header, the body and payload bytes, and whether its
integrity trailer was formed over what arrives. -/
structure Pkt where
  tc : Fin 4
  ty : Byte
  flags : Byte
  pkey : W16
  dst : W16
  src : W16
  seq : W16
  ctr : W64
  body : Bytes
  payload : Bytes
  trailer : BitVec 128
  deriving DecidableEq, Repr

/-- A packet that arrives at a port at a domain time: the upper or lower side of its VC (R342), how many flits of its own
it takes (a control packet that rides in another packet's last flit takes none, R336), and whether a router on its way has
put a congestion mark on it (R392). -/
structure Arrival where
  port : PortId
  upper : Bool
  flits : Nat
  marked : Bool
  pkt : Pkt
  now : W64
  deriving DecidableEq, Repr

/-- A flow: the module at its other end and the traffic class (R381). -/
structure FlowRef where
  peer : W16
  tc : Fin 4
  deriving DecidableEq, Repr

/-- The way a management request reaches the MMC (R529, R554, R563). -/
inductive MgmtVia where
  | bar4
  | sideBand
  | fabric (a : Arrival)
  deriving DecidableEq, Repr

/-- A management request (R529): its way, tag, space, offset, the size of the access and its data. -/
structure MgmtRequest where
  via : MgmtVia
  tag : W16
  space : Byte
  offset : W32
  size : Nat
  data : W64
  now : W64
  deriving DecidableEq, Repr

/-! ### Ethernet -/

/-- A sub-port of an Ethernet port (R463). -/
structure SubPort where
  port : Fin 2
  sub : Fin 4
  deriving DecidableEq, Repr

/-- A frame that arrives at a sub-port: its bytes without preamble and FCS, and whether the FCS is right. -/
structure EthFrame where
  at' : SubPort
  bytes : Bytes
  fcsOk : Bool
  deriving DecidableEq, Repr

/-! ### Threads -/

/-- The operands of a load: width log2, zero extension, destination, base register, offset, compressed. -/
structure LoadOp where
  rd : Fin 32
  rs1 : Fin 32
  imm : BitVec 12
  size : Fin 4
  unsigned : Bool
  compressed : Bool
  deriving DecidableEq, Repr

/-- What comes back for an outstanding load (R157, R391): the bytes, or the cause of a refusal; `none` where the
location lies on this module and the model reads it. -/
inductive LoadReturn where
  | here
  | data (v : W64) (poison uninit : Bool)
  | refused (status : Byte)
  deriving DecidableEq, Repr

/-- The operands of a store. -/
structure StoreOp where
  rs1 : Fin 32
  rs2 : Fin 32
  imm : BitVec 12
  size : Fin 4
  compressed : Bool
  deriving DecidableEq, Repr

/-- The atomic operations of the A extension (R149). -/
inductive AmoKind where
  | swap | add | xor | and | or | min | max | minu | maxu
  deriving DecidableEq, Repr

/-- The operands of an atomic memory operation. -/
structure AmoOp where
  kind : AmoKind
  rd : Fin 32
  rs1 : Fin 32
  rs2 : Fin 32
  dword : Bool
  aq : Bool
  rl : Bool
  deriving DecidableEq, Repr

/-- The operands of LR and SC. -/
structure LrScOp where
  rd : Fin 32
  rs1 : Fin 32
  rs2 : Fin 32
  dword : Bool
  aq : Bool
  rl : Bool
  deriving DecidableEq, Repr

/-- The operands of FENCE: predecessor and successor sets. -/
structure FenceOp where
  pred : Fin 16
  succ : Fin 16
  deriving DecidableEq, Repr

/-- The six CSR instructions (R167). -/
inductive CsrKind where
  | rw | rs | rc | rwi | rsi | rci
  deriving DecidableEq, Repr

/-- The operands of a CSR instruction: `src` is rs1 or the five immediate bits. -/
structure CsrOp where
  kind : CsrKind
  rd : Fin 32
  src : Fin 32
  csr : BitVec 12
  deriving DecidableEq, Repr

/-- The operands of a custom instruction of R159. -/
structure CustOp where
  rd : Fin 32
  rs1 : Fin 32
  rs2 : Fin 32
  funct7 : BitVec 7
  deriving DecidableEq, Repr

/-- A store of a thread to a region descriptor on its control page (R190, R192): the region and the 64-bit word
it writes. -/
structure RegionStore where
  region : Fin 64
  value : W64
  deriving DecidableEq, Repr

/-- An AMOADD to a sync window (R268): the thread or the fabric, the word's address, the addend. -/
structure WindowAmo where
  th : ThreadRef
  rd : Fin 32
  addr : W64
  value : W64
  deriving DecidableEq, Repr

/-- What a scrub finds in a line (R202, R318). -/
inductive EccFinding where
  | clean
  | corrected
  | uncorrectable
  deriving DecidableEq, Repr

/-- THE COMMANDS: one constructor per row of spec/opcode_table.json, in the table's order, the rows without
operands last (Lean's runtime numbers only the first 244 constructors that carry operands). -/
inductive Instr where
  /-- ASSIGN (R441). PF command that hands a FREE context to a VF, recording owner, PKEY and quotas. -/
  | assign (h : HostCmd)
  /-- RELEASE (R449). Command that moves an ASSIGNED or HALTED context into KILLING, as KILL does. -/
  | release (h : HostCmd)
  /-- KILL (R449). Command that stops a context at once, aborts its outstanding commands and enters KILLING with clearing of keys, SRAM and memory. -/
  | kill (h : HostCmd)
  /-- KILL_COMPLETE (R449). Clearing of a killed context finishes; the context becomes FREE, the KILL completion and KILLED event are posted and its rings are disabled. -/
  | killComplete (c : CtxId)
  /-- GRANT_IMAGE (R459). PF command that adds a context to the grants of a resident image. -/
  | grantImage (h : HostCmd)
  /-- REVOKE_IMAGE (R459). PF command that removes a context's grant of an image; the image key is destroyed if the count falls to zero. -/
  | revokeImage (h : HostCmd)
  /-- HOST_MEM_RELEASE (R447). HOST_MEM with OP 1 releases DPA granules from the host region to FREE_DIRTY. -/
  | hostMemRelease (h : HostCmd)
  /-- HOST_MEM_RECLAIM (R447). HOST_MEM with OP 2 gives released DPA granules FREE_CLEAN units back as HOST units. -/
  | hostMemReclaim (h : HostCmd)
  /-- HOST_COPY (R447). PF command that copies between host memory and DPA addresses only. -/
  | hostCopy (h : HostCmd)
  /-- STATS (R448). Command that writes a 128-byte statistics block to host memory. -/
  | stats (h : HostCmd)
  /-- CTX_SETUP (R443). VF command that binds cores, a first memory allocation, the root table, sync entries and the job key to an ASSIGNED context. -/
  | ctxSetup (h : HostCmd)
  /-- MEM_ALLOC (R442). VF command that assigns memory units to the context and writes their global addresses to the list. -/
  | memAlloc (h : HostCmd)
  /-- MEM_FREE (R442). VF command that checks and frees owned units to FREE_DIRTY and removes every translation of the context. -/
  | memFree (h : HostCmd)
  /-- LOAD (R456). VF command that checks a beat-program container, reserves ring-channel objects, binds sync entries and copies segments. -/
  | load (h : HostCmd)
  /-- START (R444). VF command that checks RBEAT, rings, lock and lock-step, seeds generators at first start and starts the context's threads at tick B0. -/
  | start (h : HostCmd)
  /-- HALT_AT_BEAT (R445). VF command that schedules a beat-locked context to halt at tick h after the boundary checks pass. -/
  | haltAtBeat (h : HostCmd)
  /-- HALT_NOW (R445). VF command that stops every thread and unit of a RUNNING context at its next boundary and makes it HALTED. -/
  | haltNow (h : HostCmd)
  /-- COPY (R446). VF command that moves bytes between host memory and context memory through the context's page tables. -/
  | copy (h : HostCmd)
  /-- IMPORT (R457). VF command that starts decrypting a stream of weight records under a bound model key into context memory or a new resident image. -/
  | importStream (h : HostCmd)
  /-- IMPORT_RECORD (R458). One import record becomes available and is authenticated, checked for index and offset, and its plaintext written, or the import fails with AUTH. -/
  | importRecord (c : CtxId) (record : Bytes)
  /-- COMMAND_FETCH (R432). The command arbiter fetches one submission entry, by round robin among non-empty rings, and starts it. -/
  | commandFetch (entry : Bytes) (linkOk : Bool)
  /-- SQ_DOORBELL (R433). Write of a submission-ring doorbell that gives a new tail, accepted only within the ring's room. -/
  | sqDoorbell (fn : FnId) (ring : HostRing) (value : W64)
  /-- CQ_DOORBELL (R433). Write of a completion-ring doorbell that returns slots, arms the interrupt and lets held completions and events be posted. -/
  | cqDoorbell (fn : FnId) (cq : CqRef) (value : W64)
  /-- RING_ENABLE (R430). Setting EN of a submission or completion ring resets its head and tail, or leaves EN at 0 and sets CFG_ERR when SIZE is out of range. -/
  | ringEnable (fn : FnId) (ring : RingSel) (w : RegWr)
  /-- RING_DISABLE (R430). Clearing EN of a ring stops further fetches from it while fetched commands run on. -/
  | ringDisable (fn : FnId) (ring : RingSel) (w : RegWr)
  /-- FUNCTION_LEVEL_RESET (R426). FLR of a VF kills its contexts; FLR of the PF kills every context, disables every VF and resets the PF rings. -/
  | functionLevelReset (fn : FnId)
  /-- VF_REMOVAL (R426). Clearing VF Enable or lowering NumVFs removes a VF and kills its contexts. -/
  | vfRemoval (numVfs : FnId)
  /-- CXL_MEM_READ (R427). Host CXL.mem read of the capacity-memory region, returning poison for released granules. -/
  | cxlMemRead (line : BitVec 35)
  /-- CXL_MEM_WRITE (R427). Host CXL.mem write to the capacity-memory region, discarded for released granules. -/
  | cxlMemWrite (line : BitVec 35) (data : BitVec 512)
  /-- REGISTER_WRITE (R12). Write to a set-up register or field without behaviour of its own, applied by field type and counted as a configuration rejection where refused. -/
  | registerWrite (a : RegAccess)
  /-- GET_VERSION (R489). SPDM request answered by the Keeper with its supported versions. -/
  | getVersion (m : SpdmMsg)
  /-- GET_CAPABILITIES (R489). SPDM request answered with the Keeper's capabilities. -/
  | getCapabilities (m : SpdmMsg)
  /-- NEGOTIATE_ALGORITHMS (R489). SPDM request that fixes the algorithms of the exchange. -/
  | negotiateAlgorithms (m : SpdmMsg)
  /-- GET_DIGESTS (R489). SPDM request answered with digests of the certificate chain. -/
  | getDigests (m : SpdmMsg)
  /-- GET_CERTIFICATE (R489). SPDM request answered with the slot 0 certificate chain. -/
  | getCertificate (m : SpdmMsg)
  /-- CHALLENGE (R489). SPDM request answered with a signature by the alias key. -/
  | challenge (m : SpdmMsg)
  /-- GET_MEASUREMENTS (R490). SPDM request answered with the measurement blocks, including a context block only inside the owning VF's session. -/
  | getMeasurements (m : SpdmMsg)
  /-- KEY_EXCHANGE (R489). SPDM request that starts a secured session with ECDHE. -/
  | keyExchange (m : SpdmMsg)
  /-- FINISH (R489). SPDM request that completes session establishment. -/
  | finish (m : SpdmMsg)
  /-- HEARTBEAT (R489). SPDM session keep-alive request. -/
  | heartbeat (m : SpdmMsg)
  /-- KEY_UPDATE (R489). SPDM request that updates the session keys. -/
  | keyUpdate (m : SpdmMsg)
  /-- END_SESSION (R489). SPDM request that ends a session. -/
  | endSession (m : SpdmMsg)
  /-- BIND_MODEL_KEY (R492). Vendor-defined session command that unwraps a model key into a handle of the context. -/
  | bindModelKey (m : SpdmMsg)
  /-- DROP_MODEL_KEY (R491). Vendor-defined session command that removes a model key from a handle. -/
  | dropModelKey (m : SpdmMsg)
  /-- SET_LINK_KEY (R492). Vendor-defined session command that unwraps the job link key for the context. -/
  | setLinkKey (m : SpdmMsg)
  /-- SET_DEBUG_KEY (R491). Vendor-defined session command that sets the context debug public key. -/
  | setDebugKey (m : SpdmMsg)
  /-- RETIRED_KEY_DESTROY (R496). The Keeper destroys a killed job's retired link key once every numbered packet has been acknowledged or failed, or at FLOW_TIMEOUT. -/
  | retiredKeyDestroy (pkey : W16)
  /-- ALARM_TRIP (R500). A Keeper sensor trips and its level acts: LOG records it, CLAMP halts contexts and enters ALARM, ERASE zeroises the key store and kills every context. -/
  | alarmTrip (sensor : Fin 5) (now : W64)
  /-- ALARM_CLEAR (R501). CLEAR written to KEEP_ALARM ends CLAMP when no CLAMP-level sensor is active. -/
  | alarmClear (w : RegWr)
  /-- ALARM_CFG_COMMIT (R499). COMMIT in KEEP_ALARM_CFG locks the alarm levels. -/
  | alarmCfgCommit (w : RegWr)
  /-- SVN_COMMIT (R488). A bit written in SVN_COMMIT raises the fused minimum SVN of a kind to the running image's SVN. -/
  | svnCommit (w : RegWr)
  /-- TOKEN_SUBMIT (R503). SUBMIT checks a debug token and opens a context or module debug view, or records a failure and locks out nonce reads. -/
  | tokenSubmit (w : RegWr)
  /-- DEBUG_LOCK (R506). LOCK in KEEP_DBG_CTL closes any open context debug view. -/
  | debugLock (w : RegWr)
  /-- STARTUP_COMPLETE (R509). The cold or warm start sequence completes; units are admitted, ports enter DISCOVER and the module becomes READY. -/
  | startupComplete (failed : List ((W16 × Bool)))
  /-- START_FAIL (R511). A start fails; FAILS rises, a START record is posted and the module returns to STANDBY, or enters RECOVERY at the third failure. -/
  | startFail (reason : StartFailure)
  /-- COMPUTE_DIE_RESET (R513). MMC_RESET SCOPE 1 resets one compute die and its memories through OUT. -/
  | computeDieReset (w : RegWr)
  /-- WARM_MODULE_RESET (R510). MMC_RESET SCOPE 2 kills every context and warm-starts the compute dies while the router forwards. -/
  | warmModuleReset (w : RegWr)
  /-- BRYNOA_DIE_RESET (R513). MMC_RESET SCOPE 3 resets the router, quads, Ethernet, host interface and flow state, then warm-starts the compute dies. -/
  | brynoaDieReset (w : RegWr)
  /-- COLD_MODULE_RESET (R513). MMC_RESET SCOPE 4 zeroises the key store and cold-starts the whole module. -/
  | coldModuleReset (w : RegWr)
  /-- PREPARE_REMOVE (R526). MMC_RESET SCOPE 5 turns off every port, takes every unit OUT and sets REMOVE_OK when every context is FREE. -/
  | prepareRemove (w : RegWr)
  /-- TAKE_OUT (R519). Unit command that takes a unit out of service, forced or not, halting contexts that use it. -/
  | takeOut (w : RegWr) (rival : Option Rival)
  /-- BRING_IN (R516). Unit command that raises an OUT unit's domain and starts its SCRUB. -/
  | bringIn (w : RegWr) (rival : Option Rival)
  /-- SCRUB_COMPLETE (R516). Clearing of a unit in SCRUB finishes and the unit enters TEST. -/
  | scrubComplete (unit : W16)
  /-- TEST_COMPLETE (R516). A unit's test finishes; it enters STANDBY, or returns OUT with FAILED set. -/
  | testComplete (unit : W16) (pass : Bool)
  /-- UNIT_FAULT (R527). A unit internal fault takes the unit OUT as a forced take-out and logs a UNIT record. -/
  | unitFault (unit : W16)
  /-- MODULE_ERROR (R527). A Brynoa die or always-on fault, or a rail or temperature outside its limits, kills every context and resets or holds the module. -/
  | moduleError (unit : W16) (cause : W16)
  /-- FW_BEGIN (R523). MMC_FW OP BEGIN erases the inactive slot of an image kind. -/
  | fwBegin (w : RegWr)
  /-- FW_DATA (R523). A write to MMC_FW_DATA stores the next 8 image bytes while a BEGIN is open. -/
  | fwData (w : RegWr)
  /-- FW_CHECK (R523). MMC_FW OP CHECK has the Keeper check the written slot. -/
  | fwCheck (w : RegWr)
  /-- FW_SWITCH (R524). MMC_FW OP SWITCH sets the preferred slot to the checked image and starts the live switch. -/
  | fwSwitch (w : RegWr)
  /-- TRACE_ENABLE (R531). A write of MMC_TRACE enables or disables trace capture on a die, refused with CONFLICT where R530 forbids it. -/
  | traceEnable (w : RegWr)
  /-- PWR_CAP_WRITE (R541). A write of PWR_CAP sets the sustained limit or fixed duty, or is discarded when out of range. -/
  | pwrCapWrite (w : RegWr) (rival : Option Rival)
  /-- DUTY_STEP (R539). Each 100 us the sustained and excursion controllers move the duty of each die. -/
  | dutyStep (p : PowerReading)
  /-- PEAK_LIMIT (R539). A 2 us power average above 2,350 W halves the duty. -/
  | peakLimit (avg2us : W16)
  /-- PEAK_RECOVERY (R539). Every 10 us at or below 2,200 W the peak limiter raises the duty by 1. -/
  | peakRecovery (avg2us : W16)
  /-- THERMAL_LIMIT (R544). A die above 105 C for 1 ms is held at duty 32 until every sensor reads below 100 C. -/
  | thermalLimit (die : DieId)
  /-- DOMAIN_RAISE (R544). The power controller raises a power domain, one at a time per die, in index order. -/
  | domainRaise (die : DieId)
  /-- DOMAIN_LOWER (R543). A domain whose units are all OUT is lowered. -/
  | domainLower (domain : Fin 443)
  /-- COOLANT_STATUS (R548). Flow, inlet or leak sensor conditions set FLOW_LOW, INLET_HIGH or LEAK and drive SB-19. -/
  | coolantStatus (c : CoolantReading)
  /-- LINK_PROFILE_COMMIT (R327). COMMIT in LNK_PROFILE checks and commits the port layout, locking the RWL fields. -/
  | linkProfileCommit (w : RegWr)
  /-- PORT_ENABLE (R331). EN set or cleared in LNK_PORT_CFGk starts training of the port's quads or takes it DOWN. -/
  | portEnable (port : PortId) (w : RegWr)
  /-- QUAD_TRAINING_DONE (R330). A quad finishes training or retraining as trained, FAILED or STRAY, moving the port to DISCOVER when all quads are settled. -/
  | quadTrainingDone (quad : QuadId) (outcome : TrainOutcome)
  /-- TRAINING_TIMEOUT (R331). No active quad trained within 2 s; the port returns DOWN. -/
  | trainingTimeout (port : PortId)
  /-- TRAINING_RETRY (R331). 1 s after a training timeout, the port retrains. -/
  | trainingRetry (port : PortId)
  /-- LCF (R337). A link-control flit arrives and its running credit totals are taken. -/
  | lcf (port : PortId) (flit : Bytes)
  /-- LCF_TIMEOUT (R334). No LCF seen on any quad of a port for 1 us; the port goes DOWN. -/
  | lcfTimeout (port : PortId)
  /-- REMOVE_QUAD (R349). An LCF request to remove a quad from the port, acknowledged or refused. -/
  | removeQuad (port : PortId) (flit : Bytes)
  /-- ADD_QUAD (R351). An LCF request to add a quad back to the port. -/
  | addQuad (port : PortId) (flit : Bytes)
  /-- SUBSTITUTE_SPARE (R349). An LCF request to put a spare in a failed quad's place. -/
  | substituteSpare (port : PortId) (flit : Bytes)
  /-- QUAD_ACKNOWLEDGE (R350). An LCF acknowledgement echoing SWITCH_AT of a quad change. -/
  | quadAcknowledge (port : PortId) (flit : Bytes)
  /-- QUAD_REFUSE (R352). An LCF refusal of a crossing quad-change request. -/
  | quadRefuse (port : PortId) (flit : Bytes)
  /-- SWITCH_AT_REACHED (R350). The codeword-set count reaches SWITCH_AT and both ends change the port's slot order. -/
  | switchAtReached (port : PortId)
  /-- QUAD_FAIL (R349). Loss of signal, loss of lock or repeated uncorrectable sets fail a quad, which requests substitution or removal, or takes the port DOWN. -/
  | quadFail (quad : QuadId)
  /-- UNCORRECTABLE_SET (R338). A codeword set cannot be corrected; its flits and affected packets are discarded and credits returned. -/
  | uncorrectableSet (quad : QuadId) (vcs : List (Fin 8))
  /-- RECAL (R351). RECAL in LNK_QUADq starts recalibration of an admitted quad. -/
  | recal (quad : QuadId) (w : RegWr)
  /-- HELLO_TIMER (R402). Every 10 us in DISCOVER, or 1 ms in ARMED to DEGRADED, a port sends a HELLO. -/
  | helloTimer (port : PortId)
  /-- HELLO (R402). A HELLO arrives; the port may enter ARMED and write its neighbour entry, or set LOOP, QMISMATCH or DUP_ID, or go DOWN. -/
  | hello (a : Arrival)
  /-- MODULE_ID_COMMIT (R403). COMMIT in BRY_MODULE_ID commits the module ID and domain, or fails with BAD_ID. -/
  | moduleIdCommit (w : RegWr)
  /-- TIME_CFG_WRITE (R407). A write of ROOT or PARENT in BRY_TIME_CFG makes the module root, a child acquiring, or free. -/
  | timeCfgWrite (w : RegWr)
  /-- TIME_EXCHANGE_TIMER (R405). Every 16 us a child sends TIME_REQ to its parent and records t1. -/
  | timeExchangeTimer (now : W64)
  /-- TIME_REQ (R405). A parent receives TIME_REQ, records t2 and answers with TIME_RESP and TIME_INFO. -/
  | timeReq (a : Arrival)
  /-- TIME_RESP (R407). A child receives TIME_RESP, computes offset and delay, and steps or slews its time by its STATE. -/
  | timeResp (a : Arrival)
  /-- TIME_INFO (R407). A child receives the parent's beat, tick time, period and announcement and checks or takes them. -/
  | timeInfo (a : Arrival)
  /-- PERIOD_APPLY (R410). APPLY in BRY_PERIOD sets the period at once when none is set, or announces a change at AT_BEAT. -/
  | periodApply (w : RegWr) (now : W64)
  /-- ARRIVAL_DEADLINE (R56). At tick minus t_g every slot due for the next beat, and every START origin fill, is checked for completeness. -/
  | arrivalDeadline (c : CtxId)
  /-- FLIP_REQUEST (R373). FLIP in RTE_FLIP requests a Tumbler flip at RTE_FLIP_BEAT. -/
  | flipRequest (w : RegWr)
  /-- TABLE_ENTRY_WRITE (R372). A write of RTE_TBL_DATA writes the selected shadow entry, or is refused and counted in TBLREJ. -/
  | tableEntryWrite (w : RegWr)
  /-- PACKET_SEND (R381). The router accepts a packet from an attachment, numbers it in its flow and sends it under credits, rate and the window. -/
  | packetSend (att : Fin 11)
  /-- PACKET_FORWARD (R366). The router forwards an arriving packet by circuit or routing table of its Tumbler version, or delivers it locally. -/
  | packetForward (a : Arrival)
  /-- WRITE (R363). A WRITE data packet is checked, performed at its destination as a write unit and acknowledged. -/
  | write (a : Arrival)
  /-- GET_DATA (R391). A GET_DATA packet writes returned get data at the requester. -/
  | getData (a : Arrival)
  /-- SHARD (R52). A ring shard is checked for tag, source and count, written into its slot and counted. -/
  | shard (a : Arrival)
  /-- ACK (R384). An ACK advances a flow, releases acknowledged packets, relays and far accesses, and cuts the rate on marks. -/
  | ack (a : Arrival)
  /-- NACK (R385). A NACK makes the source send the flow again go-back-N from the named number. -/
  | nack (a : Arrival)
  /-- RESET (R387). A RESET fails every unacknowledged packet of the flow with FLOW_LOST and reopens it. -/
  | reset (a : Arrival)
  /-- REFUSE (R389). A REFUSE completes the refused transfer or access at the source with the matching status or thread fault. -/
  | refuse (a : Arrival)
  /-- SHORT_PACKET (R231). A SHORT control packet starts a short write or AMO at the destination. -/
  | shortPacket (a : Arrival)
  /-- SHORT_CONT (R231). A SHORT_CONT packet carries further bytes; the short write is performed whole after its last piece. -/
  | shortCont (a : Arrival)
  /-- AMO_RESP (R391). An AMO_RESP returns the old value of a far AMO to the requesting thread. -/
  | amoResp (a : Arrival)
  /-- GET_REQ (R391). A GET_REQ makes the home answer with GET_DATA packets and short writes, or refuse whole. -/
  | getReq (a : Arrival)
  /-- RING_HALT (R70). A RING_HALT records UPSTREAM_HALT, halts the context at its next tick and is forwarded once to the other ring neighbours. -/
  | ringHalt (a : Arrival)
  /-- POISON_MAP (R364). A POISON_MAP completes the poisoned packet before it, which is performed with its marks as one write unit. -/
  | poisonMap (a : Arrival)
  /-- LOCKSTEP (R420). A partner's LOCKSTEP digest arrives and is compared; a mismatch or HALT flag takes a LOCKSTEP overrun. -/
  | lockstep (a : Arrival)
  /-- MGMT_READ (R529). A management read from the named manager or side-band link is performed and answered with MGMT_RESP. -/
  | mgmtRead (r : MgmtRequest)
  /-- MGMT_WRITE (R529). A management write from the named manager or side-band link is performed and answered with MGMT_RESP. -/
  | mgmtWrite (r : MgmtRequest)
  /-- ACK_TIMER (R384). 1 us after the oldest unacknowledged performed packet, the receiver sends an ACK. -/
  | ackTimer (flow : FlowRef)
  /-- RTO_EXPIRY (R386). A flow without an advancing ACK within RTO resends from its oldest unacknowledged number and doubles RTO. -/
  | rtoExpiry (flow : FlowRef)
  /-- FLOW_TIMEOUT (R386). A flow without progress for FLOW_TIMEOUT fails its unacknowledged packets with FLOW_LOST and reopens. -/
  | flowTimeout (flow : FlowRef)
  /-- CONGESTION_STEP (R393). At the end of each STEP without a cut, a limited pair's rate rises by RAI. -/
  | congestionStep (flow : FlowRef)
  /-- FRAME_RECEIVE (R466). An Ethernet frame arrives and is filtered, steered and placed, dropped, or held under PFC. -/
  | frameReceive (f : EthFrame)
  /-- PAUSE_FRAME_RECEIVE (R478). A received PAUSE or PFC frame stops or resumes the priorities it names on its sub-port. -/
  | pauseFrameReceive (f : EthFrame)
  /-- PAUSE_EXPIRY (R478). The pause time of a stopped priority runs out and it resumes. -/
  | pauseExpiry (sub : SubPort) (pri : Fin 8)
  /-- PFC_REFRESH (R477). Every 32,768 quanta above XON the port refreshes its pause or PFC frame. -/
  | pfcRefresh (sub : SubPort)
  /-- FRAME_TRANSMIT (R476). A sub-port takes a whole ready frame from a queue by round robin, sends it and writes back its descriptors. -/
  | frameTransmit (sub : SubPort) (data : Bytes)
  /-- ETH_DOORBELL (R471). An Ethernet queue doorbell posts descriptors, releasing frames held for buffers. -/
  | ethDoorbell (fn : FnId) (queue : Fin 64) (value : W64) (descs : List Bytes)
  /-- SUB_PORT_LINK (R465). An Ethernet sub-port link comes up or goes down, ending a frame in transmission with LINK_DOWN. -/
  | subPortLink (sub : SubPort) (up : Bool)
  /-- ETH_PORT_ENABLE (R482). Setting EN of an Ethernet port checks its configuration, or leaves EN at 0 with STATUS set. -/
  | ethPortEnable (port : Fin 2) (w : RegWr)
  /-- ETH_QUEUE_CONFIG (R470). A write of ETH_QCFG sets a queue's ring, owner, slot and kind under the ownership rules. -/
  | ethQueueConfig (fn : FnId) (queue : Fin 64) (w : RegWr)
  /-- ETH_RULE_WRITE (R482). A write of ETH_RULE_DATA sets the selected steering rule, or is refused when QUEUE + 2^SPAN exceeds 16. -/
  | ethRuleWrite (w : RegWr)
  /-- WATERMARK_ARM (R479). Setting ARMED in ETH_QWM arms the notice, posting one at once if LEVEL is already at or below WM. -/
  | watermarkArm (fn : FnId) (queue : Fin 64) (w : RegWr)
  /-- BASE_INSTRUCTION (R147). A thread executes an RV64I, M, Zba or Zbb instruction, or raises ILLEGAL for an unimplemented one. -/
  | baseInstruction (th : ThreadRef) (word : W32)
  /-- THREAD_LOAD (R149). A thread load is checked for alignment, translated and issued to its home. -/
  | threadLoad (th : ThreadRef) (op : LoadOp)
  /-- LOAD_DATA_RETURN (R157). The data of a thread load returns and the thread resumes, or takes a fault. -/
  | loadDataReturn (th : ThreadRef) (ret : LoadReturn)
  /-- THREAD_STORE (R149). A thread store is checked, translated and performed near or sent far by the short-write path. -/
  | threadStore (th : ThreadRef) (op : StoreOp)
  /-- AMO (R308). A thread AMO is performed locally or at the home of a far address. -/
  | amo (th : ThreadRef) (op : AmoOp)
  /-- LR (R149). LR reserves the 64-byte line in the die's SRAM. -/
  | lr (th : ThreadRef) (op : LrScOp)
  /-- SC (R149). SC stores only while the thread's reservation holds, and ends it. -/
  | sc (th : ThreadRef) (op : LrScOp)
  /-- FENCE (R282). FENCE or FENCE.TSO orders the thread's accesses under RVWMO. -/
  | fence (th : ThreadRef) (op : FenceOp)
  /-- FENCE_I (R150). FENCE.I makes later fetches see visible writes to code pages. -/
  | fenceI (th : ThreadRef)
  /-- ECALL (R148). ECALL raises a thread fault. -/
  | ecall (th : ThreadRef)
  /-- EBREAK (R148). EBREAK stops the thread for the debugger, or faults with BREAK when none is attached. -/
  | ebreak (th : ThreadRef) (compressed : Bool)
  /-- CSR_INSTRUCTION (R167). A CSR instruction reads or writes a core CSR by its access type. -/
  | csrInstruction (th : ThreadRef) (op : CsrOp)
  /-- MQCTL_RESTART (R167). A RESTART bit of MQCTL restarts a stopped queue and clears its failure record. -/
  | mqctlRestart (th : ThreadRef) (bits : BitVec 7)
  /-- MQCTL_CLEAR (R124). A CLEAR bit of MQCTL empties a queue, aborting its commands, and leaves it running. -/
  | mqctlClear (th : ThreadRef) (bits : BitVec 7)
  /-- MISSUE (R160). MISSUE reads a 32-byte command from core memory and issues it to a queue, returning its accept number. -/
  | missue (th : ThreadRef) (op : CustOp)
  /-- QUEUE_ACCEPT (R119). A stalled MISSUE is accepted when an entry of its queue frees or its grant comes. -/
  | queueAccept (q : QueueRef)
  /-- MWAIT (R161). MWAIT tests a sync object or arrival counter and returns or puts the thread in WAIT. -/
  | mwait (th : ThreadRef) (op : CustOp)
  /-- MWAIT_WAKE (R271). An update makes a waiting thread's condition true and it becomes READY with that value. -/
  | mwaitWake (th : ThreadRef)
  /-- MWTMO_EXPIRY (R161). MWTMO ends an MWAIT or BEAT.WAIT in a context that is not beat-locked and sets TMO. -/
  | mwtmoExpiry (th : ThreadRef)
  /-- MPOLL (R161). MPOLL returns an object's value without waiting. -/
  | mpoll (th : ThreadRef) (op : CustOp)
  /-- MSIG (R269). MSIG adds an increment to a sync object, or arrives at a Latch, faulting on range or privilege. -/
  | msig (th : ThreadRef) (op : CustOp)
  /-- MFENCE_U (R164). MFENCE.U holds the thread until commands of the named queues have completed. -/
  | mfenceU (th : ThreadRef) (op : CustOp)
  /-- MFENCE_R (R164). MFENCE.R holds the thread until its far writes are acknowledged. -/
  | mfenceR (th : ThreadRef) (op : CustOp)
  /-- MFENCE_G (R164). MFENCE.G holds the thread until its far writes are acknowledged and its gets have returned. -/
  | mfenceG (th : ThreadRef) (op : CustOp)
  /-- FENCE_COMPLETE (R164). The condition of a pending fence holds and the thread proceeds. -/
  | fenceComplete (th : ThreadRef)
  /-- RDBEAT (R163). RDBEAT returns the domain beat, relative beat or cycles since the tick. -/
  | rdbeat (th : ThreadRef) (op : CustOp)
  /-- BEAT_WAIT (R162). BEAT.WAIT places the thread in BEAT until the next tick. -/
  | beatWait (th : ThreadRef) (op : CustOp)
  /-- BEAT_WAIT_RELEASE (R157). After a tick a thread in BEAT becomes READY with the new beat in rd. -/
  | beatWaitRelease (th : ThreadRef)
  /-- MEXIT (R153). MEXIT ends the thread in DONE. -/
  | mexit (th : ThreadRef) (op : CustOp)
  /-- LOADB (R128). Engine command that loads a stationary tile slot from the operand buffer. -/
  | loadb (e : EngineRef)
  /-- MMA (R129). Engine command that multiplies activation rows by a loaded tile into accumulator rows. -/
  | mma (e : EngineRef)
  /-- MMAT (R130). Engine command that multiplies activation rows by a T2 tile. -/
  | mmat (e : EngineRef)
  /-- EPI (R132). Engine command that writes an epilogue slot. -/
  | epi (e : EngineRef)
  /-- DRAIN (R133). Engine command that reads accumulator rows through the epilogue into memory. -/
  | drain (e : EngineRef)
  /-- ZERO (R131). Engine command that clears accumulator rows. -/
  | zero (e : EngineRef)
  /-- CVT (R134). Engine command that converts elements in the operand buffer. -/
  | cvt (e : EngineRef)
  /-- VEW (R140). Vector command that applies an elementwise sub-operation. -/
  | vew (u : CoreRef)
  /-- VRED (R142). Vector command that reduces rows by a fixed tree. -/
  | vred (u : CoreRef)
  /-- VCVT (R143). Vector command that converts elements in core memory. -/
  | vcvt (u : CoreRef)
  /-- VRAND (R144). Vector command that writes random values from the lane generators. -/
  | vrand (u : CoreRef)
  /-- VSEED (R145). Vector command that reseeds lane or engine column generators. -/
  | vseed (u : CoreRef)
  /-- COMMAND_COMPLETION (R122). An engine or vector command finishes or fails, writing its completion word, signalling or stopping its queue. -/
  | commandCompletion (q : QueueRef)
  /-- XFER (R213). Stream command that starts a linear transfer, multicast or not. -/
  | xfer (u : StreamRef)
  /-- CHAIN (R214). Stream command that runs a chain of descriptors. -/
  | chain (u : StreamRef)
  /-- SHORT (R215). Stream command that sends a short write of up to 256 bytes. -/
  | short (u : StreamRef)
  /-- SDEP (R216). Stream command that places a dependence marker in the engine's stream. -/
  | sdep (u : StreamRef)
  /-- HPUSH (R228). Stream command that pushes a handle onto a handle queue. -/
  | hpush (u : StreamRef)
  /-- SSAVE (R216). Stream command that sets the save area and FSYNC. -/
  | ssave (u : StreamRef)
  /-- LINEAR (R218). Descriptor start of a linear copy, with any conversion or Bramble step. -/
  | linear (u : StreamRef)
  /-- STRIDED (R218). Descriptor start of a two-level strided copy. -/
  | strided (u : StreamRef)
  /-- GATHER (R218). Descriptor start of a gather by an index stream. -/
  | gather (u : StreamRef)
  /-- SCATTER (R218). Descriptor start of a scatter by an index stream. -/
  | scatter (u : StreamRef)
  /-- TRANSPOSE (R218). Descriptor start of transposed reads of a tile region. -/
  | transpose (u : StreamRef)
  /-- MARKER_RELEASE (R226). A pending dependence marker's earlier transfers complete and its condition holds, letting the engine start the next transfer. -/
  | markerRelease (u : StreamRef)
  /-- SEGMENT_ISSUE (R223). A stream engine translates and issues the next segment or short write of a transfer in flight. -/
  | segmentIssue (u : StreamRef) (slot : Fin 6)
  /-- TRANSFER_COMPLETION (R224). A transfer's writes are acknowledged; it completes and signals in start order and pushes its handles. -/
  | transferCompletion (u : StreamRef)
  /-- STREAM_STOP (R237). After a fault its issued segments complete, the position record is written, FSYNC signalled and STREAM_FAULT or PIN_FAULT reported. -/
  | streamStop (u : StreamRef)
  /-- WRITE_UNIT_ARRIVAL (R195). A write unit arriving through the die network is written and counted against its region and slot. -/
  | writeUnitArrival (id : Nat)
  /-- SLOT_FULL (R195). A complete slot becomes FULL in slot order and HEAD and RING_PROD advance. -/
  | slotFull (u : CoreRef) (region : Fin 64)
  /-- REGION_ENABLE (R192). A store setting VALID of a region descriptor checks and enables the region. -/
  | regionEnable (th : ThreadRef) (st : RegionStore)
  /-- REGION_DISABLE (R192). A store clearing VALID disables the region and releases blocked accesses. -/
  | regionDisable (th : ThreadRef) (st : RegionStore)
  /-- PUSH (R193). CTRL PUSH makes the head slot FULL and advances HEAD. -/
  | push (th : ThreadRef) (region : Fin 64)
  /-- POP (R193). CTRL POP makes the tail slot EMPTY, zeroes its count and advances TAIL. -/
  | pop (th : ThreadRef) (region : Fin 64)
  /-- TAG_WAKE (R194). A tag change lets an access blocked on a full or empty slot request again. -/
  | tagWake (th : ThreadRef)
  /-- UNINIT_CLEAR (R200). A store to the UNINIT word clears SEEN and MULTI with UNIT and ADDR. -/
  | uninitClear (u : CoreRef) (value : W64)
  /-- WINDOW_AMOADD (R268). An AMOADD.D to a die's sync window adds to an object, or is refused. -/
  | windowAmoadd (a : WindowAmo)
  /-- INVALIDATION (R306). A store to the invalidation word removes translations from every cache of the module. -/
  | invalidation (c : CtxId) (value : W64)
  /-- LATCH_RELEASE (R274). A die sees its Latch line high, advances VALUE, clears ARRIVED and drives the line low. -/
  | latchRelease (die : DieId) (latch : Fin 8)
  /-- SRAM_SCRUB (R202). A bank scrubs one line in a cycle no port uses, correcting or poisoning it. -/
  | sramScrub (line : Nat) (found : EccFinding)
  /-- PATROL_SCRUB (R318). A memory controller scrubs an off-die line in an unused cycle. -/
  | patrolScrub (line : Nat) (found : EccFinding)
  /-- BACKGROUND_FILL (R300). The background fill clears a FREE_DIRTY unit and makes it FREE_CLEAN. -/
  | backgroundFill (unit : Nat)
  /-- PRG_SRAM_ECC_CLR (R205). CLR of PRG_SRAM_ECC zeroes its counters and last unit. -/
  | prgSramEccClr (die : DieId)
  /-- STR_ERR_CLR (R243). CLR of STR_ERR zeroes its counters. -/
  | strErrClr (die : DieId)
  /-- STR_BRAM_CLR (R263). CLR of STR_BRAM zeroes its fields. -/
  | strBramClr (die : DieId)
  /-- SYN_STAT_CLR (R291). CLR of SYN_STAT zeroes FAULTS. -/
  | synStatClr (die : DieId)
  /-- MEM_ECC_CLR (R320). CLR of MEM_ECC zeroes its counters and last error fields. -/
  | memEccClr (die : DieId)
  /-- LNK_QUAD_CLR (R355). CLR of LNK_QUADq zeroes its symbol and set counters. -/
  | lnkQuadClr (quad : QuadId)
  /-- RTE_PVIOL_CLR (R398). CLR of RTE_PVIOLk zeroes its count and last fields. -/
  | rtePviolClr (k : Fin 13)
  /-- BRY_OVR_CNT_CLR (R67). CLR of BRY_OVR_CNTc zeroes the count of one cause. -/
  | bryOvrCntClr (c : Fin 9)
  /-- ETH_RX_ERR_CLR (R482). CLR of ETH_RX_ERRp zeroes every field. -/
  | ethRxErrClr (port : Fin 2)
  /-- ETH_RX_DROP_CLR (R482). CLR of ETH_RX_DROPp zeroes every field. -/
  | ethRxDropClr (port : Fin 2)
  /-- ETH_TX_ERR_CLR (R482). CLR of ETH_TX_ERRp zeroes every field. -/
  | ethTxErrClr (port : Fin 2)
  /-- ETH_PAUSE_CLR (R482). CLR of ETH_PAUSEp zeroes RX_PAUSE and TX_PAUSE. -/
  | ethPauseClr (port : Fin 2)
  /-- SHORT_WRITE_ACKNOWLEDGEMENT (R230). The acknowledgement, AMO result or refusal of a short write, far store or remote AMO performed inside the module reaches the issuing core, freeing its short-write slot or raising the thread fault of R165. -/
  | shortWriteAcknowledgement (u : CoreRef) (id : Nat)
  /-- HOST_COMMAND_COMPLETE (R446). A long host command such as COPY, HOST_COPY, the segment copy of LOAD or an allocation that fills FREE_DIRTY units finishes its work and posts its completion. -/
  | hostCommandComplete (c : Option CtxId) (tag : W64)
  /-- VF_ENABLE (R460). The host enables SR-IOV or raises NumVFs, and the virtual functions with their BARs come into existence. -/
  | vfEnable (numVfs : FnId)
  /-- ALARM_SENSOR_RELEASE (R501). A tripped Keeper sensor returns within its limits and its ACTIVE bit clears, so that a later CLEAR can end CLAMP. -/
  | alarmSensorRelease (sensor : Fin 5)
  /-- THERMAL_LIMIT_RELEASE (R544). Every sensor of a die held under its thermal limit reads below 100 C, and the limit on its duty is lifted. -/
  | thermalLimitRelease (die : DieId)
  /-- HOST_LINK_RESET (R513). PERST#, hot reset or link down resets the host interface as a PF function-level reset and retrains the link. -/
  | hostLinkReset
  /-- NONCE_READ (R502). A read of KEEP_DBG_NONCE0 makes a new nonce and invalidates the old one. -/
  | nonceRead
  /-- LOCKOUT_EXPIRY (R503). The 1 s nonce-read block after a failed token ends. -/
  | lockoutExpiry
  /-- VSB12_PRESENT (R507). 12 V standby becomes present; the always-on region powers up, the Keeper checks KEEPER and MMC and the module enters STANDBY. -/
  | vsb12Present
  /-- VSB12_LOST (R507). 12 V standby is lost; the module goes OFF and the key store is lost. -/
  | vsb12Lost
  /-- VIN48_PRESENT (R555). VIN48 comes within range with SEAT closed; the module closes its input switch and cold-starts when AUTO is set. -/
  | vin48Present
  /-- VIN48_LOST (R507). A VIN48 loss condition lowers every domain and returns the module to STANDBY, losing every context. -/
  | vin48Lost
  /-- VIN48_OVERVOLTAGE (R534). VIN48 above 63 V opens the input switch until it returns within range. -/
  | vin48Overvoltage
  /-- SEAT_OPEN (R556). The SEAT loop opens; the module opens its VIN48 switch within 10 us and takes 48 V lost. -/
  | seatOpen
  /-- RESET_PIN (R553). SB-12 held low for 10 ms or longer requests a cold module reset. -/
  | resetPin
  /-- START_DEADLINE (R511). 120 s elapse after a start began without READY, which fails the start. -/
  | startDeadline
  /-- START_RETRY (R507). 1 s after a failed start, the next cold start begins. -/
  | startRetry
  /-- SWITCH_COMPLETE (R524). A live firmware switch completes and SWITCHING clears. -/
  | switchComplete
  /-- HOLDOVER_TIMEOUT (R407). No complete exchange for 64 us sends a LOCKED child into HOLDOVER. -/
  | holdoverTimeout
  /-- BEAT_TICK (R404). Domain time reaches the next tick; the master beat counter advances and the tick reaches every compute die. -/
  | beatTick
  /-- TUMBLER_FLIP (R373). At the flip beat the module checks the shadow tables, brings them into force and admits ARMED ports. -/
  | tumblerFlip
  /-- PENDING_CLEAR (R373). After DRAIN and 10 us without old-version packets, PENDING clears and the old version becomes the shadow. -/
  | pendingClear
  /-- TABLE_ENTRY_READ (R398). A read of RTE_TBL_DATA returns the selected entry and advances INDEX when INC is set. -/
  | tableEntryRead
  /-- LNK_ERR_CLR (R355). CLR of LNK_ERR zeroes every field. -/
  | lnkErrClr
  /-- RTE_ERR_CLR (R398). CLR of RTE_ERR zeroes every field. -/
  | rteErrClr
  /-- RTE_REL_CLR (R398). CLR of RTE_REL zeroes every field. -/
  | rteRelClr
  /-- BRY_LS_STAT_CLR (R423). CLR of BRY_LS_STAT zeroes its counters and last unit. -/
  | bryLsStatClr
  /-- MMC_CFG_REJ_CLR (R533). CLR of MMC_CFG_REJ zeroes COUNT, LAST_SPACE and LAST_OFFSET. -/
  | mmcCfgRejClr
  deriving DecidableEq, Repr

end Sys2Proof
end

