-- ==== Sys2Proof/Machine/Bits.lean ====
section
/-! DEFINITION. Bit fields, byte order and small list helpers: every multi-byte field of the manual is
little-endian (R11, R431), and every bit range [msb:lsb] counts from bit 0 (R8). -/

namespace Sys2Proof.Machine

/-- Bits [lo + w - 1 : lo] of a number (R8). -/
def field (n lo w : Nat) : Nat := (n >>> lo) % 2 ^ w

/-- Bit `i` of a number. -/
def bit (n i : Nat) : Bool := n.testBit i

/-- `n` with bits [lo + w - 1 : lo] replaced by the low `w` bits of `v`. -/
def setField (n lo w v : Nat) : Nat := n - (field n lo w) <<< lo + (v % 2 ^ w) <<< lo

/-- A Bool as a bit. -/
def b2n (b : Bool) : Nat := if b then 1 else 0

/-- Adds with saturation at `max`. -/
def satAdd (a b max : Nat) : Nat := Nat.min (a + b) max

/-- The number that bytes spell, lowest byte first. -/
def leNat : Bytes → Nat
  | [] => 0
  | b :: bs => b.toNat + 256 * leNat bs

/-- The low `n` bytes of a number, lowest first. -/
def leBytes : Nat → Nat → Bytes
  | 0, _ => []
  | n + 1, v => BitVec.ofNat 8 v :: leBytes n (v / 256)

/-- The number that bytes spell, highest byte first (network order, R466). -/
def beNat (bs : Bytes) : Nat := leNat bs.reverse

/-- `n` bytes of a record from offset `o`; bytes past the end read as zero. -/
def sub (bs : Bytes) (o n : Nat) : Bytes :=
  let s := (bs.drop o).take n
  s ++ List.replicate (n - s.length) 0

/-- The little-endian field of `n` bytes at offset `o` of a record. -/
def rd (bs : Bytes) (o n : Nat) : Nat := leNat (sub bs o n)

/-- One byte of a record. -/
def rdb (bs : Bytes) (o : Nat) : Nat := rd bs o 1

/-- A record with the bytes `v` written at offset `o` (the record keeps its length). -/
def wr (bs : Bytes) (o : Nat) (v : Bytes) : Bytes :=
  bs.take o ++ v.take (bs.length - o) ++ bs.drop (o + v.length)

/-- A record of `n` zero bytes. -/
def zeros (n : Nat) : Bytes := List.replicate n 0

/-- A number as a signed value of `w` bits. -/
def toSigned (n w : Nat) : Int :=
  let m := n % 2 ^ w
  if m < 2 ^ (w - 1) then (m : Int) else (m : Int) - 2 ^ w

/-- A signed value as `w` bits, two's complement. -/
def ofSigned (i : Int) (w : Nat) : Nat := (i % (2 ^ w : Nat)).toNat

/-- Whether `n` is a power of two. -/
def isPow2 (n : Nat) : Bool := n ≠ 0 && n = 2 ^ Nat.log2 n

/-- Rounds up to a multiple. -/
def ceilDiv (a b : Nat) : Nat := (a + b - 1) / b

/-- The bits set in the low `w` bits of a number, rising. -/
def bitsOf (n w : Nat) : List Nat := (List.range w).filter (bit n)

/-- The number whose listed bits are set. -/
def maskOf (is : List Nat) : Nat := is.foldl (fun m i => m ||| 2 ^ i) 0

/-- Cuts a list into runs of `n` (the last may be shorter); `fuel` bounds the number of runs. -/
def chunks {A : Type} (n : Nat) : Nat → List A → List (List A)
  | 0, _ => []
  | fuel + 1, xs => if xs.isEmpty then [] else xs.take n :: chunks n fuel (xs.drop n)

/-- The first element of a list that satisfies `p`, with its index. -/
def findIdx {A : Type} (p : A → Bool) (xs : List A) : Option (Nat × A) :=
  (xs.zipIdx.find? (fun e => p e.1)).map (fun e => (e.2, e.1))

end Sys2Proof.Machine
end

