-- ==== Sys2Proof/Machine/Crc.lean ====
section
/-! DEFINITION. The two cyclic redundancy checks of the manual: CRC-64 of ECMA-182, reflected (R345), and CRC-32C,
reflected (R248). -/

namespace Sys2Proof.Machine

/-- `n` bit steps of a reflected CRC. -/
def crcBits (poly : Nat) : Nat → Nat → Nat
  | 0, c => c
  | n + 1, c => crcBits poly n (if c % 2 = 1 then (c / 2) ^^^ poly else c / 2)

/-- A reflected CRC over bytes from a running value. -/
def crcRun (poly : Nat) : Bytes → Nat → Nat
  | [], c => c
  | b :: bs, c => crcRun poly bs (crcBits poly 8 (c ^^^ b.toNat))

/-- CRC-64 (R345). -/
def crc64 (bs : Bytes) : Nat := crcRun 0xC96C5795D7870F42 bs (2 ^ 64 - 1) ^^^ (2 ^ 64 - 1)

/-- CRC-32C (R248). -/
def crc32c (bs : Bytes) : Nat := crcRun 0x82F63B78 bs (2 ^ 32 - 1) ^^^ (2 ^ 32 - 1)

end Sys2Proof.Machine
end

