-- ==== Sys2Proof/Machine/RegTable.lean ====
section
/-! DEFINITION. The set-up registers (R11, R12, R562, R566): their names, their fields with bit places,
types and reset values, and the places they decode at.  The field tables are those of R67, R205, R243, R263,
R291, R320, R355, R398, R423, R462, R482, R483, R506, R533 and R557. -/

namespace Sys2Proof.Machine

/-- The set-up registers, one name for all the instances of a register (R562). -/
inductive RegName where
  /-- `BRY_OVR_LAST`, R67. -/
  | BRY_OVR_LAST
  /-- `BRY_OVR_CNT`, R67. -/
  | BRY_OVR_CNT
  /-- `PRG_MEM_MODE`, R205. -/
  | PRG_MEM_MODE
  /-- `PRG_SRAM_ECC`, R205. -/
  | PRG_SRAM_ECC
  /-- `STR_ERR`, R243. -/
  | STR_ERR
  /-- `STR_BRAM`, R263. -/
  | STR_BRAM
  /-- `SYN_STAT`, R291. -/
  | SYN_STAT
  /-- `SYN_LATCH`, R291. -/
  | SYN_LATCH
  /-- `MEM_ECC`, R320. -/
  | MEM_ECC
  /-- `MEM_FILL`, R320. -/
  | MEM_FILL
  /-- `LNK_PROFILE`, R355. -/
  | LNK_PROFILE
  /-- `LNK_PORT_MAP`, R355. -/
  | LNK_PORT_MAP
  /-- `LNK_PORT_CFG`, R355. -/
  | LNK_PORT_CFG
  /-- `LNK_PORT_STAT`, R355. -/
  | LNK_PORT_STAT
  /-- `LNK_QUAD`, R355. -/
  | LNK_QUAD
  /-- `LNK_CREDIT`, R355. -/
  | LNK_CREDIT
  /-- `LNK_ERR`, R355. -/
  | LNK_ERR
  /-- `RTE_TBL_SEL`, R398. -/
  | RTE_TBL_SEL
  /-- `RTE_TBL_DATA`, R398. -/
  | RTE_TBL_DATA
  /-- `RTE_FLIP`, R398. -/
  | RTE_FLIP
  /-- `RTE_FLIP_BEAT`, R398. -/
  | RTE_FLIP_BEAT
  /-- `RTE_TIMERS`, R398. -/
  | RTE_TIMERS
  /-- `RTE_CC`, R398. -/
  | RTE_CC
  /-- `RTE_ERR`, R398. -/
  | RTE_ERR
  /-- `RTE_REL`, R398. -/
  | RTE_REL
  /-- `RTE_PVIOL`, R398. -/
  | RTE_PVIOL
  /-- `BRY_MODULE_ID`, R423. -/
  | BRY_MODULE_ID
  /-- `BRY_SERIAL`, R423. -/
  | BRY_SERIAL
  /-- `BRY_TIME_CFG`, R423. -/
  | BRY_TIME_CFG
  /-- `BRY_TIME_STAT`, R423. -/
  | BRY_TIME_STAT
  /-- `BRY_BEAT`, R423. -/
  | BRY_BEAT
  /-- `BRY_PERIOD`, R423. -/
  | BRY_PERIOD
  /-- `BRY_PERIOD_AT`, R423. -/
  | BRY_PERIOD_AT
  /-- `BRY_NBR`, R423. -/
  | BRY_NBR
  /-- `BRY_NBR_SERIAL`, R423. -/
  | BRY_NBR_SERIAL
  /-- `BRY_LS_STAT`, R423. -/
  | BRY_LS_STAT
  /-- `HOST_SQ_CFG`, R462. -/
  | HOST_SQ_CFG
  /-- `HOST_ADM_SQ_CFG`, R462. -/
  | HOST_ADM_SQ_CFG
  /-- `HOST_CQ_CFG`, R462. -/
  | HOST_CQ_CFG
  /-- `HOST_ADM_CQ_CFG`, R462. -/
  | HOST_ADM_CQ_CFG
  /-- `HOST_CTX_STAT`, R462. -/
  | HOST_CTX_STAT
  /-- `HOST_MOD_STAT`, R462. -/
  | HOST_MOD_STAT
  /-- `HOST_CTX`, R462. -/
  | HOST_CTX
  /-- `ETH_PORT_CFG`, R482, R483. -/
  | ETH_PORT_CFG
  /-- `ETH_PFC`, R482, R483. -/
  | ETH_PFC
  /-- `ETH_UCAST`, R482, R483. -/
  | ETH_UCAST
  /-- `ETH_RULE_SEL`, R482, R483. -/
  | ETH_RULE_SEL
  /-- `ETH_RULE_DATA`, R482, R483. -/
  | ETH_RULE_DATA
  /-- `ETH_RX_ERR`, R482, R483. -/
  | ETH_RX_ERR
  /-- `ETH_RX_DROP`, R482, R483. -/
  | ETH_RX_DROP
  /-- `ETH_TX_ERR`, R482, R483. -/
  | ETH_TX_ERR
  /-- `ETH_PAUSE`, R482, R483. -/
  | ETH_PAUSE
  /-- `ETH_QCFG`, R482, R483. -/
  | ETH_QCFG
  /-- `ETH_QWM`, R482, R483. -/
  | ETH_QWM
  /-- `ETH_QSTAT`, R482, R483. -/
  | ETH_QSTAT
  /-- `KEEP_STAT`, R506. -/
  | KEEP_STAT
  /-- `KEEP_BOOT`, R506. -/
  | KEEP_BOOT
  /-- `KEEP_SVN`, R506. -/
  | KEEP_SVN
  /-- `KEEP_ALARM_CFG`, R506. -/
  | KEEP_ALARM_CFG
  /-- `KEEP_ALARM`, R506. -/
  | KEEP_ALARM
  /-- `KEEP_DBG_NONCE`, R506. -/
  | KEEP_DBG_NONCE
  /-- `KEEP_DBG_TOKEN`, R506. -/
  | KEEP_DBG_TOKEN
  /-- `KEEP_DBG_CTL`, R506. -/
  | KEEP_DBG_CTL
  /-- `MMC_RESET`, R533. -/
  | MMC_RESET
  /-- `MMC_UNIT_CMD`, R533. -/
  | MMC_UNIT_CMD
  /-- `MMC_UNIT_STAT`, R533. -/
  | MMC_UNIT_STAT
  /-- `MMC_FW`, R533. -/
  | MMC_FW
  /-- `MMC_FW_DATA`, R533. -/
  | MMC_FW_DATA
  /-- `MMC_LOG_SEL`, R533. -/
  | MMC_LOG_SEL
  /-- `MMC_LOG_DATA`, R533. -/
  | MMC_LOG_DATA
  /-- `MMC_CFG_REJ`, R533. -/
  | MMC_CFG_REJ
  /-- `MMC_MGR`, R533. -/
  | MMC_MGR
  /-- `MMC_TRACE`, R533. -/
  | MMC_TRACE
  /-- `PWR_IN`, R557. -/
  | PWR_IN
  /-- `PWR_CAP`, R557. -/
  | PWR_CAP
  /-- `PWR_STAT`, R557. -/
  | PWR_STAT
  /-- `PWR_DOM_SEL`, R557. -/
  | PWR_DOM_SEL
  /-- `PWR_DOM_STAT`, R557. -/
  | PWR_DOM_STAT
  /-- `PWR_THERM`, R557. -/
  | PWR_THERM
  /-- `PWR_SB`, R557. -/
  | PWR_SB
  deriving DecidableEq, Repr

/-- The types of a field (R12). -/
inductive FieldType where
  /-- Reads and writes as stored. -/
  | rw
  /-- Written by the hardware alone. -/
  | ro
  /-- A written 1 clears the bit. -/
  | rw1c
  /-- Reads as zero; a write acts. -/
  | wo
  /-- Writable until the owning block's set-up is committed. -/
  | rwl
  deriving DecidableEq, Repr

/-- One field of a set-up register: its register, lowest bit, width, type and reset value. -/
structure Fld where
  /-- The register the field belongs to. -/
  reg : RegName
  /-- Its lowest bit. -/
  lo : Nat
  /-- Its width in bits. -/
  width : Nat
  /-- Its type (R12). -/
  type : FieldType
  /-- Its reset value (R11). -/
  reset : Nat
  deriving DecidableEq, Repr

/-! ### BRY_OVR_LAST (R67) -/
/-- `BEAT`, bits [55:0]. Bits [55:0] of BEAT of the last overrun record -/
def BRY_OVR_LAST.BEAT : Fld := ⟨.BRY_OVR_LAST, 0, 56, .ro, 0x0⟩
/-- `CAUSE`, bits [59:56]. Its cause code (R65, R420) -/
def BRY_OVR_LAST.CAUSE : Fld := ⟨.BRY_OVR_LAST, 56, 4, .ro, 0x0⟩

/-! ### BRY_OVR_CNT (R67) -/
/-- `COUNT`, bits [47:0]. Overrun records of cause c, saturating at 0xFFFF_FFFF_FFFF -/
def BRY_OVR_CNT.COUNT : Fld := ⟨.BRY_OVR_CNT, 0, 48, .ro, 0x0⟩
/-- `CLR`, bits [63]. 1 sets COUNT to zero -/
def BRY_OVR_CNT.CLR : Fld := ⟨.BRY_OVR_CNT, 63, 1, .wo, 0x0⟩

/-! ### PRG_MEM_MODE (R205) -/
/-- `HIER`, bits [1:0]. Hierarchy mode in force (R170) -/
def PRG_MEM_MODE.HIER : Fld := ⟨.PRG_MEM_MODE, 0, 2, .ro, 0x0⟩
/-- `ARB`, bits [3:2]. Arbitration mode in force -/
def PRG_MEM_MODE.ARB : Fld := ⟨.PRG_MEM_MODE, 2, 2, .ro, 0x0⟩
/-- `LATCOMPAT`, bits [4]. Compatibility latency in force -/
def PRG_MEM_MODE.LATCOMPAT : Fld := ⟨.PRG_MEM_MODE, 4, 1, .ro, 0x0⟩
/-- `INFORCE`, bits [5]. 1 while any context holds a core of the die (R171) -/
def PRG_MEM_MODE.INFORCE : Fld := ⟨.PRG_MEM_MODE, 5, 1, .ro, 0x0⟩

/-! ### PRG_SRAM_ECC (R205) -/
/-- `CORRECTED`, bits [23:0]. Corrected line errors on the die, saturating at 0xFF_FFFF -/
def PRG_SRAM_ECC.CORRECTED : Fld := ⟨.PRG_SRAM_ECC, 0, 24, .ro, 0x0⟩
/-- `UNCORRECTED`, bits [39:24]. Uncorrectable line errors, saturating at 0xFFFF -/
def PRG_SRAM_ECC.UNCORRECTED : Fld := ⟨.PRG_SRAM_ECC, 24, 16, .ro, 0x0⟩
/-- `LAST_UNIT`, bits [55:40]. Unit code (R37) of the SRAM of the last uncorrectable error -/
def PRG_SRAM_ECC.LAST_UNIT : Fld := ⟨.PRG_SRAM_ECC, 40, 16, .ro, 0x0⟩
/-- `UE`, bits [56]. An uncorrectable error since the last clear -/
def PRG_SRAM_ECC.UE : Fld := ⟨.PRG_SRAM_ECC, 56, 1, .rw1c, 0x0⟩
/-- `CLR`, bits [57]. 1 sets CORRECTED, UNCORRECTED and LAST_UNIT to zero -/
def PRG_SRAM_ECC.CLR : Fld := ⟨.PRG_SRAM_ECC, 57, 1, .wo, 0x0⟩

/-! ### STR_ERR (R243) -/
/-- `ACCESS`, bits [15:0]. Write units refused with ACCESS (R174), saturating at 0xFFFF -/
def STR_ERR.ACCESS : Fld := ⟨.STR_ERR, 0, 16, .ro, 0x0⟩
/-- `ADDR`, bits [31:16]. Write units refused with BAD_ADDR, such as a span of two slots (R195), saturating at 0xFFFF -/
def STR_ERR.ADDR : Fld := ⟨.STR_ERR, 16, 16, .ro, 0x0⟩
/-- `PROT`, bits [47:32]. Write units refused with PROTECTION (R196), saturating at 0xFFFF -/
def STR_ERR.PROT : Fld := ⟨.STR_ERR, 32, 16, .ro, 0x0⟩
/-- `FAULT`, bits [62:48]. Stops with FAULTED or PIN_FAULT on the die's stream engines, saturating at 0x7FFF -/
def STR_ERR.FAULT : Fld := ⟨.STR_ERR, 48, 15, .ro, 0x0⟩
/-- `CLR`, bits [63]. 1 sets ACCESS, ADDR, PROT and FAULT to zero -/
def STR_ERR.CLR : Fld := ⟨.STR_ERR, 63, 1, .wo, 0x0⟩

/-! ### STR_BRAM (R263) -/
/-- `FAILS`, bits [15:0]. Transfers stopped with BRAMBLE on the die, saturating at 0xFFFF -/
def STR_BRAM.FAILS : Fld := ⟨.STR_BRAM, 0, 16, .ro, 0x0⟩
/-- `LAST_CHECK`, bits [23:16]. Check code (R254) of the last failure -/
def STR_BRAM.LAST_CHECK : Fld := ⟨.STR_BRAM, 16, 8, .ro, 0x0⟩
/-- `LAST_UNIT`, bits [39:24]. Unit code (R37) of the stream engine of the last failure -/
def STR_BRAM.LAST_UNIT : Fld := ⟨.STR_BRAM, 24, 16, .ro, 0x0⟩
/-- `CRC_FAILS`, bits [55:40]. Failures with code 0x03 or 0x08, saturating at 0xFFFF -/
def STR_BRAM.CRC_FAILS : Fld := ⟨.STR_BRAM, 40, 16, .ro, 0x0⟩
/-- `CLR`, bits [63]. 1 sets FAILS, LAST_CHECK, LAST_UNIT and CRC_FAILS to zero -/
def STR_BRAM.CLR : Fld := ⟨.STR_BRAM, 63, 1, .wo, 0x0⟩

/-! ### SYN_STAT (R291) -/
/-- `FREE`, bits [16:0]. Free physical sync objects on the die -/
def SYN_STAT.FREE : Fld := ⟨.SYN_STAT, 0, 17, .ro, 0x10000⟩
/-- `FAULTS`, bits [47:32]. Counter faults on the die (R270), saturating at 0xFFFF -/
def SYN_STAT.FAULTS : Fld := ⟨.SYN_STAT, 32, 16, .ro, 0x0⟩
/-- `CLR`, bits [63]. 1 sets FAULTS to zero -/
def SYN_STAT.CLR : Fld := ⟨.SYN_STAT, 63, 1, .wo, 0x0⟩

/-! ### SYN_LATCH (R291) -/

/-! ### MEM_ECC (R320) -/
/-- `HBM_CORR`, bits [15:0]. Corrected line errors in the die's HBM stack, saturating at 0xFFFF -/
def MEM_ECC.HBM_CORR : Fld := ⟨.MEM_ECC, 0, 16, .ro, 0x0⟩
/-- `CAP_CORR`, bits [31:16]. Corrected line errors in the die's two capacity devices, saturating at 0xFFFF -/
def MEM_ECC.CAP_CORR : Fld := ⟨.MEM_ECC, 16, 16, .ro, 0x0⟩
/-- `UNCORR`, bits [43:32]. Uncorrectable line errors, from accesses and scrub, saturating at 0xFFF -/
def MEM_ECC.UNCORR : Fld := ⟨.MEM_ECC, 32, 12, .ro, 0x0⟩
/-- `LAST_UNIT`, bits [59:44]. Unit code (R37) of the controller or channel of the last uncorrectable error -/
def MEM_ECC.LAST_UNIT : Fld := ⟨.MEM_ECC, 44, 16, .ro, 0x0⟩
/-- `LAST_CLASS`, bits [60]. Class of that line: 0 activation, 1 weight -/
def MEM_ECC.LAST_CLASS : Fld := ⟨.MEM_ECC, 60, 1, .ro, 0x0⟩
/-- `UE`, bits [61]. An uncorrectable error since the last clear -/
def MEM_ECC.UE : Fld := ⟨.MEM_ECC, 61, 1, .rw1c, 0x0⟩
/-- `CLR`, bits [62]. 1 sets HBM_CORR, CAP_CORR, UNCORR, LAST_UNIT and LAST_CLASS to zero -/
def MEM_ECC.CLR : Fld := ⟨.MEM_ECC, 62, 1, .wo, 0x0⟩

/-! ### MEM_FILL (R320) -/
/-- `DIRTY`, bits [17:0]. Granules of the die's memory in FREE_DIRTY -/
def MEM_FILL.DIRTY : Fld := ⟨.MEM_FILL, 0, 18, .ro, 0x0⟩
/-- `CLEAN`, bits [35:18]. Granules of the die's memory in FREE_CLEAN -/
def MEM_FILL.CLEAN : Fld := ⟨.MEM_FILL, 18, 18, .ro, 0x0⟩
/-- `ACTIVE`, bits [36]. 1 while the background fill or an assignment fill runs on the die -/
def MEM_FILL.ACTIVE : Fld := ⟨.MEM_FILL, 36, 1, .ro, 0x0⟩

/-! ### LNK_PROFILE (R355) -/
/-- `PROFILE`, bits [2:0]. 0 DUAL_RING, 1 QUAD_RING, 2 TORUS6, 3 SWITCH12, 4 CUSTOM, 5–7 reserved -/
def LNK_PROFILE.PROFILE : Fld := ⟨.LNK_PROFILE, 0, 3, .rwl, 0x0⟩
/-- `COMMIT`, bits [3]. 1 commits the link set-up (R327) -/
def LNK_PROFILE.COMMIT : Fld := ⟨.LNK_PROFILE, 3, 1, .wo, 0x0⟩
/-- `COMMITTED`, bits [4]. 1 after a successful commit -/
def LNK_PROFILE.COMMITTED : Fld := ⟨.LNK_PROFILE, 4, 1, .ro, 0x0⟩
/-- `STATUS`, bits [7:5]. Result of the last commit (R327); 0x0 OK -/
def LNK_PROFILE.STATUS : Fld := ⟨.LNK_PROFILE, 5, 3, .ro, 0x0⟩
/-- `BADPORT`, bits [11:8]. Port of the first failing check -/
def LNK_PROFILE.BADPORT : Fld := ⟨.LNK_PROFILE, 8, 4, .ro, 0x0⟩

/-! ### LNK_PORT_MAP (R355) -/
/-- `FIRST`, bits [5:0]. First quad (R325) -/
def LNK_PORT_MAP.FIRST : Fld := ⟨.LNK_PORT_MAP, 0, 6, .rwl, 0x0⟩
/-- `COUNT`, bits [11:6]. Active quads, 0 (no port) to 36 -/
def LNK_PORT_MAP.COUNT : Fld := ⟨.LNK_PORT_MAP, 6, 6, .rwl, 0x0⟩
/-- `SPARES`, bits [13:12]. Spare quads, 0–2; 3 fails RANGE -/
def LNK_PORT_MAP.SPARES : Fld := ⟨.LNK_PORT_MAP, 12, 2, .rwl, 0x0⟩
/-- `REACH`, bits [15:14]. Reach class (R322) -/
def LNK_PORT_MAP.REACH : Fld := ⟨.LNK_PORT_MAP, 14, 2, .rwl, 0x0⟩
/-- `AUX`, bits [16]. AUX port -/
def LNK_PORT_MAP.AUX : Fld := ⟨.LNK_PORT_MAP, 16, 1, .rwl, 0x0⟩

/-! ### LNK_PORT_CFG (R355) -/
/-- `EN`, bits [0]. Port enabled; ignored for a port without quads -/
def LNK_PORT_CFG.EN : Fld := ⟨.LNK_PORT_CFG, 0, 1, .rw, 0x1⟩
/-- `HINGE0`, bits [1]. HINGE for Tumbler value 0 -/
def LNK_PORT_CFG.HINGE0 : Fld := ⟨.LNK_PORT_CFG, 1, 1, .rw, 0x0⟩
/-- `HINGE1`, bits [2]. HINGE for Tumbler value 1 -/
def LNK_PORT_CFG.HINGE1 : Fld := ⟨.LNK_PORT_CFG, 2, 1, .rw, 0x0⟩
/-- `GROUP0`, bits [6:3]. GROUP for Tumbler value 0 -/
def LNK_PORT_CFG.GROUP0 : Fld := ⟨.LNK_PORT_CFG, 3, 4, .rw, 0x0⟩
/-- `GROUP1`, bits [10:7]. GROUP for Tumbler value 1 -/
def LNK_PORT_CFG.GROUP1 : Fld := ⟨.LNK_PORT_CFG, 7, 4, .rw, 0x0⟩

/-! ### LNK_PORT_STAT (R355) -/
/-- `STATE`, bits [2:0]. 0 DOWN, 1 TRAINING, 2 DISCOVER, 3 ARMED, 4 UP, 5 DEGRADED -/
def LNK_PORT_STAT.STATE : Fld := ⟨.LNK_PORT_STAT, 0, 3, .ro, 0x0⟩
/-- `ACTIVE`, bits [8:3]. Quads carrying flits -/
def LNK_PORT_STAT.ACTIVE : Fld := ⟨.LNK_PORT_STAT, 3, 6, .ro, 0x0⟩
/-- `SPARE_USED`, bits [10:9]. Spares standing in -/
def LNK_PORT_STAT.SPARE_USED : Fld := ⟨.LNK_PORT_STAT, 9, 2, .ro, 0x0⟩
/-- `DOWNS`, bits [47:32]. Transitions to DOWN, saturating at 0xFFFF -/
def LNK_PORT_STAT.DOWNS : Fld := ⟨.LNK_PORT_STAT, 32, 16, .ro, 0x0⟩

/-! ### LNK_QUAD (R355) -/
/-- `CORR_SYM`, bits [23:0]. Corrected FEC symbols, saturating at 0xFF_FFFF -/
def LNK_QUAD.CORR_SYM : Fld := ⟨.LNK_QUAD, 0, 24, .ro, 0x0⟩
/-- `UNCORR`, bits [39:24]. Uncorrectable codeword sets, saturating at 0xFFFF -/
def LNK_QUAD.UNCORR : Fld := ⟨.LNK_QUAD, 24, 16, .ro, 0x0⟩
/-- `STATE`, bits [42:40]. 0 OFF, 1 TRAINING, 2 ACTIVE, 3 SPARE, 4 RECAL, 5 FAILED, 6 STRAY -/
def LNK_QUAD.STATE : Fld := ⟨.LNK_QUAD, 40, 3, .ro, 0x0⟩
/-- `RSTAT`, bits [45:43]. 0 none, 1 ACCEPTED, 2 BUSY, 3 LAST_QUAD, 4 CONFLICT, 5 NOT_UP, 6 FAILED -/
def LNK_QUAD.RSTAT : Fld := ⟨.LNK_QUAD, 43, 3, .ro, 0x0⟩
/-- `RECAL`, bits [46]. 1 starts R351 -/
def LNK_QUAD.RECAL : Fld := ⟨.LNK_QUAD, 46, 1, .wo, 0x0⟩
/-- `CLR`, bits [47]. 1 sets CORR_SYM and UNCORR to zero -/
def LNK_QUAD.CLR : Fld := ⟨.LNK_QUAD, 47, 1, .wo, 0x0⟩
/-- `PORT`, bits [51:48]. Owning port, or 0xF for none -/
def LNK_QUAD.PORT : Fld := ⟨.LNK_QUAD, 48, 4, .ro, 0xF⟩

/-! ### LNK_CREDIT (R355) -/
/-- `TC0`, bits [10:0]. Shared pool of TC0, flits per quad -/
def LNK_CREDIT.TC0 : Fld := ⟨.LNK_CREDIT, 0, 11, .rwl, 0x40⟩
/-- `TC1`, bits [21:11]. Shared pool of TC1 -/
def LNK_CREDIT.TC1 : Fld := ⟨.LNK_CREDIT, 11, 11, .rwl, 0x400⟩
/-- `TC2`, bits [32:22]. Shared pool of TC2 -/
def LNK_CREDIT.TC2 : Fld := ⟨.LNK_CREDIT, 22, 11, .rwl, 0x280⟩
/-- `TC3`, bits [43:33]. Shared pool of TC3 -/
def LNK_CREDIT.TC3 : Fld := ⟨.LNK_CREDIT, 33, 11, .rwl, 0x40⟩

/-! ### LNK_ERR (R355) -/
/-- `CRYPT_TAG`, bits [15:0]. Packets dropped for a failed tag (R348), saturating at 0xFFFF -/
def LNK_ERR.CRYPT_TAG : Fld := ⟨.LNK_ERR, 0, 16, .ro, 0x0⟩
/-- `NOKEY`, bits [31:16]. Packets dropped for a job without a key, saturating at 0xFFFF -/
def LNK_ERR.NOKEY : Fld := ⟨.LNK_ERR, 16, 16, .ro, 0x0⟩
/-- `DROP_DOWN`, bits [47:32]. Packets discarded at a port gone DOWN (R353), saturating at 0xFFFF -/
def LNK_ERR.DROP_DOWN : Fld := ⟨.LNK_ERR, 32, 16, .ro, 0x0⟩
/-- `FLIT_DISC`, bits [62:48]. Flits discarded under R338, saturating at 0x7FFF -/
def LNK_ERR.FLIT_DISC : Fld := ⟨.LNK_ERR, 48, 15, .ro, 0x0⟩
/-- `CLR`, bits [63]. 1 sets every field of LNK_ERR to zero -/
def LNK_ERR.CLR : Fld := ⟨.LNK_ERR, 63, 1, .wo, 0x0⟩

/-! ### RTE_TBL_SEL (R398) -/
/-- `PORT`, bits [3:0]. Input port 0–11, or 12 for the local table. Values 13–15 are reserved. -/
def RTE_TBL_SEL.PORT : Fld := ⟨.RTE_TBL_SEL, 0, 4, .rw, 0x0⟩
/-- `KIND`, bits [5:4]. 0 routing, 1 circuit, 2 partition key, 3 reserved -/
def RTE_TBL_SEL.KIND : Fld := ⟨.RTE_TBL_SEL, 4, 2, .rw, 0x0⟩
/-- `VERSION`, bits [6]. Table version; ignored for keys -/
def RTE_TBL_SEL.VERSION : Fld := ⟨.RTE_TBL_SEL, 6, 1, .rw, 0x0⟩
/-- `INC`, bits [7]. 1: INDEX advances by 1 after each access to RTE_TBL_DATA -/
def RTE_TBL_SEL.INC : Fld := ⟨.RTE_TBL_SEL, 7, 1, .rw, 0x0⟩
/-- `INDEX`, bits [23:8]. Entry: 0–65,535 routing, 0–4,095 circuit, 0–31 key -/
def RTE_TBL_SEL.INDEX : Fld := ⟨.RTE_TBL_SEL, 8, 16, .rw, 0x0⟩

/-! ### RTE_TBL_DATA (R398) -/
/-- `ENTRY`, bits [63:0]. Entry selected by RTE_TBL_SEL: R367, R368, or a key entry with VALUE [15:0], MASK [31:16], V [32] and TCMASK [36:33]. A write refused under R372, or to an INDEX out of range, leaves the entry unchanged. -/
def RTE_TBL_DATA.ENTRY : Fld := ⟨.RTE_TBL_DATA, 0, 64, .rw, 0x0⟩

/-! ### RTE_FLIP (R398) -/
/-- `INFORCE`, bits [0]. Version in force -/
def RTE_FLIP.INFORCE : Fld := ⟨.RTE_FLIP, 0, 1, .ro, 0x0⟩
/-- `FLIP`, bits [1]. 1 requests a flip (R373) -/
def RTE_FLIP.FLIP : Fld := ⟨.RTE_FLIP, 1, 1, .wo, 0x0⟩
/-- `PENDING`, bits [2]. Flip requested, or old version draining -/
def RTE_FLIP.PENDING : Fld := ⟨.RTE_FLIP, 2, 1, .ro, 0x0⟩
/-- `STATUS`, bits [5:3]. 0 OK, 1 OVERBOOK, 2 BUSY, 3 LATE -/
def RTE_FLIP.STATUS : Fld := ⟨.RTE_FLIP, 3, 3, .ro, 0x0⟩
/-- `BADPORT`, bits [9:6]. Port of an OVERBOOK failure -/
def RTE_FLIP.BADPORT : Fld := ⟨.RTE_FLIP, 6, 4, .ro, 0x0⟩
/-- `ADMIT`, bits [21:10]. Bit k: admit port k at the flip -/
def RTE_FLIP.ADMIT : Fld := ⟨.RTE_FLIP, 10, 12, .rw, 0x0⟩

/-! ### RTE_FLIP_BEAT (R398) -/
/-- `BEAT`, bits [63:0]. Domain beat of the flip. 0: at the write of FLIP. -/
def RTE_FLIP_BEAT.BEAT : Fld := ⟨.RTE_FLIP_BEAT, 0, 64, .rw, 0x0⟩

/-! ### RTE_TIMERS (R398) -/
/-- `RTO`, bits [15:0]. Initial timeout, in units of 100 ns (16 µs); 1–65,535 -/
def RTE_TIMERS.RTO : Fld := ⟨.RTE_TIMERS, 0, 16, .rw, 0xA0⟩
/-- `DRAIN`, bits [31:16]. Least drain time, in µs (200 µs) -/
def RTE_TIMERS.DRAIN : Fld := ⟨.RTE_TIMERS, 16, 16, .rw, 0xC8⟩
/-- `FLOW_TIMEOUT`, bits [47:32]. In ms (1 s); 1–65,535 -/
def RTE_TIMERS.FLOW_TIMEOUT : Fld := ⟨.RTE_TIMERS, 32, 16, .rw, 0x3E8⟩
/-- `ACK_COAL`, bits [55:48]. Packets per ACK, 1–255 -/
def RTE_TIMERS.ACK_COAL : Fld := ⟨.RTE_TIMERS, 48, 8, .rw, 0x8⟩

/-! ### RTE_CC (R398) -/
/-- `THRESH`, bits [11:0]. Marking threshold, in flits per output port and class -/
def RTE_CC.THRESH : Fld := ⟨.RTE_CC, 0, 12, .rw, 0x400⟩
/-- `BETA`, bits [15:12]. Cut by rate ÷ 2^BETA -/
def RTE_CC.BETA : Fld := ⟨.RTE_CC, 12, 4, .rw, 0x4⟩
/-- `RAI`, bits [23:16]. Recovery per STEP, in GB/s -/
def RTE_CC.RAI : Fld := ⟨.RTE_CC, 16, 8, .rw, 0x5⟩
/-- `STEP`, bits [31:24]. In µs -/
def RTE_CC.STEP : Fld := ⟨.RTE_CC, 24, 8, .rw, 0x4⟩
/-- `RMIN`, bits [39:32]. Least rate, in GB/s -/
def RTE_CC.RMIN : Fld := ⟨.RTE_CC, 32, 8, .rw, 0x1⟩
/-- `EN`, bits [40]. Rate control enabled. Marks are always set. -/
def RTE_CC.EN : Fld := ⟨.RTE_CC, 40, 1, .rw, 0x1⟩

/-! ### RTE_ERR (R398) -/
/-- `MALFORMED`, bits [15:0]. R365, saturating at 0xFFFF -/
def RTE_ERR.MALFORMED : Fld := ⟨.RTE_ERR, 0, 16, .ro, 0x0⟩
/-- `NOROUTE`, bits [31:16]. R366, saturating at 0xFFFF -/
def RTE_ERR.NOROUTE : Fld := ⟨.RTE_ERR, 16, 16, .ro, 0x0⟩
/-- `FLOWLOST`, bits [47:32]. R386, saturating at 0xFFFF -/
def RTE_ERR.FLOWLOST : Fld := ⟨.RTE_ERR, 32, 16, .ro, 0x0⟩
/-- `TBLREJ`, bits [62:48]. R372, saturating at 0x7FFF -/
def RTE_ERR.TBLREJ : Fld := ⟨.RTE_ERR, 48, 15, .ro, 0x0⟩
/-- `CLR`, bits [63]. 1 sets every field of RTE_ERR to zero -/
def RTE_ERR.CLR : Fld := ⟨.RTE_ERR, 63, 1, .wo, 0x0⟩

/-! ### RTE_REL (R398) -/
/-- `RETX`, bits [23:0]. Packets sent again, saturating at 0xFF_FFFF -/
def RTE_REL.RETX : Fld := ⟨.RTE_REL, 0, 24, .ro, 0x0⟩
/-- `NACK_TX`, bits [39:24]. NACKs sent, saturating at 0xFFFF -/
def RTE_REL.NACK_TX : Fld := ⟨.RTE_REL, 24, 16, .ro, 0x0⟩
/-- `DUP`, bits [55:40]. Duplicates dropped (R383), saturating at 0xFFFF -/
def RTE_REL.DUP : Fld := ⟨.RTE_REL, 40, 16, .ro, 0x0⟩
/-- `RESYNC`, bits [62:56]. Flows opened over existing state (R387), saturating at 0x7F -/
def RTE_REL.RESYNC : Fld := ⟨.RTE_REL, 56, 7, .ro, 0x0⟩
/-- `CLR`, bits [63]. 1 sets every field of RTE_REL to zero -/
def RTE_REL.CLR : Fld := ⟨.RTE_REL, 63, 1, .wo, 0x0⟩

/-! ### RTE_PVIOL (R398) -/
/-- `COUNT`, bits [15:0]. Violations (R380), saturating at 0xFFFF -/
def RTE_PVIOL.COUNT : Fld := ⟨.RTE_PVIOL, 0, 16, .ro, 0x0⟩
/-- `LAST_PKEY`, bits [31:16]. Key of the last violation -/
def RTE_PVIOL.LAST_PKEY : Fld := ⟨.RTE_PVIOL, 16, 16, .ro, 0x0⟩
/-- `LAST_TC`, bits [33:32]. Class of the last violation -/
def RTE_PVIOL.LAST_TC : Fld := ⟨.RTE_PVIOL, 32, 2, .ro, 0x0⟩
/-- `DIR`, bits [34]. 0 on arrival, 1 before sending -/
def RTE_PVIOL.DIR : Fld := ⟨.RTE_PVIOL, 34, 1, .ro, 0x0⟩
/-- `CLR`, bits [63]. 1 sets COUNT, LAST_PKEY, LAST_TC and DIR to zero -/
def RTE_PVIOL.CLR : Fld := ⟨.RTE_PVIOL, 63, 1, .wo, 0x0⟩

/-! ### BRY_MODULE_ID (R423) -/
/-- `ID`, bits [15:0]. Module ID; 0xFFFF means unassigned -/
def BRY_MODULE_ID.ID : Fld := ⟨.BRY_MODULE_ID, 0, 16, .rwl, 0xFFFF⟩
/-- `DOMAIN`, bits [31:16]. Domain number -/
def BRY_MODULE_ID.DOMAIN : Fld := ⟨.BRY_MODULE_ID, 16, 16, .rwl, 0x0⟩
/-- `COMMIT`, bits [32]. 1 commits ID and DOMAIN (R403) -/
def BRY_MODULE_ID.COMMIT : Fld := ⟨.BRY_MODULE_ID, 32, 1, .wo, 0x0⟩
/-- `COMMITTED`, bits [33]. 1 after a successful commit -/
def BRY_MODULE_ID.COMMITTED : Fld := ⟨.BRY_MODULE_ID, 33, 1, .ro, 0x0⟩
/-- `STATUS`, bits [34]. 1: the last commit failed with BAD_ID -/
def BRY_MODULE_ID.STATUS : Fld := ⟨.BRY_MODULE_ID, 34, 1, .ro, 0x0⟩

/-! ### BRY_SERIAL (R423) -/
/-- `SERIAL`, bits [63:0]. Module serial, loaded from the fuses during the start sequence -/
def BRY_SERIAL.SERIAL : Fld := ⟨.BRY_SERIAL, 0, 64, .ro, 0x0⟩

/-! ### BRY_TIME_CFG (R423) -/
/-- `ROOT`, bits [0]. This module is the domain root -/
def BRY_TIME_CFG.ROOT : Fld := ⟨.BRY_TIME_CFG, 0, 1, .rw, 0x0⟩
/-- `PARENT`, bits [4:1]. Port of the time parent, 0–11; 0xF for none. Ignored when ROOT is set. -/
def BRY_TIME_CFG.PARENT : Fld := ⟨.BRY_TIME_CFG, 1, 4, .rw, 0xF⟩
/-- `ASYM`, bits [20:5]. Delay to parent minus delay from parent, signed, in ps -/
def BRY_TIME_CFG.ASYM : Fld := ⟨.BRY_TIME_CFG, 5, 16, .rw, 0x0⟩

/-! ### BRY_TIME_STAT (R423) -/
/-- `STATE`, bits [1:0]. 0 FREE, 1 ACQUIRING, 2 LOCKED, 3 HOLDOVER -/
def BRY_TIME_STAT.STATE : Fld := ⟨.BRY_TIME_STAT, 0, 2, .ro, 0x0⟩
/-- `OUT_OF_BOUND`, bits [2]. R407 -/
def BRY_TIME_STAT.OUT_OF_BOUND : Fld := ⟨.BRY_TIME_STAT, 2, 1, .rw1c, 0x0⟩
/-- `PERIOD_MISMATCH`, bits [3]. R407 -/
def BRY_TIME_STAT.PERIOD_MISMATCH : Fld := ⟨.BRY_TIME_STAT, 3, 1, .rw1c, 0x0⟩
/-- `OFFSET`, bits [23:4]. Last θ, signed, in ps, saturating -/
def BRY_TIME_STAT.OFFSET : Fld := ⟨.BRY_TIME_STAT, 4, 20, .ro, 0x0⟩
/-- `DELAY`, bits [47:24]. Last delay, in ps, saturating at 0xFF_FFFF -/
def BRY_TIME_STAT.DELAY : Fld := ⟨.BRY_TIME_STAT, 24, 24, .ro, 0x0⟩
/-- `HOPS`, bits [51:48]. Distance from the root -/
def BRY_TIME_STAT.HOPS : Fld := ⟨.BRY_TIME_STAT, 48, 4, .ro, 0x0⟩

/-! ### BRY_BEAT (R423) -/
/-- `BEAT`, bits [63:0]. Master beat counter -/
def BRY_BEAT.BEAT : Fld := ⟨.BRY_BEAT, 0, 64, .ro, 0x0⟩

/-! ### BRY_PERIOD (R423) -/
/-- `PERIOD`, bits [29:0]. Period in force, in ns; 0 for none -/
def BRY_PERIOD.PERIOD : Fld := ⟨.BRY_PERIOD, 0, 30, .ro, 0x0⟩
/-- `NEXT`, bits [59:30]. Period to apply (R410) -/
def BRY_PERIOD.NEXT : Fld := ⟨.BRY_PERIOD, 30, 30, .rw, 0x0⟩
/-- `APPLY`, bits [60]. 1 requests the change -/
def BRY_PERIOD.APPLY : Fld := ⟨.BRY_PERIOD, 60, 1, .wo, 0x0⟩
/-- `STATUS`, bits [62:61]. 0 OK, 1 RANGE, 2 NOT_ROOT, 3 LATE -/
def BRY_PERIOD.STATUS : Fld := ⟨.BRY_PERIOD, 61, 2, .ro, 0x0⟩

/-! ### BRY_PERIOD_AT (R423) -/
/-- `AT_BEAT`, bits [63:0]. Beat at whose tick NEXT applies -/
def BRY_PERIOD_AT.AT_BEAT : Fld := ⟨.BRY_PERIOD_AT, 0, 64, .rw, 0x0⟩

/-! ### BRY_NBR (R423) -/
/-- `PEER_ID`, bits [15:0]. Neighbour's MODULE_ID -/
def BRY_NBR.PEER_ID : Fld := ⟨.BRY_NBR, 0, 16, .ro, 0x0⟩
/-- `PEER_PORT`, bits [19:16]. Neighbour's port; 0xF for no entry -/
def BRY_NBR.PEER_PORT : Fld := ⟨.BRY_NBR, 16, 4, .ro, 0xF⟩
/-- `PEER_COUNT`, bits [25:20]. Neighbour's COUNT -/
def BRY_NBR.PEER_COUNT : Fld := ⟨.BRY_NBR, 20, 6, .ro, 0x0⟩
/-- `PEER_PROFILE`, bits [28:26]. Neighbour's PROFILE -/
def BRY_NBR.PEER_PROFILE : Fld := ⟨.BRY_NBR, 26, 3, .ro, 0x0⟩
/-- `VALID`, bits [29]. The entry holds a neighbour -/
def BRY_NBR.VALID : Fld := ⟨.BRY_NBR, 29, 1, .ro, 0x0⟩
/-- `QMISMATCH`, bits [30]. R402 -/
def BRY_NBR.QMISMATCH : Fld := ⟨.BRY_NBR, 30, 1, .ro, 0x0⟩
/-- `LOOP`, bits [31]. R402 -/
def BRY_NBR.LOOP : Fld := ⟨.BRY_NBR, 31, 1, .ro, 0x0⟩
/-- `PEER_DOMAIN`, bits [47:32]. Neighbour's DOMAIN -/
def BRY_NBR.PEER_DOMAIN : Fld := ⟨.BRY_NBR, 32, 16, .ro, 0x0⟩
/-- `PEER_ID_VALID`, bits [48]. Neighbour's ID_VALID -/
def BRY_NBR.PEER_ID_VALID : Fld := ⟨.BRY_NBR, 48, 1, .ro, 0x0⟩
/-- `PEER_SWITCH`, bits [49]. The neighbour is a switch -/
def BRY_NBR.PEER_SWITCH : Fld := ⟨.BRY_NBR, 49, 1, .ro, 0x0⟩
/-- `DUP_ID`, bits [50]. R402 -/
def BRY_NBR.DUP_ID : Fld := ⟨.BRY_NBR, 50, 1, .ro, 0x0⟩

/-! ### BRY_NBR_SERIAL (R423) -/
/-- `SERIAL`, bits [63:0]. Neighbour's module serial -/
def BRY_NBR_SERIAL.SERIAL : Fld := ⟨.BRY_NBR_SERIAL, 0, 64, .ro, 0x0⟩

/-! ### BRY_LS_STAT (R423) -/
/-- `MISMATCHES`, bits [15:0]. Lock-step overruns (R420), saturating at 0xFFFF -/
def BRY_LS_STAT.MISMATCHES : Fld := ⟨.BRY_LS_STAT, 0, 16, .ro, 0x0⟩
/-- `LAST_UNIT`, bits [31:16]. Unit code of the last mismatch -/
def BRY_LS_STAT.LAST_UNIT : Fld := ⟨.BRY_LS_STAT, 16, 16, .ro, 0x0⟩
/-- `MODULE_PAIR`, bits [32]. A module pair is in force -/
def BRY_LS_STAT.MODULE_PAIR : Fld := ⟨.BRY_LS_STAT, 32, 1, .ro, 0x0⟩
/-- `DIE_PAIRS`, bits [33]. Die pairs are in force -/
def BRY_LS_STAT.DIE_PAIRS : Fld := ⟨.BRY_LS_STAT, 33, 1, .ro, 0x0⟩
/-- `MISSING`, bits [62:48]. Mismatches found by a missing digest, saturating at 0x7FFF -/
def BRY_LS_STAT.MISSING : Fld := ⟨.BRY_LS_STAT, 48, 15, .ro, 0x0⟩
/-- `CLR`, bits [63]. 1 sets MISMATCHES, LAST_UNIT and MISSING to zero -/
def BRY_LS_STAT.CLR : Fld := ⟨.BRY_LS_STAT, 63, 1, .wo, 0x0⟩

/-! ### HOST_SQ_CFG (R462) -/
/-- `SIZE`, bits [4:0]. log₂ of the entry count, 4–16 -/
def HOST_SQ_CFG.SIZE : Fld := ⟨.HOST_SQ_CFG, 0, 5, .rw, 0x0⟩
/-- `EN`, bits [5]. Ring enabled (R430) -/
def HOST_SQ_CFG.EN : Fld := ⟨.HOST_SQ_CFG, 5, 1, .rw, 0x0⟩
/-- `BASE`, bits [63:12]. Bits [63:12] of the host address -/
def HOST_SQ_CFG.BASE : Fld := ⟨.HOST_SQ_CFG, 12, 52, .rw, 0x0⟩

/-! ### HOST_ADM_SQ_CFG (R462) -/
/-- `SIZE`, bits [4:0]. log₂ of the entry count, 4–16 -/
def HOST_ADM_SQ_CFG.SIZE : Fld := ⟨.HOST_ADM_SQ_CFG, 0, 5, .rw, 0x0⟩
/-- `EN`, bits [5]. Ring enabled (R430) -/
def HOST_ADM_SQ_CFG.EN : Fld := ⟨.HOST_ADM_SQ_CFG, 5, 1, .rw, 0x0⟩
/-- `BASE`, bits [63:12]. Bits [63:12] of the host address -/
def HOST_ADM_SQ_CFG.BASE : Fld := ⟨.HOST_ADM_SQ_CFG, 12, 52, .rw, 0x0⟩

/-! ### HOST_CQ_CFG (R462) -/
/-- `SIZE`, bits [4:0]. log₂ of the entry count, 6–16 -/
def HOST_CQ_CFG.SIZE : Fld := ⟨.HOST_CQ_CFG, 0, 5, .rw, 0x0⟩
/-- `EN`, bits [5]. Ring enabled -/
def HOST_CQ_CFG.EN : Fld := ⟨.HOST_CQ_CFG, 5, 1, .rw, 0x0⟩
/-- `VECTOR`, bits [9:6]. MSI-X vector, 0–15 -/
def HOST_CQ_CFG.VECTOR : Fld := ⟨.HOST_CQ_CFG, 6, 4, .rw, 0x0⟩
/-- `BASE`, bits [63:12]. Bits [63:12] of the host address -/
def HOST_CQ_CFG.BASE : Fld := ⟨.HOST_CQ_CFG, 12, 52, .rw, 0x0⟩

/-! ### HOST_ADM_CQ_CFG (R462) -/
/-- `SIZE`, bits [4:0]. log₂ of the entry count, 6–16 -/
def HOST_ADM_CQ_CFG.SIZE : Fld := ⟨.HOST_ADM_CQ_CFG, 0, 5, .rw, 0x0⟩
/-- `EN`, bits [5]. Ring enabled -/
def HOST_ADM_CQ_CFG.EN : Fld := ⟨.HOST_ADM_CQ_CFG, 5, 1, .rw, 0x0⟩
/-- `VECTOR`, bits [9:6]. MSI-X vector, 0–15 -/
def HOST_ADM_CQ_CFG.VECTOR : Fld := ⟨.HOST_ADM_CQ_CFG, 6, 4, .rw, 0x0⟩
/-- `BASE`, bits [63:12]. Bits [63:12] of the host address -/
def HOST_ADM_CQ_CFG.BASE : Fld := ⟨.HOST_ADM_CQ_CFG, 12, 52, .rw, 0x0⟩

/-! ### HOST_CTX_STAT (R462) -/
/-- `STATE`, bits [2:0]. 0 FREE, 1 ASSIGNED, 2 RUNNING, 3 HALTED, 4 KILLING -/
def HOST_CTX_STAT.STATE : Fld := ⟨.HOST_CTX_STAT, 0, 3, .ro, 0x0⟩
/-- `OWNER`, bits [8:3]. Owning VF -/
def HOST_CTX_STAT.OWNER : Fld := ⟨.HOST_CTX_STAT, 3, 6, .ro, 0x0⟩
/-- `CFG_ERR`, bits [9]. A ring enable was refused, or a ring failed on the link (R430) -/
def HOST_CTX_STAT.CFG_ERR : Fld := ⟨.HOST_CTX_STAT, 9, 1, .rw1c, 0x0⟩
/-- `CQ_FULL`, bits [10]. Completions or events are held (R436) -/
def HOST_CTX_STAT.CQ_FULL : Fld := ⟨.HOST_CTX_STAT, 10, 1, .ro, 0x0⟩
/-- `DB_IGNORED`, bits [47:32]. R433, saturating at 0xFFFF -/
def HOST_CTX_STAT.DB_IGNORED : Fld := ⟨.HOST_CTX_STAT, 32, 16, .ro, 0x0⟩
/-- `EVENTS_LOST`, bits [63:48]. R436, saturating at 0xFFFF -/
def HOST_CTX_STAT.EVENTS_LOST : Fld := ⟨.HOST_CTX_STAT, 48, 16, .ro, 0x0⟩

/-! ### HOST_MOD_STAT (R462) -/
/-- `MODULE`, bits [2:0]. 0 OFF, 1 STANDBY, 2 TRAINING, 3 READY, 4 RUNNING, 5 HALTED, 6 RECOVERY, 7 ALARM -/
def HOST_MOD_STAT.MODULE : Fld := ⟨.HOST_MOD_STAT, 0, 3, .ro, 0x0⟩
/-- `DEFAULTS`, bits [3]. Steps 1 to 3 of R460 complete -/
def HOST_MOD_STAT.DEFAULTS : Fld := ⟨.HOST_MOD_STAT, 3, 1, .ro, 0x0⟩
/-- `ID_COMMITTED`, bits [4]. Module ID committed (R403) -/
def HOST_MOD_STAT.ID_COMMITTED : Fld := ⟨.HOST_MOD_STAT, 4, 1, .ro, 0x0⟩
/-- `CXL_MEM`, bits [5]. CXL.mem negotiated -/
def HOST_MOD_STAT.CXL_MEM : Fld := ⟨.HOST_MOD_STAT, 5, 1, .ro, 0x0⟩
/-- `HOST_GRANULES`, bits [26:6]. DPA granules backed by HOST units -/
def HOST_MOD_STAT.HOST_GRANULES : Fld := ⟨.HOST_MOD_STAT, 6, 21, .ro, 0x100000⟩
/-- `HOST_UNMAPPED`, bits [47:32]. R447, saturating at 0xFFFF -/
def HOST_MOD_STAT.HOST_UNMAPPED : Fld := ⟨.HOST_MOD_STAT, 32, 16, .ro, 0x0⟩
/-- `ADM_DB_IGNORED`, bits [63:48]. R433 for the administration SQ, saturating at 0xFFFF -/
def HOST_MOD_STAT.ADM_DB_IGNORED : Fld := ⟨.HOST_MOD_STAT, 48, 16, .ro, 0x0⟩

/-! ### HOST_CTX (R462) -/
/-- `STATE`, bits [2:0]. As in HOST_CTX_STAT -/
def HOST_CTX.STATE : Fld := ⟨.HOST_CTX, 0, 3, .ro, 0x0⟩
/-- `OWNER`, bits [8:3]. Owning VF -/
def HOST_CTX.OWNER : Fld := ⟨.HOST_CTX, 3, 6, .ro, 0x0⟩
/-- `PKEY`, bits [24:9]. Job key -/
def HOST_CTX.PKEY : Fld := ⟨.HOST_CTX, 9, 16, .ro, 0x0⟩

/-! ### ETH_PORT_CFG (R482, R483) -/
/-- `EN`, bits [0]. Port enabled -/
def ETH_PORT_CFG.EN : Fld := ⟨.ETH_PORT_CFG, 0, 1, .rw, 0x1⟩
/-- `BREAKOUT`, bits [2:1]. R463; 3 reserved -/
def ETH_PORT_CFG.BREAKOUT : Fld := ⟨.ETH_PORT_CFG, 1, 2, .rw, 0x0⟩
/-- `FC`, bits [4:3]. 0 NONE, 1 PAUSE, 2 PFC, 3 reserved -/
def ETH_PORT_CFG.FC : Fld := ⟨.ETH_PORT_CFG, 3, 2, .rw, 0x0⟩
/-- `PFC_EN`, bits [12:5]. Bit i: PFC on priority i -/
def ETH_PORT_CFG.PFC_EN : Fld := ⟨.ETH_PORT_CFG, 5, 8, .rw, 0x0⟩
/-- `DEFPRI`, bits [15:13]. Priority of untagged frames -/
def ETH_PORT_CFG.DEFPRI : Fld := ⟨.ETH_PORT_CFG, 13, 3, .rw, 0x0⟩
/-- `DEFQ`, bits [19:16]. Receive queue for unmatched frames -/
def ETH_PORT_CFG.DEFQ : Fld := ⟨.ETH_PORT_CFG, 16, 4, .rw, 0x0⟩
/-- `PROMISC`, bits [20]. Accept every destination -/
def ETH_PORT_CFG.PROMISC : Fld := ⟨.ETH_PORT_CFG, 20, 1, .rw, 0x0⟩
/-- `MCAST_ALL`, bits [21]. Accept every multicast -/
def ETH_PORT_CFG.MCAST_ALL : Fld := ⟨.ETH_PORT_CFG, 21, 1, .rw, 0x0⟩
/-- `BCAST`, bits [22]. Accept broadcast -/
def ETH_PORT_CFG.BCAST : Fld := ⟨.ETH_PORT_CFG, 22, 1, .rw, 0x1⟩
/-- `AN`, bits [23]. Auto-negotiation on CR media -/
def ETH_PORT_CFG.AN : Fld := ⟨.ETH_PORT_CFG, 23, 1, .rw, 0x1⟩
/-- `MEDIA`, bits [24]. 0 CR, 1 C2M -/
def ETH_PORT_CFG.MEDIA : Fld := ⟨.ETH_PORT_CFG, 24, 1, .rw, 0x0⟩
/-- `STATUS`, bits [25]. 1: the last enable was refused -/
def ETH_PORT_CFG.STATUS : Fld := ⟨.ETH_PORT_CFG, 25, 1, .ro, 0x0⟩
/-- `LINK`, bits [29:26]. Bit s: sub-port s up -/
def ETH_PORT_CFG.LINK : Fld := ⟨.ETH_PORT_CFG, 26, 4, .ro, 0x0⟩

/-! ### ETH_PFC (R482, R483) -/
/-- `HEADROOM`, bits [9:0]. KiB above XOFF (R477) -/
def ETH_PFC.HEADROOM : Fld := ⟨.ETH_PFC, 0, 10, .rw, 0x40⟩
/-- `HYST`, bits [19:10]. KiB from XOFF down to XON -/
def ETH_PFC.HYST : Fld := ⟨.ETH_PFC, 10, 10, .rw, 0x20⟩

/-! ### ETH_UCAST (R482, R483) -/
/-- `ADDR`, bits [47:0]. Unicast address, first octet in bits [7:0] -/
def ETH_UCAST.ADDR : Fld := ⟨.ETH_UCAST, 0, 48, .rw, 0x0⟩
/-- `V`, bits [48]. Entry valid -/
def ETH_UCAST.V : Fld := ⟨.ETH_UCAST, 48, 1, .rw, 0x0⟩

/-! ### ETH_RULE_SEL (R482, R483) -/
/-- `PORT`, bits [0]. Port -/
def ETH_RULE_SEL.PORT : Fld := ⟨.ETH_RULE_SEL, 0, 1, .rw, 0x0⟩
/-- `INDEX`, bits [5:1]. Rule, 0–31 -/
def ETH_RULE_SEL.INDEX : Fld := ⟨.ETH_RULE_SEL, 1, 5, .rw, 0x0⟩

/-! ### ETH_RULE_DATA (R482, R483) -/
/-- `V`, bits [0]. Rule valid -/
def ETH_RULE_DATA.V : Fld := ⟨.ETH_RULE_DATA, 0, 1, .rw, 0x0⟩
/-- `MATCH`, bits [4:1]. Bit 0 EtherType, bit 1 VLAN ID, bit 2 unicast entry, bit 3 sub-port -/
def ETH_RULE_DATA.MATCH : Fld := ⟨.ETH_RULE_DATA, 1, 4, .rw, 0x0⟩
/-- `ETYPE`, bits [20:5]. EtherType -/
def ETH_RULE_DATA.ETYPE : Fld := ⟨.ETH_RULE_DATA, 5, 16, .rw, 0x0⟩
/-- `VID`, bits [32:21]. VLAN ID -/
def ETH_RULE_DATA.VID : Fld := ⟨.ETH_RULE_DATA, 21, 12, .rw, 0x0⟩
/-- `MACIDX`, bits [36:33]. Unicast entry k -/
def ETH_RULE_DATA.MACIDX : Fld := ⟨.ETH_RULE_DATA, 33, 4, .rw, 0x0⟩
/-- `SUB`, bits [38:37]. Sub-port -/
def ETH_RULE_DATA.SUB : Fld := ⟨.ETH_RULE_DATA, 37, 2, .rw, 0x0⟩
/-- `QUEUE`, bits [42:39]. First receive queue -/
def ETH_RULE_DATA.QUEUE : Fld := ⟨.ETH_RULE_DATA, 39, 4, .rw, 0x0⟩
/-- `SPAN`, bits [44:43]. Queues spread over: 2^SPAN -/
def ETH_RULE_DATA.SPAN : Fld := ⟨.ETH_RULE_DATA, 43, 2, .rw, 0x0⟩

/-! ### ETH_RX_ERR (R482, R483) -/
/-- `RUNT`, bits [15:0]. R466, saturating at 0xFFFF -/
def ETH_RX_ERR.RUNT : Fld := ⟨.ETH_RX_ERR, 0, 16, .ro, 0x0⟩
/-- `GIANT`, bits [31:16]. R466, saturating at 0xFFFF -/
def ETH_RX_ERR.GIANT : Fld := ⟨.ETH_RX_ERR, 16, 16, .ro, 0x0⟩
/-- `FCS`, bits [47:32]. R466, saturating at 0xFFFF -/
def ETH_RX_ERR.FCS : Fld := ⟨.ETH_RX_ERR, 32, 16, .ro, 0x0⟩
/-- `FILTER`, bits [62:48]. R468, saturating at 0x7FFF -/
def ETH_RX_ERR.FILTER : Fld := ⟨.ETH_RX_ERR, 48, 15, .ro, 0x0⟩
/-- `CLR`, bits [63]. 1 sets every field to zero -/
def ETH_RX_ERR.CLR : Fld := ⟨.ETH_RX_ERR, 63, 1, .wo, 0x0⟩

/-! ### ETH_RX_DROP (R482, R483) -/
/-- `NOBUF`, bits [15:0]. R474, saturating at 0xFFFF -/
def ETH_RX_DROP.NOBUF : Fld := ⟨.ETH_RX_DROP, 0, 16, .ro, 0x0⟩
/-- `NOBUF_MID`, bits [27:16]. R473, saturating at 0xFFF -/
def ETH_RX_DROP.NOBUF_MID : Fld := ⟨.ETH_RX_DROP, 16, 12, .ro, 0x0⟩
/-- `FAULT`, bits [39:28]. R473, saturating at 0xFFF -/
def ETH_RX_DROP.FAULT : Fld := ⟨.ETH_RX_DROP, 28, 12, .ro, 0x0⟩
/-- `NOQ`, bits [51:40]. R470, R480, saturating at 0xFFF -/
def ETH_RX_DROP.NOQ : Fld := ⟨.ETH_RX_DROP, 40, 12, .ro, 0x0⟩
/-- `TAIL`, bits [62:52]. R477, saturating at 0x7FF -/
def ETH_RX_DROP.TAIL : Fld := ⟨.ETH_RX_DROP, 52, 11, .ro, 0x0⟩
/-- `CLR`, bits [63]. 1 sets every field to zero -/
def ETH_RX_DROP.CLR : Fld := ⟨.ETH_RX_DROP, 63, 1, .wo, 0x0⟩

/-! ### ETH_TX_ERR (R482, R483) -/
/-- `GIANT`, bits [15:0]. R467, R475, saturating at 0xFFFF -/
def ETH_TX_ERR.GIANT : Fld := ⟨.ETH_TX_ERR, 0, 16, .ro, 0x0⟩
/-- `BAD_DESC`, bits [31:16]. R475, saturating at 0xFFFF -/
def ETH_TX_ERR.BAD_DESC : Fld := ⟨.ETH_TX_ERR, 16, 16, .ro, 0x0⟩
/-- `LINK_DOWN`, bits [47:32]. R476, saturating at 0xFFFF -/
def ETH_TX_ERR.LINK_DOWN : Fld := ⟨.ETH_TX_ERR, 32, 16, .ro, 0x0⟩
/-- `SRC_FAIL`, bits [62:48]. ACCESS and POISON, saturating at 0x7FFF -/
def ETH_TX_ERR.SRC_FAIL : Fld := ⟨.ETH_TX_ERR, 48, 15, .ro, 0x0⟩
/-- `CLR`, bits [63]. 1 sets every field to zero -/
def ETH_TX_ERR.CLR : Fld := ⟨.ETH_TX_ERR, 63, 1, .wo, 0x0⟩

/-! ### ETH_PAUSE (R482, R483) -/
/-- `RX_PAUSE`, bits [23:0]. Pause and PFC frames received, saturating at 0xFF_FFFF -/
def ETH_PAUSE.RX_PAUSE : Fld := ⟨.ETH_PAUSE, 0, 24, .ro, 0x0⟩
/-- `TX_PAUSE`, bits [47:24]. Pause and PFC frames sent, saturating at 0xFF_FFFF -/
def ETH_PAUSE.TX_PAUSE : Fld := ⟨.ETH_PAUSE, 24, 24, .ro, 0x0⟩
/-- `PAUSED`, bits [55:48]. Bit i: priority i paused on some sub-port -/
def ETH_PAUSE.PAUSED : Fld := ⟨.ETH_PAUSE, 48, 8, .ro, 0x0⟩
/-- `CLR`, bits [63]. 1 sets RX_PAUSE and TX_PAUSE to zero -/
def ETH_PAUSE.CLR : Fld := ⟨.ETH_PAUSE, 63, 1, .wo, 0x0⟩

/-! ### ETH_QCFG (R482, R483) -/
/-- `EN`, bits [0]. Queue enabled; takes effect only with a valid SIZE -/
def ETH_QCFG.EN : Fld := ⟨.ETH_QCFG, 0, 1, .rw, 0x0⟩
/-- `SIZE`, bits [5:1]. log₂ of the entry count, 6–16 -/
def ETH_QCFG.SIZE : Fld := ⟨.ETH_QCFG, 1, 5, .rw, 0x0⟩
/-- `BUFKIND`, bits [6]. R471 -/
def ETH_QCFG.BUFKIND : Fld := ⟨.ETH_QCFG, 6, 1, .rw, 0x0⟩
/-- `KIND`, bits [7]. Receive queues only: 0 ring, 1 IMPORT. Physical function only. -/
def ETH_QCFG.KIND : Fld := ⟨.ETH_QCFG, 7, 1, .rw, 0x0⟩
/-- `PRI`, bits [10:8]. Transmit queues only: priority (R476) -/
def ETH_QCFG.PRI : Fld := ⟨.ETH_QCFG, 8, 3, .rw, 0x0⟩
/-- `SUB`, bits [12:11]. Transmit queues only: sub-port -/
def ETH_QCFG.SUB : Fld := ⟨.ETH_QCFG, 11, 2, .rw, 0x0⟩
/-- `OWNER`, bits [19:13]. Context 0–63, or 0x40 for the physical function. Physical function only. -/
def ETH_QCFG.OWNER : Fld := ⟨.ETH_QCFG, 13, 7, .rw, 0x40⟩
/-- `SLOT`, bits [22:20]. Slot in the owner's page. Physical function only. -/
def ETH_QCFG.SLOT : Fld := ⟨.ETH_QCFG, 20, 3, .rw, 0x0⟩
/-- `BASE`, bits [63:24]. Bits [51:12] of the ring's host address -/
def ETH_QCFG.BASE : Fld := ⟨.ETH_QCFG, 24, 40, .rw, 0x0⟩

/-! ### ETH_QWM (R482, R483) -/
/-- `WM`, bits [15:0]. Watermark, in descriptors -/
def ETH_QWM.WM : Fld := ⟨.ETH_QWM, 0, 16, .rw, 0x0⟩
/-- `ARMED`, bits [16]. Arm the notice (R479); cleared by the module on notice -/
def ETH_QWM.ARMED : Fld := ⟨.ETH_QWM, 16, 1, .rw, 0x0⟩
/-- `CROSSED`, bits [17]. A crossing since the last clear -/
def ETH_QWM.CROSSED : Fld := ⟨.ETH_QWM, 17, 1, .rw1c, 0x0⟩
/-- `DISARMED_X`, bits [63:32]. Crossings while disarmed, saturating -/
def ETH_QWM.DISARMED_X : Fld := ⟨.ETH_QWM, 32, 32, .ro, 0x0⟩

/-! ### ETH_QSTAT (R482, R483) -/
/-- `LEVEL`, bits [16:0]. Descriptors posted and not yet written back -/
def ETH_QSTAT.LEVEL : Fld := ⟨.ETH_QSTAT, 0, 17, .ro, 0x0⟩
/-- `HEAD`, bits [32:17]. Next descriptor the module fetches -/
def ETH_QSTAT.HEAD : Fld := ⟨.ETH_QSTAT, 17, 16, .ro, 0x0⟩
/-- `DROPS`, bits [47:33]. Frames of this queue dropped, saturating at 0x7FFF -/
def ETH_QSTAT.DROPS : Fld := ⟨.ETH_QSTAT, 33, 15, .ro, 0x0⟩
/-- `DB_IGNORED`, bits [63:48]. Doorbells ignored (R433), saturating at 0xFFFF -/
def ETH_QSTAT.DB_IGNORED : Fld := ⟨.ETH_QSTAT, 48, 16, .ro, 0x0⟩

/-! ### KEEP_STAT (R506) -/
/-- `ERASES`, bits [4:0]. Fused ERASE count -/
def KEEP_STAT.ERASES : Fld := ⟨.KEEP_STAT, 0, 5, .ro, 0x0⟩
/-- `MODULE_DEBUG`, bits [5]. A LEVEL 2 unlock since cold start -/
def KEEP_STAT.MODULE_DEBUG : Fld := ⟨.KEEP_STAT, 5, 1, .ro, 0x0⟩
/-- `SESSIONS`, bits [13:6]. Open SPDM sessions, 0–128 (R489) -/
def KEEP_STAT.SESSIONS : Fld := ⟨.KEEP_STAT, 6, 8, .ro, 0x0⟩
/-- `CLAMPS`, bits [21:14]. CLAMPs since cold start, saturating at 0xFF -/
def KEEP_STAT.CLAMPS : Fld := ⟨.KEEP_STAT, 14, 8, .ro, 0x0⟩

/-! ### KEEP_BOOT (R506) -/
/-- `RUN`, bits [5:0]. Bit k: running slot of kind k, 0 A, 1 B -/
def KEEP_BOOT.RUN : Fld := ⟨.KEEP_BOOT, 0, 6, .ro, 0x0⟩
/-- `PREF`, bits [11:6]. Bit k: preferred slot of kind k -/
def KEEP_BOOT.PREF : Fld := ⟨.KEEP_BOOT, 6, 6, .rw, 0x0⟩
/-- `FAILS`, bits [13:12]. Consecutive failed starts. Kept across cold module resets; set to 0 by a start that reaches READY, by a cold reset with CLRFAIL (R512), or by loss of VSB12. -/
def KEEP_BOOT.FAILS : Fld := ⟨.KEEP_BOOT, 12, 2, .ro, 0x0⟩
/-- `SVN_COMMIT`, bits [19:14]. Bit k: raise the minimum of kind k, k = 0 to 5 (R488) -/
def KEEP_BOOT.SVN_COMMIT : Fld := ⟨.KEEP_BOOT, 14, 6, .wo, 0x0⟩

/-! ### KEEP_SVN (R506) -/
/-- `MIN`, bits [5:0]. Fused minimum SVN -/
def KEEP_SVN.MIN : Fld := ⟨.KEEP_SVN, 0, 6, .ro, 0x0⟩
/-- `SVN_A`, bits [11:6]. SVN of slot A -/
def KEEP_SVN.SVN_A : Fld := ⟨.KEEP_SVN, 6, 6, .ro, 0x0⟩
/-- `SVN_B`, bits [17:12]. SVN of slot B; for RECOVERY, 0 -/
def KEEP_SVN.SVN_B : Fld := ⟨.KEEP_SVN, 12, 6, .ro, 0x0⟩
/-- `VALID_A`, bits [18]. Slot A passed the check -/
def KEEP_SVN.VALID_A : Fld := ⟨.KEEP_SVN, 18, 1, .ro, 0x0⟩
/-- `VALID_B`, bits [19]. Slot B passed the check -/
def KEEP_SVN.VALID_B : Fld := ⟨.KEEP_SVN, 19, 1, .ro, 0x0⟩

/-! ### KEEP_ALARM_CFG (R506) -/
/-- `LEVEL`, bits [9:0]. Bits [2s+1:2s]: level of sensor s, 0 LOG, 1 CLAMP, 2 ERASE, 3 reserved (R499) -/
def KEEP_ALARM_CFG.LEVEL : Fld := ⟨.KEEP_ALARM_CFG, 0, 10, .rwl, 0x196⟩
/-- `COMMIT`, bits [10]. 1 commits the Keeper block's set-up and locks LEVEL (R499) -/
def KEEP_ALARM_CFG.COMMIT : Fld := ⟨.KEEP_ALARM_CFG, 10, 1, .wo, 0x0⟩
/-- `COMMITTED`, bits [11]. 1 while LEVEL is locked -/
def KEEP_ALARM_CFG.COMMITTED : Fld := ⟨.KEEP_ALARM_CFG, 11, 1, .ro, 0x0⟩

/-! ### KEEP_ALARM (R506) -/
/-- `ACTIVE`, bits [4:0]. Sensors now tripped -/
def KEEP_ALARM.ACTIVE : Fld := ⟨.KEEP_ALARM, 0, 5, .ro, 0x0⟩
/-- `SEEN`, bits [9:5]. Sensors tripped since the last clear -/
def KEEP_ALARM.SEEN : Fld := ⟨.KEEP_ALARM, 5, 5, .rw1c, 0x0⟩
/-- `LOGS`, bits [25:10]. LOG events, saturating at 0xFFFF -/
def KEEP_ALARM.LOGS : Fld := ⟨.KEEP_ALARM, 10, 16, .ro, 0x0⟩
/-- `LEVEL`, bits [27:26]. 0 none, 1 CLAMP, 2 ERASE -/
def KEEP_ALARM.LEVEL : Fld := ⟨.KEEP_ALARM, 26, 2, .ro, 0x0⟩
/-- `CLEAR`, bits [28]. 1 ends CLAMP (R501) -/
def KEEP_ALARM.CLEAR : Fld := ⟨.KEEP_ALARM, 28, 1, .wo, 0x0⟩

/-! ### KEEP_DBG_NONCE (R506) -/
/-- `NONCE`, bits [63:0]. Nonce bytes 0–7 and 8–15; a read of NONCE0 makes a new nonce -/
def KEEP_DBG_NONCE.NONCE : Fld := ⟨.KEEP_DBG_NONCE, 0, 64, .ro, 0x0⟩

/-! ### KEEP_DBG_TOKEN (R506) -/
/-- `BYTES`, bits [63:0]. Token bytes 8i to 8i + 7 -/
def KEEP_DBG_TOKEN.BYTES : Fld := ⟨.KEEP_DBG_TOKEN, 0, 64, .wo, 0x0⟩

/-! ### KEEP_DBG_CTL (R506) -/
/-- `SUBMIT`, bits [0]. 1 checks the token -/
def KEEP_DBG_CTL.SUBMIT : Fld := ⟨.KEEP_DBG_CTL, 0, 1, .wo, 0x0⟩
/-- `RESULT`, bits [3:1]. 0 none, 1 OK, 2 BAD_SIG, 3 BAD_NONCE, 4 BAD_SERIAL, 5 NO_KEY, 6 LOCKOUT -/
def KEEP_DBG_CTL.RESULT : Fld := ⟨.KEEP_DBG_CTL, 1, 3, .ro, 0x0⟩
/-- `OPEN`, bits [5:4]. 0 locked, 1 context, 2 module -/
def KEEP_DBG_CTL.OPEN : Fld := ⟨.KEEP_DBG_CTL, 4, 2, .ro, 0x0⟩
/-- `CONTEXT`, bits [11:6]. Context open at level 1 -/
def KEEP_DBG_CTL.CONTEXT : Fld := ⟨.KEEP_DBG_CTL, 6, 6, .ro, 0x0⟩
/-- `FAILS`, bits [27:12]. Failed tokens, saturating at 0xFFFF -/
def KEEP_DBG_CTL.FAILS : Fld := ⟨.KEEP_DBG_CTL, 12, 16, .ro, 0x0⟩
/-- `LOCK`, bits [28]. 1 closes any open context view; a module unlock lasts until cold start -/
def KEEP_DBG_CTL.LOCK : Fld := ⟨.KEEP_DBG_CTL, 28, 1, .wo, 0x0⟩

/-! ### MMC_RESET (R533) -/
/-- `SCOPE`, bits [2:0]. 1 compute die, 2 warm module, 3 Brynoa die, 4 cold module, 5 PREPARE_REMOVE; other values reserved -/
def MMC_RESET.SCOPE : Fld := ⟨.MMC_RESET, 0, 3, .rw, 0x0⟩
/-- `DIE`, bits [5:3]. Die for SCOPE 1 -/
def MMC_RESET.DIE : Fld := ⟨.MMC_RESET, 3, 3, .rw, 0x0⟩
/-- `FORCE`, bits [6]. R514 -/
def MMC_RESET.FORCE : Fld := ⟨.MMC_RESET, 6, 1, .rw, 0x0⟩
/-- `CLRFAIL`, bits [7]. Set FAILS to 0 at a cold reset (R512) -/
def MMC_RESET.CLRFAIL : Fld := ⟨.MMC_RESET, 7, 1, .rw, 0x0⟩
/-- `GO`, bits [8]. 1 performs SCOPE -/
def MMC_RESET.GO : Fld := ⟨.MMC_RESET, 8, 1, .wo, 0x0⟩
/-- `STATUS`, bits [10:9]. 0 OK, 1 BUSY, 2 BAD_STATE -/
def MMC_RESET.STATUS : Fld := ⟨.MMC_RESET, 9, 2, .ro, 0x0⟩
/-- `REMOVE_OK`, bits [11]. R526 -/
def MMC_RESET.REMOVE_OK : Fld := ⟨.MMC_RESET, 11, 1, .ro, 0x0⟩
/-- `AUTO`, bits [12]. Start at 48 V (R507); cold reset on a MODULE error (R527) -/
def MMC_RESET.AUTO : Fld := ⟨.MMC_RESET, 12, 1, .rw, 0x1⟩

/-! ### MMC_UNIT_CMD (R533) -/
/-- `UNIT`, bits [15:0]. Unit code (R37) -/
def MMC_UNIT_CMD.UNIT : Fld := ⟨.MMC_UNIT_CMD, 0, 16, .rw, 0xFFFF⟩
/-- `OP`, bits [17:16]. 1 TAKE_OUT, 2 BRING_IN; 0 and 3 reserved -/
def MMC_UNIT_CMD.OP : Fld := ⟨.MMC_UNIT_CMD, 16, 2, .rw, 0x0⟩
/-- `FORCE`, bits [18]. R519 -/
def MMC_UNIT_CMD.FORCE : Fld := ⟨.MMC_UNIT_CMD, 18, 1, .rw, 0x0⟩
/-- `GO`, bits [19]. 1 issues OP -/
def MMC_UNIT_CMD.GO : Fld := ⟨.MMC_UNIT_CMD, 19, 1, .wo, 0x0⟩
/-- `STATUS`, bits [22:20]. 0 OK, 1 PENDING, 2 BUSY, 3 BAD_UNIT, 4 BAD_STATE, 5 PREEMPTED, 6 FAILED -/
def MMC_UNIT_CMD.STATUS : Fld := ⟨.MMC_UNIT_CMD, 20, 3, .ro, 0x0⟩

/-! ### MMC_UNIT_STAT (R533) -/
/-- `UNIT`, bits [15:0]. Unit to report -/
def MMC_UNIT_STAT.UNIT : Fld := ⟨.MMC_UNIT_STAT, 0, 16, .rw, 0x0⟩
/-- `STATE`, bits [18:16]. 0 OUT, 1 SCRUB, 2 TEST, 3 STANDBY, 4 ADMITTED -/
def MMC_UNIT_STAT.STATE : Fld := ⟨.MMC_UNIT_STAT, 16, 3, .ro, 0x0⟩
/-- `FAILED`, bits [19]. Last TEST or start step failed -/
def MMC_UNIT_STAT.FAILED : Fld := ⟨.MMC_UNIT_STAT, 19, 1, .ro, 0x0⟩
/-- `DEGRADED`, bits [20]. Die link out and traffic on the Brynoa route (R33) -/
def MMC_UNIT_STAT.DEGRADED : Fld := ⟨.MMC_UNIT_STAT, 20, 1, .ro, 0x0⟩
/-- `HELD`, bits [21]. A context holds or uses the unit (R519) -/
def MMC_UNIT_STAT.HELD : Fld := ⟨.MMC_UNIT_STAT, 21, 1, .ro, 0x0⟩
/-- `CONTEXT`, bits [27:22]. Lowest such context -/
def MMC_UNIT_STAT.CONTEXT : Fld := ⟨.MMC_UNIT_STAT, 22, 6, .ro, 0x0⟩

/-! ### MMC_FW (R533) -/
/-- `KIND`, bits [2:0]. Image kind (R486) -/
def MMC_FW.KIND : Fld := ⟨.MMC_FW, 0, 3, .rw, 0x0⟩
/-- `OP`, bits [4:3]. 1 BEGIN, 2 CHECK, 3 SWITCH; 0 reserved -/
def MMC_FW.OP : Fld := ⟨.MMC_FW, 3, 2, .rw, 0x0⟩
/-- `GO`, bits [5]. 1 performs OP -/
def MMC_FW.GO : Fld := ⟨.MMC_FW, 5, 1, .wo, 0x0⟩
/-- `STATUS`, bits [8:6]. 0 OK, 1 BUSY, 2 BAD_IMAGE, 3 PENDING, 4 BAD_STATE -/
def MMC_FW.STATUS : Fld := ⟨.MMC_FW, 6, 3, .ro, 0x0⟩
/-- `SWITCHING`, bits [9]. R524 -/
def MMC_FW.SWITCHING : Fld := ⟨.MMC_FW, 9, 1, .ro, 0x0⟩
/-- `WRITTEN`, bits [35:10]. Bytes written since BEGIN, in units of 8 -/
def MMC_FW.WRITTEN : Fld := ⟨.MMC_FW, 10, 26, .ro, 0x0⟩

/-! ### MMC_FW_DATA (R533) -/
/-- `BYTES`, bits [63:0]. Next 8 image bytes; discarded unless a BEGIN is open, or beyond 64 MiB -/
def MMC_FW_DATA.BYTES : Fld := ⟨.MMC_FW_DATA, 0, 64, .wo, 0x0⟩

/-! ### MMC_LOG_SEL (R533) -/
/-- `SEQ`, bits [31:0]. Record to read -/
def MMC_LOG_SEL.SEQ : Fld := ⟨.MMC_LOG_SEL, 0, 32, .rw, 0x0⟩
/-- `OVERFLOW`, bits [47:32]. Records overwritten, saturating at 0xFFFF -/
def MMC_LOG_SEL.OVERFLOW : Fld := ⟨.MMC_LOG_SEL, 32, 16, .ro, 0x0⟩
/-- `VALID`, bits [48]. The record SEQ is in the log -/
def MMC_LOG_SEL.VALID : Fld := ⟨.MMC_LOG_SEL, 48, 1, .ro, 0x0⟩

/-! ### MMC_LOG_DATA (R533) -/
/-- `BYTES`, bits [63:0]. Record bytes 8i to 8i + 7 (R528); zero when VALID is 0 -/
def MMC_LOG_DATA.BYTES : Fld := ⟨.MMC_LOG_DATA, 0, 64, .ro, 0x0⟩

/-! ### MMC_CFG_REJ (R533) -/
/-- `COUNT`, bits [23:0]. Configuration rejections (R14, R16, R398, R429, R462, R470, R482, R499, R524, R554, R564), saturating at 0xFF_FFFF -/
def MMC_CFG_REJ.COUNT : Fld := ⟨.MMC_CFG_REJ, 0, 24, .ro, 0x0⟩
/-- `LAST_SPACE`, bits [27:24]. 0–7 CDn, 8 Brynoa die, 9 host BARs -/
def MMC_CFG_REJ.LAST_SPACE : Fld := ⟨.MMC_CFG_REJ, 24, 4, .ro, 0x0⟩
/-- `LAST_OFFSET`, bits [59:28]. Offset of the last rejected access -/
def MMC_CFG_REJ.LAST_OFFSET : Fld := ⟨.MMC_CFG_REJ, 28, 32, .ro, 0x0⟩
/-- `CLR`, bits [63]. 1 sets COUNT, LAST_SPACE and LAST_OFFSET to zero -/
def MMC_CFG_REJ.CLR : Fld := ⟨.MMC_CFG_REJ, 63, 1, .wo, 0x0⟩

/-! ### MMC_MGR (R533) -/
/-- `ID`, bits [15:0]. Module ID of the fabric manager's agent; 0xFFFF for none (R529) -/
def MMC_MGR.ID : Fld := ⟨.MMC_MGR, 0, 16, .rw, 0xFFFF⟩

/-! ### MMC_TRACE (R533) -/
/-- `EN`, bits [7:0]. Bit n: trace capture on CDn (R531) -/
def MMC_TRACE.EN : Fld := ⟨.MMC_TRACE, 0, 8, .rw, 0x0⟩
/-- `REFUSED`, bits [15:8]. Bit n: the last enable of CDn was refused with CONFLICT (R530) -/
def MMC_TRACE.REFUSED : Fld := ⟨.MMC_TRACE, 8, 8, .ro, 0x0⟩

/-! ### PWR_IN (R557) -/
/-- `VOLT`, bits [15:0]. VIN48, in units of 10 mV -/
def PWR_IN.VOLT : Fld := ⟨.PWR_IN, 0, 16, .ro, 0x0⟩
/-- `CUR`, bits [31:16]. VIN48 current, in units of 10 mA -/
def PWR_IN.CUR : Fld := ⟨.PWR_IN, 16, 16, .ro, 0x0⟩
/-- `PWR`, bits [47:32]. VIN48 power, 1 ms average, in W -/
def PWR_IN.PWR : Fld := ⟨.PWR_IN, 32, 16, .ro, 0x0⟩
/-- `AVG1S`, bits [63:48]. VIN48 power, 1 s average, in W -/
def PWR_IN.AVG1S : Fld := ⟨.PWR_IN, 48, 16, .ro, 0x0⟩

/-! ### PWR_CAP (R557) -/
/-- `CAP`, bits [11:0]. Sustained limit in W, 800–1,950 (R538) -/
def PWR_CAP.CAP : Fld := ⟨.PWR_CAP, 0, 12, .rw, 0x79E⟩
/-- `FIXED_DUTY`, bits [18:12]. 0: sustained controller. 1–64: fixed duty (R539). -/
def PWR_CAP.FIXED_DUTY : Fld := ⟨.PWR_CAP, 12, 7, .rw, 0x0⟩

/-! ### PWR_STAT (R557) -/
/-- `DUTY`, bits [6:0]. Lowest effective duty of any die now -/
def PWR_STAT.DUTY : Fld := ⟨.PWR_STAT, 0, 7, .ro, 0x40⟩
/-- `CAPPING`, bits [7]. The sustained controller lowered the duty -/
def PWR_STAT.CAPPING : Fld := ⟨.PWR_STAT, 7, 1, .rw1c, 0x0⟩
/-- `EXCURSION`, bits [8]. The excursion controller lowered the duty -/
def PWR_STAT.EXCURSION : Fld := ⟨.PWR_STAT, 8, 1, .rw1c, 0x0⟩
/-- `FASTLIM`, bits [9]. The peak limiter acted -/
def PWR_STAT.FASTLIM : Fld := ⟨.PWR_STAT, 9, 1, .rw1c, 0x0⟩
/-- `THERM`, bits [10]. A die's thermal limit acted (R544) -/
def PWR_STAT.THERM : Fld := ⟨.PWR_STAT, 10, 1, .rw1c, 0x0⟩
/-- `LIMITS`, bits [31:16]. Peak-limiter actions, saturating at 0xFFFF -/
def PWR_STAT.LIMITS : Fld := ⟨.PWR_STAT, 16, 16, .ro, 0x0⟩

/-! ### PWR_DOM_SEL (R557) -/
/-- `INDEX`, bits [8:0]. Domain index, 0–442 (R542); values above 442 read back as 0 in PWR_DOM_STAT -/
def PWR_DOM_SEL.INDEX : Fld := ⟨.PWR_DOM_SEL, 0, 9, .rw, 0x0⟩

/-! ### PWR_DOM_STAT (R557) -/
/-- `STATE`, bits [1:0]. 0 off, 1 raising, 2 on, 3 lowering -/
def PWR_DOM_STAT.STATE : Fld := ⟨.PWR_DOM_STAT, 0, 2, .ro, 0x0⟩
/-- `UNIT`, bits [31:16]. Unit code (R37) of the lowest unit in the domain -/
def PWR_DOM_STAT.UNIT : Fld := ⟨.PWR_DOM_STAT, 16, 16, .ro, 0x0⟩
/-- `RAISES`, bits [47:32]. Raises since cold start, saturating at 0xFFFF -/
def PWR_DOM_STAT.RAISES : Fld := ⟨.PWR_DOM_STAT, 32, 16, .ro, 0x0⟩

/-! ### PWR_THERM (R557) -/
/-- `DIE_MAX`, bits [7:0]. Hottest compute-die or Brynoa sensor, in °C, signed -/
def PWR_THERM.DIE_MAX : Fld := ⟨.PWR_THERM, 0, 8, .ro, 0x0⟩
/-- `HBM_MAX`, bits [15:8]. Hottest HBM stack, in °C, signed -/
def PWR_THERM.HBM_MAX : Fld := ⟨.PWR_THERM, 8, 8, .ro, 0x0⟩
/-- `INLET`, bits [23:16]. Coolant inlet, in °C, signed -/
def PWR_THERM.INLET : Fld := ⟨.PWR_THERM, 16, 8, .ro, 0x0⟩
/-- `OUTLET`, bits [31:24]. Coolant outlet, in °C, signed -/
def PWR_THERM.OUTLET : Fld := ⟨.PWR_THERM, 24, 8, .ro, 0x0⟩
/-- `FLOW`, bits [41:32]. Flow, in units of 10 mL/min -/
def PWR_THERM.FLOW : Fld := ⟨.PWR_THERM, 32, 10, .ro, 0x0⟩
/-- `FLOW_LOW`, bits [42]. R548 -/
def PWR_THERM.FLOW_LOW : Fld := ⟨.PWR_THERM, 42, 1, .ro, 0x0⟩
/-- `INLET_HIGH`, bits [43]. R548 -/
def PWR_THERM.INLET_HIGH : Fld := ⟨.PWR_THERM, 43, 1, .ro, 0x0⟩
/-- `LEAK`, bits [44]. R548 -/
def PWR_THERM.LEAK : Fld := ⟨.PWR_THERM, 44, 1, .ro, 0x0⟩
/-- `THERM_DIES`, bits [52:45]. Bit n: CDn under its thermal limit -/
def PWR_THERM.THERM_DIES : Fld := ⟨.PWR_THERM, 45, 8, .ro, 0x0⟩

/-! ### PWR_SB (R557) -/
/-- `SLOT`, bits [5:0]. SLOT[5:0] of SB-13–SB-18 -/
def PWR_SB.SLOT : Fld := ⟨.PWR_SB, 0, 6, .ro, 0x0⟩
/-- `SEAT`, bits [6]. SEAT loop closed -/
def PWR_SB.SEAT : Fld := ⟨.PWR_SB, 6, 1, .ro, 0x0⟩
/-- `VIN_ON`, bits [7]. Module's VIN48 switch closed -/
def PWR_SB.VIN_ON : Fld := ⟨.PWR_SB, 7, 1, .ro, 0x0⟩
/-- `KX_DROPS`, bits [31:16]. Management-link frames discarded (R554), saturating at 0xFFFF -/
def PWR_SB.KX_DROPS : Fld := ⟨.PWR_SB, 16, 16, .ro, 0x0⟩

/-- The fields of a register, in rising order of their bits (the reserved bits between them are no field, R15). -/
def RegName.fields : RegName → List Fld
  | .BRY_OVR_LAST => [BRY_OVR_LAST.BEAT, BRY_OVR_LAST.CAUSE]
  | .BRY_OVR_CNT => [BRY_OVR_CNT.COUNT, BRY_OVR_CNT.CLR]
  | .PRG_MEM_MODE => [PRG_MEM_MODE.HIER, PRG_MEM_MODE.ARB, PRG_MEM_MODE.LATCOMPAT, PRG_MEM_MODE.INFORCE]
  | .PRG_SRAM_ECC => [PRG_SRAM_ECC.CORRECTED, PRG_SRAM_ECC.UNCORRECTED, PRG_SRAM_ECC.LAST_UNIT, PRG_SRAM_ECC.UE, PRG_SRAM_ECC.CLR]
  | .STR_ERR => [STR_ERR.ACCESS, STR_ERR.ADDR, STR_ERR.PROT, STR_ERR.FAULT, STR_ERR.CLR]
  | .STR_BRAM => [STR_BRAM.FAILS, STR_BRAM.LAST_CHECK, STR_BRAM.LAST_UNIT, STR_BRAM.CRC_FAILS, STR_BRAM.CLR]
  | .SYN_STAT => [SYN_STAT.FREE, SYN_STAT.FAULTS, SYN_STAT.CLR]
  | .SYN_LATCH => []
  | .MEM_ECC => [MEM_ECC.HBM_CORR, MEM_ECC.CAP_CORR, MEM_ECC.UNCORR, MEM_ECC.LAST_UNIT, MEM_ECC.LAST_CLASS, MEM_ECC.UE, MEM_ECC.CLR]
  | .MEM_FILL => [MEM_FILL.DIRTY, MEM_FILL.CLEAN, MEM_FILL.ACTIVE]
  | .LNK_PROFILE => [LNK_PROFILE.PROFILE, LNK_PROFILE.COMMIT, LNK_PROFILE.COMMITTED, LNK_PROFILE.STATUS, LNK_PROFILE.BADPORT]
  | .LNK_PORT_MAP => [LNK_PORT_MAP.FIRST, LNK_PORT_MAP.COUNT, LNK_PORT_MAP.SPARES, LNK_PORT_MAP.REACH, LNK_PORT_MAP.AUX]
  | .LNK_PORT_CFG => [LNK_PORT_CFG.EN, LNK_PORT_CFG.HINGE0, LNK_PORT_CFG.HINGE1, LNK_PORT_CFG.GROUP0, LNK_PORT_CFG.GROUP1]
  | .LNK_PORT_STAT => [LNK_PORT_STAT.STATE, LNK_PORT_STAT.ACTIVE, LNK_PORT_STAT.SPARE_USED, LNK_PORT_STAT.DOWNS]
  | .LNK_QUAD => [LNK_QUAD.CORR_SYM, LNK_QUAD.UNCORR, LNK_QUAD.STATE, LNK_QUAD.RSTAT, LNK_QUAD.RECAL, LNK_QUAD.CLR, LNK_QUAD.PORT]
  | .LNK_CREDIT => [LNK_CREDIT.TC0, LNK_CREDIT.TC1, LNK_CREDIT.TC2, LNK_CREDIT.TC3]
  | .LNK_ERR => [LNK_ERR.CRYPT_TAG, LNK_ERR.NOKEY, LNK_ERR.DROP_DOWN, LNK_ERR.FLIT_DISC, LNK_ERR.CLR]
  | .RTE_TBL_SEL => [RTE_TBL_SEL.PORT, RTE_TBL_SEL.KIND, RTE_TBL_SEL.VERSION, RTE_TBL_SEL.INC, RTE_TBL_SEL.INDEX]
  | .RTE_TBL_DATA => [RTE_TBL_DATA.ENTRY]
  | .RTE_FLIP => [RTE_FLIP.INFORCE, RTE_FLIP.FLIP, RTE_FLIP.PENDING, RTE_FLIP.STATUS, RTE_FLIP.BADPORT, RTE_FLIP.ADMIT]
  | .RTE_FLIP_BEAT => [RTE_FLIP_BEAT.BEAT]
  | .RTE_TIMERS => [RTE_TIMERS.RTO, RTE_TIMERS.DRAIN, RTE_TIMERS.FLOW_TIMEOUT, RTE_TIMERS.ACK_COAL]
  | .RTE_CC => [RTE_CC.THRESH, RTE_CC.BETA, RTE_CC.RAI, RTE_CC.STEP, RTE_CC.RMIN, RTE_CC.EN]
  | .RTE_ERR => [RTE_ERR.MALFORMED, RTE_ERR.NOROUTE, RTE_ERR.FLOWLOST, RTE_ERR.TBLREJ, RTE_ERR.CLR]
  | .RTE_REL => [RTE_REL.RETX, RTE_REL.NACK_TX, RTE_REL.DUP, RTE_REL.RESYNC, RTE_REL.CLR]
  | .RTE_PVIOL => [RTE_PVIOL.COUNT, RTE_PVIOL.LAST_PKEY, RTE_PVIOL.LAST_TC, RTE_PVIOL.DIR, RTE_PVIOL.CLR]
  | .BRY_MODULE_ID => [BRY_MODULE_ID.ID, BRY_MODULE_ID.DOMAIN, BRY_MODULE_ID.COMMIT, BRY_MODULE_ID.COMMITTED, BRY_MODULE_ID.STATUS]
  | .BRY_SERIAL => [BRY_SERIAL.SERIAL]
  | .BRY_TIME_CFG => [BRY_TIME_CFG.ROOT, BRY_TIME_CFG.PARENT, BRY_TIME_CFG.ASYM]
  | .BRY_TIME_STAT => [BRY_TIME_STAT.STATE, BRY_TIME_STAT.OUT_OF_BOUND, BRY_TIME_STAT.PERIOD_MISMATCH, BRY_TIME_STAT.OFFSET, BRY_TIME_STAT.DELAY, BRY_TIME_STAT.HOPS]
  | .BRY_BEAT => [BRY_BEAT.BEAT]
  | .BRY_PERIOD => [BRY_PERIOD.PERIOD, BRY_PERIOD.NEXT, BRY_PERIOD.APPLY, BRY_PERIOD.STATUS]
  | .BRY_PERIOD_AT => [BRY_PERIOD_AT.AT_BEAT]
  | .BRY_NBR => [BRY_NBR.PEER_ID, BRY_NBR.PEER_PORT, BRY_NBR.PEER_COUNT, BRY_NBR.PEER_PROFILE, BRY_NBR.VALID, BRY_NBR.QMISMATCH, BRY_NBR.LOOP, BRY_NBR.PEER_DOMAIN, BRY_NBR.PEER_ID_VALID, BRY_NBR.PEER_SWITCH, BRY_NBR.DUP_ID]
  | .BRY_NBR_SERIAL => [BRY_NBR_SERIAL.SERIAL]
  | .BRY_LS_STAT => [BRY_LS_STAT.MISMATCHES, BRY_LS_STAT.LAST_UNIT, BRY_LS_STAT.MODULE_PAIR, BRY_LS_STAT.DIE_PAIRS, BRY_LS_STAT.MISSING, BRY_LS_STAT.CLR]
  | .HOST_SQ_CFG => [HOST_SQ_CFG.SIZE, HOST_SQ_CFG.EN, HOST_SQ_CFG.BASE]
  | .HOST_ADM_SQ_CFG => [HOST_ADM_SQ_CFG.SIZE, HOST_ADM_SQ_CFG.EN, HOST_ADM_SQ_CFG.BASE]
  | .HOST_CQ_CFG => [HOST_CQ_CFG.SIZE, HOST_CQ_CFG.EN, HOST_CQ_CFG.VECTOR, HOST_CQ_CFG.BASE]
  | .HOST_ADM_CQ_CFG => [HOST_ADM_CQ_CFG.SIZE, HOST_ADM_CQ_CFG.EN, HOST_ADM_CQ_CFG.VECTOR, HOST_ADM_CQ_CFG.BASE]
  | .HOST_CTX_STAT => [HOST_CTX_STAT.STATE, HOST_CTX_STAT.OWNER, HOST_CTX_STAT.CFG_ERR, HOST_CTX_STAT.CQ_FULL, HOST_CTX_STAT.DB_IGNORED, HOST_CTX_STAT.EVENTS_LOST]
  | .HOST_MOD_STAT => [HOST_MOD_STAT.MODULE, HOST_MOD_STAT.DEFAULTS, HOST_MOD_STAT.ID_COMMITTED, HOST_MOD_STAT.CXL_MEM, HOST_MOD_STAT.HOST_GRANULES, HOST_MOD_STAT.HOST_UNMAPPED, HOST_MOD_STAT.ADM_DB_IGNORED]
  | .HOST_CTX => [HOST_CTX.STATE, HOST_CTX.OWNER, HOST_CTX.PKEY]
  | .ETH_PORT_CFG => [ETH_PORT_CFG.EN, ETH_PORT_CFG.BREAKOUT, ETH_PORT_CFG.FC, ETH_PORT_CFG.PFC_EN, ETH_PORT_CFG.DEFPRI, ETH_PORT_CFG.DEFQ, ETH_PORT_CFG.PROMISC, ETH_PORT_CFG.MCAST_ALL, ETH_PORT_CFG.BCAST, ETH_PORT_CFG.AN, ETH_PORT_CFG.MEDIA, ETH_PORT_CFG.STATUS, ETH_PORT_CFG.LINK]
  | .ETH_PFC => [ETH_PFC.HEADROOM, ETH_PFC.HYST]
  | .ETH_UCAST => [ETH_UCAST.ADDR, ETH_UCAST.V]
  | .ETH_RULE_SEL => [ETH_RULE_SEL.PORT, ETH_RULE_SEL.INDEX]
  | .ETH_RULE_DATA => [ETH_RULE_DATA.V, ETH_RULE_DATA.MATCH, ETH_RULE_DATA.ETYPE, ETH_RULE_DATA.VID, ETH_RULE_DATA.MACIDX, ETH_RULE_DATA.SUB, ETH_RULE_DATA.QUEUE, ETH_RULE_DATA.SPAN]
  | .ETH_RX_ERR => [ETH_RX_ERR.RUNT, ETH_RX_ERR.GIANT, ETH_RX_ERR.FCS, ETH_RX_ERR.FILTER, ETH_RX_ERR.CLR]
  | .ETH_RX_DROP => [ETH_RX_DROP.NOBUF, ETH_RX_DROP.NOBUF_MID, ETH_RX_DROP.FAULT, ETH_RX_DROP.NOQ, ETH_RX_DROP.TAIL, ETH_RX_DROP.CLR]
  | .ETH_TX_ERR => [ETH_TX_ERR.GIANT, ETH_TX_ERR.BAD_DESC, ETH_TX_ERR.LINK_DOWN, ETH_TX_ERR.SRC_FAIL, ETH_TX_ERR.CLR]
  | .ETH_PAUSE => [ETH_PAUSE.RX_PAUSE, ETH_PAUSE.TX_PAUSE, ETH_PAUSE.PAUSED, ETH_PAUSE.CLR]
  | .ETH_QCFG => [ETH_QCFG.EN, ETH_QCFG.SIZE, ETH_QCFG.BUFKIND, ETH_QCFG.KIND, ETH_QCFG.PRI, ETH_QCFG.SUB, ETH_QCFG.OWNER, ETH_QCFG.SLOT, ETH_QCFG.BASE]
  | .ETH_QWM => [ETH_QWM.WM, ETH_QWM.ARMED, ETH_QWM.CROSSED, ETH_QWM.DISARMED_X]
  | .ETH_QSTAT => [ETH_QSTAT.LEVEL, ETH_QSTAT.HEAD, ETH_QSTAT.DROPS, ETH_QSTAT.DB_IGNORED]
  | .KEEP_STAT => [KEEP_STAT.ERASES, KEEP_STAT.MODULE_DEBUG, KEEP_STAT.SESSIONS, KEEP_STAT.CLAMPS]
  | .KEEP_BOOT => [KEEP_BOOT.RUN, KEEP_BOOT.PREF, KEEP_BOOT.FAILS, KEEP_BOOT.SVN_COMMIT]
  | .KEEP_SVN => [KEEP_SVN.MIN, KEEP_SVN.SVN_A, KEEP_SVN.SVN_B, KEEP_SVN.VALID_A, KEEP_SVN.VALID_B]
  | .KEEP_ALARM_CFG => [KEEP_ALARM_CFG.LEVEL, KEEP_ALARM_CFG.COMMIT, KEEP_ALARM_CFG.COMMITTED]
  | .KEEP_ALARM => [KEEP_ALARM.ACTIVE, KEEP_ALARM.SEEN, KEEP_ALARM.LOGS, KEEP_ALARM.LEVEL, KEEP_ALARM.CLEAR]
  | .KEEP_DBG_NONCE => [KEEP_DBG_NONCE.NONCE]
  | .KEEP_DBG_TOKEN => [KEEP_DBG_TOKEN.BYTES]
  | .KEEP_DBG_CTL => [KEEP_DBG_CTL.SUBMIT, KEEP_DBG_CTL.RESULT, KEEP_DBG_CTL.OPEN, KEEP_DBG_CTL.CONTEXT, KEEP_DBG_CTL.FAILS, KEEP_DBG_CTL.LOCK]
  | .MMC_RESET => [MMC_RESET.SCOPE, MMC_RESET.DIE, MMC_RESET.FORCE, MMC_RESET.CLRFAIL, MMC_RESET.GO, MMC_RESET.STATUS, MMC_RESET.REMOVE_OK, MMC_RESET.AUTO]
  | .MMC_UNIT_CMD => [MMC_UNIT_CMD.UNIT, MMC_UNIT_CMD.OP, MMC_UNIT_CMD.FORCE, MMC_UNIT_CMD.GO, MMC_UNIT_CMD.STATUS]
  | .MMC_UNIT_STAT => [MMC_UNIT_STAT.UNIT, MMC_UNIT_STAT.STATE, MMC_UNIT_STAT.FAILED, MMC_UNIT_STAT.DEGRADED, MMC_UNIT_STAT.HELD, MMC_UNIT_STAT.CONTEXT]
  | .MMC_FW => [MMC_FW.KIND, MMC_FW.OP, MMC_FW.GO, MMC_FW.STATUS, MMC_FW.SWITCHING, MMC_FW.WRITTEN]
  | .MMC_FW_DATA => [MMC_FW_DATA.BYTES]
  | .MMC_LOG_SEL => [MMC_LOG_SEL.SEQ, MMC_LOG_SEL.OVERFLOW, MMC_LOG_SEL.VALID]
  | .MMC_LOG_DATA => [MMC_LOG_DATA.BYTES]
  | .MMC_CFG_REJ => [MMC_CFG_REJ.COUNT, MMC_CFG_REJ.LAST_SPACE, MMC_CFG_REJ.LAST_OFFSET, MMC_CFG_REJ.CLR]
  | .MMC_MGR => [MMC_MGR.ID]
  | .MMC_TRACE => [MMC_TRACE.EN, MMC_TRACE.REFUSED]
  | .PWR_IN => [PWR_IN.VOLT, PWR_IN.CUR, PWR_IN.PWR, PWR_IN.AVG1S]
  | .PWR_CAP => [PWR_CAP.CAP, PWR_CAP.FIXED_DUTY]
  | .PWR_STAT => [PWR_STAT.DUTY, PWR_STAT.CAPPING, PWR_STAT.EXCURSION, PWR_STAT.FASTLIM, PWR_STAT.THERM, PWR_STAT.LIMITS]
  | .PWR_DOM_SEL => [PWR_DOM_SEL.INDEX]
  | .PWR_DOM_STAT => [PWR_DOM_STAT.STATE, PWR_DOM_STAT.UNIT, PWR_DOM_STAT.RAISES]
  | .PWR_THERM => [PWR_THERM.DIE_MAX, PWR_THERM.HBM_MAX, PWR_THERM.INLET, PWR_THERM.OUTLET, PWR_THERM.FLOW, PWR_THERM.FLOW_LOW, PWR_THERM.INLET_HIGH, PWR_THERM.LEAK, PWR_THERM.THERM_DIES]
  | .PWR_SB => [PWR_SB.SLOT, PWR_SB.SEAT, PWR_SB.VIN_ON, PWR_SB.KX_DROPS]

/-- How many instances a register has (R562). -/
def RegName.count : RegName → Nat
  | .BRY_OVR_CNT => 9
  | .PRG_MEM_MODE => 8
  | .PRG_SRAM_ECC => 8
  | .STR_ERR => 8
  | .STR_BRAM => 8
  | .SYN_STAT => 8
  | .SYN_LATCH => 8
  | .MEM_ECC => 8
  | .MEM_FILL => 8
  | .LNK_PORT_MAP => 12
  | .LNK_PORT_CFG => 12
  | .LNK_PORT_STAT => 12
  | .LNK_QUAD => 36
  | .RTE_PVIOL => 13
  | .BRY_NBR => 12
  | .BRY_NBR_SERIAL => 12
  | .HOST_SQ_CFG => 512
  | .HOST_CQ_CFG => 64
  | .HOST_CTX_STAT => 64
  | .HOST_CTX => 64
  | .ETH_PORT_CFG => 2
  | .ETH_PFC => 2
  | .ETH_UCAST => 32
  | .ETH_RX_ERR => 2
  | .ETH_RX_DROP => 2
  | .ETH_TX_ERR => 2
  | .ETH_PAUSE => 2
  | .ETH_QCFG => 64
  | .ETH_QWM => 64
  | .ETH_QSTAT => 64
  | .KEEP_SVN => 6
  | .KEEP_DBG_NONCE => 2
  | .KEEP_DBG_TOKEN => 16
  | .MMC_LOG_DATA => 4
  | _ => 1

/-- A row of the register index: the register, its first offset, the step between instances and how many
instances the space holds. -/
structure RegPlace where
  /-- The register. -/
  reg : RegName
  /-- The offset of instance 0. -/
  base : Nat
  /-- The distance between instances. -/
  stride : Nat
  /-- How many instances lie in the space. -/
  count : Nat
  deriving DecidableEq, Repr

/-- The configuration space of a compute die (R563); the die is the instance. -/
def cdPlaces : List RegPlace := [
  ⟨.PRG_MEM_MODE, 0x0400, 0, 1⟩,
  ⟨.PRG_SRAM_ECC, 0x0408, 0, 1⟩,
  ⟨.STR_ERR, 0x0480, 0, 1⟩,
  ⟨.STR_BRAM, 0x0488, 0, 1⟩,
  ⟨.SYN_STAT, 0x0490, 0, 1⟩,
  ⟨.SYN_LATCH, 0x0498, 0, 1⟩,
  ⟨.MEM_ECC, 0x04A0, 0, 1⟩,
  ⟨.MEM_FILL, 0x04A8, 0, 1⟩]

/-- The configuration space of the Brynoa die (R563). -/
def bdPlaces : List RegPlace := [
  ⟨.BRY_OVR_LAST, 0x2708, 0, 1⟩,
  ⟨.BRY_OVR_CNT, 0x2710, 8, 9⟩,
  ⟨.LNK_PROFILE, 0x2000, 0, 1⟩,
  ⟨.LNK_PORT_MAP, 0x2010, 8, 12⟩,
  ⟨.LNK_PORT_CFG, 0x2070, 8, 12⟩,
  ⟨.LNK_PORT_STAT, 0x20D0, 8, 12⟩,
  ⟨.LNK_QUAD, 0x2130, 8, 36⟩,
  ⟨.LNK_CREDIT, 0x2250, 0, 1⟩,
  ⟨.LNK_ERR, 0x2258, 0, 1⟩,
  ⟨.RTE_TBL_SEL, 0x2400, 0, 1⟩,
  ⟨.RTE_TBL_DATA, 0x2408, 0, 1⟩,
  ⟨.RTE_FLIP, 0x2410, 0, 1⟩,
  ⟨.RTE_FLIP_BEAT, 0x2418, 0, 1⟩,
  ⟨.RTE_TIMERS, 0x2420, 0, 1⟩,
  ⟨.RTE_CC, 0x2428, 0, 1⟩,
  ⟨.RTE_ERR, 0x2430, 0, 1⟩,
  ⟨.RTE_REL, 0x2438, 0, 1⟩,
  ⟨.RTE_PVIOL, 0x2440, 8, 13⟩,
  ⟨.BRY_MODULE_ID, 0x2600, 0, 1⟩,
  ⟨.BRY_SERIAL, 0x2608, 0, 1⟩,
  ⟨.BRY_TIME_CFG, 0x2610, 0, 1⟩,
  ⟨.BRY_TIME_STAT, 0x2618, 0, 1⟩,
  ⟨.BRY_BEAT, 0x2620, 0, 1⟩,
  ⟨.BRY_PERIOD, 0x2628, 0, 1⟩,
  ⟨.BRY_PERIOD_AT, 0x2630, 0, 1⟩,
  ⟨.BRY_NBR, 0x2640, 8, 12⟩,
  ⟨.BRY_NBR_SERIAL, 0x26A0, 8, 12⟩,
  ⟨.BRY_LS_STAT, 0x2700, 0, 1⟩,
  ⟨.ETH_PORT_CFG, 0x2800, 8, 2⟩,
  ⟨.ETH_PFC, 0x2810, 8, 2⟩,
  ⟨.ETH_UCAST, 0x2820, 8, 32⟩,
  ⟨.ETH_RULE_SEL, 0x2920, 0, 1⟩,
  ⟨.ETH_RULE_DATA, 0x2928, 0, 1⟩,
  ⟨.ETH_RX_ERR, 0x2930, 8, 2⟩,
  ⟨.ETH_RX_DROP, 0x2940, 8, 2⟩,
  ⟨.ETH_TX_ERR, 0x2950, 8, 2⟩,
  ⟨.ETH_PAUSE, 0x2960, 8, 2⟩,
  ⟨.KEEP_STAT, 0x2A00, 0, 1⟩,
  ⟨.KEEP_BOOT, 0x2A08, 0, 1⟩,
  ⟨.KEEP_SVN, 0x2A10, 8, 6⟩,
  ⟨.KEEP_ALARM_CFG, 0x2A40, 0, 1⟩,
  ⟨.KEEP_ALARM, 0x2A48, 0, 1⟩,
  ⟨.KEEP_DBG_NONCE, 0x2A50, 8, 2⟩,
  ⟨.KEEP_DBG_TOKEN, 0x2A60, 8, 16⟩,
  ⟨.KEEP_DBG_CTL, 0x2AE0, 0, 1⟩,
  ⟨.MMC_RESET, 0x2C00, 0, 1⟩,
  ⟨.MMC_UNIT_CMD, 0x2C08, 0, 1⟩,
  ⟨.MMC_UNIT_STAT, 0x2C10, 0, 1⟩,
  ⟨.MMC_FW, 0x2C18, 0, 1⟩,
  ⟨.MMC_FW_DATA, 0x2C20, 0, 1⟩,
  ⟨.MMC_LOG_SEL, 0x2C28, 0, 1⟩,
  ⟨.MMC_LOG_DATA, 0x2C30, 8, 4⟩,
  ⟨.MMC_CFG_REJ, 0x2C50, 0, 1⟩,
  ⟨.MMC_MGR, 0x2C58, 0, 1⟩,
  ⟨.MMC_TRACE, 0x2C60, 0, 1⟩,
  ⟨.PWR_IN, 0x2E00, 0, 1⟩,
  ⟨.PWR_CAP, 0x2E08, 0, 1⟩,
  ⟨.PWR_STAT, 0x2E10, 0, 1⟩,
  ⟨.PWR_DOM_SEL, 0x2E18, 0, 1⟩,
  ⟨.PWR_DOM_STAT, 0x2E20, 0, 1⟩,
  ⟨.PWR_THERM, 0x2E28, 0, 1⟩,
  ⟨.PWR_SB, 0x2E30, 0, 1⟩]

/-- PF BAR0 without the Ethernet queue blocks (R566). -/
def pfPlaces : List RegPlace := [
  ⟨.HOST_ADM_SQ_CFG, 0x0000, 0, 1⟩,
  ⟨.HOST_ADM_CQ_CFG, 0x0008, 0, 1⟩,
  ⟨.HOST_MOD_STAT, 0x0010, 0, 1⟩,
  ⟨.HOST_CTX, 0x0100, 8, 64⟩]

end Sys2Proof.Machine
end

