-- ==== Sys2Proof/Machine/Table.lean ====
section
/-! DEFINITION. Operations on sparse tables (`Tbl`): a table lists, by strictly rising key, the entries that
differ from what an unlisted key reads as, so equal contents are equal data. -/

namespace Sys2Proof.Machine

/-- What the table holds at `k`; `d` is what an unlisted key reads as. -/
def tblGet {V : Type} (d : V) : Tbl V → Nat → V
  | [], _ => d
  | (j, v) :: t, k => if j = k then v else tblGet d t k

/-- The table without an entry at `k`. -/
def tblDel {V : Type} (t : Tbl V) (k : Nat) : Tbl V := t.filter (fun e => e.1 ≠ k)

/-- The table with `v` listed at `k`. -/
def tblIns {V : Type} (v : V) : Tbl V → Nat → Tbl V
  | [], k => [(k, v)]
  | (j, w) :: t, k => if k < j then (k, v) :: (j, w) :: t else if j = k then (k, v) :: t else (j, w) :: tblIns v t k

/-- The table that holds `v` at `k` and is otherwise the same; the default `d` is never listed. -/
def tblSet {V : Type} [DecidableEq V] (d : V) (t : Tbl V) (k : Nat) (v : V) : Tbl V :=
  if v = d then tblDel t k else tblIns v t k

/-- The table with entry `k` changed by `f`. -/
def tblMod {V : Type} [DecidableEq V] (d : V) (t : Tbl V) (k : Nat) (f : V → V) : Tbl V :=
  tblSet d t k (f (tblGet d t k))

/-- The table without the entries whose key satisfies `p`: those keys read as the default. -/
def tblDrop {V : Type} (p : Nat → Bool) (t : Tbl V) : Tbl V := t.filter (fun e => !p e.1)

/-- The table with every listed entry changed by `f`, entries that become the default dropped. -/
def tblMap {V : Type} [DecidableEq V] (d : V) (f : Nat → V → V) (t : Tbl V) : Tbl V :=
  (t.map (fun e => (e.1, f e.1 e.2))).filter (fun e => e.2 ≠ d)

/-- The keys rise strictly from `lo` on. -/
def tblRising {V : Type} : Nat → Tbl V → Bool
  | _, [] => true
  | lo, (k, _) :: t => lo ≤ k && tblRising (k + 1) t

/-- The canonical form: keys strictly rising and no entry that holds the default. -/
def tblWf {V : Type} [DecidableEq V] (d : V) (t : Tbl V) : Bool := tblRising 0 t && t.all (fun e => e.2 ≠ d)

/-- Sets the keys `k`, `k + 1`, … to the values of a list. -/
def tblSetList {V : Type} [DecidableEq V] (d : V) (t : Tbl V) : Nat → List V → Tbl V
  | _, [] => t
  | k, v :: vs => tblSetList d (tblSet d t k v) (k + 1) vs

/-- Sets every key of a list to `v`. -/
def tblSetAll {V : Type} [DecidableEq V] (d : V) (t : Tbl V) (ks : List Nat) (v : V) : Tbl V :=
  ks.foldl (fun t k => tblSet d t k v) t

end Sys2Proof.Machine
end

