-- ==== Sys2Proof/Machine/State.lean ====
section
/-! DEFINITION. The state of the module as plain data.  `Fuses` is what only ever rises, `Mem` is every byte of
addressable memory, `Dev` is everything else and `pending` is the queue of commands.  State that exists once per
instance is a sparse table (`Tbl`) whose unlisted keys read as the record's `init`. -/

namespace Sys2Proof.Machine

/-! ### Power (R534 to R557) and module state (R507 to R533) -/

/-- The module's states (R18, R507), in the order of HOST_MOD_STAT (R462). -/
inductive ModState where
  | off | standby | training | ready | running | halted | recovery | alarm
  deriving DecidableEq, Repr

/-- The states of a unit (R18, R516), in the order of MMC_UNIT_STAT (R533). -/
inductive UnitState where
  | out | scrub | test | standby | admitted
  deriving DecidableEq, Repr

/-- A unit group: the units that share a power domain and so move together (R517, R542). -/
structure UnitRec where
  state : UnitState
  failed : Bool
  deriving DecidableEq, Repr

/-- A unit before the first start: OUT, not failed. -/
def UnitRec.init : UnitRec := ⟨.out, false⟩

/-- The states of a power domain, in the order of PWR_DOM_STAT (R557). -/
inductive DomState where
  | off | raising | on | lowering
  deriving DecidableEq, Repr

/-- A power domain: its state and its raises since cold start (R542, R557). -/
structure DomRec where
  state : DomState
  raises : Nat
  deriving DecidableEq, Repr

/-- A domain that is off. -/
def DomRec.init : DomRec := ⟨.off, 0⟩

/-- The power controller (R534 to R548). -/
structure Power where
  /-- VSB12 is present. -/
  vsb12 : Bool
  /-- VIN48 is in its range at the contacts. -/
  vin48 : Bool
  /-- The SEAT loop is closed. -/
  seat : Bool
  /-- The module's VIN48 switch is closed. -/
  vinOn : Bool
  /-- Power domains by index (R542). -/
  doms : Tbl DomRec
  /-- The duty of the sustained controller (R539). -/
  sustained : Nat
  /-- The duty of the excursion controller (R539). -/
  excursion : Nat
  /-- The duty of the peak limiter (R539). -/
  peak : Nat
  /-- How many 100 microsecond steps the present run above 2,000 W has lasted (R539). -/
  overRun : Nat
  /-- Dies held at 32 by their thermal limit, bit n for CDn (R544). -/
  thermal : Nat
  /-- The CCLK cycle in which the always-on domain of each die was last raised: the origin of DCYC (R187). -/
  aonCycle : Tbl Nat
  /-- FIXED_DUTY as the last 100 microsecond step took it (R541). -/
  fixed : Nat
  deriving DecidableEq, Repr

/-- No rail present, every duty at 64. -/
def Power.init : Power := ⟨false, false, false, false, [], 64, 64, 64, 0, 0, [], 0⟩

/-- A start sequence in progress (R509, R511). -/
structure StartRun where
  /-- A cold start, or a warm one. -/
  cold : Bool
  /-- The scope was the Brynoa die (R510). -/
  brynoa : Bool
  deriving DecidableEq, Repr

/-- An error record of the log (R528), without its SEQ. -/
structure ErrRec where
  seq : Nat
  cls : Nat
  source : Nat
  unit : Nat
  cause : Nat
  count : Nat
  unitState : Nat
  detailKind : Nat
  beat : Nat
  detail : Nat
  /-- The CCLK cycle of the first occurrence (R528: repeats within 1 ms merge). -/
  at' : Nat
  deriving DecidableEq, Repr

/-- A flash slot: the image it holds, its SVN and whether the Keeper's check passed since it was last written
(R486, R487, R523). -/
structure FlashSlot where
  image : Bytes
  svn : Nat
  valid : Bool
  deriving DecidableEq, Repr

/-- A slot as the factory leaves it: an image that passes the check, of SVN 0.
DESIGN CHOICE, log 6. -/
def FlashSlot.init : FlashSlot := ⟨[], 0, true⟩

/-- The MMC: module state, starts, units, error log, firmware (R507 to R533). -/
structure Mmc where
  state : ModState
  /-- The start sequence in progress. -/
  start : Option StartRun
  /-- A start has failed and the next begins 1 s later (R507). -/
  retry : Bool
  /-- The module is held in TRAINING until a reset (R527). -/
  heldDown : Bool
  /-- Unit groups by domain index 0 to 375 (R516, R542). -/
  units : Tbl UnitRec
  /-- The unit command that is pending: its group and whether it is a BRING_IN (R522). -/
  unitCmd : Option (Nat × Bool)
  /-- Die links whose traffic takes the Brynoa route, bit n for IRn (R33). -/
  routed : Nat
  /-- The error log, oldest first, at most 1,024 records (R528). -/
  log : List ErrRec
  /-- The next SEQ. -/
  seq : Nat
  /-- Error records held while the MMC switches its firmware, at most 16 (R524). -/
  heldRecs : List ErrRec
  /-- Flash slots by kind × 2 + slot (R486). -/
  flash : Tbl FlashSlot
  /-- The kind whose BEGIN is open, with the bytes written since (R523). -/
  begun : Option (Nat × Bytes)
  /-- The kind whose live switch is in progress (R524). -/
  switching : Option Nat
  /-- VIN48's overvoltage holds the input switch open (R534). -/
  overVolt : Bool
  deriving DecidableEq, Repr

/-- Before standby power. -/
def Mmc.init : Mmc := ⟨.off, none, false, false, [], none, 0, [], 0, [], [], none, none, false⟩

/-! ### Keeper (R484 to R506) -/

/-- How far an SPDM exchange has come on a function (R489). -/
inductive SpdmStage where
  | start | version | capabilities | algorithms
  deriving DecidableEq, Repr

/-- A session of the Keeper (R489): the function it is bound to, whether FINISH has completed it, its key phase. -/
structure Session where
  fn : FnId
  established : Bool
  updates : Nat
  deriving DecidableEq, Repr

/-- A job link key with its generation (R494). -/
structure LinkKey where
  key : Bytes
  gen : Nat
  /-- The key of the generation before (R494). -/
  prev : Option Bytes
  deriving DecidableEq, Repr

/-- The keys of one context (R484). -/
structure CtxKeys where
  /-- Model keys by handle. -/
  model : Tbl Bytes
  /-- The job link key. -/
  link : Option LinkKey
  /-- The context's debug key, x then y. -/
  debug : Option Bytes
  deriving DecidableEq, Repr

/-- A context without keys. -/
def CtxKeys.init : CtxKeys := ⟨[], none, none⟩

/-- What the debug unlock has open (R503). -/
inductive DebugOpen where
  | locked | context (c : CtxId) | module
  deriving DecidableEq, Repr

/-- The Keeper (R484 to R506). -/
structure Keeper where
  /-- The key slots that are loaded, by slot (R312): 0 system, c + 1 context, 65 + i image. -/
  slots : Tbl Bool
  ctx : Tbl CtxKeys
  /-- Retired link keys by PKEY (R496). -/
  retired : Tbl (Option LinkKey)
  sessions : Tbl (Option Session)
  spdm : Tbl SpdmStage
  nonce : Bytes
  nonceValid : Bool
  token : Tbl W64
  lockout : Bool
  debug : DebugOpen
  moduleDebug : Bool
  /-- Times of the VGLITCH and CGLITCH trips of the last second, newest first (R499). -/
  trips : List (Nat × Nat)
  /-- ERASE has acted since the last cold start (R500). -/
  erased : Bool
  deriving DecidableEq, Repr

/-- An empty key store. -/
def Keeper.init : Keeper := ⟨[], [], [], [], [], [], false, [], false, .locked, false, [], false⟩

/-! ### Ownership and translation (R298 to R306) -/

/-- The owner states of an allocation unit (R298).  OUT is the state of the unit's device (R301). -/
inductive Owner where
  | freeClean | freeDirty | context (c : CtxId) (weight : Bool) | image (i : Nat) | host | reserved
  deriving DecidableEq, Repr

/-- The ownership map, the host region and the images (R298, R427, R447, R459). -/
structure Own where
  /-- Owner states by unit, where they differ from their device's base state. -/
  map : Tbl Owner
  /-- Capacity devices whose granules start as free and not as HOST, bit m for CMm (R301, R520). -/
  capFree : Nat
  /-- DPA granules that are released, or backed by another unit than granule k itself (R447). -/
  dpa : Tbl (Option (Option Nat))
  /-- Images by number: their units and the contexts granted (R459). -/
  images : Tbl (Option (List Nat × List CtxId))
  /-- Cached translations: context, page number, level and leaf (R305). -/
  tlb : List (CtxId × Nat × Nat × Nat)
  deriving DecidableEq, Repr

/-- After a cold start: capacity memory is HOST, all else is free. -/
def Own.init : Own := ⟨[], 0, [], [], []⟩

/-! ### The host interface (R424 to R462) -/

/-- A submission ring: head and tail (R433). -/
structure SqRec where
  head : Nat
  tail : Nat
  deriving DecidableEq, Repr

/-- A ring just enabled. -/
def SqRec.init : SqRec := ⟨0, 0⟩

/-- An item for a completion ring: a completion of one slot or an event of two (R434, R438), bytes without PHASE. -/
structure CqItem where
  event : Bool
  header : Bytes
  body : Bytes
  deriving DecidableEq, Repr

/-- A completion ring: head, slots posted beyond it, the write position, phase and what is held (R435, R436). -/
structure CqRec where
  head : Nat
  posted : Nat
  tail : Nat
  phase : Bool
  armed : Bool
  held : List CqItem
  lost : Nat
  deriving DecidableEq, Repr

/-- A ring just enabled: the first pass writes PHASE as 1. -/
def CqRec.init : CqRec := ⟨0, 0, 0, true, false, [], 0⟩

/-- A command fetched and not yet completed (R432): its ring, its entry, the ring's head after the fetch, whether
it has started, and the completion that a long command still owes (R446): code, results. -/
structure Fetched where
  ring : HostRing
  entry : Bytes
  sqHead : Nat
  begun : Bool
  owes : Option (Nat × Nat × Nat)
  deriving DecidableEq, Repr

/-- The host interface and the command arbiter. -/
structure HostIf where
  sq : Tbl SqRec
  cq : Tbl CqRec
  fetched : List Fetched
  /-- The arbiter's round-robin pointer over the 513 rings (R432). -/
  pointer : Nat
  /-- NumVFs, 0 while VF Enable is clear (R425, R460). -/
  numVfs : Nat
  /-- CXL.mem is negotiated (R427). -/
  cxl : Bool
  /-- Administration commands completed, doorbells ignored, bytes copied (R448). -/
  admDone : Nat
  admCopied : Nat
  /-- Events posted to the administration ring (R479). -/
  admEvents : Nat
  /-- Events of the administration ring discarded (R436, R448). -/
  admLost : Nat
  deriving DecidableEq, Repr

/-- After a reset of the host interface. -/
def HostIf.init : HostIf := ⟨[], [], [], 0, 0, false, 0, 0, 0, 0⟩

/-! ### Contexts (R440 to R459) and beat programs (R41 to R76) -/

/-- The states of a context (R18, R449). -/
inductive CtxState where
  | free | assigned | running | halted | killing
  deriving DecidableEq, Repr

/-- A ring descriptor of a container (R46). -/
structure RingDesc where
  raw : Bytes
  deriving DecidableEq, Repr

/-- A lap entry (R453). -/
structure Lap where
  start : Nat
  lap : Nat
  ring : Nat
  grad : Bool
  deriving DecidableEq, Repr

/-- A core entry (R454). -/
structure CoreEntry where
  die : Nat
  core : Nat
  enable : Nat
  qown : Nat
  entries : List Nat
  deriving DecidableEq, Repr

/-- A ring region entry (R454). -/
structure RegionEntry where
  die : Nat
  core : Nat
  region : Nat
  weight : Bool
  base : Nat
  layout : Nat
  deriving DecidableEq, Repr

/-- A loaded container (R451 to R455). -/
structure Container where
  beatLocked : Bool
  det : Bool
  lockstep : Nat
  memMode : Nat
  period : Nat
  guard : Nat
  pm1 : Nat
  iter : Nat
  rank : Nat
  partner : Nat
  diePairs : Nat
  rings : List RingDesc
  laps : List Lap
  regions : List RegionEntry
  cores : List CoreEntry
  restarts : List Nat
  digest : Bytes
  deriving DecidableEq, Repr

/-- A slot fill that the beat program expects (R48, R52, R56): the ring, whether it is a gradient, the slice, the tag,
the domain beat at which the slot is due to be held, the slot on each die that receives the slice, whether the source is the module itself (an origin fill)
and, for such a fill, whether it is done. -/
structure Fill where
  ring : Nat
  grad : Bool
  slice : Nat
  lap : Nat
  origin : Nat
  due : Nat
  slots : List (Nat × Nat)
  own : Bool
  done : Bool
  pos : Nat
  deriving DecidableEq, Repr

/-- A slice that the module itself moves on S1 of a slot core (R50, R61, R233): an origin fill, or a relay downstream;
the ring, slice, its block tag, the domain beat at which a filled slot is due, and the slot filled or sent from. -/
structure RingMove where
  ctx : CtxId
  ring : Nat
  grad : Bool
  slice : Nat
  fill : Bool
  lap : Nat
  origin : Nat
  due : Nat
  slot : Nat
  deriving DecidableEq, Repr

/-- A detection of an overrun in the present beat (R65, R66), with the fields of its record (R68). -/
structure Detection where
  beat : Nat
  cause : Nat
  unit : Nat
  ringId : Nat
  origin : Nat
  lap : Nat
  arrived : Nat
  expected : Nat
  slice : Nat
  deriving DecidableEq, Repr

/-- Lock-step state of a context (R416 to R421): the form in force (0 none, 1 module pair, 2 die pairs), the digests
of the present beat by unit code, those of the beat before with its number, the partner digests that have arrived (beat,
unit, block), the newest beat compared, and whether a mismatch has been found. -/
structure LockStep where
  form : Nat
  own : Tbl Nat
  last : Tbl Nat
  lastBeat : Option Nat
  heard : List (Nat × Nat × Bytes)
  compared : Option Nat
  halt : Bool
  deriving DecidableEq, Repr

/-- No lock-step. -/
def LockStep.init : LockStep := ⟨0, [], [], none, [], none, false⟩

/-- An import in progress (R457, R458, R480): its command, the key, the next record's number and offset, how far the
records have been read in context memory, the bytes that an import queue has delivered, the image that it makes. -/
structure ImportRun where
  entry : Bytes
  ring : HostRing
  key : Bytes
  next : Nat
  offset : Nat
  pos : Nat
  buf : Bytes
  image : Option Nat
  deriving DecidableEq, Repr

/-- One of the 64 contexts. -/
structure Ctx where
  state : CtxState
  owner : FnId
  pkey : Nat
  coreQuota : Nat
  hbmQuota : Nat
  capQuota : Nat
  shmQuota : Nat
  memMode : Nat
  /-- CTX_SETUP has completed; the root table's global address (R302, R443). -/
  root : Option Nat
  /-- Cores held, as die × 12 + core. -/
  cores : List Nat
  loaded : Option Container
  /-- A START has been performed since LOAD (R444). -/
  started : Bool
  /-- The recorded job seed J (R106). -/
  seed : Nat
  /-- B₀ and R₀ of the present run (R42). -/
  b0 : Nat
  r0 : Nat
  /-- Iterations completed are counted by beats since B₀; the domain beat of the present beat. -/
  beat : Nat
  /-- The domain beat at which the program's run began, moved by the beats that a halt has cost (R42, R73). -/
  run0 : Nat
  /-- Iterations of the program completed since the first START (R42). -/
  iters : Nat
  /-- The present run resumed a HALT_AT_BEAT: the slots already hold their blocks at tick B₀ (R73). -/
  resumed : Bool
  /-- Every allocation unit assigned to the context since ASSIGN, in order of assignment (R418). -/
  given : List Nat
  /-- A START that has passed its checks and waits for tick B₀ (R444). -/
  startAt : Option Nat
  /-- A pending HALT_AT_BEAT (R445). -/
  haltAt : Option Nat
  /-- The halt was a HALT_AT_BEAT and its RBEAT (R444). -/
  haltRbeat : Option Nat
  /-- Overrun actions have begun: the context halts at the next tick (R69). -/
  overrun : Bool
  /-- RING_HALT has been sent since the last START (R70). -/
  ringHaltSent : Bool
  /-- An overrun record has been posted since START (R68). -/
  overrunSeen : Bool
  detections : List Detection
  fills : List Fill
  /-- Slots released and held by ring, gradient and die are the regions' TAIL and HEAD; the held flag per ring key. -/
  held : Tbl Bool
  lock : LockStep
  imports : List ImportRun
  /-- Event number, counted from ASSIGN (R438). -/
  eventNo : Nat
  /-- Who killed the context (R439): the master code. -/
  issuer : Nat
  /-- The command that the KILL completes, if a command issued it. -/
  killCmd : Option Fetched
  /-- Counts of STATS (R448): commands completed, events posted, overruns, beats run, bytes copied, bytes
  imported, events lost. -/
  done : Nat
  events : Nat
  overruns : Nat
  beats : Nat
  copied : Nat
  imported : Nat
  lost : Nat
  /-- Ring shards dropped for a mismatch (R52). -/
  dropped : Nat
  /-- Accesses to units that are not ADMITTED (R34). -/
  notAdmitted : Nat
  /-- A counter fault of the present beat: the unit that WORK_LATE names (R270). -/
  lateUnit : Option Nat
  deriving DecidableEq, Repr

/-- A FREE context that has never been assigned. -/
def Ctx.init : Ctx :=
  { state := .free, owner := 0, pkey := 0, coreQuota := 0, hbmQuota := 0, capQuota := 0, shmQuota := 0, memMode := 0,
    root := none, cores := [], loaded := none, started := false, seed := 0, b0 := 0, r0 := 0, beat := 0,
    run0 := 0, iters := 0, resumed := false, given := [], startAt := none, haltAt := none, haltRbeat := none, overrun := false,
    ringHaltSent := false, overrunSeen := false,
    detections := [], fills := [], held := [], lock := LockStep.init, imports := [], eventNo := 0,
    issuer := 0, killCmd := none, done := 0, events := 0, overruns := 0, beats := 0, copied := 0, imported := 0, lost := 0, dropped := 0,
    notAdmitted := 0, lateUnit := none }

/-! ### Cores and threads (R147 to R168) -/

/-- The states of a thread (R151), in the order of their codes. -/
inductive ThState where
  | idle | ready | stall | wait | beat | fault | debug | done
  deriving DecidableEq, Repr

/-- A load that has been issued and not yet returned (R157). -/
structure PendLoad where
  rd : Nat
  va : Nat
  ga : Nat
  bytes : Nat
  unsigned : Bool
  compressed : Bool
  remote : Bool
  deriving DecidableEq, Repr

/-- A far atomic that has been issued and not yet answered (R308, R391): its identifier among the core's short writes,
destination, bytes and context address. -/
structure PendAmo where
  id : Nat
  rd : Nat
  bytes : Nat
  va : Nat
  deriving DecidableEq, Repr

/-- Why a thread is in STALL (R151). -/
inductive Stall where
  | load (l : PendLoad)
  | amo (a : PendAmo)
  | queue (q : Nat) (rd : Nat) (cmd : Bytes)
  /-- A slot, by region key, whose tag blocks an access: a read waits until it is FULL, a write until it is EMPTY. -/
  | tag (region slot : Nat) (wantFull : Bool)
  | fenceU (mask : Nat)
  | fenceR
  | fenceG
  | ctrl (region : Nat) (push : Bool)
  /-- 32 short writes of the core are in flight (R230), or an earlier far write of the thread to the same line has not been
  acknowledged (R281). -/
  | short
  deriving DecidableEq, Repr

/-- What a thread in WAIT waits for (R161): object kind, identifier or region, condition, operand, destination. -/
structure WaitOn where
  kind : Nat
  obj : Nat
  cond : Nat
  operand : Nat
  rd : Nat
  /-- The value that made the condition hold, once one has: the thread wakes with it (R271). -/
  hit : Option Nat
  deriving DecidableEq, Repr

/-- A hardware thread. -/
structure Thread where
  state : ThState
  pc : Nat
  x : Tbl W64
  mwtmo : Nat
  cause : Nat
  tval : Nat
  tpc : Nat
  tmo : Bool
  resv : Option Nat
  stall : Option Stall
  wait : Option WaitOn
  /-- rd of a BEAT.WAIT, and the domain beat in which it began. -/
  beatRd : Nat
  beatIn : Nat
  /-- Far accesses not yet acknowledged: identifier, home line, PC, context address (R165, R281). -/
  far : List (Nat × Nat × Nat × Nat)
  deriving DecidableEq, Repr

/-- A thread before the first START. -/
def Thread.init : Thread := ⟨.idle, 0, [], 0, 0, 0, 0, false, none, none, none, 0, 0, []⟩

/-! ### Command queues (R119 to R126, R160) -/

/-- A command in a queue: its 32 bytes, accept number, issuing thread, the beat it belongs to, once executed its
completion word, and the bits [17:8] of that word that a stream command has gathered so far; for a VSEED that names engines,
how many commands E0 to E3 had accepted then (R145). -/
structure QCmd where
  bytes : Bytes
  accept : Nat
  thread : Nat
  beat : Nat
  result : Option Nat
  flags : Nat
  after : List Nat
  deriving DecidableEq, Repr

/-- One of the seven command queues of a core. -/
structure Queue where
  cmds : List QCmd
  accepts : Nat
  stopped : Bool
  lastWord : Nat
  lastTag : Nat
  fail : Option (Nat × Nat)
  /-- Owner in MQOWN, where there is one (R155, R167). -/
  owner : Option Nat
  pointer : Nat
  deriving DecidableEq, Repr

/-- An empty, running queue. -/
def Queue.init : Queue := ⟨[], 0, false, 0, 0, none, none, 0⟩

/-- A line of SRAM as it was before a race: what a command of a queue, by accept number, has written over it (R121), or what stood
in a descriptor when its CHAIN was accepted (R214); with how many commands the queue had accepted when the writer completed, which
is as far as the race goes. -/
structure Past where
  accept : Nat
  until' : Option Nat
  line : Nat
  data : Bytes
  written : Bool
  poison : Bool
  deriving DecidableEq, Repr

/-! ### Scratchpad (R169 to R205) -/

/-- A circular region (R191) and its ARRIVAL count (R195). -/
structure Region where
  base : Nat
  slotBytes : Nat
  slots : Nat
  valid : Bool
  tags : Bool
  weight : Bool
  commit : Bool
  ring : Bool
  layout : Nat
  status : Nat
  expect : Nat
  head : Nat
  tail : Nat
  arrival : Nat
  deriving DecidableEq, Repr

/-- A descriptor that has never been written. -/
def Region.init : Region := ⟨0, 0, 0, false, false, false, false, false, 0, 0, 0, 0, 0, 0⟩

/-- What a core holds beside its threads and queues: FP status (R167), UNINIT word (R200), handle queues (R227),
MCYC origin, which of its generators are seeded: bit 0 the vector lanes, bit 1 E0 and E1, bit 2 E2 and E3 (R106). -/
structure Core where
  fpstat : Nat
  uninit : W64
  handles : Tbl (List W64)
  born : Nat
  seeded : Nat
  /-- The core's issue of write units: identifiers of short writes and far accesses in flight (R230). -/
  shorts : List Nat
  /-- PORGUS firmware switches at the next passage through OUT (R524). -/
  fwSlot : Bool
  deriving DecidableEq, Repr

/-- A core after a cold start. -/
def Core.init : Core := ⟨0, 0, [], 0, 0, [], false⟩

/-- What waits for an access's acknowledgement (R230, R389, R391): nothing; a segment or short write of stream engine k's
transfer with an accept number and descriptor index, with the address that it names and its place on the core's short-write
path, where it has one; a relay of stream engine k; a far store of a core; the AMO of a thread with its place on the path; a
get of stream engine k, with the requester's address, the bytes still to come and the address named; the load of a thread. -/
inductive Sender where
  | none
  | stream (k accept index named : Nat) (slot : Option Nat)
  | relay (k : Nat) (mv : RingMove)
  | far (core id : Nat)
  | amo (thread id : Nat)
  | get (k accept index raddr left named : Nat)
  | load (thread : Nat)
  deriving DecidableEq, Repr

/-- A write unit, far store, short write or atomic that has left its unit and has not arrived at its home inside the
module (R195, R230), or has been performed and waits for its acknowledgement to reach the issuing core: who gave it (unit
code, thread), what it is where it is an atomic of some bytes, its address (bits [47:0]), data and the bit map of poisoned
pieces of 64 bytes, what waits for it, whether it holds a place on the short-write path, and its answer once performed: a
status of R389, the old value, whether that was uninitialised. -/
structure Flight where
  id : Nat
  ctx : CtxId
  unit : Nat
  thread : Option Nat
  amo : Option (AmoKind × Nat)
  addr : Nat
  data : Bytes
  marks : Nat
  who : Sender
  short : Bool
  answer : Option (Nat × Nat × Bool)
  deriving DecidableEq, Repr

/-! ### Sync store (R264 to R278) -/

/-- A physical sync object with its debug record (R264, R277). -/
structure SyncObj where
  value : Nat
  kind : Nat
  limit : Nat
  participants : Nat
  arrived : Nat
  line : Nat
  /-- The level this die drives on the object's Latch line (R274). -/
  drive : Bool
  /-- The line went high and this die has not yet performed its release (R274). -/
  release : Bool
  faulted : Bool
  bound : Bool
  vid : Nat
  ctx : CtxId
  ringIdx : Nat
  ringGrad : Bool
  ringSlots : Nat
  lastModule : Nat
  lastUnit : Nat
  lastThread : Nat
  lastSrc : Nat
  lastBeat : Nat
  deriving DecidableEq, Repr

/-- A free object. -/
def SyncObj.init : SyncObj := ⟨0, 0, 0, 0, 0, 0, false, false, false, false, 0, 0, 0, false, 0, 0, 0, 0, 0, 0⟩

/-- The sync stores of the eight dies and the translation tables (R264, R265). -/
structure Sync where
  objs : Tbl SyncObj
  vids : Tbl (Option Nat)
  deriving DecidableEq, Repr

/-! ### Engines and vector units (R107 to R146) -/

/-- A stationary tile slot (R110, R128): the LOADB fields and the bytes it loaded. -/
structure Tile where
  wfmt : Nat
  kdepth : Nat
  ncols : Nat
  data : Bytes
  scales : Bytes
  poison : Bool
  deriving DecidableEq, Repr

/-- An accumulator row (R115): element type, written bit, poison bit and the 128 words that differ from 0. -/
structure AccRow where
  ty : Nat
  written : Bool
  poison : Bool
  cols : Tbl W32
  deriving DecidableEq, Repr

/-- A row after clearing. -/
def AccRow.init : AccRow := ⟨0, false, false, []⟩

/-- A matrix engine: its two tile slots, accumulator rows and epilogue slots (R110, R115, R132). -/
structure Engine where
  tiles : Tbl (Option Tile)
  acc : Tbl AccRow
  epi : Tbl Bytes
  deriving DecidableEq, Repr

/-- An engine after clearing. -/
def Engine.init : Engine := ⟨[], [], []⟩

/-! ### Stream engines (R206 to R243) -/

/-- A destination piece of a Bramble transfer (R259): its offset, its bytes, whether they are poisoned, and whether it goes as a
short write (R223). -/
structure Piece where
  off : Nat
  data : Bytes
  poison : Bool
  short : Bool
  deriving DecidableEq, Repr

/-- A transfer in flight (R207, R208), or a SHORT command, which takes no slot: the accept number and bytes of its command,
its descriptor (an XFER or SHORT is kept as the LINEAR descriptor that does the same), the descriptor's index and whether it
is the chain's last; how far it has come: the run or element, destination bytes of that run, destination bytes in all;
whether all is issued and what of it is not acknowledged; the handle that it has popped, and whether it has still to pop one
(R228, R229); poison and uninitialised reads, the status bits of R99; a status other than OK with the access and address that
failed (R235) and the check, sub-stream and block of a Bramble failure (R256); the segments of a Bramble transfer still to
be issued, by destination offset (R259), and the failure that follows them; and the ring move that it is, where it is one
(R233). -/
structure Transfer where
  accept : Nat
  cmd : Bytes
  desc : Bytes
  index : Nat
  last : Bool
  run : Nat
  off : Nat
  wrote : Nat
  issued : Bool
  unacked : Nat
  handle : Option W64
  pops : Bool
  poison : Bool
  uninit : Bool
  fpstat : Nat
  status : Nat
  access : Nat
  fault : Nat
  check : Nat × Nat × Nat
  plan : Option (List Piece)
  planEnd : Option (Nat × Nat × Nat × Nat)
  own : Option RingMove
  deriving DecidableEq, Repr

/-- A transfer that starts. -/
def Transfer.init : Transfer :=
  { accept := 0, cmd := [], desc := [], index := 0, last := true, run := 0, off := 0, wrote := 0, issued := false,
    unacked := 0, handle := none, pops := false, poison := false, uninit := false, fpstat := 0, status := 0, access := 0,
    fault := 0, check := (0, 0, 0), plan := none, planEnd := none, own := none }

/-- Whether a transfer holds one of the six slots: every one but a SHORT command (R207). -/
def Transfer.slotted (t : Transfer) : Bool := t.own.isSome || t.cmd.head? ≠ some 0x22

/-- A dependence marker that an engine has reached (R226): kind 0 has no condition, 1 waits on a sync object, 2 on an
arrival counter; whether a value has met the threshold (R271). -/
structure Marker where
  kind : Nat
  obj : Nat
  value : Nat
  hit : Bool
  deriving DecidableEq, Repr

/-- A CHAIN whose descriptors are being started (R214): the accept number and bytes of the command, the index of the next
descriptor and, where the engine has read it for its marker (R226), its bytes. -/
structure ChainRun where
  accept : Nat
  cmd : Bytes
  next : Nat
  desc : Option Bytes
  deriving DecidableEq, Repr

/-- A stream engine (R206 to R241). -/
structure Stream where
  transfers : List Transfer
  save : Option Nat
  fsync : Option Nat
  marker : Option Marker
  chain : Option ChainRun
  /-- Ring fills and relays that wait for a transfer slot (R233). -/
  ownWait : List RingMove
  deriving DecidableEq, Repr

/-- An engine after START. -/
def Stream.init : Stream := ⟨[], none, none, none, none, []⟩

/-- How many of the six transfer slots are held (R207, R233). -/
def Stream.slots (s : Stream) : Nat := (s.transfers.filter (·.slotted)).length

/-! ### Domain time and beat (R404 to R412) -/

/-- The beat counter and the time exchange (R404 to R410). -/
structure Time where
  /-- The master beat counter (R404). -/
  beat : Nat
  /-- Domain time of the last tick, in 1/16 ns (R404). -/
  tickT : Nat
  /-- The CCLK cycle of the last tick (the model's count, R163). -/
  tickCycle : Nat
  /-- An announced period and the beat at which it takes effect (R410). -/
  announced : Option (Nat × Nat)
  /-- The exchange that is open: REQ_ID and t1 (R405). -/
  exchange : Option (Nat × Nat)
  reqId : Nat
  /-- Consecutive complete exchanges within the bound (R407). -/
  good : Nat
  /-- STATE and HOPS of the parent's last response (R406). -/
  parent : Nat × Nat
  /-- What the exchanges have added to the module's own count so far, in units of 1/4 ps (R405, R407). -/
  offset : Int
  deriving DecidableEq, Repr

/-- Time before any exchange. -/
def Time.init : Time := ⟨0, 0, 0, none, none, 0, 0, (0, 0), 0⟩


/-! ### Links (R321 to R355) and discovery (R399 to R402) -/

/-- A change of a port's quads that has been requested (R349 to R352): whether this end asked for it, the request
number of R337 (1 remove, 2 add, 3 substitute), the quad, the spare for a substitution, the request's ID, the set count
of the switch, whether both ends have agreed to it, and whether it belongs to a recalibration. -/
structure QuadChange where
  own : Bool
  req : Nat
  quad : Nat
  spare : Nat
  id : Nat
  switchAt : Nat
  agreed : Bool
  recal : Bool
  deriving DecidableEq, Repr

/-- A packet in the output queue of a port: its VC, the flits that have still to go, and the input port and VC whose
buffer holds its flits, where it came from a port. -/
structure VcPkt where
  pkt : Pkt
  vc : Nat
  flits : Nat
  left : Nat
  inp : Option (Nat × Nat)
  deriving DecidableEq, Repr

/-- What a port holds beside its registers: the quads that carry flits in slot order (R335), a change of them, the next
request number, spares standing in as (place, spare) (R349), changes still to be requested as (rejoin, quad), quads whose
recalibration this end requested (R351), the serial that the first trained quad reported (R330), a training that is to be
repeated 1 s later (R331), the body of the last HELLO received and whether it named this module and port with no own HELLO
sent since (R402), the sender's reserved credits in use by VC and shared ones by class, the peer's credit totals as last
seen, this end's totals of freed flits, the flits that each VC's input buffer holds (R337, R340), and the packets that wait
for the port. -/
structure LnkPort where
  order : List Nat
  change : Option QuadChange
  nextId : Nat
  standIn : List (Nat × Nat)
  todo : List (Bool × Nat)
  recal : List Nat
  peer : Option Nat
  retry : Bool
  hello : Option Bytes
  echoed : Bool
  used : Tbl Nat
  shared : Tbl Nat
  rseen : Tbl Nat
  sseen : Tbl Nat
  rfreed : Tbl Nat
  sfreed : Tbl Nat
  held : Tbl Nat
  queue : List VcPkt
  deriving DecidableEq, Repr

/-- A port that is DOWN. -/
def LnkPort.init : LnkPort :=
  { order := [], change := none, nextId := 0, standIn := [], todo := [], recal := [], peer := none, retry := false,
    hello := none, echoed := false, used := [], shared := [], rseen := [], sseen := [], rfreed := [], sfreed := [],
    held := [], queue := [] }


/-! ### The router (R356 to R398) -/

/-- A packet that an attachment holds for the router (R381): the module it goes to, the port that a ring names (R368),
whether the ring's Hinge puts it on the upper side (R343), where its payload lies in local memory, so that it can be read
again (R385), what waits for it, and whether the attachment's next packet must follow it in its flow (R362, R364). -/
structure OutPkt where
  pkt : Pkt
  dest : Nat
  port : Option Nat
  upper : Bool
  src : Option Nat
  who : Sender
  more : Bool
  deriving DecidableEq, Repr

/-- A numbered packet that is not acknowledged yet (R385), with the attachment that sent it. -/
structure Sent where
  seq : Nat
  att : Nat
  out : OutPkt
  deriving DecidableEq, Repr

/-- The source's end of a flow (R381, R386, R387): the next number, chosen or not yet, what is unacknowledged, oldest
first, whether SYN is still set, the present RTO in 100 ns (0: the initial value), the attachment whose next packet must
follow the last one, and gets and AMOs that wait for their answer, by the number of their request. -/
structure SendFlow where
  next : Option Nat
  unacked : List Sent
  opening : Bool
  rto : Nat
  lock : Option Nat
  await : List (Nat × Sender)
  deriving DecidableEq, Repr

/-- A flow that has not been created. -/
def SendFlow.init : SendFlow := ⟨none, [], true, 0, none, []⟩

/-- The receiver's end of a flow (R375, R383, R384): the next number expected, the TUMBLER value of the last packet
accepted, packets performed and not yet acknowledged, marks among them, the key of the flow's last packet, the last NACK
sent as (EXP, time), a packet that waits for its POISON_MAP, and a short write whose pieces are still arriving: its SHORT,
the bytes so far, whether any of them is poisoned. -/
structure RecvFlow where
  exp : Nat
  tumbler : Bool
  owed : Nat
  ce : Nat
  pkey : Nat
  nack : Option (Nat × Nat)
  mapped : Option Pkt
  short : Option (Pkt × Bytes × Bool)
  deriving DecidableEq, Repr

/-- The router of the Brynoa die (R356 to R398): table entries keyed ((kind × 2 + version) × 16 + port) × 65536 + index,
the flip requested as (beat, ADMIT), whether the old version drains, the flows keyed module ID × 4 + class, the next GCM
counter by attachment × 65536 + key (R346), the rate of limited pairs in MB/s and the time of their last cut (R393), and
packets for this module itself that are still to be delivered. -/
structure Rte where
  tbl : Tbl Nat
  flip : Option (Nat × Nat)
  draining : Bool
  send : Tbl SendFlow
  recv : Tbl (Option RecvFlow)
  ctr : Tbl Nat
  rate : Tbl Nat
  cut : Tbl Nat
  loop : List Pkt
  deriving DecidableEq, Repr

/-- A router just reset: no table entry valid, no flow. -/
def Rte.init : Rte := ⟨[], none, false, [], [], [], [], [], []⟩

/-! ### Ethernet -/

/-- A frame in the receive buffer of a sub-port that waits for a descriptor (R474), with its steering (R468, R469). -/
structure HeldFrame where
  frame : EthFrame
  queue : Nat
  rule : Nat
  hash : Nat
  pri : Nat
  deriving DecidableEq, Repr

/-- A sub-port: held frames in arrival order, the shares above XOFF and not yet at XON as a mask (R477), the priorities
that received pause frames stop (R478), and the round-robin pointer over transmit queues (R476). -/
structure EthSub where
  held : List HeldFrame
  xoff : Nat
  stopped : Nat
  next : Nat
  deriving DecidableEq, Repr

/-- A sub-port just reset. -/
def EthSub.init : EthSub := ⟨[], 0, 0, 0⟩

/-- The Ethernet ports: the descriptors posted and not written back of queue 32p + 16d + q, from HEAD on (R471); the
sub-ports, keyed port × 4 + sub-port; the steering rules, keyed port × 32 + index (R482). -/
structure Eth where
  posted : Tbl (List Bytes)
  subs : Tbl EthSub
  rules : Tbl Nat
  deriving DecidableEq, Repr

/-- The Ethernet ports just reset. -/
def Eth.init : Eth := ⟨[], [], []⟩


/-! ### What the module puts out -/

/-- What the module presents at its connectors and links, in the order in which it does so: the model's own trace.
Host memory writes are in `Dev.hostMem`.
DESIGN CHOICE, log 17. -/
inductive Output where
  /-- An MSI-X interrupt of a function (R435). -/
  | msix (fn : FnId) (vector : Nat)
  /-- A packet onto an output port and VC (R342, R366, R381). -/
  | packet (port vc : Nat) (p : Pkt)
  /-- A link-local packet (R399). -/
  | linkLocal (port : PortId) (p : Pkt)
  /-- A link-control flit with a request (R349). -/
  | lcf (port : PortId) (body : Bytes)
  /-- An Ethernet frame on a sub-port (R467, R476). -/
  | frame (at' : SubPort) (bytes : Bytes)
  /-- A management response or event over BAR4 or the side-band link (R529, R554). -/
  | mgmt (sideBand : Bool) (body : Bytes)
  /-- An SPDM response of the Keeper (R489). -/
  | spdm (fn : FnId) (session : Option (Fin 128)) (body : Bytes)
  /-- The data of a CXL.mem read with its poison (R427). -/
  | cxl (data : BitVec 512) (poison : Bool)
  /-- A level on a side-band contact (R553). -/
  | pin (contact : Nat) (high : Bool)
  deriving DecidableEq, Repr

/-- Everything but memory, fuses and the queue. -/
structure Dev where
  /-- The set-up registers, keyed register × 1024 + instance, where they differ from reset (R11, R562). -/
  regs : Tbl W64
  pwr : Power
  mmc : Mmc
  keep : Keeper
  own : Own
  host : HostIf
  ctx : Tbl Ctx
  /-- Threads, keyed core × 8 + thread, core = die × 12 + Cmm. -/
  thr : Tbl Thread
  /-- Queues, keyed core × 7 + queue. -/
  que : Tbl Queue
  /-- Old contents that a queue's later reads may still find, keyed as the queues are (R121, R214). -/
  past : Tbl (List Past)
  core : Tbl Core
  /-- Regions, keyed core × 64 + region; slot counts and FULL tags, keyed (core × 64 + region) × 64 + slot. -/
  regn : Tbl Region
  slotCnt : Tbl Nat
  full : Tbl Bool
  flight : List Flight
  nextFlight : Nat
  sync : Sync
  /-- Engines, keyed core × 4 + k. -/
  eng : Tbl Engine
  /-- Stochastic generators: engine columns (core × 4 + k) × 128 + column, then from 49152 on vector lanes
  (core × 4 + purpose) × 128 + lane (R100, R103, R106). -/
  gens : Tbl W64
  /-- Stream engines, keyed core × 2 + s. -/
  str : Tbl Stream
  time : Time
  /-- Packets that an attachment holds for the router, oldest first, by attachment (R359, R381). -/
  outq : Tbl (List OutPkt)
  /-- Fabric ports 0 to 11. -/
  lnk : Tbl LnkPort
  rte : Rte
  /-- The Ethernet ports' queues, buffers and rules. -/
  eth : Eth
  /-- Host memory written by the module, by host address (R430). -/
  hostMem : Tbl Byte
  /-- What the module has put out, newest first (the model's own field). -/
  out : List Output
  /-- CCLK cycles (the model's own field): one for each step on an empty queue. -/
  cclk : Nat
  /-- How many free values have been drawn (the model's own field). -/
  free : Nat
  deriving DecidableEq, Repr

/-- The device at power-off. -/
def Dev.init : Dev :=
  { regs := [], pwr := Power.init, mmc := Mmc.init, keep := Keeper.init, own := Own.init, host := HostIf.init, ctx := [],
    thr := [], que := [], past := [], core := [], regn := [], slotCnt := [], full := [], flight := [], nextFlight := 0,
    sync := ⟨[], []⟩, eng := [], gens := [], str := [],
    time := Time.init, outq := [], lnk := [], rte := Rte.init, eth := Eth.init,
    hostMem := [], out := [], cclk := 0, free := 0 }

/-- Memory with an address of its own, keyed by the module's local address SPACE × 2^45 + OFFSET (R295): HBM,
capacity memory and the SRAM of the dies.  `bytes` reads as 0 where nothing is listed; `written` and `poison` hold
the marks of 64-byte lines, keyed address ÷ 64 (R198, R316, R317). -/
structure Mem where
  bytes : Tbl Byte
  written : Tbl Bool
  poison : Tbl Bool
  deriving DecidableEq, Repr

/-- Memory with nothing written. -/
def Mem.init : Mem := ⟨[], [], []⟩

/-- Fused state (R484, R488, R500): it only ever rises. -/
structure Fuses where
  /-- Minimum SVN by image kind, 6 bits each (R488). -/
  svn : Tbl Nat
  /-- ERASE count, saturating at 31 (R500). -/
  erases : Nat
  deriving DecidableEq, Repr

/-- Fuses as manufactured.
PRESUMED, log 5. -/
def Fuses.init : Fuses := ⟨[], 0⟩

/-- The state of the block. -/
structure State where
  fuse : Fuses
  mem : Mem
  dev : Dev
  /-- The commands that wait, first in first out. -/
  pending : List Instr
  deriving DecidableEq, Repr

/-- Why a step stops with a fault. -/
inductive Fault where
  /-- Raised by no command of this model: an operand that cannot be a command's.  Safe: the machine stops. -/
  | badOperand
  deriving DecidableEq, Repr

/-- Why a command has no meaning. -/
inductive Refusal where
  /-- The command of this mnemonic is not modelled yet.  Safe: nothing happens. -/
  | notModelled (mnemonic : String)
  deriving DecidableEq, Repr

/-- The module before any rail is present (R507): OFF, every set-up register at its reset value, every context
FREE, nothing in memory, no command waiting.
DESIGN CHOICE, log 2.
DESIGN CHOICE, log 4. -/
def State.reset : State := ⟨Fuses.init, Mem.init, Dev.init, []⟩

end Sys2Proof.Machine
end

