-- ==== Sys2Proof/Machine/Memory.lean ====
section
/-! DEFINITION. Memory with its written bits and poison marks (R198, R202, R316, R317), the effects by which a
command changes memory and fuses, and the one operation by which every command acts on the state. -/

namespace Sys2Proof.Machine

/-- The line of a local address: 64 bytes (R175, R292). -/
def lineOf (a : Nat) : Nat := a / 64

/-- Whether a line has been written since it was last cleared (R198, R317). -/
def Mem.isWritten (m : Mem) (line : Nat) : Bool := tblGet false m.written line

/-- Whether a line carries a poison mark (R202, R316). -/
def Mem.isPoison (m : Mem) (line : Nat) : Bool := tblGet false m.poison line

/-- One byte: an unwritten line reads as zero (R198, R317).
DEDUCED, log 153. -/
def Mem.byte (m : Mem) (a : Nat) : Byte := if m.isWritten (lineOf a) then tblGet 0 m.bytes a else 0

/-- `n` bytes from `a`. -/
def Mem.read (m : Mem) (a n : Nat) : Bytes := (List.range n).map (fun i => m.byte (a + i))

/-- The number that `n` bytes from `a` spell (R11). -/
def Mem.num (m : Mem) (a n : Nat) : Nat := leNat (m.read a n)

/-- The lines that `n` bytes from `a` touch. -/
def linesOf (a n : Nat) : List Nat :=
  if n = 0 then [] else (List.range (lineOf (a + n - 1) - lineOf a + 1)).map (· + lineOf a)

/-- A read of the bytes returns poisoned data. -/
def Mem.poisoned (m : Mem) (a n : Nat) : Bool := (linesOf a n).any m.isPoison

/-- A read of the bytes is an uninitialised read: a line neither written nor poisoned (R199, R317). -/
def Mem.uninit (m : Mem) (a n : Nat) : Bool := (linesOf a n).any (fun l => !m.isPoison l && !m.isWritten l)

/-- The first line of the bytes that is neither written nor poisoned. -/
def Mem.uninitLine (m : Mem) (a n : Nat) : Option Nat :=
  (linesOf a n).find? (fun l => !m.isPoison l && !m.isWritten l)

/-- Changes that a command makes to memory. -/
inductive MemEff where
  /-- A write of bytes from an address on; with a poison mark, the lines take it (R118, R316). -/
  | write (a : Nat) (bs : Bytes) (poison : Bool)
  /-- Clearing: data zero, written and poison bits clear (R203, R300); address and length in whole lines. -/
  | clear (a n : Nat)
  /-- The written and poison bits alone cleared (R192). -/
  | clearMarks (a n : Nat)
  /-- A line takes its poison mark (R202, R316). -/
  | mark (line : Nat)
  deriving DecidableEq, Repr

/-- The lines from `a` on lose the entries of a table keyed by line. -/
def dropLines {V : Type} (t : Tbl V) (a n : Nat) : Tbl V := tblDrop (fun l => lineOf a ≤ l && l < lineOf (a + n)) t

/-- A line that is about to be written: bytes that stand in an unwritten line are zeroed (R198, R317). -/
def Mem.openLine (m : Mem) (l : Nat) : Mem :=
  if m.isWritten l then m
  else { m with bytes := tblDrop (fun k => lineOf k = l) m.bytes, written := tblSet false m.written l true }

/-- The poison mark of a line after a write of `n` bytes from `a`: a whole clean line clears it, a partial one leaves
it, poisoned data sets it (R202, R316). -/
def Mem.markLine (m : Mem) (a n : Nat) (poison : Bool) (l : Nat) : Mem :=
  if poison then { m with poison := tblSet false m.poison l true }
  else if a ≤ 64 * l && 64 * l + 64 ≤ a + n then { m with poison := tblSet false m.poison l false } else m

/-- A write (R198, R202, R316, R317). -/
def Mem.write (m : Mem) (a : Nat) (bs : Bytes) (poison : Bool) : Mem :=
  let ls := linesOf a bs.length
  let m := ls.foldl Mem.openLine m
  let m := { m with bytes := tblSetList 0 m.bytes a bs }
  ls.foldl (fun m l => m.markLine a bs.length poison l) m

/-- One effect. -/
def Mem.eff (m : Mem) : MemEff → Mem
  | .write a bs p => m.write a bs p
  | .clear a n => { bytes := tblDrop (fun k => a ≤ k && k < a + n) m.bytes, written := dropLines m.written a n,
                    poison := dropLines m.poison a n }
  | .clearMarks a n => { m with written := dropLines m.written a n, poison := dropLines m.poison a n }
  | .mark l => { m with poison := tblSet false m.poison l true }

/-- Effects in order. -/
def Mem.apply (m : Mem) (es : List MemEff) : Mem := es.foldl Mem.eff m

/-- The canonical form of memory: its tables list strictly rising keys and no default. -/
def Mem.wf (m : Mem) : Bool := tblWf 0 m.bytes && tblWf false m.written && tblWf false m.poison

/-- Changes that a command makes to fuses. -/
inductive FuseEff where
  /-- The minimum SVN of a kind rises to a value (R488). -/
  | raiseSvn (kind svn : Nat)
  /-- The ERASE count rises by 1, saturating at 31 (R500). -/
  | erase
  deriving DecidableEq, Repr

/-- The fused minimum SVN of a kind. -/
def Fuses.minSvn (f : Fuses) (kind : Nat) : Nat := tblGet 0 f.svn kind

/-- One effect: fuses are only ever blown. -/
def Fuses.eff (f : Fuses) : FuseEff → Fuses
  | .raiseSvn k v => { f with svn := tblSet 0 f.svn k (Nat.max (f.minSvn k) v) }
  | .erase => { f with erases := satAdd f.erases 1 31 }

/-- Effects in order. -/
def Fuses.apply (f : Fuses) (es : List FuseEff) : Fuses := es.foldl Fuses.eff f

/-- What a command does: the device after it, and its effects on memory and fuses, in order. -/
structure Res where
  dev : Dev
  mem : List MemEff := []
  fuse : List FuseEff := []

/-- A command's action: it reads fuses, memory and device. -/
abbrev Act := Fuses → Mem → Dev → Res

/-- An action on the device alone. -/
def Act.dev (f : Dev → Dev) : Act := fun _ _ d => { dev := f d }

/-- One action, then another on what it leaves. -/
def Act.andThen (a b : Act) : Act := fun f m d =>
  let r := a f m d
  let q := b (f.apply r.fuse) (m.apply r.mem) r.dev
  { dev := q.dev, mem := r.mem ++ q.mem, fuse := r.fuse ++ q.fuse }

/-- Nothing. -/
def Act.skip : Act := fun _ _ d => { dev := d }

/-- An action for each element of a list, in order. -/
def Act.each {A : Type} (f : A → Act) : List A → Act
  | [] => Act.skip
  | x :: xs => Act.andThen (f x) (Act.each f xs)

/-- THE STEP OF EVERY COMMAND: the state after an action.  The queue is not touched. -/
def State.run (s : State) (a : Act) : State :=
  let r := a s.fuse s.mem s.dev
  { s with fuse := s.fuse.apply r.fuse, mem := s.mem.apply r.mem, dev := r.dev }

end Sys2Proof.Machine
end

