-- ==== Sys2Proof/Config.lean ====
section
/-! DEFINITION. What an implementation fixes or the manual leaves open: opaque constants without a body, so that no
proof can lean on a value.  Cryptographic functions are here too: the manual names their standards (R345, R484, R487,
R492, R502), the model treats them as fixed functions of their inputs. -/

namespace Sys2Proof.Config

/-- The free values, by the order in which the module draws them (log 3): random keys, nonces, undefined results. -/
opaque freeBits : Nat → BitVec 64

/-- Which translation an access uses where a cache may hold one that the tables no longer give (R305): draw, address. -/
opaque staleLeaf : Nat → Nat → Nat

/-- The module's serial number, read from fuses (R509). -/
opaque serial : BitVec 64

/-- SHA-384 of a byte string (R486, R490).
DESIGN CHOICE, log 19. -/
opaque sha384 : Bytes → Bytes

/-- Whether an ECDSA P-384 signature verifies: public key, message digest input, signature (R487, R502). -/
opaque ecdsaOk : Bytes → Bytes → Bytes → Bool

/-- Whether bytes are the coordinates of a point of P-384 (R487, R491). -/
opaque onCurve : Bytes → Bool

/-- The hash in root fuse slot r, and whether its revocation fuse is blown (R484, R487). -/
opaque rootFuse : Nat → Bytes × Bool

/-- The Moagen debug public key (R484, R503). -/
opaque moagenDebugKey : Bytes

/-- RFC 3394 key unwrap: wrapping key, wrapped key; none where the integrity check fails (R492). -/
opaque unwrapKey : Bytes → Bytes → Option Bytes

/-- The session import key of a session, by function, session number and key updates (R484). -/
opaque importKey : Nat → Nat → Nat → Bytes

/-- The KDF of R484 for the next generation of a job link key: key, generation (R494). -/
opaque linkKdf : Bytes → Nat → Bytes

/-- AES-256-GCM open: key, IV, additional data, ciphertext, tag; none where the tag is wrong (R457). -/
opaque gcmOpen : Bytes → Bytes → Bytes → Bytes → Bytes → Option Bytes

/-- The AES-256-GCM tag of a packet: key, IV, header, body (R346, R361). -/
opaque gcmTag : Bytes → Bytes → Bytes → Bytes → BitVec 128

/-- The AES-256 encryption of one block of 16 bytes: key, block (R419). -/
opaque aes256 : Bytes → Bytes → Bytes

/-- The body of an SPDM response: request code, function, what the Keeper answers about (R489, R490). -/
opaque spdmBody : Nat → Nat → Bytes → Bytes

/-- The one fixed implementation of an approximated function of R135 and R136 on an FP32 operand: function number,
operand bits.
DESIGN CHOICE, log 59. -/
opaque approx : Nat → BitVec 32 → BitVec 32

/-- The status bits NX, UF and OF that computing an approximated function raises (R99, R136). -/
opaque approxStatus : Nat → BitVec 32 → BitVec 3

/-- The source address of the flow-control frames that a port sends, which the manual does not give (R477).
DESIGN CHOICE, log 131. -/
opaque portMac : Nat → BitVec 48

/-- The position of the module in the sled, which the sled straps (R553).
DESIGN CHOICE, log 148. -/
opaque sledSlot : BitVec 6

end Sys2Proof.Config
end

