-- ==== Sys2Proof/Machine/Regs.lean ====
section
/-! DEFINITION. Reading and writing set-up registers by field (R11 to R16), counting configuration rejections, and
drawing free values. -/

namespace Sys2Proof.Machine

/-- Where instance `i` of a register is stored. -/
def regKey (r : RegName) (i : Nat) : Nat := r.ctorIdx * 1024 + i

/-- The reset value of a register, put together from its fields (R11). -/
def RegName.reset (r : RegName) : Nat := r.fields.foldl (fun n f => n + f.reset <<< f.lo) 0

/-- The bits of a field in its register. -/
def Fld.mask (f : Fld) : Nat := (2 ^ f.width - 1) <<< f.lo

/-- The stored value of a register. -/
def Dev.reg (d : Dev) (r : RegName) (i : Nat) : Nat :=
  (tblGet (BitVec.ofNat 64 r.reset) d.regs (regKey r i)).toNat

/-- Stores a register's value. -/
def Dev.setReg (d : Dev) (r : RegName) (i : Nat) (v : Nat) : Dev :=
  { d with regs := tblSet (BitVec.ofNat 64 r.reset) d.regs (regKey r i) (BitVec.ofNat 64 v) }

/-- A field's value. -/
def Dev.get (d : Dev) (f : Fld) (i : Nat := 0) : Nat := field (d.reg f.reg i) f.lo f.width

/-- Whether a one-bit field is set. -/
def Dev.flag (d : Dev) (f : Fld) (i : Nat := 0) : Bool := d.get f i ≠ 0

/-- Sets a field, as the hardware does. -/
def Dev.put (d : Dev) (f : Fld) (v : Nat) (i : Nat := 0) : Dev :=
  d.setReg f.reg i (setField (d.reg f.reg i) f.lo f.width v)

/-- Adds to a counter field, which saturates (R355, R398). -/
def Dev.count (d : Dev) (f : Fld) (i : Nat := 0) (n : Nat := 1) : Dev :=
  d.put f (satAdd (d.get f i) n (2 ^ f.width - 1)) i

/-- Every field of the list set to zero: what a CLR bit does. -/
def Dev.zero (d : Dev) (fs : List Fld) (i : Nat := 0) : Dev := fs.foldl (fun d f => d.put f 0 i) d

/-- Every instance of the registers at its reset value (R565). -/
def Dev.resetRegs (d : Dev) (rs : List RegName) : Dev :=
  { d with regs := tblDrop (fun k => rs.any (fun r => r.ctorIdx = k / 1024)) d.regs }

/-- One instance of the registers at its reset value. -/
def Dev.resetRegsAt (d : Dev) (rs : List RegName) (i : Nat) : Dev :=
  { d with regs := tblDrop (fun k => rs.any (fun r => regKey r i = k)) d.regs }

/-- A free value (log 3) and the device that has drawn it. -/
def Dev.draw (d : Dev) : W64 × Dev := (Config.freeBits d.free, { d with free := d.free + 1 })

/-- `n` bytes of free values. -/
def Dev.drawBytes : Nat → Dev → Bytes × Dev
  | 0, d => ([], d)
  | n + 1, d =>
    let (v, d) := d.draw
    let (bs, d) := Dev.drawBytes n d
    (leBytes 8 v.toNat ++ bs, d)

/-- The module puts something out. -/
def Dev.emit (d : Dev) (o : Output) : Dev := { d with out := o :: d.out }

/-- A configuration rejection at an offset of a space (R14, R16, R533). -/
def Dev.reject (d : Dev) (space off : Nat) : Dev :=
  ((d.count MMC_CFG_REJ.COUNT).put MMC_CFG_REJ.LAST_SPACE space).put MMC_CFG_REJ.LAST_OFFSET off

/-- The space and offset of a register's instance in the index of R562. -/
def RegName.place (r : RegName) (i : Nat) : Nat × Nat :=
  match cdPlaces.find? (fun p => p.reg = r) with
  | some p => (i, p.base)
  | none => match bdPlaces.find? (fun p => p.reg = r) with
    | some p => (8, p.base + p.stride * i)
    | none => match pfPlaces.find? (fun p => p.reg = r) with
      | some p => (9, p.base + p.stride * i)
      | none => match r with
        | .HOST_SQ_CFG => (9, i / 8 * 0x400 + 8 * (i % 8))
        | .HOST_CQ_CFG => (9, i * 0x400 + 0x40)
        | .HOST_CTX_STAT => (9, i * 0x400 + 0x48)
        | .ETH_QCFG => (9, 0x2000 + 0x20 * i)
        | .ETH_QWM => (9, 0x2008 + 0x20 * i)
        | _ => (9, 0x2010 + 0x20 * i)

/-- A rejection at a register's own place. -/
def Dev.rejectAt (d : Dev) (r : RegName) (i : Nat) : Dev := d.reject (r.place i).1 (r.place i).2

/-- The data bits that a write acts on (R16). -/
def lanesMask : Lanes → Nat
  | .full => 2 ^ 64 - 1
  | .low => 2 ^ 32 - 1
  | .high => (2 ^ 32 - 1) <<< 32

/-- What a write does to one field by its type (R12): the new register value and whether the write tried to change a
field that it may not change (R14).  `vis` is what the register reads as; `acts` says that the write sets a WO field, whose
word then carries no value for the RO fields beside it (log 8). -/
def fieldWrite (f : Fld) (locked acts : Bool) (m v vis : Nat) (acc : Nat × Bool) : Nat × Bool :=
  let fm := f.mask &&& m
  match f.type with
  | .rw => ((acc.1 - (acc.1 &&& fm)) + (v &&& fm), acc.2)
  | .rwl => if locked then (acc.1, acc.2 || ((v ^^^ vis) &&& fm) ≠ 0) else ((acc.1 - (acc.1 &&& fm)) + (v &&& fm), acc.2)
  | .ro => (acc.1, acc.2 || (!acts && ((v ^^^ vis) &&& fm) ≠ 0))
  | .rw1c => (acc.1 - (acc.1 &&& (v &&& fm)), acc.2)
  | .wo => acc

/-- The effect of a write on a register's fields, without the actions of its WO fields (R12 to R15): the fields are
written by type; a try to change an RO field, or an RWL field of committed set-up, counts one rejection (log 8). -/
def Dev.writeFieldsAs (d : Dev) (r : RegName) (i : Nat) (locked : Bool) (vis : Nat) (w : RegWr) : Dev :=
  let m := lanesMask w.lanes
  let acts := r.fields.any (fun f => f.type = .wo && (w.value.toNat &&& f.mask &&& m) ≠ 0)
  let (v, rej) := r.fields.foldl (fun acc f => fieldWrite f locked acts m w.value.toNat vis acc) (d.reg r i, false)
  let d := d.setReg r i v
  if rej then d.rejectAt r i else d

/-- The same for a register that reads as it is stored. -/
def Dev.writeFields (d : Dev) (r : RegName) (i : Nat) (locked : Bool) (w : RegWr) : Dev :=
  d.writeFieldsAs r i locked (d.reg r i) w

/-- The bits of a field in a write, where the write's lanes carry the field. -/
def wrGet (w : RegWr) (f : Fld) : Nat := field (w.value.toNat &&& (lanesMask w.lanes)) f.lo f.width

/-- Whether a write carries the field's lane: its lowest bit lies in a half that the write acts on. -/
def wrCarries (w : RegWr) (f : Fld) : Bool := bit (lanesMask w.lanes) f.lo

/-- Whether a write sets a one-bit field to 1. -/
def wrSets (w : RegWr) (f : Fld) : Bool := wrGet w f ≠ 0

/-- The module's own ID (R297, R403). -/
def Dev.moduleId (d : Dev) : Nat := d.get BRY_MODULE_ID.ID

/-- Whether the module's ID is committed (R403). -/
def Dev.idCommitted (d : Dev) : Bool := d.flag BRY_MODULE_ID.COMMITTED

/-- The context's record. -/
def Dev.ctxAt (d : Dev) (c : CtxId) : Ctx := tblGet Ctx.init d.ctx c.val

/-- Changes a context's record. -/
def Dev.modCtx (d : Dev) (c : CtxId) (f : Ctx → Ctx) : Dev := { d with ctx := tblMod Ctx.init d.ctx c.val f }

/-- All contexts in rising order. -/
def allCtx : List CtxId := List.finRange 64

end Sys2Proof.Machine
end

