-- ==== Sys2Proof/Machine/Post.lean ====
section
/-! DEFINITION. What the module reports: completions and events on the host's rings (R434 to R439), error records
(R527, R528), packets that it originates itself (R357). -/

namespace Sys2Proof.Machine

/-! ### Completion rings -/

/-- The key of a completion ring. -/
def cqKey : CqRef → Nat
  | .adm => 64
  | .ctx c => c.val

/-- The completion ring's configuration: EN, SIZE, BASE, VECTOR (R462). -/
def Dev.cqEn (d : Dev) : CqRef → Bool
  | .adm => d.flag HOST_ADM_CQ_CFG.EN
  | .ctx c => d.flag HOST_CQ_CFG.EN c.val

/-- The entries of a completion ring (R430). -/
def Dev.cqSize (d : Dev) : CqRef → Nat
  | .adm => 2 ^ d.get HOST_ADM_CQ_CFG.SIZE
  | .ctx c => 2 ^ d.get HOST_CQ_CFG.SIZE c.val

/-- The host address of a completion ring (R462). -/
def Dev.cqBase (d : Dev) : CqRef → Nat
  | .adm => d.get HOST_ADM_CQ_CFG.BASE * 4096
  | .ctx c => d.get HOST_CQ_CFG.BASE c.val * 4096

/-- The MSI-X vector of a completion ring. -/
def Dev.cqVector (d : Dev) : CqRef → Nat
  | .adm => d.get HOST_ADM_CQ_CFG.VECTOR
  | .ctx c => d.get HOST_CQ_CFG.VECTOR c.val

/-- The function whose interrupt a completion ring raises (R435). -/
def Dev.cqFn (d : Dev) : CqRef → FnId
  | .adm => 0
  | .ctx c => (d.ctxAt c).owner

/-- The completion ring's record. -/
def Dev.cqAt (d : Dev) (q : CqRef) : CqRec := tblGet CqRec.init d.host.cq (cqKey q)

/-- Changes a completion ring's record. -/
def Dev.modCq (d : Dev) (q : CqRef) (f : CqRec → CqRec) : Dev :=
  { d with host := { d.host with cq := tblMod CqRec.init d.host.cq (cqKey q) f } }

/-- Writes bytes to host memory.
DESIGN CHOICE, log 15. -/
def Dev.hostWrite (d : Dev) (a : Nat) (bs : Bytes) : Dev := { d with hostMem := tblSetList 0 d.hostMem a bs }

/-- The slots of a completion ring that software has returned (R436). -/
def Dev.cqRoom (d : Dev) (q : CqRef) : Nat := d.cqSize q - (d.cqAt q).posted

/-- The interrupt of an armed ring that holds an entry beyond its head (R435). -/
def Dev.cqIrq (d : Dev) (q : CqRef) : Dev :=
  if (d.cqAt q).armed && 0 < (d.cqAt q).posted then
    (d.modCq q (fun r => { r with armed := false })).emit (.msix (d.cqFn q) (d.cqVector q))
  else d

/-- The next slot of a ring: its host address, its PHASE byte, and the device with the slot taken (R435). -/
def Dev.cqSlot (d : Dev) (q : CqRef) : Nat × Byte × Dev :=
  let r := d.cqAt q
  let last := r.tail + 1 = d.cqSize q
  (d.cqBase q + 32 * r.tail, if r.phase then 0x80 else 0,
    d.modCq q (fun r => { r with posted := r.posted + 1, tail := if last then 0 else r.tail + 1,
                                 phase := if last then !r.phase else r.phase }))

/-- The number of the next event of a ring, counted as posted (R438, R448).
DEDUCED, log 12. -/
def Dev.takeEventNo (d : Dev) : CqRef → Nat × Dev
  | .adm => (d.host.admEvents, { d with host := { d.host with admEvents := d.host.admEvents + 1 } })
  | .ctx c => ((d.ctxAt c).eventNo, d.modCtx c (fun x => { x with eventNo := x.eventNo + 1, events := x.events + 1 }))

/-- Writes one item into the ring: a completion into one slot; an event's body slot before its header slot, the
header numbered as it is posted (R438, log 12). -/
def Dev.cqWrite (d : Dev) (q : CqRef) (it : CqItem) : Dev :=
  let (a, ph, d) := d.cqSlot q
  if it.event then
    let (a2, ph2, d) := d.cqSlot q
    let (n, d) := d.takeEventNo q
    let d := d.hostWrite a2 (sub it.body 0 31 ++ [ph2])
    d.hostWrite a (wr (sub it.header 0 31) 8 (leBytes 8 n) ++ [ph])
  else d.hostWrite a (sub it.header 0 31 ++ [ph])

/-- The slots that an item takes. -/
def CqItem.slots (it : CqItem) : Nat := if it.event then 2 else 1

/-- The header slot of an event, its TAG still to be set (R434, R438). -/
def eventHeader (c : Nat) (type : Nat) : Bytes :=
  leBytes 1 2 ++ leBytes 1 type ++ leBytes 1 0xFF ++ leBytes 1 c ++ zeros 28

/-- Posts held items in order while room lasts, an EVENTS_LOST event before them where events were lost (R436). -/
def Dev.cqDrain (q : CqRef) : Nat → Dev → Dev
  | 0, d => d
  | fuel + 1, d =>
    if !d.cqEn q then d else
    let r := d.cqAt q
    if 0 < r.lost then
      if d.cqRoom q < 2 then d else
      let d := d.modCq q (fun r => { r with lost := 0 })
      Dev.cqDrain q fuel (d.cqWrite q ⟨true, eventHeader (cqKey q) 7, leBytes 8 r.lost ++ zeros 24⟩)
    else match r.held with
      | [] => d
      | it :: rest =>
        if d.cqRoom q < it.slots then d
        else Dev.cqDrain q fuel ((d.modCq q (fun r => { r with held := rest })).cqWrite q it)

/-- Posts held items and raises the interrupt.
DEDUCED, log 27. -/
def Dev.cqFlush (d : Dev) (q : CqRef) : Dev :=
  (Dev.cqDrain q ((d.cqAt q).held.length + 1) d).cqIrq q

/-- Gives an item to a ring: it is posted where there is room and nothing waits, else held; an event beyond 16 held
is discarded and counted (R436).  A ring that is not enabled holds (log 13). -/
def Dev.cqGive (d : Dev) (q : CqRef) (it : CqItem) : Dev :=
  let r := d.cqAt q
  if d.cqEn q && r.held.isEmpty && r.lost = 0 && it.slots ≤ d.cqRoom q then (d.cqWrite q it).cqIrq q
  else if it.event && 16 ≤ (r.held.filter (·.event)).length then
    let d := d.modCq q (fun r => { r with lost := r.lost + 1 })
    match q with
    | .ctx c => (d.count HOST_CTX_STAT.EVENTS_LOST c.val).modCtx c (fun x => { x with lost := x.lost + 1 })
    | .adm => { d with host := { d.host with admLost := d.host.admLost + 1 } }
  else d.modCq q (fun r => { r with held := r.held ++ [it] })

/-- Posts an event to a context's ring (R438, R439). -/
def Dev.event (d : Dev) (c : CtxId) (type : Nat) (body : Bytes) : Dev :=
  d.cqGive (.ctx c) ⟨true, eventHeader c.val type, sub body 0 32⟩

/-- The SQ byte of a completion (R434). -/
def sqByte : HostRing → Nat
  | .adm => 0xFF
  | .sq _ i => i.val

/-- The ring that completions of a submission ring go to (R430). -/
def cqOf : HostRing → CqRef
  | .adm => .adm
  | .sq c _ => .ctx c

/-- The context byte of a completion: the ring's context, or the one that the PF's command names (R431, R434). -/
def ctxByte (r : HostRing) (entry : Bytes) : Nat :=
  match r with
  | .adm => rdb entry 2
  | .sq c _ => c.val

/-- A completion entry without PHASE (R434). -/
def completion (r : HostRing) (entry : Bytes) (sqHead code winner r0 r1 : Nat) : Bytes :=
  leBytes 1 1 ++ leBytes 1 code ++ leBytes 1 (sqByte r) ++ leBytes 1 (ctxByte r entry) ++ leBytes 2 sqHead
    ++ leBytes 2 winner ++ sub entry 8 8 ++ leBytes 8 r0 ++ leBytes 7 r1 ++ [0]

/-- Posts the completion of a command and counts it (R434, R448). -/
def Dev.complete (d : Dev) (r : HostRing) (entry : Bytes) (sqHead code winner r0 r1 : Nat) : Dev :=
  let d := match r with
    | .adm => { d with host := { d.host with admDone := d.host.admDone + 1 } }
    | .sq c _ => d.modCtx c (fun x => { x with done := x.done + 1 })
  d.cqGive (cqOf r) ⟨false, completion r entry sqHead code winner r0 r1, []⟩

/-! ### Packets of the module's own -/

/-- A control packet before the router numbers it (R357). -/
def ctlPkt (ty tc pkey dst src : Nat) (body : Bytes) : Pkt :=
  { tc := Fin.ofNat 4 tc, ty := BitVec.ofNat 8 ty, flags := 0, pkey := BitVec.ofNat 16 pkey,
    dst := BitVec.ofNat 16 dst, src := BitVec.ofNat 16 src, seq := 0, ctr := 0, body := sub body 0 32, payload := [],
    trailer := 0 }

/-- A packet of its own that nothing waits for. -/
def plainOut (p : Pkt) : OutPkt :=
  { pkt := p, dest := p.dst.toNat, port := none, upper := false, src := none, who := .none, more := false }

/-- Hands packets to the router through an attachment (R359): they wait there for PACKET_SEND. -/
def Dev.hand (d : Dev) (att : Nat) (os : List OutPkt) : Dev :=
  { d with outq := tblMod [] d.outq att (fun q => q ++ os) }

/-- Hands one packet that nothing waits for to the router. -/
def Dev.originate (d : Dev) (att : Nat) (p : Pkt) : Dev := d.hand att [plainOut p]

/-- Every GCM counter under a key starts at 1 again (R346, R494). -/
def Dev.restartCounters (d : Dev) (pkey : Nat) : Dev :=
  { d with rte := { d.rte with ctr := tblDrop (fun k => k % 65536 = pkey) d.rte.ctr } }

/-! ### Error records -/

/-- The 32 bytes of an error record (R528). -/
def ErrRec.bytes (e : ErrRec) : Bytes :=
  leBytes 4 e.seq ++ leBytes 1 e.cls ++ leBytes 1 e.source ++ leBytes 2 e.unit ++ leBytes 2 e.cause
    ++ leBytes 2 e.count ++ leBytes 1 e.unitState ++ leBytes 1 e.detailKind ++ zeros 2 ++ leBytes 8 e.beat
    ++ leBytes 8 e.detail

/-- 1 ms in CCLK cycles (R10).
DESIGN CHOICE, log 25. -/
def msCycles : Nat := 1600000

/-- Whether a record repeats an earlier one within 1 ms (R528). -/
def ErrRec.repeats (e o : ErrRec) : Bool :=
  e.cls = o.cls && e.unit = o.unit && e.cause = o.cause && e.at' - o.at' ≤ msCycles

/-- Adds a record to the log: a repeat within 1 ms adds to its record's COUNT; a new record takes the next SEQ,
overwrites the oldest of 1,024, pulls ALERT# low and goes out as MGMT_EVENT (R528, R529, R553, R554).
DEDUCED, log 26. -/
def Dev.addRecord (d : Dev) (e : ErrRec) : Dev :=
  if d.mmc.log.any (fun o => e.repeats o) then
    let bump := fun (o : ErrRec) => if e.repeats o then { o with count := satAdd o.count 1 0xFFFF } else o
    { d with mmc := { d.mmc with log := d.mmc.log.map bump } }
  else
    let e := { e with seq := d.mmc.seq }
    let d := if 1024 ≤ d.mmc.log.length then d.count MMC_LOG_SEL.OVERFLOW else d
    let log := if 1024 ≤ d.mmc.log.length then d.mmc.log.drop 1 else d.mmc.log
    let d := { d with mmc := { d.mmc with log := log ++ [e], seq := d.mmc.seq + 1 } }
    let d := (d.emit (.pin 11 false)).emit (.mgmt true (leBytes 1 0x73 ++ e.bytes))
    if d.get MMC_MGR.ID = 0xFFFF then d
    else d.originate 9 (ctlPkt 0x73 3 0xFFFF (d.get MMC_MGR.ID) d.moduleId e.bytes)

/-- Reports an error (R527, R528).  While the MMC switches its own firmware up to 16 records are held (R524). -/
def Dev.logError (d : Dev) (cls source unit cause unitState detailKind detail : Nat) : Dev :=
  let e : ErrRec := { seq := 0, cls, source, unit, cause, count := 0, unitState, detailKind, beat := d.time.beat,
                      detail, at' := d.cclk }
  if d.mmc.switching = some 1 then
    if d.mmc.heldRecs.length < 16 then { d with mmc := { d.mmc with heldRecs := d.mmc.heldRecs ++ [e] } } else d
  else d.addRecord e

/-- The records held during the MMC's switch go into the log (R524).
DEDUCED, log 150. -/
def Dev.logHeld (d : Dev) : Dev :=
  let es := d.mmc.heldRecs
  es.foldl Dev.addRecord { d with mmc := { d.mmc with heldRecs := [] } }

end Sys2Proof.Machine
end

