-- ==== Sys2Proof/Machine/Units.lean ====
section
/-! DEFINITION. Unit codes (R37, R38), the groups of units that move together (R517, R542) and what is in service
(R19, R516). -/

namespace Sys2Proof.Machine

/-- A unit code from die, kind and instance (R37). -/
def unitCode (die kind inst : Nat) : Nat := die * 0x1000 + kind * 0x100 + inst

/-- How many instances of a kind a die has: a compute die or the Brynoa die (R38). -/
def kindCount (die kind : Nat) : Nat :=
  if die < 8 then
    match kind with
    | 0 => 12 | 1 => 48 | 2 => 12 | 3 => 24 | 4 => 12 | 5 => 4 | 6 => 1 | 7 => 2 | 8 => 3 | 9 => 1 | _ => 0
  else if die = 8 then
    match kind with
    | 10 => 36 | 11 => 1 | 12 => 2 | 13 => 1 | 14 => 1 | 15 => 4 | _ => 0
  else 0

/-- Whether a unit code names a unit (R37); 0xFFFF is the module. -/
def validUnit (u : Nat) : Bool := u = 0xFFFF || field u 0 8 < kindCount (u / 0x1000) (field u 8 4)

/-- The group, by domain index (R542), of a unit of kinds 0x0 to 0x9 (R515, R517). -/
def groupOf (u : Nat) : Option Nat :=
  let n := u / 0x1000
  let k := field u 8 4
  let i := field u 0 8
  if n < 8 && i < kindCount n k then
    match k with
    | 0 => some (47 * n + 3 * i + 2)
    | 1 => some (47 * n + 3 * (i / 4) + (i % 4) / 2)
    | 2 => some (47 * n + 3 * i + 2)
    | 3 => some (47 * n + 3 * (i / 2) + 2)
    | 4 => some (47 * n + 3 * i + 2)
    | 5 => some (47 * n + 36 + i)
    | 6 => some (47 * n + 43)
    | 7 => some (47 * n + 44 + i)
    | 8 => some (47 * n + 40 + i)
    | 9 => some (47 * n + 46)
    | _ => none
  else none

/-- The unit code of the lowest unit in a domain (R542, R557). -/
def domUnit (x : Nat) : Nat :=
  if x < 376 then
    let n := x / 47
    let j := x % 47
    if j < 36 then (if j % 3 = 2 then unitCode n 0 (j / 3) else unitCode n 1 (4 * (j / 3) + 2 * (j % 3)))
    else if j < 40 then unitCode n 5 (j - 36)
    else if j < 43 then unitCode n 8 (j - 40)
    else if j = 43 then unitCode n 6 0
    else if j < 46 then unitCode n 7 (j - 44)
    else unitCode n 9 0
  else if x < 412 then 0x8A00 + (x - 376)
  else if x < 416 then 0x8B00
  else if x < 418 then 0x8C00 + (x - 416)
  else if x = 418 then 0x8D00
  else if x < 427 then unitCode (x - 419) 6 0
  else unitCode ((x - 427) / 2) 7 ((x - 427) % 2)

/-- The group of a core: its control processor, vector unit, stream engines and memory (R517). -/
def csGroup (core : Nat) : Nat := 47 * (core / 12) + 3 * (core % 12) + 2

/-- The group of an engine. -/
def engGroup (core k : Nat) : Nat := 47 * (core / 12) + 3 * (core % 12) + k / 2

/-- The group of an HBM controller with its stack. -/
def hbmGroup (n : Nat) : Nat := 47 * n + 43

/-- The group of a capacity channel with its device. -/
def capGroup (m : Nat) : Nat := 47 * (m / 2) + 44 + m % 2

/-- The group of a shared-memory quadrant. -/
def sqGroup (n q : Nat) : Nat := 47 * n + 36 + q

/-- The group of a die's always-on region. -/
def aonGroup (n : Nat) : Nat := 47 * n + 46

/-- A group's record. -/
def Dev.unitAt (d : Dev) (g : Nat) : UnitRec := tblGet UnitRec.init d.mmc.units g

/-- Whether a group is ADMITTED (R19). -/
def Dev.admitted (d : Dev) (g : Nat) : Bool := (d.unitAt g).state = .admitted

/-- Changes a group's record. -/
def Dev.modUnit (d : Dev) (g : Nat) (f : UnitRec → UnitRec) : Dev :=
  { d with mmc := { d.mmc with units := tblMod UnitRec.init d.mmc.units g f } }

/-- Puts a group into a state. -/
def Dev.putUnit (d : Dev) (g : Nat) (s : UnitState) : Dev := d.modUnit g (fun u => { u with state := s })

/-- The groups of a compute die. -/
def dieGroups (n : Nat) : List Nat := (List.range 47).map (· + 47 * n)

/-- The 376 groups of the compute dies. -/
def allGroups : List Nat := List.range 376

/-- The code of a unit state as records report it (R528, R533). -/
def UnitState.code (s : UnitState) : Nat := s.ctorIdx

/-- A power domain's record (R542). -/
def Dev.domAt (d : Dev) (x : Nat) : DomRec := tblGet DomRec.init d.pwr.doms x

/-- Changes a power domain. -/
def Dev.modDom (d : Dev) (x : Nat) (f : DomRec → DomRec) : Dev :=
  { d with pwr := { d.pwr with doms := tblMod DomRec.init d.pwr.doms x f } }

/-- Whether a power domain is on. -/
def Dev.domOn (d : Dev) (x : Nat) : Bool := (d.domAt x).state = .on

/-- The core number of a core, 0 to 95. -/
def coreNo (die core : Nat) : Nat := die * 12 + core

/-- The unit code of a core's control processor. -/
def cpUnit (core : Nat) : Nat := unitCode (core / 12) 0 (core % 12)

/-- The unit code of a matrix engine. -/
def engUnit (core k : Nat) : Nat := unitCode (core / 12) 1 (4 * (core % 12) + k)

/-- The unit code of a vector unit. -/
def vecUnit (core : Nat) : Nat := unitCode (core / 12) 2 (core % 12)

/-- The unit code of a stream engine. -/
def strUnit (core s : Nat) : Nat := unitCode (core / 12) 3 (2 * (core % 12) + s)

/-- The unit code of a queue's unit (R159). -/
def queueUnit (core q : Nat) : Nat :=
  if q < 4 then engUnit core q else if q = 4 then vecUnit core else strUnit core (q - 5)

/-- The group that a queue's unit is in. -/
def queueGroup (core q : Nat) : Nat := if q < 4 then engGroup core q else csGroup core

/-- The context that holds a core. -/
def Dev.holder (d : Dev) (core : Nat) : Option CtxId := allCtx.find? (fun c => (d.ctxAt c).cores.contains core)

/-- The MEMMODE in force on a die: that of the contexts that hold its cores (R171). -/
def Dev.dieMode (d : Dev) (n : Nat) : Option Nat :=
  (allCtx.find? (fun c => (d.ctxAt c).cores.any (fun k => k / 12 = n))).map (fun c => (d.ctxAt c).memMode)

/-- Whether a die runs in FLAT (R169, R170). -/
def Dev.flat (d : Dev) (n : Nat) : Bool := (d.dieMode n).any (fun mm => field mm 0 2 = 1)

/-- Whether a context runs in deterministic mode (R451). -/
def Dev.det (d : Dev) (c : CtxId) : Bool := ((d.ctxAt c).loaded.map (·.det)).getD false

/-- Whether a context is beat-locked (R451). -/
def Dev.locked (d : Dev) (c : CtxId) : Bool := ((d.ctxAt c).loaded.map (·.beatLocked)).getD false

end Sys2Proof.Machine
end

