-- ==== Sys2Proof/Machine/Owners.lean ====
section
/-! DEFINITION. Allocation units and the ownership map (R294, R298 to R301), the DPA region (R427, R447) and images
(R459). -/

namespace Sys2Proof.Machine

/-- 2 MiB. -/
def granule : Nat := 0x200000

/-- The first capacity unit, the first shared-memory unit, the number of units. -/
def capUnit0 : Nat := 262144
def shmUnit0 : Nat := 1310720
def unitEnd : Nat := 1323008

/-- The local address SPACE × 2^45 + OFFSET (R295). -/
def localAddr (space off : Nat) : Nat := space * 2 ^ 45 + off

/-- The local address of a die-local address (R296). -/
def dieAddr (n a : Nat) : Nat := localAddr 2 (n * 2 ^ 32 + a)

/-- The die-local base of a shared-memory quadrant (R174). -/
def quadrantBase (q : Nat) : Nat := 0x40000000 + q * 0x01800000

/-- The local address of a unit: HBM granules by stack, capacity granules by device, then the shared-memory units of
64 KiB by die and quadrant (R298). -/
def unitAddr (u : Nat) : Nat :=
  if u < capUnit0 then u * granule
  else if u < shmUnit0 then localAddr 1 ((u - capUnit0) * granule)
  else dieAddr ((u - shmUnit0) / 1536) (quadrantBase ((u - shmUnit0) % 1536 / 384) + (u - shmUnit0) % 384 * 0x10000)

/-- The size of a unit. -/
def unitBytes (u : Nat) : Nat := if u < shmUnit0 then granule else 0x10000

/-- The unit that holds a local address, for memory that is owned by units. -/
def unitOf (a : Nat) : Option Nat :=
  let off := a % 2 ^ 45
  match a / 2 ^ 45 with
  | 0 => if off < 0x8000000000 then some (off / granule) else none
  | 1 => if off < 0x20000000000 then some (capUnit0 + off / granule) else none
  | 2 =>
    let n := off / 2 ^ 32
    let x := off % 2 ^ 32
    if n < 8 && 0x40000000 ≤ x && x < 0x46000000 then
      some (shmUnit0 + n * 1536 + (x - 0x40000000) / 0x01800000 * 384 + (x - 0x40000000) % 0x01800000 / 0x10000)
    else none
  | _ => none

/-- The group of the device that a unit lies on (R301). -/
def unitGroup (u : Nat) : Nat :=
  if u < capUnit0 then hbmGroup (u / 32768)
  else if u < shmUnit0 then capGroup ((u - capUnit0) / 65536)
  else sqGroup ((u - shmUnit0) / 1536) ((u - shmUnit0) % 1536 / 384)

/-- Whether a unit is one of the 64 RESERVED granules (R294). -/
def isReserved (u : Nat) : Bool := 32704 ≤ u && u < 32768

/-- The owner that an unlisted unit has: RESERVED, HOST on a capacity device since the cold start, else free.
DEDUCED, log 104. -/
def Own.base (o : Own) (u : Nat) : Owner :=
  if isReserved u then .reserved
  else if capUnit0 ≤ u && u < shmUnit0 && !bit o.capFree ((u - capUnit0) / 65536) then .host
  else .freeClean

/-- The owner of a unit (R298). -/
def Own.ownerOf (o : Own) (u : Nat) : Owner := tblGet (o.base u) o.map u

/-- Changes the owner of a unit. -/
def Own.setOwner (o : Own) (u : Nat) (w : Owner) : Own := { o with map := tblSet (o.base u) o.map u w }

/-- Changes the owner of many units. -/
def Own.setOwners (o : Own) (us : List Nat) (w : Owner) : Own := us.foldl (fun o u => o.setOwner u w) o

/-- The units of a list that a predicate on the owner selects, from the map's entries alone. -/
def Own.listed (o : Own) (p : Owner → Bool) : List Nat := (o.map.filter (fun e => p e.2)).map (·.1)

/-- The units that a context owns, in rising address (R298). -/
def Own.unitsOf (o : Own) (c : CtxId) : List Nat :=
  o.listed (fun w => match w with | .context d _ => d = c | _ => false)

/-- The first unit of a device and the number of its units, by the DEVICE codes of MEM_ALLOC (R441). -/
def deviceUnits (dev : Nat) : Option (Nat × Nat) :=
  if dev < 8 then some (dev * 32768, 32768)
  else if 0x10 ≤ dev && dev < 0x20 then some (capUnit0 + (dev - 0x10) * 65536, 65536)
  else if 0x20 ≤ dev && dev < 0x28 then some (shmUnit0 + (dev - 0x20) * 1536, 1536)
  else none

/-- The first `need` units from `u` on that satisfy `p`, within `fuel` units. -/
def takeUnits (p : Nat → Bool) : Nat → Nat → Nat → List Nat
  | 0, _, _ => []
  | _ + 1, 0, _ => []
  | fuel + 1, need + 1, u => if p u then u :: takeUnits p fuel need (u + 1) else takeUnits p fuel (need + 1) (u + 1)

/-- Whether a unit may be assigned: its device is ADMITTED, and the unit is free (R299); a shared-memory unit of SQ3
only while trace capture does not hold the quadrant (R530). -/
def Dev.freeUnit (d : Dev) (w : Owner) (u : Nat) : Bool :=
  d.admitted (unitGroup u) && d.own.ownerOf u = w

/-- The units that an assignment takes: FREE_CLEAN first, lowest address first, then FREE_DIRTY; none where they do
not cover the request (R299). -/
def Dev.pickUnits (d : Dev) (first size need : Nat) : Option (List Nat) :=
  let clean := takeUnits (d.freeUnit .freeClean) size need first
  let dirty := takeUnits (d.freeUnit .freeDirty) size (need - clean.length) first
  if clean.length + dirty.length = need then some (clean ++ dirty) else none

/-- The fill of R300 of those units that are dirty.
DEDUCED, log 103. -/
def Dev.fillEffs (d : Dev) (us : List Nat) : List MemEff :=
  (us.filter (fun u => d.own.ownerOf u = .freeDirty)).map (fun u => .clear (unitAddr u) (unitBytes u))

/-- Whether any unit of a list is dirty: its assignment waits for the fill (R299, R446). -/
def Dev.anyDirty (d : Dev) (us : List Nat) : Bool := us.any (fun u => d.own.ownerOf u = .freeDirty)

/-- The device with other ownership. -/
def Dev.withOwn (d : Dev) (o : Own) : Dev := { d with own := o }

/-- The global address of a unit on this module, with its own ID (R442, R297). -/
def Dev.unitGlobal (d : Dev) (u : Nat) : Nat := d.moduleId * 2 ^ 48 + unitAddr u

/-! ### The host region -/

/-- The unit that lies behind DPA granule k unless software has moved it (R427). -/
def dpaHome (k : Nat) : Nat := capUnit0 + k % 16 * 65536 + k / 16

/-- The unit that backs a DPA granule, none where it is released (R447). -/
def Dev.dpaUnit (d : Dev) (k : Nat) : Option Nat :=
  match tblGet none d.own.dpa k with
  | some b => b
  | none => if bit d.own.capFree (k % 16) then none else some (dpaHome k)

/-- How many DPA granules HOST units back (R462): 65,536 for each device that still starts as HOST, corrected by
the granules listed. -/
def Dev.hostGranules (d : Dev) : Nat :=
  let base := ((List.range 16).filter (fun m => !bit d.own.capFree m)).length * 65536
  let lost := (d.own.dpa.filter (fun e => e.2 = some none && !bit d.own.capFree (e.1 % 16))).length
  let won := (d.own.dpa.filter (fun e => (e.2.bind id).isSome && bit d.own.capFree (e.1 % 16))).length
  base + won - lost

/-- A DPA granule becomes released: its unit FREE_DIRTY (R447). -/
def Own.releaseDpa (o : Own) (k u : Nat) : Own :=
  { (o.setOwner u .freeDirty) with dpa := tblSet none o.dpa k (some none) }

/-! ### Images -/

/-- An image's units and grants. -/
def Own.image (o : Own) (i : Nat) : Option (List Nat × List CtxId) := tblGet none o.images i

/-- Whether a context holds a grant of an image (R459). -/
def Own.granted (o : Own) (i : Nat) (c : CtxId) : Bool := (o.image i).any (fun e => e.2.contains c)

/-- An image whose grant count falls to zero: its units become FREE_DIRTY (R75, R300). -/
def Own.dropImage (o : Own) (i : Nat) : Own :=
  match o.image i with
  | none => o
  | some (us, _) => { (o.setOwners us .freeDirty) with images := tblSet none o.images i none }

/-- The images present. -/
def Own.imageList (o : Own) : List Nat := o.images.map (·.1)

/-- Whether a key slot is loaded (R312). -/
def Dev.slotLoaded (d : Dev) (k : Nat) : Bool := tblGet false d.keep.slots k

/-- Loads or clears a key slot (R312, R314). -/
def Dev.putSlot (d : Dev) (k : Nat) (v : Bool) : Dev :=
  { d with keep := { d.keep with slots := tblSet false d.keep.slots k v } }

/-- Removes a context's grant of an image; at a count of zero the image and its key go (R75, R459). -/
def Dev.revoke (d : Dev) (i : Nat) (c : CtxId) : Dev :=
  match d.own.image i with
  | none => d
  | some (us, gs) =>
    let gs' := gs.filter (· ≠ c)
    if gs'.isEmpty then (d.withOwn (d.own.dropImage i)).putSlot (65 + i) false
    else d.withOwn { d.own with images := tblSet none d.own.images i (some (us, gs')) }

/-- The key slot of a unit's owner (R312); none for a free unit. -/
def Owner.slot : Owner → Option Nat
  | .freeClean => none
  | .freeDirty => none
  | .context c _ => some (c.val + 1)
  | .image i => some (65 + i)
  | .host => some 0
  | .reserved => some 0

end Sys2Proof.Machine
end

