-- ==== Sys2Proof/Machine/Translate.lean ====
section
/-! DEFINITION. Global addresses and page tables (R295 to R306), core-local addresses (R172 to R174). -/

namespace Sys2Proof.Machine

/-- Where a decoded address lies on the module. -/
inductive Place where
  /-- Memory with an address of its own, by local address. -/
  | mem (a : Nat)
  /-- The control page of a core (R190): the core and the offset within the page. -/
  | ctrl (core off : Nat)
  /-- The sync window or the debug records of a die (R268): the die and the die-local address. -/
  | window (die a : Nat)
  /-- The invalidation word of a die (R306). -/
  | inval (die : Nat)
  deriving DecidableEq, Repr

/-- A core-local address of a core's own SRAM: the local address of its bytes (R172).  The FLAT share is the memory
of its quadrant (R169). -/
def Dev.coreLocal (d : Dev) (core a : Nat) : Option Nat :=
  let n := core / 12
  let mm := core % 12
  if 0x01000000 ≤ a && a < 0x02800000 then some (dieAddr n (0x10000000 + mm * 0x04000000 + a))
  else if 0x02800000 ≤ a && a < 0x03000000 && d.flat n then
    some (dieAddr n (quadrantBase (mm / 3) + mm % 3 * 0x00800000 + (a - 0x02800000)))
  else none

/-- A die-local address (R174, R268, R306). -/
def Dev.dieLocal (d : Dev) (n a : Nat) : Option Place :=
  if 0x10000000 ≤ a && a < 0x40000000 then
    (d.coreLocal (coreNo n ((a - 0x10000000) / 0x04000000)) (a % 0x04000000)).map .mem
  else if 0x40000000 ≤ a && a < 0x46000000 then if d.flat n then none else some (.mem (dieAddr n a))
  else if 0x60000000 ≤ a && a < 0x60008000 then some (.window n a)
  else if 0x60100000 ≤ a && a < 0x60140000 then some (.window n a)
  else if 0x60200000 ≤ a && a < 0x60200008 then some (.inval n)
  else none

/-- Decodes SPACE and OFFSET on this module (R296); `core` is the core that makes the access, where one does. -/
def Dev.decodeAt (d : Dev) (core : Option Nat) (space off : Nat) : Option Place :=
  match space with
  | 0 => if off < 0x8000000000 then some (.mem (localAddr 0 off)) else none
  | 1 => if off < 0x20000000000 then some (.mem (localAddr 1 off)) else none
  | 2 => if off < 2 ^ 35 then d.dieLocal (off / 2 ^ 32) (off % 2 ^ 32) else none
  | 3 =>
    match core with
    | none => none
    | some k =>
      if off < 2 ^ 32 then
        if 0x03000000 ≤ off && off < 0x03005000 then some (.ctrl k (off - 0x03000000))
        else (d.coreLocal k off).map .mem
      else none
  | _ => none

/-- The core whose scratchpad holds a local SRAM address, where one does. -/
def sramCore (a : Nat) : Option Nat :=
  if a / 2 ^ 45 = 2 then
    let off := a % 2 ^ 45
    let x := off % 2 ^ 32
    if 0x10000000 ≤ x && x < 0x40000000 then some (coreNo (off / 2 ^ 32) ((x - 0x10000000) / 0x04000000)) else none
  else none

/-- The core whose FLAT share holds a quadrant address (R169). -/
def shareCore (a : Nat) : Option Nat :=
  if a / 2 ^ 45 = 2 then
    let off := a % 2 ^ 45
    let x := off % 2 ^ 32
    if 0x40000000 ≤ x && x < 0x46000000 then
      some (coreNo (off / 2 ^ 32) ((x - 0x40000000) / 0x01800000 * 3 + (x - 0x40000000) % 0x01800000 / 0x00800000))
    else none
  else none

/-- The core that owns an SRAM address: its scratchpad, or its share where the die runs in FLAT. -/
def Dev.coreOf (d : Dev) (a : Nat) : Option Nat :=
  match sramCore a with
  | some k => some k
  | none => match shareCore a with
    | some k => if d.flat (k / 12) then some k else none
    | none => none

/-- The core-local address of an SRAM address in its core (R172). -/
def Dev.toCoreLocal (d : Dev) (a : Nat) : Nat :=
  let x := a % 2 ^ 32
  match sramCore a with
  | some _ => x % 0x04000000
  | none => if d.flat (a % 2 ^ 45 / 2 ^ 32) then 0x02800000 + (x - 0x40000000) % 0x01800000 % 0x00800000 else x

/-- Whether the units that hold a place are ADMITTED (R34, R301). -/
def Dev.placeIn (d : Dev) : Place → Bool
  | .mem a => match d.coreOf a with
    | some k => d.admitted (csGroup k)
    | none => match unitOf a with
      | some u => d.admitted (unitGroup u)
      | none => false
  | .ctrl k _ => d.admitted (csGroup k)
  | .window n _ => d.admitted (aonGroup n)
  | .inval n => d.admitted (aonGroup n)

/-- Who may use a place: the checks of R174, R298 and R309 for a context. -/
inductive Right where
  | yes
  /-- Owned by nobody the context may use. -/
  | no
  /-- A resident image granted to the context: read-only (R75). -/
  | readOnly
  /-- The unit's key slot is clear (R314, R495). -/
  | killed
  deriving DecidableEq, Repr

/-- The right of a context to memory at a local address, and the unit's class where it has one. -/
def Dev.rightMem (d : Dev) (c : CtxId) (a : Nat) : Right × Option Bool :=
  match d.coreOf a with
  | some k => (if (d.ctxAt c).cores.contains k then .yes else .no, none)
  | none => match unitOf a with
    | none => (.no, none)
    | some u => match d.own.ownerOf u with
      | .context o w =>
        if o = c then (if u < shmUnit0 && !d.slotLoaded (c.val + 1) then .killed else .yes, some w) else (.no, some w)
      | .image i =>
        if d.own.granted i c then (if d.slotLoaded (65 + i) then .readOnly else .killed, some true) else (.no, some true)
      | _ => (.no, none)

/-- The right of a context to a place. -/
def Dev.right (d : Dev) (c : CtxId) : Place → Right × Option Bool
  | .mem a => d.rightMem c a
  | .ctrl k _ => (if (d.ctxAt c).cores.contains k then .yes else .no, none)
  | _ => (.yes, none)

/-! ### The walk -/

/-- What an access does (R304). -/
inductive Access where
  | read | write | fetch
  deriving DecidableEq, Repr

/-- How a translation ends. -/
inductive Xlat where
  /-- A place on this module; `readOnly` for a granted image. -/
  | here (p : Place) (readOnly : Bool)
  /-- Another module: its ID and bits [47:0] of the address (R295). -/
  | remote (module addr : Nat)
  /-- The check of R304 that failed first. -/
  | failed (check : Nat)
  /-- The target or a table is not ADMITTED (R301). -/
  | notIn
  /-- The target's key slot is clear (R495). -/
  | killed
  deriving DecidableEq, Repr

/-- A table entry of R303, read from memory. -/
structure Pte where
  raw : Nat
  deriving DecidableEq, Repr

/-- The bits of a table entry (R303). -/
def Pte.v (p : Pte) : Bool := bit p.raw 0
def Pte.leaf (p : Pte) : Bool := bit p.raw 1
def Pte.r (p : Pte) : Bool := bit p.raw 2
def Pte.w (p : Pte) : Bool := bit p.raw 3
def Pte.x (p : Pte) : Bool := bit p.raw 4
def Pte.pin (p : Pte) : Bool := bit p.raw 5
def Pte.cls (p : Pte) : Bool := bit p.raw 6
def Pte.frame (p : Pte) : Nat := p.raw / 4096 * 4096

/-- The page size of a leaf by level (R302). -/
def pageBytes (level : Nat) : Nat := if level = 1 then 2 ^ 30 else if level = 2 then 2 ^ 21 else 2 ^ 12

/-- The table index of a context address at a level (R302). -/
def pteIndex (va level : Nat) : Nat := field va (39 - 9 * level) 9

/-- Whether a global address names this module: its own ID or 0xFFFF (R297). -/
def Dev.isLocal (d : Dev) (ga : Nat) : Bool := ga / 2 ^ 48 = 0xFFFF || (d.idCommitted && ga / 2 ^ 48 = d.moduleId)

/-- Whether a page is one in which a table of the context may lie: HBM of this module that the context owns (R302). -/
def Dev.tablePage (d : Dev) (c : CtxId) (ga : Nat) : Bool :=
  d.isLocal ga && field ga 45 3 = 0 && (d.rightMem c (ga % 2 ^ 45)).1 = .yes

/-- The result of the walk: a leaf with its level, or a failure. -/
inductive Walk where
  | leaf (level : Nat) (p : Pte)
  | stop (x : Xlat)
  deriving DecidableEq, Repr

/-- Walks the levels in a list, from the table at a local address (R302 to R304). -/
def Dev.walk (d : Dev) (m : Mem) (c : CtxId) (va : Nat) : List Nat → Nat → Walk
  | [], _ => .stop (.failed 3)
  | l :: ls, tab =>
    let a := tab + 8 * pteIndex va l
    if !d.placeIn (.mem a) then .stop .notIn
    else if m.poisoned a 8 then .stop (.failed 2)
    else
      let p : Pte := ⟨m.num a 8⟩
      if !p.v then .stop (.failed 1)
      else if field p.raw 7 5 ≠ 0 then .stop (.failed 3)
      else if p.leaf then
        if l = 0 || p.frame % pageBytes l ≠ 0 then .stop (.failed 3) else .leaf l p
      else if l = 3 || !d.tablePage c p.frame then .stop (.failed 3)
      else d.walk m c va ls (p.frame % 2 ^ 45)

/-- The translations of a page that covers the address which some cache may still hold (R305). -/
def Dev.cached (d : Dev) (c : CtxId) (va : Nat) : List (Nat × Pte) :=
  (d.own.tlb.filter (fun e => e.1 = c && va / pageBytes e.2.2.1 * pageBytes e.2.2.1 = e.2.1)).map
    (fun e => (e.2.2.1, ⟨e.2.2.2⟩))

/-- The cached translations of an address that differ from what a walk finds: a unit may use any of them, or the walk, until an
invalidation removes them (R305, R306). -/
def Dev.stale (d : Dev) (c : CtxId) (va : Nat) (w : Walk) : List Walk :=
  ((d.cached c va).map (fun e => Walk.leaf e.1 e.2)).filter (fun e => e ≠ w)

/-- Checks 4 to 7 of a leaf (R304). -/
def Dev.checkLeaf (d : Dev) (c : CtxId) (core : Option Nat) (acc : Access) (pin : Bool) (ga : Nat) (p : Pte) : Xlat :=
  let space := field ga 45 3
  let far := !d.isLocal ga
  if (acc = .read && !p.r) || (acc = .write && !p.w) || (acc = .fetch && !p.x) || (p.x && (far || space = 2)) then
    .failed 4
  else if far then
    let off := ga % 2 ^ 45
    let dec := (space = 0 && off < 0x8000000000) || (space = 1 && off < 0x20000000000) || (space = 2 && off < 2 ^ 35)
    if !dec then .failed 5 else if pin && !p.pin then .failed 7 else .remote (ga / 2 ^ 48) (ga % 2 ^ 48)
  else match d.decodeAt core space (ga % 2 ^ 45) with
    | none => .failed 5
    | some pl =>
      if !d.placeIn pl then .notIn
      else
        let (r, cls) := d.right c pl
        if r = .no || cls.any (· ≠ p.cls) then .failed 6
        else if r = .killed then .killed
        else if pin && !p.pin then .failed 7
        else .here pl (r = .readOnly)

/-- The walk of a context address from the root table (R302). -/
def Dev.rootWalk (d : Dev) (m : Mem) (c : CtxId) (va : Nat) : Walk :=
  match (d.ctxAt c).root with
  | none => .stop (.failed 1)
  | some root => d.walk m c va [0, 1, 2, 3] (root % 2 ^ 45)

/-- The translation of a context address for an access (R302 to R305): what a walk finds or, freely, a stale cached translation, then
the checks of the leaf; with it, the leaf that a successful access caches, and whether the choice was free.
DEDUCED, log 85. -/
def Dev.translate (d : Dev) (m : Mem) (c : CtxId) (core : Option Nat) (acc : Access) (pin : Bool) (va : Nat) :
    Xlat × Option (Nat × Pte) × Bool :=
  if va / 2 ^ 48 ≠ 0 then (.failed 3, none, false)
  else
    let w := d.rootWalk m c va
    let old := d.stale c va w
    let w := if old.isEmpty then w else (w :: old).getD (Config.staleLeaf d.free va % (old.length + 1)) w
    match w with
    | .stop x => (x, none, !old.isEmpty)
    | .leaf l p => (d.checkLeaf c core acc pin (p.frame + va % pageBytes l) p, some (l, p), !old.isEmpty)

/-- Whether a translation passed every check. -/
def Xlat.ok : Xlat → Bool
  | .here _ _ => true
  | .remote _ _ => true
  | _ => false

/-- A translation that passed every check is cached; a miss or a failure is not (R305).  A free choice counts as drawn. -/
def Dev.cache (d : Dev) (c : CtxId) (va : Nat) (t : Xlat × Option (Nat × Pte) × Bool) : Dev :=
  let d := if t.2.2 then { d with free := d.free + 1 } else d
  match t with
  | (x, some (l, p), _) =>
    if x.ok && !(d.cached c va).contains (l, p) then
      d.withOwn { d.own with tlb := d.own.tlb ++ [(c, va / pageBytes l * pageBytes l, l, p.raw)] }
    else d
  | _ => d

/-- The thread fault cause of a failed translation (R165, R304). -/
def Xlat.cause : Xlat → Nat
  | .failed 1 => 0x04
  | .failed 2 => 0x0A
  | .notIn => 0x11
  | .killed => 0x10
  | _ => 0x03

/-- The host status of a failed translation (R304, R437). -/
def Xlat.hostStatus : Xlat → Nat
  | .failed 1 => 0x15
  | .notIn => 0x0D
  | .killed => 0x11
  | _ => 0x11

/-- The stream status of a failed translation (R211, R304): FAULTED 0xA, PIN_FAULT 0xB, BAD_ADDR 4, ACCESS 9. -/
def Xlat.streamStatus (beatLocked : Bool) : Xlat → Nat
  | .failed 1 => if beatLocked then 0xB else 0xA
  | .failed 5 => 4
  | .failed 7 => 0xB
  | .notIn => 6
  | .killed => 0x10
  | _ => 9

/-- Removes cached translations of a context: the page that covers an address, or all (R306). -/
def Dev.invalidate (d : Dev) (c : CtxId) (va : Option Nat) : Dev :=
  let gone := fun (e : CtxId × Nat × Nat × Nat) =>
    e.1 = c && (va.all (fun v => v / pageBytes e.2.2.1 * pageBytes e.2.2.1 = e.2.1))
  d.withOwn { d.own with tlb := d.own.tlb.filter (fun e => !gone e) }

/-- A store to the invalidation word (R306): whether it is accepted, and the device after it. -/
def Dev.invalWord (d : Dev) (c : CtxId) (v : Nat) : Bool × Dev :=
  if 1 < field v 0 2 || field v 2 10 ≠ 0 || field v 48 16 ≠ 0 then (false, d)
  else (true, d.invalidate c (if field v 0 2 = 0 then some (field v 12 36 * 4096) else none))

end Sys2Proof.Machine
end

