-- ==== Sys2Proof/Machine/Digest.lean ====
section
/-! DEFINITION. The digests of lock-step comparison (R417, R418): what every write of a context's own units, or of a
module of its job, adds to them. -/

namespace Sys2Proof.Machine

/-- The die whose DIE value a die takes in tags and stream numbers: in die pairs the first die of its pair (R416, R417). -/
def pairFirst (diePairs n : Nat) : Option Nat :=
  ((List.range 4).map (fun k => field diePairs (8 * k) 8)).findSome? (fun p =>
    if bit p 7 && (field p 0 3 = n || field p 3 3 = n) then some (field p 0 3) else none)

/-- The form of lock-step of a context's container: 0 none, 1 module pair, 2 die pairs (R451). -/
def Ctx.diePairs (x : Ctx) : Nat := (x.loaded.map (·.diePairs)).getD 0

/-- The place of a unit among those that the context has been given on its device (R418): its last assignment counts.
DEDUCED, log 41. -/
def Ctx.ordinal (x : Ctx) (u : Nat) : Nat :=
  let dev := x.given.filter (fun v => unitGroup v / 47 = unitGroup u / 47 &&
    (if u < shmUnit0 then unitGroup v = unitGroup u else shmUnit0 ≤ v))
  dev.length - 1 - (dev.reverse.takeWhile (· ≠ u)).length

/-- The digest unit and the tag of the line at a local address (R417, R418). -/
def Dev.digestTag (d : Dev) (x : Ctx) (a : Nat) : Option (Nat × Nat) :=
  let tag := fun (kind die core loc : Nat) => kind * 2 ^ 60 + die * 2 ^ 56 + core * 2 ^ 52 + loc
  let die := fun (n : Nat) => if x.lock.form = 2 then 0 else n
  let inForm := fun (n : Nat) => x.lock.form = 1 || (pairFirst x.diePairs n).isSome
  let line := a / 64 * 64
  match d.coreOf line with
  | some k =>
    if inForm (k / 12) then
      some (unitCode (k / 12) 4 (k % 12), tag 1 (die (k / 12)) (k % 12) (d.toCoreLocal line))
    else none
  | none => match unitOf line with
    | none => none
    | some u =>
      let n := unitGroup u / 47
      let loc := x.ordinal u * unitBytes u + (line - unitAddr u)
      if !inForm n then none
      else if u < capUnit0 then some (unitCode n 6 0, tag 3 (die n) 0 loc)
      else if u < shmUnit0 then some (unitCode n 7 (unitGroup u % 47 - 44), tag (4 + (unitGroup u % 47 - 44)) (die n) 0 loc)
      else some (unitCode n 5 0, tag 2 (die n) 0 loc)

/-- H of R417. -/
def digestH (tag : Nat) (granule : Bytes) : Nat := crc64 (leBytes 8 tag ++ granule)

/-- Adds H(tag, new) − H(tag, old) to a digest. -/
def Dev.addDigest (d : Dev) (c : CtxId) (unit tag : Nat) (old new : Bytes) : Dev :=
  d.modCtx c (fun x => { x with lock := { x.lock with
    own := tblMod 0 x.lock.own unit (fun v => (v + digestH tag new + 2 ^ 64 - digestH tag old) % 2 ^ 64) } })

/-- A write of bytes at a local address counts in the digests of its context while lock-step is in force (R417). -/
def Dev.digestWrite (d : Dev) (m : Mem) (c : CtxId) (a : Nat) (bs : Bytes) : Dev :=
  if (d.ctxAt c).lock.form = 0 || (d.ctxAt c).state ≠ .running then d
  else
    (linesOf a bs.length).foldl (fun d l =>
      match d.digestTag (d.ctxAt c) (64 * l) with
      | none => d
      | some (u, tag) =>
        let old := m.read (64 * l) 64
        let new := (m.write a bs false).read (64 * l) 64
        d.addDigest c u tag old new) d

/-- A sync update counts as a write of VALUE, zero-extended to 64 bytes (R417). -/
def Dev.digestSync (d : Dev) (c : CtxId) (die vid old new : Nat) : Dev :=
  let x := d.ctxAt c
  if x.lock.form = 0 || x.state ≠ .running || (x.lock.form = 2 && (pairFirst x.diePairs die).isNone) then d
  else
    let tag := 6 * 2 ^ 60 + (if x.lock.form = 2 then 0 else die) * 2 ^ 56 + vid
    d.addDigest c (unitCode die 9 0) tag (leBytes 8 old ++ zeros 56) (leBytes 8 new ++ zeros 56)

end Sys2Proof.Machine
end

