-- ==== Sys2Proof/Machine/Sync.lean ====
section
/-! DEFINITION. The sync store: objects, updates, waits, Latch lines (R264 to R278). -/

namespace Sys2Proof.Machine

/-- The kinds of an object (R264). -/
def kEvent : Nat := 1
def kProd : Nat := 2
def kCons : Nat := 3
def kLatch : Nat := 4

/-- Where a physical object is stored. -/
def syncKey (die phys : Nat) : Nat := die * 65536 + phys

/-- Where a context's translation of an identifier on a die is stored (R265). -/
def vidKey (c : CtxId) (die vid : Nat) : Nat := (c.val * 8 + die) * 4096 + vid

/-- A physical object. -/
def Dev.syncAt (d : Dev) (die phys : Nat) : SyncObj := tblGet SyncObj.init d.sync.objs (syncKey die phys)

/-- Changes a physical object. -/
def Dev.modSync (d : Dev) (die phys : Nat) (f : SyncObj → SyncObj) : Dev :=
  { d with sync := { d.sync with objs := tblMod SyncObj.init d.sync.objs (syncKey die phys) f } }

/-- The physical object that an identifier of a context is bound to on a die (R265). -/
def Dev.physOf (d : Dev) (c : CtxId) (die vid : Nat) : Option Nat := tblGet none d.sync.vids (vidKey c die vid)

/-- Binds an identifier. -/
def Dev.putVid (d : Dev) (c : CtxId) (die vid : Nat) (p : Option Nat) : Dev :=
  { d with sync := { d.sync with vids := tblSet none d.sync.vids (vidKey c die vid) p } }

/-- The physical objects of a die in use, rising. -/
def Dev.usedSync (d : Dev) (die : Nat) : List Nat :=
  (d.sync.objs.filter (fun e => e.1 / 65536 = die && e.2.kind ≠ 0)).map (fun e => e.1 % 65536)

/-- The free objects of a die (R291). -/
def Dev.freeSync (d : Dev) (die : Nat) : Nat := 65536 - (d.usedSync die).length

/-- The lowest number from `n` on that a rising list does not hold. -/
def lowestFree : List Nat → Nat → Nat
  | [], n => n
  | u :: us, n => if u < n then lowestFree us n else if u = n then lowestFree us (n + 1) else n

/-- Takes the lowest-numbered free object of a die for a context: its number and the device (R266). -/
def Dev.takeSync (d : Dev) (die : Nat) (o : SyncObj) : Nat × Dev :=
  let p := lowestFree (d.usedSync die) 0
  (p, d.modSync die p (fun _ => o))

/-- Who signals (R277, R278). -/
structure Signaller where
  module : Nat
  unit : Nat
  thread : Option Nat
  src : Nat
  deriving DecidableEq, Repr

/-- The thread byte of a signaller (R277). -/
def Signaller.threadByte (s : Signaller) : Nat :=
  match s.thread with
  | some t => t + 128
  | none => 0

/-- Writes the last-signaller fields (R278). -/
def SyncObj.sign (o : SyncObj) (s : Signaller) (beat : Nat) : SyncObj :=
  { o with lastModule := s.module, lastUnit := s.unit, lastThread := s.threadByte, lastSrc := s.src, lastBeat := beat }

/-! ### Waits (R161, R271) -/

/-- Whether a condition of MWAIT holds (R161). -/
def waitHolds (cond value operand : Nat) : Bool :=
  match cond with
  | 0 => operand ≤ value
  | 1 => value = operand
  | _ => value ≠ operand

/-- A waiter that has not been met yet tests a value (R271). -/
def Thread.test (t : Thread) (kind obj value : Nat) : Thread :=
  match t.wait with
  | some w =>
    if t.state = .wait && w.kind = kind && w.obj = obj && w.hit = none && waitHolds w.cond value w.operand then
      { t with wait := some { w with hit := some value } }
    else t
  | none => t

/-- A marker whose earlier transfers have completed tests a value (R226, R271). -/
def Stream.test (s : Stream) (kind obj value : Nat) : Stream :=
  match s.marker with
  | some m => if s.transfers.all (·.own.isSome) && m.kind = kind && m.obj = obj && m.value ≤ value then { s with marker := some { m with hit := true } } else s
  | none => s

/-- Every waiter of the cores in a list tests a value of an object of theirs. -/
def Dev.offer (d : Dev) (cores : List Nat) (tkind skind obj value : Nat) : Dev :=
  { d with thr := tblMap Thread.init (fun k t => if cores.contains (k / 8) then t.test tkind obj value else t) d.thr,
           str := tblMap Stream.init (fun k s => if cores.contains (k / 2) then s.test skind obj value else s) d.str }

/-- Every waiter on a sync object tests its value (R271). -/
def Dev.offerSync (d : Dev) (c : CtxId) (die vid value : Nat) : Dev :=
  d.offer ((d.ctxAt c).cores.filter (fun k => k / 12 = die)) 0 1 vid value

/-! ### Latch lines (R273, R274) -/

/-- The LATCH objects of a line, by key. -/
def Dev.latchObjs (d : Dev) (line : Nat) : Tbl SyncObj :=
  d.sync.objs.filter (fun e => e.2.kind = kLatch && e.2.line = line)

/-- The owner of a line (R273). -/
def Dev.latchOwner (d : Dev) (line : Nat) : Option CtxId := ((d.latchObjs line).head?).map (fun e => e.2.ctx)

/-- The level of a line: the AND of the nine dies' drivers (R273).  A die that is not ADMITTED drives high. -/
def Dev.latchLevel (d : Dev) (line : Nat) : Bool :=
  d.mmc.state ≠ .off && (d.latchObjs line).all (fun e => e.2.drive || !d.admitted (aonGroup (e.1 / 65536)))

/-- Sets each die's driver of a line: high while ARRIVED equals PARTICIPANTS, once every die has performed the release
before; when the line then reads high, every object's release is due (R274). -/
def Dev.latchSettle (d : Dev) (line : Nat) : Dev :=
  if (d.latchObjs line).any (fun e => e.2.release) then d
  else
    let drive := fun (o : SyncObj) => { o with drive := o.arrived = o.participants }
    let on := fun (f : SyncObj → SyncObj) (d : Dev) =>
      let g := fun (_ : Nat) (o : SyncObj) => if o.kind = kLatch && o.line = line then f o else o
      { d with sync := { d.sync with objs := tblMap SyncObj.init g d.sync.objs } }
    let d := on drive d
    if !(d.latchObjs line).isEmpty && d.latchLevel line then on (fun o => { o with release := true }) d else d

/-! ### Updates -/

/-- How an update ends. -/
inductive SigEnd where
  /-- Performed; the value returned (R161, R269, R274). -/
  | ok (old : Nat)
  /-- A counter fault by range (R270). -/
  | range
  /-- A privileged object (R269). -/
  | priv
  /-- An identifier that is not bound (R265). -/
  | badId
  deriving DecidableEq, Repr

/-- A counter fault: the object's FAULTED flag, the SYNC_FAULT event, the count in SYN_STAT, and in a beat-locked
context work outstanding at the next tick (R270).
DEDUCED, log 39. -/
def Dev.syncFault (d : Dev) (c : CtxId) (die vid : Nat) (inc : Int) (cause : Nat) (s : Signaller) : Dev :=
  let value := match d.physOf c die vid with
    | some p => (d.syncAt die p).value
    | none => 0
  let d := match d.physOf c die vid with
    | some p => d.modSync die p (fun o => { o with faulted := true })
    | none => d
  let body := leBytes 8 value ++ leBytes 8 (ofSigned inc 64) ++ leBytes 2 vid ++ leBytes 1 die ++ leBytes 1 cause
    ++ leBytes 2 s.module ++ leBytes 2 s.unit ++ leBytes 1 s.threadByte ++ leBytes 1 s.src ++ zeros 6
  let d := (d.event c 4 body).count SYN_STAT.FAULTS die
  if d.locked c then
    let u := if s.src = 3 then unitCode die 9 0 else s.unit
    d.modCtx c (fun x => { x with lateUnit := some (match x.lateUnit with | some v => Nat.min u v | none => u) })
  else d

/-- Adds a checked increment to an EVENT object or arrives at a Latch (R269, R270, R274). -/
def Dev.bump (d : Dev) (c : CtxId) (die vid phys : Nat) (inc : Int) (s : Signaller) : SigEnd × Dev :=
  let o := d.syncAt die phys
  if o.kind = kLatch then
    if inc ≠ 1 then (.range, d.syncFault c die vid inc 6 s)
    else if o.arrived = o.participants then (.range, d.syncFault c die vid inc 5 s)
    else
      let d := d.modSync die phys (fun o => { (o.sign s d.time.beat) with arrived := o.arrived + 1 })
      (.ok o.value, d.latchSettle o.line)
  else if inc < -2147483648 || 2147483647 < inc then (.range, d.syncFault c die vid inc 6 s)
  else if inc = 0 then (.ok o.value, d)
  else
    let v := (o.value : Int) + inc
    if v < 0 then (.range, d.syncFault c die vid inc 1 s)
    else if (o.limit : Int) < v then (.range, d.syncFault c die vid inc 2 s)
    else
      let d := d.modSync die phys (fun o => { (o.sign s d.time.beat) with value := v.toNat })
      (.ok o.value, (d.digestSync c die vid o.value v.toNat).offerSync c die vid v.toNat)

/-- MSIG (R269). -/
def Dev.msig (d : Dev) (c : CtxId) (die vid : Nat) (inc : Int) (s : Signaller) : SigEnd × Dev :=
  match d.physOf c die vid with
  | none => (.badId, d)
  | some p =>
    let k := (d.syncAt die p).kind
    if k = kProd || k = kCons then (.priv, d.syncFault c die vid inc 3 s) else d.bump c die vid p inc s

/-- A command's signal: +1; privilege and unbound identifiers are faults, the command keeps its status (R269). -/
def Dev.cmdSignal (d : Dev) (c : CtxId) (die vid : Nat) (s : Signaller) : Dev :=
  match d.physOf c die vid with
  | none => d.syncFault c die vid 1 4 s
  | some p =>
    let k := (d.syncAt die p).kind
    if k = kProd || k = kCons then d.syncFault c die vid 1 3 s else (d.bump c die vid p 1 s).2

/-- A window AMOADD.D: as MSIG, but LATCH objects are privileged too (R268, R269). -/
def Dev.windowAdd (d : Dev) (c : CtxId) (die vid : Nat) (inc : Int) (s : Signaller) : SigEnd × Dev :=
  match d.physOf c die vid with
  | none => (.badId, d)
  | some p =>
    let k := (d.syncAt die p).kind
    if k ≠ kEvent then (.priv, d.syncFault c die vid inc 3 s) else d.bump c die vid p inc s

/-- The value of an object (R161). -/
def Dev.syncValue (d : Dev) (c : CtxId) (die vid : Nat) : Option Nat :=
  (d.physOf c die vid).map (fun p => (d.syncAt die p).value)

/-- An update of a privileged object by the module itself (R272, R278). -/
def Dev.moduleUpdate (d : Dev) (die phys unit : Nat) (value : Nat) : Dev :=
  let o := d.syncAt die phys
  let d := d.modSync die phys (fun o => { (o.sign ⟨d.moduleId, unit, none, 4⟩ d.time.beat) with value := value })
  (d.digestSync o.ctx die o.vid o.value value).offerSync o.ctx die o.vid value

/-- A die sees its line high and performs the release: VALUE + 1, ARRIVED zero, the line driven low (R274). -/
def Dev.latchRelease (d : Dev) (die phys : Nat) : Dev :=
  let o := d.syncAt die phys
  let d := d.modSync die phys (fun o => { (o.sign ⟨d.moduleId, unitCode die 9 0, none, 4⟩ d.time.beat) with
    value := o.value + 1, arrived := 0, drive := false, release := false })
  ((d.digestSync o.ctx die o.vid o.value (o.value + 1)).offerSync o.ctx die o.vid (o.value + 1)).latchSettle o.line

/-- Unbinds every identifier of a context and returns its objects, reserved ones too, to the free pool (R267). -/
def Dev.dropSync (d : Dev) (c : CtxId) : Dev :=
  { d with sync := { objs := d.sync.objs.filter (fun e => !(e.2.ctx = c)), vids := tblDrop (fun k => k / 32768 = c.val) d.sync.vids } }

/-! ### Allocation entries (R266) -/

/-- A sync allocation entry. -/
structure SyncEntry where
  raw : Bytes
  deriving DecidableEq, Repr

def SyncEntry.vid (e : SyncEntry) : Nat := rd e.raw 0 2
def SyncEntry.die (e : SyncEntry) : Nat := rdb e.raw 2
def SyncEntry.kind (e : SyncEntry) : Nat := rdb e.raw 3
def SyncEntry.line (e : SyncEntry) : Nat := rdb e.raw 4
def SyncEntry.parts (e : SyncEntry) : Nat := rdb e.raw 5
def SyncEntry.limit (e : SyncEntry) : Nat := rd e.raw 8 8

/-- Every field of an entry is legal and every reserved bit is zero (R266). -/
def SyncEntry.legal (e : SyncEntry) : Bool :=
  e.vid ≤ 0xFDF && e.die < 8 && rd e.raw 6 2 = 0 &&
  (if e.kind = kEvent then e.line = 0 && e.parts = 0 && 1 ≤ e.limit && e.limit < 2 ^ 63
   else e.kind = kLatch && e.line < 8 && 1 ≤ e.parts && e.limit = 0)

/-- The object that an entry binds. -/
def SyncEntry.obj (e : SyncEntry) (c : CtxId) : SyncObj :=
  { SyncObj.init with kind := e.kind, limit := e.limit, participants := e.parts, line := e.line, bound := true, vid := e.vid, ctx := c }

/-- The checks of R266 over all the entries of a command: the host status of the first that fails, with the entry's
index.  `extra` is how many objects besides the entries each die must yield (R272). -/
def Dev.checkSync (d : Dev) (c : CtxId) (cores : List Nat) (es : List SyncEntry) (extra : Nat → Nat) :
    Option (Nat × Nat) :=
  let dup := fun (i : Nat) (e : SyncEntry) =>
    (es.take i).any (fun f => f.vid = e.vid && f.die = e.die) || (d.physOf c e.die e.vid).isSome
  match findIdx (fun (x : Nat × SyncEntry) => !x.2.legal || dup x.1 x.2) (es.zipIdx.map (fun x => (x.2, x.1))) with
  | some (i, _) => some (0x0A, i)
  | none =>
    match findIdx (fun (e : SyncEntry) => !(cores.filter (fun k => k / 12 = e.die)).all (fun k => d.admitted (csGroup k))) es with
    | some (i, _) => some (0x0D, i)
    | none =>
      match findIdx (fun (e : SyncEntry) => e.kind = kLatch && (d.latchOwner e.line).any (· ≠ c)) es with
      | some (i, _) => some (0x05, i)
      | none =>
        if (List.range 8).any (fun n => d.freeSync n < (es.filter (fun e => e.die = n)).length + extra n) then some (0x0B, 0)
        else none

/-- Binds the entries in order (R266). -/
def Dev.bindSync (d : Dev) (c : CtxId) (es : List SyncEntry) : Dev :=
  es.foldl (fun d e => let (p, d) := d.takeSync e.die (e.obj c); d.putVid c e.die e.vid (some p)) d

/-- Cuts bytes into allocation entries. -/
def syncEntries (bs : Bytes) : List SyncEntry := (chunks 16 bs.length bs).map (fun b => ⟨sub b 0 16⟩)

/-! ### The debug record (R277) -/

/-- The WAITERS bits of an object. -/
def Dev.waiters (d : Dev) (o : SyncObj) (die : Nat) : Nat :=
  maskOf ((d.thr.filter (fun e => e.1 / 96 = die && (d.ctxAt o.ctx).cores.contains (e.1 / 8) && e.2.state = .wait &&
    e.2.wait.any (fun w => w.kind = 0 && w.obj = o.vid))).map (fun e => e.1 % 96))

/-- The MARKERS bits of an object. -/
def Dev.markers (d : Dev) (o : SyncObj) (die : Nat) : Nat :=
  maskOf ((d.str.filter (fun e => e.1 / 24 = die && (d.ctxAt o.ctx).cores.contains (e.1 / 2) &&
    e.2.marker.any (fun m => m.kind = 1 && m.obj = o.vid))).map (fun e => e.1 % 24))

/-- The 64 bytes of an object's debug record (R277). -/
def Dev.syncRecord (d : Dev) (die phys : Nat) : Bytes :=
  let o := d.syncAt die phys
  let param :=
    if o.kind = kEvent then o.limit
    else if o.kind = kLatch then
      o.participants + o.arrived * 2 ^ 8 + o.line * 2 ^ 16 + b2n o.drive * 2 ^ 19 + b2n (d.latchLevel o.line) * 2 ^ 20
    else o.ringSlots + o.ringIdx * 2 ^ 8 + b2n o.ringGrad * 2 ^ 11
  leBytes 8 o.value ++ leBytes 8 param ++ leBytes 1 o.kind ++ leBytes 1 (b2n o.faulted + 2 * b2n o.bound) ++ leBytes 2 o.vid
    ++ leBytes 2 phys ++ leBytes 1 o.ctx.val ++ zeros 1 ++ leBytes 12 (d.waiters o die) ++ leBytes 3 (d.markers o die) ++ zeros 1
    ++ leBytes 2 o.lastModule ++ leBytes 2 o.lastUnit ++ leBytes 1 o.lastThread ++ leBytes 1 o.lastSrc ++ zeros 2
    ++ leBytes 8 o.lastBeat ++ zeros 8

end Sys2Proof.Machine
end

