-- ==== Sys2Proof/Machine/Regions.lean ====
section
/-! DEFINITION. Circular regions, tags and the control page (R190 to R196), the UNINIT word (R200), clearing (R203). -/

namespace Sys2Proof.Machine

/-- Where a region is stored. -/
def regionKey (core r : Nat) : Nat := core * 64 + r

/-- Where a slot's count and tag are stored. -/
def slotKey (core r s : Nat) : Nat := (core * 64 + r) * 64 + s

/-- A region descriptor. -/
def Dev.regionAt (d : Dev) (core r : Nat) : Region := tblGet Region.init d.regn (regionKey core r)

/-- Changes a region. -/
def Dev.modRegion (d : Dev) (core r : Nat) (f : Region → Region) : Dev :=
  { d with regn := tblMod Region.init d.regn (regionKey core r) f }

/-- The arrival count of a slot (R190). -/
def Dev.slotCount (d : Dev) (core r s : Nat) : Nat := tblGet 0 d.slotCnt (slotKey core r s)

/-- Sets the arrival count of a slot. -/
def Dev.putCount (d : Dev) (core r s n : Nat) : Dev := { d with slotCnt := tblSet 0 d.slotCnt (slotKey core r s) (n % 2 ^ 32) }

/-- Whether a slot is FULL (R194). -/
def Dev.isFull (d : Dev) (core r s : Nat) : Bool := tblGet false d.full (slotKey core r s)

/-- Sets the tag of a slot. -/
def Dev.putFull (d : Dev) (core r s : Nat) (v : Bool) : Dev := { d with full := tblSet false d.full (slotKey core r s) v }

/-- Zeroes the slot counts and tags of a region. -/
def Dev.clearSlots (d : Dev) (core r : Nat) : Dev :=
  let here := fun (k : Nat) => decide (k / 64 = regionKey core r)
  { d with slotCnt := tblDrop here d.slotCnt, full := tblDrop here d.full }

/-- The bytes that a region covers. -/
def Region.bytes (g : Region) : Nat := g.slots * g.slotBytes

/-- The slots filled and not released (R191). -/
def Region.fill (g : Region) : Nat := (g.head + 2 ^ 32 - g.tail) % 2 ^ 32

/-- The valid region of a core that holds a core-local address, with the slot (R191). -/
def Dev.slotAt (d : Dev) (core a : Nat) : Option (Nat × Nat) :=
  ((d.regn.find? (fun e => e.1 / 64 = core && e.2.valid && e.2.base ≤ a && a < e.2.base + e.2.bytes))).map
    (fun e => (e.1 % 64, (a - e.2.base) / e.2.slotBytes))

/-- The local address of the first byte of a region. -/
def Dev.regionLocal (d : Dev) (core : Nat) (g : Region) : Nat := (d.coreLocal core g.base).getD 0

/-- Whether a range lies within one part of R172 that is decoded in the mode in force (R192). -/
def Dev.inOnePart (d : Dev) (core a n : Nat) : Bool :=
  (0x01000000 ≤ a && a + n ≤ 0x02200000)
    || (List.range 4).any (fun k => 0x02200000 + k * 0x00180000 ≤ a && a + n ≤ 0x02200000 + (k + 1) * 0x00180000)
    || (d.flat (core / 12) && 0x02800000 ≤ a && a + n ≤ 0x03000000)

/-- The STATUS codes of a region (R191). -/
def rsOk : Nat := 0
def rsRange : Nat := 1
def rsOverlap : Nat := 2
def rsLayout : Nat := 3
def rsBusy : Nat := 4
def rsBadOp : Nat := 5

/-- The checks of R192, in order: the STATUS of the first that fails. -/
def Dev.regionCheck (d : Dev) (core r : Nat) (g : Region) : Nat :=
  if !d.inOnePart core g.base g.bytes || g.base % 2048 ≠ 0 then rsRange
  else if !(64 ≤ g.slotBytes && g.slotBytes ≤ 2 ^ 25 && g.slotBytes % 64 = 0 && 1 ≤ g.slots && g.slots ≤ 64
      && (!g.commit || (1 ≤ g.expect && g.expect ≤ 2 ^ 24)) && g.layout ≤ 10) then rsRange
  else if g.layout ≠ 0 && !(0x01000000 ≤ g.base && g.base + g.bytes ≤ 0x02200000) then rsLayout
  else if d.regn.any (fun e => e.1 / 64 = core && e.1 % 64 ≠ r && e.2.valid && g.base < e.2.base + e.2.bytes
      && e.2.base < g.base + g.bytes) then rsOverlap
  else rsOk

/-- Enables a region: counts zero, tags EMPTY, the marks of its lines cleared (R192). -/
def Dev.enableRegion (d : Dev) (core r : Nat) : Dev × List MemEff :=
  let d := d.modRegion core r (fun g => { g with valid := true, status := rsOk, head := 0, tail := 0, arrival := 0 })
  let g := d.regionAt core r
  (d.clearSlots core r, [.clearMarks (d.regionLocal core g) g.bytes])

/-- Disables a region: the marks of its lines are cleared once more (R192). -/
def Dev.disableRegion (d : Dev) (core r : Nat) : Dev × List MemEff :=
  let g := d.regionAt core r
  (d.modRegion core r (fun g => { g with valid := false }), [.clearMarks (d.regionLocal core g) g.bytes])

/-- Sets STATUS. -/
def Dev.regionStatus (d : Dev) (core r st : Nat) : Dev := d.modRegion core r (fun g => { g with status := st })

/-- The fields of descriptor bytes 0x08 to 0x0F as a store writes them, VALID apart (R191). -/
def Region.word1 (g : Region) (v : Nat) : Region :=
  { g with slots := field v 0 8, tags := bit v 9, weight := bit v 10, commit := bit v 11, layout := field v 16 8,
           expect := field v 32 32 }

/-- A 64-bit store to word `w` of descriptor `r` (R191, R192). -/
def Dev.descStore (d : Dev) (core r w v : Nat) : Dev × List MemEff :=
  let g := d.regionAt core r
  if g.ring then (d.regionStatus core r rsBusy, [])
  else match w with
    | 0 =>
      if g.valid then (d.regionStatus core r rsBusy, [])
      else (d.modRegion core r (fun g => { g with base := field v 0 32, slotBytes := field v 32 32 }), [])
    | 1 =>
      if bit v 12 || field v 13 3 ≠ 0 then (d.regionStatus core r rsRange, [])
      else if g.valid then
        if bit v 8 then (d.regionStatus core r rsBusy, [])
        else
          let (d, es) := d.disableRegion core r
          (d.modRegion core r (fun g => g.word1 v), es)
      else
        let d := d.modRegion core r (fun g => g.word1 v)
        if bit v 8 then
          let st := d.regionCheck core r (d.regionAt core r)
          if st = rsOk then d.enableRegion core r else (d.regionStatus core r st, [])
        else (d, [])
    | 2 => (d, [])
    | _ => if v = 0 then (d, []) else (d.regionStatus core r rsRange, [])

/-- The 64-bit word `w` of descriptor `r` (R191). -/
def Dev.descLoad (d : Dev) (core r w : Nat) : Nat :=
  let g := d.regionAt core r
  match w with
  | 0 => g.base + g.slotBytes * 2 ^ 32
  | 1 => g.slots + (b2n g.valid + 2 * b2n g.tags + 4 * b2n g.weight + 8 * b2n g.commit + 16 * b2n g.ring) * 2 ^ 8
      + g.layout * 2 ^ 16 + g.status * 2 ^ 24 + g.expect * 2 ^ 32
  | 2 => g.head + g.tail * 2 ^ 32
  | _ => 0

/-- How an access to the control page ends. -/
inductive CtrlEnd where
  | done
  | access
  | protection
  /-- A PUSH on a full region with tags, or a POP on an empty one: the thread stalls (R193). -/
  | stall
  deriving DecidableEq, Repr

/-- The producer and consumer identifiers of a ring region (R272). -/
def ringVid (r : Nat) (grad : Bool) (p : Nat) : Nat := 0xFE0 + 4 * r + 2 * b2n grad + p

/-- PUSH: the head slot becomes FULL and HEAD advances (R193). -/
def Dev.pushSlot (d : Dev) (core r : Nat) : Dev :=
  let g := d.regionAt core r
  (d.putFull core r (g.head % g.slots) true).modRegion core r (fun g => { g with head := (g.head + 1) % 2 ^ 32 })

/-- POP: the tail slot becomes EMPTY, its count zero, and TAIL advances (R193). -/
def Dev.popSlot (d : Dev) (core r : Nat) : Dev :=
  let g := d.regionAt core r
  let s := g.tail % g.slots
  ((d.putFull core r s false).putCount core r s 0).modRegion core r (fun g => { g with tail := (g.tail + 1) % 2 ^ 32 })

/-- A store to CTRL (R193). -/
def Dev.ctrlOp (d : Dev) (core r v : Nat) : CtrlEnd × Dev :=
  let g := d.regionAt core r
  let op := field v 0 8
  let bad := d.regionStatus core r rsBadOp
  if !g.valid then (.done, bad)
  else if op ≠ 1 && op ≠ 2 then (.done, bad)
  else if g.ring then (.protection, bad)
  else if op = 1 then
    if g.commit then (.done, bad)
    else if g.fill = g.slots then (if g.tags then (.stall, d) else (.done, bad))
    else (.done, d.pushSlot core r)
  else if g.fill = 0 then (if g.tags then (.stall, d) else (.done, bad))
  else (.done, d.popSlot core r)

/-- The UNINIT word of a core (R200). -/
def Dev.coreAt (d : Dev) (core : Nat) : Core := tblGet Core.init d.core core

/-- Changes a core's record. -/
def Dev.modCore (d : Dev) (core : Nat) (f : Core → Core) : Dev := { d with core := tblMod Core.init d.core core f }

/-- A read of an unwritten line by a unit of a core: SEEN with UNIT and ADDR, or MULTI (R200).
DEDUCED, log 83. -/
def Dev.noteUninit (d : Dev) (core unit addr : Nat) : Dev :=
  d.modCore core (fun k =>
    if bit k.uninit.toNat 0 then { k with uninit := k.uninit ||| 2 }
    else { k with uninit := BitVec.ofNat 64 (1 + unit * 2 ^ 16 + addr % 2 ^ 32 * 2 ^ 32) })

/-- A store to the UNINIT word: ones clear SEEN and MULTI; UNIT and ADDR go with SEEN (R200). -/
def Dev.clearUninit (d : Dev) (core v : Nat) : Dev :=
  d.modCore core (fun k =>
    let u := k.uninit.toNat
    let multi := bit u 1 && !bit v 1
    if bit u 0 && !bit v 0 then { k with uninit := BitVec.ofNat 64 (setField u 1 1 (b2n multi)) }
    else { k with uninit := BitVec.ofNat 64 (2 * b2n multi) })

/-- A 64-bit aligned store of a thread to its control page (R173, R190). -/
def Dev.ctrlStore (d : Dev) (core off v : Nat) : CtrlEnd × Dev × List MemEff :=
  if off < 0x800 then
    let (d, es) := d.descStore core (off / 32) (off % 32 / 8) v
    (.done, d, es)
  else if off < 0xC00 then
    if off % 16 = 0 then
      let (e, d) := d.ctrlOp core ((off - 0x800) / 16) v
      (e, d, [])
    else (.access, d, [])
  else if off = 0xC00 then (.done, d.clearUninit core v, [])
  else (.access, d, [])

/-- A load of a thread from its control page: 64-bit words, and 32-bit slot counts (R173, R190). -/
def Dev.ctrlLoad (d : Dev) (core off bytes : Nat) : Option Nat :=
  if bytes = 8 then
    if off < 0x800 then some (d.descLoad core (off / 32) (off % 32 / 8))
    else if off < 0xC00 then
      if off % 16 = 0 then some 0 else some (d.regionAt core ((off - 0x808) / 16)).arrival
    else if off = 0xC00 then some (d.coreAt core).uninit.toNat
    else if 0x1000 ≤ off && off < 0x5000 then
      let k := (off - 0x1000) / 4
      some (d.slotCount core (k / 64) (k % 64) + d.slotCount core (k / 64) (k % 64 + 1) * 2 ^ 32)
    else none
  else if bytes = 4 && 0x1000 ≤ off && off < 0x5000 then
    some (d.slotCount core ((off - 0x1000) / 256) ((off - 0x1000) % 256 / 4))
  else none

/-! ### Tags, protection and write units -/

/-- The slots of a core's region that `n` bytes from a core-local address touch. -/
def Dev.slotsTouched (d : Dev) (core a n : Nat) : List (Nat × Nat) :=
  match d.slotAt core a with
  | none => []
  | some (r, s) =>
    let g := d.regionAt core r
    (List.range ((a + n - 1 - g.base) / g.slotBytes - s + 1)).map (fun i => (r, s + i))

/-- The slot whose tag an access waits for: a read of an EMPTY slot, a write to a FULL slot (R194). -/
def Dev.tagBlock (d : Dev) (core a n : Nat) (write : Bool) : Option (Nat × Nat) :=
  (d.slotsTouched core a n).find? (fun x => (d.regionAt core x.1).tags && d.isFull core x.1 x.2 = write)

/-- Whether a ring region's slot is held at this beat: the slot at TAIL of a region marked held (R51, R53). -/
def Dev.slotHeld (d : Dev) (core r s : Nat) : Bool :=
  let g := d.regionAt core r
  g.ring && g.valid && s = g.tail % g.slots && (d.holder core).any (fun c => tblGet false (d.ctxAt c).held (regionKey core r))

/-- Whether bytes lie in a held slot, which is read-only (R51, R196). -/
def Dev.inHeld (d : Dev) (core a n : Nat) : Bool := (d.slotsTouched core a n).any (fun x => d.slotHeld core x.1 x.2)

/-- A write unit that spans two slots of a region with COMMIT is refused (R195).
DEDUCED, log 82. -/
def Dev.spansCommit (d : Dev) (core a n : Nat) : Bool :=
  match d.slotsTouched core a n with
  | x :: _ :: _ => (d.regionAt core x.1).commit
  | _ => false

/-- Counts a write unit whose first byte is at a core-local address (R195). -/
def Dev.countUnit (d : Dev) (core a : Nat) : Dev :=
  match d.slotAt core a with
  | none => d
  | some (r, s) =>
    let d := d.modRegion core r (fun g => { g with arrival := (g.arrival + 1) % 2 ^ 64 })
    let d := d.putCount core r s (d.slotCount core r s + 1)
    d.offer [core] 1 2 r (d.regionAt core r).arrival

/-- Whether the slot at HEAD of a region with COMMIT is complete (R195). -/
def Dev.slotComplete (d : Dev) (core r : Nat) : Bool :=
  let g := d.regionAt core r
  g.valid && g.commit && g.fill < g.slots && g.expect ≤ d.slotCount core r (g.head % g.slots)

/-- The complete slot at HEAD becomes FULL; with RING, RING_PROD advances by one (R53, R195, R272). -/
def Dev.slotFull (d : Dev) (core r : Nat) : Dev :=
  let d := d.pushSlot core r
  if (d.regionAt core r).ring then
    match d.sync.objs.find? (fun e => e.1 / 65536 = core / 12 && e.2.kind = kProd && e.2.bound &&
        (d.holder core).any (fun c => e.2.ctx = c &&
          ((d.ctxAt c).loaded.any (fun p => p.regions.any (fun x => x.die = core / 12 && x.core = core % 12 && x.region = r
            && ((p.rings.drop e.2.ringIdx).head?.any (fun g => rdb g.raw (if e.2.ringGrad then 0x22 else 0x21) = r))))))) with
    | some (k, o) => d.moduleUpdate (core / 12) (k % 65536) (unitCode (core / 12) 8 2) (o.value + 1)
    | none => d
  else d

/-! ### Clearing (R203) -/

/-- The SRAM of a core: scratchpad, operand buffers and, in FLAT, its share. -/
def Dev.coreSram (d : Dev) (core : Nat) : List MemEff :=
  let own := MemEff.clear (dieAddr (core / 12) (0x10000000 + core % 12 * 0x04000000 + 0x01000000)) 0x01800000
  if d.flat (core / 12) then
    [own, .clear (dieAddr (core / 12) (quadrantBase (core % 12 / 3) + core % 12 % 3 * 0x00800000)) 0x00800000]
  else [own]

/-- The control page of a core: descriptors invalid, counts zero, tags EMPTY, UNINIT reset; its handle queues empty
(R203, R227). -/
def Dev.clearPage (d : Dev) (core : Nat) : Dev :=
  let d := { d with regn := tblDrop (fun k => k / 64 = core) d.regn, slotCnt := tblDrop (fun k => k / 4096 = core) d.slotCnt,
                    full := tblDrop (fun k => k / 4096 = core) d.full }
  d.modCore core (fun k => { k with uninit := 0, handles := [] })

/-- The engines of a core: tile slots, accumulators and epilogue slots cleared (R110, R115, R203). -/
def Dev.clearEngines (d : Dev) (core : Nat) (ks : List Nat) : Dev :=
  { d with eng := tblDrop (fun k => k / 4 = core && ks.contains (k % 4)) d.eng }

/-- The part of a core that a generator belongs to: 0 the vector lanes, 1 E0 and E1, 2 E2 and E3 (R25, R103). -/
def genPart (k : Nat) : Nat := if k < 49152 then 1 + k / 128 % 4 / 2 else 0

/-- The core of a generator. -/
def genCore (k : Nat) : Nat := if k < 49152 then k / 512 else (k - 49152) / 512

/-- The generators of parts of a core: cleared, and seeded only at the next START (R106). -/
def Dev.clearGens (d : Dev) (core : Nat) (parts : List Nat) : Dev :=
  ({ d with gens := tblDrop (fun k => genCore k = core && parts.contains (genPart k)) d.gens }).modCore core
    (fun k => { k with seeded := parts.foldl (fun m p => setField m p 1 0) k.seeded })

/-- Breaks every reservation on a line (R149). -/
def Dev.breakLine (d : Dev) (line : Nat) : Dev :=
  let f := fun (_ : Nat) (t : Thread) => if t.resv = some line then { t with resv := none } else t
  if d.thr.any (fun e => e.2.resv = some line) then { d with thr := tblMap Thread.init f d.thr } else d

/-- Breaks the reservations on every line that a write of `n` bytes touches (R149). -/
def Dev.breakLines (d : Dev) (a n : Nat) : Dev := (linesOf a n).foldl Dev.breakLine d

/-- A write by a unit of a context, or by a module of its job, at a local address: reservations on its lines break
(R149), and it counts in the digests of lock-step (R417). -/
def Dev.unitWrite (d : Dev) (m : Mem) (c : CtxId) (a : Nat) (bs : Bytes) (poison : Bool) : Dev × List MemEff :=
  ((d.breakLines a bs.length).digestWrite m c a bs, [.write a bs poison])

end Sys2Proof.Machine
end

