-- ==== Sys2Proof/Machine/Rings.lean ====
section
/-! DEFINITION. Rings of a beat program (R45 to R61, R74): descriptors, which block a position holds and sends at a
beat, the fills that it expects, and the moves of S1 (R233). -/

namespace Sys2Proof.Machine

/-! ### Descriptors (R46) -/

def RingDesc.id (g : RingDesc) : Nat := rd g.raw 0x00 2
def RingDesc.kind (g : RingDesc) : Nat := rdb g.raw 0x02
def RingDesc.flags (g : RingDesc) : Nat := rdb g.raw 0x03
def RingDesc.grad (g : RingDesc) : Bool := bit g.flags 0
def RingDesc.gbramble (g : RingDesc) : Bool := bit g.flags 1
def RingDesc.length (g : RingDesc) : Nat := rd g.raw 0x04 2
def RingDesc.position (g : RingDesc) : Nat := rd g.raw 0x06 2
def RingDesc.up (g : RingDesc) : Nat := rd g.raw 0x08 2
def RingDesc.down (g : RingDesc) : Nat := rd g.raw 0x0A 2
def RingDesc.upPort (g : RingDesc) : Nat := rdb g.raw 0x0C
def RingDesc.downPort (g : RingDesc) : Nat := rdb g.raw 0x0D
def RingDesc.hinge (g : RingDesc) : Nat := rd g.raw 0x0E 2
def RingDesc.blockBytes (g : RingDesc) : Nat := rd g.raw 0x10 4
def RingDesc.gradBytes (g : RingDesc) : Nat := rd g.raw 0x14 4
def RingDesc.visits (g : RingDesc) : Nat := rd g.raw 0x18 2
def RingDesc.shardBytes (g : RingDesc) : Nat := rd g.raw 0x1A 2
def RingDesc.circuit (g : RingDesc) : Nat := rd g.raw 0x1C 2
def RingDesc.slices (g : RingDesc) : Nat := rdb g.raw 0x1E
def RingDesc.gradFormat (g : RingDesc) : Nat := rdb g.raw 0x1F
def RingDesc.slots (g : RingDesc) : Nat := rdb g.raw 0x20
def RingDesc.sliceEntry (g : RingDesc) (i : Nat) : Nat := rd g.raw (0x24 + 2 * i) 2
def RingDesc.dieMask (g : RingDesc) (i : Nat) : Nat := field (g.sliceEntry i) 0 8
def RingDesc.relayDie (g : RingDesc) (i : Nat) : Nat := field (g.sliceEntry i) 8 3

/-- The region number of the block slots or the gradient slots. -/
def RingDesc.regionNo (g : RingDesc) (grad : Bool) : Nat := rdb g.raw (if grad then 0x22 else 0x21)

/-- The core index that holds the block slots, or the gradient slots, on a die; 0xF for none. -/
def RingDesc.slotIndex (g : RingDesc) (grad : Bool) (n : Nat) : Nat := field (rdb g.raw (0x34 + n)) (if grad then 4 else 0) 4

/-- The slot core on a die. -/
def RingDesc.slotCore (g : RingDesc) (grad : Bool) (n : Nat) : Nat := coreNo n (g.slotIndex grad n)

/-- The dies that receive a slice. -/
def RingDesc.dies (g : RingDesc) (i : Nat) : List Nat := bitsOf (g.dieMask i) 8

/-- Every die that receives a slice of the ring. -/
def RingDesc.allDies (g : RingDesc) : List Nat :=
  (List.range 8).filter (fun n => (List.range g.slices).any (fun i => bit (g.dieMask i) n))

/-- The bytes of a slice before compression (R53, R59). -/
def RingDesc.sliceBytes (g : RingDesc) (grad : Bool) : Nat := (if grad then g.gradBytes else g.blockBytes) / g.slices

/-- The bound of R253 for a frame of one sub-stream and VW 1. -/
def frameBound (raw : Nat) : Nat := 32 + 16 + 8 * ceilDiv raw 65536 + raw

/-- The size of a slot: the slice, or with GBRAMBLE the bound of its frame rounded up to 64 (R196, R261). -/
def RingDesc.slotBytes (g : RingDesc) (grad : Bool) : Nat :=
  if grad && g.gbramble then ceilDiv (frameBound (g.sliceBytes true)) 64 * 64 else g.sliceBytes grad

/-- The shard count E of a slice that is not compressed (R53, R59). -/
def RingDesc.shards (g : RingDesc) (grad : Bool) : Nat := ceilDiv (g.sliceBytes grad) g.shardBytes

/-- The ring regions of a ring: the slot core and region number of each die, for blocks and for gradients. -/
def RingDesc.regionPlaces (g : RingDesc) : List (Nat × Nat × Bool) :=
  g.allDies.map (fun n => (g.slotCore false n, g.regionNo false, false))
    ++ (if g.grad then g.allDies.map (fun n => (g.slotCore true n, g.regionNo true, true)) else [])

/-- The relative beat that a domain beat runs in a beat-locked context (R42). -/
def Ctx.relBeat (x : Ctx) (beat : Nat) : Nat :=
  match x.loaded with
  | some p => if p.beatLocked then (x.r0 + beat + (p.pm1 + 1) - x.b0 % (p.pm1 + 1)) % (p.pm1 + 1) else 0
  | none => 0

/-- The descriptors of a context's program. -/
def Ctx.rings (x : Ctx) : List RingDesc := (x.loaded.map (·.rings)).getD []

/-- A ring of a context by index. -/
def Ctx.ring (x : Ctx) (i : Nat) : Option RingDesc := x.rings[i]?

/-! ### What a position holds and sends -/

/-- A block at a beat: its tag, and where it comes from and goes to. -/
structure Block where
  lap : Nat
  origin : Nat
  /-- This position is its origin: the slot is filled from local memory (R48, R74). -/
  own : Bool
  /-- It retires here (R48). -/
  retires : Bool
  deriving DecidableEq, Repr

/-- How many beats a lap entry's start lies behind a relative beat, within the program's P beats (R42). -/
def lapAge (p : Container) (rel start back : Nat) : Nat :=
  let q := p.pm1 + 1
  (rel + 2 * q - start % q - back % q) % q

/-- The entry with which a micro-batch goes on after its pass: START 2N beats later, the next lap number (R453).
DEDUCED, log 34. -/
def nextPass (p : Container) (ri n : Nat) (l : Lap) : Option Lap :=
  p.laps.find? (fun m => m.ring = ri && m.lap = l.lap + 1
    && (m.start = l.start + 2 * n || (p.iter ≠ 1 && m.start = (l.start + 2 * n) % (p.pm1 + 1))))

/-- Whether a lap entry goes on from an earlier one of its micro-batch. -/
def continues (p : Container) (ri n : Nat) (l : Lap) : Bool :=
  p.laps.any (fun e => e.ring = ri && nextPass p ri n e = some l)

/-- The weight or activation block that the module holds on a ring at a domain beat (R48, R74). -/
def Ctx.blockAt (x : Ctx) (p : Container) (ri : Nat) (g : RingDesc) (beat : Nat) : Option Block :=
  let rel := x.relBeat beat
  let n := g.length
  if g.kind = 1 then
    (p.laps.filter (·.ring = ri)).findSome? (fun l =>
      let k := lapAge p rel l.start 0
      if k < g.visits && x.run0 + k ≤ beat then
        some ⟨l.lap, (g.position + n - k % n) % n, k = 0, k + 1 = g.visits⟩
      else none)
  else
    (p.laps.filter (·.ring = ri)).findSome? (fun l =>
      if lapAge p rel l.start (2 * g.position) = 0 && x.run0 + 2 * g.position ≤ beat then
        some ⟨l.lap, 0, g.position = 0 && !(g.kind = 3 && continues p ri n l), false⟩
      else none)

/-- The gradient block that the module holds on a ring at a domain beat: G of R57, received the beat before. -/
def Ctx.gradAt (x : Ctx) (p : Container) (ri : Nat) (g : RingDesc) (beat : Nat) : Option Block :=
  let rel := x.relBeat beat
  let n := g.length
  if !g.grad then none
  else (p.laps.filter (fun l => l.ring = ri && l.grad)).findSome? (fun l =>
    let j := lapAge p rel l.start 2
    if j < n && x.run0 + j + 2 ≤ beat then some ⟨l.lap, (g.position + 2 * n - j - 1) % n, false, j + 1 = n⟩ else none)

/-- The block that is due in a slot at a domain beat. -/
def Ctx.dueAt (x : Ctx) (p : Container) (ri : Nat) (g : RingDesc) (grad : Bool) (beat : Nat) : Option Block :=
  if grad then x.gradAt p ri g beat else x.blockAt p ri g beat

/-- The block that the module sends downstream on a ring during a beat: the held block (R50), the gradient that it
forms (R57), or, on a resident ring, the block that it produced in the beat before (R74). -/
def Ctx.sentAt (x : Ctx) (p : Container) (ri : Nat) (g : RingDesc) (grad : Bool) (beat : Nat) : Option (Nat × Nat) :=
  let n := g.length
  if grad then
    if !g.grad then none
    else (p.laps.filter (fun l => l.ring = ri && l.grad)).findSome? (fun l =>
      let k := lapAge p (x.relBeat beat) l.start 1
      if k < n && x.run0 + k + 1 ≤ beat then some (l.lap, (g.position + n - k) % n) else none)
  else if g.kind = 1 then
    match x.blockAt p ri g beat with
    | some b => if b.retires then none else some (b.lap, b.origin)
    | none => none
  else if beat = 0 then none
  else (p.laps.filter (·.ring = ri)).findSome? (fun l =>
    if lapAge p (x.relBeat (beat - 1)) l.start (2 * g.position) = 0 && x.run0 + 2 * g.position ≤ beat - 1 then
      if g.position + 1 < n then some (l.lap, 0)
      else if g.kind = 3 then (nextPass p ri n l).map (fun m => (m.lap, 0))
      else none
    else none)

/-- Whether tick `beat` ends the last iteration of the program (R42). -/
def Ctx.endsAt (x : Ctx) (beat : Nat) : Bool :=
  match x.loaded with
  | some p => p.beatLocked && p.iter ≠ 0 && x.relBeat beat = 0 && beat ≠ x.b0 && p.iter ≤ x.iters + 1
  | none => false

/-! ### Slots -/

/-- Whether a region holds a block at this beat (R51, R53). -/
def Ctx.holds (x : Ctx) (core r : Nat) : Bool := tblGet false x.held (regionKey core r)

/-- Sets whether a region holds a block. -/
def Dev.putHeld (d : Dev) (c : CtxId) (core r : Nat) (v : Bool) : Dev :=
  d.modCtx c (fun x => { x with held := tblSet false x.held (regionKey core r) v })

/-- The physical counter of a ring region (R272): p = 0 for RING_PROD, 1 for RING_CONS. -/
def Dev.ringObj (d : Dev) (c : CtxId) (die ri : Nat) (grad : Bool) (p : Nat) : Option Nat := d.physOf c die (ringVid ri grad p)

/-- A held slot is released: TAIL and RING_CONS advance by one (R53, R272). -/
def Dev.releaseHeld (d : Dev) (c : CtxId) (ri : Nat) (grad : Bool) (core r : Nat) : Dev :=
  let d := (d.popSlot core r).putHeld c core r false
  match d.ringObj c (core / 12) ri grad 1 with
  | some p => d.moduleUpdate (core / 12) p (unitCode (core / 12) 9 0) ((d.syncAt (core / 12) p).value + 1)
  | none => d

/-- Whether the slot of a fill is consumable on every die that receives its slice (R53). -/
def Dev.fillReady (d : Dev) (g : RingDesc) (f : Fill) : Bool :=
  f.slots.all (fun e => d.isFull (g.slotCore f.grad e.1) (g.regionNo f.grad) e.2)

/-! ### Moves of S1 (R233) -/

/-- A stream engine's record; S1 of core k is 2 × k + 1. -/
def Dev.strAt (d : Dev) (k : Nat) : Stream := tblGet Stream.init d.str k

/-- Changes a stream engine. -/
def Dev.modStr (d : Dev) (k : Nat) (f : Stream → Stream) : Dev := { d with str := tblMod Stream.init d.str k f }

/-- The transfer of a ring move before it has issued anything. -/
def ownTransfer (mv : RingMove) : Transfer := { Transfer.init with own := some mv }

/-- A move takes a transfer slot of its S1, or waits for one (R233).
DEDUCED, log 97. -/
def Dev.startMove (d : Dev) (core : Nat) (mv : RingMove) : Dev :=
  d.modStr (2 * core + 1) (fun s =>
    if s.slots < 6 && s.ownWait.isEmpty then { s with transfers := s.transfers ++ [ownTransfer mv] }
    else { s with ownWait := s.ownWait ++ [mv] })

/-- A transfer slot of S1 has come free: the first waiting move takes it. -/
def Dev.nextMove (d : Dev) (k : Nat) : Dev :=
  d.modStr k (fun s =>
    match s.ownWait with
    | mv :: rest => if s.slots < 6 then { s with transfers := s.transfers ++ [ownTransfer mv], ownWait := rest } else s
    | [] => s)

/-- Ends a move: its transfer leaves its slot. -/
def Dev.endMove (d : Dev) (k : Nat) (mv : RingMove) : Dev :=
  (d.modStr k (fun s => { s with transfers := s.transfers.filter (fun t => t.own ≠ some mv) })).nextMove k

/-- The moves of a context that have not ended, with the engine that makes them. -/
def Dev.openMoves (d : Dev) (c : CtxId) : List (Nat × RingMove) :=
  d.str.flatMap (fun e => (e.2.transfers.filterMap (·.own) ++ e.2.ownWait).filterMap (fun mv =>
    if mv.ctx = c then some (e.1, mv) else none))

/-- Every move of a context is dropped: no new block is sent (R69). -/
def Dev.dropMoves (d : Dev) (c : CtxId) : Dev :=
  { d with str := tblMap Stream.init (fun _ s => { s with
      transfers := s.transfers.filter (fun t => !(t.own.any (·.ctx = c))), ownWait := s.ownWait.filter (·.ctx ≠ c) }) d.str }

/-- The fills of a ring for a beat: the module's own are moved by S1 of each slice's relay die (R48, R61), the others
are expected from upstream (R52).
DESIGN CHOICE, log 30. -/
def Dev.planFills (d : Dev) (c : CtxId) (p : Container) (ri : Nat) (g : RingDesc) (grad : Bool) (beat : Nat) : Dev :=
  match (d.ctxAt c).dueAt p ri g grad beat with
  | none => d
  | some b =>
    (List.range g.slices).foldl (fun d i =>
      let core := g.slotCore grad (g.relayDie i)
      let slots := (g.dies i).map (fun n => (n, (d.regionAt (g.slotCore grad n) (g.regionNo grad)).head % g.slots))
      let f : Fill := { ring := ri, grad := grad, slice := i, lap := b.lap, origin := b.origin, due := beat, slots := slots,
                        own := b.own, done := false, pos := 0 }
      let d := d.modCtx c (fun x => { x with fills := x.fills ++ [f] })
      if b.own then
        d.startMove core { ctx := c, ring := ri, grad := grad, slice := i, fill := true, lap := b.lap, origin := b.origin,
                           due := beat, slot := 0 }
      else d) d

/-- The relays of a ring in a beat (R50, R60): S1 of each slice's relay die sends it from the held slot; a resident
ring's block goes from an output slot of the region, which the manual does not number: a free value (log 30). -/
def Dev.planRelays (d : Dev) (c : CtxId) (p : Container) (ri : Nat) (g : RingDesc) (grad : Bool) (beat : Nat) : Dev :=
  match (d.ctxAt c).sentAt p ri g grad beat with
  | none => d
  | some (lap, origin) =>
    (List.range g.slices).foldl (fun d i =>
      let core := g.slotCore grad (g.relayDie i)
      let (v, d) := if g.kind = 1 then (0, d) else d.draw
      let slot := if g.kind = 1 then (d.regionAt core (g.regionNo grad)).tail % g.slots else v.toNat % g.slots
      d.startMove core { ctx := c, ring := ri, grad := grad, slice := i, fill := false, lap := lap, origin := origin,
                         due := beat, slot := slot }) d

/-- Step 4 of R62 for the rings: relays of the beat, then the fills for the next, unless the program ends with it. -/
def Dev.issueRings (d : Dev) (c : CtxId) (beat : Nat) : Dev :=
  match (d.ctxAt c).loaded with
  | none => d
  | some p =>
    let last := (d.ctxAt c).endsAt (beat + 1)
    p.rings.zipIdx.foldl (fun d e =>
      [false, true].foldl (fun d grad =>
        let d := d.planRelays c p e.2 e.1 grad beat
        if last then d else d.planFills c p e.2 e.1 grad (beat + 1)) d) d

/-- Step 3 of R62: held slots are released, due slots become held, and their fills leave the list (R53). -/
def Dev.rotate (d : Dev) (c : CtxId) (beat : Nat) : Dev :=
  let x := d.ctxAt c
  let d := x.rings.zipIdx.foldl (fun d e =>
    e.1.regionPlaces.foldl (fun d pl =>
      let d := if (d.ctxAt c).holds pl.1 pl.2.1 then d.releaseHeld c e.2 pl.2.2 pl.1 pl.2.1 else d
      let due := x.fills.any (fun f => f.ring = e.2 && f.grad = pl.2.2 && f.due = beat
        && (e.1.dies f.slice).contains (pl.1 / 12))
      if due then d.putHeld c pl.1 pl.2.1 true else d) d) d
  d.modCtx c (fun x => { x with fills := x.fills.filter (fun f => f.due ≠ beat) })

end Sys2Proof.Machine
end

