-- ==== Sys2Proof/Machine/Halt.lean ====
section
/-! DEFINITION. Stopping and ending contexts: halts (R168, R241, R445, R449), overruns (R65 to R71), kills (R203, R300,
R314, R449, R495 to R498), and the module state that follows the contexts (R507). -/

namespace Sys2Proof.Machine

/-! ### Module state -/

/-- The module state that the contexts imply (R501, R507). -/
def Dev.impliedState (d : Dev) : ModState :=
  if allCtx.any (fun c => (d.ctxAt c).state = .running) then .running
  else if allCtx.any (fun c => (d.ctxAt c).state = .halted) then .halted else .ready

/-- Whether a form of lock-step is in force: a context that runs or starts has it (R416). -/
def Dev.lockForm (d : Dev) (form : Nat) : Bool :=
  allCtx.any (fun c => (d.ctxAt c).lock.form = form && ((d.ctxAt c).state = .running || (d.ctxAt c).startAt.isSome))

/-- READY, RUNNING and HALTED follow the contexts (R507); MODULE_PAIR and DIE_PAIRS show lock-step in force (R423). -/
def Dev.settleModule (d : Dev) : Dev :=
  let d := (d.put BRY_LS_STAT.MODULE_PAIR (b2n (d.lockForm 1))).put BRY_LS_STAT.DIE_PAIRS (b2n (d.lockForm 2))
  if d.mmc.state = .ready || d.mmc.state = .running || d.mmc.state = .halted then
    { d with mmc := { d.mmc with state := d.impliedState } }
  else d

/-! ### Commands that are under way -/

/-- The context of a submission ring. -/
def ringCtx : HostRing → Option CtxId
  | .adm => none
  | .sq c _ => some c

/-- Takes a fetched command off the list. -/
def Dev.dropFetched (d : Dev) (f : Fetched) : Dev :=
  { d with host := { d.host with fetched := d.host.fetched.erase f } }

/-- Completes a fetched command (R434). -/
def Dev.finish (d : Dev) (f : Fetched) (code r0 r1 : Nat) : Dev :=
  (d.dropFetched f).complete f.ring f.entry f.sqHead code 0 r0 r1

/-- The command of a context with an opcode that has begun and not completed. -/
def Dev.begunOp (d : Dev) (c : CtxId) (op : Nat) : Option Fetched :=
  d.host.fetched.find? (fun f => f.begun && ringCtx f.ring = some c && rdb f.entry 0 = op)

/-- Completes the command of a context with an opcode that has begun, if there is one. -/
def Dev.finishOp (d : Dev) (c : CtxId) (op code : Nat) : Dev :=
  match d.begunOp c op with
  | none => d
  | some f => d.finish f code 0 0

/-- Opcodes of R440 that complete later than they begin. -/
def opStart : Nat := 0x24
def opHaltAtBeat : Nat := 0x25

/-! ### Halts -/

/-- A thread that stops in a halt: what it was doing is abandoned; its fault record stays readable (R152, R168). -/
def Thread.stop (t : Thread) : Thread :=
  { Thread.init with cause := t.cause, tval := t.tval, tpc := t.tpc, tmo := t.tmo, far := t.far }

/-- A LOADB that is in progress in an engine's queue leaves its slot without a tile (R110, R125). -/
def Dev.dropLoadb (d : Dev) (core k : Nat) : Dev :=
  match (tblGet Queue.init d.que (core * 7 + k)).cmds with
  | q :: _ =>
    if q.result.any (fun w => w % 256 = 0) && rdb q.bytes 0 = 1 then
      { d with eng := tblMod Engine.init d.eng (core * 4 + k) (fun e =>
          { e with tiles := tblSet none e.tiles (rdb q.bytes 0x17 % 2) none }) }
    else d
  | [] => d

/-- The threads and units of cores stop (R125, R168, R241). -/
def Dev.stopCores (d : Dev) (cores : List Nat) : Dev :=
  let d := { d with thr := tblMap Thread.init (fun k t => if cores.contains (k / 8) then t.stop else t) d.thr }
  cores.foldl (fun d k => (List.range 4).foldl (fun d e => d.dropLoadb k e) d) d

/-- The reasons of HALTED events (R439, R519). -/
def haltAtBeatReason : Nat := 1
def haltNowReason : Nat := 2
def overrunReason : Nat := 3
def iterReason : Nat := 4
def endedReason : Nat := 5
def clampReason : Nat := 6
def periodReason : Nat := 7
def unitLostReason : Nat := 8

/-- A context enters HALTED: its threads and units stop, a pending HALT_AT_BEAT completes (OK where this is its halt,
else ABORTED, R445), and the event is posted (R439, R449). -/
def Dev.haltCtx (d : Dev) (c : CtxId) (reason : Nat) : Dev :=
  let x := d.ctxAt c
  let rb := x.relBeat d.time.beat
  let d := (d.stopCores x.cores).dropMoves c
  let d := d.finishOp c opHaltAtBeat (if reason = haltAtBeatReason then 0 else 0x14)
  let keep := reason = haltAtBeatReason || reason = periodReason
  let d := d.modCtx c (fun x => { x with
    state := .halted, startAt := none, haltAt := none, overrun := false, lateUnit := none, beat := d.time.beat,
    haltRbeat := if keep then some rb else none })
  (d.event c 5 (leBytes 8 d.time.beat ++ leBytes 4 rb ++ leBytes 1 reason ++ zeros 19)).settleModule

/-! ### Overruns -/

/-- A detection without a block (R65, R68). -/
def Detection.unitOnly (cause unit : Nat) : Detection := ⟨0, cause, unit, 0xFFFF, 0xFFFF, 0, 0, 0, 0xFF⟩

/-- Whether one detection is reported before another: lower cause, then lower unit (R66). -/
def Detection.before (a b : Detection) : Bool := a.cause < b.cause || (a.cause = b.cause && a.unit < b.unit)

/-- The detection that the record reports (R66).
DEDUCED, log 29. -/
def firstDetection (a : Detection) (as : List Detection) : Detection :=
  as.foldl (fun best x => if x.before best then x else best) a

/-- Sends RING_HALT to the neighbours of every ring of a context but one (R69, R70). -/
def Dev.ringHalt (d : Dev) (c : CtxId) (except : Option Nat) (cause beat : Nat) : Dev :=
  let x := d.ctxAt c
  let rings := (x.loaded.map (·.rings)).getD []
  let send := fun (d : Dev) (g : RingDesc) (o : Nat) =>
    let m := rd g.raw o 2
    if except = some m then d
    else d.originate 10 (ctlPkt 0x58 0 x.pkey m d.moduleId (sub g.raw 0 2 ++ leBytes 1 cause ++ zeros 5 ++ leBytes 8 beat))
  let d := rings.foldl (fun d g => send (send d g 0x08) g 0x0A) d
  d.modCtx c (fun x => { x with ringHaltSent := true })

/-- Detections of an overrun of a beat-locked context that runs or starts (R65 to R70): the first of a beat post one
record, with the lowest cause and unit among them; all end the run at the next tick and RING_HALT goes out once. -/
def Dev.detect (d : Dev) (c : CtxId) (ds : List Detection) (beat : Nat) (from' : Option (Nat × Nat × Nat)) : Dev :=
  let x := d.ctxAt c
  let starting := x.state ≠ .running && x.startAt.isSome
  match ds with
  | [] => d
  | a :: as =>
    if !(d.locked c && (x.state = .running || starting)) then d
    else
      let beat := if starting then x.startAt.getD beat else beat
      let f := firstDetection a as
      let posted := x.detections.any (fun o => o.beat = beat)
      let d := d.modCtx c (fun x => { x with overrun := true, detections := x.detections ++ ds.map (fun o => { o with beat := beat }) })
      let d :=
        if posted then d
        else
          let flags := b2n (!x.overrunSeen) + 2 * b2n (!as.isEmpty || (f.cause = 9 && 1 < f.arrived))
          let body := leBytes 8 beat ++ leBytes 1 f.cause ++ leBytes 1 c.val ++ leBytes 2 f.unit ++ leBytes 2 f.ringId
            ++ leBytes 2 f.origin ++ leBytes 4 f.lap ++ leBytes 4 f.arrived ++ leBytes 4 f.expected ++ leBytes 1 f.slice
            ++ leBytes 1 flags ++ zeros 2
          let d := (d.event c 1 body).modCtx c (fun x => { x with overrunSeen := true, overruns := x.overruns + 1 })
          ((d.count BRY_OVR_CNT.COUNT (f.cause - 1)).put BRY_OVR_LAST.BEAT beat).put BRY_OVR_LAST.CAUSE f.cause
      if x.ringHaltSent then d
      else match from' with
        | some (src, cause, b) => d.ringHalt c (some src) cause b
        | none => d.ringHalt c none f.cause beat

/-- An overrun of the present beat. -/
def Dev.detectNow (d : Dev) (c : CtxId) (ds : List Detection) : Dev := d.detect c ds d.time.beat none

/-- A unit that a context uses leaves service: an overrun where the context is beat-locked and RUNNING, else a halt
(R65, R519). -/
def Dev.unitLost (d : Dev) (c : CtxId) (unit : Nat) : Dev :=
  if (d.ctxAt c).state = .running then
    if d.locked c then d.detectNow c [Detection.unitOnly 2 unit] else d.haltCtx c unitLostReason
  else d

/-! ### Kills -/

/-- The queues of R470 that a context owns are disabled and return to the physical function. -/
def Dev.dropEthQueues (d : Dev) (c : CtxId) : Dev :=
  (List.range 64).foldl (fun d q =>
    if d.get ETH_QCFG.OWNER q = c.val then
      let d := d.resetRegsAt [.ETH_QCFG, .ETH_QWM, .ETH_QSTAT] q
      { d with eth := { d.eth with posted := tblSet [] d.eth.posted q [] } }
    else d) d

/-- The keys of a context end: memory, model and debug keys are destroyed, grants removed, the link key is retired
(R314, R496). -/
def Dev.dropKeys (d : Dev) (c : CtxId) : Dev :=
  let k := tblGet CtxKeys.init d.keep.ctx c.val
  let pkey := (d.ctxAt c).pkey
  let d := d.putSlot (c.val + 1) false
  let d := if d.keep.debug = DebugOpen.context c then d.put KEEP_DBG_CTL.OPEN 0 else d
  let d := { d with keep := { d.keep with
    ctx := tblSet CtxKeys.init d.keep.ctx c.val CtxKeys.init,
    retired := if k.link.isSome then tblSet none d.keep.retired pkey k.link else d.keep.retired,
    debug := if d.keep.debug = DebugOpen.context c then .locked else d.keep.debug } }
  d.own.imageList.foldl (fun d i => if d.own.granted i c then d.revoke i c else d) d

/-- The thread, queue, stream, engine, generator and page state of a core is gone (R125, R168, R203, R241). -/
def Dev.wipeCore (d : Dev) (core : Nat) : Dev :=
  let d := { d with thr := tblDrop (fun k => k / 8 = core) d.thr, que := tblDrop (fun k => k / 7 = core) d.que,
                    past := tblDrop (fun k => k / 7 = core) d.past,
                    str := tblDrop (fun k => k / 2 = core) d.str }
  let d := d.modCore core (fun k => { Core.init with born := k.born, fwSlot := k.fwSlot })
  ((d.clearPage core).clearEngines core (List.range 4)).clearGens core [0, 1, 2]

/-- Completes ABORTED every command of a context that has not completed (R449). -/
def Dev.abortAll (d : Dev) (c : CtxId) : Dev :=
  (d.host.fetched.filter (fun f => ringCtx f.ring = some c)).foldl (fun d f => d.finish f 0x14 0 0) d

/-- A context that is not FREE and not KILLING already enters KILLING (R203, R314, R449, R495, R496): `issuer` is the
master's code, `cmd` the command that completes when the kill does.
DEDUCED, log 48. -/
def Dev.kill (d : Dev) (c : CtxId) (issuer : Nat) (cmd : Option Fetched) : Dev × List MemEff :=
  let x := d.ctxAt c
  if x.state = .free || x.state = .killing then (d, [])
  else
    let d := match cmd with
      | some f => d.dropFetched f
      | none => d
    let sram := x.cores.flatMap d.coreSram
    let shm := ((d.own.unitsOf c).filter (shmUnit0 ≤ ·)).map (fun u => MemEff.clear (unitAddr u) (unitBytes u))
    let d := d.abortAll c
    let d := x.cores.foldl Dev.wipeCore d
    let d := (((d.dropKeys c).dropEthQueues c).invalidate c none)
    let d := d.modCtx c (fun x => { x with
      state := .killing, issuer := issuer, killCmd := cmd, startAt := none, haltAt := none, haltRbeat := none,
      overrun := false, detections := [], fills := [], held := [], lock := LockStep.init, imports := [] })
    (d.settleModule, sram ++ shm)

/-- The kill as an action. -/
def killAct (c : CtxId) (issuer : Nat) (cmd : Option Fetched) : Act := fun _ _ d =>
  let r := d.kill c issuer cmd
  { dev := r.1, mem := r.2 }

/-- Every context of a list is killed. -/
def killAll (cs : List CtxId) (issuer : Nat) : Act := Act.each (fun c => killAct c issuer none) cs

/-- The off-die units of a context become FREE_DIRTY, its shared-memory units FREE_CLEAN (R300). -/
def Own.freeCtx (o : Own) (c : CtxId) : Own :=
  (o.unitsOf c).foldl (fun o u => o.setOwner u (if u < shmUnit0 then .freeDirty else .freeClean)) o

/-- What of a context's record outlives a kill: owner, PKEY and the counts of STATS (R498). -/
def Ctx.freed (x : Ctx) : Ctx :=
  { Ctx.init with owner := x.owner, pkey := x.pkey, eventNo := x.eventNo, done := x.done, events := x.events,
                  overruns := x.overruns, beats := x.beats, copied := x.copied, imported := x.imported, lost := x.lost,
                  notAdmitted := x.notAdmitted }

/-- The context's rings are disabled and what their completion ring still holds is discarded (R449). -/
def Dev.closeRings (d : Dev) (c : CtxId) : Dev :=
  let d := (List.range 8).foldl (fun d i => d.put HOST_SQ_CFG.EN 0 (c.val * 8 + i)) d
  (d.put HOST_CQ_CFG.EN 0 c.val).modCq (.ctx c) (fun r => { r with held := [], lost := 0 })

/-- The units, sync objects and accesses in flight of a killed context are gone (R270, R300, R449). -/
def Dev.killFree (d : Dev) (c : CtxId) : Dev :=
  let d := (d.withOwn (d.own.freeCtx c)).dropSync c
  { d with flight := d.flight.filter (fun f => f.ctx ≠ c) }

/-- The reports at the end of a kill: commands still under way ABORTED, the KILL's completion, the KILLED event (R439, R449).
DEDUCED, log 49. -/
def Dev.killReport (d : Dev) (c : CtxId) : Dev :=
  let x := d.ctxAt c
  let d := d.abortAll c
  let d := match x.killCmd with
    | some f => d.complete f.ring f.entry f.sqHead 0 0 0 0
    | none => d
  d.event c 6 (leBytes 2 x.issuer ++ zeros 6 ++ leBytes 8 d.time.beat)

/-- A killed context becomes FREE: the KILL's completion, the KILLED event, then its rings close (R449). -/
def Dev.killDone (d : Dev) (c : CtxId) : Dev :=
  ((((d.killFree c).killReport c).closeRings c).modCtx c Ctx.freed).settleModule

/-- KILL_COMPLETE (R449): the clearing of a KILLING context finishes. -/
def execKillComplete (c : CtxId) (s : State) : Host.Outcome State Fault Refusal :=
  .next (s.run (Act.dev (fun d => if (d.ctxAt c).state = .killing then d.killDone c else d)))

/-- A context of a list is killed and the kill completes at once (R500, R507). -/
def killOff (cs : List CtxId) (issuer : Nat) : Act :=
  (killAll cs issuer).andThen (Act.dev (fun d =>
    cs.foldl (fun d c => if (d.ctxAt c).state = .killing then d.killDone c else d) d))

end Sys2Proof.Machine
end

