-- ==== Sys2Proof/Machine/Mgmt.lean ====
section
/-! DEFINITION. The management plane's way to a register (R6, R524, R563): the MMC performs the access, and while it
switches its own firmware it discards and counts it. -/

namespace Sys2Proof.Machine

/-- The registers of the always-on blocks: KEEP_, MMC_ and PWR_. -/
def RegName.alwaysOn (r : RegName) : Bool := RegName.KEEP_STAT.ctorIdx ≤ r.ctorIdx

/-- Whether a register's block is present: in RECOVERY the always-on region alone is (R512). -/
def Dev.blockIn (d : Dev) (r : RegName) : Bool := d.mmc.state ≠ .recovery || r.alwaysOn

/-- A write of register `r` that reaches the MMC.  Before standby power there is no MMC (R507); while it switches its
firmware, and to a block that is absent, the write is discarded and counted (R512, R524, R564). -/
def mgmtAct (r : RegName) (i : Nat) (a : Act) : Act := fun f m d =>
  if d.mmc.state = .off then { dev := d }
  else if d.mmc.switching = some 1 || !d.blockIn r then { dev := d.rejectAt r i }
  else a f m d

/-- The same for an action on the device alone. -/
def mgmtDev (r : RegName) (i : Nat) (f : Dev → Dev) : Act := mgmtAct r i (Act.dev f)

/-- A write of a register in the configuration space of a compute die: the space is there while the die's always-on
domain is on, and without it the write is discarded and counted (R564). -/
def dieDev (r : RegName) (n : Nat) (f : Dev → Dev) : Act :=
  mgmtDev r n (fun d => if d.domOn (aonGroup n) then f d else d.rejectAt r n)

/-- The rank of a master: the lower outranks (R7). -/
def Master.rank : Master → Nat
  | .keeper => 0
  | .mmc => 1
  | .pf => 2
  | .vf => 3

/-- Whether an order of the MMC loses to a contradictory order of the same FCLK cycle (R7, R522, R541). -/
def mmcLoses (r : Option Rival) : Bool := r.any (fun r => Master.rank r.master < Master.rank .mmc)

/-- The code of a master in WINNER and KILLED (R461). -/
def rivalCode (r : Rival) : Nat :=
  match r.master with
  | .keeper => 0x8000
  | .mmc => 0x8001
  | .pf => 0x8002
  | .vf => r.fn.val

end Sys2Proof.Machine
end

