-- ==== Sys2Proof/Machine/Power.lean ====
section
/-! DEFINITION. The power controller while it runs (R534 to R548): duty, domains, cooling. -/

namespace Sys2Proof.Machine

/-- Changes the power controller. -/
def Dev.modPwr (d : Dev) (f : Power → Power) : Dev := { d with pwr := f d.pwr }

/-- The duty of the sources that act on every die (R539). -/
def Power.common (p : Power) : Nat :=
  Nat.min (if p.fixed = 0 then p.sustained else p.fixed) (Nat.min p.excursion p.peak)

/-- The effective duty of a die: the lowest of its sources (R539, R544). -/
def Power.duty (p : Power) (die : Nat) : Nat := if bit p.thermal die then Nat.min p.common 32 else p.common

/-- DUTY and THERM_DIES read as the controllers stand; THERM is set while a die is held (R544, R557). -/
def Dev.settleDuty (d : Dev) : Dev :=
  let lowest := if d.pwr.thermal = 0 then d.pwr.common else Nat.min d.pwr.common 32
  let d := (d.put PWR_STAT.DUTY lowest).put PWR_THERM.THERM_DIES d.pwr.thermal
  if d.pwr.thermal = 0 then d else d.put PWR_STAT.THERM 1

/-- The sustained controller's step: down by 1 above CAP - 10 W, up by 1 below CAP - 40 W, idle under a fixed duty
(R539). -/
def Dev.sustainedStep (d : Dev) (avg1s : Nat) : Dev :=
  let cap := d.get PWR_CAP.CAP
  if d.pwr.fixed ≠ 0 then d
  else if cap < avg1s + 10 then
    (d.modPwr (fun p => { p with sustained := Nat.max 1 (p.sustained - 1) })).put PWR_STAT.CAPPING 1
  else if avg1s + 40 < cap then d.modPwr (fun p => { p with sustained := Nat.min 64 (p.sustained + 1) })
  else d

/-- 8 ms in steps of 100 microseconds. -/
def excursionSteps : Nat := 80

/-- The excursion controller's step (R539): from 8 ms of a run above 2,000 W on it moves down by 4.  How it rises again
once the run has ended the manual does not say: it rises by a free amount (log 20). -/
def Dev.excursionStep (d : Dev) (low : Bool) : Dev :=
  let base := if d.pwr.fixed = 0 then d.pwr.sustained else d.pwr.fixed
  if low then
    let (v, d) := d.draw
    d.modPwr (fun p => { p with overRun := 0, excursion := p.excursion + v.toNat % (65 - p.excursion) })
  else
    let d := d.modPwr (fun p => { p with overRun := p.overRun + 1 })
    if d.pwr.overRun ≤ excursionSteps then d
    else
      let d := d.modPwr (fun p => { p with excursion := Nat.max 1 (p.excursion - 4) })
      if d.pwr.excursion < base then d.put PWR_STAT.EXCURSION 1 else d

/-- The input measurements that PWR_IN and PWR_THERM show (R557).
DESIGN CHOICE, log 154. -/
def Dev.measure (d : Dev) (p : PowerReading) : Dev :=
  (((((d.put PWR_IN.VOLT p.volt.toNat).put PWR_IN.CUR p.cur.toNat).put PWR_IN.PWR p.pwr.toNat).put PWR_IN.AVG1S
    p.avg1s.toNat).put PWR_THERM.DIE_MAX p.dieMax.toNat).put PWR_THERM.HBM_MAX p.hbmMax.toNat

/-- DUTY_STEP (R539, R540, R541): the 100 microsecond step takes a new CAP or FIXED_DUTY and moves the sustained and
excursion controllers. -/
def execDutyStep (p : PowerReading) (s : State) : Host.Outcome State Fault Refusal :=
  .next (s.run (Act.dev (fun d =>
    if d.mmc.state = .off then d
    else
      let d := (d.measure p).modPwr (fun w => { w with fixed := d.get PWR_CAP.FIXED_DUTY })
      ((d.sustainedStep p.avg1s.toNat).excursionStep p.excursionDone).settleDuty)))

/-- PEAK_LIMIT (R539): a 2 microsecond average above 2,350 W halves the limiter's duty, rounding down, to no less than
1.
DEDUCED, log 147. -/
def execPeakLimit (avg2us : W16) (s : State) : Host.Outcome State Fault Refusal :=
  .next (s.run (Act.dev (fun d =>
    if d.mmc.state ≠ .off && 2350 < avg2us.toNat then
      (((d.modPwr (fun p => { p with peak := Nat.max 1 (p.peak / 2) })).put PWR_STAT.FASTLIM 1).count PWR_STAT.LIMITS).settleDuty
    else d)))

/-- PEAK_RECOVERY (R539): at or below 2,200 W for 10 microseconds the limiter's duty rises by 1. -/
def execPeakRecovery (avg2us : W16) (s : State) : Host.Outcome State Fault Refusal :=
  .next (s.run (Act.dev (fun d =>
    if d.mmc.state ≠ .off && avg2us.toNat ≤ 2200 then (d.modPwr (fun p => { p with peak := Nat.min 64 (p.peak + 1) })).settleDuty
    else d)))

/-- THERMAL_LIMIT (R544): a die above 105 degrees for 1 ms is held at a duty of at most 32. -/
def execThermalLimit (die : DieId) (s : State) : Host.Outcome State Fault Refusal :=
  .next (s.run (Act.dev (fun d => (d.modPwr (fun p => { p with thermal := p.thermal ||| 2 ^ die.val })).settleDuty)))

/-- THERMAL_LIMIT_RELEASE (R544): every sensor of the die reads below 100 degrees. -/
def execThermalLimitRelease (die : DieId) (s : State) : Host.Outcome State Fault Refusal :=
  .next (s.run (Act.dev (fun d => (d.modPwr (fun p => { p with thermal := setField p.thermal die.val 1 0 })).settleDuty)))

/-- Whether PWR_CAP takes a value (R541). -/
def capLegal (v : Nat) : Bool := 800 ≤ field v 0 12 && field v 0 12 ≤ 1950 && field v 12 7 ≤ 64

/-- What a register would hold after a write of its RW fields. -/
def Dev.merged (d : Dev) (r : RegName) (w : RegWr) : Nat :=
  let m := lanesMask w.lanes
  d.reg r 0 - (d.reg r 0 &&& m) + (w.value.toNat &&& m)

/-- The write of PWR_CAP (R541): a value out of range is discarded and counted; an order that loses is not performed. -/
def Dev.capWrite (d : Dev) (w : RegWr) (rival : Option Rival) : Dev :=
  if mmcLoses rival then d
  else if capLegal (d.merged .PWR_CAP w) then d.writeFields .PWR_CAP 0 false w
  else d.rejectAt .PWR_CAP 0

/-- PWR_CAP_WRITE (R541). -/
def execPwrCapWrite (w : RegWr) (rival : Option Rival) (s : State) : Host.Outcome State Fault Refusal :=
  .next (s.run (mgmtDev .PWR_CAP 0 (fun d => d.capWrite w rival)))

/-- The domains of a compute die with its stack and devices, by rising index (R542). -/
def dieDoms (n : Nat) : List Nat := dieGroups n ++ [419 + n, 427 + 2 * n, 428 + 2 * n]

/-- A domain that is raised: counted, and with it the die's cycle count starts anew for its always-on domain (R187,
R557). -/
def Dev.domRaised (d : Dev) (x : Nat) : Dev :=
  let d := d.modDom x (fun r => { state := .on, raises := satAdd r.raises 1 0xFFFF })
  if x < 376 && x % 47 = 46 then d.modPwr (fun p => { p with aonCycle := tblSet 0 p.aonCycle (x / 47) d.cclk }) else d

/-- Asks for a domain to be raised, where it is not on. -/
def Dev.askRaise (d : Dev) (x : Nat) : Dev :=
  d.modDom x (fun r => if r.state = .on then r else { r with state := .raising })

/-- DOMAIN_RAISE (R544): of the domains of a die that wait to be raised, the one with the lowest index is raised. -/
def execDomainRaise (die : DieId) (s : State) : Host.Outcome State Fault Refusal :=
  .next (s.run (Act.dev (fun d =>
    match (dieDoms die.val).find? (fun x => (d.domAt x).state = .raising) with
    | some x => d.domRaised x
    | none => d)))

/-- Whether every unit in a domain is OUT or off (R543): the routers and the host interface are lowered by resets
alone. -/
def Dev.domIdle (d : Dev) (x : Nat) : Bool :=
  if x < 376 then (d.unitAt x).state = .out
  else if x < 412 then d.get LNK_QUAD.STATE (x - 376) = 0
  else if x < 416 then false
  else if x < 418 then !d.flag ETH_PORT_CFG.EN (x - 416)
  else if x = 418 then false
  else if x < 427 then (d.unitAt (hbmGroup (x - 419))).state = .out
  else (d.unitAt (capGroup (x - 427))).state = .out

/-- DOMAIN_LOWER (R543): a domain whose units are all OUT is lowered. -/
def execDomainLower (domain : Fin 443) (s : State) : Host.Outcome State Fault Refusal :=
  .next (s.run (Act.dev (fun d =>
    if d.domIdle domain.val && (d.domAt domain.val).state ≠ .off then d.modDom domain.val (fun r => { r with state := .off }) else d)))

/-- COOLANT_STATUS (R548): the coolant readings, FLOW_LOW below 1.35 L/min, INLET_HIGH above 40 degrees, LEAK with
SB-19. -/
def execCoolantStatus (c : CoolantReading) (s : State) : Host.Outcome State Fault Refusal :=
  .next (s.run (Act.dev (fun d =>
    if d.mmc.state = .off then d
    else
      let wet := d.flag PWR_THERM.LEAK
      let d := ((d.put PWR_THERM.INLET c.inlet.toNat).put PWR_THERM.OUTLET c.outlet.toNat).put PWR_THERM.FLOW c.flow.toNat
      let d := (d.put PWR_THERM.FLOW_LOW (b2n (c.flow.toNat < 135))).put PWR_THERM.INLET_HIGH (b2n (40 < c.inlet.toInt))
      let d := d.put PWR_THERM.LEAK (b2n c.leak)
      if wet = c.leak then d else d.emit (.pin 19 (!c.leak)))))

end Sys2Proof.Machine
end

