-- ==== Sys2Proof/Machine/Service.lean ====
section
/-! DEFINITION. Units in and out of service (R33, R301, R515 to R522, R527) and trace capture (R530, R531). -/

namespace Sys2Proof.Machine

/-- The cores whose state lies in a group: the core of its domain, or in FLAT the cores whose share a quadrant holds
(R169, R517). -/
def Dev.groupCores (d : Dev) (g : Nat) : List Nat :=
  let n := g / 47
  let j := g % 47
  if j < 36 then [coreNo n (j / 3)]
  else if j < 40 && d.flat n then (List.range 3).map (fun i => coreNo n (3 * (j - 36) + i))
  else []

/-- The first unit and the number of units on the memory of a group; none where the group is no memory (R298). -/
def groupUnits (g : Nat) : Option (Nat × Nat) :=
  let n := g / 47
  let j := g % 47
  if j = 43 then some (n * 32768, 32768)
  else if j = 44 || j = 45 then some (capUnit0 + (2 * n + (j - 44)) * 65536, 65536)
  else if 36 ≤ j && j < 40 then some (shmUnit0 + n * 1536 + (j - 36) * 384, 384)
  else none

/-- Whether a unit of the ownership map lies on a group's memory. -/
def onGroup (g u : Nat) : Bool :=
  match groupUnits g with
  | some (first, n) => first ≤ u && u < first + n
  | none => false

/-- Whether a context uses a group: it holds a core of it, owns a unit on it, or holds a grant of an image with units
on it (R519). -/
def Dev.usesGroup (d : Dev) (g : Nat) (c : CtxId) : Bool :=
  (d.groupCores g).any (fun k => (d.ctxAt c).cores.contains k)
    || (d.own.unitsOf c).any (onGroup g)
    || d.own.images.any (fun e => e.2.any (fun x => x.2.contains c && x.1.any (onGroup g)))

/-- The contexts that use a group. -/
def Dev.usersOf (d : Dev) (g : Nat) : List CtxId := allCtx.filter (d.usesGroup g)

/-- The units and images on a memory that leaves service are lost (R301, R519); HOST units of a capacity device become
released DPA granules (R520). -/
def Dev.loseMemory (d : Dev) (g : Nat) : Dev :=
  let gone := d.own.imageList.filter (fun i => (d.own.image i).any (fun x => x.1.any (onGroup g)))
  let d := gone.foldl (fun d i => (d.withOwn (d.own.dropImage i)).putSlot (65 + i) false) d
  let j := g % 47
  let o := { d.own with map := tblDrop (onGroup g) d.own.map }
  if j = 44 || j = 45 then
    let m := 2 * (g / 47) + (j - 44)
    d.withOwn { o with capFree := o.capFree ||| 2 ^ m, dpa := tblDrop (fun k => k % 16 = m) o.dpa }
  else d.withOwn o

/-- Whether a group is the control and storage part of a core. -/
def isCs (g : Nat) : Bool := g % 47 < 36 && g % 47 % 3 = 2

/-- A group leaves service (R516, R519): its users overrun or halt, its core stops, its memory is lost; firmware that
waits for the core's passage through OUT is taken (R524). -/
def Dev.outGroup (d : Dev) (unit g : Nat) : Dev :=
  if (d.unitAt g).state = .out then d
  else
    let users := d.usersOf g
    let d := users.foldl (fun d c => d.unitLost c unit) d
    let d := d.putUnit g .out
    let d := if isCs g then
        let k := coreNo (g / 47) (g % 47 / 3)
        (d.stopCores [k]).modCore k (fun x => { x with fwSlot := bit (d.get KEEP_BOOT.PREF) 3 })
      else d
    d.loseMemory g

/-- The groups that an order for a unit acts on (R517). -/
def orderGroups (unit : Nat) : List Nat :=
  match groupOf unit with
  | none => []
  | some g => if g % 47 = 46 then dieGroups (g / 47) else [g]

/-- When the groups of the pending BRING_IN have all come to rest, the command completes: OK, or FAILED where the unit
is not ADMITTED (R522, R544). -/
def Dev.settleUnitCmd (d : Dev) : Dev :=
  match d.mmc.unitCmd with
  | none => d
  | some (g, _) =>
    let gs := if g % 47 = 46 then dieGroups (g / 47) else [g]
    if gs.any (fun h => (d.unitAt h).state ≠ .out && (d.unitAt h).state ≠ .admitted) then d
    else ({ d with mmc := { d.mmc with unitCmd := none } }).put MMC_UNIT_CMD.STATUS (if d.admitted g then 0 else 6)

/-- Whether an inner-ring link can carry traffic: both its ports are in service (R33). -/
def Dev.ringLinkIn (d : Dev) (n : Nat) : Bool :=
  d.admitted (47 * n + 40) && d.admitted (47 * ((n + 1) % 8) + 41)

/-- At a beat boundary the route between two neighbours that are ADMITTED follows their link's service (R33).
DEDUCED, log 151. -/
def Dev.settleRoutes (d : Dev) : Dev :=
  let out := fun (n : Nat) => d.admitted (aonGroup n) && d.admitted (aonGroup ((n + 1) % 8)) && !d.ringLinkIn n
  { d with mmc := { d.mmc with routed := maskOf ((List.range 8).filter out) } }

/-- Whether a beat period is set: without one no tick occurs (R404). -/
def Dev.ticking (d : Dev) : Bool := d.get BRY_PERIOD.PERIOD ≠ 0

/-- Units in STANDBY are admitted, at a tick or with no period at once (R19, R516). -/
def Dev.admitStandby (d : Dev) : Dev :=
  let d := { d with mmc := { d.mmc with units := tblMap UnitRec.init (fun _ u =>
    if u.state = UnitState.standby then { u with state := UnitState.admitted } else u) d.mmc.units } }
  d.settleUnitCmd.settleRoutes

/-- The MMC's record of a unit: class, cause (R528). -/
def Dev.unitRecord (d : Dev) (cls unit cause : Nat) (st : UnitState) : Dev := d.logError cls 0 unit cause st.code 0 0

/-! ### Unit commands -/

/-- Whether a quadrant's die runs in FLAT with a core of a context (R521). -/
def Dev.flatQuadrant (d : Dev) (g : Nat) : Bool := 36 ≤ g % 47 && g % 47 < 40 && d.flat (g / 47)

/-- Whether an inner-ring port's neighbour die is not ADMITTED (R521). -/
def Dev.neighbourOut (d : Dev) (g : Nat) : Bool :=
  (g % 47 = 40 && !d.admitted (aonGroup ((g / 47 + 1) % 8))) || (g % 47 = 41 && !d.admitted (aonGroup ((g / 47 + 7) % 8)))

/-- TAKE_OUT of a unit: the STATUS of MMC_UNIT_CMD and the device (R519, R521, R522).
DEDUCED, log 146. -/
def Dev.takeOut (d : Dev) (unit : Nat) (force : Bool) : Nat × Dev :=
  match groupOf unit with
  | none => (3, d)
  | some g =>
    if d.mmc.unitCmd.isSome then (2, d)
    else if (d.unitAt g).state = .out then (4, d)
    else if d.neighbourOut g then (0, d)
    else if d.flatQuadrant g then (2, d)
    else if !force && (orderGroups unit).any (fun h => !(d.usersOf h).isEmpty) then (2, d)
    else (0, (orderGroups unit).foldl (fun d h => d.outGroup unit h) d)

/-- A group leaves OUT: its domain and the domain of its stack or device are asked to rise (R516, R543); a core's cycle
count starts anew (R167). -/
def Dev.enterScrub (d : Dev) (g : Nat) : Dev :=
  if (d.unitAt g).state ≠ .out then d
  else
    let d := (d.putUnit g .scrub).askRaise g
    let d := if g % 47 = 43 then d.askRaise (419 + g / 47)
      else if g % 47 = 44 || g % 47 = 45 then d.askRaise (427 + 2 * (g / 47) + (g % 47 - 44)) else d
    if isCs g then d.modCore (coreNo (g / 47) (g % 47 / 3)) (fun k => { k with born := d.cclk }) else d

/-- BRING_IN of a unit (R516, R522): pending until the unit is ADMITTED or has failed. -/
def Dev.bringIn (d : Dev) (unit : Nat) : Nat × Dev :=
  match groupOf unit with
  | none => (3, d)
  | some g =>
    if d.mmc.unitCmd.isSome then (2, d)
    else if (d.unitAt g).state ≠ .out then (4, d)
    else
      let d := (orderGroups unit).foldl Dev.enterScrub d
      (1, { d with mmc := { d.mmc with unitCmd := some (g, true) } })

/-- The write of MMC_UNIT_CMD: OP with GO acts; a reserved OP completes BAD_STATE (log 21); an order that loses to the
Keeper completes PREEMPTED (R522). -/
def Dev.unitCmdWrite (d : Dev) (w : RegWr) (rival : Option Rival) : Dev :=
  let d := d.writeFields .MMC_UNIT_CMD 0 false w
  if !wrSets w MMC_UNIT_CMD.GO then d
  else if mmcLoses rival then d.put MMC_UNIT_CMD.STATUS 5
  else
    let unit := d.get MMC_UNIT_CMD.UNIT
    let (st, d) := match d.get MMC_UNIT_CMD.OP with
      | 1 => d.takeOut unit (d.flag MMC_UNIT_CMD.FORCE)
      | 2 => d.bringIn unit
      | _ => (4, d)
    d.put MMC_UNIT_CMD.STATUS st

/-- TAKE_OUT (R516, R517, R519 to R522). -/
def execTakeOut (w : RegWr) (rival : Option Rival) (s : State) : Host.Outcome State Fault Refusal :=
  .next (s.run (mgmtDev .MMC_UNIT_CMD 0 (fun d => d.unitCmdWrite w rival)))

/-- BRING_IN (R516, R517, R522). -/
def execBringIn (w : RegWr) (rival : Option Rival) (s : State) : Host.Outcome State Fault Refusal :=
  .next (s.run (mgmtDev .MMC_UNIT_CMD 0 (fun d => d.unitCmdWrite w rival)))

/-! ### The way back -/

/-- What SCRUB clears of a group (R203, R301, R518): effects on memory. -/
def Dev.scrubMem (d : Dev) (g : Nat) : List MemEff :=
  let n := g / 47
  let j := g % 47
  let core := 0x10000000 + j / 3 * 0x04000000
  if j < 36 then
    if j % 3 = 2 then .clear (dieAddr n (core + 0x01000000)) 0x01200000 ::
      (if d.flat n then [.clear (dieAddr n (quadrantBase (j / 9) + j / 3 % 3 * 0x00800000)) 0x00800000] else [])
    else [.clear (dieAddr n (core + 0x02200000 + j % 3 * 0x00300000)) 0x00300000]
  else if j < 40 then [.clear (dieAddr n (quadrantBase (j - 36))) 0x01800000]
  else match groupUnits g with
    | some (first, size) => [.clear (unitAddr first) (size * granule)]
    | none => []

/-- What SCRUB clears beside memory: a core's page and lanes, an engine pair's buffers and generators (R106, R203). -/
def Dev.scrubDev (d : Dev) (g : Nat) : Dev :=
  let core := coreNo (g / 47) (g % 47 / 3)
  if 36 ≤ g % 47 then d
  else if isCs g then (d.clearPage core).clearGens core [0]
  else
    let k := g % 47 % 3
    (d.clearEngines core [2 * k, 2 * k + 1]).clearGens core [1 + k]

/-- SCRUB_COMPLETE (R203, R301, R516): the clearing of a unit in SCRUB, whose domain is on, finishes. -/
def execScrubComplete (unit : W16) (s : State) : Host.Outcome State Fault Refusal :=
  .next (s.run (fun _ _ d =>
    match groupOf unit.toNat with
    | none => { dev := d }
    | some g =>
      if (d.unitAt g).state = .scrub && d.domOn g then
        { dev := (d.scrubDev g).putUnit g .test, mem := d.scrubMem g }
      else { dev := d }))

/-- TEST_COMPLETE (R516): a unit passes its test and waits for the next tick, or fails, is OUT and recorded. -/
def execTestComplete (unit : W16) (pass : Bool) (s : State) : Host.Outcome State Fault Refusal :=
  .next (s.run (Act.dev (fun d =>
    match groupOf unit.toNat with
    | none => d
    | some g =>
      if (d.unitAt g).state ≠ .test then d
      else if pass then
        let d := d.modUnit g (fun _ => ⟨.standby, false⟩)
        if d.ticking then d else d.admitStandby
      else
        let d := d.modUnit g (fun _ => ⟨.out, true⟩)
        (d.unitRecord 2 unit.toNat 0x0011 .out).settleUnitCmd)))

/-- UNIT_FAULT (R519, R527): the unit goes OUT as in a forced take-out and a record of class UNIT is posted. -/
def execUnitFault (unit : W16) (s : State) : Host.Outcome State Fault Refusal :=
  .next (s.run (Act.dev (fun d =>
    match groupOf unit.toNat with
    | none => d
    | some g =>
      if (d.unitAt g).state = .out then d
      else
        let d := (orderGroups unit.toNat).foldl (fun d h => d.outGroup unit.toNat h) d
        (d.unitRecord 2 unit.toNat 0x0010 .out).settleUnitCmd)))

/-! ### Trace capture -/

/-- Whether a shared-memory unit of SQ3 of a die is owned (R530). -/
def Dev.sq3Owned (d : Dev) (n : Nat) : Bool :=
  d.own.map.any (fun e => onGroup (sqGroup n 3) e.1 && match e.2 with | .context _ _ => true | .image _ => true | _ => false)

/-- Whether trace capture may start on a die: not in FLAT, SQ3 not owned, and the module debug unlock open or no core
of the die held (R530, R531). -/
def Dev.traceAllowed (d : Dev) (n : Nat) : Bool :=
  !d.flat n && !d.sq3Owned n && (d.keep.debug = .module || (List.range 12).all (fun k => (d.holder (coreNo n k)).isNone))

/-- Capture on a die stops: SQ3 is cleared (R531). -/
def traceStop (n : Nat) : Act := fun _ _ d =>
  if bit (d.get MMC_TRACE.EN) n then
    { dev := d.put MMC_TRACE.EN (setField (d.get MMC_TRACE.EN) n 1 0), mem := [.clear (dieAddr n (quadrantBase 3)) 0x01800000] }
  else { dev := d }

/-- The bit of a die in a write of MMC_TRACE: an enable is performed or refused with CONFLICT, a disable stops capture. -/
def traceBit (want : Nat) (n : Nat) : Act := fun f m d =>
  if bit want n then
    if bit (d.get MMC_TRACE.EN) n then { dev := d }
    else if d.traceAllowed n then
      { dev := (d.put MMC_TRACE.EN (d.get MMC_TRACE.EN ||| 2 ^ n)).put MMC_TRACE.REFUSED (setField (d.get MMC_TRACE.REFUSED) n 1 0) }
    else { dev := d.put MMC_TRACE.REFUSED (d.get MMC_TRACE.REFUSED ||| 2 ^ n) }
  else traceStop n f m d

/-- The write of MMC_TRACE, die by die.
DESIGN CHOICE, log 138. -/
def traceWrite (w : RegWr) : Act := mgmtAct .MMC_TRACE 0 (if wrCarries w MMC_TRACE.EN then
  Act.each (traceBit (wrGet w MMC_TRACE.EN)) (List.range 8) else Act.skip)

/-- TRACE_ENABLE (R530, R531). -/
def execTraceEnable (w : RegWr) (s : State) : Host.Outcome State Fault Refusal := .next (s.run (traceWrite w))

end Sys2Proof.Machine
end

