-- ==== Sys2Proof/Machine/Firmware.lean ====
section
/-! DEFINITION. Firmware images and their live switch (R486 to R488, R523, R524). -/

namespace Sys2Proof.Machine

/-- The kinds of an image (R486). -/
def imgKeeper : Nat := 0
def imgMmc : Nat := 1
def imgPorgus : Nat := 3
def imgRecovery : Nat := 5

/-- A flash slot. -/
def Dev.slotAtFlash (d : Dev) (kind slot : Nat) : FlashSlot := tblGet FlashSlot.init d.mmc.flash (kind * 2 + slot)

/-- Writes a flash slot. -/
def Dev.putFlash (d : Dev) (kind slot : Nat) (v : FlashSlot) : Dev :=
  { d with mmc := { d.mmc with flash := tblSet FlashSlot.init d.mmc.flash (kind * 2 + slot) v } }

/-- The running and the inactive slot of a kind; RECOVERY has the one slot (R486, R506). -/
def Dev.runSlot (d : Dev) (kind : Nat) : Nat := if kind = imgRecovery then 0 else b2n (bit (d.get KEEP_BOOT.RUN) kind)
def Dev.idleSlot (d : Dev) (kind : Nat) : Nat := if kind = imgRecovery then 0 else 1 - d.runSlot kind

/-- KEEP_SVNk shows a slot (R506). -/
def Dev.showSlot (d : Dev) (kind slot : Nat) : Dev :=
  let v := d.slotAtFlash kind slot
  if slot = 0 then (d.put KEEP_SVN.SVN_A v.svn kind).put KEEP_SVN.VALID_A (b2n v.valid) kind
  else (d.put KEEP_SVN.SVN_B v.svn kind).put KEEP_SVN.VALID_B (b2n v.valid) kind

/-- The check of R487: magic and kind, root key, signature, minimum SVN. -/
def imageOk (f : Fuses) (kind : Nat) (img : Bytes) : Bool :=
  let len := rd img 0x0C 4
  let key := BitVec.ofNat 8 (2 + rdb img 7 % 2) :: sub img 0x10 48
  let root := Config.rootFuse (rdb img 6)
  rd img 0 4 = 0x474D494D && rdb img 4 = kind && 0x40 ≤ len && len ≤ 0x4000000 && len + 96 ≤ img.length
    && rdb img 6 < 4 && Config.onCurve key && Config.sha384 key = root.1 && !root.2
    && Config.ecdsaOk key (img.take len) (sub img len 96) && f.minSvn kind ≤ rdb img 5

/-- A slot that may run: its image passed the check, and its SVN is at least the fused minimum now (R487, R488). -/
def Dev.slotRuns (d : Dev) (f : Fuses) (kind slot : Nat) : Bool :=
  let v := d.slotAtFlash kind slot
  v.valid && f.minSvn kind ≤ v.svn

/-- The slot that a start runs: the preferred one, or the other where that fails the check (R487). -/
def Dev.bootSlot (d : Dev) (f : Fuses) (kind : Nat) : Option Nat :=
  let p := if kind = imgRecovery then 0 else b2n (bit (d.get KEEP_BOOT.PREF) kind)
  if d.slotRuns f kind p then some p
  else if kind ≠ imgRecovery && d.slotRuns f kind (1 - p) then some (1 - p) else none

/-- Sets bit `kind` of RUN. -/
def Dev.putRun (d : Dev) (kind slot : Nat) : Dev := d.put KEEP_BOOT.RUN (setField (d.get KEEP_BOOT.RUN) kind 1 slot)

/-- The write of MMC_FW: KIND and OP, and with GO the step, BUSY while a switch, a start or a reset is under way
(R523, R530). -/
def fwStep (w : RegWr) (op : Fuses → Dev → Nat → Nat × Dev) : Act :=
  mgmtAct .MMC_FW 0 (fun f _ d =>
    let d := d.writeFields .MMC_FW 0 false w
    if !wrSets w MMC_FW.GO then { dev := d }
    else if d.mmc.switching.isSome || d.mmc.start.isSome then { dev := d.put MMC_FW.STATUS 1 }
    else
      let kind := d.get MMC_FW.KIND
      if imgRecovery < kind then { dev := d.put MMC_FW.STATUS 4 }
      else
        let (st, d) := op f d kind
        { dev := d.put MMC_FW.STATUS st })

/-- BEGIN: erases the inactive slot (R523). -/
def fwBeginOp (_ : Fuses) (d : Dev) (kind : Nat) : Nat × Dev :=
  let slot := d.idleSlot kind
  let d := (d.putFlash kind slot ⟨[], 0, false⟩).showSlot kind slot
  (0, ({ d with mmc := { d.mmc with begun := some (kind, []) } }).put MMC_FW.WRITTEN 0)

/-- CHECK: the Keeper checks the inactive slot and shows the verdict (R487, R523). -/
def fwCheckOp (f : Fuses) (d : Dev) (kind : Nat) : Nat × Dev :=
  let slot := d.idleSlot kind
  let v := d.slotAtFlash kind slot
  let ok := imageOk f kind v.image
  let v := { v with valid := ok, svn := if ok then rdb v.image 5 % 64 else v.svn }
  let d := { d with mmc := { d.mmc with begun := none } }
  (if ok then 0 else 2, (d.putFlash kind slot v).showSlot kind slot)

/-- SWITCH: the checked slot becomes the preferred one and the live switch starts; the Keeper's own switch ends the
SPDM sessions (R488, R523, R524). -/
def fwSwitchOp (f : Fuses) (d : Dev) (kind : Nat) : Nat × Dev :=
  let slot := d.idleSlot kind
  if kind = imgRecovery then (4, d)
  else if !d.slotRuns f kind slot then (2, d)
  else
    let d := (d.put KEEP_BOOT.PREF (setField (d.get KEEP_BOOT.PREF) kind 1 slot)).put MMC_FW.SWITCHING 1
    let d := { d with mmc := { d.mmc with switching := some kind } }
    (3, if kind = imgKeeper then ({ d with keep := { d.keep with sessions := [], spdm := [] } }).put KEEP_STAT.SESSIONS 0 else d)

/-- What the steps of MMC_FW do by OP; the reserved OP completes BAD_STATE (log 21). -/
def fwOp (f : Fuses) (d : Dev) (kind : Nat) : Nat × Dev :=
  match d.get MMC_FW.OP with
  | 1 => fwBeginOp f d kind
  | 2 => fwCheckOp f d kind
  | 3 => fwSwitchOp f d kind
  | _ => (4, d)

/-- FW_BEGIN (R523). -/
def execFwBegin (w : RegWr) (s : State) : Host.Outcome State Fault Refusal := .next (s.run (fwStep w fwOp))

/-- FW_CHECK (R487, R523). -/
def execFwCheck (w : RegWr) (s : State) : Host.Outcome State Fault Refusal := .next (s.run (fwStep w fwOp))

/-- FW_SWITCH (R488, R523, R524). -/
def execFwSwitch (w : RegWr) (s : State) : Host.Outcome State Fault Refusal := .next (s.run (fwStep w fwOp))

/-- Stores the next 8 image bytes while a BEGIN is open and 64 MiB are not reached (R523, R533). -/
def Dev.fwBytes (d : Dev) (w : RegWr) : Dev :=
  match d.mmc.begun with
  | none => d
  | some (kind, bs) =>
    if 0x4000000 ≤ bs.length then d
    else
      let bs := bs ++ leBytes 8 (wrGet w MMC_FW_DATA.BYTES)
      let d := { d with mmc := { d.mmc with begun := some (kind, bs) } }
      (d.putFlash kind (d.idleSlot kind) ⟨bs, 0, false⟩).count MMC_FW.WRITTEN

/-- FW_DATA (R523). -/
def execFwData (w : RegWr) (s : State) : Host.Outcome State Fault Refusal :=
  .next (s.run (mgmtDev .MMC_FW_DATA 0 (fun d => d.fwBytes w)))

/-- Whether a switch can complete: PORGUS once every held core has passed through OUT since (R524). -/
def Dev.switchReady (d : Dev) (kind : Nat) : Bool :=
  kind ≠ imgPorgus || (List.range 96).all (fun k => (d.holder k).isNone || (d.coreAt k).fwSlot = bit (d.get KEEP_BOOT.PREF) 3)

/-- SWITCH_COMPLETE (R524): the new image runs, SWITCHING clears, records held during the MMC's switch are logged. -/
def execSwitchComplete (s : State) : Host.Outcome State Fault Refusal :=
  .next (s.run (Act.dev (fun d =>
    match d.mmc.switching with
    | none => d
    | some kind =>
      if !d.switchReady kind then d
      else
        let d := d.putRun kind (b2n (bit (d.get KEEP_BOOT.PREF) kind))
        let d := ({ d with mmc := { d.mmc with switching := none } }).put MMC_FW.SWITCHING 0
        (if d.get MMC_FW.STATUS = 3 then d.put MMC_FW.STATUS 0 else d).logHeld)))

/-- The write of KEEP_BOOT: PREF, and for each bit of SVN_COMMIT the fused minimum of a kind rises to the SVN of its
running image (R488, R506). -/
def svnWrite (w : RegWr) : Act := mgmtAct .KEEP_BOOT 0 (fun f _ d =>
  let d := d.writeFields .KEEP_BOOT 0 false w
  let ks := bitsOf (wrGet w KEEP_BOOT.SVN_COMMIT) 6
  let svn := fun (k : Nat) => (d.slotAtFlash k (d.runSlot k)).svn
  { dev := ks.foldl (fun d k => d.put KEEP_SVN.MIN (Nat.max (f.minSvn k) (svn k)) k) d,
    fuse := ks.map (fun k => .raiseSvn k (svn k)) })

/-- SVN_COMMIT (R488). -/
def execSvnCommit (w : RegWr) (s : State) : Host.Outcome State Fault Refusal := .next (s.run (svnWrite w))

end Sys2Proof.Machine
end

