-- ==== Sys2Proof/Machine/Keeper.lean ====
section
/-! DEFINITION. The Keeper's answers and orders: attestation and sessions (R489, R490), keys (R491 to R496), alarms
(R499 to R501), debug unlock (R502, R503). -/

namespace Sys2Proof.Machine

/-- Changes the Keeper. -/
def Dev.modKeep (d : Dev) (f : Keeper → Keeper) : Dev := { d with keep := f d.keep }

/-! ### SPDM -/

/-- Whether a function is there to ask: the PF, or an enabled VF; in RECOVERY the PF alone (R425, R460, R512). -/
def Dev.fnPresent (d : Dev) (fn : FnId) : Bool :=
  d.mmc.state ≠ .off && (fn = 0 || (fn.val ≤ d.host.numVfs && d.mmc.state ≠ .recovery))

/-- The stage of a function's exchange. -/
def Dev.spdmAt (d : Dev) (fn : FnId) : SpdmStage := tblGet .start d.keep.spdm fn.val

/-- Sets the stage. -/
def Dev.putSpdm (d : Dev) (fn : FnId) (s : SpdmStage) : Dev := d.modKeep (fun k => { k with spdm := tblSet .start k.spdm fn.val s })

/-- A session. -/
def Dev.sessionAt (d : Dev) (n : Nat) : Option Session := tblGet none d.keep.sessions n

/-- Sets a session; SESSIONS counts those that are established (R506). -/
def Dev.putSession (d : Dev) (n : Nat) (x : Option Session) : Dev :=
  let d := d.modKeep (fun k => { k with sessions := tblSet none k.sessions n x })
  d.put KEEP_STAT.SESSIONS ((d.keep.sessions.filter (fun e => e.2.any (·.established))).length)

/-- The Keeper answers a request. -/
def Dev.reply (d : Dev) (m : SpdmMsg) (body : Bytes) : Dev := d.emit (.spdm m.fn m.session body)

/-- The answer to a request that the exchange's stage or the session does not allow. -/
def spdmError : Bytes := [0x7F]

/-- A request reaches the Keeper: only a function that is there has a mailbox; while the Keeper switches its own
firmware requests wait, so nothing happens yet (R524); a message in a session that fails the session's check, or in a
session of another function, is dropped (R489, log 22). -/
def spdm (m : SpdmMsg) (f : Fuses → Dev → Dev) : Act := fun fu _ d =>
  let inSession := match m.session with
    | none => true
    | some n => m.plain && (d.sessionAt n.val).any (fun x => x.fn = m.fn)
  if d.fnPresent m.fn && d.mmc.switching ≠ some imgKeeper && inSession then { dev := f fu d } else { dev := d }

/-- An answer that the standard fixes from the request and the module's identity (R489). -/
def Dev.answer (d : Dev) (m : SpdmMsg) (code : Nat) : Dev :=
  d.reply m (leBytes 1 code ++ Config.spdmBody code m.fn.val m.body)

/-- An answer that needs the algorithms to be fixed, or a session (R489, log 22). -/
def Dev.answerReady (d : Dev) (m : SpdmMsg) (code : Nat) : Dev :=
  if d.spdmAt m.fn = .algorithms || m.session.isSome then d.answer m code else d.reply m spdmError

/-- GET_VERSION (R489): starts the exchange anew. -/
def execGetVersion (m : SpdmMsg) (s : State) : Host.Outcome State Fault Refusal :=
  .next (s.run (spdm m (fun _ d => (d.putSpdm m.fn .version).answer m 0x04)))

/-- GET_CAPABILITIES (R489). -/
def execGetCapabilities (m : SpdmMsg) (s : State) : Host.Outcome State Fault Refusal :=
  .next (s.run (spdm m (fun _ d =>
    if d.spdmAt m.fn = .version then (d.putSpdm m.fn .capabilities).answer m 0x61 else d.reply m spdmError)))

/-- NEGOTIATE_ALGORITHMS (R489). -/
def execNegotiateAlgorithms (m : SpdmMsg) (s : State) : Host.Outcome State Fault Refusal :=
  .next (s.run (spdm m (fun _ d =>
    if d.spdmAt m.fn = .capabilities then (d.putSpdm m.fn .algorithms).answer m 0x63 else d.reply m spdmError)))

/-- GET_DIGESTS (R489). -/
def execGetDigests (m : SpdmMsg) (s : State) : Host.Outcome State Fault Refusal :=
  .next (s.run (spdm m (fun _ d => d.answerReady m 0x01)))

/-- GET_CERTIFICATE (R489). -/
def execGetCertificate (m : SpdmMsg) (s : State) : Host.Outcome State Fault Refusal :=
  .next (s.run (spdm m (fun _ d => d.answerReady m 0x02)))

/-- CHALLENGE (R489). -/
def execChallenge (m : SpdmMsg) (s : State) : Host.Outcome State Fault Refusal :=
  .next (s.run (spdm m (fun _ d => d.answerReady m 0x03)))

/-- The 80 bytes of a context's measurement block; for a FREE context its FREE form, all zero (R490, R498). -/
def Dev.ctxBlock (d : Dev) (c : CtxId) : Bytes :=
  let x := d.ctxAt c
  let k := tblGet CtxKeys.init d.keep.ctx c.val
  if x.state = .free then zeros 80
  else
    leBytes 2 x.pkey ++ leBytes 1 x.owner.val ++ leBytes 1 x.memMode ++ leBytes 1 x.state.ctorIdx
      ++ leBytes 2 (maskOf (k.model.map (·.1))) ++ leBytes 1 (b2n k.link.isSome) ++ leBytes 1 (b2n (k.debug).isSome) ++ zeros 7
      ++ sub ((x.loaded.map (·.digest)).getD []) 0 48 ++ leBytes 16 (maskOf (d.own.imageList.filter (fun i => d.own.granted i c)))

/-- A measurement block, where it is present for the asker (R490). -/
def Dev.block (d : Dev) (f : Fuses) (m : SpdmMsg) (i : Nat) : Option Bytes :=
  if 1 ≤ i && i ≤ 5 then some (Config.sha384 (d.slotAtFlash (i - 1) (d.runSlot (i - 1))).image)
  else if i = 6 then
    some (Config.sha384 ((List.range 4).flatMap (fun r => (Config.rootFuse r).1 ++ leBytes 1 (b2n (Config.rootFuse r).2))
      ++ (List.range 6).flatMap (fun k => leBytes 1 (f.minSvn k))))
  else if i = 7 then
    some (Config.sha384 (leBytes 1 f.erases ++ leBytes 1 (d.get KEEP_STAT.CLAMPS) ++ leBytes 1 (b2n d.keep.moduleDebug)))
  else if 0x40 ≤ i && i < 0x80 then
    let c : CtxId := Fin.ofNat 64 (i - 0x40)
    if m.session.isSome && (d.ctxAt c).state ≠ .free && (d.ctxAt c).owner = m.fn && m.fn ≠ 0 then some (d.ctxBlock c) else none
  else none

/-- GET_MEASUREMENTS (R490): the block that Param2 names, or all for 0xFF. -/
def execGetMeasurements (m : SpdmMsg) (s : State) : Host.Outcome State Fault Refusal :=
  .next (s.run (spdm m (fun f d =>
    if d.spdmAt m.fn = .algorithms || m.session.isSome then
      let want := rdb m.body 1
      let is := if want = 0xFF then List.range 0x80 else [want]
      let bs := is.filterMap (fun i => (d.block f m i).map (fun b => leBytes 1 i ++ b))
      d.reply m (leBytes 1 0x60 ++ leBytes 1 bs.length ++ bs.flatten ++ Config.spdmBody 0x60 m.fn.val m.body)
    else d.reply m spdmError)))

/-- The lowest session number that is free, while the function has fewer than two sessions (R489). -/
def Dev.freeSession (d : Dev) (fn : FnId) : Option Nat :=
  if 2 ≤ (d.keep.sessions.filter (fun e => e.2.any (fun x => x.fn = fn))).length then none
  else (List.range 128).find? (fun n => (d.sessionAt n).isNone)

/-- KEY_EXCHANGE (R489): opens a session that FINISH completes. -/
def execKeyExchange (m : SpdmMsg) (s : State) : Host.Outcome State Fault Refusal :=
  .next (s.run (spdm m (fun _ d =>
    match d.freeSession m.fn with
    | some n =>
      if d.spdmAt m.fn = .algorithms then
        (d.putSession n (some ⟨m.fn, false, 0⟩)).reply m (leBytes 1 0x64 ++ leBytes 1 n ++ Config.spdmBody 0x64 m.fn.val m.body)
      else d.reply m spdmError
    | none => d.reply m spdmError)))

/-- FINISH (R489): completes the session that it is sent in. -/
def execFinish (m : SpdmMsg) (s : State) : Host.Outcome State Fault Refusal :=
  .next (s.run (spdm m (fun _ d =>
    match m.session with
    | some n => (d.putSession n.val ((d.sessionAt n.val).map (fun x => { x with established := true }))).answer m 0x65
    | none => d.reply m spdmError)))

/-- Whether a message comes in an established session. -/
def Dev.inSession (d : Dev) (m : SpdmMsg) : Bool :=
  m.session.any (fun n => (d.sessionAt n.val).any (·.established))

/-- HEARTBEAT (R489). -/
def execHeartbeat (m : SpdmMsg) (s : State) : Host.Outcome State Fault Refusal :=
  .next (s.run (spdm m (fun _ d => if d.inSession m then d.answer m 0x68 else d.reply m spdmError)))

/-- KEY_UPDATE (R489): the session goes on under its next keys. -/
def execKeyUpdate (m : SpdmMsg) (s : State) : Host.Outcome State Fault Refusal :=
  .next (s.run (spdm m (fun _ d =>
    match m.session with
    | some n =>
      if d.inSession m then
        (d.putSession n.val ((d.sessionAt n.val).map (fun x => { x with updates := x.updates + 1 }))).answer m 0x69
      else d.reply m spdmError
    | none => d.reply m spdmError)))

/-- END_SESSION (R489). -/
def execEndSession (m : SpdmMsg) (s : State) : Host.Outcome State Fault Refusal :=
  .next (s.run (spdm m (fun _ d =>
    match m.session with
    | some n => if d.inSession m then (d.answer m 0x6C).putSession n.val none else d.reply m spdmError
    | none => d.reply m spdmError)))

/-! ### Key commands -/

/-- The keys of a context. -/
def Dev.keysAt (d : Dev) (c : CtxId) : CtxKeys := tblGet CtxKeys.init d.keep.ctx c.val

/-- Changes the keys of a context. -/
def Dev.modKeys (d : Dev) (c : CtxId) (f : CtxKeys → CtxKeys) : Dev :=
  d.modKeep (fun k => { k with ctx := tblMod CtxKeys.init k.ctx c.val f })

/-- The statuses of R491. -/
def kOk : Nat := 0
def kBadContext : Nat := 1
def kState : Nat := 2
def kBusy : Nat := 3
def kUnwrap : Nat := 4
def kBadField : Nat := 5

/-- A key command in a session (R491): BAD_CONTEXT unless the session's VF owns the context that the second byte names;
then the command's own checks.
DEDUCED, log 136. -/
def keyCommand (m : SpdmMsg) (f : Dev → CtxId → Bytes → Nat × Dev) : Act := spdm m (fun _ d =>
  match m.session with
  | none => d.reply m spdmError
  | some n =>
    if !d.inSession m then d.reply m spdmError
    else
      let i := rdb m.body 1
      let c : CtxId := Fin.ofNat 64 i
      let x := d.ctxAt c
      let updates := ((d.sessionAt n.val).map (·.updates)).getD 0
      let (st, d) :=
        if 64 ≤ i || m.fn = 0 || x.state = .free || x.owner ≠ m.fn then (kBadContext, d)
        else f d c (Config.importKey m.fn.val n.val updates)
      d.reply m (leBytes 1 0x7E ++ leBytes 1 st))

/-- Whether a context may still bind and drop model keys (R491). -/
def Ctx.keyState (x : Ctx) : Bool := x.state = .assigned || x.state = .running || x.state = .halted

/-- BIND_MODEL_KEY (R491, R492). -/
def execBindModelKey (m : SpdmMsg) (s : State) : Host.Outcome State Fault Refusal :=
  .next (s.run (keyCommand m (fun d c ik =>
    let h := rdb m.body 2
    if !(d.ctxAt c).keyState then (kState, d)
    else if 15 < h then (kBadField, d)
    else if tblGet [] (d.keysAt c).model h ≠ [] then (kBusy, d)
    else match Config.unwrapKey ik (sub m.body 3 40) with
      | none => (kUnwrap, d)
      | some key => (kOk, d.modKeys c (fun k => { k with model := tblSet [] k.model h key })))))

/-- DROP_MODEL_KEY (R491): BUSY while an IMPORT that names the handle runs. -/
def execDropModelKey (m : SpdmMsg) (s : State) : Host.Outcome State Fault Refusal :=
  .next (s.run (keyCommand m (fun d c _ =>
    let h := rdb m.body 2
    if !(d.ctxAt c).keyState then (kState, d)
    else if 15 < h then (kBadField, d)
    else if (d.ctxAt c).imports.any (fun i => rdb i.entry 0x12 = h) then (kBusy, d)
    else (kOk, d.modKeys c (fun k => { k with model := tblSet [] k.model h [] })))))

/-- SET_LINK_KEY (R491, R492, R494): generation 0 of the job link key. -/
def execSetLinkKey (m : SpdmMsg) (s : State) : Host.Outcome State Fault Refusal :=
  .next (s.run (keyCommand m (fun d c ik =>
    let x := d.ctxAt c
    if x.state ≠ .assigned || x.started || (d.keysAt c).link.isSome then (kState, d)
    else if rd m.body 2 2 ≠ x.pkey then (kBadField, d)
    else match Config.unwrapKey ik (sub m.body 4 40) with
      | none => (kUnwrap, d)
      | some key => (kOk, (d.modKeys c (fun k => { k with link := some ⟨key, 0, none⟩ })).restartCounters x.pkey))))

/-- SET_DEBUG_KEY (R491). -/
def execSetDebugKey (m : SpdmMsg) (s : State) : Host.Outcome State Fault Refusal :=
  .next (s.run (keyCommand m (fun d c _ =>
    let x := d.ctxAt c
    let key := sub m.body 2 96
    if x.state ≠ .assigned || x.started || ((d.keysAt c).debug).isSome then (kState, d)
    else if !Config.onCurve key then (kBadField, d)
    else (kOk, d.modKeys c (fun k => { k with debug := some key })))))

/-- RETIRED_KEY_DESTROY (R496). -/
def execRetiredKeyDestroy (pkey : W16) (s : State) : Host.Outcome State Fault Refusal :=
  .next (s.run (Act.dev (fun d => d.modKeep (fun k => { k with retired := tblSet none k.retired pkey.toNat none }))))

/-! ### Alarms -/

/-- 1 s in units of 1/16 ns (R404).
DEDUCED, log 139. -/
def oneSecond : Nat := 16000000000

/-- The level of a sensor (R499). -/
def Dev.alarmLevel (d : Dev) (sensor : Nat) : Nat := field (d.get KEEP_ALARM_CFG.LEVEL) (2 * sensor) 2

/-- CLAMP (R500): RUNNING contexts halt and the module enters ALARM. -/
def Dev.clamp (d : Dev) : Dev :=
  let live := d.mmc.state = .ready || d.mmc.state = .running || d.mmc.state = .halted
  let cs := allCtx.filter (fun c => (d.ctxAt c).state = .running)
  let d := cs.foldl (fun d c => d.haltCtx c clampReason) d
  let d := (d.count KEEP_STAT.CLAMPS).put KEEP_ALARM.LEVEL (Nat.max 1 (d.get KEEP_ALARM.LEVEL))
  if live then { d with mmc := { d.mmc with state := .alarm } } else d

/-- The key store is zeroised (R485, R500). -/
def Dev.zeroise (d : Dev) : Dev :=
  (d.modKeep (fun k => { k with slots := [], ctx := [], retired := [], sessions := [], spdm := [] })).put KEEP_STAT.SESSIONS 0

/-- ERASE (R500): the key store is zeroised, every context goes through KILLING to FREE with issuer 0x8000, the fused
count rises. -/
def eraseAct : Act :=
  (killOff allCtx 0x8000).andThen (fun f _ d =>
    let d := d.zeroise.modKeep (fun k => { k with erased := true })
    { dev := (d.put KEEP_ALARM.LEVEL 2).put KEEP_STAT.ERASES (satAdd f.erases 1 31), fuse := [.erase] })

/-- ALARM_TRIP (R499, R500, R527): the sensor is recorded, and its level acts; the fourth VGLITCH or CGLITCH trip
within 1 s raises ERASE. -/
def execAlarmTrip (sensor : Fin 5) (now : W64) (s : State) : Host.Outcome State Fault Refusal :=
  .next (s.run (fun f m d =>
    if d.mmc.state = .off then { dev := d }
    else
      let glitch := sensor.val = 1 || sensor.val = 2
      let recent := d.keep.trips.filter (fun t => now.toNat - t.2 ≤ oneSecond)
      let d := if glitch then d.modKeep (fun k => { k with trips := (sensor.val, now.toNat) :: recent }) else d
      let level := if glitch && 3 ≤ recent.length then 2 else d.alarmLevel sensor.val
      let d := d.put KEEP_ALARM.ACTIVE (d.get KEEP_ALARM.ACTIVE ||| 2 ^ sensor.val)
      let d := (d.put KEEP_ALARM.SEEN (d.get KEEP_ALARM.SEEN ||| 2 ^ sensor.val)).count KEEP_ALARM.LOGS
      let d := d.logError 5 1 0x8F00 0x0050 4 3 sensor.val
      if level = 0 then { dev := d }
      else
        let d := d.clamp
        if level = 1 then { dev := d } else eraseAct f m d))

/-- ALARM_SENSOR_RELEASE (R501): the sensor is within its limits again. -/
def execAlarmSensorRelease (sensor : Fin 5) (s : State) : Host.Outcome State Fault Refusal :=
  .next (s.run (Act.dev (fun d => d.put KEEP_ALARM.ACTIVE (setField (d.get KEEP_ALARM.ACTIVE) sensor.val 1 0))))

/-- The write of KEEP_ALARM: SEEN is cleared by ones; CLEAR ends CLAMP while no active sensor has a level of CLAMP or
more, else it is ignored and counted (R500, R501). -/
def Dev.alarmWrite (d : Dev) (w : RegWr) : Dev :=
  let d := d.writeFields .KEEP_ALARM 0 false w
  if !wrSets w KEEP_ALARM.CLEAR then d
  else if (List.range 5).any (fun i => bit (d.get KEEP_ALARM.ACTIVE) i && 1 ≤ d.alarmLevel i) then d.rejectAt .KEEP_ALARM 0
  else if d.mmc.state = .alarm && d.get KEEP_ALARM.LEVEL = 1 then
    ({ d with mmc := { d.mmc with state := d.impliedState } }).put KEEP_ALARM.LEVEL 0
  else d

/-- ALARM_CLEAR (R501, R507). -/
def execAlarmClear (w : RegWr) (s : State) : Host.Outcome State Fault Refusal :=
  .next (s.run (mgmtDev .KEEP_ALARM 0 (fun d => d.alarmWrite w)))

/-- Whether alarm levels are at or above their defaults (R499, R506). -/
def levelsLegal (v : Nat) : Bool :=
  (List.range 5).all (fun i => field KEEP_ALARM_CFG.LEVEL.reset (2 * i) 2 ≤ field v (2 * i) 2 && field v (2 * i) 2 ≠ 3)

/-- The write of KEEP_ALARM_CFG: levels may rise until the commit; COMMIT locks them (R499). -/
def Dev.alarmCfgWrite (d : Dev) (w : RegWr) : Dev :=
  let locked := d.flag KEEP_ALARM_CFG.COMMITTED
  let d :=
    if wrCarries w KEEP_ALARM_CFG.LEVEL && !locked && !levelsLegal (wrGet w KEEP_ALARM_CFG.LEVEL) then d.rejectAt .KEEP_ALARM_CFG 0
    else d.writeFields .KEEP_ALARM_CFG 0 locked w
  if wrSets w KEEP_ALARM_CFG.COMMIT then d.put KEEP_ALARM_CFG.COMMITTED 1 else d

/-- ALARM_CFG_COMMIT (R499). -/
def execAlarmCfgCommit (w : RegWr) (s : State) : Host.Outcome State Fault Refusal :=
  .next (s.run (mgmtDev .KEEP_ALARM_CFG 0 (fun d => d.alarmCfgWrite w)))

/-! ### Debug unlock -/

/-- A read of KEEP_DBG_NONCE0 makes a new nonce, unless a failed token blocks it (R502, R503). -/
def Dev.newNonce (d : Dev) : Dev :=
  if d.keep.lockout then d
  else
    let (a, d) := d.draw
    let (b, d) := d.draw
    let d := d.modKeep (fun k => { k with nonce := leBytes 8 a.toNat ++ leBytes 8 b.toNat, nonceValid := true })
    (d.put KEEP_DBG_NONCE.NONCE a.toNat 0).put KEEP_DBG_NONCE.NONCE b.toNat 1

/-- NONCE_READ (R502). -/
def execNonceRead (s : State) : Host.Outcome State Fault Refusal :=
  .next (s.run (mgmtDev .KEEP_DBG_NONCE 0 Dev.newNonce))

/-- The 128 bytes that stand in KEEP_DBG_TOKEN (R502). -/
def Dev.token (d : Dev) : Bytes := (List.range 16).flatMap (fun i => leBytes 8 (tblGet 0 d.keep.token i).toNat)

/-- The RESULT of a token: 1 OK, else the first check that fails (R502, R503, R506).
DEDUCED, log 137. -/
def Dev.tokenCheck (d : Dev) (t : Bytes) : Nat :=
  let level := rdb t 2
  let c : CtxId := Fin.ofNat 64 (rdb t 3)
  if d.keep.lockout then 6
  else if rd t 0 2 ≠ 0x4454 || (level ≠ 1 && level ≠ 2) || 64 ≤ rdb t 3 || (level = 2 && rdb t 3 ≠ 0) then 2
  else if rd t 8 8 ≠ d.get BRY_SERIAL.SERIAL then 4
  else if !d.keep.nonceValid || sub t 0x10 16 ≠ d.keep.nonce then 3
  else if level = 1 then
    match (d.keysAt c).debug with
    | none => 5
    | some k => if Config.ecdsaOk k (sub t 0 32) (sub t 0x20 96) then 1 else 2
  else if Config.ecdsaOk Config.moagenDebugKey (sub t 0 32) (sub t 0x20 96) then 1 else 2

/-- The write of KEEP_DBG_CTL: SUBMIT checks the token and opens its view; LOCK closes a context view (R502, R503). -/
def debugWrite (w : RegWr) : Act := mgmtAct .KEEP_DBG_CTL 0 (fun f m d =>
  let d := d.writeFields .KEEP_DBG_CTL 0 false w
  let d := if wrSets w KEEP_DBG_CTL.LOCK && d.keep.debug ≠ .module then
      (d.modKeep (fun k => { k with debug := .locked })).put KEEP_DBG_CTL.OPEN 0 else d
  if !wrSets w KEEP_DBG_CTL.SUBMIT then { dev := d }
  else
    let t := d.token
    let r := d.tokenCheck t
    let d := d.put KEEP_DBG_CTL.RESULT r
    if r ≠ 1 then { dev := (d.count KEEP_DBG_CTL.FAILS).modKeep (fun k => { k with lockout := true }) }
    else
      let d := d.modKeep (fun k => { k with nonceValid := false })
      if rdb t 2 = 1 then
        if d.keep.debug = .module then { dev := d }
        else
          let c : CtxId := Fin.ofNat 64 (rdb t 3)
          { dev := ((d.modKeep (fun k => { k with debug := .context c })).put KEEP_DBG_CTL.OPEN 1).put KEEP_DBG_CTL.CONTEXT c.val }
      else
        ((killAll allCtx 0x8000).andThen (Act.dev (fun d =>
          ((d.modKeep (fun k => { k with debug := .module, moduleDebug := true })).put KEEP_DBG_CTL.OPEN 2).put
            KEEP_STAT.MODULE_DEBUG 1))) f m d)

/-- TOKEN_SUBMIT (R502, R503). -/
def execTokenSubmit (w : RegWr) (s : State) : Host.Outcome State Fault Refusal := .next (s.run (debugWrite w))

/-- DEBUG_LOCK (R506). -/
def execDebugLock (w : RegWr) (s : State) : Host.Outcome State Fault Refusal := .next (s.run (debugWrite w))

/-- LOCKOUT_EXPIRY (R503). -/
def execLockoutExpiry (s : State) : Host.Outcome State Fault Refusal :=
  .next (s.run (Act.dev (fun d => d.modKeep (fun k => { k with lockout := false }))))

end Sys2Proof.Machine
end

