-- ==== Sys2Proof/Machine/HostRings.lean ====
section
/-! DEFINITION. The host's rings and functions (R425, R426, R430 to R436, R460 to R462) and CXL.mem (R427, R447). -/

namespace Sys2Proof.Machine

/-- Whether the host interface serves its rings: the module is READY, RUNNING, HALTED or in ALARM, or runs a warm start
that keeps the Brynoa die (R508, R510). -/
def Dev.hostUp (d : Dev) : Bool :=
  match d.mmc.state with
  | .ready => true
  | .running => true
  | .halted => true
  | .alarm => true
  | .training => d.mmc.start.any (fun r => !r.cold && !r.brynoa)
  | _ => false

/-! ### Submission rings -/

/-- The place of a ring in the arbiter's round: contexts' rings in order, the administration ring last (log 23). -/
def sqKey : HostRing → Nat
  | .adm => 512
  | .sq c i => c.val * 8 + i.val

/-- The ring at a place of the round.
DEDUCED, log 23. -/
def ringAt (k : Nat) : HostRing := if k = 512 then .adm else .sq (Fin.ofNat 64 (k / 8)) (Fin.ofNat 8 k)

/-- A submission ring's configuration (R462). -/
def Dev.sqEn (d : Dev) : HostRing → Bool
  | .adm => d.flag HOST_ADM_SQ_CFG.EN
  | .sq c i => d.flag HOST_SQ_CFG.EN (c.val * 8 + i.val)

/-- The entries of a submission ring. -/
def Dev.sqSize (d : Dev) : HostRing → Nat
  | .adm => 2 ^ d.get HOST_ADM_SQ_CFG.SIZE
  | .sq c i => 2 ^ d.get HOST_SQ_CFG.SIZE (c.val * 8 + i.val)

/-- A submission ring's head and tail. -/
def Dev.sqAt (d : Dev) (r : HostRing) : SqRec := tblGet SqRec.init d.host.sq (sqKey r)

/-- Sets a submission ring's record. -/
def Dev.putSq (d : Dev) (r : HostRing) (x : SqRec) : Dev :=
  { d with host := { d.host with sq := tblSet SqRec.init d.host.sq (sqKey r) x } }

/-- The entries that a ring holds. -/
def Dev.sqHolds (d : Dev) (r : HostRing) : Nat :=
  let x := d.sqAt r
  (x.tail + d.sqSize r - x.head) % d.sqSize r

/-- Whether the arbiter may fetch from a ring: enabled, not empty, and no completion of its context held (R432, R436). -/
def Dev.fetchable (d : Dev) (r : HostRing) : Bool :=
  d.sqEn r && 0 < d.sqHolds r && !(d.cqAt (cqOf r)).held.any (fun it => !it.event)

/-- The ring that the round-robin pointer grants next (R432). -/
def Dev.nextRing (d : Dev) : Option HostRing :=
  ((List.range 513).map (fun i => ringAt ((d.host.pointer + i) % 513))).find? d.fetchable

/-- The opcodes that each kind of ring takes (R440). -/
def opAllowed : HostRing → Nat → Bool
  | .adm, op => 1 ≤ op && op ≤ 8
  | .sq _ _, op => op = 2 || op = 3 || op = 8 || (0x20 ≤ op && op ≤ 0x28)

/-- Clears EN of a ring that failed on the link and sets CFG_ERR where the ring has one (R430). -/
def Dev.ringFailed (d : Dev) : HostRing → Dev
  | .adm => d.put HOST_ADM_SQ_CFG.EN 0
  | .sq c i => (d.put HOST_SQ_CFG.EN 0 (c.val * 8 + i.val)).put HOST_CTX_STAT.CFG_ERR 1 c.val

/-- One fetch (R432): the ring's head advances, and the command waits to start; an opcode that the ring does not take
completes BAD_OPCODE (R440). -/
def Dev.fetch (d : Dev) (r : HostRing) (entry : Bytes) : Dev :=
  let x := d.sqAt r
  let head := (x.head + 1) % d.sqSize r
  let d := d.putSq r { x with head := head }
  let d := { d with host := { d.host with pointer := (sqKey r + 1) % 513 } }
  let e := sub entry 0 64
  if opAllowed r (rdb e 0) then { d with host := { d.host with fetched := d.host.fetched ++ [⟨r, e, head, false, none⟩] } }
  else d.complete r e head 0x01 0 0 0

/-- COMMAND_FETCH (R430, R432, R440). -/
def execCommandFetch (entry : Bytes) (linkOk : Bool) (s : State) : Host.Outcome State Fault Refusal :=
  .next (s.run (Act.dev (fun d =>
    if !d.hostUp then d
    else match d.nextRing with
      | none => d
      | some r => if linkOk then d.fetch r entry else d.ringFailed r)))

/-- Whether a function may reach a context's pages: the VF that owns it (R429). -/
def Dev.owns (d : Dev) (fn : FnId) (c : CtxId) : Bool :=
  fn ≠ 0 && (d.ctxAt c).state ≠ .free && (d.ctxAt c).owner = fn && fn.val ≤ d.host.numVfs

/-- An access to a context's page or doorbell by a VF that does not own it is discarded and counted (R429). -/
def Dev.foreign (d : Dev) (off : Nat) : Dev := d.reject 9 off

/-- The new tail of a submission ring: taken within the ring's room, else ignored and counted (R433). -/
def Dev.sqTail (d : Dev) (r : HostRing) (v : Nat) : Dev :=
  let x := d.sqAt r
  let n := d.sqSize r
  let t := v % 65536
  if d.sqEn r && t < n && (t + n - x.tail) % n ≤ n - 1 - d.sqHolds r then d.putSq r { x with tail := t }
  else match r with
    | .adm => d.count HOST_MOD_STAT.ADM_DB_IGNORED
    | .sq c _ => d.count HOST_CTX_STAT.DB_IGNORED c.val

/-- A function writes the doorbell of a submission ring (R429, R433).
DEDUCED, log 51. -/
def Dev.sqBell (d : Dev) (fn : FnId) (ring : HostRing) (v : Nat) : Dev :=
  if !d.hostUp then d
  else match ring with
    | .adm => if fn = 0 then d.sqTail .adm v else d
    | .sq c i => if d.owns fn c then d.sqTail ring v else d.foreign (c.val * 0x1000 + 8 * i.val)

/-- SQ_DOORBELL (R433). -/
def execSqDoorbell (fn : FnId) (ring : HostRing) (value : W64) (s : State) : Host.Outcome State Fault Refusal :=
  .next (s.run (Act.dev (fun d => d.sqBell fn ring value.toNat)))

/-- The new head of a completion ring: slots posted to software come back, ARM arms the interrupt, and what is held is
posted; a head that would move backwards or beyond the last entry is ignored whole and counted (R433, R435, R436). -/
def Dev.cqHead (d : Dev) (q : CqRef) (v : Nat) : Dev :=
  let x := d.cqAt q
  let n := d.cqSize q
  let h := v % 65536
  let back := (h + n - x.head) % n
  if d.cqEn q && h < n && back ≤ x.posted then
    (d.modCq q (fun r => { r with head := h, posted := r.posted - back, armed := r.armed || bit v 63 })).cqFlush q
  else match q with
    | .adm => d.count HOST_MOD_STAT.ADM_DB_IGNORED
    | .ctx c => d.count HOST_CTX_STAT.DB_IGNORED c.val

/-- A function writes the doorbell of a completion ring (R429, R433). -/
def Dev.cqBell (d : Dev) (fn : FnId) (cq : CqRef) (v : Nat) : Dev :=
  if !d.hostUp then d
  else match cq with
    | .adm => if fn = 0 then d.cqHead .adm v else d
    | .ctx c => if d.owns fn c then d.cqHead cq v else d.foreign (c.val * 0x1000 + 0x40)

/-- CQ_DOORBELL (R433, R435, R436). -/
def execCqDoorbell (fn : FnId) (cq : CqRef) (value : W64) (s : State) : Host.Outcome State Fault Refusal :=
  .next (s.run (Act.dev (fun d => d.cqBell fn cq value.toNat)))

/-! ### Ring registers -/

/-- The EN, SIZE and BASE fields of a ring's configuration register, with its instance and least SIZE (R430, R462). -/
def ringFields : RingSel → Fld × Fld × Fld × Nat × Nat
  | .sub .adm => (HOST_ADM_SQ_CFG.EN, HOST_ADM_SQ_CFG.SIZE, HOST_ADM_SQ_CFG.BASE, 0, 4)
  | .sub (.sq c i) => (HOST_SQ_CFG.EN, HOST_SQ_CFG.SIZE, HOST_SQ_CFG.BASE, c.val * 8 + i.val, 4)
  | .comp .adm => (HOST_ADM_CQ_CFG.EN, HOST_ADM_CQ_CFG.SIZE, HOST_ADM_CQ_CFG.BASE, 0, 6)
  | .comp (.ctx c) => (HOST_CQ_CFG.EN, HOST_CQ_CFG.SIZE, HOST_CQ_CFG.BASE, c.val, 6)

/-- The context whose pages hold a ring's register. -/
def selCtx : RingSel → Option CtxId
  | .sub (.sq c _) => some c
  | .comp (.ctx c) => some c
  | _ => none

/-- A ring that has just been enabled has head and tail 0 (R430); what its completion ring held before is posted. -/
def Dev.ringStart (d : Dev) : RingSel → Dev
  | .sub r => d.putSq r SqRec.init
  | .comp q => (d.modCq q (fun x => { CqRec.init with held := x.held, lost := x.lost })).cqFlush q

/-- A write of a ring's configuration register (R430, R462): while EN is 1, BASE and SIZE do not change and a try
counts; EN rising with SIZE out of range leaves EN 0 and sets CFG_ERR.
DEDUCED, log 52. -/
def Dev.ringCfgWrite (d : Dev) (r : RingSel) (w : RegWr) : Dev :=
  let (en, size, base, i, least) := ringFields r
  let was := d.flag en i
  let old := d.reg en.reg i
  let d1 := d.writeFields en.reg i false w
  let changed := d1.get size i ≠ d.get size i || d1.get base i ≠ d.get base i
  let d1 := if was && changed then
      ((d1.put size (field old size.lo size.width) i).put base (field old base.lo base.width) i).rejectAt en.reg i
    else d1
  if !was && d1.flag en i then
    if least ≤ d1.get size i && d1.get size i ≤ 16 then d1.ringStart r
    else
      let d1 := d1.put en 0 i
      match selCtx r with
      | some c => d1.put HOST_CTX_STAT.CFG_ERR 1 c.val
      | none => d1
  else d1

/-- A write by a function to a ring's register: the PF's own rings, or the rings of a context that the VF owns (R429). -/
def Dev.ringWrite (d : Dev) (fn : FnId) (r : RingSel) (w : RegWr) : Dev :=
  if !d.hostUp then d
  else match selCtx r with
    | none => if fn = 0 then d.ringCfgWrite r w else d
    | some c =>
      if d.owns fn c then d.ringCfgWrite r w
      else
        let (en, _, _, i, _) := ringFields r
        d.foreign (en.reg.place i).2

/-- RING_ENABLE (R430, R462). -/
def execRingEnable (fn : FnId) (ring : RingSel) (w : RegWr) (s : State) : Host.Outcome State Fault Refusal :=
  .next (s.run (Act.dev (fun d => d.ringWrite fn ring w)))

/-- RING_DISABLE (R430). -/
def execRingDisable (fn : FnId) (ring : RingSel) (w : RegWr) (s : State) : Host.Outcome State Fault Refusal :=
  .next (s.run (Act.dev (fun d => d.ringWrite fn ring w)))

/-! ### Functions -/

/-- The contexts that a VF owns and that are not FREE. -/
def Dev.ctxsOf (d : Dev) (fn : FnId) : List CtxId :=
  allCtx.filter (fun c => (d.ctxAt c).state ≠ .free && (d.ctxAt c).owner = fn)

/-- Whether a session stands open and established (R506). -/
def isOpen (x : Option Session) : Bool := x.any (fun y => y.established)

/-- The sessions of functions end (R489). -/
def Dev.endSessions (d : Dev) (p : FnId → Bool) : Dev :=
  let drop := fun (_ : Nat) (x : Option Session) => if x.any (fun y => p y.fn) then none else x
  let d := { d with keep := { d.keep with
    sessions := tblMap none drop d.keep.sessions,
    spdm := tblDrop (fun k => p (Fin.ofNat 64 k)) d.keep.spdm } }
  d.put KEEP_STAT.SESSIONS ((d.keep.sessions.filter (fun e => isOpen e.2)).length)

/-- The registers of the PF's rings and Ethernet queues at reset, their records gone (R426, R565); no context owns an
Ethernet queue by then (R470). -/
def Dev.resetPfRings (d : Dev) : Dev :=
  let d := d.resetRegs [.HOST_ADM_SQ_CFG, .HOST_ADM_CQ_CFG, .ETH_QCFG, .ETH_QWM, .ETH_QSTAT]
  let d := { d with eth := { d.eth with posted := [] } }
  let d := d.put HOST_MOD_STAT.ADM_DB_IGNORED 0
  { d with host := { d.host with
      sq := tblSet SqRec.init d.host.sq 512 SqRec.init, cq := tblSet CqRec.init d.host.cq 64 CqRec.init,
      fetched := d.host.fetched.filter (fun f => f.ring ≠ .adm), admDone := 0, admCopied := 0, admEvents := 0, admLost := 0 } }

/-- A VF disappears or is reset: its contexts are killed by it, its sessions end (R426, R489). -/
def vfGone (fn : FnId) : Act := fun f m d =>
  ((killAll (d.ctxsOf fn) fn.val).andThen (Act.dev (fun d => d.endSessions (fun g => g = fn)))) f m d

/-- A function-level reset of the PF (R426): every context is killed, every VF disabled, the PF's rings reset. -/
def pfReset : Act :=
  (killAll allCtx 0x8002).andThen (Act.dev (fun d =>
    ({ d with host := { d.host with numVfs := 0 } }.endSessions (fun _ => true)).resetPfRings))

/-- FUNCTION_LEVEL_RESET (R426, R565). -/
def execFunctionLevelReset (fn : FnId) (s : State) : Host.Outcome State Fault Refusal :=
  .next (s.run (fun f m d =>
    if !d.hostUp then { dev := d }
    else if fn = 0 then pfReset f m d
    else if fn.val ≤ d.host.numVfs then vfGone fn f m d else { dev := d }))

/-- VF_REMOVAL (R426): the VFs above the new NumVFs disappear; 0 is VF Enable cleared. -/
def execVfRemoval (numVfs : FnId) (s : State) : Host.Outcome State Fault Refusal :=
  .next (s.run (fun f m d =>
    if d.hostUp && numVfs.val < d.host.numVfs then
      let gone := (List.finRange 64).filter (fun v => numVfs.val < v.val && v.val ≤ d.host.numVfs)
      ((Act.each vfGone gone).andThen (Act.dev (fun d => { d with host := { d.host with numVfs := numVfs.val } }))) f m d
    else { dev := d }))

/-- VF_ENABLE (R425, R460): VFs up to NumVFs come into existence. -/
def execVfEnable (numVfs : FnId) (s : State) : Host.Outcome State Fault Refusal :=
  .next (s.run (Act.dev (fun d =>
    if d.hostUp && d.host.numVfs < numVfs.val then { d with host := { d.host with numVfs := numVfs.val } } else d)))

/-- HOST_LINK_RESET (R426, R513): the host interface resets as the PF does and its link retrains. -/
def execHostLinkReset (s : State) : Host.Outcome State Fault Refusal :=
  .next (s.run (fun f m d => if d.hostUp then pfReset f m d else { dev := d }))

/-! ### CXL.mem -/

/-- The local address of a DPA byte, where a HOST unit backs it (R427, R447). -/
def Dev.dpaLocal (d : Dev) (a : Nat) : Option Nat :=
  if a < 2 ^ 41 then (d.dpaUnit (a / granule)).map (fun u => unitAddr u + a % granule) else none

/-- CXL.mem is served: negotiated by the host, host interface up (R427, R508). -/
def Dev.cxlUp (d : Dev) : Bool := d.hostUp && d.host.cxl

/-- CXL_MEM_READ (R427, R447, R500): a line; poisoned all-ones from a released granule, poison after ERASE. -/
def execCxlMemRead (line : BitVec 35) (s : State) : Host.Outcome State Fault Refusal :=
  .next (s.run (fun _ m d =>
    if !d.cxlUp then { dev := d }
    else match d.dpaLocal (64 * line.toNat) with
      | none => { dev := (d.count HOST_MOD_STAT.HOST_UNMAPPED).emit (.cxl (BitVec.allOnes 512) true) }
      | some a =>
        if d.slotLoaded 0 then { dev := d.emit (.cxl (BitVec.ofNat 512 (m.num a 64)) (m.poisoned a 64)) }
        else { dev := d.emit (.cxl (BitVec.allOnes 512) true) }))

/-- CXL_MEM_WRITE (R427, R447): a line; discarded and counted for a released granule. -/
def execCxlMemWrite (line : BitVec 35) (data : BitVec 512) (s : State) : Host.Outcome State Fault Refusal :=
  .next (s.run (fun _ _ d =>
    if !d.cxlUp then { dev := d }
    else match d.dpaLocal (64 * line.toNat) with
      | none => { dev := d.count HOST_MOD_STAT.HOST_UNMAPPED }
      | some a => if d.slotLoaded 0 then { dev := d, mem := [.write a (leBytes 64 data.toNat) false] } else { dev := d }))

end Sys2Proof.Machine
end

