-- ==== Sys2Proof/Machine/HostCmd.lean ====
section
/-! DEFINITION. What every host command shares: its start (R432, R461), its completion (R434, R437, R446), its checks
of fields (R431, R437, R441), and the movement of bytes by pieces that lie within one line. -/

namespace Sys2Proof.Machine

/-! ### Statuses of R437 -/

def hOk : Nat := 0x00
def hBadOpcode : Nat := 0x01
def hBadField : Nat := 0x02
def hBadState : Nat := 0x03
def hPreempted : Nat := 0x04
def hConflict : Nat := 0x05
def hBadUnit : Nat := 0x06
def hBadMode : Nat := 0x07
def hBadRing : Nat := 0x08
def hBadContainer : Nat := 0x09
def hNoMem : Nat := 0x0C
def hNotAdmitted : Nat := 0x0D
def hNotLocked : Nat := 0x0E
def hBadPeriod : Nat := 0x0F
def hLate : Nat := 0x10
def hAccess : Nat := 0x11
def hAuth : Nat := 0x12
def hNoKey : Nat := 0x13
def hPoison : Nat := 0x16
def hProtection : Nat := 0x17

/-! ### Start and completion -/

/-- Replaces a fetched command's record. -/
def Dev.putFetched (d : Dev) (old new : Fetched) : Dev :=
  { d with host := { d.host with fetched := d.host.fetched.map (fun f => if f = old then new else f) } }

/-- The fetched command that a row starts: the first of its ring that has not begun, with FENCE only once every earlier
one of its ring has completed (R432). -/
def Dev.hostNext (d : Dev) (h : HostCmd) : Option Fetched :=
  match d.host.fetched.find? (fun f => f.ring = h.ring && !f.begun) with
  | none => none
  | some f =>
    let earlier := d.host.fetched.any (fun g => g.ring = h.ring && g.begun)
    if f.entry = sub h.entry 0 64 && !(bit (rdb f.entry 1) 0 && earlier) then some f else none

/-- The master that a ring's orders come from, for R7. -/
def ringMaster : HostRing → Master
  | .adm => .pf
  | .sq _ _ => .vf

/-- The code of the master that gives a ring's orders (R461). -/
def Dev.ringCode (d : Dev) : HostRing → Nat
  | .adm => 0x8002
  | .sq c _ => (d.ctxAt c).owner.val

/-- Whether a contradictory order of the same cycle outranks a ring's: by master, and among virtual functions by the
lower context number (R7, R461).
DESIGN CHOICE, log 14. -/
def outranks (x : Rival) (r : HostRing) : Bool :=
  Master.rank x.master < Master.rank (ringMaster r)
    || (x.master = .vf && match r with | .sq c _ => x.ctx.val < c.val | .adm => false)

/-- A host command starts: it is the next of its ring, its opcode is among the row's, and it is not preempted; then
`body` performs it with its record, which has begun (R432, R440, R461).
DESIGN CHOICE, log 9.
DEDUCED, log 24. -/
def hostRow (ops : List Nat) (h : HostCmd) (body : Fetched → Act) : Act := fun f m d =>
  if !d.hostUp then { dev := d }
  else match d.hostNext h with
    | none => { dev := d }
    | some x =>
      if !ops.contains (rdb x.entry 0) then { dev := d }
      else match h.rival with
        | some r =>
          if outranks r h.ring then { dev := (d.dropFetched x).complete x.ring x.entry x.sqHead hPreempted (rivalCode r) 0 0 }
          else
            let y := { x with begun := true }
            body y f m (d.putFetched x y)
        | none =>
          let y := { x with begun := true }
          body y f m (d.putFetched x y)

/-- A command that completes with a status and changes nothing else. -/
def refuse (x : Fetched) (code : Nat) : Act := Act.dev (fun d => d.finish x code 0 0)

/-- A command whose work takes its time owes its completion, which HOST_COMMAND_COMPLETE posts (R446). -/
def Dev.owe (d : Dev) (x : Fetched) (code r0 r1 : Nat) : Dev := d.putFetched x { x with owes := some (code, r0, r1) }

/-- Completes at once, or owes the completion while dirty units are filled (R299). -/
def Dev.finishAfterFill (d : Dev) (x : Fetched) (dirty : Bool) (code r0 r1 : Nat) : Dev :=
  if dirty then d.owe x code r0 r1 else d.finish x code r0 r1

/-- The context that a command names: a PF command by its CONTEXT byte, else the context of the ring (R431, R440). -/
def cmdCtx (x : Fetched) : Option CtxId :=
  match x.ring with
  | .sq c _ => some c
  | .adm => if rdb x.entry 2 < 64 then some (Fin.ofNat 64 (rdb x.entry 2)) else none

/-- Whether the reserved bytes of an entry are zero: FLAGS [7:1], bytes 3 to 7, and every byte of ARGS outside the
listed ranges (R431, R441). -/
def argsClean (e : Bytes) (used : List (Nat × Nat)) : Bool :=
  rdb e 1 < 2 && rd e 3 5 = 0
    && (List.range 48).all (fun i => used.any (fun u => u.1 ≤ i + 16 && i + 16 < u.1 + u.2) || rdb e (i + 16) = 0)

/-- A command of the PF or a VF on a context: the context's state must be listed (R440), the entry's reserved bytes
zero (R437); then `body`.
DEDUCED, log 28. -/
def ctxCommand (states : List CtxState) (used : List (Nat × Nat)) (x : Fetched) (body : CtxId → Ctx → Act) : Act :=
  fun f m d =>
    match cmdCtx x with
    | none => refuse x hBadField f m d
    | some c =>
      let y := d.ctxAt c
      if !states.contains y.state then refuse x hBadState f m d
      else if !argsClean x.entry used then refuse x hBadField f m d
      else body c y f m d

/-- HOST_COMMAND_COMPLETE (R299, R446): a command that owes its completion posts it. -/
def execHostCommandComplete (c : Option CtxId) (tag : W64) (s : State) : Host.Outcome State Fault Refusal :=
  .next (s.run (Act.dev (fun d =>
    match d.host.fetched.find? (fun f => ringCtx f.ring = c && rd f.entry 8 8 = tag.toNat && f.owes.isSome) with
    | some f => match f.owes with
      | some (code, r0, r1) => d.finish f code r0 r1
      | none => d
    | none => d)))

/-! ### Pieces -/

/-- Cuts a range at the boundaries of lines. -/
def cut64 : Nat → Nat → Nat → List (Nat × Nat)
  | 0, _, _ => []
  | fuel + 1, a, n => if n = 0 then [] else
    let k := Nat.min n (64 - a % 64)
    (a, k) :: cut64 fuel (a + k) (n - k)

/-- The pieces of a range, each within one line. -/
def pieces (a n : Nat) : List (Nat × Nat) := cut64 (n / 64 + 2) a n

/-- Performs a step for each element in order, each on the memory that the steps before left, until one stops. -/
def walkList {A E : Type} (step : Mem → Dev → A → Option E × Dev × List MemEff) :
    List A → Mem → Dev → Option E × Dev × List MemEff
  | [], _, d => (none, d, [])
  | x :: xs, m, d =>
    let (e, d, es) := step m d x
    match e with
    | some e => (some e, d, es)
    | none =>
      let (e, d, es2) := walkList step xs (m.apply es) d
      (e, d, es ++ es2)

/-- Whether bytes at a local address lie in a held ring slot (R51, R196). -/
def Dev.heldAt (d : Dev) (a n : Nat) : Bool :=
  match d.coreOf a with
  | some k => d.inHeld k (d.toCoreLocal a) n
  | none => false

/-- Writes bytes of one line to context memory as COPY does: the status and address of a failure (R446).
DEDUCED, log 46. -/
def copyIn (c : CtxId) (data : Bytes) (base : Nat) (m : Mem) (d : Dev) (p : Nat × Nat) :
    Option (Nat × Nat) × Dev × List MemEff :=
  let t := d.translate m c none .write false p.1
  let d := d.cache c p.1 t
  match t.1 with
  | .here (.mem a) ro =>
    if ro || d.heldAt a p.2 then (some (hProtection, p.1), d, [])
    else (none, d.breakLines a p.2, [.write a (sub data (p.1 - base) p.2) false])
  | .here _ _ => (some (hAccess, p.1), d, [])
  | .remote _ _ => (some (hAccess, p.1), d, [])
  | x => (some (x.hostStatus, p.1), d, [])

/-- Reads bytes of one line of context memory to host memory, noting the first poisoned address (R446). -/
def copyOut (c : CtxId) (host base : Nat) (m : Mem) (d : Dev) (p : Nat × Nat) :
    Option (Nat × Nat) × Dev × List MemEff :=
  let t := d.translate m c none .read false p.1
  let d := d.cache c p.1 t
  match t.1 with
  | .here (.mem a) _ => (none, d.hostWrite (host + (p.1 - base)) (m.read a p.2), [])
  | .here _ _ => (some (hAccess, p.1), d, [])
  | .remote _ _ => (some (hAccess, p.1), d, [])
  | x => (some (x.hostStatus, p.1), d, [])

/-- The first context address of a range whose line is poisoned (R437). -/
def Dev.firstPoison (d : Dev) (m : Mem) (c : CtxId) (a n : Nat) : Option Nat :=
  ((pieces a n).find? (fun p => match (d.translate m c none .read false p.1).1 with
    | .here (.mem x) _ => m.poisoned x p.2
    | _ => false)).map (·.1)

/-- RESULT0 of a failure: FAULTED and PROTECTION name the address (R437). -/
def failAddr (st a : Nat) : Nat := if st = 0x15 || st = hProtection then a else 0

end Sys2Proof.Machine
end

