-- ==== Sys2Proof/Machine/HostCtx.lean ====
section
/-! DEFINITION. The host's commands on contexts, memory and images, but for LOAD and START (R440 to R449, R457 to
R459). -/

namespace Sys2Proof.Machine

/-! ### Contexts -/

/-- ASSIGN (R441, R443, R449): a FREE context goes to a VF, with a memory key of its own (R484). -/
def execAssign (h : HostCmd) (s : State) : Host.Outcome State Fault Refusal :=
  .next (s.run (hostRow [0x01] h (fun x =>
    ctxCommand [.free] [(0x10, 1), (0x12, 2), (0x14, 2), (0x18, 4), (0x1C, 4), (0x20, 2)] x (fun c _ =>
      Act.dev (fun d =>
        let e := x.entry
        let vf := rdb e 0x10
        let pkey := rd e 0x12 2
        if vf = 0 || 63 < vf || pkey = 0 || pkey = 0xFFFF || 96 < rd e 0x14 2 then d.finish x hBadField 0 0
        else if allCtx.any (fun o => (d.ctxAt o).state ≠ .free && (d.ctxAt o).pkey = pkey) then d.finish x hConflict 0 0
        else
          let y := { Ctx.init with
            state := .assigned, owner := Fin.ofNat 64 vf, pkey := pkey, coreQuota := rd e 0x14 2,
            hbmQuota := rd e 0x18 4, capQuota := rd e 0x1C 4, shmQuota := rd e 0x20 2 }
          ((d.modCtx c (fun _ => y)).putSlot (c.val + 1) true).finish x hOk 0 0)))))

/-- RELEASE (R440, R449): as KILL, from ASSIGNED or HALTED; it completes when the clearing does. -/
def execRelease (h : HostCmd) (s : State) : Host.Outcome State Fault Refusal :=
  .next (s.run (hostRow [0x02] h (fun x =>
    ctxCommand [.assigned, .halted] [] x (fun c _ => fun f m d => killAct c (d.ringCode x.ring) (some x) f m d))))

/-- KILL (R440, R449). -/
def execKill (h : HostCmd) (s : State) : Host.Outcome State Fault Refusal :=
  .next (s.run (hostRow [0x03] h (fun x =>
    ctxCommand [.assigned, .running, .halted] [] x (fun c _ => fun f m d => killAct c (d.ringCode x.ring) (some x) f m d))))

/-- HALT_AT_BEAT's tick in domain time: BEAT ticks after the present one (R404). -/
def Dev.tickTime (d : Dev) (beat : Nat) : Nat :=
  match d.time.announced with
  | some (p, at') =>
    if at' < beat then
      d.time.tickT + 16 * ((at' - d.time.beat) * d.get BRY_PERIOD.PERIOD + (beat - at') * p)
    else d.time.tickT + 16 * (beat - d.time.beat) * d.get BRY_PERIOD.PERIOD
  | none => d.time.tickT + 16 * (beat - d.time.beat) * d.get BRY_PERIOD.PERIOD

/-- 10 microseconds in units of 1/16 ns. -/
def tenMicros : Nat := 160000

/-- Domain time, where the module's own count stands at `now`: the corrections of the time exchange are added (R405, R407). -/
def Dev.domainTime (d : Dev) (now : Nat) : Nat := ofSigned ((now : Int) + d.time.offset / 250) 64

/-- Whether an order for a beat comes less than 10 microseconds before its tick (R411, R445).
DESIGN CHOICE, log 16. -/
def Dev.tooLate (d : Dev) (beat now : Nat) : Bool := beat ≤ d.time.beat || d.tickTime beat < d.domainTime now + tenMicros

/-- HALT_AT_BEAT (R440, R445): pending until the halt at tick h. -/
def execHaltAtBeat (h : HostCmd) (s : State) : Host.Outcome State Fault Refusal :=
  .next (s.run (hostRow [0x25] h (fun x =>
    ctxCommand [.running] [(0x10, 8)] x (fun c y => Act.dev (fun d =>
      let beat := rd x.entry 0x10 8
      if y.haltAt.isSome then d.finish x hBadState 0 0
      else if !d.locked c then d.finish x hBadMode 0 0
      else if d.tooLate beat h.now.toNat then d.finish x hLate 0 0
      else d.modCtx c (fun y => { y with haltAt := some beat }))))))

/-- HALT_NOW (R440, R445, R449). -/
def execHaltNow (h : HostCmd) (s : State) : Host.Outcome State Fault Refusal :=
  .next (s.run (hostRow [0x26] h (fun x =>
    ctxCommand [.running] [] x (fun c _ => Act.dev (fun d => (d.haltCtx c haltNowReason).finish x hOk 0 0)))))

/-! ### Statistics -/

/-- The counts of R448, over a list of contexts, with the administration ring's where asked. -/
def Dev.statsBlock (d : Dev) (cs : List CtxId) (adm : Bool) : Bytes :=
  let sum := fun (f : CtxId → Nat) => (cs.map f).foldl (· + ·) 0
  let more := fun (n : Nat) => if adm then n else 0
  leBytes 8 (sum (fun c => (d.ctxAt c).done) + more d.host.admDone)
    ++ leBytes 8 (sum (fun c => d.get HOST_CTX_STAT.DB_IGNORED c.val) + more (d.get HOST_MOD_STAT.ADM_DB_IGNORED))
    ++ leBytes 8 (sum (fun c => (d.ctxAt c).events) + more d.host.admEvents)
    ++ leBytes 8 (sum (fun c => (d.ctxAt c).lost) + more d.host.admLost) ++ leBytes 8 (sum (fun c => (d.ctxAt c).overruns))
    ++ leBytes 8 (sum (fun c => (d.ctxAt c).beats)) ++ leBytes 8 (sum (fun c => (d.ctxAt c).copied) + more d.host.admCopied)
    ++ leBytes 8 (sum (fun c => (d.ctxAt c).imported)) ++ zeros 64

/-- STATS (R448): a VF's block covers its context, the PF's all 64 and its own ring. -/
def execStats (h : HostCmd) (s : State) : Host.Outcome State Fault Refusal :=
  .next (s.run (hostRow [0x08] h (fun x => Act.dev (fun d =>
    let dst := rd x.entry 0x10 8
    if !argsClean x.entry [(0x10, 8)] then d.finish x hBadField 0 0
    else match x.ring with
      | .adm => (d.hostWrite dst (d.statsBlock allCtx true)).finish x hOk 0 0
      | .sq c _ => (d.hostWrite dst (d.statsBlock [c] false)).finish x hOk 0 0))))

/-! ### Memory units -/

/-- How many units of a class of device a context owns: HBM, capacity or shared memory, and its quota (R441, R442). -/
def Dev.quotaLeft (d : Dev) (c : CtxId) (dev : Nat) : Nat :=
  let us := d.own.unitsOf c
  let y := d.ctxAt c
  if dev < 8 then y.hbmQuota - (us.filter (· < capUnit0)).length
  else if dev < 0x20 then y.capQuota - (us.filter (fun u => capUnit0 ≤ u && u < shmUnit0)).length
  else y.shmQuota - (us.filter (shmUnit0 ≤ ·)).length

/-- The units that an allocation of a context takes, within its quota (R299, R442). -/
def Dev.allocation (d : Dev) (c : CtxId) (dev count : Nat) : Option (List Nat) :=
  match deviceUnits dev with
  | none => none
  | some (first, size) => if d.quotaLeft c dev < count then none else d.pickUnits first size count

/-- The bytes of a list of global addresses (R442). -/
def Dev.unitList (d : Dev) (us : List Nat) : Bytes := us.flatMap (fun u => leBytes 8 (d.unitGlobal u))

/-- Whether trace capture holds a unit (R530). -/
def Dev.traced (d : Dev) (u : Nat) : Bool :=
  (List.range 8).any (fun n => bit (d.get MMC_TRACE.EN) n && onGroup (sqGroup n 3) u)

/-- MEM_ALLOC (R171, R299, R441, R442, R530). -/
def execMemAlloc (h : HostCmd) (s : State) : Host.Outcome State Fault Refusal :=
  .next (s.run (hostRow [0x21] h (fun x =>
    ctxCommand [.assigned, .halted] [(0x10, 1), (0x11, 1), (0x14, 4), (0x18, 8)] x (fun c _ => fun _ _ d =>
      let e := x.entry
      let dev := rdb e 0x10
      let count := rd e 0x14 4
      if (deviceUnits dev).isNone || 1 < rdb e 0x11 then { dev := d.finish x hBadField 0 0 }
      else if 0x20 ≤ dev && d.flat (dev - 0x20) then { dev := d.finish x hBadMode 0 0 }
      else match d.allocation c dev count with
        | none => { dev := d.finish x hNoMem 0 0 }
        | some us =>
          if us.any d.traced then { dev := d.finish x hConflict 0 0 }
          else
            let dirty := d.anyDirty us
            let fill := d.fillEffs us
            let d := d.hostWrite (rd e 0x18 8) (d.unitList us)
            let d := d.withOwn (d.own.setOwners us (.context c (rdb e 0x11 = 1)))
            let d := d.modCtx c (fun y => { y with given := y.given ++ us })
            { dev := d.finishAfterFill x dirty hOk count 0, mem := fill }))))

/-- The unit of a context that a global address names (R442). -/
def Dev.ownedUnit (d : Dev) (c : CtxId) (ga : Nat) : Option Nat :=
  match unitOf (ga % 2 ^ 48) with
  | none => none
  | some u =>
    if d.isLocal ga && unitAddr u = ga % 2 ^ 48 && (match d.own.ownerOf u with | .context o _ => o = c | _ => false) then some u
    else none

/-- MEM_FREE (R442): checks every address, then frees all to FREE_DIRTY and removes the context's translations. -/
def execMemFree (h : HostCmd) (s : State) : Host.Outcome State Fault Refusal :=
  .next (s.run (hostRow [0x22] h (fun x =>
    ctxCommand [.assigned, .halted] [(0x14, 4), (0x18, 8)] x (fun c _ => Act.dev (fun d =>
      let us := (List.range (rd x.entry 0x14 4)).map (fun i => d.ownedUnit c (rd h.data (8 * i) 8))
      if us.any Option.isNone then d.finish x hAccess 0 0
      else
        let d := d.withOwn (d.own.setOwners (us.filterMap id) .freeDirty)
        (d.invalidate c none).finish x hOk 0 0)))))

/-! ### CTX_SETUP -/

/-- The cores that a mask selects (R441). -/
def coresOf (mask : Nat) : List Nat := bitsOf mask 96

/-- Whether a MEMMODE value is legal (R170, R171). -/
def memModeLegal (v : Nat) : Bool := field v 0 2 < 2 && field v 2 2 < 3 && field v 5 3 = 0

/-- The checks of an assignment of cores (R171, R443, R530): the status of the first that fails. -/
def Dev.coreCheck (d : Dev) (c : CtxId) (cores : List Nat) (mode : Nat) : Option Nat :=
  let dies := (List.range 8).filter (fun n => cores.any (fun k => k / 12 = n))
  if !memModeLegal mode then some hBadMode
  else if (d.ctxAt c).coreQuota < cores.length then some hNoMem
  else if cores.any (fun k => (d.holder k).isSome) then some hConflict
  else if dies.any (fun n => (d.dieMode n).any (· ≠ mode)) then some hConflict
  else if field mode 0 2 = 1 && dies.any (fun n => bit (d.get MMC_TRACE.EN) n) then some hBadMode
  else if field mode 0 2 = 1 && dies.any (fun n => d.own.map.any (fun e =>
      (List.range 4).any (fun q => onGroup (sqGroup n q) e.1) && match e.2 with | .context _ _ => true | _ => false)) then
    some hConflict
  else none

/-- CTX_SETUP (R171, R266, R302, R441, R443, R531): every check comes before anything is bound. -/
def execCtxSetup (h : HostCmd) (s : State) : Host.Outcome State Fault Refusal :=
  .next (s.run (hostRow [0x20] h (fun x =>
    ctxCommand [.assigned] [(0x10, 3), (0x14, 4), (0x18, 8), (0x20, 12), (0x2C, 4), (0x30, 8), (0x38, 2)] x (fun c y =>
      fun f m d =>
        let e := x.entry
        let dev := rdb e 0x10
        let count := rd e 0x14 4
        let cores := coresOf (rd e 0x20 12)
        let off := rd e 0x2C 4
        let n := rd e 0x38 2
        let es := syncEntries (sub h.data 0 (16 * n))
        if y.root.isSome then refuse x hBadState f m d
        else if 7 < dev || 1 < rdb e 0x11 || count = 0 || granule ≤ off || off % 4096 ≠ 0 || 4064 < n then refuse x hBadField f m d
        else match d.coreCheck c cores (rdb e 0x12) with
          | some st => refuse x st f m d
          | none => match d.allocation c dev count with
            | none => refuse x hNoMem f m d
            | some us => match d.checkSync c cores es (fun _ => 0) with
              | some (st, i) => { dev := d.finish x st (16 * i) 0 }
              | none =>
                let stop := Act.each traceStop ((List.range 8).filter (fun k => cores.any (fun j => j / 12 = k)))
                let root := d.unitGlobal (us.headD 0) + off
                let bind : Act := fun _ _ d =>
                  let dirty := d.anyDirty us
                  let fill := d.fillEffs us
                  let d := d.hostWrite (rd e 0x18 8) (d.unitList us)
                  let d := d.withOwn (d.own.setOwners us (.context c (rdb e 0x11 = 1)))
                  let d := d.modCtx c (fun y => { y with cores := cores, memMode := rdb e 0x12, root := some root,
                                                           given := y.given ++ us })
                  { dev := (d.bindSync c es).finishAfterFill x dirty hOk root 0, mem := fill }
                (stop.andThen bind) f m d))))

/-! ### Copies -/

/-- The bytes that a failed copy had moved. -/
def movedBytes (base len : Nat) (e : Option (Nat × Nat)) : Nat :=
  match e with
  | some (_, a) => a - base
  | none => len

/-- COPY (R446): host to context or context to host, piece by piece through the page tables.
DEDUCED, log 47. -/
def execCopy (h : HostCmd) (s : State) : Host.Outcome State Fault Refusal :=
  .next (s.run (hostRow [0x27] h (fun x =>
    ctxCommand [.assigned, .running, .halted] [(0x10, 8), (0x18, 8), (0x20, 8), (0x28, 1)] x (fun c _ => fun f m d =>
      let e := x.entry
      let src := rd e 0x10 8
      let dst := rd e 0x18 8
      let len := rd e 0x20 8
      if len = 0 || 2 ^ 40 < len || 1 < rdb e 0x28 then refuse x hBadField f m d
      else if rdb e 0x28 = 0 then
        let (st, d, es) := walkList (copyIn c h.data dst) (pieces dst len) m d
        let d := d.modCtx c (fun y => { y with copied := y.copied + movedBytes dst len st })
        match st with
        | some (st, a) => { dev := d.owe x st (failAddr st a) 0, mem := es }
        | none => { dev := d.owe x hOk 0 0, mem := es }
      else
        let poison := d.firstPoison m c src len
        let (st, d, es) := walkList (copyOut c dst src) (pieces src len) m d
        let d := d.modCtx c (fun y => { y with copied := y.copied + movedBytes src len st })
        match st, poison with
        | some (st, a), _ => { dev := d.owe x st (failAddr st a) 0, mem := es }
        | none, some a => { dev := d.owe x hPoison a 0, mem := es }
        | none, none => { dev := d.owe x hOk 0 0, mem := es }))))

/-- Whether every byte of a DPA range is backed by a HOST unit that can be read (R310, R447). -/
def Dev.dpaReady (d : Dev) (a n : Nat) : Bool :=
  d.slotLoaded 0 && a + n ≤ 2 ^ 41
    && (List.range ((a + n - 1) / granule - a / granule + 1)).all (fun i => (d.dpaUnit (a / granule + i)).isSome)

/-- The local address of a DPA byte that is backed. -/
def Dev.dpaAt (d : Dev) (a : Nat) : Nat := (d.dpaLocal a).getD 0

/-- The effects of writing bytes to a DPA range, line by line; `src` says where poison comes from. -/
def Dev.dpaWrites (d : Dev) (dst n : Nat) (bytes : Nat → Nat → Bytes) (poison : Nat → Nat → Bool) : List MemEff :=
  (pieces dst n).map (fun p => .write (d.dpaAt p.1) (bytes (p.1 - dst) p.2) (poison (p.1 - dst) p.2))

/-- The bytes of a DPA range, and whether one of them is poisoned. -/
def Dev.dpaRead (d : Dev) (m : Mem) (a n : Nat) : Bytes := (List.range n).map (fun i => m.byte (d.dpaAt (a + i)))
def Dev.dpaPoison (d : Dev) (m : Mem) (a n : Nat) : Bool := (List.range n).any (fun i => m.poisoned (d.dpaAt (a + i)) 1)

/-- HOST_COPY (R310, R441, R447): host memory and DPA addresses only. -/
def execHostCopy (h : HostCmd) (s : State) : Host.Outcome State Fault Refusal :=
  .next (s.run (hostRow [0x07] h (fun x => fun f m d =>
    let e := x.entry
    let src := rd e 0x10 8
    let dst := rd e 0x18 8
    let len := rd e 0x20 8
    let dir := rdb e 0x28
    let count := fun (d : Dev) => { d with host := { d.host with admCopied := d.host.admCopied + len } }
    let bad := ((pieces src len).find? (fun p => d.dpaPoison m p.1 p.2)).map (·.1)
    let done := fun (d : Dev) => match bad with
      | some a => if dir = 0 then d.owe x hOk 0 0 else d.owe x hPoison a 0
      | none => d.owe x hOk 0 0
    if !argsClean e [(0x10, 8), (0x18, 8), (0x20, 8), (0x28, 1)] || len = 0 || 2 ^ 40 < len || 2 < dir then refuse x hBadField f m d
    else if (dir ≠ 1 && !d.dpaReady dst len) || (dir ≠ 0 && !d.dpaReady src len) then refuse x hAccess f m d
    else if dir = 0 then
      { dev := done (count d), mem := d.dpaWrites dst len (fun o n => sub h.data o n) (fun _ _ => false) }
    else if dir = 1 then { dev := done (count (d.hostWrite dst (d.dpaRead m src len))) }
    else
      { dev := done (count d),
        mem := d.dpaWrites dst len (fun o n => d.dpaRead m (src + o) n) (fun o n => d.dpaPoison m (src + o) n) })))

/-! ### The host memory region -/

/-- The DPA granules that a HOST_MEM names; none where the range leaves the region (R427, R441). -/
def hostMemRange (e : Bytes) : Option (List Nat) :=
  let first := rd e 0x14 4
  let n := rd e 0x18 4
  if first + n ≤ 1048576 then some ((List.range n).map (· + first)) else none

/-- OP 1: every granule must be backed; their units become FREE_DIRTY (R447).
DEDUCED, log 54. -/
def hostRelease (x : Fetched) (ks : List Nat) : Act := Act.dev (fun d =>
  if ks.any (fun k => (d.dpaUnit k).isNone) then d.finish x hBadField 0 0
  else (d.withOwn (ks.foldl (fun o k => match d.dpaUnit k with
    | some u => o.releaseDpa k u
    | none => o) d.own)).finish x hOk 0 0)

/-- The granules of a list that lie on a capacity device. -/
def onDevice (ks : List Nat) (m : Nat) : List Nat := ks.filter (fun k => k % 16 = m)

/-- OP 2: every granule must be released; each gets a free unit of its own device, none if one device has too few
(R447). -/
def hostReclaim (x : Fetched) (ks : List Nat) : Act := fun _ _ d =>
  if ks.any (fun k => (d.dpaUnit k).isSome) then { dev := d.finish x hBadField 0 0 }
  else
    let picks := (List.range 16).map (fun m => (m, d.pickUnits (capUnit0 + m * 65536) 65536 (onDevice ks m).length))
    if picks.any (fun p => p.2.isNone) then { dev := d.finish x hNoMem 0 0 }
    else
      let pairs := picks.flatMap (fun p => (onDevice ks p.1).zip (p.2.getD []))
      let us := pairs.map (·.2)
      let give := fun (o : Own) (p : Nat × Nat) => { (o.setOwner p.2 .host) with dpa := tblSet none o.dpa p.1 (some (some p.2)) }
      { dev := (d.withOwn (pairs.foldl give d.own)).finishAfterFill x (d.anyDirty us) hOk 0 0, mem := d.fillEffs us }

/-- HOST_MEM by its OP (R441, R447). -/
def hostMem (x : Fetched) : Act := fun f m d =>
  let e := x.entry
  match hostMemRange e with
  | none => refuse x hBadField f m d
  | some ks =>
    if !argsClean e [(0x10, 1), (0x14, 4), (0x18, 4)] then refuse x hBadField f m d
    else if rdb e 0x10 = 1 then hostRelease x ks f m d
    else if rdb e 0x10 = 2 then hostReclaim x ks f m d
    else refuse x hBadField f m d

/-- HOST_MEM_RELEASE (R447). -/
def execHostMemRelease (h : HostCmd) (s : State) : Host.Outcome State Fault Refusal := .next (s.run (hostRow [0x06] h hostMem))

/-- HOST_MEM_RECLAIM (R447). -/
def execHostMemReclaim (h : HostCmd) (s : State) : Host.Outcome State Fault Refusal := .next (s.run (hostRow [0x06] h hostMem))

/-! ### Images -/

/-- GRANT_IMAGE (R440, R459). -/
def execGrantImage (h : HostCmd) (s : State) : Host.Outcome State Fault Refusal :=
  .next (s.run (hostRow [0x04] h (fun x =>
    ctxCommand [.assigned, .running, .halted] [(0x10, 1)] x (fun c _ => Act.dev (fun d =>
      let i := rdb x.entry 0x10
      match d.own.image i with
      | none => d.finish x hBadField 0 0
      | some (us, gs) =>
        let gs := if gs.contains c then gs else gs ++ [c]
        (d.withOwn { d.own with images := tblSet none d.own.images i (some (us, gs)) }).finish x hOk 0 0)))))

/-- REVOKE_IMAGE (R75, R440, R459): at a grant count of zero the image and its key are destroyed. -/
def execRevokeImage (h : HostCmd) (s : State) : Host.Outcome State Fault Refusal :=
  .next (s.run (hostRow [0x05] h (fun x =>
    ctxCommand [.assigned, .running, .halted] [(0x10, 1)] x (fun c _ => Act.dev (fun d =>
      let i := rdb x.entry 0x10
      if (d.own.image i).isNone then d.finish x hBadField 0 0
      else (if d.own.granted i c then d.revoke i c else d).finish x hOk 0 0)))))

/-! ### Weight import -/

/-- The units of a new image: on one device, or for 0xFF on the eight HBM stacks in turn (R459). -/
def Dev.imageUnits (d : Dev) (dev n : Nat) : Option (List Nat) :=
  if dev = 0xFF then
    let per := fun (k : Nat) => (n + 7 - k) / 8
    let picks := (List.range 8).map (fun k => d.pickUnits (k * 32768) 32768 (per k))
    if picks.any Option.isNone then none
    else some ((List.range n).map (fun i => ((picks.getD (i % 8) none).getD []).getD (i / 8) 0))
  else match deviceUnits dev with
    | none => none
    | some (first, size) => d.pickUnits first size n

/-- The lowest free image number (R459). -/
def Dev.freeImage (d : Dev) : Option Nat := (List.range 63).find? (fun i => (d.own.image i).isNone)

/-- The Ethernet queue that an IMPORT names is an import queue of its context (R480). -/
def Dev.importQueue (d : Dev) (c : CtxId) (q : Nat) : Bool :=
  let i := q / 16 * 32 + q % 16
  q / 16 < 2 && d.flag ETH_QCFG.KIND i && d.get ETH_QCFG.OWNER i = c.val

/-- IMPORT (R440, R441, R457, R459, R480, R500): the import begins; its records come with IMPORT_RECORD. -/
def execImportStream (h : HostCmd) (s : State) : Host.Outcome State Fault Refusal :=
  .next (s.run (hostRow [0x28] h (fun x =>
    ctxCommand [.assigned, .halted] [(0x10, 4), (0x14, 4), (0x18, 8), (0x20, 8), (0x28, 8), (0x30, 1)] x (fun c _ =>
      fun f m d =>
        let e := x.entry
        let srcKind := rdb e 0x10
        let dstKind := rdb e 0x11
        let len := rd e 0x28 8
        let dev := rdb e 0x30
        let key := tblGet [] (d.keysAt c).model (rdb e 0x12)
        let run : ImportRun := ⟨e, x.ring, key, 0, 0, 0, [], none⟩
        if d.mmc.state = .alarm then refuse x hBadState f m d
        else if 2 < srcKind || 1 < dstKind || 15 < rdb e 0x12 || rd e 0x14 4 = 0
            || (dstKind = 1 && dev ≠ 0xFF && ((deviceUnits dev).isNone || 0x20 ≤ dev)) then refuse x hBadField f m d
        else if key = [] then refuse x hNoKey f m d
        else if srcKind = 2 && !d.importQueue c (rdb e 0x13) then refuse x hAccess f m d
        else if dstKind = 0 then { dev := d.modCtx c (fun y => { y with imports := y.imports ++ [run] }) }
        else match d.freeImage, d.imageUnits dev (ceilDiv len granule) with
          | some i, some us =>
            let fill := d.fillEffs us
            let d := d.hostWrite (rd e 0x20 8) (d.unitList us)
            let o := d.own.setOwners us (.image i)
            let d := (d.withOwn { o with images := tblSet none o.images i (some (us, [c])) }).putSlot (65 + i) true
            { dev := d.modCtx c (fun y => { y with imports := y.imports ++ [{ run with image := some i }] }), mem := fill }
          | _, _ => refuse x hNoMem f m d))))

/-- The local address of a plaintext byte of a new image (R459). -/
def Dev.imageAddr (d : Dev) (i pos : Nat) : Nat :=
  let us := ((d.own.image i).map (·.1)).getD []
  unitAddr (us.getD (pos / granule) 0) + pos % granule

/-- Reads bytes of context memory through the page tables for an import from there; none where a page fails. -/
def Dev.ctxRead (d : Dev) (m : Mem) (c : CtxId) (a n : Nat) : Option Bytes :=
  let parts := (pieces a n).map (fun p => match (d.translate m c none .read false p.1).1 with
    | .here (.mem x) _ => some (m.read x p.2)
    | _ => none)
  if parts.any Option.isNone then none else some (parts.flatMap (fun p => p.getD []))

/-- The next record of an import: from host memory as the row brings it, from context memory, or from what the import
queue has delivered (R457, R458, R480). -/
def Dev.nextRecord (d : Dev) (m : Mem) (c : CtxId) (r : ImportRun) (given : Bytes) : Option Bytes :=
  match rdb r.entry 0x10 with
  | 0 => some given
  | 1 =>
    let a := rd r.entry 0x18 8 + r.pos
    (d.ctxRead m c a 32).bind (fun hd => d.ctxRead m c a (32 + Nat.min (rd hd 8 4) 0x1000000 + 16))
  | _ =>
    let n := 32 + rd r.buf 8 4 + 16
    if 32 ≤ r.buf.length && n ≤ r.buf.length then some (r.buf.take n) else none

/-- Whether the header of a record is in order (R457, R458). -/
def recordOk (r : ImportRun) (rec : Bytes) : Bool :=
  let n := rd rec 8 4
  rd rec 0 2 = 0x4957 && rdb rec 2 = 1 && rd rec 4 4 = r.next && 1 ≤ n && n ≤ 0x1000000 && rd rec 0x18 8 = r.offset
    && r.offset + n ≤ rd r.entry 0x28 8

/-- The import's command record, which waits for its completion. -/
def Dev.importCmd (d : Dev) (r : ImportRun) : Option Fetched :=
  d.host.fetched.find? (fun f => f.ring = r.ring && f.entry = r.entry && f.begun)

/-- An import ends: its run is gone and its command completes; a failed image is destroyed (R458, R459). -/
def Dev.importEnd (d : Dev) (c : CtxId) (r : ImportRun) (code r0 rec : Nat) : Dev :=
  let d := d.modCtx c (fun y => { y with imports := y.imports.erase r })
  let d := match r.image with
    | some i => if code = hOk then d else (d.withOwn (d.own.dropImage i)).putSlot (65 + i) false
    | none => d
  let r1 := match r.image with
    | some i => if code = hOk then i else rec * 256
    | none => rec
  match d.importCmd r with
  | some f => d.finish f code r0 r1
  | none => d

/-- Where a piece of an import's plaintext goes. -/
def importWrite (c : CtxId) (r : ImportRun) (plain : Bytes) (m : Mem) (d : Dev) (p : Nat × Nat) :
    Option (Nat × Nat) × Dev × List MemEff :=
  match r.image with
  | some i => (none, d, [.write (d.imageAddr i p.1) (sub plain (p.1 - r.offset) p.2) false])
  | none => copyIn c plain (rd r.entry 0x20 8 + r.offset) m d p

/-- The pieces of a record's destination: positions in the image, or context addresses. -/
def importPieces (r : ImportRun) (n : Nat) : List (Nat × Nat) :=
  match r.image with
  | some _ => pieces r.offset n
  | none => pieces (rd r.entry 0x20 8 + r.offset) n

/-- The destination of a record that is not accepted reads as unwritten again (R300, R458). -/
def Dev.importRefill (d : Dev) (m : Mem) (c : CtxId) (r : ImportRun) (n : Nat) : List MemEff :=
  let here := fun (p : Nat × Nat) => match r.image with
    | some i => some (d.imageAddr i p.1)
    | none => match (d.translate m c none .write false p.1).1 with
      | .here (.mem a) false => some a
      | _ => none
  ((importPieces r n).filter (fun p => p.2 = 64)).filterMap (fun p => (here p).map (fun a => .clear a 64))

/-- IMPORT_RECORD (R457, R458): the next record of the context's oldest import is authenticated and written, or
its import fails.
DEDUCED, log 45. -/
def execImportRecord (c : CtxId) (record : Bytes) (s : State) : Host.Outcome State Fault Refusal :=
  .next (s.run (fun _ m d =>
    match (d.ctxAt c).imports with
    | [] => { dev := d }
    | r :: _ => match d.nextRecord m c r record with
      | none => { dev := d }
      | some rec =>
        let n := rd rec 8 4
        let room := Nat.min n (rd r.entry 0x28 8 - r.offset)
        let open' := if recordOk r rec then
            Config.gcmOpen r.key (sub rec 0x0C 12) (sub rec 0 32) (sub rec 32 n) (sub rec (32 + n) 16) else none
        match open' with
        | none => { dev := d.importEnd c r hAuth 0 r.next, mem := d.importRefill m c r room }
        | some plain =>
          let (st, d, es) := walkList (importWrite c r plain) (importPieces r n) m d
          match st with
          | some (code, a) => { dev := d.importEnd c r code (failAddr code a) r.next, mem := es }
          | none =>
            let r' := { r with next := r.next + 1, offset := r.offset + n, pos := r.pos + 48 + n, buf := r.buf.drop (48 + n) }
            let d := d.modCtx c (fun y => { y with imported := y.imported + n, imports := y.imports.map (fun i => if i = r then r' else i) })
            if r'.next < rd r.entry 0x14 4 then { dev := d, mem := es }
            else { dev := d.importEnd c r' (if r'.offset = rd r.entry 0x28 8 then hOk else hBadField) 0 0, mem := es }))

end Sys2Proof.Machine
end

