-- ==== Sys2Proof/Machine/Load.lean ====
section
/-! DEFINITION. LOAD: the beat-program container, its checks and its binding (R43, R47, R329, R451 to R456). -/

namespace Sys2Proof.Machine

/-- The quads of a port in the committed profile (R326, R327). -/
def Dev.portCount (d : Dev) (k : Nat) : Nat := if d.flag LNK_PROFILE.COMMITTED && k < 12 then d.get LNK_PORT_MAP.COUNT k else 0

/-- Whether a port is an AUX port (R325). -/
def Dev.portAux (d : Dev) (k : Nat) : Bool := d.flag LNK_PORT_MAP.AUX k

/-! ### Reading a container (R451 to R455) -/

/-- Offset, count and entry size of section `s` (R452). -/
def secOff (b : Bytes) (s : Nat) : Nat := rd b (0x30 + 16 * s) 8
def secCount (b : Bytes) (s : Nat) : Nat := rd b (0x38 + 16 * s) 4
def secSize (s : Nat) : Nat := [64, 16, 16, 96, 16, 32, 4].getD s 0
def secMost (s : Nat) : Nat := [8, 1048576, 1536, 96, 32768, 65536, 65536].getD s 0
def secBytes (b : Bytes) (s : Nat) : Nat := secCount b s * secSize s

/-- The entries of a section. -/
def secEntries (b : Bytes) (s : Nat) : List Bytes :=
  (List.range (secCount b s)).map (fun i => sub b (secOff b s + i * secSize s) (secSize s))

/-- The offset of entry `i` of a section. -/
def entryOff (b : Bytes) (s i : Nat) : Nat := secOff b s + i * secSize s

def lapOf (e : Bytes) : Lap := ⟨rd e 0 4, rd e 4 4, rdb e 8, bit (rdb e 9) 0⟩
def regionOf (e : Bytes) : RegionEntry := ⟨rdb e 0, rdb e 1, rdb e 2, bit (rdb e 3) 0, rd e 4 4, rdb e 8⟩
def coreOfEntry (e : Bytes) : CoreEntry :=
  ⟨rdb e 0, rdb e 1, rdb e 2, rd e 4 4, (List.range 8).map (fun t => rd e (0x10 + 8 * t) 8)⟩

/-- The container that the bytes spell. -/
def parseContainer (b : Bytes) : Container :=
  { beatLocked := bit (rdb b 6) 0, det := bit (rdb b 6) 1, lockstep := field (rdb b 6) 2 2, memMode := rdb b 7,
    period := rd b 0x10 4, guard := rd b 0x14 4, pm1 := rd b 0x18 4, iter := rd b 0x1C 4, rank := rd b 0x20 2,
    partner := rd b 0x22 2, diePairs := rd b 0x24 4,
    rings := (secEntries b 0).map (fun e => ⟨e⟩), laps := (secEntries b 1).map lapOf,
    regions := (secEntries b 2).map regionOf, cores := (secEntries b 3).map coreOfEntry,
    restarts := (secEntries b 6).map (fun e => rd e 0 4), digest := Config.sha384 b }

/-! ### Step 1 (R451 to R456): BAD_CONTAINER -/

/-- The first of a list of checks that fails: the offset of its field. -/
def firstBad (checks : List (Bool × Nat)) : Option Nat := (checks.find? (fun c => !c.1)).map (·.2)

/-- The sections that hold entries, with their ranges. -/
def usedSections (b : Bytes) : List Nat := (List.range 7).filter (fun s => secCount b s ≠ 0)

/-- Whether a section overlaps one before it. -/
def overlapsEarlier (b : Bytes) (s : Nat) : Bool :=
  (usedSections b).any (fun t => t < s && secOff b t < secOff b s + secBytes b s && secOff b s < secOff b t + secBytes b t)

/-- Header and sections (R451, R452).
DEDUCED, log 43. -/
def checkHeader (b : Bytes) (len : Nat) : Option Nat :=
  let p := parseContainer b
  firstBad (([(rd b 8 8 = len, 0x08), (rd b 0 4 = 0x51504D42, 0x00), (rd b 4 2 = 1, 0x04),
      (crc32c (wr (sub b 0 len) 0x28 (zeros 4)) = rd b 0x28 4, 0x28)] : List (Bool × Nat))
    ++ (usedSections b).flatMap (fun s =>
      [(secOff b s % 8 = 0 && 160 ≤ secOff b s && secOff b s + secBytes b s ≤ len && !overlapsEarlier b s, 0x30 + 16 * s),
       (secCount b s ≤ secMost s, 0x38 + 16 * s)])
    ++ [(field (rdb b 6) 4 4 = 0 && p.lockstep < 3, 0x06),
        (if p.beatLocked then 2000 ≤ p.period && p.period ≤ 1000000000 else p.period = 0, 0x10),
        (p.beatLocked || p.guard = 0, 0x14), (p.beatLocked || p.pm1 = 0, 0x18), (p.beatLocked || p.iter = 0, 0x1C),
        (p.rank ≤ 32767, 0x20),
        (p.beatLocked || secCount b 0 = 0, 0x38), (p.beatLocked || secCount b 1 = 0, 0x48),
        (p.beatLocked || secCount b 6 = 0, 0x98)])

/-- The beats by which the next entry of a ring must follow: V for a circulation ring, 1 for a resident one (R453). -/
def lapGap (g : RingDesc) : Nat := if g.kind = 1 then g.visits else 1

/-- How many entries of a resident ring start within the 2N beats from a start on (R453). -/
def passesWithin (p : Container) (ri n start : Nat) : Nat :=
  (p.laps.filter (fun l => l.ring = ri &&
    (if p.iter = 1 then start ≤ l.start && l.start < start + 2 * n else lapAge p l.start start 0 < 2 * n))).length

/-- The lap entry `i` (R453): the offset within the entry of the field that breaks a rule. -/
def checkLap (p : Container) (i : Nat) (l : Lap) (flags : Nat) : Option Nat :=
  match p.rings[l.ring]? with
  | none => some 8
  | some g =>
    let before := (p.laps.take i).filter (·.ring = l.ring)
    let wraps := p.iter ≠ 1 && !((p.laps.drop (i + 1)).any (·.ring = l.ring))
    let first := ((p.laps.filter (·.ring = l.ring)).head?.map (·.start)).getD 0
    firstBad [(l.start ≤ p.pm1, 0),
      (match before.getLast? with | some e => e.start + lapGap g ≤ l.start | none => true, 0),
      (!wraps || g.kind ≠ 1 || g.visits ≤ p.pm1 + 1 + first - l.start, 0),
      (g.kind = 1 || passesWithin p l.ring g.length l.start ≤ 2 * g.length, 0),
      (flags < 2 && (!l.grad || g.grad), 9)]

/-- The region places that the descriptors name. -/
def Container.places (p : Container) : List (Nat × Nat) := p.rings.flatMap (fun g => g.regionPlaces.map (fun x => (x.1, x.2.1)))

/-- R453 to R455 over the entries: the offset of the first failing field. -/
def checkEntries (b : Bytes) : Option Nat :=
  let p := parseContainer b
  let laps := p.laps.zipIdx.findSome? (fun e => (checkLap p e.2 e.1 (rdb (sub b (entryOff b 1 e.2) 16) 9)).map (· + entryOff b 1 e.2))
  let region := fun (i : Nat) (r : RegionEntry) =>
    r.die < 8 && r.core < 12 && p.places.contains (coreNo r.die r.core, r.region)
      && !((p.regions.take i).any (fun s => s.die = r.die && s.core = r.core && s.region = r.region))
  let regions := p.regions.zipIdx.findSome? (fun e => if region e.2 e.1 then none else some (entryOff b 2 e.2))
  let missing := p.places.any (fun x => !p.regions.any (fun r => coreNo r.die r.core = x.1 && r.region = x.2))
  let core := fun (i : Nat) (k : CoreEntry) => k.die < 8 && k.core < 12
    && !((p.cores.take i).any (fun j => j.die = k.die && j.core = k.core))
  let cores := p.cores.zipIdx.findSome? (fun e => if core e.2 e.1 then none else some (entryOff b 3 e.2))
  let seg := fun (i : Nat) => rd b (entryOff b 5 i + 8) 8 + rd b (entryOff b 5 i + 16) 8 ≤ b.length
  let segs := (List.range (secCount b 5)).findSome? (fun i => if seg i then none else some (entryOff b 5 i + 8))
  let restart := fun (i r : Nat) => r ≤ p.pm1 && (match p.restarts[i - 1]? with | some q => i = 0 || q < r | none => true)
  let restarts := p.restarts.zipIdx.findSome? (fun e => if restart e.2 e.1 then none else some (entryOff b 6 e.2))
  ((((laps.orElse (fun _ => regions)).orElse (fun _ => if missing then some 0x58 else none)).orElse (fun _ => cores)).orElse
    (fun _ => segs)).orElse (fun _ => restarts)

/-! ### Step 3 (R47, R329): BAD_RING -/

/-- Whether a ring region can be enabled at START: the range check of R192 in the die's hierarchy mode (R47). -/
def Dev.ringFits (d : Dev) (p : Container) (g : RingDesc) (grad : Bool) (n : Nat) : Bool :=
  let core := g.slotCore grad n
  match p.regions.find? (fun r => coreNo r.die r.core = core && r.region = g.regionNo grad) with
  | none => false
  | some r =>
    let reg : Region := { Region.init with base := r.base, slotBytes := g.slotBytes grad, slots := g.slots, layout := r.layout }
    d.inOnePart core reg.base reg.bytes && reg.base % 2048 = 0 && reg.layout ≤ 10
      && (reg.layout = 0 || (0x01000000 ≤ reg.base && reg.base + reg.bytes ≤ 0x02200000))

/-- Whether a die names a slot core of the context that is ADMITTED (R47). -/
def Dev.slotCoreOk (d : Dev) (x : Ctx) (g : RingDesc) (grad : Bool) (n : Nat) : Bool :=
  g.slotIndex grad n < 12 && x.cores.contains (g.slotCore grad n) && d.admitted (csGroup (g.slotCore grad n))

/-- One entry of SLICE_MAP (R47): zero beyond SLICES; else no reserved bit, RELAY_DIE in a DIE_MASK that shares no die
with a later slice's. -/
def RingDesc.sliceOk (g : RingDesc) (i : Nat) : Bool :=
  if i < g.slices then
    field (g.sliceEntry i) 11 5 = 0 && g.dieMask i ≠ 0 && bit (g.dieMask i) (g.relayDie i)
      && (List.range g.slices).all (fun j => j ≤ i || (g.dieMask i &&& g.dieMask j) = 0)
  else g.sliceEntry i = 0

/-- The conditions of R47 on the slices and the slot cores. -/
def Dev.sliceChecks (d : Dev) (x : Ctx) (g : RingDesc) : List (Bool × Nat) :=
  (List.range 8).map (fun i => (g.sliceOk i, 0x24 + 2 * i))
    ++ (List.range 8).map (fun n =>
      (!g.allDies.contains n || (d.slotCoreOk x g false n && (!g.grad || d.slotCoreOk x g true n)), 0x34 + n))

/-- The conditions of R47 and R329 on a descriptor, each with the offset of its failing field. -/
def Dev.ringChecks (d : Dev) (x : Ctx) (p : Container) (ri : Nat) (g : RingDesc) : List (Bool × Nat) :=
  let slicesOk := g.slices = 1 || g.slices = 2 || g.slices = 4 || g.slices = 8
  let unit := 64 * Nat.max g.slices 1
  let core := d.slotCoreOk x g
  let port := fun (k : Nat) => d.portCount k ≠ 0 && !d.portAux k
  let sizes := slicesOk && 2 ≤ g.slots && g.slots ≤ 16 && g.blockBytes % unit = 0 && unit ≤ g.blockBytes
  [(g.id ≠ 0xFFFF && !((p.rings.take ri).any (fun h => h.id = g.id)), 0x00),
   (1 ≤ g.kind && g.kind ≤ 3 && (!g.grad || g.kind = 1), 0x02),
   (g.flags < 4 && (!g.gbramble || g.grad) && (g.grad = (g.gradFormat ≠ 0)), 0x03),
   (2 ≤ g.length && g.length ≤ 32768 && g.position < g.length && g.hinge < g.length && g.visits ≤ g.length
      && (!g.grad || g.visits = g.length), 0x04),
   (port g.upPort, 0x0C), (port g.downPort, 0x0D),
   (unit ≤ g.blockBytes && g.blockBytes % unit = 0 && (!slicesOk || g.sliceBytes false ≤ 2 ^ 25)
      && (!sizes || g.allDies.all (fun n => !core false n || d.ringFits p g false n)), 0x10),
   ((!g.grad && g.gradBytes = 0) || (g.grad && g.gradBytes ≠ 0 && g.gradBytes % unit = 0
      && (!slicesOk || (g.sliceBytes true ≤ 2 ^ 25 && (!g.gbramble || g.slotBytes true ≤ 2 ^ 25)))
      && (!sizes || g.allDies.all (fun n => !core true n || d.ringFits p g true n))), 0x14),
   (1 ≤ g.visits, 0x18), (64 ≤ g.shardBytes && g.shardBytes ≤ 4096 && g.shardBytes % 64 = 0, 0x1A),
   (slicesOk, 0x1E), (g.gradFormat ≤ 2, 0x1F), (2 ≤ g.slots && g.slots ≤ 16, 0x20),
   (g.regionNo false < 64, 0x21), (!g.grad || g.regionNo true < 64, 0x22), (rdb g.raw 0x23 = 0, 0x23)]
  ++ d.sliceChecks x g ++ [(decide (rd g.raw 0x3C 4 = 0), 0x3C)]

/-- The first ring that breaks a condition: its index and the offset of its lowest failing field (R47). -/
def Dev.badRing (d : Dev) (x : Ctx) (p : Container) : Option (Nat × Nat) :=
  p.rings.zipIdx.findSome? (fun e => (firstBad (d.ringChecks x p e.2 e.1)).map (fun o => (e.2, o)))

/-! ### Steps 4 to 6 -/

/-- R43 and step 4 of R456 over the core entries: the status and the entry. -/
def Dev.badCore (d : Dev) (c : CtxId) (p : Container) : Option (Nat × Nat) :=
  p.cores.zipIdx.findSome? (fun e =>
    let k := coreNo e.1.die e.1.core
    match d.holder k with
    | some o => if o ≠ c then some (hConflict, e.2) else if d.admitted (csGroup k) then none else some (hNotAdmitted, e.2)
    | none => some (hBadUnit, e.2))

/-- The ring-channel objects that a program needs on a die: two for every ring region on it (R272). -/
def ringObjects (p : Container) (n : Nat) : Nat := 2 * (p.places.eraseDups.filter (fun x => x.1 / 12 = n)).length

/-- Releases the ring-channel objects that an earlier LOAD reserved. -/
def Dev.dropRingObjs (d : Dev) (c : CtxId) : Dev :=
  let gone := fun (o : SyncObj) => o.ctx = c && (o.kind = kProd || o.kind = kCons)
  { d with sync := { objs := d.sync.objs.filter (fun e => !gone e.2),
                     vids := tblDrop (fun k => k / 32768 = c.val && 0xFE0 ≤ k % 4096) d.sync.vids } }

/-- Reserves RING_PROD and RING_CONS for every ring region on its die (R272). -/
def Dev.reserveRings (d : Dev) (c : CtxId) (p : Container) : Dev :=
  p.rings.zipIdx.foldl (fun d e =>
    e.1.regionPlaces.foldl (fun d pl =>
      [(kProd, 0), (kCons, 1)].foldl (fun d kp =>
        (d.takeSync (pl.1 / 12) { SyncObj.init with
          kind := kp.1, bound := false, ctx := c, vid := ringVid e.2 pl.2.2 kp.2, ringIdx := e.2, ringGrad := pl.2.2,
          ringSlots := e.1.slots }).2) d) d) d

/-- Copies one segment to context memory (R455): the status and address of a failure, with the segment's index. -/
def copySegment (c : CtxId) (b : Bytes) (m : Mem) (d : Dev) (i : Nat) : Option (Nat × Nat × Nat) × Dev × List MemEff :=
  let o := entryOff b 5 i
  let dest := rd b o 8
  let len := rd b (o + 16) 8
  let (e, d, es) := walkList (copyIn c (sub b (rd b (o + 8) 8) len) dest) (pieces dest len) m d
  (e.map (fun x => (x.1, x.2, o)), d, es)

/-- LOAD (R440, R451 to R456): the checks in order, then the binding; the completion is owed while segments are
copied (R446).
DEDUCED, log 44.
DEDUCED, log 53. -/
def execLoad (h : HostCmd) (s : State) : Host.Outcome State Fault Refusal :=
  .next (s.run (hostRow [0x23] h (fun x =>
    ctxCommand [.assigned] [(0x10, 8), (0x18, 8)] x (fun c y => fun f m d =>
      let len := rd x.entry 0x18 8
      let b := sub h.data 0 len
      let p := parseContainer b
      if y.root.isNone || y.started || y.startAt.isSome || d.mmc.state = .alarm then refuse x hBadState f m d
      else if len < 160 then { dev := d.finish x hBadContainer 0x08 0 }
      else match (checkHeader b len).orElse (fun _ => checkEntries b) with
      | some o => { dev := d.finish x hBadContainer o 0 }
      | none =>
        if p.memMode ≠ y.memMode || (p.det && field p.memMode 2 2 = 0) then
          { dev := d.finish x hBadMode (if p.memMode ≠ y.memMode then 0x07 else 0x06) 0 }
        else match d.badRing y p with
        | some (ri, o) => { dev := d.finish x hBadRing (entryOff b 0 ri + o) ri }
        | none => match d.badCore c p with
          | some (st, i) => { dev := d.finish x st (entryOff b 3 i) 0 }
          | none =>
            let es := (secEntries b 4).map (fun e => (⟨e⟩ : SyncEntry))
            let d0 := d.dropRingObjs c
            match d0.checkSync c y.cores es (ringObjects p) with
            | some (st, i) => { dev := d.finish x st (entryOff b 4 i) 0 }
            | none =>
              let (e, d, effs) := walkList (copySegment c b) (List.range (secCount b 5)) m d
              match e with
              | some (st, a, o) => { dev := (d.modCtx c (fun y => { y with loaded := none })).owe x st a o, mem := effs }
              | none =>
                let d := ((d.dropRingObjs c).reserveRings c p).bindSync c es
                { dev := (d.modCtx c (fun y => { y with loaded := some p })).owe x hOk 0 0, mem := effs }))))

end Sys2Proof.Machine
end

