-- ==== Sys2Proof/Machine/BeatStart.lean ====
section
/-! DEFINITION. START (R42, R49, R72, R73, R103 to R106, R152, R196, R272, R275, R411, R416, R444, R449, R493, R519):
its checks, and what it sets up. -/

namespace Sys2Proof.Machine

/-! ### Generators (R103, R104, R106) -/

/-- The mixing function of R104. -/
def mix64 (x : Nat) : Nat :=
  let x := x ^^^ (x >>> 31)
  let x := x * 0xB7E151639D2C4F0B % 2 ^ 64
  let x := x ^^^ (x >>> 29)
  let x := x * 0xC3A5C85C97CB3127 % 2 ^ 64
  x ^^^ (x >>> 32)

/-- The initial state of a generator from the job seed and its stream number (R104). -/
def seedOf (j t : Nat) : Nat :=
  let s := mix64 (j ^^^ mix64 t)
  if s = 0 then 1 else s

/-- A stream number: rank, die, core, unit, lane (R103). -/
def streamNo (rank die core unit lane : Nat) : Nat := rank <<< 17 + die <<< 14 + core <<< 10 + unit <<< 7 + lane

/-- Where the generator of a core's unit and lane is kept: units 0 to 3 the engines' columns, 4 to 7 the vector lanes. -/
def genKey (core unit lane : Nat) : Nat :=
  if unit < 4 then (core * 4 + unit) * 128 + lane else 49152 + (core * 4 + (unit - 4)) * 128 + lane

/-- Seeds the generators of one unit of a core from a value (R104, R145). -/
def Dev.seedUnit (d : Dev) (j rank die core unit : Nat) : Dev :=
  (List.range 128).foldl (fun d lane =>
    let v := BitVec.ofNat 64 (seedOf j (streamNo rank die (core % 12) unit lane))
    { d with gens := tblSet 0 d.gens (genKey core unit lane) v }) d

/-- The units of a part of a core (R25): the vector lanes, E0 and E1, E2 and E3. -/
def partUnits (part : Nat) : List Nat := if part = 0 then [4, 5, 6, 7] else if part = 1 then [0, 1] else [2, 3]

/-- The DIE value of a core's stream numbers: its own, or in die pairs that of the first die of its pair (R416). -/
def Ctx.genDie (x : Ctx) (core : Nat) : Nat :=
  match x.loaded with
  | some p => if p.beatLocked && p.lockstep = 2 then (pairFirst p.diePairs (core / 12)).getD (core / 12) else core / 12
  | none => core / 12

/-- Seeds every generator of a context's cores that is not seeded: all of them at the first START, later only those of
parts that have left ADMITTED and come back (R106). -/
def Dev.seedCtx (d : Dev) (c : CtxId) : Dev :=
  let x := d.ctxAt c
  let rank := (x.loaded.map (·.rank)).getD 0
  x.cores.foldl (fun d k =>
    [0, 1, 2].foldl (fun d part =>
      if bit (d.coreAt k).seeded part then d
      else
        let d := (partUnits part).foldl (fun d u => d.seedUnit x.seed rank (x.genDie k) k u) d
        d.modCore k (fun r => { r with seeded := setField r.seeded part 1 1 })) d) d

/-! ### Threads (R152) -/

/-- The container's core entry of a core. -/
def Ctx.coreEntry (x : Ctx) (core : Nat) : Option CoreEntry :=
  (x.loaded.map (·.cores)).getD [] |>.find? (fun e => coreNo e.die e.core = core)

/-- A thread at its entry: a0 the relative beat, a1 the domain beat, every other register zero. -/
def Thread.atEntry (entry rel beat : Nat) : Thread :=
  { Thread.init with state := .ready, pc := entry, x := tblSet 0 (tblSet 0 [] 10 (BitVec.ofNat 64 rel)) 11 (BitVec.ofNat 64 beat) }

/-- Starts the enabled threads of a core. -/
def Dev.startCore (d : Dev) (x : Ctx) (core rel beat : Nat) : Dev :=
  match x.coreEntry core with
  | none => d
  | some e =>
    (List.range 8).foldl (fun d t =>
      if bit e.enable t then
        { d with thr := tblSet Thread.init d.thr (core * 8 + t) (Thread.atEntry (e.entries.getD t 0) rel beat) }
      else d) d

/-- The threads of a context begin. -/
def Dev.startThreads (d : Dev) (c : CtxId) (rel beat : Nat) : Dev :=
  let x := d.ctxAt c
  x.cores.foldl (fun d k => d.startCore x k rel beat) d

/-- What START resets on a core: threads, queues with their owners from the container, stream engines, handle queues
(R152, R155, R168, R216, R227, R241). -/
def Dev.resetCore (d : Dev) (x : Ctx) (core : Nat) : Dev :=
  let d := { d with thr := tblDrop (fun k => k / 8 = core) d.thr, que := tblDrop (fun k => k / 7 = core) d.que,
                    past := tblDrop (fun k => k / 7 = core) d.past,
                    str := tblDrop (fun k => k / 2 = core) d.str }
  let d := d.modCore core (fun k => { k with handles := [], shorts := [] })
  match x.coreEntry core with
  | none => d
  | some e =>
    (List.range 7).foldl (fun d q =>
      let v := field e.qown (4 * q) 4
      if bit v 3 then
        { d with que := tblSet Queue.init d.que (core * 7 + q) { Queue.init with owner := some (field v 0 3) } }
      else d) d

/-! ### Ring regions (R72, R196, R272) -/

/-- The context's own valid region, not a ring region, that has the number of a ring region or overlaps it (R196). -/
def Dev.ringClash (d : Dev) (p : Container) (g : RingDesc) : Bool :=
  g.regionPlaces.any (fun pl =>
    match p.regions.find? (fun r => coreNo r.die r.core = pl.1 && r.region = pl.2.1) with
    | none => false
    | some r =>
      let n := g.slots * g.slotBytes pl.2.2
      d.regn.any (fun e => e.1 / 64 = pl.1 && e.2.valid && !e.2.ring
        && (e.1 % 64 = pl.2.1 || (r.base < e.2.base + e.2.bytes && e.2.base < r.base + n))))

/-- Sets up and enables a ring region at the first START (R192, R196). -/
def Dev.openRing (d : Dev) (p : Container) (g : RingDesc) (pl : Nat × Nat × Bool) : Dev × List MemEff :=
  match p.regions.find? (fun r => coreNo r.die r.core = pl.1 && r.region = pl.2.1) with
  | none => (d, [])
  | some r =>
    let d := d.modRegion pl.1 pl.2.1 (fun e => { e with
      base := r.base, slotBytes := g.slotBytes pl.2.2, slots := g.slots, tags := true, weight := r.weight, commit := true,
      ring := true, layout := r.layout, expect := if pl.2.2 && g.gbramble then 0 else g.shards pl.2.2 })
    d.enableRegion pl.1 pl.2.1

/-- Binds the reserved ring-channel objects of a context to their identifiers (R272). -/
def Dev.bindRings (d : Dev) (c : CtxId) : Dev :=
  (d.sync.objs.filter (fun e => e.2.ctx = c && (e.2.kind = kProd || e.2.kind = kCons) && !e.2.bound)).foldl (fun d e =>
    (d.modSync (e.1 / 65536) (e.1 % 65536) (fun o => { o with bound := true })).putVid c (e.1 / 65536) e.2.vid
      (some (e.1 % 65536))) d

/-- A START at a restart point: RING_CONS takes RING_PROD, TAIL takes HEAD, slot counts zero, tags EMPTY (R72). -/
def Dev.restartRing (d : Dev) (c : CtxId) (ri : Nat) (pl : Nat × Nat × Bool) : Dev :=
  let d := (d.clearSlots pl.1 pl.2.1).modRegion pl.1 pl.2.1 (fun g => { g with tail := g.head })
  let d := d.putHeld c pl.1 pl.2.1 false
  let die := pl.1 / 12
  match d.ringObj c die ri pl.2.2 0, d.ringObj c die ri pl.2.2 1 with
  | some a, some b => d.moduleUpdate die b (unitCode die 9 0) (d.syncAt die a).value
  | _, _ => d

/-- What START does to the ring regions: set up at the first, adjusted at a restart point, left at a resumption.
DEDUCED, log 33. -/
def Dev.setRings (d : Dev) (c : CtxId) (p : Container) (first resumed : Bool) : Dev × List MemEff :=
  if first then
    let (d, es) := p.rings.foldl (fun acc g =>
      g.regionPlaces.foldl (fun acc pl => let (d, es) := acc.1.openRing p g pl; (d, acc.2 ++ es)) acc) (d, [])
    (d.bindRings c, es)
  else if resumed then (d, [])
  else (p.rings.zipIdx.foldl (fun d e => e.1.regionPlaces.foldl (fun d pl => d.restartRing c e.2 pl) d) d, [])

/-! ### The checks -/

/-- The AUX port in UP or DEGRADED whose quads no other feature holds (R416, R530). -/
def Dev.auxFree (d : Dev) : Bool :=
  (List.range 12).any (fun k => d.portCount k ≠ 0 && d.portAux k && 4 ≤ d.get LNK_PORT_STAT.STATE k
    && !(List.range 36).any (fun q => d.get LNK_QUAD.PORT q = k && d.get LNK_QUAD.STATE q = 4))
  && !d.lockForm 1

/-- The RBEAT that a START may name (R444). -/
def rbeatOk (x : Ctx) (p : Container) (rbeat : Nat) : Bool :=
  if !x.started then rbeat = 0
  else match x.haltRbeat with
    | some r => rbeat = r
    | none => p.restarts.contains rbeat

/-- The checks of a START (R196, R411, R416, R444, R493, R519), in the order of log 31: the status, RESULT1. -/
def Dev.startCheck (d : Dev) (c : CtxId) (p : Container) (b0 rbeat now : Nat) : Option (Nat × Nat) :=
  let x := d.ctxAt c
  let stat := d.get BRY_TIME_STAT.STATE
  if p.beatLocked && !rbeatOk x p rbeat then some (hBadField, 0)
  else if !x.cores.all (fun k => d.admitted (csGroup k)) then some (hNotAdmitted, 0)
  else if !p.beatLocked then none
  else if (!p.rings.isEmpty || p.lockstep = 1) && (tblGet CtxKeys.init d.keep.ctx c.val).link.isNone then some (hNoKey, 0)
  else if p.lockstep ≠ 0 && !p.det then some (hBadMode, 0)
  else if p.lockstep = 1 && !d.auxFree then some (hConflict, 0)
  else match findIdx (fun g => d.ringClash p g) p.rings with
    | some (ri, _) => some (hBadRing, ri)
    | none =>
      if stat ≠ 2 || d.flag BRY_TIME_STAT.OUT_OF_BOUND || d.flag BRY_TIME_STAT.PERIOD_MISMATCH then some (hNotLocked, 0)
      else if d.get BRY_PERIOD.PERIOD ≠ p.period then some (hBadPeriod, 0)
      else if d.tooLate b0 now then some (hLate, 0)
      else none

/-! ### The effect -/

/-- Sync objects at a START: FAULTED flags clear (R270), ARRIVED of LATCH objects zero (R275). -/
def Dev.startSync (d : Dev) (c : CtxId) : Dev :=
  let f := fun (_ : Nat) (o : SyncObj) => if o.ctx = c then { o with faulted := false, arrived := 0 } else o
  let d := { d with sync := { d.sync with objs := tblMap SyncObj.init f d.sync.objs } }
  (List.range 8).foldl (fun d line => if (d.latchObjs line).any (fun e => e.2.ctx = c) then d.latchSettle line else d) d

/-- What every START that passes its checks does before its threads begin.
DEDUCED, log 35. -/
def Dev.prepare (d : Dev) (c : CtxId) (p : Container) (b0 rbeat seed : Nat) : Dev × List MemEff :=
  let x := d.ctxAt c
  let first := !x.started
  let resumed := p.beatLocked && x.haltRbeat.isSome
  let d := d.modCtx c (fun x => { x with
    started := true, seed := if first then seed else x.seed, b0 := b0, r0 := rbeat,
    run0 := if resumed then x.run0 + b0 - x.beat else b0, iters := if first then 0 else x.iters, resumed := resumed,
    haltRbeat := none, overrun := false, overrunSeen := false, ringHaltSent := false, detections := [], lateUnit := none,
    fills := [], lock := { LockStep.init with form := if p.beatLocked then p.lockstep else 0 } })
  let x := d.ctxAt c
  let d := x.cores.foldl (fun d k => d.resetCore x k) d
  let d := (d.seedCtx c).startSync c
  let (d, es) := d.setRings c p first resumed
  let d := if p.beatLocked && !resumed then
      p.rings.zipIdx.foldl (fun d e => [false, true].foldl (fun d g => d.planFills c p e.2 e.1 g b0) d) d
    else d
  (d, es)

/-- START (R440, R444): a context that is not beat-locked runs and completes at once; a beat-locked one runs its origin
fills (R49) and enters RUNNING at tick B₀.
DESIGN CHOICE, log 32. -/
def execStart (h : HostCmd) (s : State) : Host.Outcome State Fault Refusal :=
  .next (s.run (hostRow [0x24] h (fun x =>
    ctxCommand [.assigned, .halted] [(0x10, 8), (0x18, 4), (0x20, 8)] x (fun c y => fun _ _ d =>
      let b0 := rd x.entry 0x10 8
      let rbeat := rd x.entry 0x18 4
      match y.loaded with
      | none => { dev := d.finish x hBadState 0 0 }
      | some p =>
        if y.startAt.isSome || d.mmc.state = .alarm then { dev := d.finish x hBadState 0 0 }
        else match d.startCheck c p b0 rbeat h.now.toNat with
          | some (st, r1) => { dev := d.finish x st 0 r1 }
          | none =>
            let b0 := if p.beatLocked then b0 else d.time.beat
            let (d, es) := d.prepare c p b0 rbeat (rd x.entry 0x20 8)
            if p.beatLocked then
              { dev := (d.modCtx c (fun y => { y with startAt := some b0 })).settleModule, mem := es }
            else
              let d := d.modCtx c (fun y => { y with state := .running })
              { dev := ((d.startThreads c rbeat d.time.beat).finish x hOk 0 0).settleModule, mem := es }))))

end Sys2Proof.Machine
end

