-- ==== Sys2Proof/Machine/Packet.lean ====
section
/-! DEFINITION. Fabric packets: layouts, checks of form, trailers and link keys (R345, R346, R356 to R365, R494). -/

namespace Sys2Proof

open Sys2Proof.Machine

/-! ### Layouts (R356 to R363) -/

/-- The TYPE of a packet. -/
def Pkt.type (p : Pkt) : Nat := p.ty.toNat

/-- The data types (R356). -/
def Pkt.isData (p : Pkt) : Bool := p.type = 0x10 || p.type = 0x11 || p.type = 0x12

/-- The bits of FLAGS (R359). -/
def Pkt.tumbler (p : Pkt) : Bool := bit p.flags.toNat 0
def Pkt.syn (p : Pkt) : Bool := bit p.flags.toNat 1
def Pkt.pmap (p : Pkt) : Bool := bit p.flags.toNat 2
def Pkt.circ (p : Pkt) : Bool := bit p.flags.toNat 3
def Pkt.att (p : Pkt) : Nat := field p.flags.toNat 4 4

/-- A packet with a bit field of FLAGS set. -/
def Pkt.putFlag (p : Pkt) (lo w v : Nat) : Pkt := { p with flags := BitVec.ofNat 8 (setField p.flags.toNat lo w v) }

/-- A control packet of a class that its TYPE may travel on, a data packet likewise (R356, R399, R529). -/
def Pkt.classOk (p : Pkt) : Bool :=
  let tc := p.tc.val
  match p.type with
  | 0x10 => tc = 2 || tc = 3
  | 0x11 => tc = 2
  | 0x12 => tc = 1
  | 0x40 => true
  | 0x41 => true
  | 0x42 => true
  | 0x43 => true
  | 0x50 => tc = 2
  | 0x51 => tc = 2
  | 0x52 => tc = 2
  | 0x53 => tc = 2
  | 0x58 => tc = 0
  | 0x59 => true
  | t => (0x60 ≤ t && t ≤ 0x64 && tc = 0) || (0x70 ≤ t && t ≤ 0x73 && tc = 3)

/-- Link-local packets (R399, R400). -/
def Pkt.linkLocal (p : Pkt) : Bool := 0x60 ≤ p.type && p.type ≤ 0x6F

/-- The types that take sequence numbers (R356). -/
def Pkt.sequenced (p : Pkt) : Bool := !p.linkLocal && p.type ≠ 0x40 && p.type ≠ 0x41 && p.type ≠ 0x42

/-- The classes that travel encrypted (R345). -/
def Pkt.secret (p : Pkt) : Bool := p.tc.val = 1 || p.tc.val = 2

/-- The header, every byte before the body or payload (R357, R358). -/
def Pkt.header (p : Pkt) : Bytes :=
  leBytes 1 p.type ++ leBytes 1 p.flags.toNat ++ leBytes 2 p.pkey.toNat ++ leBytes 2 p.dst.toNat ++ leBytes 2 p.src.toNat
    ++ leBytes 2 p.seq.toNat
    ++ (if p.isData then leBytes 2 p.payload.length ++ leBytes 6 p.ctr.toNat ++ sub p.body 0 14 else leBytes 6 p.ctr.toNat)

/-- The body of a control packet or the payload of a data packet. -/
def Pkt.text (p : Pkt) : Bytes := if p.isData then p.payload else sub p.body 0 32

/-- The bytes of a packet. -/
def Pkt.size (p : Pkt) : Nat := if p.isData then 48 + p.payload.length else 64

/-- The flits of its own that a packet takes (R336). -/
def Pkt.flitCount (p : Pkt) : Nat := ceilDiv p.size 128

/-- A field of a control body, by its offset within the packet (R362). -/
def Pkt.at' (p : Pkt) (o n : Nat) : Nat := rd p.body (o - 0x10) n

/-- A field of SPEC, by its offset within the packet (R363). -/
def Pkt.spec (p : Pkt) (o n : Nat) : Nat := rd p.body (o - 0x12) n

/-- Whether a body keeps to R362. -/
def Pkt.bodyOk (p : Pkt) : Bool :=
  match p.type with
  | 0x40 => p.at' 0x14 1 < 4
  | 0x41 => p.at' 0x14 1 < 4 && 1 ≤ p.at' 0x12 1 && p.at' 0x12 1 ≤ 3
  | 0x42 => p.at' 0x14 1 < 4
  | 0x43 => p.at' 0x13 1 < 4
  | 0x50 =>
    let op := p.at' 0x17 1
    let n := p.at' 0x16 1 + 1
    op = 0 || (op ≤ 9 && (n = 4 || n = 8) && p.at' 0x10 6 % n = 0)
  | 0x53 => 1 ≤ p.at' 0x20 4 && p.at' 0x20 4 ≤ 2 ^ 24
  | _ => true

/-- Whether a packet is well formed as it arrives in a number of flits (R356, R365). -/
def Pkt.wellFormed (p : Pkt) (flits : Nat) : Bool :=
  p.classOk && p.bodyOk && (if p.isData then 64 ≤ p.payload.length && p.payload.length ≤ 4096 && flits = p.flitCount else flits ≤ 1)

/-! ### Trailers (R345, R346, R360, R361) -/

/-- The trailer of the classes in clear. -/
def Pkt.crc (p : Pkt) : BitVec 128 := BitVec.ofNat 128 (crc64 (p.header ++ p.text))

/-- The unit code of an attachment (R359). -/
def attUnit (att : Nat) : Nat :=
  if att < 8 then unitCode att 8 2 else if att = 8 then 0x8E00 else if att = 9 then 0x8F01 else 0x8B00

/-- The IV (R346, R360). -/
def Pkt.iv (p : Pkt) : Bytes := leBytes 2 p.src.toNat ++ leBytes 2 (attUnit p.att) ++ leBytes 8 p.ctr.toNat

/-- The GCM tag under a key; the model's packets carry their text in the clear. -/
def Pkt.tag (p : Pkt) (key : Bytes) : BitVec 128 := Config.gcmTag key p.iv p.header p.text

/-- Whether a trailer is a tag, and then whether it is marked (R361, R392). -/
def Pkt.fits (p : Pkt) (t : BitVec 128) : Option Bool :=
  if p.trailer = t then some false
  else if p.isData && p.secret && !p.circ && p.trailer = t ^^^ 1 then some true
  else none

end Sys2Proof

namespace Sys2Proof.Machine

/-! ### Link keys (R494, R496) -/

/-- The next generation. -/
def LinkKey.advance (k : LinkKey) : LinkKey := ⟨Config.linkKdf k.key (k.gen + 1), k.gen + 1, some k.key⟩

/-- The generation after `n` further ones. -/
def LinkKey.later (k : LinkKey) : Nat → LinkKey
  | 0 => k
  | n + 1 => (k.later n).advance

/-- The link keys of a job: those of its contexts, then the retired one (R496). -/
def Dev.jobLinks (d : Dev) (pkey : Nat) : List (Option CtxId × LinkKey) :=
  let active := allCtx.filterMap (fun c =>
    let x := d.ctxAt c
    if x.state ≠ .free && x.pkey = pkey then (tblGet CtxKeys.init d.keep.ctx c.val).link.map (fun k => (some c, k)) else none)
  active ++ ((tblGet none d.keep.retired pkey).map (fun k => (none, k))).toList

/-- Puts a job's link key in its place. -/
def Dev.putLink (d : Dev) (c : Option CtxId) (pkey : Nat) (k : LinkKey) : Dev :=
  let keep := match c with
    | some c => { d.keep with ctx := tblMod CtxKeys.init d.keep.ctx c.val (fun x => { x with link := some k }) }
    | none => { d.keep with retired := tblSet none d.keep.retired pkey (some k) }
  { d with keep := keep }

/-- How the check of a trailer ends. -/
inductive TagEnd where
  /-- It passes; whether the packet is marked. -/
  | good (marked : Bool)
  | bad
  | noKey
  deriving DecidableEq, Repr

/-- Whether a packet verifies under one of a job's keys: K(g), K(g - 1), then K(g + 1) to K(g + 4); with it the number
of generations to move on (R494). -/
def pktUnder (p : Pkt) (k : LinkKey) : Option (Bool × Nat) :=
  match p.fits (p.tag k.key) with
  | some m => some (m, 0)
  | none => match k.prev.bind (fun o => p.fits (p.tag o)) with
    | some m => some (m, 0)
    | none => [1, 2, 3, 4].findSome? (fun n => (p.fits (p.tag (k.later n).key)).map (fun m => (m, n)))

/-- The check of a trailer, steps 3 and 4 of R382; a packet under a later generation moves the module on (R494).
DEDUCED, log 126. -/
def Dev.openPkt (d : Dev) (p : Pkt) : TagEnd × Dev :=
  if !p.secret then (if p.trailer = p.crc then .good false else .bad, d)
  else
    let ks := d.jobLinks p.pkey.toNat
    if ks.isEmpty then (.noKey, d)
    else match ks.findSome? (fun e => (pktUnder p e.2).map (fun r => (e, r))) with
      | none => (.bad, d)
      | some ((c, k), (m, n)) =>
        (.good m, if n = 0 then d else (d.putLink c p.pkey.toNat (k.later n)).restartCounters p.pkey.toNat)

/-- The counter value at which a module moves to the next generation (R494). -/
def rekeyAt : Nat := 2 ^ 46

/-- Gives a packet of an attachment its counter and trailer (R345, R346, R360, R494); none where an encrypted packet's
job has no key here. -/
def Dev.sealPkt (d : Dev) (att : Nat) (p : Pkt) : Option Pkt × Dev :=
  if !p.secret then
    let p := { p with ctr := 0 }
    (some { p with trailer := p.crc }, d)
  else
    let pkey := p.pkey.toNat
    match d.jobLinks pkey with
    | [] => (none, d)
    | (c, k) :: _ =>
      let slot := att * 65536 + pkey
      let n := tblGet 1 d.rte.ctr slot
      let (k, n, d) := if n < rekeyAt then (k, n, d) else (k.advance, 1, (d.putLink c pkey k.advance).restartCounters pkey)
      let p := { p.putFlag 4 4 att with ctr := BitVec.ofNat 64 n }
      (some { p with trailer := p.tag k.key }, { d with rte := { d.rte with ctr := tblSet 1 d.rte.ctr slot (n + 1) } })

/-! ### Building packets -/

/-- Sends a link-local packet through a port (R400): on TC0, side 0, with the version in force; it takes a credit of its VC.
DEDUCED, log 113. -/
def Dev.sendLocal (d : Dev) (k ty : Nat) (body : Bytes) : Dev :=
  let p := (ctlPkt ty 0 0 0 0 body).putFlag 0 1 (d.get RTE_FLIP.INFORCE)
  let d := { d with lnk := tblMod LnkPort.init d.lnk k (fun x => { x with used := tblMod 0 x.used 0 (· + 1) }) }
  d.emit (.linkLocal (Fin.ofNat 12 k) { p with trailer := p.crc })

/-- A data packet before the router numbers it (R358, R363): `spec` is the SPEC field from offset 0x12. -/
def dataPkt (ty tc pkey dst src : Nat) (spec payload : Bytes) : Pkt :=
  { tc := Fin.ofNat 4 tc, ty := BitVec.ofNat 8 ty, flags := 0, pkey := BitVec.ofNat 16 pkey,
    dst := BitVec.ofNat 16 dst, src := BitVec.ofNat 16 src, seq := 0, ctr := 0, body := sub spec 0 14, payload := payload,
    trailer := 0 }

/-- The segments of a run of `n` bytes (R223), where it is not one short write. -/
def segments (n seg : Nat) : List Nat :=
  let q := n / seg
  let r := n % seg
  if r = 0 then List.replicate q seg
  else if 64 ≤ r || q = 0 then List.replicate q seg ++ [r]
  else (List.replicate (q - 1) seg ++ [seg - 64, 64 + r]).filter (· ≠ 0)

/-- The bit map of poisoned 64-byte pieces of a payload (R364). -/
def poisonBits (ps : List Bool) : Nat := maskOf ((List.range ps.length).filter (fun i => ps.getD i false))

/-- A packet with its POISON_MAP behind it where any piece is poisoned (R364). -/
def OutPkt.withMap (o : OutPkt) (map : Nat) : List OutPkt :=
  if map = 0 then [o]
  else
    let m := ctlPkt 0x59 o.pkt.tc.val o.pkt.pkey.toNat o.pkt.dst.toNat o.pkt.src.toNat (leBytes 8 map)
    [{ o with pkt := o.pkt.putFlag 2 1 1, more := true },
     { o with pkt := m.putFlag 3 1 (b2n o.pkt.circ), src := none, who := .none }]

/-- The packets of a short write or AMO (R231, R362): a SHORT, then SHORT_CONTs; the last one carries what waits. -/
def shortPkts (pkey dst src addr op : Nat) (bs : Bytes) (poison : Bool) (who : Sender) : List OutPkt :=
  let n := bs.length
  let first := ctlPkt 0x50 2 pkey dst src (leBytes 6 addr ++ leBytes 1 (n - 1) ++ leBytes 1 op ++ sub bs 0 24)
  let rest := (chunks 32 n (bs.drop 24)).map (fun b => ctlPkt 0x51 2 pkey dst src b)
  let outs := (first :: rest).flatMap (fun p => (plainOut p).withMap (b2n poison))
  let last := outs.length - 1
  outs.zipIdx.map (fun e => { e.1 with more := e.2 ≠ last, who := if e.2 = last then who else .none })

/-- Marks packets of a deterministic-mode context for their circuit (R371).
DEDUCED, log 123. -/
def OutPkt.onCircuit (o : OutPkt) (i : Nat) : OutPkt :=
  { o with pkt := { o.pkt.putFlag 3 1 1 with dst := BitVec.ofNat 16 i } }

end Sys2Proof.Machine
end

