-- ==== Sys2Proof/Machine/Lockstep.lean ====
section
/-! DEFINITION. Lock-step comparison at the beat (R416 to R421). -/

namespace Sys2Proof.Machine

/-- The 17 digest units of a die (R417). -/
def digestUnits (n : Nat) : List Nat :=
  (List.range 12).map (unitCode n 4) ++ [unitCode n 5 0, unitCode n 6 0, unitCode n 7 0, unitCode n 7 1, unitCode n 9 0]

/-- The 136 digest units of a module (R417). -/
def allDigestUnits : List Nat := (List.range 8).flatMap digestUnits

/-- The pairs of dies of a container (R451). -/
def diePairsOf (v : Nat) : List (Nat × Nat) :=
  ((List.range 4).map (fun k => field v (8 * k) 8)).filterMap (fun p =>
    if bit p 7 then some (field p 0 3, field p 3 3) else none)

/-- The block that carries a digest on the wire (R419). -/
def digestBlock (key : Bytes) (beat unit digest : Nat) : Bytes :=
  Config.aes256 key (leBytes 4 beat ++ leBytes 2 unit ++ zeros 2 ++ leBytes 8 digest)

/-- The job's link key of a context. -/
def Dev.linkKey (d : Dev) (c : CtxId) : Bytes := ((tblGet CtxKeys.init d.keep.ctx c.val).link.map (·.key)).getD []

/-- A lock-step overrun (R420): the mismatching units in rising order, how many of them by a missing digest. -/
def Dev.lockOverrun (d : Dev) (c : CtxId) (beat : Nat) (units : List Nat) (missing expected : Nat) : Dev :=
  match units with
  | [] => d
  | u :: us =>
    let low := us.foldl Nat.min u
    let d := (d.count BRY_LS_STAT.MISMATCHES).put BRY_LS_STAT.LAST_UNIT low
    let d := if 0 < missing then d.count BRY_LS_STAT.MISSING else d
    let d := d.modCtx c (fun x => { x with lock := { x.lock with halt := true } })
    d.detect c [⟨beat, 9, low, 0xFFFF, 0xFFFF, 0, units.length, expected, 0xFF⟩] beat none

/-- Compares the digests of the beat before with the partner's (R420): once all have been heard, or at tick b + 2. -/
def Dev.comparePair (d : Dev) (c : CtxId) (final : Bool) : Dev :=
  let x := d.ctxAt c
  match x.lock.lastBeat with
  | none => d
  | some b =>
    if x.lock.compared = some b then d
    else
      let heard := x.lock.heard.filter (fun h => h.1 = b)
      let block := fun (u : Nat) => (heard.find? (fun h => h.2.1 = u)).map (·.2.2)
      let missing := allDigestUnits.filter (fun u => (block u).isNone)
      if !final && !missing.isEmpty then d
      else
        let key := d.linkKey c
        let bad := allDigestUnits.filter (fun u => block u ≠ some (digestBlock key b u (tblGet 0 x.lock.last u)))
        let d := d.modCtx c (fun x => { x with lock := { x.lock with
          compared := some b, heard := x.lock.heard.filter (fun h => b < h.1) } })
        d.lockOverrun c b bad missing.length 136

/-- The AUX port.
DEDUCED, log 42. -/
def Dev.auxPort (d : Dev) : Option Nat :=
  (List.range 12).find? (fun k => d.flag LNK_PROFILE.COMMITTED && d.get LNK_PORT_MAP.COUNT k ≠ 0 && d.flag LNK_PORT_MAP.AUX k)

/-- Sends the digests of a beat to the partner, one LOCKSTEP packet for each unit (R400, R419). -/
def Dev.sendDigests (d : Dev) (c : CtxId) (beat : Nat) : Dev :=
  match d.auxPort with
  | none => d
  | some k =>
    if d.get LNK_PORT_STAT.STATE k < 4 then d
    else
      let x := d.ctxAt c
      let key := d.linkKey c
      allDigestUnits.foldl (fun d u =>
        let body := leBytes 8 beat ++ digestBlock key beat u (tblGet 0 x.lock.last u) ++ leBytes 2 u ++ leBytes 1 (b2n x.lock.halt)
        d.sendLocal k 0x64 body) d

/-- The digests of the beat that ends become those of the beat before (R417). -/
def Dev.turnDigests (d : Dev) (c : CtxId) (beat : Nat) : Dev :=
  d.modCtx c (fun x => { x with lock := { x.lock with last := x.lock.own, lastBeat := some beat, own := [] } })

/-- Compares the dies of each pair (R419, R420): the mismatching units, named on the first die. -/
def Ctx.pairMismatches (x : Ctx) : List Nat :=
  (diePairsOf x.diePairs).flatMap (fun p =>
    ((digestUnits p.1).zip (digestUnits p.2)).filterMap (fun u =>
      if tblGet 0 x.lock.own u.1 = tblGet 0 x.lock.own u.2 then none else some u.1))

/-- What a tick that ends beat b checks: for a module pair the digests of beat b − 1 whose partner's have not all come;
for die pairs the digests of beat b (R420). -/
def Dev.lockCheck (d : Dev) (c : CtxId) (beat : Nat) : Dev :=
  let x := d.ctxAt c
  if x.lock.form = 1 then d.comparePair c true
  else if x.lock.form = 2 then
    d.lockOverrun c beat x.pairMismatches 0 (17 * (diePairsOf x.diePairs).length)
  else d

/-- After a tick at which a context has passed its checks: its digests turn over, and a member of a module pair sends
them and compares what has come (R419, R421).
DEDUCED, log 40. -/
def Dev.lockTurn (d : Dev) (c : CtxId) (beat : Nat) : Dev :=
  let x := d.ctxAt c
  if x.lock.form = 0 then d
  else
    let d := d.turnDigests c beat
    if x.lock.form = 1 then (d.sendDigests c beat).comparePair c false else d

end Sys2Proof.Machine
end

