-- ==== Sys2Proof/Machine/Beat.lean ====
section
/-! DEFINITION. The beat boundary (R41, R48 to R63, R404, R410, R444, R445): BEAT_TICK and ARRIVAL_DEADLINE. -/

namespace Sys2Proof.Machine

/-! ### Detections -/

/-- The fills of a context that are due at a beat and not complete (R49, R56): an unfinished fill of the module's own is
WORK_LATE of its S1, a slot that is not consumable BLOCK_INCOMPLETE of the die's fabric link. -/
def Dev.dueLate (d : Dev) (c : CtxId) (beat : Nat) (own : Bool) : List Detection :=
  let x := d.ctxAt c
  (x.fills.filter (fun f => f.due = beat && f.own = own)).flatMap (fun f =>
    match x.ring f.ring with
    | none => []
    | some g =>
      if own then
        if f.done then []
        else [⟨beat, 7, strUnit (g.slotCore f.grad (g.relayDie f.slice)) 1, g.id, f.origin, f.lap, 0, 0, f.slice⟩]
      else f.slots.filterMap (fun e =>
        let core := g.slotCore f.grad e.1
        let r := g.regionNo f.grad
        if d.isFull core r e.2 then none
        else some ⟨beat, 5, unitCode e.1 8 2, g.id, f.origin, f.lap, d.slotCount core r e.2, (d.regionAt core r).expect, f.slice⟩))

/-- The relays of a context that are not complete (R50, R62): RELAY_UNACKED of the relaying stream engine. -/
def Dev.relaysLate (d : Dev) (c : CtxId) : List Detection :=
  (d.openMoves c).filterMap (fun e =>
    if e.2.fill then none
    else some ⟨0, 6, strUnit (e.1 / 2) 1, (((d.ctxAt c).ring e.2.ring).map (·.id)).getD 0xFFFF, e.2.origin, e.2.lap, 0, 0, e.2.slice⟩)

/-- Whether a thread stands where a tick of a beat-locked context may find it (R162). -/
def ThState.atTick (s : ThState) : Bool := s = .beat || s = .done || s = .idle

/-- The units of a core with work or a wait outstanding at a tick (R41, R63, R162, R226): a thread's far access that is not
acknowledged is outstanding work too (R288). -/
def Dev.busyUnits (d : Dev) (k : Nat) : List Nat :=
  let rests := fun (t : Thread) => t.state.atTick && t.far.isEmpty
  (if (List.range 8).all (fun t => rests (tblGet Thread.init d.thr (k * 8 + t))) then [] else [cpUnit k])
    ++ (List.range 7).filterMap (fun q =>
      if (tblGet Queue.init d.que (k * 7 + q)).cmds.isEmpty then none else some (queueUnit k q))
    ++ (List.range 2).filterMap (fun s =>
      let e := d.strAt (2 * k + s)
      if e.transfers.all (·.own.isSome) && e.marker.isNone && e.chain.isNone then none else some (strUnit k s))

/-- WORK_LATE of the lowest unit with outstanding work (R65).
DEDUCED, log 37. -/
def Dev.workLate (d : Dev) (c : CtxId) : List Detection :=
  let x := d.ctxAt c
  match x.cores.flatMap d.busyUnits ++ (match x.lateUnit with | some u => [u] | none => []) with
  | [] => []
  | u :: us => [Detection.unitOnly 7 (us.foldl Nat.min u)]

/-- ARRIVAL_DEADLINE (R49, R56, R62): at the next tick minus the guard time. -/
def execArrivalDeadline (c : CtxId) (s : State) : Host.Outcome State Fault Refusal :=
  .next (s.run (Act.dev (fun d =>
    let x := d.ctxAt c
    let next := d.time.beat + 1
    if !d.locked c || x.overrun then d
    else if x.state = .running then
      if x.endsAt next then d else d.detectNow c (d.dueLate c next false)
    else if x.startAt = some next then d.detectNow c (d.dueLate c next true)
    else d)))

/-! ### The tick -/

/-- Threads and rings of a beat begin (R62 step 4). -/
def Dev.issueBeat (d : Dev) (c : CtxId) : Dev := d.issueRings c d.time.beat

/-- A context whose start tick this is (R42, R49, R73, R152, R444). -/
def Dev.beginCtx (d : Dev) (c : CtxId) : Dev :=
  let x := d.ctxAt c
  let b := d.time.beat
  let d := d.modCtx c (fun x => { x with state := .running, startAt := none, beat := b })
  let d := (d.finishOp c opStart 0).settleModule
  if x.overrun then d
  else
    let d := if x.resumed then d else d.rotate c b
    (d.issueBeat c).startThreads c x.r0 b

/-- The checks of a running beat-locked context at the tick that ends a beat (R62 steps 1 and 2, R420). -/
def Dev.tickChecks (d : Dev) (c : CtxId) (ended : Nat) : Dev :=
  let x := d.ctxAt c
  let due := if x.endsAt (ended + 1) then [] else d.dueLate c (ended + 1) false ++ d.dueLate c (ended + 1) true
  let d := d.detect c (due ++ d.relaysLate c ++ d.workLate c) ended none
  d.lockCheck c ended

/-- The beat boundary of a running beat-locked context (R62, R69, R73, R410): it halts by an overrun; or, its slots
rotated, at a pending HALT_AT_BEAT, at a change of the period or at the end of its iterations; or it runs on.
DEDUCED, log 36. -/
def Dev.boundary (d : Dev) (c : CtxId) (periodChange : Bool) : Dev :=
  let b := d.time.beat
  let d := d.modCtx c (fun x => { x with beats := x.beats + 1 })
  let d := if (d.ctxAt c).overrun then d else d.tickChecks c (b - 1)
  if (d.ctxAt c).overrun then d.haltCtx c overrunReason
  else
    let x := d.ctxAt c
    let ends := x.endsAt b
    let d := d.modCtx c (fun x => { x with beat := b, iters := if x.relBeat b = 0 then x.iters + 1 else x.iters,
                                           detections := [] })
    let d := (d.rotate c b).lockTurn c (b - 1)
    if x.haltAt = some b then d.haltCtx c haltAtBeatReason
    else if periodChange then d.haltCtx c periodReason
    else if ends then d.haltCtx c iterReason
    else d.issueBeat c

/-- What a tick is to a context. -/
def Dev.tickCtx (periodChange : Bool) (d : Dev) (c : CtxId) : Dev :=
  let x := d.ctxAt c
  if x.state = .running && d.locked c then d.boundary c periodChange
  else if x.startAt = some d.time.beat then d.beginCtx c
  else d

/-- The counter advances, TICK_T takes the instant, an announced period takes effect (R404, R410). -/
def Dev.advanceBeat (d : Dev) : Bool × Dev :=
  let t := d.time
  let beat := (t.beat + 1) % 2 ^ 64
  let d := { d with time := { t with
    beat := beat, tickT := t.tickT + 16 * d.get BRY_PERIOD.PERIOD, tickCycle := d.cclk } }
  match t.announced with
  | some (p, at') =>
    if at' = beat then (true, { d.put BRY_PERIOD.PERIOD p with time := { d.time with announced := none } }) else (false, d)
  | none => (false, d)

/-- BEAT_TICK (R62, R404, R410, R419, R444, R516): the counter advances, every beat-locked context passes its boundary,
contexts due to start begin, STANDBY units are admitted.  With no period there is no tick. -/
def execBeatTick (s : State) : Host.Outcome State Fault Refusal :=
  .next (s.run (Act.dev (fun d =>
    if d.mmc.state = .off || !d.ticking then d
    else
      let (change, d) := d.advanceBeat
      (allCtx.foldl (Dev.tickCtx change) d).admitStandby)))

end Sys2Proof.Machine
end

