-- ==== Sys2Proof/Machine/Formats.lean ====
section
/-! DEFINITION. Number formats, exact values, rounding and conversions (R77 to R102), and the generator of R100. -/

namespace Sys2Proof.Machine

/-! ### Formats (R77, R78, R81, R82) -/

/-- The codes of R77. -/
def fFP32 : Nat := 0
def fBF16 : Nat := 1
def fFP16 : Nat := 2
def fE4M3 : Nat := 3
def fE5M2 : Nat := 4
def fE3M2 : Nat := 5
def fE2M3 : Nat := 6
def fE2M1 : Nat := 7
def fINT8 : Nat := 8
def fT2 : Nat := 9
def fINT32 : Nat := 10

/-- A floating-point format (R78, R80): fraction bits, bias, the magnitude bits of the largest finite value, of infinity
and of the canonical NaN where there is one, element bits, and whether FTZ touches it (R92). -/
structure FpFmt where
  frac : Nat
  bias : Nat
  largest : Nat
  inf : Option Nat
  nan : Nat
  bits : Nat
  ftz : Bool

/-- The floating-point formats by code (R78, R80). -/
def fpFmt : Nat → Option FpFmt
  | 0 => some ⟨23, 127, 0x7F7FFFFF, some 0x7F800000, 0x7FC00000, 32, true⟩
  | 1 => some ⟨7, 127, 0x7F7F, some 0x7F80, 0x7FC0, 16, true⟩
  | 2 => some ⟨10, 15, 0x7BFF, some 0x7C00, 0x7E00, 16, true⟩
  | 3 => some ⟨3, 7, 0x7E, none, 0x7F, 8, true⟩
  | 4 => some ⟨2, 15, 0x7B, some 0x7C, 0x7E, 8, true⟩
  | 5 => some ⟨2, 3, 0x1F, none, 0, 6, false⟩
  | 6 => some ⟨3, 1, 0x1F, none, 0, 6, false⟩
  | 7 => some ⟨1, 1, 0x7, none, 0, 4, false⟩
  | _ => none

/-- FP32 and BF16. -/
def fp32 : FpFmt := ⟨23, 127, 0x7F7FFFFF, some 0x7F800000, 0x7FC00000, 32, true⟩
def bf16 : FpFmt := ⟨7, 127, 0x7F7F, some 0x7F80, 0x7FC0, 16, true⟩

/-- Whether a code names a format (R77). -/
def fmtOk (f : Nat) : Bool := f ≤ 10

/-- Element bits (R77). -/
def fmtBits (f : Nat) : Nat := [32, 16, 16, 8, 8, 6, 6, 4, 8, 2, 32].getD f 8

/-- Block length, 0 for an unscaled format (R77). -/
def fmtBlock (f : Nat) : Nat := if 5 ≤ f && f ≤ 7 then 32 else if f = 9 then 64 else 0

/-- Bytes of one scale (R82). -/
def scaleBytes (f : Nat) : Nat := if f = 9 then 2 else 1

/-- Whether a format is MX (R83). -/
def fmtMx (f : Nat) : Bool := 5 ≤ f && f ≤ 7

/-- Bytes of one packing group and elements in it (R81). -/
def fmtGroup (f : Nat) : Nat × Nat :=
  let b := fmtBits f
  if b = 6 then (3, 4) else if b < 8 then (1, 8 / b) else (b / 8, 1)

/-- Bytes of `n` packed elements (R81). -/
def elemBytes (f n : Nat) : Nat := ceilDiv n (fmtGroup f).2 * (fmtGroup f).1

/-- Bytes of the scales of `n` elements (R82). -/
def scalesBytes (f n : Nat) : Nat := if fmtBlock f = 0 then 0 else n / fmtBlock f * scaleBytes f

/-- The codes of `n` packed elements (R81). -/
def unpackCodes (f n : Nat) (bs : Bytes) : List Nat :=
  let (gb, per) := fmtGroup f
  ((chunks gb (ceilDiv n per) bs).flatMap (fun g => (List.range per).map (fun i => field (leNat g) (fmtBits f * i) (fmtBits f)))).take n

/-- Packs codes; a short final group is filled with zeros (R81). -/
def packCodes (f : Nat) (cs : List Nat) : Bytes :=
  let (gb, per) := fmtGroup f
  (chunks per cs.length cs).flatMap (fun g => leBytes gb (g.foldr (fun c n => c % 2 ^ fmtBits f + n * 2 ^ fmtBits f) 0))

/-! ### Status bits (R99) -/

def fpNX : Nat := 1
def fpUF : Nat := 2
def fpOF : Nat := 4
def fpNV : Nat := 8
def fpFLUSH : Nat := 16
def fpISAT : Nat := 32
def fpT2C : Nat := 64

/-! ### Exact values -/

/-- An exact value: NaN, an infinity, or (−1)^neg × m × 2^e, where m = 0 is a zero with its sign (R80, R94). -/
inductive Num where
  | nan
  | inf (neg : Bool)
  | fin (neg : Bool) (m : Nat) (e : Int)
  deriving DecidableEq, Repr

/-- +0. -/
def Num.zero : Num := .fin false 0 0

def Num.isNan : Num → Bool
  | .nan => true
  | _ => false

def Num.isInf : Num → Bool
  | .inf _ => true
  | _ => false

/-- Whether a value is a zero of either sign. -/
def Num.isZero : Num → Bool
  | .fin _ m _ => m = 0
  | _ => false

/-- The sign. -/
def Num.neg : Num → Bool
  | .nan => false
  | .inf n => n
  | .fin n _ _ => n

/-- The value with its sign inverted. -/
def Num.negate : Num → Num
  | .nan => .nan
  | .inf n => .inf (!n)
  | .fin n m e => .fin (!n) m e

/-- The magnitude. -/
def Num.abs : Num → Num
  | .nan => .nan
  | .inf _ => .inf false
  | .fin _ m e => .fin false m e

/-- An exact integer. -/
def Num.ofInt (i : Int) : Num := .fin (i < 0) i.natAbs 0

/-- m × 2^e as a fraction with q for its unit: numerator and denominator of m × 2^(e − q). -/
def inUnits (m : Nat) (e q : Int) : Nat × Nat :=
  if q ≤ e then (m * 2 ^ (e - q).toNat, 1) else (m, 2 ^ (q - e).toNat)

/-- The signed integer that a finite value is in units of 2^q, where q is at most its exponent. -/
def signedUnits (neg : Bool) (m : Nat) (e q : Int) : Int :=
  let n : Int := (m * 2 ^ (e - q).toNat : Nat)
  if neg then -n else n

/-- The exact product; zero times infinity is NaN with NV (R90). -/
def Num.mul : Num → Num → Num × Nat
  | .nan, _ => (.nan, 0)
  | _, .nan => (.nan, 0)
  | .inf a, .inf b => (.inf (a != b), 0)
  | .inf a, .fin b m _ => if m = 0 then (.nan, fpNV) else (.inf (a != b), 0)
  | .fin a m _, .inf b => if m = 0 then (.nan, fpNV) else (.inf (a != b), 0)
  | .fin a m e, .fin b n f => (.fin (a != b) (m * n) (e + f), 0)

/-- The exact sum; infinities of both signs give NaN with NV; an exact zero is +0 unless both are −0 (R90). -/
def Num.add : Num → Num → Num × Nat
  | .nan, _ => (.nan, 0)
  | _, .nan => (.nan, 0)
  | .inf a, .inf b => if a = b then (.inf a, 0) else (.nan, fpNV)
  | .inf a, .fin _ _ _ => (.inf a, 0)
  | .fin _ _ _, .inf b => (.inf b, 0)
  | .fin a m e, .fin b n f =>
    let q := min e f
    let s := signedUnits a m e q + signedUnits b n f q
    if s = 0 then (.fin (a && b) 0 q, 0) else (.fin (s < 0) s.natAbs q, 0)

/-- Whether one value is greater than another; false where either is NaN (R141). -/
def Num.gt (x y : Num) : Bool :=
  match x, y with
  | .nan, _ => false
  | _, .nan => false
  | .inf a, .inf b => !a && b
  | .inf a, _ => !a
  | _, .inf b => b
  | .fin a m e, .fin b n f =>
    let q := min e f
    signedUnits b n f q < signedUnits a m e q

/-- The value of an element of a block: its code's value times the scale, without rounding; zero times an infinite scale
is NaN (R84, R85). -/
def Num.scaled (x s : Num) : Num := (x.mul s).1

/-! ### Rounding (R93, R95, R96, R101) -/

/-- RMODE 4. -/
def rSR : Nat := 4

/-- The magnitude num ÷ den rounded to an integer by RMODE, with the 16-bit draw r of SR (R93, R101). -/
def roundMag (mode : Nat) (neg : Bool) (num den r : Nat) : Nat :=
  let q := num / den
  let rem := num % den
  let up := match mode with
    | 0 => den < 2 * rem || (den = 2 * rem && q % 2 = 1)
    | 1 => false
    | 2 => neg && rem ≠ 0
    | 3 => !neg && rem ≠ 0
    | _ => r < rem * 65536 / den
  q + b2n up

/-- Whether IEEE 754 gives an infinity on overflow; SR acts as RNE (R96, R101). -/
def overflowInf (mode : Nat) (neg : Bool) : Bool := mode = 0 || mode = 4 || (mode = 2 && neg) || (mode = 3 && !neg)

/-- The bits of a sign and magnitude. -/
def FpFmt.signed (f : FpFmt) (neg : Bool) (mag : Nat) : Nat := b2n neg * 2 ^ (f.bits - 1) + mag

/-- The exponent of the smallest unit. -/
def FpFmt.minUnit (f : FpFmt) : Int := 1 - (f.bias : Int) - f.frac

/-- A non-zero finite magnitude rounded to a format: its magnitude bits as if the exponent had no upper bound, whether
rounding changed it, and whether its value rounded with unbounded exponent is below the smallest normal (R94, R95). -/
def FpFmt.round (f : FpFmt) (mode : Nat) (neg : Bool) (m : Nat) (e : Int) (r : Nat) : Nat × Bool × Bool :=
  let q0 := e + Nat.log2 m - f.frac
  let q := max q0 f.minUnit
  let (num, den) := inUnits m e q
  let k := roundMag mode neg num den r
  let mag := (q - f.minUnit).toNat * 2 ^ f.frac + k
  let (num0, den0) := inUnits m e q0
  let k0 := roundMag mode neg num0 den0 r
  let (tn, td) := inUnits k0 q0 f.minUnit
  (mag, k * den ≠ num, tn < 2 ^ f.frac * td)

/-- One value to an unscaled floating-point format (R94 to R96, R101): the bits and the status. -/
def FpFmt.conv (f : FpFmt) (mode : Nat) (nonsat ftz : Bool) (r : Nat) : Num → Nat × Nat
  | .nan => (f.nan, 0)
  | .inf n =>
    if !nonsat then (f.signed n f.largest, fpOF + fpNX)
    else match f.inf with
      | some i => (f.signed n i, 0)
      | none => (f.nan, fpOF + fpNX)
  | .fin n m e =>
    if m = 0 then (f.signed n 0, 0)
    else
      let (mag, inexact, tiny) := f.round mode n m e r
      if f.largest < mag then
        if nonsat && overflowInf mode n then
          match f.inf with
          | some i => (f.signed n i, fpOF + fpNX)
          | none => (f.nan, fpOF + fpNX)
        else (f.signed n f.largest, fpOF + fpNX)
      else if tiny && ftz && f.ftz then
        if mag = 0 then (f.signed n 0, fpUF + fpNX) else (f.signed n 0, fpUF + fpNX + fpFLUSH)
      else (f.signed n mag, if inexact then (if tiny then fpUF + fpNX else fpNX) else 0)

/-- One value to an integer format of `w` bits (R79, R96). -/
def intConv (w mode r : Nat) : Num → Nat × Nat
  | .nan => (0, fpNV)
  | .inf n => (if n then 2 ^ (w - 1) else 2 ^ (w - 1) - 1, fpOF + fpNX)
  | .fin n m e =>
    let (num, den) := inUnits m e 0
    let k := roundMag mode n num den r
    let v : Int := if n then -(k : Int) else k
    let hi : Int := 2 ^ (w - 1) - 1
    let lo : Int := -(2 ^ (w - 1))
    if hi < v then (ofSigned hi w, fpOF + fpNX)
    else if v < lo then (ofSigned lo w, fpOF + fpNX)
    else (ofSigned v w, if k * den ≠ num then fpNX else 0)

/-- The value that bits of a floating-point format spell (R78, R80). -/
def FpFmt.value (f : FpFmt) (b : Nat) : Num :=
  let n := bit b (f.bits - 1)
  let mag := b % 2 ^ (f.bits - 1)
  if f.inf = some mag then .inf n
  else if f.largest < mag then .nan
  else
    let ex := mag / 2 ^ f.frac
    let fr := mag % 2 ^ f.frac
    if ex = 0 then .fin n fr f.minUnit else .fin n (2 ^ f.frac + fr) (f.minUnit + ex - 1)

/-- Whether bits spell a subnormal that is not zero. -/
def FpFmt.subnormal (f : FpFmt) (b : Nat) : Bool :=
  let mag := b % 2 ^ (f.bits - 1)
  mag ≠ 0 && mag < 2 ^ f.frac

/-- The value with FTZ: a subnormal becomes a zero of its sign, which sets FLUSH (R92, R93). -/
def FpFmt.read (f : FpFmt) (ftz : Bool) (b : Nat) : Num × Nat :=
  if ftz && f.ftz && f.subnormal b then (.fin (bit b (f.bits - 1)) 0 0, fpFLUSH) else (f.value b, 0)

/-- A T2 code (R85).
DEDUCED, log 57. -/
def t2Value (c : Nat) : Num × Nat :=
  match c with
  | 1 => (.fin false 1 0, 0)
  | 3 => (.fin true 1 0, 0)
  | 2 => (.zero, fpT2C)
  | _ => (.zero, 0)

/-- An element code's value, its block's scale apart. -/
def elemValue (f : Nat) (ftz : Bool) (c : Nat) : Num × Nat :=
  match fpFmt f with
  | some p => p.read ftz c
  | none => if f = fT2 then t2Value c else (.ofInt (toSigned c (fmtBits f)), 0)

/-- An E8M0 scale (R84). -/
def e8m0 (c : Nat) : Num := if c = 0xFF then .nan else .fin false 1 ((c : Int) - 127)

/-- The scale of a block (R84, R85, R92). -/
def scaleValue (f : Nat) (ftz : Bool) (c : Nat) : Num × Nat := if f = fT2 then bf16.read ftz c else (e8m0 c, 0)

/-- ORs status bits. -/
def orAll (xs : List Nat) : Nat := xs.foldl (· ||| ·) 0

/-- The exact values of `n` packed elements with their scales, and the status of reading them (R82 to R85, R92). -/
def readElems (f : Nat) (ftz : Bool) (n : Nat) (bs scales : Bytes) : List Num × Nat :=
  let xs := (unpackCodes f n bs).map (elemValue f ftz)
  let st := orAll (xs.map (·.2))
  if fmtBlock f = 0 then (xs.map (·.1), st)
  else
    let w := scaleBytes f
    let ss := (List.range (n / fmtBlock f)).map (fun k => scaleValue f ftz (rd scales (k * w) w))
    ((xs.map (·.1)).zipIdx.map (fun (e : Num × Nat) => e.1.scaled ((ss.map (·.1)).getD (e.2 / fmtBlock f) .nan)),
      st ||| orAll (ss.map (·.2)))

/-! ### Conversion of arrays (R94 to R98, R102) -/

/-- How a command converts: RMODE, OVF, FTZ (R93). -/
structure Conv where
  mode : Nat
  nonsat : Bool
  ftz : Bool
  deriving DecidableEq, Repr

/-- The CONV byte; RMODE 5 to 7 is refused (R93). -/
def convOf (b : Nat) : Option Conv := if 4 < b % 8 then none else some ⟨b % 8, bit b 3, bit b 4⟩

/-- The status of the special values of a block that becomes NaN (R96, R98). -/
def specialStatus (xs : List Num) : Nat :=
  orAll (xs.map (fun x => if x.isNan then fpNV else if x.isInf then fpOF + fpNX else 0))

/-- The magnitude of a finite value as m × 2^e. -/
def Num.mag : Num → Nat × Int
  | .fin _ m e => (m, e)
  | _ => (0, 0)

/-- ⌊log2⌋ of the greatest magnitude of a block of finite values; none where all are zero (R97). -/
def maxLog (xs : List Num) : Option Int :=
  xs.foldl (fun best x =>
    let (m, e) := x.mag
    if m = 0 then best
    else
      let l := e + Nat.log2 m
      match best with
      | none => some l
      | some b => some (max b l)) none

/-- e_max of an MX format (R97). -/
def emax (f : Nat) : Int := if f = fE3M2 then 4 else 2

/-- One element of an MX block after its scale: the clamp sets NX and not OF (R95, R97). -/
def mxElem (p : FpFmt) (mode : Nat) (x : Int) (r : Nat) (v : Num) : Nat × Nat :=
  match v with
  | .fin n m e =>
    if m = 0 then (p.signed n 0, 0)
    else
      let (mag, inexact, tiny) := p.round mode n m (e - x) r
      if p.largest < mag then (p.signed n p.largest, fpNX)
      else (p.signed n mag, if inexact then (if tiny then fpUF + fpNX else fpNX) else 0)
  | _ => (0, 0)

/-- 32 values to one MX block: codes, scale, status (R97). -/
def toMx (f : Nat) (cv : Conv) (rs : List Nat) (xs : List Num) : List Nat × Nat × Nat :=
  let none' := xs.map (fun _ => 0)
  match fpFmt f with
  | none => (none', 0, 0)
  | some p =>
    let sp := specialStatus xs
    if sp ≠ 0 then (none', 0xFF, sp)
    else match maxLog xs with
      | none => (xs.map (fun x => p.signed x.neg 0), 0, 0)
      | some l =>
        let x := l - emax f
        if 127 < x && cv.nonsat then (none', 0xFF, fpOF + fpNX)
        else
          let st := if 127 < x then fpOF + fpNX else 0
          let x := max (min x 127) (-127)
          let es := (xs.zip rs).map (fun (e : Num × Nat) => mxElem p cv.mode x e.2 e.1)
          (es.map (·.1), (x + 127).toNat, st ||| orAll (es.map (·.2)))

/-- One T2 code: x ÷ s rounded by RMODE and clamped; rounding and the clamp set NX (R98). -/
def t2Code (mode : Nat) (s : Nat × Int) (r : Nat) (v : Num) : Nat × Nat :=
  match v with
  | .fin n m e =>
    let q := min e s.2
    let num := m * 2 ^ (e - q).toNat
    let den := s.1 * 2 ^ (s.2 - q).toNat
    let k := roundMag mode n num den r
    (if k = 0 then 0 else if n then 3 else 1, if k * den ≠ num || 1 < k then fpNX else 0)
  | _ => (0, 0)

/-- 64 values to one T2 block: codes, scale, status (R98). -/
def toT2 (cv : Conv) (rs : List Nat) (xs : List Num) : List Nat × Nat × Nat :=
  let none' := xs.map (fun _ => 0)
  let sp := specialStatus xs
  if sp ≠ 0 then (none', bf16.nan, sp)
  else
    let sum := xs.foldl (fun (a : Num) x => (a.add x.abs).1) .zero
    let mu := (sum.mul (.fin false 1 (-6))).1
    let (s, st) := bf16.conv 0 cv.nonsat cv.ftz 0 mu
    if s = bf16.nan || bf16.inf = some s then (none', bf16.nan, st)
    else if s = 0 then (none', 0, st)
    else
      let es := (xs.zip rs).map (fun (e : Num × Nat) => t2Code cv.mode (bf16.value s).mag e.2 e.1)
      (es.map (·.1), s, st ||| orAll (es.map (·.2)))

/-- One value of format sf to an unscaled format: to its own format an infinity returns unchanged (R94).
DEDUCED, log 56.
DEDUCED, log 58. -/
def convOne (sf f : Nat) (cv : Conv) (r : Nat) (x : Num) : Nat × Nat :=
  match fpFmt f with
  | some p => p.conv cv.mode (cv.nonsat || (sf = f && x.isInf)) cv.ftz r x
  | none => intConv (fmtBits f) cv.mode r x

/-- Values of format sf to packed elements and scales, with one draw for each element under SR (R93 to R98, R102). -/
def encodeElems (sf f : Nat) (cv : Conv) (rs : List Nat) (xs : List Num) : Bytes × Bytes × Nat :=
  if fmtBlock f = 0 then
    let es := (xs.zip rs).map (fun (e : Num × Nat) => convOne sf f cv e.2 e.1)
    (packCodes f (es.map (·.1)), [], orAll (es.map (·.2)))
  else
    let bs := (chunks (fmtBlock f) xs.length (xs.zip rs)).map (fun (b : List (Num × Nat)) =>
      if f = fT2 then toT2 cv (b.map (·.2)) (b.map (·.1)) else toMx f cv (b.map (·.2)) (b.map (·.1)))
    (packCodes f (bs.flatMap (·.1)), bs.flatMap (fun b => leBytes (scaleBytes f) b.2.1), orAll (bs.map (·.2.2)))

/-- The canonical form of T2 elements and scales that a conversion to their own format returns (R80, R94, R98): NaN scales
canonical, code 0b10 written as 0b00. -/
def sameT2 (n : Nat) (bs scales : Bytes) : Bytes × Bytes × Nat :=
  let cs := unpackCodes fT2 n bs
  (packCodes fT2 (cs.map (fun c => if c = 2 then 0 else c)),
    (List.range (n / 64)).flatMap (fun k =>
      let s := rd scales (2 * k) 2
      leBytes 2 (if (bf16.value s).isNan then bf16.nan else s)),
    if cs.contains 2 then fpT2C else 0)

/-- A conversion of `n` packed elements from one format to another (R94, R134): elements, scales, status.  A block format
to itself is returned unchanged, NaNs canonical. -/
def convArray (sf df : Nat) (cv : Conv) (n : Nat) (rs : List Nat) (bs scales : Bytes) : Bytes × Bytes × Nat :=
  if sf = df && fmtBlock sf ≠ 0 then
    if sf = fT2 then sameT2 n bs scales else (bs, scales, 0)
  else
    let (xs, st) := readElems sf cv.ftz n bs scales
    let (eb, sb, s2) := encodeElems sf df cv rs xs
    (eb, sb, st ||| s2)

/-! ### FP32 arithmetic (R135, R140) -/

/-- One FP32 rounding to nearest even of an exact value; overflow gives infinity (R90, R135). -/
def round32 (x : Num × Nat) : Num × Nat :=
  let (b, st) := fp32.conv 0 true false 0 x.1
  (fp32.value b, x.2 ||| st)

/-- The FP32 bits of a value that is one. -/
def bits32 (x : Num) : Nat := (fp32.conv 0 true false 0 x).1

/-- The exact value of FP32 bits. -/
def num32 (b : Nat) : Num := fp32.value b

/-- An approximated function (R135, R136, R141): a fixed function of the input bits that the manual bounds and does not
give; a NaN gives the canonical NaN without status.
DESIGN CHOICE, log 60. -/
def approxFn (fn : Nat) (x : Num) : Num × Nat :=
  if x.isNan then (.nan, 0)
  else
    let b := BitVec.ofNat 32 (bits32 x)
    let y := num32 (Config.approx fn b).toNat
    (y, if y.isNan then fpNV else (Config.approxStatus fn b).toNat)

/-- The greatest integer whose square is at most n, by its bits from the top one of `i`. -/
def isqrt (n : Nat) : Nat → Nat → Nat
  | 0, acc => acc
  | i + 1, acc => isqrt n i (if (acc + 2 ^ i) * (acc + 2 ^ i) ≤ n then acc + 2 ^ i else acc)

/-- √ correctly rounded (R141): a negative value gives NaN with NV; √−0 is −0 as in IEEE 754. -/
def sqrt32 : Num → Num × Nat
  | .nan => (.nan, 0)
  | .inf n => if n then (.nan, fpNV) else (.inf false, 0)
  | .fin n m e =>
    if m = 0 then (.fin n 0 e, 0)
    else if n then (.nan, fpNV)
    else
      let e' := if e % 2 = 0 then e - 60 else e - 61
      let v := m * 2 ^ (e - e').toNat
      let s := isqrt v (Nat.log2 v / 2 + 1) 0
      round32 (.fin false (2 * s + b2n (s * s ≠ v)) (e' / 2 - 1), 0)

/-! ### Generators (R100) -/

/-- One step of a generator. -/
def lfsrStep (s : Nat) : Nat :=
  let fb := (bit s 63 != bit s 62) != (bit s 60 != bit s 59)
  s * 2 % 2 ^ 64 + b2n fb

/-- `w` steps. -/
def lfsrSteps : Nat → Nat → Nat
  | 0, s => s
  | w + 1, s => lfsrSteps w (lfsrStep s)

end Sys2Proof.Machine
end

