-- ==== Sys2Proof/Machine/Cores.lean ====
section
/-! DEFINITION. Threads as the rest of the module meets them: faults (R153, R165), far accesses and what comes back for
them (R230, R386, R389), the end of a context's threads (R449). -/

namespace Sys2Proof.Machine

/-- The number of a thread: core × 8 + t. -/
def thrNo (th : ThreadRef) : Nat := coreNo th.die.val th.core.val * 8 + th.t.val

/-- A thread's record. -/
def Dev.thrAt (d : Dev) (k : Nat) : Thread := tblGet Thread.init d.thr k

/-- Changes a thread. -/
def Dev.modThr (d : Dev) (k : Nat) (f : Thread → Thread) : Dev := { d with thr := tblMod Thread.init d.thr k f }

/-- A context that is not beat-locked halts once every thread of it has ended or faulted (R449).
DEDUCED, log 50. -/
def Dev.endThreads (d : Dev) (c : CtxId) : Dev :=
  let x := d.ctxAt c
  let live := x.cores.any (fun k => (List.range 8).any (fun t =>
    let s := (d.thrAt (k * 8 + t)).state
    s ≠ .idle && s ≠ .done && s ≠ .fault))
  if x.state = .running && !d.locked c && !live then d.haltCtx c endedReason else d

/-- Whether a fault can still stop a thread: one that has ended or stopped takes none (R153, R165). -/
def ThState.faults (s : ThState) : Bool := s ≠ .idle && s ≠ .fault && s ≠ .done

/-- A thread fault: the record, FAULT, the reservation ended, the event (R149, R165). -/
def Dev.threadFault (d : Dev) (k cause tval pc : Nat) : Dev :=
  if !(d.thrAt k).state.faults then d
  else
    let d := d.modThr k (fun t => { t with
      state := .fault, cause := cause, tval := tval, tpc := pc, resv := none, stall := none, wait := none })
    match d.holder (k / 8) with
    | none => d
    | some c =>
      let d := if cause = 0x11 then d.modCtx c (fun x => { x with notAdmitted := x.notAdmitted + 1 }) else d
      let d := d.event c 2 (leBytes 8 pc ++ leBytes 8 tval ++ leBytes 2 (cpUnit (k / 8)) ++ leBytes 1 (k % 8) ++ leBytes 1 cause
        ++ leBytes 8 d.time.beat ++ zeros 4)
      d.endThreads c

/-! ### Far accesses -/

/-- The thread fault cause of an answer: a STATUS of R389, or 0x0E FLOW_LOST (R165, R386). -/
def answerCause (st : Nat) : Nat :=
  match st with
  | 3 => 0x05
  | 4 => 0x11
  | 5 => 0x10
  | 6 => 0x0C
  | 7 => 0x08
  | 8 => 0x07
  | 9 => 0x0A
  | 0xA => 0x0B
  | 0xE => 0x0E
  | _ => 0x03

/-- The stream status of an answer (R211, R268, R386, R389). -/
def answerStatus (st : Nat) : Nat :=
  match st with
  | 0 => 0
  | 2 => 4
  | 3 => 5
  | 4 => 6
  | 5 => 0x10
  | 0xA => 7
  | 0xE => 0x0E
  | _ => 9

/-- The threads of a core that wait for a short-write slot try again (R230). -/
def Dev.wakeShorts (d : Dev) (core : Nat) : Dev :=
  (List.range 8).foldl (fun d t => d.modThr (core * 8 + t) (fun t =>
    if t.stall = some .short then { t with state := .ready, stall := none } else t)) d

/-- A core's short write or far access has been answered: its slot is free (R230); with a status other than 0 the thread
that issued it faults (R165). -/
def Dev.farAnswer (d : Dev) (core id st : Nat) : Dev :=
  let owner := (List.range 8).findSome? (fun t =>
    ((d.thrAt (core * 8 + t)).far.find? (fun f => f.1 = id)).map (fun f => (core * 8 + t, f)))
  let d := d.modCore core (fun k => { k with shorts := k.shorts.filter (· ≠ id) })
  let d := match owner with
    | none => d
    | some (k, f) =>
      let d := if st = 0 then d else d.threadFault k (answerCause st) f.2.2.2 f.2.2.1
      d.modThr k (fun t => { t with far := t.far.filter (fun g => g.1 ≠ id) })
  d.wakeShorts core

/-- The answer to a thread's AMO (R308, R391): the old value in rd and the next instruction, or a fault; an uninitialised old
value sets the core's UNINIT word (R317).  The AMO's place on the short-write path is free. -/
def Dev.amoAnswer (d : Dev) (k id st old : Nat) (uninit : Bool) : Dev :=
  let d := match (d.thrAt k).stall with
    | some (.amo a) =>
      if a.id = id && st = 0 then
        let v := if a.bytes = 4 then ofSigned (toSigned old 32) 64 else old
        let d := if uninit then d.noteUninit (k / 8) (cpUnit (k / 8)) a.va else d
        d.modThr k (fun t => { t with
          state := .ready, stall := none, pc := (t.pc + 4) % 2 ^ 64,
          x := if a.rd = 0 then t.x else tblSet 0 t.x a.rd (BitVec.ofNat 64 v) })
      else d
    | _ => d
  d.farAnswer (k / 8) id st

/-- A segment or short write of a transfer has been answered: one fewer is outstanding, and the first status other than
OK stops the transfer (R211, R224). -/
def Dev.segAnswer (d : Dev) (k accept index access named st : Nat) : Dev :=
  d.modStr k (fun s => { s with transfers := s.transfers.map (fun t =>
    if t.own.isNone && t.accept = accept && t.index = index then
      let t := { t with unacked := t.unacked - 1 }
      if t.status = 0 && st ≠ 0 then { t with status := st, access := access, fault := named } else t
    else t) })

/-- A place on the short-write path of a stream engine's core is free (R230). -/
def Dev.freeSlot (d : Dev) (k : Nat) (slot : Option Nat) : Dev :=
  match slot with
  | some id => d.farAnswer (k / 2) id 0
  | none => d

/-- A shard of a relay has been acknowledged: the relay ends with its last (R50). -/
def Dev.relayAnswer (d : Dev) (k : Nat) (mv : RingMove) : Dev :=
  let d := d.modStr k (fun s => { s with transfers := s.transfers.map (fun t =>
    if t.own = some mv then { t with unacked := t.unacked - 1 } else t) })
  if (d.strAt k).transfers.any (fun t => t.own = some mv && t.issued && t.unacked = 0) then d.endMove k mv else d

/-- A thread's load has been refused or lost. -/
def Dev.loadAnswer (d : Dev) (k st : Nat) : Dev :=
  match (d.thrAt k).stall with
  | some (.load l) => if st = 0 then d else d.threadFault k (answerCause st) l.va (d.thrAt k).pc
  | _ => d

/-- What a packet's acknowledgement, refusal or loss does to what waits for it (R384, R386, R389): status 0 for success.
Gets, loads and AMOs that succeed wait on for their data. -/
def Dev.settle (d : Dev) (who : Sender) (st : Nat) : Dev :=
  match who with
  | .none => d
  | .stream k a i v slot => (d.segAnswer k a i 1 v (answerStatus st)).freeSlot k slot
  | .relay k mv => if st = 0 then d.relayAnswer k mv else d
  | .far core id => d.farAnswer core id st
  | .amo k id => if st = 0 then d else d.amoAnswer k id st 0 false
  | .get k a i _ _ v => if st = 0 then d else d.segAnswer k a i 0 v (answerStatus st)
  | .load k => if st = 0 then d else d.loadAnswer k st

end Sys2Proof.Machine
end

