-- ==== Sys2Proof/Machine/Queues.lean ====
section
/-! DEFINITION. The command queues of a core (R119 to R126, R160, R167, R206, R238, R239): acceptance, completion, stop,
restart and clear. -/

namespace Sys2Proof.Machine

/-- A command queue. -/
def Dev.queAt (d : Dev) (core q : Nat) : Queue := tblGet Queue.init d.que (core * 7 + q)

/-- Changes a queue. -/
def Dev.modQue (d : Dev) (core q : Nat) (f : Queue → Queue) : Dev := { d with que := tblMod Queue.init d.que (core * 7 + q) f }

/-- Changes one command of a queue. -/
def Dev.modCmd (d : Dev) (core q accept : Nat) (f : QCmd → QCmd) : Dev :=
  d.modQue core q (fun u => { u with cmds := u.cmds.map (fun x => if x.accept = accept then f x else x) })

/-- The header fields of a command (R126). -/
def QCmd.op (x : QCmd) : Nat := rdb x.bytes 0
def QCmd.sig (x : QCmd) : Bool := bit (rdb x.bytes 1) 0
def QCmd.fence (x : QCmd) : Bool := bit (rdb x.bytes 1) 1
def QCmd.sync (x : QCmd) : Nat := rd x.bytes 2 2 % 4096
def QCmd.tag (x : QCmd) : Nat := rd x.bytes 4 2

/-- Whether a command failed (R123). -/
def QCmd.failed (x : QCmd) : Bool := x.result.any (fun w => w % 256 ≠ 0)

/-- Whether the bytes are a VSEED that names engine k, for a vector unit (R127, R145). -/
def seedsEngine (bs : Bytes) (k : Nat) : Bool := rdb bs 0 = 0x14 && bit (rdb bs 0x10) k

/-! ### Old contents that a race may still show (R121, R214) -/

/-- Whether accept number a comes no later than b, counted modulo 2³² (R160). -/
def notAfter (a b : Nat) : Bool := (b + 2 ^ 32 - a) % 2 ^ 32 < 2 ^ 31

/-- A line as memory holds it, kept for a command. -/
def Mem.past (m : Mem) (accept l : Nat) : Past := ⟨accept, none, l, m.read (64 * l) 64, m.isWritten l, m.isPoison l⟩

/-- Memory with a line as it was. -/
def Mem.withPast (m : Mem) (p : Past) : Mem :=
  { bytes := tblSetList 0 m.bytes (64 * p.line) p.data, written := tblSet false m.written p.line p.written,
    poison := tblSet false m.poison p.line p.poison }

/-- Whether memory holds a line otherwise than it was. -/
def Mem.differs (m : Mem) (p : Past) : Bool := m.past p.accept p.line ≠ { p with until' := none }

/-- What is kept for a queue. -/
def Dev.pastAt (d : Dev) (core q : Nat) : List Past := tblGet [] d.past (core * 7 + q)

/-- Changes what is kept for a queue. -/
def Dev.modPast (d : Dev) (core q : Nat) (f : List Past → List Past) : Dev := { d with past := tblMod [] d.past (core * 7 + q) f }

/-- The lines of an address range as memory holds them, kept for a command. -/
def Dev.keepPast (d : Dev) (m : Mem) (core q accept : Nat) (ls : List Nat) : Dev :=
  if ls.isEmpty then d else d.modPast core q (fun ps => ps ++ ls.map (m.past accept))

/-- What a command that starts now may read as it was: lines that commands of its queue wrote which had not completed when it was
accepted; with FENCE, nothing (R121). -/
def Dev.racing (d : Dev) (core q : Nat) (x : QCmd) : List Past :=
  if x.fence then []
  else (d.pastAt core q).filter (fun p => p.accept ≠ x.accept && p.until'.all (fun n => notAfter x.accept n))

/-- The memory that such a command reads: each raced line as it is or, freely, as it was (R121).
DESIGN CHOICE, log 63.
DEDUCED, log 152. -/
def Dev.raced (d : Dev) (m : Mem) (core q : Nat) (x : QCmd) : Mem × Dev :=
  let ps := (d.racing core q x).filter m.differs
  ((ps.map (·.line)).eraseDups).foldl (fun (a : Mem × Dev) l =>
    let olds := ps.filter (·.line = l)
    let (v, d) := a.2.draw
    match olds[v.toNat % (olds.length + 1)]? with
    | some p => (a.1.withPast p, d)
    | none => (a.1, d)) (m, d)

/-- The descriptors' lines of a CHAIN of stream engine s, where its bytes name core memory (R214). -/
def Dev.chainLines (d : Dev) (core q : Nat) (bs : Bytes) : List Nat :=
  if 5 ≤ q && rdb bs 0 = 0x21 && rd bs 8 4 % 64 = 0 then
    (List.range (rd bs 0xC 2)).filterMap (fun i => (d.coreLocal core (rd bs 8 4 + 64 * i)).map lineOf)
  else []

/-- A marker has been released: the descriptors behind it are what they are now (R214, R226). -/
def Dev.seeAgain (d : Dev) (m : Mem) (core q : Nat) : Dev :=
  if (d.pastAt core q).isEmpty then d else d.modPast core q (fun ps => ps.map (fun p => m.past p.accept p.line))

/-- A command has completed: a race with what it wrote goes as far as the commands accepted by now, and not past a FENCE; with the
queue empty there is none (R121, R122). -/
def Dev.settlePast (d : Dev) (core q : Nat) (x : QCmd) : Dev :=
  if (d.pastAt core q).isEmpty then d
  else if (d.queAt core q).cmds.isEmpty then d.modPast core q (fun _ => [])
  else if 5 ≤ q then d.modPast core q (fun ps => ps.filter (fun p => p.accept ≠ x.accept))
  else d.modPast core q (fun ps => (ps.filter (fun p => !x.fence || p.accept = x.accept)).map (fun p =>
    if p.accept = x.accept then { p with until' := some (d.queAt core q).accepts } else p))

/-! ### Acceptance, completion, stop -/

/-- A queue accepts a command of a thread: its accept number, counted from START (R160). -/
def Dev.accept (d : Dev) (m : Mem) (core q : Nat) (bs : Bytes) (thread : Nat) : Nat × Dev :=
  let n := ((d.queAt core q).accepts + 1) % 2 ^ 32
  let d := d.keepPast m core q n (d.chainLines core q bs)
  let seeds := q = 4 && (List.range 4).any (seedsEngine bs)
  let x : QCmd :=
    { bytes := bs, accept := n, thread := thread, beat := d.time.beat, result := none, flags := 0,
      after := if seeds then (List.range 4).map (fun k => (d.queAt core k).accepts) else [] }
  (n, d.modQue core q (fun u => { u with cmds := u.cmds ++ [x], accepts := n }))

/-- The status bits of a completion are ORed into MFPSTAT (R99, R167). -/
def Dev.orFpstat (d : Dev) (core word : Nat) : Dev := d.modCore core (fun k => { k with fpstat := k.fpstat ||| field word 8 8 })

/-- A queue stops after a failure: the first failure since the last clear or restart is kept (R124, R167). -/
def Dev.stopQue (d : Dev) (core q word tag : Nat) : Dev :=
  d.modQue core q (fun u => { u with stopped := true, fail := if u.fail.isNone then some (word, tag) else u.fail })

/-- A command completes or fails (R122 to R124): it leaves the queue; OK signals its object, a failure stops the queue. -/
def Dev.endCmd (d : Dev) (c : CtxId) (core q : Nat) (x : QCmd) (word : Nat) : Dev :=
  let d := ((d.modQue core q (fun u => { u with
    cmds := u.cmds.filter (fun y => y.accept ≠ x.accept), lastWord := word, lastTag := x.tag })).settlePast core q x).orFpstat core word
  if word % 256 ≠ 0 then d.stopQue core q word x.tag
  else if x.sig then d.cmdSignal c (core / 12) x.sync ⟨d.moduleId, queueUnit core q, none, 2⟩
  else d

/-- The transfer of a stream engine that stopped it: the first in start order with a status other than OK (R237). -/
def Stream.stopper (s : Stream) : Option Transfer := s.transfers.find? (fun t => t.own.isNone && t.status ≠ 0)

/-- RESTART of a stopped stream queue (R238, R240): after FAULTED every transfer goes on; after another status the one that
stopped leaves with its command and the rest of its chain; after PIN_FAULT nothing happens. -/
def Dev.restartStream (d : Dev) (core q : Nat) : Dev :=
  let k := 2 * core + (q - 5)
  match (d.strAt k).stopper with
  | none => d.modQue core q (fun u => { u with stopped := false, fail := none, cmds := u.cmds.filter (fun x => !x.failed) })
  | some t =>
    if t.status = 0xB then d
    else
      let d := d.modQue core q (fun u => { u with stopped := false, fail := none })
      if t.status = 0xA then
        d.modStr k (fun s => { s with transfers := s.transfers.map (fun x =>
          if x.own.isNone && x.accept = t.accept && x.index = t.index then { x with status := 0 } else x) })
      else
        let d := d.modStr k (fun s => { s with
          transfers := s.transfers.filter (fun x => x.own.isSome || x.accept ≠ t.accept || x.index ≠ t.index),
          chain := if s.chain.any (fun ch => ch.accept = t.accept) then none else s.chain,
          marker := if s.chain.any (fun ch => ch.accept = t.accept) then none else s.marker })
        d.modQue core q (fun u => { u with cmds := u.cmds.filter (fun x => x.accept ≠ t.accept) })

/-- RESTART (R167): only a stopped queue is restarted. -/
def Dev.restartQue (d : Dev) (core q : Nat) : Dev :=
  if !(d.queAt core q).stopped then d
  else if q < 5 then d.modQue core q (fun u => { u with stopped := false, fail := none })
  else d.restartStream core q

/-- CLEAR (R124, R167, R239): every queued command completes ABORTED without signalling; the queue is empty and running.  A
LOADB in progress leaves its slot without a tile (R110).
DEDUCED, log 81. -/
def Dev.clearQue (d : Dev) (core q : Nat) : Dev :=
  let d := if q < 4 then d.dropLoadb core q else d
  let d :=
    if q < 5 then d
    else d.modStr (2 * core + (q - 5)) (fun s => { s with
      transfers := s.transfers.filter (·.own.isSome), marker := none, chain := none })
  let d := if (d.pastAt core q).isEmpty then d else d.modPast core q (fun _ => [])
  d.modQue core q (fun u => { u with
    cmds := [], stopped := false, fail := none,
    lastWord := if u.cmds.isEmpty then u.lastWord else 8,
    lastTag := (u.cmds.getLast?.map QCmd.tag).getD u.lastTag })

/-- A write of MQCTL (R167): where CLEAR and RESTART name one queue, the clear is performed. -/
def Dev.writeMqctl (d : Dev) (core v : Nat) : Dev :=
  (List.range 7).foldl (fun d q =>
    if bit v (8 + q) then d.clearQue core q else if bit v q then d.restartQue core q else d) d

/-- Whether a command of engine k waits for a VSEED that its core's vector unit accepted before it (R145).
DEDUCED, log 67. -/
def Dev.awaitsSeed (d : Dev) (core k accept : Nat) : Bool :=
  (d.queAt core 4).cmds.any (fun v => v.result.isNone && seedsEngine v.bytes k && !notAfter accept (v.after.getD k 0))

/-- The command at the front of an engine's or vector unit's queue that may start now (R124, R125): its queue runs, its
context runs, nothing of it has started and, beat-locked, it was accepted in this beat. -/
def Dev.frontCmd (d : Dev) (core q : Nat) : Option (CtxId × QCmd) :=
  match d.holder core, (d.queAt core q).cmds with
  | some c, x :: _ =>
    if (d.ctxAt c).state = .running && !(d.queAt core q).stopped && x.result.isNone && (!d.locked c || x.beat = d.time.beat)
        && !(q < 4 && d.awaitsSeed core q x.accept) then some (c, x)
    else none
  | _, _ => none

/-- Whether a stalled or fencing thread has nothing of its own left in a queue (R164): a command that failed counts as
done. -/
def Queue.doneFor (u : Queue) (t : Nat) (p : QCmd → Bool) : Bool := !u.cmds.any (fun x => x.thread = t && !x.failed && p x)

/-- Whether a stream command may write outside its core: a put or short write that MFENCE.R waits for (R164). -/
def QCmd.outward (x : QCmd) : Bool :=
  match x.op with
  | 0x20 => field (rdb x.bytes 0x1C) 2 2 ≠ 0 || bit (rdb x.bytes 0x1C) 4
  | 0x21 => true
  | 0x22 => field (rdb x.bytes 0x16) 2 2 ≠ 0
  | _ => false

/-- Whether a stream command moves data: what MFENCE.G waits for besides (R164). -/
def QCmd.moves (x : QCmd) : Bool := x.op = 0x20 || x.op = 0x21 || x.op = 0x22

end Sys2Proof.Machine
end

