-- ==== Sys2Proof/Machine/Engines.lean ====
section
/-! DEFINITION. Matrix engines (R87 to R92, R110 to R136): the commands of their queues.  A row executes the command at the
front of its queue where that has its opcode and may start; COMMAND_COMPLETION (Vector.lean) completes it. -/

namespace Sys2Proof.Machine

/-! ### Executing the front command -/

/-- How a command of an engine or vector unit ends: it waits on a tag (R194) or an earlier command (R145); it fails and
performs nothing (R124), the reads that it tested apart; it is done, with its status bits, flags and effects. -/
inductive CmdEnd where
  | wait
  | fail (status : Nat) (dev : Dev)
  | done (fp : Nat) (poison uninit : Bool) (dev : Dev) (mem : List MemEff)

/-- The statuses of R123.
DEDUCED, log 65. -/
def csBadOpcode : Nat := 1
def csBadFormat : Nat := 2
def csBadShape : Nat := 3
def csBadAddr : Nat := 4
def csProtection : Nat := 5
def csNotIn : Nat := 6
def csUninit : Nat := 7

/-- A completion word (R123). -/
def complWord (st fp : Nat) (poison uninit : Bool) : Nat := st + fp * 2 ^ 8 + b2n poison * 2 ^ 16 + b2n uninit * 2 ^ 17

/-- The lines that effects write. -/
def writtenLines (es : List MemEff) : List Nat := es.flatMap (fun e => match e with
  | .write a bs _ => linesOf a bs.length
  | _ => [])

/-- The device once writes of a unit have been performed: reservations have broken, digests have moved (R149, R417). -/
def Dev.performed (d : Dev) (m : Mem) (c : CtxId) (es : List MemEff) : Dev :=
  (es.foldl (fun (a : Dev × Mem) e => match e with
    | .write b bs p => ((a.1.unitWrite a.2 c b bs p).1, a.2.eff e)
    | _ => (a.1, a.2.eff e)) (d, m)).1

/-- The same for a command of a queue: what the lines held before is kept for the commands that race with it (R121). -/
def Dev.wrote (d : Dev) (m : Mem) (c : CtxId) (core q : Nat) (x : QCmd) (es : List MemEff) : Dev :=
  (d.keepPast m core q x.accept (writtenLines es)).performed m c es

/-- Executes the front command of queue q where its opcode is `op` (R120, R123, R124), on memory in which what it races with is as it
was or as it is (R121); an engine whose domain is off completes every command with UNIT_NOT_ADMITTED (R25, R160). -/
def runFront (core q op : Nat) (body : CtxId → QCmd → Mem → Dev → CmdEnd) : Act := fun _ m d =>
  match d.frontCmd core q with
  | none => { dev := d }
  | some (c, x) =>
    let put := fun (d : Dev) (w : Nat) => d.modCmd core q x.accept (fun y => { y with result := some w })
    if x.op ≠ op then { dev := d }
    else if !d.admitted (queueGroup core q) then { dev := put d csNotIn }
    else match body c x (d.raced m core q x).1 (d.raced m core q x).2 with
      | .wait => { dev := d }
      | .fail st d => { dev := put d st }
      | .done fp po un d es => { dev := (put d (complWord 0 fp po un)).wrote m c core q x es, mem := es }

/-- A run of bytes of a core's SRAM: core-local address and length. -/
abbrev Span := Nat × Nat

/-- The local addresses of a span: the FLAT share lies elsewhere than the rest (R172). -/
def Dev.spanRuns (d : Dev) (core : Nat) (s : Span) : List (Nat × Nat) :=
  let loc := fun (a : Nat) => (d.coreLocal core a).getD 0
  if s.1 < 0x02800000 && 0x02800000 < s.1 + s.2 then
    [(loc s.1, 0x02800000 - s.1), (loc 0x02800000, s.1 + s.2 - 0x02800000)]
  else [(loc s.1, s.2)]

/-- The bytes of a span. -/
def Dev.readSpan (d : Dev) (m : Mem) (core : Nat) (s : Span) : Bytes := (d.spanRuns core s).flatMap (fun r => m.read r.1 r.2)

/-- Whether a span carries poison (R118, R202).
DEDUCED, log 68. -/
def Dev.spanPoison (d : Dev) (m : Mem) (core : Nat) (s : Span) : Bool := (d.spanRuns core s).any (fun r => m.poisoned r.1 r.2)

/-- The core-local addresses of the lines of spans that are neither written nor poisoned (R199). -/
def Dev.coldLines (d : Dev) (m : Mem) (core : Nat) (ss : List Span) : List Nat :=
  (ss.flatMap (fun s => linesOf s.1 s.2)).filterMap (fun l =>
    if m.uninit ((d.coreLocal core (64 * l)).getD 0) 64 then some (64 * l) else none)

/-- Whether a command waits on a tag of what it reads or writes (R194). -/
def Dev.spansBlock (d : Dev) (core : Nat) (reads writes : List Span) : Bool :=
  reads.any (fun s => (d.tagBlock core s.1 s.2 false).isSome) || writes.any (fun s => (d.tagBlock core s.1 s.2 true).isSome)

/-- What every command of an engine or vector unit checks before it does anything: tags (R194), held slots (R133, R196),
written bits (R116, R199), in this order; then it runs with whether it read uninitialised lines.  `rows` are accumulator rows
that were never written (R116). -/
def Dev.guarded (d : Dev) (m : Mem) (c : CtxId) (core unit : Nat) (reads writes : List Span) (rows : List Nat)
    (run : Bool → Dev → CmdEnd) : CmdEnd :=
  if d.spansBlock core reads writes then .wait
  else if writes.any (fun s => d.inHeld core s.1 s.2) then .fail csProtection d
  else
    let cold := d.coldLines m core reads ++ rows
    let d := cold.foldl (fun d a => d.noteUninit core unit a) d
    if d.det c && !cold.isEmpty then .fail csUninit d else run (!cold.isEmpty) d

/-- Writes of a core's unit: core-local address, bytes, poison, in order. -/
def Dev.spanEffs (d : Dev) (core : Nat) (ws : List (Nat × Bytes × Bool)) : List MemEff :=
  ws.flatMap (fun (w : Nat × Bytes × Bool) =>
    ((d.spanRuns core (w.1, w.2.1.length)).foldl (fun (a : List MemEff × Nat) r =>
      (a.1 ++ [.write r.1 (sub w.2.1 a.2 r.2) w.2.2], a.2 + r.2)) ([], 0)).1)

/-- Draws `w` bits from a generator (R100). -/
def Dev.genDraw (d : Dev) (key w : Nat) : Nat × Dev :=
  let s := lfsrSteps w (tblGet 0 d.gens key).toNat
  (s % 2 ^ w, { d with gens := tblSet 0 d.gens key (BitVec.ofNat 64 s) })

/-- Draws in order, one from each generator of a list. -/
def Dev.genDraws (d : Dev) (keys : List Nat) (w : Nat) : List Nat × Dev :=
  let r := keys.foldl (fun (a : List Nat × Dev) k =>
    let (v, d) := a.2.genDraw k w
    (v :: a.1, d)) ([], d)
  (r.1.reverse, r.2)

/-- The draws of a conversion: one of 16 bits for each element under SR, none otherwise (R102). -/
def Dev.convDraws (d : Dev) (cv : Conv) (keys : List Nat) : List Nat × Dev :=
  if cv.mode = rSR then d.genDraws keys 16 else (keys.map (fun _ => 0), d)

/-! ### The engine's state -/

/-- A matrix engine. -/
def Dev.engAt (d : Dev) (core k : Nat) : Engine := tblGet Engine.init d.eng (core * 4 + k)

/-- Changes a matrix engine. -/
def Dev.modEng (d : Dev) (core k : Nat) (f : Engine → Engine) : Dev := { d with eng := tblMod Engine.init d.eng (core * 4 + k) f }

/-- A tile slot. -/
def Engine.tile (e : Engine) (s : Nat) : Option Tile := tblGet none e.tiles s

/-- An accumulator row (R115). -/
def Engine.row (e : Engine) (r : Nat) : AccRow := tblGet AccRow.init e.acc r

/-- Sets an accumulator row. -/
def Engine.putRow (e : Engine) (r : Nat) (x : AccRow) : Engine := { e with acc := tblSet AccRow.init e.acc r x }

/-- An element of a row. -/
def AccRow.at (x : AccRow) (n : Nat) : Nat := (tblGet 0 x.cols n).toNat

/-- The core-local address of an operand-buffer offset (R172). -/
def obLocal (k off : Nat) : Nat := 0x02200000 + k * 0x00180000 + off

/-- The condition of R113 on an array of rows. -/
def obOk (base stride count nb align : Nat) : Bool :=
  base % align = 0 && stride % align = 0 && base + (count - 1) * stride + nb ≤ 0x00180000

/-- The spans of an array of rows in an operand buffer; none where a row has no bytes. -/
def obRows (k base stride count nb : Nat) : List Span :=
  if nb = 0 then [] else (List.range count).map (fun i => (obLocal k (base + i * stride), nb))

/-! ### LOADB (R112, R128) -/

/-- The dot-block length that KDEPTH is a multiple of, by weight format (R128). -/
def loadL (f : Nat) : Nat := [1, 16, 16, 32, 32, 32, 32, 32, 64, 64].getD f 1

/-- The largest KDEPTH by weight format (R128). -/
def loadMax (f : Nat) : Nat := if f = fT2 then 512 else if f = fE2M1 then 256 else 128

/-- LOADB. -/
def Dev.loadb (core k : Nat) (c : CtxId) (x : QCmd) (m : Mem) (d : Dev) : CmdEnd :=
  let b := x.bytes
  let f := rdb b 0x18 % 16
  let kd := rd b 0x14 2
  let nc := rdb b 0x16
  let eb := elemBytes f kd
  let sb := scalesBytes f kd
  if 10 ≤ f then .fail csBadFormat d
  else if kd = 0 || loadMax f < kd || kd % loadL f ≠ 0 || nc = 0 || 128 < nc then .fail csBadShape d
  else if !obOk (rd b 8 4) (rd b 0x10 4) nc eb 4 || (sb ≠ 0 && !obOk (rd b 0xC 4) (rd b 0x1A 2) nc sb (scaleBytes f)) then
    .fail csBadAddr d
  else
    let es := obRows k (rd b 8 4) (rd b 0x10 4) nc eb
    let ss := obRows k (rd b 0xC 4) (rd b 0x1A 2) nc sb
    d.guarded m c core (engUnit core k) (es ++ ss) [] [] (fun un d =>
      let t : Tile :=
        { wfmt := f, kdepth := kd, ncols := nc, data := es.flatMap (d.readSpan m core), scales := ss.flatMap (d.readSpan m core),
          poison := (es ++ ss).any (d.spanPoison m core) }
      .done 0 t.poison un (d.modEng core k (fun e => { e with tiles := tblSet none e.tiles (rdb b 0x17 % 2) (some t) })) [])

/-! ### Dot products (R87 to R91) -/

/-- A pairing of R87: the dot-block length, the deepest tile, whether the accumulator is INT32. -/
structure Pairing where
  len : Nat
  deepest : Nat
  int : Bool

/-- The pairing of a weight and an activation format (R87, R111). -/
def pairing (w a : Nat) : Option Pairing :=
  if w = fT2 then (if a = fE4M3 || a = fE5M2 || a = fINT8 then some ⟨64, 512, false⟩ else none)
  else if w = fE2M1 && a = fE2M1 then some ⟨32, 256, false⟩
  else if fE4M3 ≤ w && w ≤ fE2M1 && fE4M3 ≤ a && a ≤ fE2M1 then some ⟨32, 128, false⟩
  else if w = fINT8 && a = fINT8 then some ⟨64, 128, true⟩
  else if (w = fBF16 && a = fBF16) || (w = fFP16 && a = fFP16) then some ⟨16, 128, false⟩
  else if w = fFP32 && a = fFP32 then some ⟨1, 128, false⟩
  else none

/-- One dot block added to an FP32 accumulator with one rounding (R88, R90, R92). -/
def dotFp (ftz : Bool) (acc : Nat) (ws as : List Num) : Nat × Nat :=
  let ps := (ws.zip as).map (fun (p : Num × Num) => p.1.mul p.2)
  let a := num32 acc
  if ps.any (fun p => p.2 ≠ 0) then (fp32.nan, fpNV)
  else if a.isNan || ps.any (fun p => p.1.isNan) then (fp32.nan, 0)
  else
    let infs := ((a :: ps.map (·.1)).filter (·.isInf)).map (·.neg)
    if infs.contains true && infs.contains false then (fp32.nan, fpNV)
    else match infs with
      | n :: _ => fp32.conv 0 true false 0 (.inf n)
      | [] =>
        let x := ps.foldl (fun (s : Num) p => (s.add p.1).1) (.fin true 0 0)
        fp32.conv 0 true ftz 0 (a.add x).1

/-- One dot block added to an INT32 accumulator, which saturates (R91). -/
def dotInt (acc : Nat) (ws as : List Int) : Nat × Nat :=
  let s := ((ws.zip as).map (fun (p : Int × Int) => p.1 * p.2)).foldl (· + ·) (toSigned acc 32)
  if s < -(2 ^ 31) then (2 ^ 31, fpISAT)
  else if 2 ^ 31 - 1 < s then (2 ^ 31 - 1, fpISAT)
  else (ofSigned s 32, 0)

/-- The integer that a value is. -/
def Num.toInt : Num → Int
  | .fin n m e => signedUnits n m e 0
  | _ => 0

/-- The dot blocks of one output element in increasing K order (R89). -/
def dotBlocks (p : Pairing) (ftz : Bool) (acc : Nat) (ws as : List Num) : Nat × Nat :=
  ((chunks p.len ws.length ws).zip (chunks p.len as.length as)).foldl (fun (s : Nat × Nat) (b : List Num × List Num) =>
    let r := if p.int then dotInt s.1 (b.1.map (·.toInt)) (b.2.map (·.toInt)) else dotFp ftz s.1 b.1 b.2
    (r.1, s.2 ||| r.2)) (acc, 0)

/-- The columns of a tile as values, with the status of reading them (R92, R99). -/
def Tile.columns (t : Tile) (ftz : Bool) : List (List Num) × Nat :=
  let eb := elemBytes t.wfmt t.kdepth
  let sb := scalesBytes t.wfmt t.kdepth
  let cs := (List.range t.ncols).map (fun n => readElems t.wfmt ftz t.kdepth (sub t.data (n * eb) eb) (sub t.scales (n * sb) sb))
  (cs.map (·.1), orAll (cs.map (·.2)))

/-- One activation row into an accumulator row (R118, R129): the row and its status. -/
def Tile.intoRow (t : Tile) (p : Pairing) (ftz acc : Bool) (cols : List (List Num)) (as : List Num) (poison : Bool) (old : AccRow) :
    AccRow × Nat :=
  let out := cols.zipIdx.map (fun (w : List Num × Nat) => dotBlocks p ftz (if acc then old.at w.2 else 0) w.1 as)
  ({ ty := b2n p.int, written := true, poison := poison || t.poison || (acc && old.poison),
     cols := tblSetList 0 old.cols 0 (out.map (fun o => BitVec.ofNat 32 o.1)) }, orAll (out.map (·.2)))

/-- MMA, and MMAT where `ternary` (R129, R130). -/
def Dev.mma (ternary : Bool) (core k : Nat) (c : CtxId) (x : QCmd) (m : Mem) (d : Dev) : CmdEnd :=
  let b := x.bytes
  let rows := rd b 0x16 2
  let row0 := rd b 0x18 2
  let af := rdb b 0x1A % 16
  let ftz := bit (rdb b 0x1A) 4
  let acc := bit (rdb b 0x1A) 5
  let e := d.engAt core k
  if rows = 0 || 2048 < row0 + rows then .fail csBadShape d
  else match e.tile (rdb b 0x1B % 2) with
  | none => .fail csBadShape d
  | some t =>
    if decide (t.wfmt = fT2) != ternary then .fail csBadFormat d
    else match pairing t.wfmt af with
    | none => .fail csBadFormat d
    | some p =>
      let at' := (List.range rows).map (· + row0)
      let eb := elemBytes af t.kdepth
      let sb := scalesBytes af t.kdepth
      if p.deepest < t.kdepth then .fail csBadShape d
      else if acc && at'.any (fun r => (e.row r).ty ≠ b2n p.int) then .fail csBadFormat d
      else if !obOk (rd b 8 4) (rd b 0x10 4) rows eb 4
          || (sb ≠ 0 && !obOk (rd b 0xC 4) (rd b 0x14 2) rows sb (scaleBytes af)) then .fail csBadAddr d
      else
        let es := obRows k (rd b 8 4) (rd b 0x10 4) rows eb
        let ss := obRows k (rd b 0xC 4) (rd b 0x14 2) rows sb
        let cold := if acc then at'.filter (fun r => !(e.row r).written) else []
        d.guarded m c core (engUnit core k) (es ++ ss) [] cold (fun un d =>
          let (cols, st) := t.columns ftz
          let r := at'.zipIdx.foldl (fun (a : Engine × Nat × Bool) (i : Nat × Nat) =>
            let sp := es.getD i.2 (0, 0)
            let sq := ss.getD i.2 (0, 0)
            let (as, s1) := readElems af ftz t.kdepth (d.readSpan m core sp) (if sb = 0 then [] else d.readSpan m core sq)
            let po := d.spanPoison m core sp || (sb ≠ 0 && d.spanPoison m core sq)
            let (row, s2) := t.intoRow p ftz acc cols as po (a.1.row i.1)
            (a.1.putRow i.1 row, a.2.1 ||| s1 ||| s2, a.2.2 || row.poison)) (e, st, false)
          .done r.2.1 r.2.2 un (d.modEng core k (fun _ => r.1)) [])

/-! ### ZERO and EPI (R131, R132) -/

/-- ZERO. -/
def Dev.zeroRows (core k : Nat) (_c : CtxId) (x : QCmd) (_m : Mem) (d : Dev) : CmdEnd :=
  let row := rd x.bytes 8 2
  let n := rd x.bytes 0xA 2
  if n = 0 || 2048 < row + n then .fail csBadShape d
  else
    let z : AccRow := { ty := rdb x.bytes 0xC % 2, written := true, poison := false, cols := [] }
    .done 0 false false (d.modEng core k (fun e => (List.range n).foldl (fun e i => e.putRow (row + i) z) e)) []

/-- The bytes of an epilogue slot that nothing has written (R132). -/
def epiReset : Bytes := zeros 32

/-- EPI: the slot keeps the command's fields 0x09 to 0x1D. -/
def Dev.setEpi (core k : Nat) (_c : CtxId) (x : QCmd) (_m : Mem) (d : Dev) : CmdEnd :=
  let v := zeros 9 ++ sub x.bytes 9 21 ++ zeros 2
  .done 0 false false (d.modEng core k (fun e => { e with epi := tblSet epiReset e.epi (rdb x.bytes 8 % 4) v })) []

/-! ### The epilogue and DRAIN (R133, R135, R136) -/

/-- The numbers of the approximated functions: ACT 0x03 to 0x07 under their own code, then those of R141 and R144. -/
def fnExp : Nat := 16
def fnLog : Nat := 17
def fnRecip : Nat := 18
def fnRsqrt : Nat := 19
def fnCos : Nat := 20
def fnTwoPi : Nat := 21

/-- The function ACT on an FP32 value (R135). -/
def actFn (act : Nat) (param x : Num) : Num × Nat :=
  match act with
  | 0 => (x, 0)
  | 1 => if x.isNan || x.gt .zero then (x, 0) else (.zero, 0)
  | 2 => if x.isNan || x.gt .zero then (x, 0) else round32 (param.mul x)
  | 8 =>
    if x.isNan || param.isNan then (.nan, 0)
    else if x.gt param.abs then (param.abs, 0)
    else if param.abs.negate.gt x then (param.abs.negate, 0)
    else (x, 0)
  | _ => approxFn act x

/-- What a DRAIN uses of its slot: the mode bytes, the two FP32 operands, the vectors by column and row. -/
structure EpiUse where
  scaleMode : Nat
  biasMode : Nat
  act : Nat
  scale : Num
  param : Num
  scales : List Num
  biases : List Num

/-- Steps 1 to 4 of the epilogue on the element of column n of the r-th row (R135): the value and the status. -/
def EpiUse.elem (u : EpiUse) (int : Bool) (r n w : Nat) : Num × Nat :=
  let step := fun (x : Num × Nat) (y : Num × Nat) => (y.1, x.2 ||| y.2)
  let x := if int then round32 (.ofInt (toSigned w 32), 0) else (num32 w, 0)
  let x := if u.scaleMode = 1 || u.scaleMode = 4 then step x (round32 (x.1.mul u.scale)) else x
  let x := if u.scaleMode = 2 || u.scaleMode = 4 then step x (round32 (x.1.mul (u.scales.getD n .nan)))
    else if u.scaleMode = 3 then step x (round32 (x.1.mul (u.scales.getD r .nan))) else x
  let x := if u.biasMode = 1 then step x (round32 (x.1.add (u.biases.getD n .nan)))
    else if u.biasMode = 2 then step x (round32 (x.1.add (u.biases.getD r .nan))) else x
  step x (actFn u.act u.param x.1)

/-- A value of format sf as a source under FTZ (R92, R93): a subnormal FP32 value becomes a zero. -/
def flushed (ftz : Bool) (x : Num) : Num × Nat := if x.isNan || x.isInf then (x, 0) else fp32.read ftz (bits32 x)

/-- One row of a DRAIN through its slot (R135, R136): elements, scales, status. -/
def EpiUse.row (u : EpiUse) (outf : Nat) (cv : Conv) (row : AccRow) (r ncols : Nat) (rs : List Nat) : Bytes × Bytes × Nat :=
  let ws := (List.range ncols).map row.at
  if row.ty = 1 && outf = fINT32 && u.scaleMode = 0 && u.biasMode = 0 && u.act = 0 then (ws.flatMap (leBytes 4), [], 0)
  else
    let xs := ws.zipIdx.map (fun (w : Nat × Nat) =>
      let (x, st) := u.elem (row.ty = 1) r w.2 w.1
      let (y, s2) := flushed cv.ftz x
      (y, st ||| s2))
    let (eb, sb, st) := encodeElems fFP32 outf cv rs (xs.map (·.1))
    (eb, sb, st ||| orAll (xs.map (·.2)))

/-- Where a DRAIN may write (R133): an array of rows in the operand buffer, in core memory or in the FLAT share, as
core-local spans; none elsewhere.
DEDUCED, log 61. -/
def Dev.drainRows (d : Dev) (core k base stride count nb align : Nat) : Option (List Span) :=
  let last := base + (count - 1) * stride + nb
  if base < 0x00180000 then (if obOk base stride count nb align then some (obRows k base stride count nb) else none)
  else if base % align = 0 && stride % align = 0 && ((0x01000000 ≤ base && last ≤ 0x02200000)
      || (d.flat (core / 12) && 0x02800000 ≤ base && last ≤ 0x03000000)) then
    some ((List.range count).map (fun i => (base + i * stride, nb)))
  else none

/-- Whether the fields of an epilogue slot are legal (R93, R132, R135), with the conversion. -/
def epiConv (v : Bytes) : Option Conv :=
  let o := rdb v 0x1C % 16
  if 4 < rdb v 9 || 2 < rdb v 0xA || 8 < rdb v 0xB || !fmtOk o || o = fT2 then none else convOf (rdb v 0x1D)

/-- DRAIN. -/
def Dev.drainRowsCmd (core k : Nat) (c : CtxId) (x : QCmd) (m : Mem) (d : Dev) : CmdEnd :=
  let b := x.bytes
  let row0 := rd b 8 2
  let n := rd b 0xA 2
  let nc := rdb b 0x1B
  let mode := rdb b 0x1A
  let raw := bit mode 3
  let e := d.engAt core k
  let v := tblGet epiReset e.epi (mode % 4)
  let outf := if raw then fFP32 else rdb v 0x1C % 16
  match if raw then some ⟨0, false, false⟩ else epiConv v with
  | none => .fail csBadFormat d
  | some cv =>
    if n = 0 || 2048 < row0 + n || nc = 0 || 128 < nc || (fmtBlock outf ≠ 0 && nc % 32 ≠ 0) then .fail csBadShape d
    else
      let sm := if raw then 0 else rdb v 9
      let bm := if raw then 0 else rdb v 0xA
      let sn := if sm = 2 || sm = 4 then nc else if sm = 3 then n else 0
      let bn := if bm = 1 then nc else if bm = 2 then n else 0
      let nb := elemBytes outf nc
      let sb := scalesBytes outf nc
      let vecOk := fun (a len : Nat) => len = 0 || obOk a 0 1 (4 * len) 4
      match d.drainRows core k (rd b 0xC 4) (rd b 0x10 4) n nb 4,
        if sb = 0 then some [] else d.drainRows core k (rd b 0x14 4) (rd b 0x18 2) n sb 1 with
      | some ds, some ss =>
        if !vecOk (rd v 0x10 4) sn || !vecOk (rd v 0x14 4) bn then .fail csBadAddr d
        else
          let sv := obRows k (rd v 0x10 4) 0 1 (4 * sn)
          let bv := obRows k (rd v 0x14 4) 0 1 (4 * bn)
          let at' := (List.range n).map (· + row0)
          d.guarded m c core (engUnit core k) (sv ++ bv) (ds ++ ss) (at'.filter (fun r => !(e.row r).written)) (fun un d =>
            let vec := fun (s : List Span) (len : Nat) => (unpackCodes fFP32 len (s.flatMap (d.readSpan m core))).map num32
            let u : EpiUse :=
              { scaleMode := sm, biasMode := bm, act := rdb v 0xB, scale := num32 (rd v 0xC 4), param := num32 (rd v 0x18 4),
                scales := vec sv sn, biases := vec bv bn }
            let vp := (sv ++ bv).any (d.spanPoison m core)
            let r := at'.zipIdx.foldl (fun (a : List (Nat × Bytes × Bool) × Nat × Bool × Dev) (i : Nat × Nat) =>
              let row := e.row i.1
              let po := row.poison || vp
              let (rs, d) := a.2.2.2.convDraws cv ((List.range nc).map (genKey core k))
              let (eb, sb, st) :=
                if raw then (((List.range nc).map row.at).flatMap (leBytes 4), [], 0) else u.row outf cv row i.2 nc rs
              (a.1 ++ [((ds.getD i.2 (0, 0)).1, eb, po)] ++ (if sb.isEmpty then [] else [((ss.getD i.2 (0, 0)).1, sb, po)]),
                a.2.1 ||| st, a.2.2.1 || po, d)) ([], 0, false, d)
            let d := r.2.2.2
            let d :=
              if bit mode 2 then d.modEng core k (fun e => at'.foldl (fun e i =>
                e.putRow i { ty := (e.row i).ty, written := true, poison := false, cols := [] }) e)
              else d
            .done r.2.1 r.2.2.1 un d (d.spanEffs core r.1))
      | _, _ => .fail csBadAddr d

/-! ### CVT (R134) -/

/-- Whether two spans overlap. -/
def spansMeet (a b : Span) : Bool := a.1 < b.1 + b.2 && b.1 < a.1 + a.2

/-- What a CVT or VCVT converts (R134): the formats, the conversion, the count and the four arrays. -/
structure CvtUse where
  sf : Nat
  df : Nat
  cv : Conv
  count : Nat
  src : List Span
  dst : List Span

/-- The checks of R134, with what an array's place and alignment must satisfy, and the core-local address of an offset. -/
def cvtUse (x : QCmd) (ok : Nat → Nat → Nat → Bool) (loc : Nat → Nat) : Except Nat CvtUse :=
  let b := x.bytes
  let n := rd b 0x18 4
  let sf := rdb b 0x1C % 16
  let df := rdb b 0x1C / 16
  match convOf (rdb b 0x1D) with
  | none => .error csBadFormat
  | some cv =>
    if !fmtOk sf || !fmtOk df then .error csBadFormat
    else if n = 0 || 2 ^ 20 < n || (fmtBlock sf ≠ 0 && n % fmtBlock sf ≠ 0) || (fmtBlock df ≠ 0 && n % fmtBlock df ≠ 0) then
      .error csBadShape
    else
      let arrays := fun (f a s : Nat) =>
        [(a, elemBytes f n, 4)] ++ (if fmtBlock f = 0 then [] else [(s, scalesBytes f n, scaleBytes f)])
      let ss := arrays sf (rd b 8 4) (rd b 0xC 4)
      let ds := arrays df (rd b 0x10 4) (rd b 0x14 4)
      let narrow := fmtBits df ≤ fmtBits sf
      let spans := fun (xs : List (Nat × Nat × Nat)) => xs.map (fun (y : Nat × Nat × Nat) => ((y.1, y.2.1) : Span))
      if (ss ++ ds).any (fun (y : Nat × Nat × Nat) => !ok y.1 y.2.1 y.2.2) then .error csBadAddr
      else if (spans ss).any (fun s => (spans ds).any (fun t => spansMeet s t && !(s.1 = t.1 && narrow))) then .error csBadAddr
      else .ok ⟨sf, df, cv, n, (spans ss).map (fun s => (loc s.1, s.2)), (spans ds).map (fun s => (loc s.1, s.2))⟩

/-- The poison of each run of `cell` elements of packed arrays with scales: what its elements and scales depend on (R118). -/
def Dev.cellPoison (d : Dev) (m : Mem) (core f n cell : Nat) (arrays : List Span) : List Bool :=
  let part := fun (i : Nat) (bytes : Nat → Nat) (s : Span) =>
    d.spanPoison m core (s.1 + bytes (i * cell), bytes ((i + 1) * cell) - bytes (i * cell))
  (List.range (ceilDiv n cell)).map (fun i =>
    (arrays.take 1).any (part i (elemBytes f)) || (arrays.drop 1).any (part i (scalesBytes f)))

/-- Bytes to write from a core-local address, cut at lines, each piece poisoned where a byte in it is (R118): `per` bytes
depend on one cell. -/
def linePieces (a per : Nat) (bs : Bytes) (cells : List Bool) : List (Nat × Bytes × Bool) :=
  (linesOf a bs.length).map (fun l =>
    let lo := Nat.max a (64 * l)
    let hi := Nat.min (a + bs.length) (64 * l + 64)
    let i := (lo - a) / per
    (lo, sub bs (lo - a) (hi - lo), ((cells.drop i).take ((hi - 1 - a) / per - i + 1)).any id))

/-- Converts (R94 to R98, R134): poison follows each block, or each element where neither format has blocks. -/
def CvtUse.run (u : CvtUse) (m : Mem) (core : Nat) (keys : List Nat) (un : Bool) (d : Dev) : CmdEnd :=
  let cell := Nat.max 1 (Nat.max (fmtBlock u.sf) (fmtBlock u.df))
  let at' := fun (i : Nat) => (u.src.drop i).head?.map (d.readSpan m core)
  let (rs, d') := d.convDraws u.cv keys
  let (eb, sb, st) := convArray u.sf u.df u.cv u.count rs ((at' 0).getD []) ((at' 1).getD [])
  let ps := d.cellPoison m core u.sf u.count cell u.src
  let one := fun (i : Nat) (per : Nat) (bs : Bytes) =>
    match (u.dst.drop i).head? with
    | some s => linePieces s.1 per bs ps
    | none => []
  .done st (ps.any id) un d' (d'.spanEffs core (one 0 (elemBytes u.df cell) eb ++ one 1 (scalesBytes u.df cell) sb))

/-- CVT. -/
def Dev.cvtCmd (core k : Nat) (c : CtxId) (x : QCmd) (m : Mem) (d : Dev) : CmdEnd :=
  match cvtUse x (fun a n al => obOk a 0 1 n al) (obLocal k) with
  | .error st => .fail st d
  | .ok u =>
    d.guarded m c core (engUnit core k) u.src u.dst []
      (u.run m core ((List.range u.count).map (fun i => genKey core k (i % 128))))

/-! ### The rows -/

/-- Runs a command of an engine. -/
def engineAct (e : EngineRef) (op : Nat) (body : Nat → Nat → CtxId → QCmd → Mem → Dev → CmdEnd) : Act :=
  runFront (coreNo e.die.val e.core.val) e.k.val op (body (coreNo e.die.val e.core.val) e.k.val)

/-- LOADB (R110, R112, R128). -/
def execLoadb (e : EngineRef) (s : State) : Host.Outcome State Fault Refusal := .next (s.run (engineAct e 1 Dev.loadb))

/-- MMA (R87 to R92, R116 to R118, R129). -/
def execMma (e : EngineRef) (s : State) : Host.Outcome State Fault Refusal := .next (s.run (engineAct e 2 (Dev.mma false)))

/-- MMAT (R130). -/
def execMmat (e : EngineRef) (s : State) : Host.Outcome State Fault Refusal := .next (s.run (engineAct e 3 (Dev.mma true)))

/-- EPI (R132). -/
def execEpi (e : EngineRef) (s : State) : Host.Outcome State Fault Refusal := .next (s.run (engineAct e 4 Dev.setEpi))

/-- DRAIN (R116, R118, R133, R135, R136). -/
def execDrain (e : EngineRef) (s : State) : Host.Outcome State Fault Refusal := .next (s.run (engineAct e 5 Dev.drainRowsCmd))

/-- ZERO (R131). -/
def execZero (e : EngineRef) (s : State) : Host.Outcome State Fault Refusal := .next (s.run (engineAct e 6 Dev.zeroRows))

/-- CVT (R134). -/
def execCvt (e : EngineRef) (s : State) : Host.Outcome State Fault Refusal := .next (s.run (engineAct e 7 Dev.cvtCmd))

end Sys2Proof.Machine
end

