-- ==== Sys2Proof/Machine/EthRx.lean ====
section
/-! DEFINITION. The receive side of the Ethernet ports (R463 to R474, R477 to R480): flow control, steering, placement,
watermarks and import queues. -/

namespace Sys2Proof.Machine

/-! ### Ports and sub-ports -/

/-- The key of a sub-port. -/
def subKey (x : SubPort) : Nat := x.port.val * 4 + x.sub.val

/-- The sub-ports of a port (R463). -/
def Dev.subCount (d : Dev) (p : Nat) : Nat := 2 ^ d.get ETH_PORT_CFG.BREAKOUT p

/-- Whether a port is in service: enabled, its domain on, the Brynoa die past its start (R465, R542).
DEDUCED, log 135. -/
def Dev.ethUp (d : Dev) (p : Nat) : Bool := d.hostUp && d.flag ETH_PORT_CFG.EN p && d.domOn (416 + p)

/-- Whether a sub-port carries frames: its port is in service and its link is up (R465); in ALARM nothing is sent and
what arrives is dropped (R500). -/
def Dev.subUp (d : Dev) (x : SubPort) : Bool :=
  d.ethUp x.port.val && d.mmc.state ≠ .alarm && x.sub.val < d.subCount x.port.val
    && bit (d.get ETH_PORT_CFG.LINK x.port.val) x.sub.val

/-- A sub-port's record. -/
def Dev.ethSub (d : Dev) (x : SubPort) : EthSub := tblGet EthSub.init d.eth.subs (subKey x)

/-- Changes a sub-port's record. -/
def Dev.modSub (d : Dev) (x : SubPort) (f : EthSub → EthSub) : Dev :=
  { d with eth := { d.eth with subs := tblMod EthSub.init d.eth.subs (subKey x) f } }

/-- The four sub-ports that a port may have. -/
def subsOf (p : Fin 2) : List SubPort := (List.finRange 4).map (fun s => ⟨p, s⟩)

/-! ### Flow control (R477) -/

/-- A number in network order. -/
def beBytes (n v : Nat) : Bytes := (leBytes n v).reverse

/-- The bytes of a priority share (R477). -/
def Dev.shareBytes (d : Dev) (p : Nat) : Nat := 4194304 / d.subCount p / 8

/-- The threshold XOFF of a share. -/
def Dev.xoffAt (d : Dev) (p : Nat) : Nat := d.shareBytes p - 1024 * d.get ETH_PFC.HEADROOM p

/-- The threshold XON of a share. -/
def Dev.xonAt (d : Dev) (p : Nat) : Nat := d.xoffAt p - 1024 * d.get ETH_PFC.HYST p

/-- What a held frame takes of its share: its bytes and its FCS (R466). -/
def frameTakes (f : EthFrame) : Nat := f.bytes.length + 4

/-- What stands in the share of a priority.
DEDUCED, log 127. -/
def EthSub.share (s : EthSub) (pri : Nat) : Nat :=
  ((s.held.filter (fun h => h.pri = pri)).map (fun h => frameTakes h.frame)).foldl (· + ·) 0

/-- Whether PFC covers a priority of a port (R477). -/
def Dev.pfcOn (d : Dev) (p pri : Nat) : Bool := d.get ETH_PORT_CFG.FC p = 2 && bit (d.get ETH_PORT_CFG.PFC_EN p) pri

/-- A flow-control frame of the module's own, padded to 60 bytes and counted (R467, R477, R482). -/
def Dev.sendPause (d : Dev) (x : SubPort) (body : Bytes) : Dev :=
  let head : Bytes := [0x01, 0x80, 0xC2, 0, 0, 0x01] ++ leBytes 6 (Config.portMac (subKey x)).toNat ++ [0x88, 0x08]
  (d.emit (.frame x (sub (head ++ body) 0 60))).count ETH_PAUSE.TX_PAUSE x.port.val

/-- A PAUSE frame (R464). -/
def pauseBody (time : Nat) : Bytes := beBytes 2 1 ++ beBytes 2 time

/-- A PFC frame for the priorities of a mask (R464). -/
def pfcBody (mask time : Nat) : Bytes :=
  beBytes 2 0x0101 ++ beBytes 2 mask ++ (List.range 8).flatMap (fun i => beBytes 2 (if bit mask i then time else 0))

/-- After the shares of a sub-port have changed: XOFF frames for shares that rise above XOFF, XON frames for shares that
have fallen to XON (R477). -/
def Dev.flowControl (d : Dev) (x : SubPort) : Dev :=
  let p := x.port.val
  let s := d.ethSub x
  let rises := (List.range 8).filter (fun i => !bit s.xoff i && d.xoffAt p < s.share i)
  let falls := (List.range 8).filter (fun i => bit s.xoff i && s.share i ≤ d.xonAt p)
  let mask := maskOf ((List.range 8).filter (fun i => (bit s.xoff i && !falls.contains i) || rises.contains i))
  let d := d.modSub x (fun y => { y with xoff := mask })
  match d.get ETH_PORT_CFG.FC p with
  | 1 =>
    let d := rises.foldl (fun d _ => d.sendPause x (pauseBody 0xFFFF)) d
    if !falls.isEmpty && mask = 0 then d.sendPause x (pauseBody 0) else d
  | 2 =>
    let d := (rises.filter (d.pfcOn p)).foldl (fun d i => d.sendPause x (pfcBody (2 ^ i) 0xFFFF)) d
    (falls.filter (d.pfcOn p)).foldl (fun d i => d.sendPause x (pfcBody (2 ^ i) 0)) d
  | _ => d

/-- PFC_REFRESH (R477): while a share is above XON its pause is sent again. -/
def execPfcRefresh (sub : SubPort) (s : State) : Host.Outcome State Fault Refusal :=
  .next (s.run (Act.dev (fun d =>
    let p := sub.port.val
    let mask := (d.ethSub sub).xoff
    let cover := maskOf ((bitsOf mask 8).filter (d.pfcOn p))
    if !d.subUp sub then d
    else if d.get ETH_PORT_CFG.FC p = 1 && mask ≠ 0 then d.sendPause sub (pauseBody 0xFFFF)
    else if cover ≠ 0 then d.sendPause sub (pfcBody cover 0xFFFF)
    else d)))

/-- Sets the priorities that a sub-port has stopped, and with them PAUSED of its port (R478, R482). -/
def Dev.putStopped (d : Dev) (x : SubPort) (mask : Nat) : Dev :=
  let d := d.modSub x (fun y => { y with stopped := mask })
  d.put ETH_PAUSE.PAUSED ((subsOf x.port).foldl (fun m y => m ||| (d.ethSub y).stopped) 0) x.port.val

/-- Whether a frame is a PAUSE or PFC frame (R468). -/
def isPause (b : Bytes) : Bool := sub b 0 6 = [0x01, 0x80, 0xC2, 0, 0, 0x01] && sub b 12 2 = [0x88, 0x08]

/-- A received PAUSE or PFC frame (R468, R478): counted, and where FC permits it stops the priorities named with a
time, and resumes those named with time 0. -/
def Dev.rxPause (d : Dev) (f : EthFrame) : Dev :=
  let p := f.at'.port.val
  let d := d.count ETH_PAUSE.RX_PAUSE p
  let op := beNat (sub f.bytes 14 2)
  let was := (d.ethSub f.at').stopped
  if op = 1 && d.get ETH_PORT_CFG.FC p = 1 then
    d.putStopped f.at' (if beNat (sub f.bytes 16 2) = 0 then 0 else 0xFF)
  else if op = 0x0101 && d.get ETH_PORT_CFG.FC p = 2 then
    let named := (List.range 8).filter (fun i => bit (rdb f.bytes 17) i && d.pfcOn p i)
    d.putStopped f.at' (maskOf ((List.range 8).filter (fun i =>
      if named.contains i then decide (beNat (sub f.bytes (18 + 2 * i) 2) ≠ 0) else bit was i)))
  else d

/-- PAUSE_EXPIRY (R478): a stopped priority resumes. -/
def execPauseExpiry (sub : SubPort) (pri : Fin 8) (s : State) : Host.Outcome State Fault Refusal :=
  .next (s.run (Act.dev (fun d => d.putStopped sub (setField (d.ethSub sub).stopped pri.val 1 0))))

/-! ### Parsing (R464, R468, R469, R472) -/

/-- What a frame's headers say: the tag of the priority and of the VLAN ID, the EtherType after the tags, and where the
payload of that type begins. -/
structure Parsed where
  outer : Option Nat
  inner : Option Nat
  etype : Nat
  l3 : Nat
  deriving DecidableEq, Repr

/-- Reads the tags: one of 0x8100, or an outer 0x88A8 with an inner 0x8100 (R464). -/
def parseFrame (b : Bytes) : Parsed :=
  let w := fun o => beNat (sub b o 2)
  if w 12 = 0x8100 then ⟨some (w 14), some (w 14), w 16, 18⟩
  else if w 12 = 0x88A8 && w 16 = 0x8100 then ⟨some (w 14), some (w 18), w 20, 22⟩
  else ⟨none, none, w 12, 14⟩

/-- The sum of 16-bit words in network order, an odd last byte padded with zero. -/
def sumWords : Bytes → Nat
  | a :: b :: t => a.toNat * 256 + b.toNat + sumWords t
  | [a] => a.toNat * 256
  | [] => 0

/-- One fold of a ones' complement sum. -/
def foldOnce (n : Nat) : Nat := n % 65536 + n / 65536

/-- The ones' complement sum of bytes. -/
def onesSum (b : Bytes) : Nat := foldOnce (foldOnce (foldOnce (sumWords b)))

/-- The IP and transport headers of a frame: version 4 or 6, the transport protocol with its offset and length, and
whether the datagram is a fragment; none where the frame carries no whole IP header. -/
structure IpInfo where
  v4 : Bool
  l3 : Nat
  l4 : Nat
  proto : Nat
  len : Nat
  fragment : Bool
  deriving DecidableEq, Repr

/-- Reads the IP header after the tags. -/
def ipInfo (b : Bytes) : Option IpInfo :=
  let x := parseFrame b
  let o := x.l3
  if x.etype = 0x0800 && o + 20 ≤ b.length && rdb b o / 16 = 4 then
    let h := 4 * (rdb b o % 16)
    let total := beNat (sub b (o + 2) 2)
    if h < 20 || total < h || b.length < o + total then none
    else some ⟨true, o, o + h, rdb b (o + 9), total - h, beNat (sub b (o + 6) 2) % 0x4000 ≠ 0⟩
  else if x.etype = 0x86DD && o + 40 ≤ b.length && rdb b o / 16 = 6 then
    let n := beNat (sub b (o + 4) 2)
    if b.length < o + 40 + n then none else some ⟨false, o, o + 40, rdb b (o + 6), n, false⟩
  else none

/-- Whether the datagram carries a whole TCP or UDP header. -/
def IpInfo.transport (i : IpInfo) : Bool :=
  !i.fragment && ((i.proto = 6 && 20 ≤ i.len) || (i.proto = 17 && 8 ≤ i.len))

/-- The source and destination addresses. -/
def IpInfo.addrs (i : IpInfo) (b : Bytes) : Bytes := if i.v4 then sub b (i.l3 + 12) 8 else sub b (i.l3 + 8) 32

/-- The hash of a frame (R468).
DEDUCED, log 129. -/
def frameHash (b : Bytes) : Nat :=
  match ipInfo b with
  | some i => if i.transport then crc32c (i.addrs b ++ sub b i.l4 4) else crc32c (sub b 0 12)
  | none => crc32c (sub b 0 12)

/-- The pseudo-header of a transport checksum. -/
def pseudo (v4 : Bool) (addrs : Bytes) (proto len : Nat) : Bytes :=
  if v4 then addrs ++ beBytes 2 proto ++ beBytes 2 len else addrs ++ beBytes 4 len ++ beBytes 4 proto

/-- FLAGS bits 3 to 6 of a frame: the IPv4 header checksum, and the TCP or UDP checksum; a UDP datagram over IPv4
without a checksum has neither L4 flag (R472). -/
def checkFlags (b : Bytes) : Nat :=
  match ipInfo b with
  | none => 0
  | some i =>
    let l3 := if !i.v4 then 0 else if onesSum (sub b i.l3 (i.l4 - i.l3)) = 0xFFFF then 8 else 16
    let none' := i.v4 && i.proto = 17 && beNat (sub b (i.l4 + 6) 2) = 0
    let l4 := if !i.transport || none' then 0
      else if onesSum (pseudo i.v4 (i.addrs b) i.proto i.len ++ sub b i.l4 i.len) = 0xFFFF then 32 else 64
    l3 + l4

/-! ### Steering (R468, R469) -/

/-- Whether the unicast entry k of a port matches a destination. -/
def Dev.ucastHit (d : Dev) (p k : Nat) (b : Bytes) : Bool :=
  d.flag ETH_UCAST.V (p * 16 + k) && d.get ETH_UCAST.ADDR (p * 16 + k) = rd b 0 6

/-- Whether the destination address is accepted (R468 step 2).
DEDUCED, log 130. -/
def Dev.takesAddr (d : Dev) (p : Nat) (b : Bytes) : Bool :=
  (List.range 16).any (fun k => d.ucastHit p k b)
    || (rd b 0 6 = 2 ^ 48 - 1 && d.flag ETH_PORT_CFG.BCAST p)
    || (bit (rdb b 0) 0 && d.flag ETH_PORT_CFG.MCAST_ALL p)
    || d.flag ETH_PORT_CFG.PROMISC p

/-- A field of a rule's word (R482). -/
def ruleField (v : Nat) (f : Fld) : Nat := field v f.lo f.width

/-- The rule at an index of a port. -/
def Dev.ethRule (d : Dev) (p i : Nat) : Nat := tblGet 0 d.eth.rules (p * 32 + i)

/-- Whether a rule matches: every field that it enables (R468 step 3). -/
def Dev.ruleHits (d : Dev) (x : SubPort) (b : Bytes) (v : Nat) : Bool :=
  let m := ruleField v ETH_RULE_DATA.MATCH
  let h := parseFrame b
  ruleField v ETH_RULE_DATA.V = 1
    && (!bit m 0 || ruleField v ETH_RULE_DATA.ETYPE = h.etype)
    && (!bit m 1 || h.inner.any (fun t => t % 4096 = ruleField v ETH_RULE_DATA.VID))
    && (!bit m 2 || d.ucastHit x.port.val (ruleField v ETH_RULE_DATA.MACIDX) b)
    && (!bit m 3 || ruleField v ETH_RULE_DATA.SUB = x.sub.val)

/-- Where a frame goes, and its priority (R468, R469). -/
def Dev.steer (d : Dev) (f : EthFrame) : HeldFrame :=
  let p := f.at'.port.val
  let h := frameHash f.bytes
  let pri := match (parseFrame f.bytes).outer with
    | some t => t / 8192
    | none => d.get ETH_PORT_CFG.DEFPRI p
  match (List.range 32).find? (fun i => d.ruleHits f.at' f.bytes (d.ethRule p i)) with
  | some i =>
    let v := d.ethRule p i
    ⟨f, (ruleField v ETH_RULE_DATA.QUEUE + h % 2 ^ ruleField v ETH_RULE_DATA.SPAN) % 16, i, h, pri⟩
  | none => ⟨f, d.get ETH_PORT_CFG.DEFQ p, 0xFF, h, pri⟩

/-! ### Queues and watermarks (R470, R471, R479) -/

/-- The completion ring of a queue's owner (R479). -/
def Dev.queueCq (d : Dev) (j : Nat) : CqRef :=
  let o := d.get ETH_QCFG.OWNER j
  if o < 64 then .ctx (Fin.ofNat 64 o) else .adm

/-- The context that owns a queue, where one does. -/
def Dev.queueCtx (d : Dev) (j : Nat) : Option CtxId :=
  let o := d.get ETH_QCFG.OWNER j
  if o < 64 then some (Fin.ofNat 64 o) else none

/-- The ETH_WATERMARK notice of a queue goes out and ARMED is cleared (R479). -/
def Dev.watermark (d : Dev) (j : Nat) : Dev :=
  let body := leBytes 1 (j / 32) ++ leBytes 1 (j / 16 % 2) ++ leBytes 2 (j % 16) ++ leBytes 4 (d.get ETH_QSTAT.LEVEL j)
    ++ leBytes 4 (d.get ETH_QWM.DISARMED_X j)
  let q := d.queueCq j
  (d.put ETH_QWM.ARMED 0 j).cqGive q ⟨true, eventHeader (cqKey q) 8, sub body 0 32⟩

/-- A crossing: LEVEL has come down from above WM (R479). -/
def Dev.crossing (d : Dev) (j : Nat) : Dev :=
  let d := d.put ETH_QWM.CROSSED 1 j
  if d.flag ETH_QWM.ARMED j then d.watermark j else d.count ETH_QWM.DISARMED_X j

/-- The entries of a queue's ring. -/
def Dev.queueSize (d : Dev) (j : Nat) : Nat := 2 ^ d.get ETH_QCFG.SIZE j

/-- The descriptors that a queue holds. -/
def Dev.queueDescs (d : Dev) (j : Nat) : List Bytes := tblGet [] d.eth.posted j

/-- Sets the descriptors that a queue holds. -/
def Dev.putDescs (d : Dev) (j : Nat) (bs : List Bytes) : Dev :=
  { d with eth := { d.eth with posted := tblSet [] d.eth.posted j bs } }

/-- The descriptor at the head is written back: `o` is where in it, `v` what; HEAD moves on and LEVEL falls (R472, R475,
R479). -/
def Dev.writeBack (d : Dev) (j o : Nat) (v : Bytes) : Dev :=
  let head := d.get ETH_QSTAT.HEAD j
  let level := d.get ETH_QSTAT.LEVEL j
  let wm := d.get ETH_QWM.WM j
  let d := d.hostWrite (d.get ETH_QCFG.BASE j * 4096 + 32 * head + o) v
  let d := ((d.putDescs j ((d.queueDescs j).drop 1)).put ETH_QSTAT.HEAD ((head + 1) % d.queueSize j) j).put
    ETH_QSTAT.LEVEL (level - 1) j
  if wm < level && level - 1 ≤ wm then d.crossing j else d

/-! ### Placement (R466, R472, R473) -/

/-- What placement did with one descriptor: its SIZE was out of range, or bytes went into its buffer. -/
structure Placed where
  bad : Bool
  len : Nat
  deriving DecidableEq, Repr

/-- How the placement of a frame ended. -/
inductive PlaceStop where
  | whole | emptied | failed
  deriving DecidableEq, Repr

/-- Placement: how it ended, what became of each descriptor, the device and the memory effects. -/
structure PlaceEnd where
  stop : PlaceStop
  used : List Placed
  dev : Dev
  mem : List MemEff

/-- Whether a receive descriptor's SIZE is in range (R472). -/
def sizeOk (b : Bytes) : Bool :=
  let n := rd b 8 4
  256 ≤ n && n ≤ 65536 && n % 64 = 0

/-- Writes bytes into a buffer: host memory, or the owner's context memory through its page tables (R471). The address
of a failure, the device, the effects. -/
def Dev.fillBuffer (d : Dev) (m : Mem) (owner : Option CtxId) (addr : Nat) (bs : Bytes) : Option Nat × Dev × List MemEff :=
  match owner with
  | none => (none, d.hostWrite addr bs, [])
  | some c =>
    let (e, d, es) := walkList (copyIn c bs addr) (pieces addr bs.length) m d
    (e.map (·.2), d, es)

/-- Places the bytes of a frame from `off` on into the buffers in ring order (R472, R473). -/
def placeList (owner : Option CtxId) (bytes : Bytes) : List Bytes → Nat → Mem → Dev → PlaceEnd
  | [], _, _, d => ⟨.emptied, [], d, []⟩
  | b :: rest, off, m, d =>
    if !sizeOk b then
      let e := placeList owner bytes rest off m d
      { e with used := ⟨true, 0⟩ :: e.used }
    else
      let n := Nat.min (rd b 8 4) (bytes.length - off)
      let addr := rd b 0 8
      let (bad, d, es) := d.fillBuffer m owner addr (sub bytes off n)
      match bad with
      | some a => ⟨.failed, [⟨false, a - addr⟩], d, es⟩
      | none =>
        if off + n = bytes.length then ⟨.whole, [⟨false, n⟩], d, es⟩
        else
          let e := placeList owner bytes rest (off + n) (m.apply es) d
          { e with used := ⟨false, n⟩ :: e.used, mem := es ++ e.mem }

/-- The last index of a used buffer. -/
def lastUsed (us : List Placed) : Option Nat := ((List.range us.length).reverse).find? (fun i => us.any (fun u => !u.bad) &&
  !(us.getD i ⟨true, 0⟩).bad)

/-- The 16 bytes that the module writes into a receive descriptor (R472). -/
def rxBack (h : HeldFrame) (flags len flen : Nat) : Bytes :=
  leBytes 2 len ++ leBytes 1 flags ++ leBytes 1 h.rule ++ leBytes 2 flen
    ++ leBytes 1 (h.frame.at'.sub.val + 4 * h.pri) ++ [0] ++ leBytes 4 h.hash ++ zeros 3 ++ [0x80]

/-- Writes back the descriptors of a frame in ring order: SOP on the first buffer, EOP with FLEN on the last, DISCARD on
every one of a dropped frame; a descriptor with a bad SIZE carries DISCARD and LEN 0 alone (R472, R473). -/
def Dev.backAll (d : Dev) (j : Nat) (h : HeldFrame) (us : List Placed) (drop : Bool) : Dev :=
  let tagged := if (parseFrame h.frame.bytes).outer.isSome then 128 else 0
  let checks := if drop then 4 else checkFlags h.frame.bytes
  let total := (us.map (·.len)).foldl (· + ·) 0
  let first := (List.range us.length).find? (fun i => !(us.getD i ⟨true, 0⟩).bad)
  let last := lastUsed us
  (List.range us.length).foldl (fun d i =>
    let u := us.getD i ⟨true, 0⟩
    if u.bad then d.writeBack j 0x10 (rxBack h 4 0 0)
    else
      let eop := decide (last = some i)
      let flags := tagged + checks + b2n (decide (first = some i)) + 2 * b2n eop
      d.writeBack j 0x10 (rxBack h flags u.len (if eop then total else 0))) d

/-- A frame longer than 9,216 bytes with its FCS (R466). -/
def isGiant (f : EthFrame) : Bool := 9212 < f.bytes.length

/-- Counts a frame that its steered queue loses (R473, R482).
DEDUCED, log 128. -/
def Dev.dropped (d : Dev) (j : Nat) (f : Fld) (p : Nat) : Dev := (d.count f p).count ETH_QSTAT.DROPS j

/-- The bytes that are placed of a frame: a giant's placement stops at byte 9,217 (R466). -/
def placedBytes (f : EthFrame) : Bytes := f.bytes.take 9216

/-- A frame meets the ring of its queue, which has a descriptor: placed, written back, and dropped whole where placement
fails or the frame is a giant or its FCS is wrong (R466, R472, R473). -/
def Dev.ringFrame (d : Dev) (m : Mem) (j : Nat) (h : HeldFrame) : Res :=
  let p := h.frame.at'.port.val
  let owner := if d.flag ETH_QCFG.BUFKIND j then d.queueCtx j else none
  let e := placeList owner (placedBytes h.frame) (d.queueDescs j) 0 m d
  let good := e.stop = .whole && !isGiant h.frame && h.frame.fcsOk
  let d := e.dev.backAll j h e.used (!good)
  let d := match e.stop with
    | .emptied => d.dropped j ETH_RX_DROP.NOBUF_MID p
    | .failed => d.dropped j ETH_RX_DROP.FAULT p
    | .whole =>
      if isGiant h.frame then d.dropped j ETH_RX_ERR.GIANT p
      else if !h.frame.fcsOk then d.dropped j ETH_RX_ERR.FCS p
      else d
  { dev := d, mem := e.mem }

/-- The import that runs on an import queue: the owner's first with SRCKIND 2 that names it (R441, R480). -/
def Dev.queueImport (d : Dev) (p q : Nat) (c : CtxId) : Option ImportRun :=
  (d.ctxAt c).imports.find? (fun r => rdb r.entry 0x10 = 2 && rdb r.entry 0x13 = p * 16 + q)

/-- A frame for an import queue: its bytes after the MAC header go to the import that runs on it; a tagged frame, or one
without an import, is dropped (R480). -/
def Dev.importFrame (d : Dev) (j : Nat) (h : HeldFrame) : Dev :=
  let p := h.frame.at'.port.val
  match d.queueCtx j with
  | none => d.dropped j ETH_RX_DROP.NOQ p
  | some c => match d.queueImport p (j % 16) c with
    | none => d.dropped j ETH_RX_DROP.NOQ p
    | some r =>
      if (parseFrame h.frame.bytes).outer.isSome then d.dropped j ETH_RX_DROP.NOQ p
      else if isGiant h.frame then d.dropped j ETH_RX_ERR.GIANT p
      else if !h.frame.fcsOk then d.dropped j ETH_RX_ERR.FCS p
      else
        let r' := { r with buf := r.buf ++ h.frame.bytes.drop 14 }
        d.modCtx c (fun y => { y with imports := y.imports.map (fun i => if i = r then r' else i) })

/-- A steered frame at its queue; none where it must wait for a descriptor (R470, R474, R480). -/
def Dev.deliver (d : Dev) (m : Mem) (h : HeldFrame) : Option Res :=
  let p := h.frame.at'.port.val
  let j := 32 * p + h.queue
  if !d.flag ETH_QCFG.EN j then some { dev := d.dropped j ETH_RX_DROP.NOQ p }
  else if d.flag ETH_QCFG.KIND j then some { dev := d.importFrame j h }
  else if (d.queueDescs j).isEmpty then none
  else some (d.ringFrame m j h)

/-- The first held frame of a sub-port with no earlier one of its priority whose queue no longer keeps it waiting. -/
def firstFree (able : HeldFrame → Bool) : List Nat → List HeldFrame → Option HeldFrame
  | _, [] => none
  | seen, h :: hs =>
    if !seen.contains h.pri && able h then some h else firstFree able (h.pri :: seen) hs

/-- Held frames of a sub-port leave in order as their queues permit (R474), and flow control follows the shares (R477). -/
def releaseHeld (x : SubPort) : Nat → Act
  | 0 => Act.skip
  | n + 1 => fun f m d =>
    match firstFree (fun h => (d.deliver m h).isSome) [] (d.ethSub x).held with
    | none => { dev := d }
    | some h =>
      let d := (d.modSub x (fun s => { s with held := s.held.erase h })).flowControl x
      match d.deliver m h with
      | none => { dev := d }
      | some r => Act.andThen (fun _ _ _ => r) (releaseHeld x n) f m d

/-- The held frames of every sub-port of a port that can leave do. -/
def releasePort (p : Fin 2) : Act := fun f m d =>
  Act.each (fun x => releaseHeld x ((d.ethSub x).held.length)) (subsOf p) f m d

/-! ### Rows -/

/-- A frame waits in its share (R474); one whose FCS is wrong, or a giant, is dropped at its end instead (R466). -/
def Dev.hold (d : Dev) (h : HeldFrame) : Dev :=
  let p := h.frame.at'.port.val
  let j := 32 * p + h.queue
  if isGiant h.frame then d.dropped j ETH_RX_ERR.GIANT p
  else if !h.frame.fcsOk then d.dropped j ETH_RX_ERR.FCS p
  else (d.modSub h.frame.at' (fun s => { s with held := s.held ++ [h] })).flowControl h.frame.at'

/-- A frame that is to be steered: a full share drops it; it waits behind held frames of its priority, is delivered,
waits for a descriptor where PFC covers its priority, or is dropped (R474, R477). -/
def Dev.rxSteered (d : Dev) (m : Mem) (f : EthFrame) : Res :=
  let h := d.steer f
  let p := f.at'.port.val
  let j := 32 * p + h.queue
  let s := d.ethSub f.at'
  if d.shareBytes p < s.share h.pri + frameTakes f then { dev := d.dropped j ETH_RX_DROP.TAIL p }
  else if s.held.any (fun x => x.pri = h.pri) then { dev := d.hold h }
  else match d.deliver m h with
    | some r => r
    | none => if d.pfcOn p h.pri then { dev := d.hold h } else { dev := d.dropped j ETH_RX_DROP.NOBUF p }

/-- A frame arrives (R466, R468): a runt is dropped, a PAUSE or PFC frame consumed, a foreign destination filtered, any
other frame steered. -/
def rxFrame (f : EthFrame) : Act := fun _ m d =>
  let p := f.at'.port.val
  if !d.subUp f.at' then { dev := d }
  else if f.bytes.length < 60 then { dev := d.count ETH_RX_ERR.RUNT p }
  else if isPause f.bytes then { dev := if f.fcsOk then d.rxPause f else d.count ETH_RX_ERR.FCS p }
  else if !d.takesAddr p f.bytes then { dev := d.count ETH_RX_ERR.FILTER p }
  else d.rxSteered m f

/-- FRAME_RECEIVE (R466, R468, R472 to R474, R480). -/
def execFrameReceive (f : EthFrame) (s : State) : Host.Outcome State Fault Refusal :=
  .next (s.run ((releasePort f.at'.port).andThen (rxFrame f)))

/-- PAUSE_FRAME_RECEIVE (R478). -/
def execPauseFrameReceive (f : EthFrame) (s : State) : Host.Outcome State Fault Refusal :=
  .next (s.run (fun fu m d => if isPause f.bytes then rxFrame f fu m d else { dev := d }))

/-- Whether a function reaches a queue's registers and doorbell: the PF all of them, a VF those of its contexts (R429,
R470). -/
def Dev.reachesQueue (d : Dev) (fn : FnId) (j : Nat) : Bool :=
  fn = 0 || (d.queueCtx j).any (fun c => d.owns fn c)

/-- The tail of a queue's ring. -/
def Dev.queueTail (d : Dev) (j : Nat) : Nat := (d.get ETH_QSTAT.HEAD j + d.get ETH_QSTAT.LEVEL j) % d.queueSize j

/-- A doorbell of a queue (R433, R471): a new tail within the ring's room posts the descriptors up to it, else the write
is ignored and counted. -/
def Dev.queueBell (d : Dev) (j v : Nat) (descs : List Bytes) : Dev :=
  let n := d.queueSize j
  let t := v % 65536
  let more := (t + n - d.queueTail j) % n
  let level := d.get ETH_QSTAT.LEVEL j
  if d.flag ETH_QCFG.EN j && t < n && more ≤ n - 1 - level then
    let new := (List.range more).map (fun i => sub (descs.getD i []) 0 32)
    (d.putDescs j (d.queueDescs j ++ new)).put ETH_QSTAT.LEVEL (level + more) j
  else d.count ETH_QSTAT.DB_IGNORED j

/-- A function writes the doorbell of a queue; frames that waited for its descriptors are released (R471, R474). -/
def ethBell (fn : FnId) (j v : Nat) (descs : List Bytes) : Act := fun f m d =>
  if !d.hostUp then { dev := d }
  else if !d.reachesQueue fn j then { dev := d.reject 9 (0x1000 + 8 * j) }
  else ((Act.dev (fun d => d.queueBell j v descs)).andThen (releasePort (Fin.ofNat 2 (j / 32)))) f m d

/-- ETH_DOORBELL (R471, R474): the row carries the descriptors that the new tail posts. -/
def execEthDoorbell (fn : FnId) (queue : Fin 64) (value : W64) (descs : List Bytes) (s : State) :
    Host.Outcome State Fault Refusal :=
  .next (s.run (ethBell fn queue.val value.toNat descs))

/-- The write of ETH_QWM: ARMED set while LEVEL is at or below WM posts a notice at once (R479). -/
def Dev.watermarkWrite (d : Dev) (j : Nat) (w : RegWr) : Dev :=
  let d := d.writeFields .ETH_QWM j false w
  if wrSets w ETH_QWM.ARMED && d.get ETH_QSTAT.LEVEL j ≤ d.get ETH_QWM.WM j then d.watermark j else d

/-- A function writes ETH_QWM of a queue. -/
def Dev.fnWatermark (d : Dev) (fn : FnId) (j : Nat) (w : RegWr) : Dev :=
  if !d.hostUp then d
  else if d.reachesQueue fn j then d.watermarkWrite j w
  else d.rejectAt .ETH_QWM j

/-- WATERMARK_ARM (R479). -/
def execWatermarkArm (fn : FnId) (queue : Fin 64) (w : RegWr) (s : State) : Host.Outcome State Fault Refusal :=
  .next (s.run (Act.dev (fun d => d.fnWatermark fn queue.val w)))

end Sys2Proof.Machine
end

