-- ==== Sys2Proof/Machine/EthTx.lean ====
section
/-! DEFINITION. The transmit side of the Ethernet ports and their configuration (R467, R470, R475, R476, R482, R483). -/

namespace Sys2Proof.Machine

/-! ### Transmit descriptors (R475) -/

/-- Bytes of a transmit descriptor's buffer. -/
def txLen (b : Bytes) : Nat := rd b 8 4

/-- A flag of a transmit descriptor. -/
def txFlag (b : Bytes) (i : Nat) : Bool := bit (rd b 0x0C 2) i

/-- The frame at the head of a transmit queue: the descriptors to the next with EOP, or 32 without one; none while the
frame is not complete (R475).
DEDUCED, log 132. -/
def txFrame (ds : List Bytes) : Option (List Bytes) :=
  match (List.range (Nat.min 32 ds.length)).find? (fun i => txFlag (ds.getD i []) 0) with
  | some i => some (ds.take (i + 1))
  | none => if 32 ≤ ds.length then some (ds.take 32) else none

/-- Statuses of a transmitted frame (R475). -/
def txOk : Nat := 0x00
def txGiant : Nat := 0x01
def txBadDesc : Nat := 0x02
def txLinkDown : Nat := 0x03
def txAccess : Nat := 0x04
def txPoison : Nat := 0x05

/-- The bytes of the IP header that offload needs at the least. -/
def txL3Need (b : Bytes) : Nat := if txFlag b 5 then 40 else 20

/-- What is wrong with a frame's descriptors, before any byte is read (R467, R475): lengths, the limit of 32, the
offload fields, the size of the frame or of its segments. -/
def txCheck (ds : List Bytes) : Nat :=
  let b := ds.getD 0 []
  let total := (ds.map txLen).foldl (· + ·) 0
  let l3 := rdb b 0x10
  let l4 := rdb b 0x11
  let hlen := rd b 0x12 2
  let mss := rd b 0x0E 2
  let tso := txFlag b 3
  let ip := !txFlag b 5 && txFlag b 1
  let l4c := txFlag b 2
  if ds.any (fun x => txLen x = 0 || 262144 < txLen x) || !txFlag (ds.getLastD []) 0 then txBadDesc
  else if tso && (txFlag b 4 || mss < 64 || 9000 < mss || hlen < l4 + 20 || 255 < hlen || total ≤ hlen
      || 262144 < total - hlen || l4 < l3 + txL3Need b) then txBadDesc
  else if tso then (if 9216 < hlen + mss + 4 then txGiant else txOk)
  else if 9212 < total then txGiant
  else if (ip && total < l3 + 20)
      || (l4c && (l4 < l3 + txL3Need b || total < l4 + (if txFlag b 4 then 8 else 20))) then txBadDesc
  else txOk

/-! ### Checksums and segments (R475) -/

/-- Writes a 16-bit field in network order. -/
def putBe (b : Bytes) (o v : Nat) : Bytes := wr b o (beBytes 2 v)

/-- The IPv4 header checksum at offset `l3`. -/
def ip4Sum (b : Bytes) (l3 : Nat) : Bytes :=
  let b := putBe b (l3 + 10) 0
  putBe b (l3 + 10) (0xFFFF - onesSum (sub b l3 (4 * (rdb b l3 % 16))))

/-- The TCP or UDP checksum at offset `l4`, over the bytes to the frame's end; a UDP checksum of 0 goes as 0xFFFF. -/
def l4Sum (b : Bytes) (l3 l4 : Nat) (v6 udp : Bool) : Bytes :=
  let at' := l4 + (if udp then 6 else 16)
  let b := putBe b at' 0
  let n := b.length - l4
  let addrs := if v6 then sub b (l3 + 8) 32 else sub b (l3 + 12) 8
  let v := 0xFFFF - onesSum (pseudo (!v6) addrs (if udp then 17 else 6) n ++ sub b l4 n)
  putBe b at' (if udp && v = 0 then 0xFFFF else v)

/-- Segment i of a TSO frame: a copy of the header before its bytes, its lengths, sequence number, identification, flags
and checksums set (R475). -/
def tsoSegment (d0 bytes : Bytes) (i count : Nat) : Bytes :=
  let hlen := rd d0 0x12 2
  let mss := rd d0 0x0E 2
  let l3 := rdb d0 0x10
  let l4 := rdb d0 0x11
  let v6 := txFlag d0 5
  let part := (bytes.drop (hlen + i * mss)).take mss
  let b := bytes.take hlen ++ part
  let b := if v6 then putBe b (l3 + 4) (b.length - l3 - 40) else putBe b (l3 + 2) (b.length - l3)
  let b := if v6 then b else putBe b (l3 + 4) (beNat (sub b (l3 + 4) 2) + i)
  let b := wr b (l4 + 4) (beBytes 4 (beNat (sub b (l4 + 4) 4) + i * mss))
  let flags := rdb b (l4 + 13)
  let flags := if i + 1 = count then flags else setField (setField flags 0 1 0) 3 1 0
  let flags := if i = 0 then flags else setField flags 7 1 0
  let b := wr b (l4 + 13) (leBytes 1 flags)
  let b := if v6 then b else ip4Sum b l3
  l4Sum b l3 l4 v6 false

/-- The frames that leave for the bytes of a frame, each padded to 60 (R467, R475). -/
def txOut (d0 bytes : Bytes) : List Bytes :=
  let pad := fun (b : Bytes) => b ++ zeros (60 - b.length)
  if txFlag d0 3 then
    let count := ceilDiv (bytes.length - rd d0 0x12 2) (rd d0 0x0E 2)
    (List.range count).map (fun i => pad (tsoSegment d0 bytes i count))
  else
    let b := if txFlag d0 1 && !txFlag d0 5 then ip4Sum bytes (rdb d0 0x10) else bytes
    [pad (if txFlag d0 2 then l4Sum b (rdb d0 0x10) (rdb d0 0x11) (txFlag d0 5) (txFlag d0 4) else b)]

/-! ### Sending (R467, R475, R476) -/

/-- Reads the bytes of one piece of a source in context memory. -/
def Dev.txPiece (d : Dev) (m : Mem) (c : CtxId) (p : Nat × Nat) : Except Nat Bytes :=
  match (d.translate m c none .read false p.1).1 with
  | .here (.mem a) _ => if m.poisoned a p.2 then .error txPoison else .ok (m.read a p.2)
  | _ => .error txAccess

/-- The bytes of a frame from context memory, or the status of the first failure (R475). -/
def Dev.txRead (d : Dev) (m : Mem) (c : CtxId) : List (Nat × Nat) → Except Nat Bytes
  | [] => .ok []
  | p :: ps => match d.txPiece m c p with
    | .error e => .error e
    | .ok b => match d.txRead m c ps with
      | .error e => .error e
      | .ok bs => .ok (b ++ bs)

/-- The transmit queues of a sub-port with a frame ready and a priority that is not stopped (R476). -/
def Dev.txReady (d : Dev) (x : SubPort) (q : Nat) : Bool :=
  let j := 32 * x.port.val + 16 + q
  d.flag ETH_QCFG.EN j && d.get ETH_QCFG.SUB j = x.sub.val && (txFrame (d.queueDescs j)).isSome
    && !bit (d.ethSub x).stopped (d.get ETH_QCFG.PRI j)

/-- The queue that the round-robin pointer of a sub-port grants next (R476). -/
def Dev.txNext (d : Dev) (x : SubPort) : Option Nat :=
  ((List.range 16).map (fun i => ((d.ethSub x).next + i) % 16)).find? (d.txReady x)

/-- Writes back the descriptors of a frame with its status (R475) and counts a failure (R482). -/
def Dev.txDone (d : Dev) (p j n status : Nat) : Dev :=
  let d := (List.range n).foldl (fun d _ => d.writeBack j 0x1E (leBytes 1 status ++ [0x80])) d
  if status = txGiant then d.count ETH_TX_ERR.GIANT p
  else if status = txBadDesc then d.count ETH_TX_ERR.BAD_DESC p
  else if status = txLinkDown then d.count ETH_TX_ERR.LINK_DOWN p
  else if status = txOk then d
  else d.count ETH_TX_ERR.SRC_FAIL p

/-- The bytes of a frame: `data` as the host link returns them, or context memory (R471, R475). -/
def Dev.txBytes (d : Dev) (m : Mem) (j : Nat) (ds : List Bytes) (data : Bytes) : Except Nat Bytes :=
  let owner := if d.flag ETH_QCFG.BUFKIND j then d.queueCtx j else none
  match owner with
  | none => .ok (sub data 0 ((ds.map txLen).foldl (· + ·) 0))
  | some c => d.txRead m c (ds.flatMap (fun b => pieces (rd b 0 8) (txLen b)))

/-- A sub-port takes the next ready frame, sends it and writes back its descriptors (R475, R476). -/
def Dev.txSend (d : Dev) (m : Mem) (x : SubPort) (data : Bytes) : Dev :=
  match d.txNext x with
  | none => d
  | some q =>
    let j := 32 * x.port.val + 16 + q
    let ds := (txFrame (d.queueDescs j)).getD []
    let d := d.modSub x (fun s => { s with next := (q + 1) % 16 })
    let bad := txCheck ds
    if bad ≠ txOk then d.txDone x.port.val j ds.length bad
    else match d.txBytes m j ds data with
      | .error e => d.txDone x.port.val j ds.length e
      | .ok bytes =>
        let d := (txOut (ds.getD 0 []) bytes).foldl (fun d b => d.emit (.frame x b)) d
        d.txDone x.port.val j ds.length txOk

/-- FRAME_TRANSMIT (R467, R475, R476): the row carries what reads of host memory return. -/
def execFrameTransmit (sub : SubPort) (data : Bytes) (s : State) : Host.Outcome State Fault Refusal :=
  .next (s.run (fun _ m d => if d.subUp sub then { dev := d.txSend m sub data } else { dev := d }))

/-- A sub-port goes down: whether a frame was leaving is free; such a frame completes LINK_DOWN (R476).
DESIGN CHOICE, log 133. -/
def Dev.subDown (d : Dev) (x : SubPort) : Dev :=
  let (v, d) := d.draw
  let d := match d.txNext x with
    | none => d
    | some q =>
      let j := 32 * x.port.val + 16 + q
      let ds := (txFrame (d.queueDescs j)).getD []
      if bit v.toNat 0 && txCheck ds = txOk then
        (d.modSub x (fun s => { s with next := (q + 1) % 16 })).txDone x.port.val j ds.length txLinkDown
      else d
  d.put ETH_PORT_CFG.LINK (setField (d.get ETH_PORT_CFG.LINK x.port.val) x.sub.val 1 0) x.port.val

/-- SUB_PORT_LINK (R465, R476). -/
def execSubPortLink (sub : SubPort) (up : Bool) (s : State) : Host.Outcome State Fault Refusal :=
  .next (s.run (Act.dev (fun d =>
    let p := sub.port.val
    if !d.ethUp p || d.subCount p ≤ sub.sub.val then d
    else if up then d.put ETH_PORT_CFG.LINK (setField (d.get ETH_PORT_CFG.LINK p) sub.sub.val 1 1) p
    else if bit (d.get ETH_PORT_CFG.LINK p) sub.sub.val then d.subDown sub
    else d)))

/-! ### Configuration (R470, R482) -/

/-- Whether a port's configuration permits its enable (R482). -/
def Dev.portOk (d : Dev) (p : Nat) : Bool :=
  d.get ETH_PORT_CFG.BREAKOUT p ≠ 3 && d.get ETH_PORT_CFG.FC p ≠ 3
    && d.get ETH_PFC.HEADROOM p + d.get ETH_PFC.HYST p < d.shareBytes p / 1024

/-- A port that is disabled: its links go down and its receive buffers and pauses are gone (R465, R482). -/
def Dev.portStop (d : Dev) (p : Fin 2) : Dev :=
  let d := { d with eth := { d.eth with subs := tblDrop (fun k => k / 4 = p.val) d.eth.subs } }
  (d.put ETH_PORT_CFG.LINK 0 p.val).put ETH_PAUSE.PAUSED 0 p.val

/-- An enabled port whose domain is off is powered (R543). -/
def Dev.portPower (d : Dev) (p : Nat) : Dev := if d.domOn (416 + p) then d else d.domRaised (416 + p)

/-- The write of ETH_PORT_CFG (R482): while EN is 1 only EN changes; EN set is checked. -/
def Dev.portWrite (d : Dev) (port : Fin 2) (w : RegWr) : Dev :=
  let p := port.val
  let d1 := d.writeFields .ETH_PORT_CFG p false w
  if d.flag ETH_PORT_CFG.EN p then
    let en := d1.get ETH_PORT_CFG.EN p
    let others := d1.reg .ETH_PORT_CFG p / 2 ≠ d.reg .ETH_PORT_CFG p / 2
    let d2 := d1.setReg .ETH_PORT_CFG p (setField (d.reg .ETH_PORT_CFG p) 0 1 en)
    let d2 := if others then d2.rejectAt .ETH_PORT_CFG p else d2
    if en = 0 then d2.portStop port else d2
  else if d1.flag ETH_PORT_CFG.EN p then
    if d1.portOk p then (d1.put ETH_PORT_CFG.STATUS 0 p).portPower p
    else (d1.put ETH_PORT_CFG.EN 0 p).put ETH_PORT_CFG.STATUS 1 p
  else d1

/-- ETH_PORT_ENABLE (R482). -/
def execEthPortEnable (port : Fin 2) (w : RegWr) (s : State) : Host.Outcome State Fault Refusal :=
  .next (s.run (mgmtDev .ETH_PORT_CFG port.val (fun d => d.portWrite port w)))

/-- The write of ETH_RULE_DATA (R482): the selected rule, refused where QUEUE + 2^SPAN exceeds 16. -/
def Dev.ruleWrite (d : Dev) (w : RegWr) : Dev :=
  let k := d.get ETH_RULE_SEL.PORT * 32 + d.get ETH_RULE_SEL.INDEX
  let m := lanesMask w.lanes
  let old := tblGet 0 d.eth.rules k
  let v := (old - (old &&& m) + (w.value.toNat &&& m)) % 2 ^ 45
  if 16 < ruleField v ETH_RULE_DATA.QUEUE + 2 ^ ruleField v ETH_RULE_DATA.SPAN then d.rejectAt .ETH_RULE_DATA 0
  else { d with eth := { d.eth with rules := tblSet 0 d.eth.rules k v } }

/-- The write of a port register that belongs to the port's set-up: discarded and counted while EN is 1 (R482). -/
def Dev.setupWrite (d : Dev) (r : RegName) (i p : Nat) (w : RegWr) : Dev :=
  let d1 := d.writeFields r i false w
  if d.flag ETH_PORT_CFG.EN p then (if d1.reg r i ≠ d.reg r i then d.rejectAt r i else d) else d1

/-- ETH_RULE_WRITE (R482). -/
def execEthRuleWrite (w : RegWr) (s : State) : Host.Outcome State Fault Refusal :=
  .next (s.run (mgmtDev .ETH_RULE_DATA 0 (fun d => d.ruleWrite w)))

/-- The fields of ETH_QCFG that a queue does not have: KIND of a transmit queue, PRI and SUB of a receive queue (R483). -/
def Dev.queueTrim (d : Dev) (j : Nat) : Dev :=
  if j / 16 % 2 = 1 then d.put ETH_QCFG.KIND 0 j else (d.put ETH_QCFG.PRI 0 j).put ETH_QCFG.SUB 0 j

/-- Whether OWNER, SLOT or KIND of a queue differ between two states. -/
def ownerChanged (a b : Dev) (j : Nat) : Bool :=
  a.get ETH_QCFG.OWNER j ≠ b.get ETH_QCFG.OWNER j || a.get ETH_QCFG.SLOT j ≠ b.get ETH_QCFG.SLOT j
    || a.get ETH_QCFG.KIND j ≠ b.get ETH_QCFG.KIND j

/-- Whether the owner that a queue would have may own it: the physical function, or a context neither FREE nor KILLING
that has no other queue with the same SLOT (R470). -/
def Dev.ownerOk (d : Dev) (j : Nat) : Bool :=
  let o := d.get ETH_QCFG.OWNER j
  if o = 64 then true
  else if 64 < o then false
  else
    let st := (d.ctxAt (Fin.ofNat 64 o)).state
    st ≠ .free && st ≠ .killing && (List.range 64).all (fun k =>
      k = j || d.get ETH_QCFG.OWNER k ≠ o || d.get ETH_QCFG.SLOT k ≠ d.get ETH_QCFG.SLOT j)

/-- EN of a queue takes effect: only with a SIZE of 6 to 16 (R483), with an empty ring (R430, R471). -/
def Dev.queueEnable (d d0 : Dev) (j : Nat) : Dev :=
  if d.flag ETH_QCFG.EN j && !d0.flag ETH_QCFG.EN j then
    let n := d.get ETH_QCFG.SIZE j
    if 6 ≤ n && n ≤ 16 then ((d.putDescs j []).put ETH_QSTAT.LEVEL 0 j).put ETH_QSTAT.HEAD 0 j else d.put ETH_QCFG.EN 0 j
  else d

/-- A write of ETH_QCFG by the PF or by the VF whose context owns the queue (R470, R471, R483).
DEDUCED, log 134. -/
def Dev.queueWrite (d : Dev) (fn : FnId) (j : Nat) (w : RegWr) : Dev :=
  let d1 := (d.writeFields .ETH_QCFG j false w).queueTrim j
  let moved := ownerChanged d d1 j
  let d1 := if fn = 0 && d.get ETH_QCFG.OWNER j < 64 then d1.put ETH_QCFG.BASE (d.get ETH_QCFG.BASE j) j else d1
  if fn ≠ 0 then
    let o := ((d1.put ETH_QCFG.OWNER (d.get ETH_QCFG.OWNER j) j).put ETH_QCFG.SLOT (d.get ETH_QCFG.SLOT j) j).put
      ETH_QCFG.KIND (d.get ETH_QCFG.KIND j) j
    (if moved then o.rejectAt .ETH_QCFG j else o).queueEnable d j
  else if (moved && (d.flag ETH_QCFG.EN j || !d1.ownerOk j))
      || (d1.get ETH_QCFG.OWNER j = 64 && d1.flag ETH_QCFG.BUFKIND j) then d.rejectAt .ETH_QCFG j
  else d1.queueEnable d j

/-- A function writes ETH_QCFG of a queue; frames held for the queue follow its new state (R470, R474). -/
def ethConfig (fn : FnId) (j : Nat) (w : RegWr) : Act := fun f m d =>
  if !d.hostUp then { dev := d }
  else if !d.reachesQueue fn j then { dev := d.rejectAt .ETH_QCFG j }
  else ((Act.dev (fun d => d.queueWrite fn j w)).andThen (releasePort (Fin.ofNat 2 (j / 32)))) f m d

/-- ETH_QUEUE_CONFIG (R470, R471, R483). -/
def execEthQueueConfig (fn : FnId) (queue : Fin 64) (w : RegWr) (s : State) : Host.Outcome State Fault Refusal :=
  .next (s.run (ethConfig fn queue.val w))

end Sys2Proof.Machine
end

