-- ==== Sys2Proof/Machine/Home.lean ====
section
/-! DEFINITION. Accesses performed at their home (R174, R194 to R196, R199, R268, R306, R308, R309, R316, R317, R389): the
one place where write units, short writes, far atomics and reads from elsewhere meet memory. -/

namespace Sys2Proof.Machine

/-- How an access at its home ends. -/
inductive HomeEnd where
  /-- Performed: the old value of an atomic, whether it is uninitialised and poisoned. -/
  | done (old : Nat) (uninit poison : Bool)
  /-- It waits on a tag (R194). -/
  | wait
  /-- Refused with a STATUS of R389. -/
  | refused (status : Nat)
  deriving DecidableEq, Repr

/-- The STATUS codes of R389. -/
def refAccess : Nat := 1
def refAddr : Nat := 2
def refProt : Nat := 3
def refNotIn : Nat := 4
def refKilled : Nat := 5
def refBadId : Nat := 6
def refPriv : Nat := 7
def refRange : Nat := 8
def refPoison : Nat := 9
def refUninit : Nat := 10

/-- The die on whose links a local address lies (R30, R294). -/
def homeDie (a : Nat) : Nat :=
  match a / 2 ^ 45 with
  | 0 => a % 2 ^ 45 / 2 ^ 36 % 8
  | 1 => a % 2 ^ 45 / 2 ^ 38 % 8
  | _ => a % 2 ^ 45 / 2 ^ 32 % 8

/-- The die of a place. -/
def Place.die : Place → Nat
  | .mem a => homeDie a
  | .ctrl core _ => core / 12
  | .window n _ => n
  | .inval n => n

/-- A refused write unit is counted at its home (R174, R243, R309). -/
def Dev.countRefusal (d : Dev) (die st : Nat) : Dev :=
  if st = refAccess then d.count STR_ERR.ACCESS die
  else if st = refAddr then d.count STR_ERR.ADDR die
  else if st = refProt then d.count STR_ERR.PROT die
  else d

/-- The context of a job on this module: one that is not being killed before one that is (R309, R496). -/
def Dev.jobCtx (d : Dev) (pkey : Nat) : Option CtxId :=
  let cs := allCtx.filter (fun c => (d.ctxAt c).state ≠ .free && (d.ctxAt c).pkey = pkey)
  match cs.find? (fun c => (d.ctxAt c).state ≠ .killing) with
  | some c => some c
  | none => cs.head?

/-- The checks of one place before an access (R34, R174, R301, R309, R495): the STATUS that refuses it. -/
def Dev.placeCheck (d : Dev) (c : CtxId) (pl : Place) (write : Bool) : Option Nat :=
  if !d.placeIn pl then some refNotIn
  else match pl with
    | .ctrl _ _ => some refAccess
    | _ =>
      match (d.right c pl).1 with
      | .no => some refAccess
      | .killed => some refKilled
      | .readOnly => if (d.ctxAt c).state = .killing then some refKilled else if write then some refProt else none
      | .yes => if (d.ctxAt c).state = .killing then some refKilled else none

/-- The checks of the `n` bytes from a place on: of the first and of the last. -/
def Dev.homeCheck (d : Dev) (c : CtxId) (pl : Place) (n : Nat) (write : Bool) : Option Nat :=
  match d.placeCheck c pl write with
  | some st => some st
  | none => match pl with
    | .mem a => if 1 < n then d.placeCheck c (.mem (a + n - 1)) write else none
    | _ => none

/-- Poison marks of a payload: the lines under each marked piece of 64 bytes (R316, R364). -/
def markEffs (a n map : Nat) : List MemEff :=
  (bitsOf map 64).flatMap (fun g => if 64 * g < n then (linesOf (a + 64 * g) (Nat.min 64 (n - 64 * g))).map MemEff.mark else [])

/-- Poison marks of a payload at a place. -/
def Place.marks (pl : Place) (n map : Nat) : List MemEff :=
  match pl with
  | .mem a => markEffs a n map
  | _ => []

/-- A write unit at its home (R195, R196, R306); `own` is a core whose own units write here, which counts in no region. -/
def Dev.homeWrite (d : Dev) (m : Mem) (c : CtxId) (pl : Place) (bs : Bytes) (poison : Bool) (own : Option Nat) : HomeEnd × Dev × List MemEff :=
  let refuse := fun (st : Nat) => (HomeEnd.refused st, d.countRefusal pl.die st, ([] : List MemEff))
  match d.homeCheck c pl bs.length true with
  | some st => refuse st
  | none => match pl with
    | .inval _ =>
      if bs.length ≠ 8 then refuse refAccess
      else
        let (ok, e) := d.invalWord c (leNat bs)
        if ok then (.done 0 false false, e, []) else refuse refAccess
    | .mem a =>
      match d.coreOf a with
      | some k =>
        let l := d.toCoreLocal a
        if d.inHeld k l bs.length then refuse refProt
        else if (d.tagBlock k l bs.length true).isSome then (.wait, d, [])
        else if own ≠ some k && d.spansCommit k l bs.length then refuse refAddr
        else
          let (d, es) := d.unitWrite m c a bs poison
          (.done 0 false false, if own = some k then d else d.countUnit k l, es)
      | none =>
        let (d, es) := d.unitWrite m c a bs poison
        (.done 0 false false, d, es)
    | _ => refuse refAccess

/-- The result of an atomic on a word of `n` bytes (R149, R308). -/
def amoResult (kind : AmoKind) (n old v : Nat) : Nat :=
  let w := 8 * n
  let o := old % 2 ^ w
  let x := v % 2 ^ w
  match kind with
  | .swap => x
  | .add => (o + x) % 2 ^ w
  | .xor => o ^^^ x
  | .and => o &&& x
  | .or => o ||| x
  | .min => if toSigned x w < toSigned o w then x else o
  | .max => if toSigned o w < toSigned x w then x else o
  | .minu => Nat.min o x
  | .maxu => Nat.max o x

/-- An atomic at its home (R268, R308, R316, R317): memory words, and the sync window's AMOADD.D. -/
def Dev.homeAmo (d : Dev) (m : Mem) (c : CtxId) (pl : Place) (kind : AmoKind) (n v : Nat) (sig : Signaller) (far : Bool) :
    HomeEnd × Dev × List MemEff :=
  let refuse := fun (st : Nat) => (HomeEnd.refused st, if far then d.countRefusal pl.die st else d, ([] : List MemEff))
  match d.homeCheck c pl n true with
  | some st => refuse st
  | none => match pl with
    | .window die a =>
      if a < 0x60008000 && a % 8 = 0 && n = 8 && kind = .add then
        let (e, d) := d.windowAdd c die ((a - 0x60000000) / 8) (toSigned v 64) sig
        match e with
        | .ok old => (.done old false false, d, [])
        | .range => (.refused refRange, d, [])
        | .priv => (.refused refPriv, d, [])
        | .badId => (.refused refBadId, d, [])
      else refuse refAccess
    | .mem a =>
      let core := d.coreOf a
      let l := d.toCoreLocal a
      let held := core.any (fun k => d.inHeld k l n)
      let waits := core.any (fun k => (d.tagBlock k l n false).isSome || (d.tagBlock k l n true).isSome)
      if held then refuse refProt
      else if waits then (.wait, d, [])
      else if core.any (fun k => far && d.spansCommit k l n) then refuse refAddr
      else if m.poisoned a n then refuse refPoison
      else
        let un := m.uninit a n
        if un && d.det c then refuse refUninit
        else
          let old := m.num a n
          let (d, es) := d.unitWrite m c a (leBytes n (amoResult kind n old v)) false
          let d := match core with
            | some k => if far then d.countUnit k l else d
            | none => d
          (.done old un false, d, es)
    | _ => refuse refAccess

/-- A read at its home: the bytes, whether any line is poisoned and whether any is uninitialised (R199, R202, R268,
R316, R317). -/
inductive ReadEnd where
  | data (bs : Bytes) (poison uninit : Bool)
  | wait
  | refused (status : Nat)
  deriving DecidableEq, Repr

/-- A read of `n` bytes at their home. -/
def Dev.homeRead (d : Dev) (m : Mem) (c : CtxId) (pl : Place) (n : Nat) : ReadEnd :=
  match d.homeCheck c pl n false with
  | some st => .refused st
  | none => match pl with
    | .window die a =>
      if n ≠ 8 || a % 8 ≠ 0 then .refused refAccess
      else if a < 0x60008000 then
        match d.syncValue c die ((a - 0x60000000) / 8) with
        | some v => .data (leBytes 8 v) false false
        | none => .refused refBadId
      else match d.physOf c die ((a - 0x60100000) / 64) with
        | some p => .data (sub (d.syncRecord die p) (a % 64) 8) false false
        | none => .refused refBadId
    | .mem a =>
      if (d.coreOf a).any (fun k => (d.tagBlock k (d.toCoreLocal a) n false).isSome) then .wait
      else .data (m.read a n) (m.poisoned a n) (m.uninit a n)
    | _ => .refused refAccess

/-- Where an address of a packet lies on this module: SPACE and OFFSET of bits [47:0] (R296, R362). -/
def Dev.pktPlace (d : Dev) (addr : Nat) : Option Place := d.decodeAt none (field addr 45 3) (addr % 2 ^ 45)

end Sys2Proof.Machine
end

