-- ==== Sys2Proof/Machine/Links.lean ====
section
/-! DEFINITION. Links and ports (R325 to R353): the profile, training, port states, credits, quad changes. -/

namespace Sys2Proof.Machine

/-! ### Ports -/

/-- A port's record. -/
def Dev.portAt (d : Dev) (k : Nat) : LnkPort := tblGet LnkPort.init d.lnk k

/-- Changes a port's record. -/
def Dev.modPort (d : Dev) (k : Nat) (f : LnkPort → LnkPort) : Dev := { d with lnk := tblMod LnkPort.init d.lnk k f }

/-- The state of a port, in the codes of LNK_PORT_STAT (R355). -/
def Dev.portState (d : Dev) (k : Nat) : Nat := d.get LNK_PORT_STAT.STATE k
def psDown : Nat := 0
def psTraining : Nat := 1
def psDiscover : Nat := 2
def psArmed : Nat := 3
def psUp : Nat := 4
def psDegraded : Nat := 5

/-- The states of a quad, in the codes of LNK_QUAD (R355). -/
def qsOff : Nat := 0
def qsTraining : Nat := 1
def qsActive : Nat := 2
def qsSpare : Nat := 3
def qsRecal : Nat := 4
def qsFailed : Nat := 5
def qsStray : Nat := 6

/-- The active places of a port, then its spares (R325). -/
def Dev.activePlaces (d : Dev) (k : Nat) : List Nat :=
  (List.range (d.get LNK_PORT_MAP.COUNT k)).map (· + d.get LNK_PORT_MAP.FIRST k)
def Dev.sparePlaces (d : Dev) (k : Nat) : List Nat :=
  (List.range (d.get LNK_PORT_MAP.SPARES k)).map (· + (d.get LNK_PORT_MAP.FIRST k + d.get LNK_PORT_MAP.COUNT k))

/-- The quads of a port. -/
def Dev.portQuads (d : Dev) (k : Nat) : List Nat :=
  if d.portCount k = 0 then [] else d.activePlaces k ++ d.sparePlaces k

/-- The lowest quad of a port, by its unit code. -/
def Dev.portUnit (d : Dev) (k : Nat) : Nat := 0x8A00 + d.get LNK_PORT_MAP.FIRST k

/-- The state of a quad. -/
def Dev.quadState (d : Dev) (q : Nat) : Nat := d.get LNK_QUAD.STATE q

/-- Sets the state of a quad. -/
def Dev.putQuad (d : Dev) (q s : Nat) : Dev := d.put LNK_QUAD.STATE s q

/-- Whether the links are in operation: the start sequence has come as far as its link step (R509). -/
def Dev.linksLive (d : Dev) : Bool :=
  match d.mmc.state with
  | .ready | .running | .halted | .alarm => true
  | .training => d.mmc.start.all (fun r => !r.cold && !r.brynoa) && !d.mmc.heldDown
  | _ => false

/-! ### Credits (R339, R340) -/

/-- The shared pool of a class, in flits per quad. -/
def Dev.pool (d : Dev) (tc : Nat) : Nat :=
  match tc with
  | 0 => d.get LNK_CREDIT.TC0
  | 1 => d.get LNK_CREDIT.TC1
  | 2 => d.get LNK_CREDIT.TC2
  | _ => d.get LNK_CREDIT.TC3

/-- The credits that a VC may use now: reserved ones, then its class's shared ones.
DEDUCED, log 111. -/
def Dev.credits (d : Dev) (k vc : Nat) : Nat × Nat :=
  let p := d.portAt k
  (32 * p.order.length - tblGet 0 p.used vc, d.pool (vc / 2) * p.order.length - tblGet 0 p.shared (vc / 2))

/-- The input buffer of a port takes the flits of a packet. -/
def Dev.holdFlits (d : Dev) (k vc n : Nat) : Dev := d.modPort k (fun p => { p with held := tblMod 0 p.held vc (· + n) })

/-- The receiver frees flits of a VC: those beyond 32 for each quad that the VC held are credited to the shared pool, the
others to the VC's reserved credits (R340). -/
def Dev.freeFlits (d : Dev) (k vc n : Nat) : Dev :=
  d.modPort k (fun p =>
    let h := tblGet 0 p.held vc
    let n := Nat.min n h
    let s := Nat.min n (h - 32 * p.order.length)
    { p with held := tblSet 0 p.held vc (h - n),
             sfreed := tblMod 0 p.sfreed (vc / 2) (fun t => (t + s) % 65536),
             rfreed := tblMod 0 p.rfreed vc (fun t => (t + (n - s)) % 65536) })

/-- Sends what credits allow of the first packet of a VC; a packet whose last flit goes leaves the queue, frees its input
buffer and is presented on the link. -/
def Dev.sendFlits (d : Dev) (k : Nat) (i : Nat) (v : VcPkt) : Dev :=
  let (r, s) := d.credits k v.vc
  let fromR := Nat.min v.left r
  let fromS := Nat.min (v.left - fromR) s
  let left := v.left - fromR - fromS
  let d := d.modPort k (fun p => { p with
    used := tblMod 0 p.used v.vc (· + fromR), shared := tblMod 0 p.shared (v.vc / 2) (· + fromS),
    queue := if left = 0 then p.queue.eraseIdx i else p.queue.set i { v with left := left } })
  if left = 0 then
    let d := match v.inp with
      | some (ik, ivc) => d.freeFlits ik ivc v.flits
      | none => d
    d.emit (.packet k v.vc v.pkt)
  else d

/-- The order in which a port serves its VCs (R342, R344). -/
def vcOrder : List Nat := [1, 0, 3, 2, 5, 4, 7, 6]

/-- Sends from one VC until its first packet has to wait. -/
def Dev.pumpVc (k vc : Nat) : Nat → Dev → Dev
  | 0, d => d
  | fuel + 1, d =>
    match findIdx (fun v => v.vc = vc) (d.portAt k).queue with
    | none => d
    | some (i, v) =>
      let n := (d.portAt k).queue.length
      let d := d.sendFlits k i v
      if (d.portAt k).queue.length < n then Dev.pumpVc k vc fuel d else d

/-- Sends what a port's credits allow. -/
def Dev.pump (d : Dev) (k : Nat) : Dev :=
  vcOrder.foldl (fun d vc => Dev.pumpVc k vc ((d.portAt k).queue.length + 1) d) d

/-- A packet enters the output queue of a port; where the queue holds more than THRESH flits of its class, a data packet
of TC1 or TC2 without CIRC takes the mark, once (R392). -/
def Dev.enqueue (d : Dev) (k : Nat) (upper marked : Bool) (p : Pkt) (inp : Option (Nat × Nat)) : Dev :=
  let tc := p.tc.val
  let depth := (((d.portAt k).queue.filter (fun v => v.vc / 2 = tc)).map (·.left)).foldl (· + ·) 0
  let mark := p.isData && p.secret && !p.circ && d.get RTE_CC.THRESH < depth && !marked
  let p := if mark then { p with trailer := p.trailer ^^^ 1 } else p
  let n := p.flitCount
  let v : VcPkt := { pkt := p, vc := 2 * tc + b2n upper, flits := n, left := n, inp := inp }
  (d.modPort k (fun q => { q with queue := q.queue ++ [v] })).pump k

/-! ### Down and up -/

/-- LINK_DOWN of every circulation context that has a ring on the port (R65, R71). -/
def Dev.ringPortLost (d : Dev) (k : Nat) : Dev :=
  allCtx.foldl (fun d c =>
    match ((d.ctxAt c).rings.filter (fun g => g.upPort = k || g.downPort = k)).map (fun g =>
      ({ Detection.unitOnly 1 (d.portUnit k) with ringId := g.id } : Detection)) with
    | [] => d
    | x :: xs => d.detectNow c (x :: xs)) d

/-- A port goes DOWN (R331, R353, R402): queued packets are discarded and counted, the neighbour entry is cleared, the
quads are off. -/
def Dev.portDown (d : Dev) (k : Nat) (fault : Bool) : Dev :=
  let st := d.portState k
  if st = psDown then d
  else
    let q := (d.portAt k).queue
    let d := q.foldl (fun d v => match v.inp with
      | some (ik, ivc) => if ik = k then d else d.freeFlits ik ivc v.flits
      | none => d) d
    let d := d.count LNK_ERR.DROP_DOWN 0 q.length
    let d := (d.portQuads k).foldl (fun d q => d.putQuad q qsOff) d
    let d := (((d.put LNK_PORT_STAT.STATE psDown k).put LNK_PORT_STAT.ACTIVE 0 k).put LNK_PORT_STAT.SPARE_USED 0 k).count
      LNK_PORT_STAT.DOWNS k
    let d := (d.resetRegsAt [.BRY_NBR, .BRY_NBR_SERIAL] k).modPort k (fun _ => LnkPort.init)
    let d := { d with lnk := tblMap LnkPort.init (fun _ p => { p with
      queue := p.queue.map (fun v => if v.inp.any (fun i => i.1 = k) then { v with inp := none } else v) }) d.lnk }
    let d := if fault then d.logError 2 0 (d.portUnit k) 0x0021 0 0 0 else d
    if psUp ≤ st then d.ringPortLost k else d

/-- Every quad of a port begins to train (R330, R331). -/
def Dev.startTraining (d : Dev) (k : Nat) : Dev :=
  if d.portCount k = 0 || d.portState k ≠ psDown || !d.flag LNK_PORT_CFG.EN k then d
  else
    let d := (d.portQuads k).foldl (fun d q => (d.putQuad q qsTraining).modDom (376 + q) (fun r =>
      if r.state = .on then r else { state := .on, raises := satAdd r.raises 1 0xFFFF })) d
    (d.modPort k (fun _ => LnkPort.init)).put LNK_PORT_STAT.STATE psTraining k

/-- ACTIVE, SPARE_USED and UP or DEGRADED follow the quads that carry flits; with none left the port goes DOWN (R331).
DEDUCED, log 108. -/
def Dev.settlePort (d : Dev) (k : Nat) : Dev :=
  let n := (d.portAt k).order.length
  if n = 0 then d.portDown k true
  else
    let d := (d.put LNK_PORT_STAT.ACTIVE n k).put LNK_PORT_STAT.SPARE_USED (d.portAt k).standIn.length k
    let d := if psUp ≤ d.portState k then
        d.put LNK_PORT_STAT.STATE (if n < d.get LNK_PORT_MAP.COUNT k then psDegraded else psUp) k
      else d
    d.pump k

/-- A port leaves DISCOVER: its credits stand at their full values, every total at zero (R353). -/
def Dev.fullCredits (d : Dev) (k : Nat) : Dev :=
  d.modPort k (fun p => { p with used := [], shared := [], rseen := [], sseen := [], rfreed := [], sfreed := [] })

/-- A flip admits an ARMED port (R331, R373). -/
def Dev.admitPort (d : Dev) (k : Nat) : Dev :=
  if d.portState k = psArmed then (d.put LNK_PORT_STAT.STATE psUp k).settlePort k else d

/-! ### The profile (R326, R327) -/

/-- The ports of a named profile: FIRST, COUNT, AUX. -/
def profilePort (profile k : Nat) : Nat × Nat × Bool :=
  match profile with
  | 0 => if k < 2 then (16 * k, 16, false) else if k = 2 then (32, 4, true) else (0, 0, false)
  | 1 => if k < 4 then (8 * k, 8, false) else if k = 4 then (32, 4, true) else (0, 0, false)
  | 2 => if k < 6 then (6 * k, 6, false) else (0, 0, false)
  | _ => (3 * k, 3, false)

/-- The quads that LNK_PORT_MAPk names. -/
def Dev.mapQuads (d : Dev) (k : Nat) : List Nat :=
  (List.range (d.get LNK_PORT_MAP.COUNT k + d.get LNK_PORT_MAP.SPARES k)).map (· + d.get LNK_PORT_MAP.FIRST k)

/-- The quads that a module pair of lock-step holds (R416, R530). -/
def Dev.heldQuads (d : Dev) : List Nat :=
  if d.lockForm 1 then
    (List.range 12).flatMap (fun k => if d.flag LNK_PORT_MAP.AUX k && d.get LNK_PORT_MAP.COUNT k ≠ 0 then d.mapQuads k else [])
  else []

/-- The checks of a CUSTOM commit in port order (R327, R355): the STATUS and BADPORT of the first that fails. -/
def Dev.customCheck (d : Dev) : List Nat → List Nat → Option (Nat × Nat)
  | [], seen => if seen.isEmpty then some (2, 0) else none
  | k :: ks, seen =>
    let n := d.get LNK_PORT_MAP.COUNT k
    let sp := d.get LNK_PORT_MAP.SPARES k
    if n = 0 then d.customCheck ks seen
    else if 36 < d.get LNK_PORT_MAP.FIRST k + n + sp || sp = 3 then some (2, k)
    else if (d.mapQuads k).any seen.contains then some (3, k)
    else if !d.flag LNK_PORT_MAP.AUX k && (d.mapQuads k).any d.heldQuads.contains then some (4, k)
    else d.customCheck ks (seen ++ d.mapQuads k)

/-- Commits the link set-up (R327, R328). -/
def Dev.linkCommit (d : Dev) : Dev :=
  let prof := d.get LNK_PROFILE.PROFILE
  let fail := fun (st k : Nat) => (d.put LNK_PROFILE.STATUS st).put LNK_PROFILE.BADPORT k
  if d.flag LNK_PROFILE.COMMITTED then d
  else if 4 < prof then fail 1 0
  else if 1792 < d.pool 0 + d.pool 1 + d.pool 2 + d.pool 3 then fail 2 0
  else match (if prof = 4 then d.customCheck (List.range 12) [] else none) with
    | some (st, k) => fail st k
    | none =>
      let d := if prof = 4 then d
        else (List.range 12).foldl (fun d k =>
          let (f, n, a) := profilePort prof k
          (((d.put LNK_PORT_MAP.FIRST f k).put LNK_PORT_MAP.COUNT n k).put LNK_PORT_MAP.SPARES 0 k).put LNK_PORT_MAP.AUX (b2n a) k) d
      let d := ((d.put LNK_PROFILE.COMMITTED 1).put LNK_PROFILE.STATUS 0).put LNK_PROFILE.BADPORT 0
      let d := (List.range 12).foldl (fun d k =>
        (if d.get LNK_PORT_MAP.COUNT k = 0 then [] else d.mapQuads k).foldl (fun d q => d.put LNK_QUAD.PORT k q) d) d
      if d.linksLive then (List.range 12).foldl Dev.startTraining d else d

/-- The write of LNK_PROFILE (R327, R328). -/
def Dev.profileWrite (d : Dev) (w : RegWr) : Dev :=
  let d := d.writeFields .LNK_PROFILE 0 (d.flag LNK_PROFILE.COMMITTED) w
  if wrSets w LNK_PROFILE.COMMIT then d.linkCommit else d

/-- LINK_PROFILE_COMMIT (R327, R328). -/
def execLinkProfileCommit (w : RegWr) (s : State) : Host.Outcome State Fault Refusal :=
  .next (s.run (mgmtDev .LNK_PROFILE 0 (fun d => d.profileWrite w)))

/-- Whether a write of LNK_PORT_CFG may not change the HINGE and GROUP copies of a version: it is in force, or the flip is
pending (R372). -/
def Dev.copyLocked (d : Dev) (v : Nat) : Bool := d.get RTE_FLIP.INFORCE = v || d.flag RTE_FLIP.PENDING

/-- The fields of a port's copy for a Tumbler value (R343). -/
def hingeFld (v : Nat) : Fld := if v = 0 then LNK_PORT_CFG.HINGE0 else LNK_PORT_CFG.HINGE1
def groupFld (v : Nat) : Fld := if v = 0 then LNK_PORT_CFG.GROUP0 else LNK_PORT_CFG.GROUP1

/-- The write of LNK_PORT_CFGk: a refused copy stays and is counted (R331, R343, R372). -/
def Dev.portCfgWrite (d : Dev) (k : Nat) (w : RegWr) : Dev :=
  let old := d
  let d := d.writeFields .LNK_PORT_CFG k false w
  let d := [0, 1].foldl (fun d v =>
    if !old.copyLocked v then d
    else [hingeFld v, groupFld v].foldl (fun d f =>
      if d.get f k = old.get f k then d else (d.put f (old.get f k) k).count RTE_ERR.TBLREJ) d) d
  if !wrCarries w LNK_PORT_CFG.EN then d
  else if d.flag LNK_PORT_CFG.EN k then
    (if d.flag LNK_PROFILE.COMMITTED && d.linksLive then d.startTraining k else d)
  else d.portDown k false

/-- PORT_ENABLE (R331): EN set starts training, EN cleared takes the port DOWN. -/
def execPortEnable (port : PortId) (w : RegWr) (s : State) : Host.Outcome State Fault Refusal :=
  .next (s.run (mgmtDev .LNK_PORT_CFG port.val (fun d => d.portCfgWrite port.val w)))

/-! ### Training (R330, R331) -/

/-- A port all of whose quads have settled, with an active quad trained, enters DISCOVER: spares fill failed places. -/
def Dev.trainingSettle (d : Dev) (k : Nat) : Dev :=
  let qs := d.portQuads k
  if d.portState k ≠ psTraining || qs.any (fun q => d.quadState q = qsTraining) then d
  else if !(d.activePlaces k).any (fun q => d.quadState q = qsActive) then d
  else
    let fill := (d.activePlaces k).foldl (fun (acc : List Nat × List (Nat × Nat) × List Nat) q =>
      if d.quadState q = qsActive then (acc.1 ++ [q], acc.2.1, acc.2.2)
      else match acc.2.2 with
        | [] => acc
        | s :: rest => (acc.1 ++ [s], acc.2.1 ++ [(q, s)], rest))
      ([], [], (d.sparePlaces k).filter (fun q => d.quadState q = qsSpare))
    let d := fill.2.1.foldl (fun d e => d.putQuad e.2 qsActive) d
    let d := d.modPort k (fun p => { p with order := fill.1, standIn := fill.2.1 })
    (d.put LNK_PORT_STAT.STATE psDiscover k).settlePort k

/-- The record of a quad that has failed (R527, R528).
DEDUCED, log 110. -/
def Dev.quadRecord (d : Dev) (q : Nat) : Dev := d.logError 2 0 (0x8A00 + q) 0x0020 0 2 q

/-- The body of a link-control flit (R337), CHK included. -/
def Dev.lcfBody (d : Dev) (k req rq id at' setCount : Nat) : Bytes :=
  let p := d.portAt k
  let b := zeros 4 ++ (List.range 8).flatMap (fun v => leBytes 2 (tblGet 0 p.rfreed v))
    ++ (List.range 4).flatMap (fun t => leBytes 2 (tblGet 0 p.sfreed t))
    ++ leBytes 1 req ++ leBytes 1 rq ++ leBytes 1 id ++ zeros 1 ++ leBytes 4 at' ++ leBytes 4 setCount
    ++ leBytes 8 (d.get BRY_SERIAL.SERIAL) ++ zeros 76
  b ++ leBytes 4 (crc32c b)

/-- Sends an LCF with a request or an answer; the set count is a free value.
DESIGN CHOICE, log 107. -/
def Dev.sendLcf (d : Dev) (k req rq id at' : Nat) : Dev :=
  let (n, d) := d.draw
  d.emit (.lcf (Fin.ofNat 12 k) (d.lcfBody k req rq id at' (n.toNat % 2 ^ 32)))

/-- The index of a quad within its port, and the quad of an index. -/
def Dev.quadIndex (d : Dev) (k q : Nat) : Nat := q - d.get LNK_PORT_MAP.FIRST k

/-- This end requests a change; SWITCH_AT is a free value (R350). -/
def Dev.requestChange (d : Dev) (k req q spare : Nat) (recal : Bool) : Dev :=
  let (v, d) := d.draw
  let at' := v.toNat % 2 ^ 32
  let id := (d.portAt k).nextId
  let rq := if req = 3 then d.quadIndex k q % 16 + 16 * (d.quadIndex k spare % 16) else d.quadIndex k q
  let d := d.modPort k (fun p => { p with
    nextId := (p.nextId + 1) % 256,
    change := some { own := true, req := req, quad := q, spare := spare, id := id, switchAt := at', agreed := false, recal := recal } })
  d.sendLcf k req rq id at'

/-- A trained spare of a port that carries no flits. -/
def Dev.freeSpare (d : Dev) (k : Nat) : Option Nat :=
  (d.portQuads k).find? (fun q => d.quadState q = qsSpare && !(d.portAt k).order.contains q)

/-- Requests the substitution or the removal of a quad, or takes the port DOWN where it is the last (R349). -/
def Dev.requestLoss (d : Dev) (k q : Nat) (recal : Bool) : Dev :=
  match d.freeSpare k with
  | some s => d.requestChange k 3 q s recal
  | none =>
    if (d.portAt k).order.any (· ≠ q) then d.requestChange k 1 q 0 recal
    else d.portDown k true

/-- Requests the next change that waits, failures first (R352). -/
def Dev.nextChange (d : Dev) (k : Nat) : Dev :=
  let p := d.portAt k
  if p.change.isSome then d
  else match (p.todo.find? (fun t => !t.1)).or p.todo.head? with
    | none => d
    | some t =>
      let d := d.modPort k (fun p => { p with todo := p.todo.erase t })
      if t.1 then d.requestChange k 2 t.2 0 true
      else if p.order.contains t.2 then d.requestLoss k t.2 false
      else d

/-- QUAD_TRAINING_DONE (R330, R331, R351): a quad that trains settles; one that recalibrates asks to rejoin or has failed.
A quad whose peer reports another serial than the port's first is STRAY.
DEDUCED, log 106. -/
def execQuadTrainingDone (quad : QuadId) (outcome : TrainOutcome) (s : State) : Host.Outcome State Fault Refusal :=
  .next (s.run (Act.dev (fun d =>
    let q := quad.val
    let k := d.get LNK_QUAD.PORT q
    let st := d.quadState q
    if st = qsTraining then
      let own := if (d.activePlaces k).contains q then qsActive else qsSpare
      let d := match outcome with
        | .failed => (d.putQuad q qsFailed).quadRecord q
        | .stray => d.putQuad q qsStray
        | .trained ser =>
          match (d.portAt k).peer with
          | none => (d.modPort k (fun p => { p with peer := some ser.toNat })).putQuad q own
          | some o => d.putQuad q (if o = ser.toNat then own else qsStray)
      d.trainingSettle k
    else if st = qsRecal then
      match outcome with
      | .trained _ =>
        if (d.portAt k).recal.contains q then
          (d.modPort k (fun p => { p with todo := p.todo ++ [(true, q)], recal := p.recal.filter (· ≠ q) })).nextChange k
        else d
      | _ => (((d.putQuad q qsFailed).put LNK_QUAD.RSTAT 6 q).modPort k (fun p => { p with
          recal := p.recal.filter (· ≠ q) })).quadRecord q
    else d)))

/-- TRAINING_TIMEOUT (R331): 2 s without an active quad trained. -/
def execTrainingTimeout (port : PortId) (s : State) : Host.Outcome State Fault Refusal :=
  .next (s.run (Act.dev (fun d =>
    let k := port.val
    if d.portState k = psTraining && !(d.activePlaces k).any (fun q => d.quadState q = qsActive) then
      (d.portDown k false).modPort k (fun p => { p with retry := true })
    else d)))

/-- TRAINING_RETRY (R331): 1 s after the timeout. -/
def execTrainingRetry (port : PortId) (s : State) : Host.Outcome State Fault Refusal :=
  .next (s.run (Act.dev (fun d =>
    if (d.portAt port.val).retry then (d.modPort port.val (fun p => { p with retry := false })).startTraining port.val else d)))

/-! ### Link-control flits (R334, R337, R349 to R352) -/

/-- Whether an LCF is one: TYPE 0x00, 128 bytes, CHK right (R337). -/
def lcfGood (f : Bytes) : Bool := f.length = 128 && rdb f 0 = 0 && rd f 0x7C 4 = crc32c (f.take 0x7C)

/-- The running totals of an LCF release credits (R337, R340). -/
def Dev.takeCredits (d : Dev) (k : Nat) (f : Bytes) : Dev :=
  let d := (List.range 8).foldl (fun d v =>
    let t := rd f (4 + 2 * v) 2
    d.modPort k (fun p =>
      let n := (t + 65536 - tblGet 0 p.rseen v) % 65536
      { p with rseen := tblSet 0 p.rseen v t, used := tblMod 0 p.used v (· - n) })) d
  let d := (List.range 4).foldl (fun d c =>
    let t := rd f (0x14 + 2 * c) 2
    d.modPort k (fun p =>
      let n := (t + 65536 - tblGet 0 p.sseen c) % 65536
      { p with sseen := tblSet 0 p.sseen c t, shared := tblMod 0 p.shared c (· - n) })) d
  d.pump k

/-- This end's request loses to a crossing one (R352): a recalibration reports CONFLICT, a failure is asked for again. -/
def Dev.loseChange (d : Dev) (k : Nat) : Dev :=
  match (d.portAt k).change with
  | none => d
  | some c =>
    let d := d.modPort k (fun p => { p with change := none })
    if !c.own then d
    else if c.req = 2 then d.modPort k (fun p => { p with todo := p.todo ++ [(true, c.quad)] })
    else if c.recal then d.put LNK_QUAD.RSTAT 4 c.quad
    else d.modPort k (fun p => { p with todo := p.todo ++ [(false, c.quad)] })

/-- Whether a request of the peer can be carried out. -/
def Dev.changeOk (d : Dev) (k req q spare : Nat) : Bool :=
  let o := (d.portAt k).order
  match req with
  | 1 => o.contains q && o.any (· ≠ q)
  | 3 => o.contains q && (d.portQuads k).contains spare && !o.contains spare && d.quadState spare = qsSpare
  | _ => (d.portQuads k).contains q && !o.contains q

/-- The peer requests a change: it is acknowledged, or refused (R349 to R352).
DEDUCED, log 109. -/
def Dev.peerRequest (d : Dev) (k : Nat) (f : Bytes) : Dev :=
  let req := rdb f 0x1C
  let rq := rdb f 0x1D
  let id := rdb f 0x1E
  let at' := rd f 0x20 4
  let first := d.get LNK_PORT_MAP.FIRST k
  let q := first + (if req = 3 then rq % 16 else rq)
  let spare := first + rq / 16
  let refuse := d.sendLcf k 5 rq id at'
  let accept := fun (d : Dev) =>
    (d.modPort k (fun p => { p with
      change := some { own := false, req := req, quad := q, spare := spare, id := id, switchAt := at', agreed := true,
                       recal := false } })).sendLcf k 4 rq id at'
  if !d.changeOk k req q spare then refuse
  else match (d.portAt k).change with
    | none => accept d
    | some c =>
      if !c.own || c.agreed then refuse
      else
        let lower := rd f 0x28 8 < d.get BRY_SERIAL.SERIAL
        if c.req = req && c.quad = q && (req ≠ 3 || c.spare = spare) then
          (d.modPort k (fun p => { p with change := some { c with
            agreed := true, switchAt := if lower then at' else c.switchAt } })).sendLcf k 4 rq id (if lower then at' else c.switchAt)
        else if lower then accept (d.loseChange k)
        else refuse

/-- The peer acknowledges this end's request (R350). -/
def Dev.peerAck (d : Dev) (k : Nat) (f : Bytes) : Dev :=
  match (d.portAt k).change with
  | some c =>
    if c.own && c.id = rdb f 0x1E && c.switchAt = rd f 0x20 4 then
      d.modPort k (fun p => { p with change := some { c with agreed := true } })
    else d
  | none => d

/-- The peer refuses this end's request (R352). -/
def Dev.peerRefuse (d : Dev) (k : Nat) (f : Bytes) : Dev :=
  match (d.portAt k).change with
  | some c => if c.own && !c.agreed && c.id = rdb f 0x1E then d.loseChange k else d
  | none => d

/-- An LCF arrives on a port that has left training: credits, then its request. -/
def Dev.takeLcf (d : Dev) (k : Nat) (f : Bytes) : Dev :=
  if !lcfGood f || d.portState k < psDiscover then d
  else
    let d := d.takeCredits k f
    match rdb f 0x1C with
    | 1 => d.peerRequest k f
    | 2 => d.peerRequest k f
    | 3 => d.peerRequest k f
    | 4 => d.peerAck k f
    | 5 => d.peerRefuse k f
    | _ => d

/-- An LCF with a certain request. -/
def lcfAct (port : PortId) (flit : Bytes) (req : Nat) : Act :=
  Act.dev (fun d => if rdb flit 0x1C = req then d.takeLcf port.val flit else d)

/-- LCF (R337). -/
def execLcf (port : PortId) (flit : Bytes) (s : State) : Host.Outcome State Fault Refusal :=
  .next (s.run (Act.dev (fun d => d.takeLcf port.val flit)))

/-- LCF_TIMEOUT (R334): 1 microsecond without an LCF on any quad. -/
def execLcfTimeout (port : PortId) (s : State) : Host.Outcome State Fault Refusal :=
  .next (s.run (Act.dev (fun d => if psDiscover ≤ d.portState port.val then d.portDown port.val true else d)))

/-- REMOVE_QUAD (R349). -/
def execRemoveQuad (port : PortId) (flit : Bytes) (s : State) : Host.Outcome State Fault Refusal :=
  .next (s.run (lcfAct port flit 1))

/-- ADD_QUAD (R351). -/
def execAddQuad (port : PortId) (flit : Bytes) (s : State) : Host.Outcome State Fault Refusal :=
  .next (s.run (lcfAct port flit 2))

/-- SUBSTITUTE_SPARE (R349). -/
def execSubstituteSpare (port : PortId) (flit : Bytes) (s : State) : Host.Outcome State Fault Refusal :=
  .next (s.run (lcfAct port flit 3))

/-- QUAD_ACKNOWLEDGE (R350). -/
def execQuadAcknowledge (port : PortId) (flit : Bytes) (s : State) : Host.Outcome State Fault Refusal :=
  .next (s.run (lcfAct port flit 4))

/-- QUAD_REFUSE (R352). -/
def execQuadRefuse (port : PortId) (flit : Bytes) (s : State) : Host.Outcome State Fault Refusal :=
  .next (s.run (lcfAct port flit 5))

/-- A quad leaves the slot order: it recalibrates, unless it has failed (R349, R351). -/
def Dev.quadLeaves (d : Dev) (k q : Nat) (own recal : Bool) : Dev :=
  if d.quadState q = qsFailed then d
  else
    let d := d.putQuad q qsRecal
    if own && recal then d.modPort k (fun p => { p with recal := p.recal ++ [q] }) else d

/-- The slot order changes as agreed (R350). -/
def Dev.applyChange (d : Dev) (k : Nat) (c : QuadChange) : Dev :=
  let d := d.modPort k (fun p => { p with change := none })
  match c.req with
  | 1 =>
    ((d.modPort k (fun p => { p with order := p.order.filter (· ≠ c.quad),
                                     standIn := p.standIn.filter (fun e => e.2 ≠ c.quad) })).quadLeaves k c.quad c.own c.recal)
  | 3 =>
    ((d.modPort k (fun p => { p with
      order := p.order.map (fun q => if q = c.quad then c.spare else q),
      standIn := match p.standIn.find? (fun e => e.2 = c.quad) with
        | some e => p.standIn.map (fun x => if x = e then (e.1, c.spare) else x)
        | none => p.standIn ++ [(c.quad, c.spare)] })).putQuad c.spare qsActive).quadLeaves k c.quad c.own c.recal
  | _ =>
    let p := d.portAt k
    if p.standIn.any (fun e => e.1 = c.quad) || !(d.activePlaces k).contains c.quad then d.putQuad c.quad qsSpare
    else
      let order := (d.activePlaces k).filterMap (fun q =>
        if q = c.quad || p.order.contains q then some q else (p.standIn.find? (fun e => e.1 = q)).map (·.2))
      (d.putQuad c.quad qsActive).modPort k (fun p => { p with order := order })

/-- SWITCH_AT_REACHED (R350). -/
def execSwitchAtReached (port : PortId) (s : State) : Host.Outcome State Fault Refusal :=
  .next (s.run (Act.dev (fun d =>
    let k := port.val
    match (d.portAt k).change with
    | some c => if c.agreed then ((d.applyChange k c).settlePort k).nextChange k else d
    | none => d)))

/-- QUAD_FAIL (R349, R352): a quad of a port in operation fails; its end asks for a spare in its place or for its removal,
at once or, while another change is under way, after it; its own recalibration request gives way. -/
def execQuadFail (quad : QuadId) (s : State) : Host.Outcome State Fault Refusal :=
  .next (s.run (Act.dev (fun d =>
    let q := quad.val
    let k := d.get LNK_QUAD.PORT q
    let st := d.quadState q
    if st ≠ qsActive && st ≠ qsSpare then d
    else
      let d := (d.putQuad q qsFailed).quadRecord q
      if !(d.portAt k).order.contains q || d.portState k < psDiscover then d
      else
        let d := match (d.portAt k).change with
          | some c => if c.own && c.recal && !c.agreed then d.loseChange k else d
          | none => d
        match (d.portAt k).change with
        | none => d.requestLoss k q false
        | some _ =>
          if (d.portAt k).order.any (· ≠ q) then d.modPort k (fun p => { p with todo := p.todo ++ [(false, q)] })
          else d.portDown k true)))

/-- UNCORRECTABLE_SET (R338): the set's 20 flits are discarded and counted, the credits of those that belong to VCs are
returned.  A packet that loses a flit never arrives; the next that arrives on its VC begins with SOP. -/
def execUncorrectableSet (quad : QuadId) (vcs : List (Fin 8)) (s : State) : Host.Outcome State Fault Refusal :=
  .next (s.run (Act.dev (fun d =>
    let k := d.get LNK_QUAD.PORT quad.val
    let d := (d.count LNK_QUAD.UNCORR quad.val).count LNK_ERR.FLIT_DISC 0 20
    if k < 12 then vcs.foldl (fun d v => (d.holdFlits k v.val 1).freeFlits k v.val 1) d else d)))

/-- The checks of a recalibration (R351, R352, R530): the RSTAT that refuses it. -/
def Dev.recalCheck (d : Dev) (k q : Nat) : Option Nat :=
  let st := d.quadState q
  if 12 ≤ k || d.portState k < psUp then some 5
  else if (d.portQuads k).any (fun x => d.quadState x = qsRecal) || (d.portAt k).change.isSome then some 2
  else if st ≠ qsActive && st ≠ qsSpare then some 5
  else if d.heldQuads.contains q then some 4
  else if !(d.portAt k).order.any (· ≠ q) then some 3
  else none

/-- The write of LNK_QUADq: RECAL asks an active quad for a spare or its removal first; a spare retrains at once (R351). -/
def Dev.quadWrite (d : Dev) (q : Nat) (w : RegWr) : Dev :=
  let k := d.get LNK_QUAD.PORT q
  let d := d.writeFields .LNK_QUAD q false w
  if !wrSets w LNK_QUAD.RECAL then d
  else match d.recalCheck k q with
    | some r => d.put LNK_QUAD.RSTAT r q
    | none =>
      let d := d.put LNK_QUAD.RSTAT 1 q
      if (d.portAt k).order.contains q then d.requestLoss k q true
      else (d.putQuad q qsRecal).modPort k (fun p => { p with recal := p.recal ++ [q] })

/-- RECAL (R351). -/
def execRecal (quad : QuadId) (w : RegWr) (s : State) : Host.Outcome State Fault Refusal :=
  .next (s.run (mgmtDev .LNK_QUAD quad.val (fun d => d.quadWrite quad.val w)))

end Sys2Proof.Machine
end

