-- ==== Sys2Proof/Machine/Router.lean ====
section
/-! DEFINITION. The router (R343, R366 to R380) and the source's end of flows (R381, R385 to R387, R393): tables, keys,
the Tumbler, how a packet is numbered, sealed, routed and sent again. -/

namespace Sys2Proof.Machine

/-! ### Tables (R367, R368, R372, R378) -/

/-- Where a table entry is kept. -/
def rteKey (kind ver port idx : Nat) : Nat := ((kind * 2 + ver) * 16 + port) * 65536 + idx

/-- A table entry: kind 0 routing, 1 circuit, 2 partition key. -/
def Dev.entry (d : Dev) (kind ver port idx : Nat) : Nat := tblGet 0 d.rte.tbl (rteKey kind ver port idx)

/-- Changes the router. -/
def Dev.modRte (d : Dev) (f : Rte → Rte) : Dev := { d with rte := f d.rte }

/-- The version in force. -/
def Dev.inforce (d : Dev) : Nat := d.get RTE_FLIP.INFORCE

/-- The local table's port. -/
def localPort : Nat := 12

/-- Whether a packet passes the key table of a port (R378). -/
def Dev.keyPasses (d : Dev) (port : Nat) (p : Pkt) : Bool :=
  let k := p.pkey.toNat
  if k = 0 then p.tc.val = 0
  else if k = 0xFFFF then p.tc.val = 3
  else (List.range 32).any (fun i =>
    let e := d.entry 2 0 port i
    bit e 32 && ((k ^^^ field e 0 16) &&& field e 16 16) = 0 && bit (field e 33 4) p.tc.val)

/-- A partition-key violation at a port: on arrival, or before sending (R380). -/
def Dev.violation (d : Dev) (port : Nat) (p : Pkt) (sending : Bool) : Dev :=
  ((((d.count RTE_PVIOL.COUNT port).put RTE_PVIOL.LAST_PKEY p.pkey.toNat port).put RTE_PVIOL.LAST_TC p.tc.val port).put
    RTE_PVIOL.DIR (b2n sending) port)

/-- Where the router sends a packet. -/
inductive Route where
  | here
  | out (port : Nat)
  | none
  /-- The circuit carries another key (R368). -/
  | wrongKey
  deriving DecidableEq, Repr

/-- R366 to R368: circuit table, own ID, routing table of the input port, in the version that TUMBLER names. -/
def Dev.route (d : Dev) (inPort : Nat) (p : Pkt) : Route :=
  let v := b2n p.tumbler
  if p.circ then
    let e := d.entry 1 v inPort (p.dst.toNat % 4096)
    if !bit e 0 then .none
    else if field e 16 16 ≠ p.pkey.toNat then .wrongKey
    else if bit e 1 then .here
    else .out (field e 2 4)
  else if p.dst.toNat = d.moduleId then .here
  else
    let e := d.entry 0 v inPort p.dst.toNat
    if !bit e 0 then .none
    else .out (field e (3 + 4 * ((p.src.toNat + p.dst.toNat + p.tc.val) % (field e 1 2 + 1))) 4)

/-- Whether a port carries a packet: UP or DEGRADED, TC1 on no AUX port, nothing but lock-step on a port that a module
pair holds; an ARMED port carries TC0 and TC3 packets of this module for its neighbour (R325, R329, R332). -/
def Dev.carries (d : Dev) (k : Nat) (own : Bool) (p : Pkt) : Bool :=
  let st := d.portState k
  let tc := p.tc.val
  if 12 ≤ k then false
  else if psUp ≤ st then !(d.portAux k && (tc = 1 || d.lockForm 1))
  else st = psArmed && own && (tc = 0 || tc = 3) && !p.circ && (d.portAt k).hello.any (fun h => bit (rdb h 0xE) 6 && rd h 8 2 = p.dst.toNat)

/-- The HINGE and GROUP of a port in the copy in force (R343). -/
def Dev.hinge (d : Dev) (k : Nat) : Bool := d.flag (hingeFld d.inforce) k
def Dev.group (d : Dev) (k : Nat) : Nat := d.get (groupFld d.inforce) k

/-- The side on which a packet leaves: of the module's own, and forwarded from an input port (R343). -/
def Dev.ownSide (d : Dev) (k : Nat) (ringHinge : Bool) : Bool := ringHinge || d.hinge k
def Dev.forwardSide (d : Dev) (i k : Nat) (upper : Bool) : Bool := d.hinge k || (d.group i = d.group k && upper)

/-! ### Sending -/

/-- The key of a flow. -/
def flowKey (peer tc : Nat) : Nat := peer * 4 + tc

/-- The source's end of a flow. -/
def Dev.sendFlow (d : Dev) (f : Nat) : SendFlow := tblGet SendFlow.init d.rte.send f

/-- Changes the source's end of a flow. -/
def Dev.modSend (d : Dev) (f : Nat) (g : SendFlow → SendFlow) : Dev :=
  d.modRte (fun r => { r with send := tblMod SendFlow.init r.send f g })

/-- The flow of a packet that an attachment holds. -/
def OutPkt.flow (o : OutPkt) : Nat := flowKey o.dest o.pkt.tc.val

/-- Whether CLAMP or ERASE stops a packet: in ALARM the router takes TC3 and link-local packets alone (R500). -/
def Dev.clamps (d : Dev) (p : Pkt) : Bool := d.mmc.state = .alarm && p.tc.val ≠ 3 && !p.linkLocal

/-- A packet leaves the module's side of the router: stamped with the version in force, sealed, checked against the keys
of port 12 and of the output port, routed, queued (R359, R366, R374, R378, R380, R381). -/
def Dev.transmit (d : Dev) (att : Nat) (o : OutPkt) (seq : Nat) (syn : Bool) : Dev :=
  if d.clamps o.pkt then d.count LNK_ERR.DROP_DOWN
  else
    let p := { o.pkt with seq := BitVec.ofNat 16 seq }
    let p := (p.putFlag 0 1 d.inforce).putFlag 1 1 (b2n syn)
    match d.sealPkt att p with
    | (none, d) => d
    | (some p, d) =>
      if !d.keyPasses localPort p then d.violation localPort p false
      else
        let r := match o.port with
          | some k => Route.out k
          | none => d.route localPort p
        match r with
        | .here => d.modRte (fun r => { r with loop := r.loop ++ [p] })
        | .none => d.count RTE_ERR.NOROUTE
        | .wrongKey => d.violation localPort p false
        | .out k =>
          if !d.carries k true p then d.count RTE_ERR.NOROUTE
          else if !d.keyPasses k p then d.violation k p true
          else d.enqueue k (d.ownSide k o.upper) false p none

/-- How many unacknowledged packets keep a retransmit record, and how many a replay entry (R385). -/
def Dev.records (d : Dev) (data : Bool) : Nat :=
  (d.rte.send.map (fun e => (e.2.unacked.filter (fun s => s.out.pkt.isData = data)).length)).foldl (· + ·) 0

/-- Whether the router accepts a packet of an attachment now: room in the window of its flow, one packet at a time while
the flow opens, a free record, and no other attachment in the middle of packets that belong together (R381, R385, R387). -/
def Dev.accepts (d : Dev) (att : Nat) (o : OutPkt) : Bool :=
  let s := d.sendFlow o.flow
  !o.pkt.sequenced
    || (s.unacked.length < 16384 && (!s.opening || s.unacked.isEmpty) && s.lock.all (· = att)
        && d.records o.pkt.isData < (if o.pkt.isData then 131072 else 4096))

/-- The first packet of an attachment that the router accepts: a packet that waits holds back the later ones of its class
(R381). -/
def Dev.firstReady (d : Dev) (att : Nat) : List OutPkt → Nat → List Nat → Option (Nat × OutPkt)
  | [], _, _ => none
  | o :: os, i, held =>
    if held.contains o.pkt.tc.val then d.firstReady att os (i + 1) held
    else if d.accepts att o then some (i, o)
    else d.firstReady att os (i + 1) (held ++ [o.pkt.tc.val])

/-- Whether a packet's answer comes back later than its acknowledgement (R391). -/
def Sender.awaits : Sender → Bool
  | .amo _ _ => true
  | .get _ _ _ _ _ _ => true
  | .load _ => true
  | _ => false

/-- Numbers a packet in its flow and sends it (R381, R387); the first number of a flow is a free value.
DESIGN CHOICE, log 118. -/
def Dev.sendNew (d : Dev) (att : Nat) (o : OutPkt) : Dev :=
  if !o.pkt.sequenced then d.transmit att o 0 false
  else
    let f := o.flow
    let s := d.sendFlow f
    let (n, d) := match s.next with
      | some n => (n, d)
      | none => let (v, d) := d.draw; (v.toNat % 65536, d)
    let d := d.modSend f (fun s => { s with
      next := some ((n + 1) % 65536), unacked := s.unacked ++ [⟨n, att, o⟩], lock := if o.more then some att else none,
      await := if o.who.awaits then s.await ++ [(n, o.who)] else s.await })
    d.transmit att o n s.opening

/-- A data packet that is sent again carries what its source memory holds now (R385, R497). -/
def OutPkt.reread (o : OutPkt) (m : Mem) : OutPkt :=
  match o.src with
  | some a => { o with pkt := { o.pkt with payload := m.read a o.pkt.payload.length } }
  | none => o

/-- Go-back-N: every unacknowledged packet of a flow from a number on goes again (R374, R385). -/
def Dev.resend (d : Dev) (m : Mem) (f e : Nat) : Dev :=
  let s := d.sendFlow f
  (s.unacked.filter (fun x => (x.seq + 65536 - e) % 65536 < 32768)).foldl (fun d x =>
    (d.count RTE_REL.RETX).transmit x.att (x.out.reread m) x.seq s.opening) d

/-- Whether a number lies in the unacknowledged window of a flow, its end included. -/
def SendFlow.covers (s : SendFlow) (e : Nat) : Bool :=
  match s.unacked with
  | [] => false
  | x :: _ => (e + 65536 - x.seq) % 65536 ≤ s.unacked.length

/-- Every unacknowledged packet of a flow, and every request that waits for its answer, fails with FLOW_LOST; the flow
opens again (R386, R387). -/
def Dev.failFlow (d : Dev) (f : Nat) : Dev :=
  let s := d.sendFlow f
  let d := d.modSend f (fun s => { s with unacked := [], opening := true, rto := 0, lock := none, await := [] })
  let d := s.unacked.foldl (fun d x => d.settle x.out.who 0xE) d
  (s.await.filter (fun a => !s.unacked.any (fun x => x.seq = a.1))).foldl (fun d x => d.settle x.2 0xE) d

/-- An ACK covers the numbers before `e` (R384); one in clear for an encrypted class completes them with ACCESS (R390).
DEDUCED, log 120. -/
def Dev.advance (d : Dev) (f e : Nat) (clear : Bool) : Dev :=
  let s := d.sendFlow f
  if !s.covers e then d
  else
    let isIn := fun (x : Sent) => 32768 ≤ (x.seq + 65536 - e) % 65536
    let gone := s.unacked.filter isIn
    if gone.isEmpty then d
    else
      let d := d.modSend f (fun s => { s with
        unacked := s.unacked.filter (fun x => !isIn x), opening := false, rto := 0,
        await := if clear then s.await.filter (fun a => !gone.any (fun x => x.seq = a.1)) else s.await })
      gone.foldl (fun d x => d.settle x.out.who (if clear then 1 else 0)) d

/-! ### Rates (R393) -/

/-- The rate of the first port towards a destination, in MB/s. -/
def Dev.rmax (d : Dev) (peer : Nat) : Nat :=
  let e := d.entry 0 d.inforce localPort peer
  if bit e 0 then 105000 * d.get LNK_PORT_STAT.ACTIVE (field e 3 4) else 0

/-- The rate of a pair: a pair that is not limited holds no entry.
DEDUCED, log 121. -/
def Dev.rateOf (d : Dev) (f : Nat) : Nat :=
  let r := tblGet 0 d.rte.rate f
  if r = 0 then d.rmax (f / 4) else r

/-- Sets the rate of a pair; a full table gives up the entry with the highest rate. -/
def Dev.putRate (d : Dev) (f v : Nat) : Dev :=
  if d.rmax (f / 4) ≤ v then d.modRte (fun r => { r with rate := tblSet 0 r.rate f 0, cut := tblSet 0 r.cut f 0 })
  else
    let full := tblGet 0 d.rte.rate f = 0 && 4096 ≤ d.rte.rate.length
    let top := (d.rte.rate.map (·.2)).foldl Nat.max 0
    d.modRte (fun r =>
      let r := if full then
          match r.rate.find? (fun e => e.2 = top) with
          | some e => { r with rate := tblSet 0 r.rate e.1 0, cut := tblSet 0 r.cut e.1 0 }
          | none => r
        else r
      { r with rate := tblSet 0 r.rate f v })

/-- One STEP of R393 in 1/16 ns. -/
def Dev.ccStep (d : Dev) : Nat := d.get RTE_CC.STEP * 16000

/-- An ACK with marks cuts the rate, at most once a STEP. -/
def Dev.cutRate (d : Dev) (f now : Nat) : Dev :=
  let last := tblGet 0 d.rte.cut f
  if !d.flag RTE_CC.EN || (last ≠ 0 && now - last < d.ccStep) then d
  else
    let r := d.rateOf f
    let v := Nat.max (1000 * d.get RTE_CC.RMIN) (r - r >>> d.get RTE_CC.BETA)
    let d := d.putRate f v
    if tblGet 0 d.rte.rate f = 0 then d else d.modRte (fun r => { r with cut := tblSet 0 r.cut f now })

/-! ### Circuits of deterministic mode (R371) -/

/-- The circuit that the local routing entry of a destination names, in the version in force. -/
def Dev.circuitTo (d : Dev) (peer : Nat) : Option Nat :=
  let e := d.entry 0 d.inforce localPort peer
  if bit e 0 && bit e 19 then some (field e 20 12) else none

/-- Hands TC2 packets of a context to the router: in deterministic mode on the circuit to their destination, or not at
all where there is none (R371). -/
def Dev.handFor (d : Dev) (c : CtxId) (att : Nat) (os : List OutPkt) : Option Dev :=
  if !d.det c then some (d.hand att os)
  else match os.head?.bind (fun o => d.circuitTo o.dest) with
    | some i => some (d.hand att (os.map (fun o => o.onCircuit i)))
    | none => if os.isEmpty then some d else none

/-! ### Table rows (R372, R398) -/

/-- Where RTE_TBL_SEL points: kind, version, port, index. -/
def Dev.tblSel (d : Dev) : Nat × Nat × Nat × Nat :=
  let kind := d.get RTE_TBL_SEL.KIND
  (kind, if kind = 2 then 0 else d.get RTE_TBL_SEL.VERSION, d.get RTE_TBL_SEL.PORT, d.get RTE_TBL_SEL.INDEX)

/-- Whether a selection names an entry.
DEDUCED, log 122. -/
def selValid (s : Nat × Nat × Nat × Nat) : Bool :=
  s.2.2.1 ≤ 12 && (s.1 = 0 || (s.1 = 1 && s.2.2.2 < 4096) || (s.1 = 2 && s.2.2.2 < 32))

/-- INDEX advances where INC is set. -/
def Dev.tblNext (d : Dev) : Dev :=
  if d.flag RTE_TBL_SEL.INC then d.put RTE_TBL_SEL.INDEX ((d.get RTE_TBL_SEL.INDEX + 1) % 65536) else d

/-- The entry that RTE_TBL_DATA reads as. -/
def Dev.tblEntry (d : Dev) : Nat :=
  let s := d.tblSel
  if selValid s then d.entry s.1 s.2.1 s.2.2.1 s.2.2.2 else 0

/-- A write of RTE_TBL_DATA. -/
def Dev.tblWrite (d : Dev) (w : RegWr) : Dev :=
  let s := d.tblSel
  let m := lanesMask w.lanes
  let v := d.tblEntry - (d.tblEntry &&& m) + (w.value.toNat &&& m)
  let refused := !selValid s || (s.1 ≠ 2 && (s.2.1 = d.inforce || d.flag RTE_FLIP.PENDING))
  let d := if refused then d.count RTE_ERR.TBLREJ
    else d.modRte (fun r => { r with tbl := tblSet 0 r.tbl (rteKey s.1 s.2.1 s.2.2.1 s.2.2.2) v })
  d.tblNext

/-- TABLE_ENTRY_WRITE (R372, R398). -/
def execTableEntryWrite (w : RegWr) (s : State) : Host.Outcome State Fault Refusal :=
  .next (s.run (mgmtDev .RTE_TBL_DATA 0 (fun d => d.tblWrite w)))

/-- TABLE_ENTRY_READ (R398): the entry is what `Dev.tblEntry` gives; INDEX advances where INC is set. -/
def execTableEntryRead (s : State) : Host.Outcome State Fault Refusal :=
  .next (s.run (mgmtDev .RTE_TBL_DATA 0 Dev.tblNext))

/-! ### The Tumbler (R372 to R374) -/

/-- The reservations of a version's circuits through an output port (R373). -/
def Dev.booked (d : Dev) (ver k : Nat) : Nat :=
  ((d.rte.tbl.filter (fun e => e.1 / 65536 / 16 = 2 + ver && bit e.2 0 && !bit e.2 1 && field e.2 2 4 = k)).map
    (fun e => field e.2 6 7)).foldl (· + ·) 0

/-- The flip itself: the check of the new version, then the new version in force, ports admitted, the old one draining. -/
def Dev.flipNow (d : Dev) (ports : Nat) : Dev :=
  let new := 1 - d.inforce
  match (List.range 12).find? (fun k => 64 < d.booked new k) with
  | some k => ((d.put RTE_FLIP.STATUS 1).put RTE_FLIP.BADPORT k).put RTE_FLIP.PENDING 0
  | none =>
    let d := ((d.put RTE_FLIP.INFORCE new).put RTE_FLIP.STATUS 0).put RTE_FLIP.PENDING 1
    let d := d.modRte (fun r => { r with draining := true })
    if d.idCommitted then (bitsOf ports 12).foldl Dev.admitPort d else d

/-- TUMBLER_FLIP (R373): at the tick of the flip's beat. -/
def execTumblerFlip (s : State) : Host.Outcome State Fault Refusal :=
  .next (s.run (Act.dev (fun d =>
    match d.rte.flip with
    | some (b, ports) => if b ≤ d.time.beat then (d.modRte (fun r => { r with flip := none })).flipNow ports else d
    | none => d)))

/-- The write of RTE_FLIP (R373): BUSY while PENDING, LATE where the beat has passed, at once for beat 0. -/
def Dev.flipWrite (d : Dev) (w : RegWr) : Dev :=
  let d := d.writeFields .RTE_FLIP 0 false w
  if !wrSets w RTE_FLIP.FLIP then d
  else if d.flag RTE_FLIP.PENDING then d.put RTE_FLIP.STATUS 2
  else
    let b := d.reg .RTE_FLIP_BEAT 0
    let ports := d.get RTE_FLIP.ADMIT
    if b = 0 then d.flipNow ports
    else if b ≤ d.time.beat then d.put RTE_FLIP.STATUS 3
    else ((d.put RTE_FLIP.PENDING 1).put RTE_FLIP.STATUS 0).modRte (fun r => { r with flip := some (b, ports) })

/-- FLIP_REQUEST (R373). -/
def execFlipRequest (w : RegWr) (s : State) : Host.Outcome State Fault Refusal :=
  .next (s.run (mgmtDev .RTE_FLIP 0 (fun d => d.flipWrite w)))

/-- PENDING_CLEAR (R373): DRAIN has elapsed and the router has held no packet of the old version for 10 microseconds. -/
def execPendingClear (s : State) : Host.Outcome State Fault Refusal :=
  .next (s.run (Act.dev (fun d =>
    let old := d.lnk.any (fun e => e.2.queue.any (fun v => b2n v.pkt.tumbler ≠ d.inforce))
    if d.rte.draining && !old then (d.put RTE_FLIP.PENDING 0).modRte (fun r => { r with draining := false }) else d)))

end Sys2Proof.Machine
end

