-- ==== Sys2Proof/Machine/Receive.lean ====
section
/-! DEFINITION. The receiver's end of flows: the steps of R382 that every packet passes, acknowledgements (R364, R365, R375,
R382 to R384, R387 to R390), and what every arrival does to its input buffer (R340). -/

namespace Sys2Proof.Machine

/-- How a packet's action ends. -/
inductive PerfEnd where
  | done
  /-- It waits on a tag or a slot: the packet stays in its buffer (R54, R194). -/
  | wait
  /-- Refused with a STATUS of R389, at bits [47:0] of an address. -/
  | refused (status addr : Nat)
  deriving DecidableEq, Repr

/-- The action of an accepted packet: packet, poison map, domain time. -/
abbrev Perf := Pkt → Nat → Nat → Fuses → Mem → Dev → PerfEnd × Res

/-- An action on the device alone. -/
def Perf.dev (g : Pkt → Nat → Dev → Dev) : Perf := fun p _ now _ _ d => (.done, { dev := g p now d })

/-- The receiver's end of a flow. -/
def Dev.recvFlow (d : Dev) (f : Nat) : Option RecvFlow := tblGet none d.rte.recv f

/-- Sets the receiver's end of a flow. -/
def Dev.putRecv (d : Dev) (f : Nat) (r : RecvFlow) : Dev := d.modRte (fun t => { t with recv := tblSet none t.recv f (some r) })

/-- A control packet that the router sends (attachment 10). -/
def Dev.sendCtl (d : Dev) (ty tc pkey peer : Nat) (body : Bytes) : Dev := d.originate 10 (ctlPkt ty tc pkey peer d.moduleId body)

/-- Sends the ACK of a flow (R362, R384).
DEDUCED, log 119. -/
def Dev.sendAck (d : Dev) (f : Nat) : Dev :=
  match d.recvFlow f with
  | none => d
  | some r =>
    (d.sendCtl 0x40 (f % 4) r.pkey (f / 4) (leBytes 2 r.exp ++ leBytes 2 r.ce ++ leBytes 1 (f % 4))).putRecv f
      { r with owed := 0, ce := 0 }

/-- 4 microseconds in 1/16 ns. -/
def nackGap : Nat := 64000

/-- Sends a NACK (R362, R383): for a gap not again within 4 microseconds of the last NACK of the same EXP. -/
def Dev.sendNack (d : Dev) (f : Nat) (p : Pkt) (reason now : Nat) : Dev :=
  let go := fun (d : Dev) (e : Nat) =>
    (d.sendCtl 0x41 (f % 4) p.pkey.toNat (f / 4) (leBytes 2 e ++ leBytes 1 reason ++ zeros 1 ++ leBytes 1 (f % 4))).count RTE_REL.NACK_TX
  match d.recvFlow f with
  | none => go d p.seq.toNat
  | some r =>
    if reason = 1 && r.nack.any (fun n => n.1 = r.exp && now - n.2 < nackGap) then d
    else (go d r.exp).putRecv f { r with nack := some (r.exp, now) }

/-- Sends a RESET (R362, R387). -/
def Dev.sendReset (d : Dev) (f : Nat) (p : Pkt) : Dev :=
  d.sendCtl 0x42 (f % 4) p.pkey.toNat (f / 4) (leBytes 2 p.seq.toNat ++ zeros 2 ++ leBytes 1 (f % 4))

/-- The address that a refusal names (R362). -/
def refusedAddr (p : Pkt) : Nat :=
  match p.type with
  | 0x10 => p.spec 0x12 6
  | 0x11 => p.spec 0x12 6
  | 0x50 => p.at' 0x10 6
  | 0x53 => p.at' 0x10 6
  | _ => 0

/-- Sends a REFUSE on a class (R362, R389, R390). -/
def Dev.sendRefuse (d : Dev) (p : Pkt) (tc status addr : Nat) : Dev :=
  let body := leBytes 2 p.seq.toNat ++ leBytes 1 status ++ leBytes 1 p.tc.val ++ leBytes 6 addr
  let o := plainOut (ctlPkt 0x43 tc p.pkey.toNat p.src.toNat d.moduleId body)
  match (if tc = 2 then d.jobCtx p.pkey.toNat else none) with
  | some c => (d.handFor c 10 [o]).getD d
  | none => d.hand 10 [o]

/-- A packet of a job without a key here: counted, refused and acknowledged in clear on TC0 (R348, R390). -/
def Dev.refuseClear (d : Dev) (p : Pkt) : Dev :=
  let d := d.count LNK_ERR.NOKEY
  if !p.sequenced then d
  else
    let f := flowKey p.src.toNat p.tc.val
    let next := (p.seq.toNat + 1) % 65536
    let d := match d.recvFlow f with
      | some r => if r.exp = p.seq.toNat then d.putRecv f { r with exp := next } else d
      | none =>
        if p.syn then d.putRecv f ⟨next, p.tumbler, 0, 0, p.pkey.toNat, none, none, none⟩ else d
    (d.sendRefuse p 0 refAccess (refusedAddr p)).sendCtl 0x40 0 p.pkey.toNat p.src.toNat
      (leBytes 2 next ++ zeros 2 ++ leBytes 1 p.tc.val)

/-- How steps 5 to 7 of R382 end. -/
inductive Place7 where
  /-- Accepted: the flow with EXP at the packet's number, and whether state was opened over (R387). -/
  | accept (r : RecvFlow) (resync : Bool)
  | reset
  | ahead
  | behind
  | epoch
  deriving DecidableEq, Repr

/-- Steps 5 to 7 of R382 (R375, R383, R387). -/
def Dev.place7 (d : Dev) (f : Nat) (p : Pkt) : Place7 :=
  let s := p.seq.toNat
  match d.recvFlow f with
  | none =>
    if p.syn then .accept ⟨s, p.tumbler, 0, 0, p.pkey.toNat, none, none, none⟩ false else .reset
  | some r =>
    let dist := (s + 65536 - r.exp) % 65536
    if 32768 ≤ dist then .behind
    else if !p.syn && dist ≠ 0 then .ahead
    else if p.tumbler ≠ r.tumbler && b2n p.tumbler ≠ d.inforce then .epoch
    else .accept { r with exp := s } p.syn

/-- The flow after packets have been performed: `n` more are covered, `ce` of them marked; an ACK goes out when ACK_COAL
are owed (R384, R392). -/
def Dev.accepted (d : Dev) (f : Nat) (r : RecvFlow) (p : Pkt) (n ce : Nat) : Dev :=
  let cur := (d.recvFlow f).getD r
  let r := { r with
    exp := (p.seq.toNat + 1) % 65536, tumbler := p.tumbler, pkey := p.pkey.toNat, owed := r.owed + n,
    ce := satAdd r.ce ce 0xFFFF, short := cur.short, mapped := none }
  let d := d.putRecv f r
  if d.get RTE_TIMERS.ACK_COAL ≤ r.owed then d.sendAck f else d

/-- Step 8 for pairs of a packet and its POISON_MAP, and the action (R364, R382, R388): a packet with PMAP set is held
until its map has come, and both are performed together. -/
def acceptAct (perf : Perf) (f : Nat) (p : Pkt) (r : RecvFlow) (resync marked : Bool) (now : Nat) : Act := fun fu m d =>
  let fin := fun (d : Dev) => if resync then d.count RTE_REL.RESYNC else d
  let run := fun (q : Pkt) (map : Nat) (n : Nat) =>
    match perf q map now fu m (d.putRecv f r) with
    | (.wait, _) => none
    | (.done, e) => some { e with dev := fin (e.dev.accepted f r p n (b2n marked)) }
    | (.refused st addr, e) => some { e with dev := fin ((e.dev.sendRefuse q q.tc.val st addr).accepted f r p n (b2n marked)) }
  match r.mapped with
  | some q =>
    if p.type = 0x59 then (run q (p.at' 0x10 8) 2).getD { dev := d }
    else
      let d := (d.count RTE_ERR.MALFORMED).putRecv f { r with exp := q.seq.toNat, mapped := none }
      { dev := d.sendNack f p 1 now }
  | none =>
    if p.type = 0x59 then { dev := d.count RTE_ERR.MALFORMED }
    else if p.pmap then
      let next := (p.seq.toNat + 1) % 65536
      let ce := satAdd r.ce (b2n marked) 0xFFFF
      let held : RecvFlow := { r with exp := next, tumbler := p.tumbler, pkey := p.pkey.toNat, ce := ce, mapped := some p }
      { dev := (fin d).putRecv f held }
    else (run p 0 1).getD { dev := d }

/-- The steps of R382 for a packet delivered here, from `port`, that took `flits` flits; in ALARM the router discards what
is not TC3 (R500). -/
def receiveAct (perf : Perf) (port flits : Nat) (p : Pkt) (now : Nat) : Act := fun fu m d =>
  if d.clamps p then { dev := d.count LNK_ERR.DROP_DOWN }
  else if !p.wellFormed flits then { dev := d.count RTE_ERR.MALFORMED }
  else if !d.keyPasses port p then { dev := d.violation port p false }
  else if !d.keyPasses localPort p then { dev := d.violation localPort p true }
  else
    let f := flowKey p.src.toNat p.tc.val
    match d.openPkt p with
    | (.noKey, d) => { dev := d.refuseClear p }
    | (.bad, d) =>
      let d := if p.secret then d.count LNK_ERR.CRYPT_TAG else d
      { dev := if p.sequenced then d.sendNack f p 2 now else d }
    | (.good marked, d) =>
      if !p.sequenced then (perf p 0 now fu m d).2
      else match d.place7 f p with
        | .reset => { dev := d.sendReset f p }
        | .behind => { dev := (d.count RTE_REL.DUP).sendAck f }
        | .ahead => { dev := d.sendNack f p 1 now }
        | .epoch => { dev := d.sendNack f p 3 now }
        | .accept r resync =>
          let r := if resync then { r with mapped := none, short := none } else r
          acceptAct perf f p r resync marked now fu m d

/-- Whether an input port takes a packet in its state: every class in UP or DEGRADED, in ARMED TC0 and TC3 for this module,
else link-local packets alone, by R399 (R332). -/
def Dev.portTakes (d : Dev) (k : Nat) (p : Pkt) : Bool :=
  psUp ≤ d.portState k || (d.portState k = psArmed && (p.tc.val = 0 || p.tc.val = 3)) || (d.portState k = psDiscover && p.linkLocal)

/-- An arrival at a port with what happens to the packet: its flits fill the input buffer and are freed as it is consumed
(R340). -/
def arriveAct (a : Arrival) (act : Act) : Act := fun fu m d =>
  let k := a.port.val
  let vc := 2 * a.pkt.tc.val + b2n a.upper
  if !d.portTakes k a.pkt then { dev := d }
  else
    let e := act fu m d
    { e with dev := (e.dev.holdFlits k vc a.flits).freeFlits k vc a.flits }

/-- A packet of one of the types in a list that is delivered here (R366). -/
def deliverAct (perf : Perf) (types : List Nat) (a : Arrival) : Act := fun fu m d =>
  if !types.contains a.pkt.type || a.pkt.linkLocal || !d.idCommitted || d.route a.port.val a.pkt ≠ .here then { dev := d }
  else arriveAct a (receiveAct perf a.port.val a.flits a.pkt a.now.toNat) fu m d

/-- A link-local packet (R399, R400): steps 1 to 4 of R382, then its effect; in a port state that R399 does not list it is
dropped and counted. -/
def linkLocalAct (ty : Nat) (states : Nat → Dev → Bool) (g : Nat → Pkt → Nat → Act) (a : Arrival) : Act := fun fu m d =>
  let k := a.port.val
  let p := a.pkt
  if p.type ≠ ty || d.portState k < psDiscover then { dev := d }
  else arriveAct a (fun fu m d =>
    if !p.wellFormed a.flits || !states k d then { dev := d.count RTE_ERR.MALFORMED }
    else if !d.keyPasses k p then { dev := d.violation k p false }
    else if p.trailer ≠ p.crc then { dev := d }
    else g k p a.now.toNat fu m d) fu m d

end Sys2Proof.Machine
end

