-- ==== Sys2Proof/Machine/Fabric.lean ====
section
/-! DEFINITION. What fabric packets do at this module: puts, gets, atomics, ring shards, halts, and the packets of flows
themselves (R52 to R56, R70, R231, R309, R362 to R364, R384 to R393). -/

namespace Sys2Proof.Machine

/-! ### Puts (R309, R363) -/

/-- The STATUS that refuses a packet of a job that has no context here: KILLED while its key is retired (R309, R496). -/
def Dev.noJob (d : Dev) (pkey : Nat) : Nat := if (tblGet none d.keep.retired pkey).isSome then refKilled else refAccess

/-- A write unit of a packet; the bytes that a core's own engine has got are not counted in the core's regions (R195,
R307): `own` is that core. -/
def putAt (p : Pkt) (own : Option Nat) (addr : Nat) (bs : Bytes) (map : Nat) (all : Bool) (m : Mem) (d : Dev) : PerfEnd × Res :=
  match d.jobCtx p.pkey.toNat with
  | none => (.refused (d.noJob p.pkey.toNat) addr, { dev := d })
  | some c => match d.pktPlace addr with
    | none => (.refused refAddr addr, { dev := d.countRefusal 0 refAddr })
    | some pl =>
      match d.homeWrite m c pl bs all own with
      | (.wait, _, _) => (.wait, { dev := d })
      | (.refused st, e, es) => (.refused st addr, { dev := e, mem := es })
      | (.done _ _ _, e, es) => (.done, { dev := e, mem := es ++ (if all then [] else pl.marks bs.length map) })

/-- WRITE. -/
def perfWrite : Perf := fun p map _ _ m d => putAt p none (p.spec 0x12 6) p.payload map false m d

/-! ### Gets at the requester (R391) -/

/-- The get that bytes from a peer belong to: its number in the flow.  `ref` is the number of the GET_REQ where the packet
names it, else the address tells. -/
def Dev.getOf (d : Dev) (peer : Nat) (ref : Option Nat) (addr : Nat) : Option (Nat × Sender) :=
  (d.sendFlow (flowKey peer 2)).await.find? (fun (e : Nat × Sender) =>
    match e.2 with
    | .get _ _ _ raddr left _ => (match ref with | some r => e.1 = r | none => raddr ≤ addr && addr < raddr + 2 ^ 24) && 0 < left
    | _ => false)

/-- The core whose engine made a get. -/
def getCore (g : Option (Nat × Sender)) : Option Nat :=
  match g with
  | some (_, .get k _ _ _ _ _) => some (k / 2)
  | _ => none

/-- Bytes of a get have been written at the requester: it counts them down, and the last completes its part of the transfer;
in deterministic mode uninitialised bytes stop it instead (R317), status 7. -/
def Dev.gotBytes (d : Dev) (peer : Nat) (g : Option (Nat × Sender)) (n : Nat) (uninit poison : Bool) : Dev :=
  let f := flowKey peer 2
  match g with
  | some (seq, .get k a i raddr left named) =>
    let note := fun (t : Transfer) => { t with uninit := t.uninit || uninit, poison := t.poison || poison }
    let d := d.modStr k (fun s => { s with transfers := s.transfers.map (fun t =>
      if t.own.isNone && t.accept = a && t.index = i then note t else t) })
    let d := if uninit then d.noteUninit (k / 2) (strUnit (k / 2) (k % 2)) named else d
    let stops := uninit && (d.holder (k / 2)).any d.det
    if left ≤ n then
      (d.modSend f (fun s => { s with await := s.await.filter (fun (e : Nat × Sender) => e.1 ≠ seq) })).segAnswer k a i 0 named (if stops then 7 else 0)
    else
      let d := d.modSend f (fun s => { s with await := s.await.map (fun (e : Nat × Sender) =>
        if e.1 = seq then (seq, Sender.get k a i raddr (left - n) named) else e) })
      if stops then
        d.modStr k (fun s => { s with transfers := s.transfers.map (fun t =>
          if t.own.isNone && t.accept = a && t.index = i && t.status = 0 then { t with status := 7, access := 0, fault := named } else t) })
      else d
  | _ => d

/-- GET_DATA: written as if the requesting engine had read it locally (R307); uninitialised data of a deterministic
context is not (R317).  Data that a thread's load asked for reaches its register by LOAD_DATA_RETURN and no memory. -/
def perfGetData : Perf := fun p map _ _ m d =>
  let addr := p.spec 0x12 6
  let g := d.getOf p.src.toNat (some (p.spec 0x18 2)) addr
  let un := bit (p.spec 0x1A 1) 0
  let n := p.payload.length
  let asked := (d.sendFlow (flowKey p.src.toNat 2)).await.any (fun (e : Nat × Sender) => e.1 = p.spec 0x18 2)
  if g.isNone && asked then (.done, { dev := d })
  else if un && ((getCore g).bind d.holder).any d.det then (.done, { dev := d.gotBytes p.src.toNat g n true (map ≠ 0) })
  else
    let (e, r) := putAt p (getCore g) addr p.payload map false m d
    match e with
    | .done => (.done, { r with dev := r.dev.gotBytes p.src.toNat g n un (map ≠ 0) })
    | _ => (e, r)

/-! ### Short writes and atomics (R231, R308, R362) -/

/-- The atomic operation of an OP. -/
def opKind (op : Nat) : AmoKind :=
  match op with
  | 1 => .swap
  | 2 => .add
  | 3 => .xor
  | 4 => .and
  | 5 => .or
  | 6 => .min
  | 7 => .max
  | 8 => .minu
  | _ => .maxu

/-- The attachment of the die that holds a place. -/
def Place.att (pl : Place) : Nat := pl.die

/-- A far atomic of another module: the home performs it and answers with an AMO_RESP; which control processor and thread
gave it the packet does not say: free values. -/
def amoAt (p : Pkt) (first : Pkt) (map : Nat) (m : Mem) (d : Dev) : PerfEnd × Res :=
  let addr := first.at' 0x10 6
  let n := first.at' 0x16 1 + 1
  match d.jobCtx p.pkey.toNat with
  | none => (.refused (d.noJob p.pkey.toNat) addr, { dev := d })
  | some c => match d.pktPlace addr with
    | none => (.refused refAddr addr, { dev := d.countRefusal 0 refAddr })
    | some pl =>
      let (u, d1) := d.draw
      let (t, d1) := d1.draw
      let sig : Signaller := ⟨p.src.toNat, u.toNat % 65536, some (t.toNat % 8), 3⟩
      match d1.homeAmo m c pl (opKind (first.at' 0x17 1)) n (first.at' 0x18 n) sig true with
      | (.wait, _, _) => (.wait, { dev := d })
      | (.refused st, e, es) => (.refused st addr, { dev := e, mem := es })
      | (.done old un po, e, es) =>
        let body := leBytes 2 first.seq.toNat ++ leBytes 1 (b2n un + 2 * b2n po) ++ zeros 5 ++ leBytes 8 old
        let o := plainOut (ctlPkt 0x52 2 p.pkey.toNat p.src.toNat e.moduleId body)
        (.done, { dev := (e.handFor c pl.att [o]).getD e, mem := es ++ (if map = 0 then [] else pl.marks n 1) })

/-- The pieces of a short write are gathered in its flow; with the last it is performed whole, as one write unit (R231). -/
def gather (first : Pkt) (bs : Bytes) (poison : Bool) (p : Pkt) (map : Nat) (m : Mem) (d : Dev) : PerfEnd × Res :=
  let f := flowKey p.src.toNat p.tc.val
  let n := first.at' 0x16 1 + 1
  let setShort := fun (d : Dev) (s : Option (Pkt × Bytes × Bool)) =>
    match d.recvFlow f with
    | some r => d.putRecv f { r with short := s }
    | none => d
  if bs.length < n then (.done, { dev := setShort d (some (first, bs, poison)) })
  else
    let d := setShort d none
    if first.at' 0x17 1 = 0 then
      let addr := first.at' 0x10 6
      let g := d.getOf p.src.toNat none addr
      let (e, r) := putAt p (getCore g) addr (bs.take n) map poison m d
      match e with
      | .done => (.done, { r with dev := r.dev.gotBytes p.src.toNat g n false poison })
      | _ => (e, r)
    else amoAt p first map m d

/-- SHORT. -/
def perfShort : Perf := fun p map _ _ m d =>
  let n := p.at' 0x16 1 + 1
  gather p (sub p.body 8 (Nat.min n 24)) (map ≠ 0) p map m d

/-- SHORT_CONT: one that continues no short write breaks R362 and is dropped. -/
def perfShortCont : Perf := fun p map _ _ m d =>
  match (d.recvFlow (flowKey p.src.toNat p.tc.val)).bind (·.short) with
  | some (first, bs, poison) =>
    let n := first.at' 0x16 1 + 1
    let more := sub p.body 0 (Nat.min 32 (n - bs.length))
    let (e, r) := gather first (bs ++ more) (poison || map ≠ 0) p map m d
    (match e with | .refused st _ => .refused st (first.at' 0x10 6) | _ => e, r)
  | none => (.done, { dev := d.count RTE_ERR.MALFORMED })

/-- AMO_RESP: the old value comes back to the thread that waits (R308, R391). -/
def perfAmoResp : Perf := Perf.dev (fun p _ d =>
  let f := flowKey p.src.toNat 2
  let ref := p.at' 0x10 2
  match (d.sendFlow f).await.find? (fun e => e.1 = ref) with
  | some (_, .amo k id) =>
    let d := d.modSend f (fun s => { s with await := s.await.filter (fun e => e.1 ≠ ref) })
    d.amoAnswer k id (if bit (p.at' 0x12 1) 1 then refPoison else 0) (p.at' 0x18 8) (bit (p.at' 0x12 1) 0)
  | _ => d)

/-! ### Gets at the home (R309, R391) -/

/-- One run of a get's answer: where it is read and where it lands. -/
structure GetPiece where
  off : Nat
  len : Nat
  deriving DecidableEq, Repr

/-- The runs of a get of `n` bytes: a short write, or the segments of R223. -/
def getPieces (n seg : Nat) : List GetPiece :=
  let ls := if n ≤ 256 then [n] else segments n seg
  (ls.foldl (fun (acc : List GetPiece × Nat) l => (acc.1 ++ [⟨acc.2, l⟩], acc.2 + l)) ([], 0)).1

/-- A piece of a get's answer, with its poison marks and uninitialised flag. -/
def getAnswer (p : Pkt) (own raddr : Nat) (pc : GetPiece) (a : Option Nat) (bs : Bytes) (marks : List Bool) (uninit whole : Bool) :
    List OutPkt :=
  let peer := p.src.toNat
  let pkey := p.pkey.toNat
  if whole then shortPkts pkey peer own (raddr + pc.off) 0 bs (marks.any id) .none
  else
    let spec := leBytes 6 (raddr + pc.off) ++ leBytes 2 p.seq.toNat ++ leBytes 1 (b2n uninit)
    ({ plainOut (dataPkt 0x11 2 pkey peer own spec bs) with src := a }).withMap (poisonBits marks)

/-- GET_REQ: the home reads the whole source and answers, or refuses it whole (R309, R389, R391). -/
def perfGetReq : Perf := fun p _ _ _ m d =>
  let saddr := p.at' 0x10 6
  let seg := if p.at' 0x16 1 = 0 then 4096 else 64 * Nat.min 64 (p.at' 0x16 1)
  let n := p.at' 0x20 4
  match d.jobCtx p.pkey.toNat with
  | none => (.refused (d.noJob p.pkey.toNat) saddr, { dev := d })
  | some c =>
    let reads := (getPieces n seg).map (fun pc =>
      match d.pktPlace (saddr + pc.off) with
      | none => (pc, (none : Option Place), ReadEnd.refused refAddr)
      | some pl => (pc, some pl, d.homeRead m c pl pc.len))
    match reads.findSome? (fun r => match r.2.2 with | .refused st => some st | _ => none) with
    | some st => (.refused st saddr, { dev := d.countRefusal 0 0 })
    | none =>
      if reads.any (fun r => r.2.2 = .wait) then (.wait, { dev := d })
      else
        let outs := reads.flatMap (fun r =>
          match r.2.1, r.2.2 with
          | some pl, .data bs _ un =>
            let a := match pl with | .mem a => some a | _ => none
            let marks := (List.range (ceilDiv r.1.len 64)).map (fun g =>
              a.any (fun a => m.poisoned (a + 64 * g) (Nat.min 64 (r.1.len - 64 * g))))
            getAnswer p d.moduleId (p.at' 0x18 6) r.1 a bs marks un (n ≤ 256)
          | _, _ => [])
        let att := ((reads.head?.bind (·.2.1)).map Place.att).getD 10
        (.done, { dev := (d.handFor c att outs).getD d })

/-! ### Refusals, acknowledgements, flows (R384 to R390) -/

/-- REFUSE: what waits for the refused packet completes with the status (R389). -/
def perfRefuse : Perf := Perf.dev (fun p _ d =>
  let f := flowKey p.src.toNat (p.at' 0x13 1)
  let ref := p.at' 0x10 2
  let st := p.at' 0x12 1
  let s := d.sendFlow f
  let who := match s.unacked.find? (fun x => x.seq = ref) with
    | some x => some x.out.who
    | none => (s.await.find? (fun (e : Nat × Sender) => e.1 = ref)).map (·.2)
  match who with
  | none => d
  | some w =>
    let quiet := fun (x : Sent) => if x.seq = ref then { x with out := { x.out with who := Sender.none } } else x
    let d := d.modSend f (fun s => { s with
      unacked := s.unacked.map quiet,
      await := s.await.filter (fun (e : Nat × Sender) => e.1 ≠ ref) })
    d.settle w st)

/-- ACK (R384, R390, R393): it advances its flow; marks cut the rate.  An ACK on TC0 for an encrypted class came in clear. -/
def perfAck : Perf := Perf.dev (fun p now d =>
  let tc := p.at' 0x14 1
  let f := flowKey p.src.toNat tc
  let clear := (tc = 1 || tc = 2) && p.tc.val = 0
  if !clear && p.tc.val ≠ tc then d
  else
    let d := d.advance f (p.at' 0x10 2) clear
    if 0 < p.at' 0x12 2 then d.cutRate f now else d)

/-- NACK (R385): the flow goes again from EXP; numbers before it have arrived only if an ACK says so. -/
def perfNack : Perf := fun p _ _ _ m d =>
  let f := flowKey p.src.toNat (p.at' 0x14 1)
  let e := p.at' 0x10 2
  (.done, { dev := if (d.sendFlow f).covers e then d.resend m f e else d })

/-- RESET (R387): every unacknowledged packet fails and the flow opens again. -/
def perfReset : Perf := Perf.dev (fun p _ d => d.failFlow (flowKey p.src.toNat (p.at' 0x14 1)))

/-! ### Rings (R52 to R56, R59, R70) -/

/-- The fill that a shard matches (R52): of a context of its job, by ring, tag, slice and source. -/
def Dev.shardFill (d : Dev) (p : Pkt) : Option (CtxId × RingDesc × Fill) :=
  let grad := bit (p.spec 0x18 2) 15
  let slice := field (p.spec 0x1A 3) 19 3
  (allCtx.filter (fun c => (d.ctxAt c).pkey = p.pkey.toNat && (d.ctxAt c).state ≠ .free && (d.ctxAt c).state ≠ .killing)).findSome? (fun c =>
    (d.ctxAt c).fills.findSome? (fun f =>
      match (d.ctxAt c).ring f.ring with
      | none => none
      | some g =>
        if g.id = p.spec 0x12 2 && !f.own && f.grad = grad && f.slice = slice && f.lap = p.spec 0x14 4
            && f.origin = field (p.spec 0x18 2) 0 15 && g.up = p.src.toNat then some (c, g, f)
        else none))

/-- A shard that matches nothing is dropped and counted; in a running context it is a BLOCK_MISMATCH of its fabric link, or
of the multicast engine where its ring is not declared (R52).
DEDUCED, log 38. -/
def Dev.shardMismatch (d : Dev) (c : CtxId) (p : Pkt) : Dev :=
  let x := d.ctxAt c
  let d := d.modCtx c (fun x => { x with dropped := x.dropped + 1 })
  if x.state ≠ .running then d
  else
    let slice := field (p.spec 0x1A 3) 19 3
    let unit := match x.rings.find? (fun g => g.id = p.spec 0x12 2) with
      | none => 0x8E00
      | some g => match g.dies slice with
        | n :: _ => unitCode n 8 2
        | [] => 0x8E00
    d.detectNow c [⟨0, 4, unit, p.spec 0x12 2, field (p.spec 0x18 2) 0 15, p.spec 0x14 4, 0, 0, slice⟩]

/-- The shard count that a shard of a fill must carry: E, or with GBRAMBLE what the first shard of the slot has fixed
(R53, R59). -/
def Dev.shardCount (d : Dev) (g : RingDesc) (f : Fill) (ecount : Nat) : Nat :=
  if f.grad && g.gbramble then
    match f.slots with
    | e :: _ =>
      let core := g.slotCore true e.1
      if d.slotCount core (g.regionNo true) e.2 = 0 then ecount else (d.regionAt core (g.regionNo true)).expect
    | [] => ecount
  else g.shards f.grad

/-- Where a shard lies in its slice: at index × SHARD_BYTES, unless the cut of R223 moved the last boundary (R363). -/
def shardOffset (g : RingDesc) (f : Fill) (k e len : Nat) : Nat :=
  let o := k * g.shardBytes
  if k + 1 = e && 0 < k && len < 128 && f.pos + 64 = o then f.pos else o

/-- One copy of a shard: written into the slot of a die and counted (R29, R53, R195). -/
def shardCopy (g : RingDesc) (f : Fill) (off ecount : Nat) (p : Pkt) (map : Nat) (acc : Dev × List MemEff) (e : Nat × Nat) :
    Dev × List MemEff :=
  let core := g.slotCore f.grad e.1
  let r := g.regionNo f.grad
  let d := acc.1
  let reg := d.regionAt core r
  let l := reg.base + e.2 * reg.slotBytes + off
  match d.coreLocal core l with
  | none => acc
  | some a =>
    let d := if f.grad && g.gbramble && d.slotCount core r e.2 = 0 then d.modRegion core r (fun x => { x with expect := ecount }) else d
    ((d.breakLines a p.payload.length).countUnit core l, acc.2 ++ [.write a p.payload false] ++ markEffs a p.payload.length map)

/-- SHARD (R52 to R55, R59, R363). -/
def perfShard : Perf := fun p map _ _ _ d =>
  match d.shardFill p with
  | none =>
    match d.jobCtx p.pkey.toNat with
    | none => (.refused (d.noJob p.pkey.toNat) 0, { dev := d })
    | some c =>
      if (d.ctxAt c).state = .killing then (.refused refKilled 0, { dev := d }) else (.done, { dev := d.shardMismatch c p })
  | some (c, g, f) =>
    let k := field (p.spec 0x1A 3) 0 19
    let ec := field (p.spec 0x1D 3) 0 20
    let e := d.shardCount g f ec
    let off := shardOffset g f k e p.payload.length
    let room := g.slotBytes f.grad
    if ec ≠ e || e ≤ k || room < off + p.payload.length then (.done, { dev := d.shardMismatch c p })
    else if f.slots.any (fun s =>
        let r := d.regionAt (g.slotCore f.grad s.1) (g.regionNo f.grad)
        r.slots ≤ r.fill || d.isFull (g.slotCore f.grad s.1) (g.regionNo f.grad) s.2) then (.wait, { dev := d })
    else
      let (d, es) := f.slots.foldl (shardCopy g f off ec p map) (d, [])
      let d := d.modCtx c (fun x => { x with fills := x.fills.map (fun h =>
        if h = f then { h with pos := off + p.payload.length } else h) })
      (.done, { dev := d, mem := es })

/-- RING_HALT (R70): UPSTREAM_HALT in every running context of the job, forwarded to its other neighbours. -/
def perfRingHalt : Perf := Perf.dev (fun p _ d =>
  allCtx.foldl (fun d c =>
    let x := d.ctxAt c
    if x.pkey = p.pkey.toNat && x.state = .running then
      d.detect c [{ Detection.unitOnly 8 0xFFFF with ringId := p.at' 0x10 2 }] d.time.beat
        (some (p.src.toNat, p.at' 0x12 1, p.at' 0x18 8))
    else d) d)

/-- LOCKSTEP (R419, R420): a partner's digest, or its notice of a mismatch. -/
def lockstepIn (p : Pkt) (d : Dev) : Dev :=
  match allCtx.find? (fun c => (d.ctxAt c).state = .running && (d.ctxAt c).lock.form = 1) with
  | none => d
  | some c =>
    let beat := p.at' 0x10 8
    let unit := p.at' 0x28 2
    if bit (p.at' 0x2A 1) 0 then
      let d := (d.count BRY_LS_STAT.MISMATCHES).put BRY_LS_STAT.LAST_UNIT unit
      let d := d.modCtx c (fun x => { x with lock := { x.lock with halt := true } })
      d.detect c [⟨beat, 9, unit, 0xFFFF, 0xFFFF, 0, 1, 136, 0xFF⟩] beat none
    else
      (d.modCtx c (fun x => { x with lock := { x.lock with heard := x.lock.heard ++ [(beat, unit, sub p.body 8 16)] } })).comparePair c false

/-! ### The rows -/

/-- WRITE (R363). -/
def execWrite (a : Arrival) (s : State) : Host.Outcome State Fault Refusal := .next (s.run (deliverAct perfWrite [0x10] a))

/-- GET_DATA (R391). -/
def execGetData (a : Arrival) (s : State) : Host.Outcome State Fault Refusal := .next (s.run (deliverAct perfGetData [0x11] a))

/-- SHARD (R52). -/
def execShard (a : Arrival) (s : State) : Host.Outcome State Fault Refusal := .next (s.run (deliverAct perfShard [0x12] a))

/-- ACK (R384). -/
def execAck (a : Arrival) (s : State) : Host.Outcome State Fault Refusal := .next (s.run (deliverAct perfAck [0x40] a))

/-- NACK (R385). -/
def execNack (a : Arrival) (s : State) : Host.Outcome State Fault Refusal := .next (s.run (deliverAct perfNack [0x41] a))

/-- RESET (R387). -/
def execReset (a : Arrival) (s : State) : Host.Outcome State Fault Refusal := .next (s.run (deliverAct perfReset [0x42] a))

/-- REFUSE (R389). -/
def execRefuse (a : Arrival) (s : State) : Host.Outcome State Fault Refusal := .next (s.run (deliverAct perfRefuse [0x43] a))

/-- SHORT_PACKET (R231). -/
def execShortPacket (a : Arrival) (s : State) : Host.Outcome State Fault Refusal := .next (s.run (deliverAct perfShort [0x50] a))

/-- SHORT_CONT (R231). -/
def execShortCont (a : Arrival) (s : State) : Host.Outcome State Fault Refusal := .next (s.run (deliverAct perfShortCont [0x51] a))

/-- AMO_RESP (R391). -/
def execAmoResp (a : Arrival) (s : State) : Host.Outcome State Fault Refusal := .next (s.run (deliverAct perfAmoResp [0x52] a))

/-- GET_REQ (R391). -/
def execGetReq (a : Arrival) (s : State) : Host.Outcome State Fault Refusal := .next (s.run (deliverAct perfGetReq [0x53] a))

/-- RING_HALT (R70). -/
def execRingHalt (a : Arrival) (s : State) : Host.Outcome State Fault Refusal := .next (s.run (deliverAct perfRingHalt [0x58] a))

/-- What a packet of each TYPE does once it is accepted. -/
def perfOf : Perf := fun p map now fu m d =>
  match p.type with
  | 0x10 => perfWrite p map now fu m d
  | 0x11 => perfGetData p map now fu m d
  | 0x12 => perfShard p map now fu m d
  | 0x40 => perfAck p map now fu m d
  | 0x41 => perfNack p map now fu m d
  | 0x42 => perfReset p map now fu m d
  | 0x43 => perfRefuse p map now fu m d
  | 0x50 => perfShort p map now fu m d
  | 0x51 => perfShortCont p map now fu m d
  | 0x52 => perfAmoResp p map now fu m d
  | 0x53 => perfGetReq p map now fu m d
  | 0x58 => perfRingHalt p map now fu m d
  | _ => (.done, { dev := d })

/-- POISON_MAP (R364): it completes the packet before it. -/
def execPoisonMap (a : Arrival) (s : State) : Host.Outcome State Fault Refusal := .next (s.run (deliverAct perfOf [0x59] a))

/-- LOCKSTEP (R399, R420): on an AUX port in UP or DEGRADED. -/
def execLockstep (a : Arrival) (s : State) : Host.Outcome State Fault Refusal :=
  .next (s.run (linkLocalAct 0x64 (fun k d => psUp ≤ d.portState k && d.portAux k) (fun _ p _ => Act.dev (lockstepIn p)) a))

/-- ACK_TIMER (R384): 1 microsecond after the oldest performed packet that no ACK covers. -/
def execAckTimer (flow : FlowRef) (s : State) : Host.Outcome State Fault Refusal :=
  .next (s.run (Act.dev (fun d =>
    let f := flowKey flow.peer.toNat flow.tc.val
    match d.recvFlow f with
    | some r => if 0 < r.owed then d.sendAck f else d
    | none => d)))

/-- RTO_EXPIRY (R386): the flow goes again from its oldest number, and RTO doubles up to 1 ms. -/
def execRtoExpiry (flow : FlowRef) (s : State) : Host.Outcome State Fault Refusal :=
  .next (s.run (fun _ m d =>
    let f := flowKey flow.peer.toNat flow.tc.val
    let x := d.sendFlow f
    match x.unacked with
    | [] => { dev := d }
    | o :: _ =>
      let rto := if x.rto = 0 then d.get RTE_TIMERS.RTO else x.rto
      { dev := (d.modSend f (fun x => { x with rto := Nat.min (2 * rto) (Nat.max rto 10000) })).resend m f o.seq }))

/-- FLOW_TIMEOUT (R386). -/
def execFlowTimeout (flow : FlowRef) (s : State) : Host.Outcome State Fault Refusal :=
  .next (s.run (Act.dev (fun d =>
    let f := flowKey flow.peer.toNat flow.tc.val
    if (d.sendFlow f).unacked.isEmpty then d else (d.failFlow f).count RTE_ERR.FLOWLOST)))

/-- CONGESTION_STEP (R393): a STEP without a cut has ended. -/
def execCongestionStep (flow : FlowRef) (s : State) : Host.Outcome State Fault Refusal :=
  .next (s.run (Act.dev (fun d =>
    let f := flowKey flow.peer.toNat flow.tc.val
    if tblGet 0 d.rte.rate f = 0 || !d.flag RTE_CC.EN then d
    else d.putRate f (Nat.min (d.rmax flow.peer.toNat) (d.rateOf f + 1000 * d.get RTE_CC.RAI)))))

end Sys2Proof.Machine
end

