-- ==== Sys2Proof/Machine/Start.lean ====
section
/-! DEFINITION. Rails, starts and resets (R485, R507 to R514, R526, R527, R534, R545, R553, R555, R556, R565). -/

namespace Sys2Proof.Machine

/-! ### What a reset covers (R565) -/

/-- The registers of the Brynoa die that its own reset covers: LNK_, RTE_, ETH_ and BRY_ but for the serial, the beat and
the period, and those of the host's BARs (R565). -/
def brynoaRegs : List RegName :=
  [.LNK_PROFILE, .LNK_PORT_MAP, .LNK_PORT_CFG, .LNK_PORT_STAT, .LNK_QUAD, .LNK_CREDIT, .LNK_ERR,
   .RTE_TBL_SEL, .RTE_TBL_DATA, .RTE_FLIP, .RTE_FLIP_BEAT, .RTE_TIMERS, .RTE_CC, .RTE_ERR, .RTE_REL, .RTE_PVIOL,
   .BRY_MODULE_ID, .BRY_TIME_CFG, .BRY_TIME_STAT, .BRY_NBR, .BRY_NBR_SERIAL, .BRY_LS_STAT, .BRY_OVR_LAST, .BRY_OVR_CNT,
   .ETH_PORT_CFG, .ETH_PFC, .ETH_UCAST, .ETH_RULE_SEL, .ETH_RULE_DATA, .ETH_RX_ERR, .ETH_RX_DROP, .ETH_TX_ERR,
   .ETH_PAUSE, .HOST_ADM_SQ_CFG, .HOST_ADM_CQ_CFG, .HOST_MOD_STAT, .HOST_CTX, .HOST_SQ_CFG, .HOST_CQ_CFG,
   .HOST_CTX_STAT, .ETH_QCFG, .ETH_QWM, .ETH_QSTAT]

/-- The registers of a compute die's configuration space (R563). -/
def computeRegs : List RegName := cdPlaces.map (·.reg)

/-- The domains of the Brynoa die: quads, router, Ethernet, host interface (R542). -/
def isBrynoaDom (x : Nat) : Bool := 376 ≤ x && x < 419

/-- Lowers the domains that a predicate selects. -/
def Dev.lowerDoms (d : Dev) (p : Nat → Bool) : Dev :=
  d.modPwr (fun w => { w with doms := tblMap DomRec.init (fun x r => if p x then { r with state := .off } else r) w.doms })

/-- Raises the domains of a list that are not on. -/
def Dev.raiseDoms (d : Dev) (xs : List Nat) : Dev := xs.foldl (fun d x => if d.domOn x then d else d.domRaised x) d

/-- The Brynoa die is reset: router, quads, multicast engine, Ethernet, host interface, arbiter and flow state; the ports
are DOWN (R387, R396, R513, R565). -/
def Dev.resetBrynoa (d : Dev) : Dev :=
  let d := (d.endSessions (fun _ => true)).resetRegs brynoaRegs
  let d := { d with
    host := HostIf.init, outq := [], lnk := [], rte := Rte.init, eth := Eth.init,
    time := { d.time with exchange := none, good := 0, parent := (0, 0) } }
  d.lowerDoms isBrynoaDom

/-- The keys that end with tenant memory: all but the module system key (R485). -/
def Dev.dropTenantKeys (d : Dev) : Dev :=
  { d with keep := { d.keep with slots := tblDrop (fun k => k ≠ 0) d.keep.slots, ctx := [], retired := [] } }

/-- Everything in the compute dies and in the contexts is gone (R507, R545). -/
def Dev.loseCompute (d : Dev) : Dev :=
  { d with own := Own.init, ctx := [], thr := [], que := [], past := [], core := [], regn := [], slotCnt := [], full := [],
           flight := [], sync := ⟨[], []⟩, eng := [], gens := [], str := [] }

/-- "48 V lost" (R507, R545): every domain is lowered, every context is lost as at KILL, what the compute dies and the
Brynoa die held is gone; the next start is cold.  The always-on region keeps its registers and keys.
DEDUCED, log 141. -/
def Dev.powerDown (d : Dev) : Dev :=
  let d := ((d.resetBrynoa.resetRegs computeRegs).dropTenantKeys.loseCompute).lowerDoms (fun _ => true)
  let d := if d.mmc.unitCmd.isSome then d.put MMC_UNIT_CMD.STATUS 6 else d
  { d with mmc := { d.mmc with
      state := .standby, start := none, heldDown := false, unitCmd := none, routed := 0,
      units := tblMap UnitRec.init (fun _ u => { u with state := .out }) d.mmc.units } }

/-- PWR_SB follows the contacts (R553, R557). -/
def Dev.showContacts (d : Dev) : Dev :=
  ((d.put PWR_SB.SLOT Config.sledSlot.toNat).put PWR_SB.SEAT (b2n d.pwr.seat)).put PWR_SB.VIN_ON (b2n d.pwr.vinOn)

/-! ### Starts -/

/-- A cold start begins (R503, R507, R509): what lasts until the next cold start ends. -/
def Dev.coldStart (d : Dev) : Dev :=
  let d := if d.flag MMC_RESET.REMOVE_OK then (d.put MMC_RESET.REMOVE_OK 0).emit (.pin 10 false) else d
  let d := ((d.put KEEP_STAT.MODULE_DEBUG 0).put KEEP_STAT.CLAMPS 0).put KEEP_ALARM.LEVEL 0
  let d := d.put KEEP_DBG_CTL.OPEN 0
  { d with
    keep := { d.keep with erased := false, debug := .locked, moduleDebug := false },
    pwr := { d.pwr with doms := [] },
    mmc := { d.mmc with state := .training, start := some ⟨true, false⟩, retry := false } }

/-- In STANDBY with VIN48 in range and the SEAT loop closed the module closes its input switch and, with AUTO set,
cold-starts (R507, R555); after a failed start it waits for its retry. -/
def Dev.inputPower (d : Dev) : Dev :=
  if d.mmc.state = .standby && d.pwr.vin48 && d.pwr.seat && !d.pwr.vinOn then
    let d := (d.modPwr (fun p => { p with vinOn := true })).showContacts
    if d.flag MMC_RESET.AUTO && !d.mmc.retry then d.coldStart else d
  else d

/-- The check of an image kind at a start: the slot that runs, shown with the verdicts (R487, R506).
DEDUCED, log 140. -/
def Dev.bootKind (d : Dev) (f : Fuses) (kind : Nat) : Dev :=
  let d := (d.showSlot kind 0).showSlot kind 1
  match d.bootSlot f kind with
  | some i => d.putRun kind i
  | none => d

/-- VSB12_PRESENT (R486, R507, R525, R555): the always-on region is powered, the Keeper checks KEEPER and MMC, and the
module enters STANDBY; where both slots of one fail it stays OFF. -/
def execVsb12Present (s : State) : Host.Outcome State Fault Refusal :=
  .next (s.run (fun f _ d =>
    if d.mmc.state ≠ .off then { dev := d }
    else
      let d := d.modPwr (fun p => { p with vsb12 := true })
      if (d.bootSlot f imgKeeper).isNone || (d.bootSlot f imgMmc).isNone then { dev := d }
      else
        let d := ([imgKeeper, imgMmc].foldl (fun d k => d.bootKind f k) d).showContacts
        let d := { d with mmc := { d.mmc with state := .standby } }
        { dev := (d.emit (.pin 9 true)).inputPower }))

/-- What outlives the loss of standby power: flash, the rails at the contacts and what lies outside the module. -/
def Dev.afterStandby (d : Dev) : Dev :=
  { Dev.init with
    pwr := { Power.init with vin48 := d.pwr.vin48, seat := d.pwr.seat },
    mmc := { Mmc.init with flash := d.mmc.flash },
    hostMem := d.hostMem, out := d.out, cclk := d.cclk, free := d.free }

/-- VSB12_LOST (R485, R507, R528, R534, R565). -/
def execVsb12Lost (s : State) : Host.Outcome State Fault Refusal :=
  .next (s.run (Act.dev (fun d =>
    if d.mmc.state = .off then d.modPwr (fun p => { p with vsb12 := false }) else d.afterStandby.emit (.pin 9 false))))

/-- VIN48_PRESENT (R507, R555): VIN48 is in range and SEAT is closed. -/
def execVin48Present (s : State) : Host.Outcome State Fault Refusal :=
  .next (s.run (Act.dev (fun d =>
    let d := d.modPwr (fun p => { p with vin48 := true, seat := true })
    let d := { d with mmc := { d.mmc with overVolt := false } }
    if d.mmc.state = .off then d else d.showContacts.inputPower)))

/-- The module's input switch opens and it takes "48 V lost" (R507, R534, R556). -/
def Dev.inputLost (d : Dev) : Dev :=
  let d := d.modPwr (fun p => { p with vinOn := false })
  if d.mmc.state = .off then d
  else if d.mmc.state = .standby then d.showContacts
  else d.powerDown.showContacts

/-- VIN48_LOST (R507, R534). -/
def execVin48Lost (s : State) : Host.Outcome State Fault Refusal :=
  .next (s.run (Act.dev (fun d => (d.modPwr (fun p => { p with vin48 := false })).inputLost)))

/-- VIN48_OVERVOLTAGE (R534): the switch stays open until VIN48 is within range again. -/
def execVin48Overvoltage (s : State) : Host.Outcome State Fault Refusal :=
  .next (s.run (Act.dev (fun d =>
    let d := d.modPwr (fun p => { p with vin48 := false })
    ({ d with mmc := { d.mmc with overVolt := true } }).inputLost)))

/-- SEAT_OPEN (R556). -/
def execSeatOpen (s : State) : Host.Outcome State Fault Refusal :=
  .next (s.run (Act.dev (fun d => (d.modPwr (fun p => { p with seat := false })).inputLost)))

/-! ### The end of a start -/

/-- Whether the images that a start checks pass: every kind of a cold start, PORGUS from the running slot of a warm one
(R509). -/
def Dev.startImages (d : Dev) (f : Fuses) (cold : Bool) : Bool :=
  if cold then (List.range 5).all (fun k => (d.bootSlot f k).isSome) else d.slotRuns f imgPorgus (d.runSlot imgPorgus)

/-- The groups that a start takes into service: all but those of failed units. -/
def Dev.startUnits (d : Dev) (failed : List (W16 × Bool)) : Dev :=
  let bad := failed.flatMap (fun x => orderGroups x.1.toNat)
  let now := d.cclk
  let fw := bit (d.get KEEP_BOOT.RUN) imgPorgus
  let rec' := fun (g : Nat) => if bad.contains g then UnitRec.mk .out true else UnitRec.mk .standby false
  let units := allGroups.foldl (fun t g => tblSet UnitRec.init t g (rec' g)) []
  let cores := (List.range 96).foldl (fun t k => tblMod Core.init t k (fun x => { x with born := now, fwSlot := fw })) d.core
  let d := { d with core := cores, mmc := { d.mmc with units := units } }
  let d := failed.foldl (fun d x => d.unitRecord 4 x.1.toNat (if x.2 then 0x0012 else 0x0011) .out) d
  if d.ticking then d else d.admitStandby

/-- Every tenant unit that awaits its fill is filled and free (R300, R509 step 7). -/
def Dev.fillTenants (d : Dev) : Dev × List MemEff :=
  let us := d.own.listed (fun w => w = .freeDirty)
  (d.withOwn (d.own.setOwners us .freeClean), us.map (fun u => .clear (unitAddr u) (unitBytes u)))

/-- Quads and Ethernet ports that failed their self-test: a quad is FAILED, an Ethernet port is not powered (R511). -/
def Dev.markBrynoa (d : Dev) (failed : List (W16 × Bool)) : Dev :=
  failed.foldl (fun d x =>
    let u := x.1.toNat
    if 0x8A00 ≤ u && u < 0x8A24 then d.putQuad (u - 0x8A00) qsFailed
    else if u = 0x8C00 || u = 0x8C01 then d.lowerDoms (fun k => k = 416 + (u - 0x8C00))
    else d) d

/-- The Brynoa die comes up with a cold start or its own reset: domains, profile, ports, Ethernet, host interface
(R327, R330, R460, R509, R545). -/
def Dev.bringBrynoa (d : Dev) (failed : List (W16 × Bool)) : Dev :=
  let d := d.raiseDoms ([412, 413, 414, 415, 418] ++ ([416, 417].filter (fun x => d.flag ETH_PORT_CFG.EN (x - 416))))
  let d := d.linkCommit
  let d := (List.range 12).foldl Dev.startTraining d
  ({ d with host := { d.host with cxl := true } }.put HOST_MOD_STAT.DEFAULTS 1).markBrynoa failed

/-- The SRAM of every die and the memories: what a cold start clears, and the part that a warm start clears (R203,
R509). -/
def clearAll : List MemEff := [.clear 0 (3 * 2 ^ 45)]
def clearSram : List MemEff := [.clear (localAddr 2 0) (2 ^ 35)]

/-- The module is READY (R499, R507, R509). -/
def Dev.ready (d : Dev) : Dev :=
  let d := (d.put KEEP_BOOT.FAILS 0).put KEEP_ALARM_CFG.COMMITTED 1
  ({ d with mmc := { d.mmc with state := .ready, start := none, retry := false } }).settleModule

/-- The end of a cold start (R509): images, fuses, the system key, domains, the whole of memory cleared and free.
DESIGN CHOICE, log 7. -/
def Dev.coldDone (d : Dev) (f : Fuses) (failed : List (W16 × Bool)) : Res :=
  let d := (List.range 5).foldl (fun d k => d.bootKind f k) d
  let d := d.put BRY_SERIAL.SERIAL Config.serial.toNat
  let d := (List.range 6).foldl (fun d k => d.put KEEP_SVN.MIN (f.minSvn k) k) d
  let d := (d.put KEEP_STAT.ERASES f.erases).loseCompute
  let d := { d with keep := { d.keep with slots := tblSet false [] 0 true, ctx := [], retired := [] } }
  let d := d.raiseDoms (List.range 376 ++ (List.range 24).map (· + 419))
  let d := ((d.startUnits failed).ready).bringBrynoa failed
  { dev := d, mem := clearAll }

/-- The end of a warm start (R509, R510): PORGUS from its slot, the compute dies' SRAM cleared, tenant memory filled. -/
def Dev.warmDone (d : Dev) (brynoa : Bool) (failed : List (W16 × Bool)) : Res :=
  let (d, fills) := d.fillTenants
  let d := d.raiseDoms (List.range 376 ++ (List.range 24).map (· + 419))
  let d := (d.startUnits failed).ready
  { dev := if brynoa then d.bringBrynoa failed else d, mem := clearSram ++ fills }

/-- STARTUP_COMPLETE (R327, R460, R499, R507, R509): with the units that failed training (marked) or a test.
DEDUCED, log 142. -/
def execStartupComplete (failed : List (W16 × Bool)) (s : State) : Host.Outcome State Fault Refusal :=
  .next (s.run (fun f _ d =>
    match d.mmc.start with
    | none => { dev := d }
    | some r =>
      if !d.pwr.vinOn || !d.startImages f r.cold then { dev := d }
      else if r.cold then d.coldDone f failed else d.warmDone r.brynoa failed))

/-- A start fails (R507, R511, R512, R527): recorded, counted, powered down; the next start is cold and comes 1 s later, or
the third failure brings RECOVERY, where its image passes the check. -/
def Dev.startFails (d : Dev) (f : Fuses) (source unit cause : Nat) : Dev :=
  let d := d.logError 4 source unit cause 0 0 0
  let d := d.powerDown.count KEEP_BOOT.FAILS
  if 3 ≤ d.get KEEP_BOOT.FAILS then
    if (d.bootSlot f imgRecovery).isSome then
      let d := (d.bootKind f imgRecovery).raiseDoms [418]
      { d with mmc := { d.mmc with state := .recovery } }
    else d
  else { d with mmc := { d.mmc with retry := true } }

/-- START_FAIL (R487, R511): both slots of a kind that this start checks fail, or a Brynoa unit other than a quad or an
Ethernet port fails its self-test. -/
def execStartFail (reason : StartFailure) (s : State) : Host.Outcome State Fault Refusal :=
  .next (s.run (fun f _ d =>
    match d.mmc.start with
    | none => { dev := d }
    | some r => match reason with
      | .imageCheck k =>
        let bad := if r.cold then k.val < 5 && (d.bootSlot f k.val).isNone
          else k.val = imgPorgus && !d.slotRuns f imgPorgus (d.runSlot imgPorgus)
        { dev := if bad then d.startFails f 1 0xFFFF 0x0040 else d }
      | .selfTest u =>
        let kind := field u.toNat 8 4
        let bad := u.toNat / 0x1000 = 8 && validUnit u.toNat && kind ≠ 0xA && kind ≠ 0xC
        { dev := if bad then d.startFails f 0 u.toNat 0x0011 else d }))

/-- START_DEADLINE (R511). -/
def execStartDeadline (s : State) : Host.Outcome State Fault Refusal :=
  .next (s.run (fun f _ d => { dev := if d.mmc.start.isSome then d.startFails f 2 0xFFFF 0x0041 else d }))

/-- START_RETRY (R507, R511): 1 s after a failed start the next cold start begins. -/
def execStartRetry (s : State) : Host.Outcome State Fault Refusal :=
  .next (s.run (Act.dev (fun d =>
    if d.mmc.retry && d.mmc.state = .standby && d.pwr.vinOn then d.coldStart else d)))

/-! ### Resets -/

/-- What a cold module reset leaves: the log, FAILS unless cleared, flash, the rails, what lies outside (R513, R528,
R565). -/
def Dev.coldReset (d : Dev) (clearFails : Bool) : Dev :=
  let d0 := { Dev.init with
    pwr := { Power.init with vsb12 := true, vin48 := d.pwr.vin48, seat := d.pwr.seat, vinOn := d.pwr.vinOn },
    mmc := { Mmc.init with log := d.mmc.log, seq := d.mmc.seq, flash := d.mmc.flash, overVolt := d.mmc.overVolt },
    hostMem := d.hostMem, out := d.out, cclk := d.cclk, free := d.free, nextFlight := d.nextFlight }
  let d0 := d0.put KEEP_BOOT.FAILS (if clearFails then 0 else d.get KEEP_BOOT.FAILS)
  let d0 := d0.put MMC_LOG_SEL.OVERFLOW (d.get MMC_LOG_SEL.OVERFLOW)
  (if d.flag MMC_RESET.REMOVE_OK then d0.emit (.pin 10 false) else d0).showContacts.coldStart

/-- A warm start begins (R485, R507, R510, R513): every context is killed with issuer 0x8001, the compute dies are reset,
tenant keys are destroyed; a Brynoa die reset takes the Brynoa die with it.
DEDUCED, log 145. -/
def warmReset (brynoa : Bool) : Act :=
  (killOff allCtx 0x8001).andThen (Act.dev (fun d =>
    let d := if brynoa then d.resetBrynoa else d
    let d := (d.resetRegs computeRegs).dropTenantKeys.lowerDoms (fun x => !isBrynoaDom x)
    let d := if d.mmc.unitCmd.isSome then d.put MMC_UNIT_CMD.STATUS 6 else d
    let d := (d.put KEEP_ALARM.LEVEL 0).put MMC_TRACE.EN 0
    { d with thr := [], que := [], past := [], regn := [], slotCnt := [], full := [], flight := [], eng := [], gens := [], str := [],
             mmc := { d.mmc with
               state := .training, start := some ⟨false, brynoa⟩, unitCmd := none, routed := 0,
               units := tblMap UnitRec.init (fun _ u => { u with state := .out }) d.mmc.units } }))

/-- A compute die is reset (R513, R565): every unit of it with its stack and devices goes OUT and on to SCRUB, its
registers take their reset values.
DEDUCED, log 105. -/
def Dev.dieReset (d : Dev) (n : Nat) : Dev :=
  let gs := dieGroups n
  let d := gs.foldl (fun d g => d.outGroup (domUnit g) g) d
  let d := ({ d with regs := tblDrop (fun k => computeRegs.any (fun r => regKey r n = k)) d.regs }).settleUnitCmd
  gs.foldl Dev.enterScrub d

/-- Whether a reset, a start, a firmware switch or a removal is in progress (R514, R530).
DEDUCED, log 143. -/
def Dev.resetBusy (d : Dev) : Bool := d.mmc.start.isSome || d.mmc.switching.isSome || d.flag MMC_RESET.REMOVE_OK

/-- Whether the module is in service (R507). -/
def Dev.inService (d : Dev) : Bool :=
  match d.mmc.state with
  | .ready => true
  | .running => true
  | .halted => true
  | .alarm => true
  | _ => false

/-- STATUS of MMC_RESET. -/
def resetStatus (st : Nat) (d : Dev) : Res := { dev := d.put MMC_RESET.STATUS st }

/-- PREPARE_REMOVE (R520, R526): transmitters off, every unit OUT, REMOVE_OK.
DEDUCED, log 144. -/
def Dev.prepareRemove (d : Dev) : Dev :=
  let d := (List.range 12).foldl (fun d k => d.portDown k false) d
  let d := (List.range 2).foldl (fun d p => d.put ETH_PORT_CFG.LINK 0 p) d
  let d := allGroups.foldl (fun d g => d.outGroup (domUnit g) g) d
  (d.put MMC_RESET.REMOVE_OK 1).emit (.pin 10 true)

/-- A scope of MMC_RESET with GO (R513, R514, R526); a reserved scope completes BAD_STATE. -/
def resetScope (scope : Nat) : Act := fun f m d =>
  if d.resetBusy then resetStatus 1 d
  else match scope with
    | 1 =>
      let n := d.get MMC_RESET.DIE
      if !d.inService then resetStatus 2 d
      else if !d.flag MMC_RESET.FORCE && (dieGroups n).any (fun g => !(d.usersOf g).isEmpty) then resetStatus 1 d
      else resetStatus 0 (d.dieReset n)
    | 2 => if d.inService && !d.keep.erased then warmReset false f m (d.put MMC_RESET.STATUS 0) else resetStatus 2 d
    | 3 => if d.inService && !d.keep.erased then warmReset true f m (d.put MMC_RESET.STATUS 0) else resetStatus 2 d
    | 4 =>
      let clr := d.flag MMC_RESET.CLRFAIL
      if d.mmc.state = .recovery && !clr then resetStatus 2 d else { dev := d.coldReset clr }
    | 5 =>
      if allCtx.any (fun c => (d.ctxAt c).state ≠ .free) then resetStatus 1 d else resetStatus 0 d.prepareRemove
    | _ => resetStatus 2 d

/-- The write of MMC_RESET (R533). -/
def resetWrite (w : RegWr) : Act := mgmtAct .MMC_RESET 0 (fun f m d =>
  let d := d.writeFields .MMC_RESET 0 false w
  if wrSets w MMC_RESET.GO then resetScope (d.get MMC_RESET.SCOPE) f m d else { dev := d })

/-- COMPUTE_DIE_RESET (R513, R514). -/
def execComputeDieReset (w : RegWr) (s : State) : Host.Outcome State Fault Refusal := .next (s.run (resetWrite w))

/-- WARM_MODULE_RESET (R507, R510, R513). -/
def execWarmModuleReset (w : RegWr) (s : State) : Host.Outcome State Fault Refusal := .next (s.run (resetWrite w))

/-- BRYNOA_DIE_RESET (R396, R507, R513). -/
def execBrynoaDieReset (w : RegWr) (s : State) : Host.Outcome State Fault Refusal := .next (s.run (resetWrite w))

/-- COLD_MODULE_RESET (R507, R513). -/
def execColdModuleReset (w : RegWr) (s : State) : Host.Outcome State Fault Refusal := .next (s.run (resetWrite w))

/-- PREPARE_REMOVE (R526). -/
def execPrepareRemove (w : RegWr) (s : State) : Host.Outcome State Fault Refusal := .next (s.run (resetWrite w))

/-- RESET_PIN (R513, R553): SB-12 requests a cold module reset with CLRFAIL clear; OFF and RECOVERY do not take it, nor
does a module with another reset in progress (R507, R514). -/
def execResetPin (s : State) : Host.Outcome State Fault Refusal :=
  .next (s.run (Act.dev (fun d =>
    if d.mmc.state = .off || d.mmc.state = .recovery || d.resetBusy then d else d.coldReset false)))

/-- MODULE_ERROR (R507, R527): recorded; every context is killed; a cold module reset with AUTO set, else the ports go
DOWN and the module is held in TRAINING. -/
def execModuleError (unit : W16) (cause : W16) (s : State) : Host.Outcome State Fault Refusal :=
  .next (s.run (fun f m d =>
    if d.mmc.state = .off || d.mmc.state = .standby then { dev := d }
    else ((Act.dev (fun d => d.logError 3 0 unit.toNat cause.toNat 0 0 0)).andThen
      ((killOff allCtx 0x8001).andThen (Act.dev (fun d =>
        if d.flag MMC_RESET.AUTO then d.coldReset false
        else
          let d := (List.range 12).foldl (fun d k => d.portDown k false) d
          { d with mmc := { d.mmc with state := .training, start := none, heldDown := true } })))) f m d))

end Sys2Proof.Machine
end

