-- ==== Sys2Proof/Machine/TimeSync.lean ====
section
/-! DEFINITION. Discovery, domain time and the beat period (R399 to R410). -/

namespace Sys2Proof.Machine

/-! ### Discovery (R401 to R403) -/

/-- The body of this port's HELLO (R401). -/
def Dev.helloBody (d : Dev) (k : Nat) : Bytes :=
  let valid := d.idCommitted
  let info := d.get LNK_PROFILE.PROFILE + 8 * b2n (d.flag LNK_PORT_MAP.AUX k) + 16 * d.get LNK_PORT_MAP.REACH k + 64 * b2n valid
  let echo := match (d.portAt k).hello with
    | some h => sub h 0 8 ++ sub h 0xC 1
    | none => zeros 8 ++ leBytes 1 0xFF
  leBytes 8 (d.get BRY_SERIAL.SERIAL) ++ leBytes 2 (if valid then d.moduleId else 0) ++ leBytes 2 (d.get BRY_MODULE_ID.DOMAIN)
    ++ leBytes 1 k ++ leBytes 1 (d.get LNK_PORT_STAT.ACTIVE k) ++ leBytes 1 info ++ zeros 1 ++ echo ++ zeros 7

/-- QMISMATCH and DUP_ID that a HELLO shows (R402). -/
def Dev.noteNeighbour (d : Dev) (k : Nat) (h : Bytes) : Dev :=
  let d := if rdb h 0xD ≠ d.get LNK_PORT_STAT.ACTIVE k then d.put BRY_NBR.QMISMATCH 1 k else d
  if bit (rdb h 0xE) 6 && d.idCommitted && rd h 8 2 = d.moduleId then d.put BRY_NBR.DUP_ID 1 k else d

/-- The neighbour entry, from a HELLO (R402, R423). -/
def Dev.writeNeighbour (d : Dev) (k : Nat) (h : Bytes) : Dev :=
  let d := d.resetRegsAt [.BRY_NBR, .BRY_NBR_SERIAL] k
  let d := [(BRY_NBR.PEER_ID, rd h 8 2), (BRY_NBR.PEER_PORT, rdb h 0xC), (BRY_NBR.PEER_COUNT, rdb h 0xD),
      (BRY_NBR.PEER_PROFILE, field (rdb h 0xE) 0 3), (BRY_NBR.VALID, 1), (BRY_NBR.PEER_DOMAIN, rd h 0xA 2),
      (BRY_NBR.PEER_ID_VALID, field (rdb h 0xE) 6 1), (BRY_NBR.PEER_SWITCH, field (rdb h 0xE) 7 1),
      (BRY_NBR_SERIAL.SERIAL, rd h 0 8)].foldl (fun (d : Dev) (e : Fld × Nat) => d.put e.1 e.2 k) d
  d.noteNeighbour k h

/-- HELLO_TIMER (R402): a HELLO goes out; a port in DISCOVER that has been named by its neighbour enters ARMED with it. -/
def execHelloTimer (port : PortId) (s : State) : Host.Outcome State Fault Refusal :=
  .next (s.run (Act.dev (fun d =>
    let k := port.val
    if d.portState k < psDiscover then d
    else
      let d := d.sendLocal k 0x60 (d.helloBody k)
      match (d.portAt k).hello with
      | some h =>
        if d.portState k = psDiscover && (d.portAt k).echoed then
          ((d.writeNeighbour k h).put LNK_PORT_STAT.STATE psArmed k).fullCredits k
        else d
      | none => d)))

/-- What a HELLO does at a port (R402).
DEDUCED, log 112. -/
def Dev.hearHello (d : Dev) (k : Nat) (h : Bytes) : Dev :=
  let ser := rd h 0 8
  let known := ser = d.get BRY_NBR_SERIAL.SERIAL k && rdb h 0xC = d.get BRY_NBR.PEER_PORT k
  if d.portState k = psDiscover then
    if ser = d.get BRY_SERIAL.SERIAL then d.put BRY_NBR.LOOP 1 k
    else
      let named := rd h 0x10 8 = d.get BRY_SERIAL.SERIAL && rdb h 0x18 = k
      (d.noteNeighbour k h).modPort k (fun p => { p with hello := some h, echoed := p.echoed || named })
  else if !known then d.portDown k true
  else (d.noteNeighbour k h).modPort k (fun p => { p with hello := some h })

/-- HELLO (R402). -/
def execHello (a : Arrival) (s : State) : Host.Outcome State Fault Refusal :=
  .next (s.run (linkLocalAct 0x60 (fun k d => psDiscover ≤ d.portState k)
    (fun k p _ => Act.dev (fun d => d.hearHello k (sub p.body 0 32))) a))

/-- The write of BRY_MODULE_ID (R403).
DEDUCED, log 117. -/
def Dev.moduleIdWrite (d : Dev) (w : RegWr) : Dev :=
  let was := d.idCommitted
  let d := d.writeFields .BRY_MODULE_ID 0 was w
  if !wrSets w BRY_MODULE_ID.COMMIT || was then d
  else if d.moduleId = 0xFFFF then d.put BRY_MODULE_ID.STATUS 1
  else (d.put BRY_MODULE_ID.COMMITTED 1).put BRY_MODULE_ID.STATUS 0

/-- MODULE_ID_COMMIT (R403). -/
def execModuleIdCommit (w : RegWr) (s : State) : Host.Outcome State Fault Refusal :=
  .next (s.run (mgmtDev .BRY_MODULE_ID 0 (fun d => d.moduleIdWrite w)))

/-! ### Domain time (R405 to R407) -/

/-- The states of R407, in the codes of BRY_TIME_STAT. -/
def tsFree : Nat := 0
def tsAcquiring : Nat := 1
def tsLocked : Nat := 2
def tsHoldover : Nat := 3

/-- The module's STATE. -/
def Dev.timeState (d : Dev) : Nat := d.get BRY_TIME_STAT.STATE

/-- Sets STATE; the count of exchanges in bound starts anew. -/
def Dev.putTimeState (d : Dev) (st : Nat) : Dev :=
  { d.put BRY_TIME_STAT.STATE st with time := { d.time with good := if d.timeState = st then d.time.good else 0 } }

/-- The port of the time parent, where the module is a child (R405). -/
def Dev.timeParent (d : Dev) : Option Nat :=
  let p := d.get BRY_TIME_CFG.PARENT
  if d.flag BRY_TIME_CFG.ROOT || 12 ≤ p then none else some p

/-- The write of BRY_TIME_CFG (R407): a root is LOCKED and keeps T, beat and period; a parent makes a FREE module, or one
that was root, ACQUIRING; with neither it is FREE.
DEDUCED, log 115. -/
def Dev.timeCfgWrite (d : Dev) (w : RegWr) : Dev :=
  let was := d.flag BRY_TIME_CFG.ROOT
  let old := d.timeParent
  let d := d.writeFields .BRY_TIME_CFG 0 false w
  if d.flag BRY_TIME_CFG.ROOT then (d.putTimeState tsLocked).put BRY_TIME_STAT.HOPS 0
  else match d.timeParent with
    | none => d.putTimeState tsFree
    | some p =>
      let d := if old = some p then d else { d with time := { d.time with exchange := none, parent := (0, 0) } }
      if was || d.timeState = tsFree then d.putTimeState tsAcquiring else d

/-- TIME_CFG_WRITE (R407). -/
def execTimeCfgWrite (w : RegWr) (s : State) : Host.Outcome State Fault Refusal :=
  .next (s.run (mgmtDev .BRY_TIME_CFG 0 (fun d => d.timeCfgWrite w)))

/-- TIME_EXCHANGE_TIMER (R405): the child asks, under a new REQ_ID, and records t1. -/
def execTimeExchangeTimer (now : W64) (s : State) : Host.Outcome State Fault Refusal :=
  .next (s.run (Act.dev (fun d =>
    match d.timeParent with
    | none => d
    | some k =>
      if d.portState k < psArmed then d
      else
        let id := (d.time.reqId + 1) % 65536
        let t1 := d.domainTime now.toNat
        ({ d with time := { d.time with reqId := id, exchange := some (id, t1) } }).sendLocal k 0x61 (leBytes 2 id ++ zeros 30))))

/-- The body of TIME_INFO (R406). -/
def Dev.timeInfoBody (d : Dev) : Bytes :=
  let (next, at') := d.time.announced.getD (0, 0)
  leBytes 8 d.time.beat ++ leBytes 8 d.time.tickT ++ leBytes 4 (d.get BRY_PERIOD.PERIOD) ++ leBytes 4 next ++ leBytes 8 at'

/-- Whether a port state takes time packets (R399). -/
def timePort (k : Nat) (d : Dev) : Bool := psArmed ≤ d.portState k

/-- TIME_REQ (R405, R406): the parent answers with TIME_RESP, then TIME_INFO; t3, its time as the answer leaves, is a free
value.
DESIGN CHOICE, log 114. -/
def execTimeReq (a : Arrival) (s : State) : Host.Outcome State Fault Refusal :=
  .next (s.run (linkLocalAct 0x61 timePort (fun k p now => Act.dev (fun d =>
    let t2 := d.domainTime now
    let (t3, d) := d.draw
    let body := sub p.body 0 2 ++ leBytes 1 d.timeState ++ leBytes 1 (d.get BRY_TIME_STAT.HOPS) ++ zeros 4 ++ leBytes 8 t2
      ++ leBytes 8 t3.toNat ++ zeros 8
    (d.sendLocal k 0x62 body).sendLocal k 0x63 d.timeInfoBody)) a))

/-- A signed value limited to a bound. -/
def clampTo (b v : Int) : Int := if v < -b then -b else if b < v then b else v

/-- T moves by θ, in 1/4 ps; a slew gains at most 50 ppm of the 16 microseconds to the next exchange (R407). -/
def Dev.moveTime (d : Dev) (theta : Int) : Dev := { d with time := { d.time with offset := d.time.offset + theta } }
def Dev.slew (d : Dev) (theta : Int) : Dev := d.moveTime (clampTo 3200 theta)

/-- Whether a beat-locked context runs or is halted (R407). -/
def Dev.beatBusy (d : Dev) : Bool :=
  allCtx.any (fun c => d.locked c && ((d.ctxAt c).state = .running || (d.ctxAt c).state = .halted))

/-- 2 ns and 1 microsecond in 1/4 ps. -/
def twoNs : Int := 8000
def oneMicro : Int := 4000000

/-- An exchange completes with θ while the parent is LOCKED (R407). -/
def Dev.exchanged (d : Dev) (theta : Int) (hops : Nat) : Dev :=
  let small := -twoNs < theta && theta < twoNs
  let lock := fun (d : Dev) => (d.putTimeState tsLocked).put BRY_TIME_STAT.HOPS (hops + 1)
  if d.timeState = tsLocked then
    let d := d.slew theta
    if theta ≤ -oneMicro || oneMicro ≤ theta then d.put BRY_TIME_STAT.OUT_OF_BOUND 1 else d
  else if d.timeState = tsHoldover then
    let d := if d.beatBusy then d.slew theta else d.moveTime theta
    if small then lock d else d.putTimeState tsAcquiring
  else
    let d := (d.putTimeState tsAcquiring).moveTime theta
    let n := if small then d.time.good + 1 else 0
    let d := { d with time := { d.time with good := n } }
    if 8 ≤ n then lock d else d

/-- A response completes the open exchange (R405, R407): OFFSET and DELAY take θ and the delay. -/
def Dev.timeAnswer (d : Dev) (b : Bytes) (t1 t4 : Nat) : Dev :=
  let out := toSigned (ofSigned ((rd b 8 8 : Nat) - (t1 : Int)) 64) 64
  let back := toSigned (ofSigned ((t4 : Int) - (rd b 0x10 8 : Nat)) 64) 64
  let asym := toSigned (d.get BRY_TIME_CFG.ASYM) 16
  let theta := (out - back) * 125 - 2 * asym
  let delay := (out + back) * 125 / 4
  let st := rdb b 2
  let d := { d with time := { d.time with exchange := none, parent := (st, rdb b 3) } }
  let d := (d.put BRY_TIME_STAT.OFFSET (ofSigned (if theta / 4 < -524288 then -524288 else Min.min 524287 (theta / 4)) 20)).put
    BRY_TIME_STAT.DELAY (Nat.min 0xFFFFFF delay.toNat)
  if st = tsLocked then d.exchanged theta (rdb b 3)
  else if d.timeState = tsLocked then d.putTimeState tsHoldover
  else if d.timeState = tsFree then d.putTimeState tsAcquiring
  else { d with time := { d.time with good := 0 } }

/-- 8 microseconds in 1/16 ns. -/
def eightMicros : Nat := 128000

/-- TIME_RESP (R405 to R407): one that answers no open request, or comes more than 8 microseconds after t1, is discarded. -/
def execTimeResp (a : Arrival) (s : State) : Host.Outcome State Fault Refusal :=
  .next (s.run (linkLocalAct 0x62 timePort (fun k p now => Act.dev (fun d =>
    let t4 := d.domainTime now
    match d.time.exchange with
    | some (id, t1) =>
      if d.timeParent = some k && p.at' 0x10 2 = id && t4 ≤ t1 + eightMicros then d.timeAnswer (sub p.body 0 32) t1 t4 else d
    | none => d)) a))

/-- Whether a parent's tick and this module's are of one time line (R407): the same tick, or ticks next to each other. -/
def Dev.agrees (d : Dev) (beat tickT period : Nat) : Bool :=
  let own := 16 * d.get BRY_PERIOD.PERIOD
  (beat = d.time.beat && tickT = d.time.tickT && period = d.get BRY_PERIOD.PERIOD)
    || (beat + 1 = d.time.beat && tickT + own = d.time.tickT)
    || (beat = d.time.beat + 1 && tickT = d.time.tickT + own)

/-- TIME_INFO (R407, R410): an ACQUIRING child takes beat, tick, period and announcement of a parent that is LOCKED; a LOCKED
one checks them and takes the announcement. -/
def Dev.hearInfo (d : Dev) (b : Bytes) : Dev :=
  let beat := rd b 0 8
  let tickT := rd b 8 8
  let period := rd b 0x10 4
  let next := rd b 0x14 4
  let ann := if next = 0 then none else some (next, rd b 0x18 8)
  if d.time.parent.1 ≠ tsLocked then d
  else if d.timeState = tsAcquiring then
    { d.put BRY_PERIOD.PERIOD period with time := { d.time with beat := beat, tickT := tickT, announced := ann } }
  else if d.timeState = tsLocked then
    let d := if d.agrees beat tickT period then d else d.put BRY_TIME_STAT.PERIOD_MISMATCH 1
    if ann.isSome then { d with time := { d.time with announced := ann } } else d
  else d

/-- TIME_INFO. -/
def execTimeInfo (a : Arrival) (s : State) : Host.Outcome State Fault Refusal :=
  .next (s.run (linkLocalAct 0x63 timePort (fun k p _ => Act.dev (fun d =>
    if d.timeParent = some k then d.hearInfo (sub p.body 0 32) else d)) a))

/-- HOLDOVER_TIMEOUT (R407): 64 microseconds without a complete exchange. -/
def execHoldoverTimeout (s : State) : Host.Outcome State Fault Refusal :=
  .next (s.run (Act.dev (fun d =>
    if d.timeParent.isSome && d.timeState = tsLocked then d.putTimeState tsHoldover else d)))

/-! ### The period (R410) -/

/-- 1 ms in 1/16 ns. -/
def oneMilli : Nat := 16000000

/-- The checks of R410 in order: the STATUS of the first that fails.
DEDUCED, log 116. -/
def Dev.periodCheck (d : Dev) (next at' now : Nat) : Option Nat :=
  let tick := fun (b : Nat) => d.time.tickT + 16 * (b - d.time.beat) * d.get BRY_PERIOD.PERIOD
  let soon := fun (b : Nat) => b ≤ d.time.beat || tick b < now + oneMilli
  if next < 2000 || 1000000000 < next then some 1
  else if !d.flag BRY_TIME_CFG.ROOT then some 2
  else if d.get BRY_PERIOD.PERIOD = 0 then none
  else if soon at' || d.time.announced.any (fun e => soon e.2) then some 3
  else none

/-- The write of BRY_PERIOD (R410): with no period set the new one is in force at once and the next tick comes one period
later; else it is announced. -/
def Dev.periodWrite (d : Dev) (w : RegWr) (now : Nat) : Dev :=
  let d := d.writeFields .BRY_PERIOD 0 false w
  if !wrSets w BRY_PERIOD.APPLY then d
  else
    let next := d.get BRY_PERIOD.NEXT
    let at' := d.reg .BRY_PERIOD_AT 0
    let t := d.domainTime now
    match d.periodCheck next at' t with
    | some st => d.put BRY_PERIOD.STATUS st
    | none =>
      let d := d.put BRY_PERIOD.STATUS 0
      if d.get BRY_PERIOD.PERIOD = 0 then
        { d.put BRY_PERIOD.PERIOD next with time := { d.time with tickT := t, tickCycle := d.cclk } }
      else { d with time := { d.time with announced := some (next, at') } }

/-- PERIOD_APPLY (R410). -/
def execPeriodApply (w : RegWr) (now : W64) (s : State) : Host.Outcome State Fault Refusal :=
  .next (s.run (mgmtDev .BRY_PERIOD 0 (fun d => d.periodWrite w now.toNat)))

end Sys2Proof.Machine
end

