-- ==== Sys2Proof/Machine/Upkeep.lean ====
section
/-! DEFINITION. What memory and the sync store do by themselves: scrubs (R202, R316, R318), the background fill (R300),
the invalidation word (R306), the release of a Latch line (R274). -/

namespace Sys2Proof.Machine

/-- The unit code of the SRAM that holds a line: a core's memory with its operand buffers, or a quadrant (R37, R38).
DEDUCED, log 84. -/
def sramUnit (a : Nat) : Option Nat :=
  let off := a % 2 ^ 45
  let n := off / 2 ^ 32
  let x := off % 2 ^ 32
  match sramCore a with
  | some k => some (unitCode (k / 12) 4 (k % 12))
  | none => if a / 2 ^ 45 = 2 && n < 8 && 0x40000000 ≤ x && x < 0x46000000 then some (unitCode n 5 ((x - 0x40000000) / 0x01800000)) else none

/-- SRAM_SCRUB (R202): a corrected line counts; an uncorrectable one takes its poison mark and counts, with a DEFERRED
record (R527, R528). -/
def execSramScrub (line : Nat) (found : EccFinding) (s : State) : Host.Outcome State Fault Refusal :=
  .next (s.run (fun _ _ d =>
    match sramUnit (64 * line), found with
    | some u, .corrected => { dev := d.count PRG_SRAM_ECC.CORRECTED (u / 0x1000) }
    | some u, .uncorrectable =>
      let n := u / 0x1000
      let d := ((d.count PRG_SRAM_ECC.UNCORRECTED n).put PRG_SRAM_ECC.LAST_UNIT u n).put PRG_SRAM_ECC.UE 1 n
      let st := match groupOf u with | some g => (d.unitAt g).state.code | none => 0
      { dev := d.logError 1 0 u 0x0001 st 0 0, mem := [.mark line] }
    | _, _ => { dev := d }))

/-- The class of a line for MEM_ECC: that of its unit's owner (R298, R315). -/
def Dev.lineClass (d : Dev) (u : Nat) : Nat :=
  match d.own.ownerOf u with
  | .context _ w => b2n w
  | .image _ => 1
  | _ => 0

/-- PATROL_SCRUB (R316, R318, R320). -/
def execPatrolScrub (line : Nat) (found : EccFinding) (s : State) : Host.Outcome State Fault Refusal :=
  .next (s.run (fun _ _ d =>
    match unitOf (64 * line) with
    | none => { dev := d }
    | some u =>
      if shmUnit0 ≤ u then { dev := d }
      else
        let g := unitGroup u
        let n := g / 47
        match found with
        | .clean => { dev := d }
        | .corrected => { dev := if u < capUnit0 then d.count MEM_ECC.HBM_CORR n else d.count MEM_ECC.CAP_CORR n }
        | .uncorrectable =>
          let cls := d.lineClass u
          let d := ((d.count MEM_ECC.UNCORR n).put MEM_ECC.LAST_UNIT (domUnit g) n).put MEM_ECC.LAST_CLASS cls n
          let d := d.put MEM_ECC.UE 1 n
          { dev := d.logError 1 0 (domUnit g) 0x0002 (d.unitAt g).state.code 1 cls, mem := [.mark line] }))

/-- BACKGROUND_FILL (R300): a FREE_DIRTY unit off the die is cleared and becomes FREE_CLEAN. -/
def execBackgroundFill (unit : Nat) (s : State) : Host.Outcome State Fault Refusal :=
  .next (s.run (fun _ _ d =>
    if unit < shmUnit0 && d.own.ownerOf unit = .freeDirty && d.admitted (unitGroup unit) then
      { dev := d.withOwn (d.own.setOwner unit .freeClean), mem := [.clear (unitAddr unit) (unitBytes unit)] }
    else { dev := d }))

/-- INVALIDATION (R306): a refused value changes nothing. -/
def execInvalidation (c : CtxId) (value : W64) (s : State) : Host.Outcome State Fault Refusal :=
  .next (s.run (Act.dev (fun d =>
    if (d.ctxAt c).state = .free || (d.ctxAt c).state = .killing then d else (d.invalWord c value.toNat).2)))

/-- LATCH_RELEASE (R274): a die sees its line high: its objects of the line advance. -/
def execLatchRelease (die : DieId) (latch : Fin 8) (s : State) : Host.Outcome State Fault Refusal :=
  .next (s.run (Act.dev (fun d =>
    ((d.latchObjs latch.val).filter (fun e => e.1 / 65536 = die.val && e.2.release)).foldl
      (fun d e => d.latchRelease die.val (e.1 % 65536)) d)))

/-! ### CLR bits -/

/-- The fields that the CLR bit of a register sets to zero. -/
def clrFields : RegName → List Fld
  | .PRG_SRAM_ECC => [PRG_SRAM_ECC.CORRECTED, PRG_SRAM_ECC.UNCORRECTED, PRG_SRAM_ECC.LAST_UNIT]
  | .STR_ERR => [STR_ERR.ACCESS, STR_ERR.ADDR, STR_ERR.PROT, STR_ERR.FAULT]
  | .STR_BRAM => [STR_BRAM.FAILS, STR_BRAM.LAST_CHECK, STR_BRAM.LAST_UNIT, STR_BRAM.CRC_FAILS]
  | .SYN_STAT => [SYN_STAT.FAULTS]
  | .MEM_ECC => [MEM_ECC.HBM_CORR, MEM_ECC.CAP_CORR, MEM_ECC.UNCORR, MEM_ECC.LAST_UNIT, MEM_ECC.LAST_CLASS]
  | .LNK_QUAD => [LNK_QUAD.CORR_SYM, LNK_QUAD.UNCORR]
  | .LNK_ERR => [LNK_ERR.CRYPT_TAG, LNK_ERR.NOKEY, LNK_ERR.DROP_DOWN, LNK_ERR.FLIT_DISC]
  | .RTE_ERR => [RTE_ERR.MALFORMED, RTE_ERR.NOROUTE, RTE_ERR.FLOWLOST, RTE_ERR.TBLREJ]
  | .RTE_REL => [RTE_REL.RETX, RTE_REL.NACK_TX, RTE_REL.DUP, RTE_REL.RESYNC]
  | .RTE_PVIOL => [RTE_PVIOL.COUNT, RTE_PVIOL.LAST_PKEY, RTE_PVIOL.LAST_TC, RTE_PVIOL.DIR]
  | .BRY_LS_STAT => [BRY_LS_STAT.MISMATCHES, BRY_LS_STAT.LAST_UNIT, BRY_LS_STAT.MISSING]
  | .BRY_OVR_CNT => [BRY_OVR_CNT.COUNT]
  | .ETH_RX_ERR => [ETH_RX_ERR.RUNT, ETH_RX_ERR.GIANT, ETH_RX_ERR.FCS, ETH_RX_ERR.FILTER]
  | .ETH_RX_DROP => [ETH_RX_DROP.NOBUF, ETH_RX_DROP.NOBUF_MID, ETH_RX_DROP.FAULT, ETH_RX_DROP.NOQ, ETH_RX_DROP.TAIL]
  | .ETH_TX_ERR => [ETH_TX_ERR.GIANT, ETH_TX_ERR.BAD_DESC, ETH_TX_ERR.LINK_DOWN, ETH_TX_ERR.SRC_FAIL]
  | .ETH_PAUSE => [ETH_PAUSE.RX_PAUSE, ETH_PAUSE.TX_PAUSE]
  | .MMC_CFG_REJ => [MMC_CFG_REJ.COUNT, MMC_CFG_REJ.LAST_SPACE, MMC_CFG_REJ.LAST_OFFSET]
  | _ => []

/-- PRG_SRAM_ECC_CLR (R205). -/
def execPrgSramEccClr (die : DieId) (s : State) : Host.Outcome State Fault Refusal :=
  .next (s.run (dieDev .PRG_SRAM_ECC die.val (fun d => d.zero (clrFields .PRG_SRAM_ECC) die.val)))

/-- STR_ERR_CLR (R243). -/
def execStrErrClr (die : DieId) (s : State) : Host.Outcome State Fault Refusal :=
  .next (s.run (dieDev .STR_ERR die.val (fun d => d.zero (clrFields .STR_ERR) die.val)))

/-- STR_BRAM_CLR (R263). -/
def execStrBramClr (die : DieId) (s : State) : Host.Outcome State Fault Refusal :=
  .next (s.run (dieDev .STR_BRAM die.val (fun d => d.zero (clrFields .STR_BRAM) die.val)))

/-- SYN_STAT_CLR (R291). -/
def execSynStatClr (die : DieId) (s : State) : Host.Outcome State Fault Refusal :=
  .next (s.run (dieDev .SYN_STAT die.val (fun d => d.zero (clrFields .SYN_STAT) die.val)))

/-- MEM_ECC_CLR (R320). -/
def execMemEccClr (die : DieId) (s : State) : Host.Outcome State Fault Refusal :=
  .next (s.run (dieDev .MEM_ECC die.val (fun d => d.zero (clrFields .MEM_ECC) die.val)))

/-- LNK_QUAD_CLR (R355). -/
def execLnkQuadClr (quad : QuadId) (s : State) : Host.Outcome State Fault Refusal :=
  .next (s.run (mgmtDev .LNK_QUAD quad.val (fun d => d.zero (clrFields .LNK_QUAD) quad.val)))

/-- LNK_ERR_CLR (R355). -/
def execLnkErrClr (s : State) : Host.Outcome State Fault Refusal :=
  .next (s.run (mgmtDev .LNK_ERR 0 (fun d => d.zero (clrFields .LNK_ERR))))

/-- RTE_ERR_CLR (R398). -/
def execRteErrClr (s : State) : Host.Outcome State Fault Refusal :=
  .next (s.run (mgmtDev .RTE_ERR 0 (fun d => d.zero (clrFields .RTE_ERR))))

/-- RTE_REL_CLR (R398). -/
def execRteRelClr (s : State) : Host.Outcome State Fault Refusal :=
  .next (s.run (mgmtDev .RTE_REL 0 (fun d => d.zero (clrFields .RTE_REL))))

/-- RTE_PVIOL_CLR (R398). -/
def execRtePviolClr (k : Fin 13) (s : State) : Host.Outcome State Fault Refusal :=
  .next (s.run (mgmtDev .RTE_PVIOL k.val (fun d => d.zero (clrFields .RTE_PVIOL) k.val)))

/-- BRY_LS_STAT_CLR (R423). -/
def execBryLsStatClr (s : State) : Host.Outcome State Fault Refusal :=
  .next (s.run (mgmtDev .BRY_LS_STAT 0 (fun d => d.zero (clrFields .BRY_LS_STAT))))

/-- BRY_OVR_CNT_CLR (R67). -/
def execBryOvrCntClr (c : Fin 9) (s : State) : Host.Outcome State Fault Refusal :=
  .next (s.run (mgmtDev .BRY_OVR_CNT c.val (fun d => d.zero (clrFields .BRY_OVR_CNT) c.val)))

/-- ETH_RX_ERR_CLR (R482). -/
def execEthRxErrClr (port : Fin 2) (s : State) : Host.Outcome State Fault Refusal :=
  .next (s.run (mgmtDev .ETH_RX_ERR port.val (fun d => d.zero (clrFields .ETH_RX_ERR) port.val)))

/-- ETH_RX_DROP_CLR (R482). -/
def execEthRxDropClr (port : Fin 2) (s : State) : Host.Outcome State Fault Refusal :=
  .next (s.run (mgmtDev .ETH_RX_DROP port.val (fun d => d.zero (clrFields .ETH_RX_DROP) port.val)))

/-- ETH_TX_ERR_CLR (R482). -/
def execEthTxErrClr (port : Fin 2) (s : State) : Host.Outcome State Fault Refusal :=
  .next (s.run (mgmtDev .ETH_TX_ERR port.val (fun d => d.zero (clrFields .ETH_TX_ERR) port.val)))

/-- ETH_PAUSE_CLR (R482): the counts alone. -/
def execEthPauseClr (port : Fin 2) (s : State) : Host.Outcome State Fault Refusal :=
  .next (s.run (mgmtDev .ETH_PAUSE port.val (fun d => d.zero (clrFields .ETH_PAUSE) port.val)))

/-- MMC_CFG_REJ_CLR (R533). -/
def execMmcCfgRejClr (s : State) : Host.Outcome State Fault Refusal :=
  .next (s.run (mgmtDev .MMC_CFG_REJ 0 (fun d => d.zero (clrFields .MMC_CFG_REJ))))

end Sys2Proof.Machine
end

