-- ==== Sys2Proof/Machine/Plane.lean ====
section
/-! DEFINITION. The management plane and the BARs (R16, R428, R429, R529, R554, R562 to R566): which register an access
reaches, what it reads as, and what a write to it does. -/

namespace Sys2Proof.Machine

/-! ### What registers read as -/

/-- The STATE that MMC_UNIT_STAT shows for a unit of the Brynoa die (R332, R515). -/
def Dev.bdState (d : Dev) (kind inst : Nat) : Nat :=
  match kind with
  | 0xA =>
    match d.get LNK_QUAD.STATE inst with
    | 1 => UnitState.test.code
    | 2 =>
      let st := d.portState (d.get LNK_QUAD.PORT inst)
      if psUp ≤ st then UnitState.admitted.code else if st = psArmed then UnitState.standby.code else UnitState.test.code
    | 3 => UnitState.standby.code
    | 4 => UnitState.test.code
    | _ => UnitState.out.code
  | 0xC => if d.ethUp inst then UnitState.admitted.code else UnitState.out.code
  | 0xF => UnitState.admitted.code
  | _ => if d.hostUp then UnitState.admitted.code else UnitState.out.code

/-- Whether a die link is out and its traffic on the Brynoa route, by the link's unit code (R33, R38). -/
def Dev.degraded (d : Dev) (u : Nat) : Bool :=
  let n := u / 0x1000
  n < 8 && field u 8 4 = 8 && ((field u 0 8 = 0 && bit d.mmc.routed n) || (field u 0 8 = 1 && bit d.mmc.routed ((n + 7) % 8)))

/-- MMC_UNIT_STAT (R533). -/
def Dev.unitStat (d : Dev) : Nat :=
  let u := d.get MMC_UNIT_STAT.UNIT
  if !validUnit u || u = 0xFFFF then u
  else match groupOf u with
    | some g =>
      let x := d.unitAt g
      let users := d.usersOf g
      u + x.state.code * 2 ^ 16 + b2n x.failed * 2 ^ 19 + b2n (d.degraded u) * 2 ^ 20 + b2n (!users.isEmpty) * 2 ^ 21
        + ((users.head?.map (·.val)).getD 0) * 2 ^ 22
    | none =>
      let kind := field u 8 4
      let inst := field u 0 8
      u + d.bdState kind inst * 2 ^ 16 + b2n (kind = 0xA && d.get LNK_QUAD.STATE inst = 5) * 2 ^ 19

/-- How many granules of a memory device are FREE_CLEAN: those of its base state that the map does not list otherwise,
and those that it lists (R298, R320). -/
def Dev.cleanOn (d : Dev) (g : Nat) : Nat :=
  if !d.admitted g then 0
  else match groupUnits g with
    | none => 0
    | some (first, n) =>
      let listed := d.own.map.filter (fun e => onGroup g e.1)
      let base := if d.own.base first = .freeClean then n - (if first = 0 then 64 else 0) - listed.length else 0
      base + (listed.filter (fun e => e.2 = .freeClean)).length

/-- How many granules of a memory device are FREE_DIRTY. -/
def Dev.dirtyOn (d : Dev) (g : Nat) : Nat :=
  if d.admitted g then (d.own.map.filter (fun e => onGroup g e.1 && e.2 = .freeDirty)).length else 0

/-- MEM_FILL of a die (R320): the background fill runs while a granule is FREE_DIRTY (R300). -/
def Dev.memFill (d : Dev) (n : Nat) : Nat :=
  let gs := [hbmGroup n, capGroup (2 * n), capGroup (2 * n + 1)]
  let dirty := (gs.map d.dirtyOn).foldl (· + ·) 0
  dirty + (gs.map d.cleanOn).foldl (· + ·) 0 * 2 ^ 18 + b2n (0 < dirty) * 2 ^ 36

/-- SYN_LATCH (R291): the owner, level and ownership of each line. -/
def Dev.latchStat (d : Dev) : Nat :=
  ((List.range 8).map (fun k =>
    let o := d.latchOwner k
    ((o.map (·.val)).getD 0 + b2n (d.latchLevel k) * 2 ^ 6 + b2n o.isSome * 2 ^ 7) * 2 ^ (8 * k))).foldl (· + ·) 0

/-- The record that MMC_LOG_SEL selects (R528). -/
def Dev.logRecord (d : Dev) : Option ErrRec := d.mmc.log.find? (fun e => e.seq = d.get MMC_LOG_SEL.SEQ)

/-- PWR_DOM_STAT (R542, R557). -/
def Dev.domStat (d : Dev) : Nat :=
  let x := d.get PWR_DOM_SEL.INDEX
  if 442 < x then 0
  else
    let r := d.domAt x
    r.state.ctorIdx + domUnit x * 2 ^ 16 + Nat.min r.raises 0xFFFF * 2 ^ 32

/-- The STATE code of a context (R462). -/
def Dev.ctxCode (d : Dev) (c : CtxId) : Nat := (d.ctxAt c).state.ctorIdx

/-- The value that a register reads as (R12): stored, or put together from the state that it shows; WO fields read as
zero.
DESIGN CHOICE, log 18. -/
def Dev.regView (d : Dev) (r : RegName) (i : Nat) : Nat :=
  let c : CtxId := Fin.ofNat 64 i
  match r with
  | .PRG_MEM_MODE => match d.dieMode i with | some m => field m 0 5 + 2 ^ 5 | none => 0
  | .SYN_STAT => setField (d.reg r i) SYN_STAT.FREE.lo SYN_STAT.FREE.width (d.freeSync i)
  | .SYN_LATCH => d.latchStat
  | .MEM_FILL => d.memFill i
  | .RTE_TBL_DATA => d.tblEntry
  | .BRY_BEAT => d.time.beat % 2 ^ 64
  | .ETH_RULE_DATA => d.ethRule (d.get ETH_RULE_SEL.PORT) (d.get ETH_RULE_SEL.INDEX)
  | .MMC_UNIT_STAT => d.unitStat
  | .MMC_LOG_SEL => setField (d.reg r i) MMC_LOG_SEL.VALID.lo 1 (b2n d.logRecord.isSome)
  | .MMC_LOG_DATA => match d.logRecord with | some e => rd e.bytes (8 * i) 8 | none => 0
  | .PWR_DOM_STAT => d.domStat
  | .HOST_MOD_STAT =>
    let v := setField (d.reg r i) HOST_MOD_STAT.MODULE.lo 3 d.mmc.state.ctorIdx
    let v := setField v HOST_MOD_STAT.ID_COMMITTED.lo 1 (b2n d.idCommitted)
    let v := setField v HOST_MOD_STAT.CXL_MEM.lo 1 (b2n d.host.cxl)
    setField v HOST_MOD_STAT.HOST_GRANULES.lo HOST_MOD_STAT.HOST_GRANULES.width d.hostGranules
  | .HOST_CTX => d.ctxCode c + (d.ctxAt c).owner.val * 2 ^ 3 + (d.ctxAt c).pkey * 2 ^ 9
  | .HOST_CTX_STAT =>
    let v := setField (d.reg r i) HOST_CTX_STAT.STATE.lo 3 (d.ctxCode c)
    let v := setField v HOST_CTX_STAT.OWNER.lo 6 (d.ctxAt c).owner.val
    setField v HOST_CTX_STAT.CQ_FULL.lo 1 (b2n (!(d.cqAt (.ctx c)).held.isEmpty))
  | _ => d.reg r i

/-! ### Decoding -/

/-- The halves that an access acts on, with its data on the 64 data bits; none for an access that is narrower or unaligned
(R16). -/
def accessLanes (off size v : Nat) : Option RegWr :=
  if size = 8 && off % 8 = 0 then some ⟨BitVec.ofNat 64 v, .full⟩
  else if size = 4 && off % 8 = 0 then some ⟨BitVec.ofNat 64 (v % 2 ^ 32), .low⟩
  else if size = 4 && off % 8 = 4 then some ⟨BitVec.ofNat 64 (v % 2 ^ 32 * 2 ^ 32), .high⟩
  else none

/-- The data that a read returns from a register's value: the halves that it asked for. -/
def laneData (w : RegWr) (v : Nat) : Nat :=
  match w.lanes with
  | .full => v
  | .low => v % 2 ^ 32
  | .high => v / 2 ^ 32

/-- The register and instance at an offset that is a multiple of 8, by the rows of an index. -/
def placeAt (ps : List RegPlace) (off : Nat) : Option (RegName × Nat) :=
  ps.findSome? (fun p =>
    if p.stride = 0 then (if off = p.base then some (p.reg, 0) else none)
    else if p.base ≤ off && (off - p.base) % p.stride = 0 && (off - p.base) / p.stride < p.count then
      some (p.reg, (off - p.base) / p.stride)
    else none)

/-- The register at an offset of a configuration space (R563, R564): none where no register is, in the space of a die
whose always-on domain is off, or in a block that is absent. -/
def Dev.regAt (d : Dev) (sp off : Nat) : Option (RegName × Nat) :=
  let x := off - off % 8
  let p := if sp < 8 then (if d.domOn (aonGroup sp) then (placeAt cdPlaces x).map (fun p => (p.1, sp)) else none)
    else if sp = 8 then placeAt bdPlaces x else none
  p.filter (fun p => d.blockIn p.1)

/-- The space and offset that an offset of BAR4 lies in (R563); 9 beyond the last space. -/
def bar4Space (off : Nat) : Nat × Nat :=
  if off < 0x800000 then (off / 0x100000, off % 0x100000)
  else if off < 0x900000 then (8, off - 0x800000)
  else (9, off)

/-! ### Writes -/

/-- The CLR field of a register that has one. -/
def clrFld (r : RegName) : Option Fld :=
  if (clrFields r).isEmpty then none else (r.fields.filter (fun f => f.type = .wo)).getLast?

/-- Whether the RWL fields of a register are locked (R328). -/
def Dev.isLocked (d : Dev) (r : RegName) : Bool :=
  (r = .LNK_PORT_MAP || r = .LNK_CREDIT) && d.flag LNK_PROFILE.COMMITTED

/-- A write of a register by its fields alone, and its CLR (R12 to R15). -/
def Dev.plainWrite (d : Dev) (r : RegName) (i : Nat) (w : RegWr) : Dev :=
  let vis := d.regView r i
  let d := if r.fields.isEmpty && ((w.value.toNat ^^^ vis) &&& lanesMask w.lanes) ≠ 0 then d.rejectAt r i
    else d.writeFieldsAs r i (d.isLocked r) vis w
  if (clrFld r).any (wrSets w) then d.zero (clrFields r) i else d

/-- RTE_TIMERS (R398): a write that would set RTO, FLOW_TIMEOUT or ACK_COAL to zero changes nothing and counts. -/
def Dev.timersWrite (d : Dev) (w : RegWr) : Dev :=
  let d1 := d.writeFields .RTE_TIMERS 0 false w
  if d1.get RTE_TIMERS.RTO = 0 || d1.get RTE_TIMERS.FLOW_TIMEOUT = 0 || d1.get RTE_TIMERS.ACK_COAL = 0 then
    d.rejectAt .RTE_TIMERS 0 else d1

/-- KEEP_DBG_TOKEN (R502): the bytes stand until the next write. -/
def Dev.tokenWrite (d : Dev) (i : Nat) (w : RegWr) : Dev :=
  let m := lanesMask w.lanes
  let old := (tblGet 0 d.keep.token i).toNat
  d.modKeep (fun k => { k with token := tblSet 0 k.token i (BitVec.ofNat 64 (old - (old &&& m) + (w.value.toNat &&& m))) })

/-- What a write does to a register of the configuration spaces. -/
def planeWrite (r : RegName) (i : Nat) (w : RegWr) (now : Nat) : Act :=
  match r with
  | .LNK_PROFILE => mgmtDev r i (fun d => d.profileWrite w)
  | .LNK_PORT_CFG => mgmtDev r i (fun d => d.portCfgWrite i w)
  | .LNK_QUAD => mgmtDev r i (fun d =>
      let d := d.quadWrite i w
      if wrSets w LNK_QUAD.CLR then d.zero (clrFields .LNK_QUAD) i else d)
  | .RTE_TBL_DATA => mgmtDev r i (fun d => d.tblWrite w)
  | .RTE_FLIP => mgmtDev r i (fun d => d.flipWrite w)
  | .RTE_TIMERS => mgmtDev r i (fun d => d.timersWrite w)
  | .BRY_MODULE_ID => mgmtDev r i (fun d => d.moduleIdWrite w)
  | .BRY_TIME_CFG => mgmtDev r i (fun d => d.timeCfgWrite w)
  | .BRY_PERIOD => mgmtDev r i (fun d => d.periodWrite w now)
  | .ETH_PORT_CFG => mgmtDev r i (fun d => d.portWrite (Fin.ofNat 2 i) w)
  | .ETH_PFC => mgmtDev r i (fun d => d.setupWrite .ETH_PFC i i w)
  | .ETH_UCAST => mgmtDev r i (fun d => d.setupWrite .ETH_UCAST i (i / 16) w)
  | .ETH_RULE_DATA => mgmtDev r i (fun d => d.ruleWrite w)
  | .KEEP_BOOT => svnWrite w
  | .KEEP_ALARM_CFG => mgmtDev r i (fun d => d.alarmCfgWrite w)
  | .KEEP_ALARM => mgmtDev r i (fun d => d.alarmWrite w)
  | .KEEP_DBG_TOKEN => mgmtDev r i (fun d => d.tokenWrite i w)
  | .KEEP_DBG_CTL => debugWrite w
  | .MMC_RESET => resetWrite w
  | .MMC_UNIT_CMD => mgmtDev r i (fun d => d.unitCmdWrite w none)
  | .MMC_FW => fwStep w fwOp
  | .MMC_FW_DATA => mgmtDev r i (fun d => d.fwBytes w)
  | .MMC_TRACE => traceWrite w
  | .PWR_CAP => mgmtDev r i (fun d => d.capWrite w none)
  | _ => mgmtDev r i (fun d => d.plainWrite r i w)

/-- A write that reaches the MMC: at a place where no register is, or narrower or unaligned, it is discarded and counted
(R16, R564). -/
def spaceWrite (sp off size v now : Nat) : Act := fun f m d =>
  match accessLanes off size v, d.regAt sp off with
  | some w, some (r, i) => planeWrite r i w now f m d
  | _, _ => { dev := d.reject sp off }

/-- A read that reaches the MMC, with its action: the next table entry, a new nonce (R16, R398, R502, R524, R564). -/
def Dev.spaceRead (d : Dev) (sp off size : Nat) : Nat × Dev :=
  match accessLanes off size 0, d.regAt sp off with
  | some w, some (r, i) =>
    if d.mmc.switching = some 1 then (0, d.reject sp off)
    else if r = .KEEP_DBG_NONCE && i = 0 then
      let d := d.newNonce
      (laneData w (d.regView r i), d)
    else (laneData w (d.regView r i), if r = .RTE_TBL_DATA then d.tblNext else d)
  | _, _ => (0, d.reject sp off)

/-! ### The BARs of the host interface -/

/-- Whether the host link presents BAR4 (R460, R507, R512).
DESIGN CHOICE, log 55. -/
def Dev.bar4In (d : Dev) : Bool := d.mmc.state ≠ .off && d.mmc.state ≠ .standby

/-- A write of an Ethernet queue's block: ETH_QCFG, ETH_QWM, then ETH_QSTAT (R483, R566). -/
def queueBlock (fn : FnId) (j off : Nat) (w : RegWr) : Act := fun f m d =>
  match off / 8 % 4 with
  | 0 => ethConfig fn j w f m d
  | 1 => { dev := d.fnWatermark fn j w }
  | 2 => { dev := if d.reachesQueue fn j then d.plainWrite .ETH_QSTAT j w else d.rejectAt .ETH_QSTAT j }
  | _ => { dev := d.reject 9 off }

/-- The queue of a context's slot (R470). -/
def Dev.slotQueue (d : Dev) (c : CtxId) (slot : Nat) : Option Nat :=
  (List.range 64).find? (fun j => d.queueCtx j = some c && d.get ETH_QCFG.SLOT j = slot)

/-- A write of the PF to its BAR0 (R462, R483, R566). -/
def pfBar0 (off : Nat) (w : RegWr) : Act := fun f m d =>
  let x := off - off % 8
  if x = 0 then { dev := d.ringWrite 0 (.sub .adm) w }
  else if x = 8 then { dev := d.ringWrite 0 (.comp .adm) w }
  else match placeAt pfPlaces x with
    | some (r, i) => { dev := d.plainWrite r i w }
    | none =>
      if 0x2000 ≤ x && x < 0x2800 then queueBlock 0 ((x - 0x2000) / 0x20) x w f m d else { dev := d.reject 9 off }

/-- A write of a VF to its BAR0: the page of a context that it owns (R429, R462, R470). -/
def vfBar0 (fn : FnId) (off : Nat) (w : RegWr) : Act := fun f m d =>
  let c : CtxId := Fin.ofNat 64 (off / 0x400)
  let y := off % 0x400 - off % 8
  if 64 * 0x400 ≤ off || !d.owns fn c then { dev := d.foreign off }
  else if y < 0x40 then { dev := d.ringWrite fn (.sub (.sq c (Fin.ofNat 8 (y / 8)))) w }
  else if y = 0x40 then { dev := d.ringWrite fn (.comp (.ctx c)) w }
  else if y = 0x48 then { dev := d.plainWrite .HOST_CTX_STAT c.val w }
  else if 0x100 ≤ y && y < 0x200 then
    match d.slotQueue c ((y - 0x100) / 0x20) with
    | some j => queueBlock fn j y w f m d
    | none => { dev := d.reject 9 off }
  else { dev := d.reject 9 off }

/-- A write to a doorbell (R462, R471): INDEX lies in the low half, and a write of the high half alone rings nothing. -/
def bellWrite (fn : FnId) (off : Nat) (w : RegWr) (descs : List Bytes) : Act := fun f m d =>
  let v := w.value.toNat
  let x := off - off % 8
  if w.lanes = .high then { dev := d }
  else if fn = 0 then
    if x = 0 then { dev := d.sqBell 0 .adm v }
    else if x = 8 then { dev := d.cqBell 0 .adm v }
    else if 0x1000 ≤ x && x < 0x1200 then ethBell 0 ((x - 0x1000) / 8) v descs f m d
    else { dev := d.reject 9 off }
  else
    let c : CtxId := Fin.ofNat 64 (off / 0x1000)
    let y := x % 0x1000
    if 64 * 0x1000 ≤ off || !d.owns fn c then { dev := d.foreign off }
    else if y < 0x40 then { dev := d.sqBell fn (.sq c (Fin.ofNat 8 (y / 8))) v }
    else if y = 0x40 then { dev := d.cqBell fn (.ctx c) v }
    else if 0x100 ≤ y && y < 0x140 then
      match d.slotQueue c ((y - 0x100) / 8) with
      | some j => ethBell fn j v descs f m d
      | none => { dev := d.reject 9 off }
    else { dev := d.reject 9 off }

/-- REGISTER_WRITE (R11 to R16, R428, R429, R566): the host writes to a BAR. -/
def execRegisterWrite (a : RegAccess) (s : State) : Host.Outcome State Fault Refusal :=
  .next (s.run (fun f m d =>
    match a.path with
    | .bar4 =>
      let (sp, off) := bar4Space a.offset
      if d.bar4In then spaceWrite sp off a.size a.data.toNat a.now.toNat f m d else { dev := d }
    | .bar0 fn =>
      if !d.hostUp || !d.fnPresent fn then { dev := d }
      else match accessLanes a.offset a.size a.data.toNat with
        | none => { dev := d.reject 9 a.offset }
        | some w => if fn = 0 then pfBar0 a.offset w f m d else vfBar0 fn a.offset w f m d
    | .bar2 fn =>
      if !d.hostUp || !d.fnPresent fn then { dev := d }
      else match accessLanes a.offset a.size a.data.toNat with
        | none => { dev := d.reject 9 a.offset }
        | some w => bellWrite fn a.offset w a.descs f m d))

/-! ### Management requests (R529, R554) -/

/-- The STATUS of MGMT_RESP: 0 OK, 1 ACCESS, 2 BAD_ADDR.  A request of TC3 comes from the module in MMC_MGR alone and
reaches no KEEP_ register (R529); the MMC refuses every one while it switches its firmware (R524). -/
def Dev.mgmtStatus (d : Dev) (from' : Option Nat) (sp off : Nat) : Nat :=
  let mgr := d.get MMC_MGR.ID
  let keep := (placeAt bdPlaces (off - off % 8)).any (fun p => RegName.KEEP_STAT.ctorIdx ≤ p.1.ctorIdx && p.1.ctorIdx < RegName.MMC_RESET.ctorIdx)
  if d.mmc.switching = some 1 then 1
  else if from'.any (fun src => mgr = 0xFFFF || src ≠ mgr || (sp = 8 && keep)) then 1
  else if off % 8 ≠ 0 || (d.regAt sp off).isNone then 2
  else 0

/-- The 32 bytes of MGMT_RESP after its header (R529). -/
def mgmtResp (tag status data : Nat) : Bytes := leBytes 2 tag ++ leBytes 1 status ++ zeros 5 ++ leBytes 8 data

/-- A management request of 64 bits with its answer (R529): the response body and what the access did.  Only OK
performs the access; an offset where no register is counts (R564).
DEDUCED, log 149. -/
def mgmtAccess (from' : Option Nat) (write : Bool) (tag sp off v now : Nat) (f : Fuses) (m : Mem) (d : Dev) : Bytes × Res :=
  match d.mgmtStatus from' sp off with
  | 0 =>
    if write then (mgmtResp tag 0 0, spaceWrite sp off 8 v now f m d)
    else
      let (x, d) := d.spaceRead sp off 8
      (mgmtResp tag 0 x, { dev := d })
  | 1 => (mgmtResp tag 1 0, { dev := d })
  | _ => (mgmtResp tag 2 0, { dev := d.reject sp off })

/-- MGMT_READ and MGMT_WRITE over the fabric: the response goes to the request's source. -/
def perfMgmt : Perf := fun p _ now f m d =>
  let (r, e) := mgmtAccess (some p.src.toNat) (p.type = 0x71) (p.at' 0x10 2) (p.at' 0x12 1) (p.at' 0x14 4) (p.at' 0x18 8) now f m d
  (.done, { e with dev := e.dev.originate 9 (ctlPkt 0x72 3 0xFFFF p.src.toNat e.dev.moduleId r) })

/-- A request over the side-band link, answered there. -/
def sideBand (write : Bool) (r : MgmtRequest) : Act := fun f m d =>
  if d.mmc.state = .off then { dev := d }
  else
    let (b, e) := mgmtAccess none write r.tag.toNat r.space.toNat r.offset.toNat r.data.toNat r.now.toNat f m d
    { e with dev := e.dev.emit (.mgmt true (leBytes 1 0x72 ++ b)) }

/-- MGMT_READ (R428, R529, R554): BAR4 returns the data of the access. -/
def execMgmtRead (r : MgmtRequest) (s : State) : Host.Outcome State Fault Refusal :=
  .next (s.run (fun f m d =>
    match r.via with
    | .bar4 =>
      if !d.bar4In then { dev := d }
      else
        let (x, d) := d.spaceRead r.space.toNat r.offset.toNat r.size
        { dev := d.emit (.mgmt false (leBytes r.size x)) }
    | .sideBand => sideBand false r f m d
    | .fabric a => deliverAct perfMgmt [0x70] a f m d))

/-- MGMT_WRITE (R428, R529, R554). -/
def execMgmtWrite (r : MgmtRequest) (s : State) : Host.Outcome State Fault Refusal :=
  .next (s.run (fun f m d =>
    match r.via with
    | .bar4 =>
      if d.bar4In then spaceWrite r.space.toNat r.offset.toNat r.size r.data.toNat r.now.toNat f m d else { dev := d }
    | .sideBand => sideBand true r f m d
    | .fabric a => deliverAct perfMgmt [0x71] a f m d))

/-- What every packet does that is delivered to this module. -/
def perfAll : Perf := fun p map now f m d =>
  if p.type = 0x70 || p.type = 0x71 then perfMgmt p map now f m d else perfOf p map now f m d

end Sys2Proof.Machine
end

