-- ==== Sys2Proof/Machine/Forward.lean ====
section
/-! DEFINITION. The router as a whole (R27, R366, R381): packets that attachments hold go out, packets that arrive go on or
are delivered here. -/

namespace Sys2Proof.Machine

/-- Packets of the module for itself are delivered: they pass the steps of R382 at port 12. -/
def loopAct : Act := fun f m d =>
  Act.each (fun p => receiveAct perfAll localPort p.flitCount p d.time.tickT) d.rte.loop f m (d.modRte (fun r => { r with loop := [] }))

/-- An attachment's first packet that the router accepts is numbered and sent (R381). -/
def Dev.sendFirst (d : Dev) (att : Nat) : Dev :=
  let q := tblGet [] d.outq att
  match d.firstReady att q 0 [] with
  | some (i, o) => ({ d with outq := tblSet [] d.outq att (q.eraseIdx i) }).sendNew att o
  | none => d

/-- PACKET_SEND (R359, R381): a router that runs, and whose module has its ID (R403), takes a packet of an attachment; what
it sends to its own module arrives at once.
DESIGN CHOICE, log 125. -/
def execPacketSend (att : Fin 11) (s : State) : Host.Outcome State Fault Refusal :=
  .next (s.run (fun f m d =>
    if !d.hostUp || !d.idCommitted then { dev := d }
    else ((Act.dev (fun d => d.sendFirst att.val)).andThen loopAct) f m d))

/-- A packet that goes on through an output port (R343, R366, R378, R380): it keeps its place in the input buffer until its
flits leave.
DEDUCED, log 124. -/
def Dev.forward (d : Dev) (a : Arrival) (o : Nat) : Dev :=
  let k := a.port.val
  let vc := 2 * a.pkt.tc.val + b2n a.upper
  if d.portState k < psUp then d
  else if !d.carries o false a.pkt then d.count RTE_ERR.NOROUTE
  else if !d.keyPasses o a.pkt then d.violation o a.pkt true
  else (d.holdFlits k vc a.flits).enqueue o (d.forwardSide k o a.upper) a.marked a.pkt (some (k, vc))

/-- What the router does with an arriving packet (R366): discarded in ALARM (R500) or where no key of the input port passes
(R380), delivered here, sent on, or dropped without a route. -/
def forwardAct (a : Arrival) : Act := fun f m d =>
  let k := a.port.val
  let p := a.pkt
  let drop := fun (g : Dev → Dev) => arriveAct a (Act.dev g) f m d
  match d.route k p with
  | .here => arriveAct a (receiveAct perfAll k a.flits p a.now.toNat) f m d
  | r =>
    if d.clamps p then drop (fun d => d.count LNK_ERR.DROP_DOWN)
    else if !d.keyPasses k p then drop (fun d => d.violation k p false)
    else match r with
      | .out o => if d.portTakes k p then { dev := d.forward a o } else { dev := d }
      | .wrongKey => drop (fun d => d.violation k p false)
      | _ => drop (fun d => d.count RTE_ERR.NOROUTE)

/-- PACKET_FORWARD (R366).  Link-local packets go no further than the link and have rows of their own; one of a reserved
TYPE is malformed (R399). -/
def execPacketForward (a : Arrival) (s : State) : Host.Outcome State Fault Refusal :=
  .next (s.run (fun f m d =>
    if a.pkt.linkLocal then
      if 0x64 < a.pkt.type then arriveAct a (Act.dev (fun d => d.count RTE_ERR.MALFORMED)) f m d else { dev := d }
    else if !d.hostUp || !d.idCommitted then { dev := d }
    else forwardAct a f m d))

end Sys2Proof.Machine
end

