-- ==== Sys2Proof/Machine/Threads.lean ====
section
/-! DEFINITION. What every instruction of a thread shares: who may issue, fetch, registers, stalls, and how a thread's
address becomes a place (R147 to R153, R157, R165, R280, R304). -/

namespace Sys2Proof.Machine

/-- An instruction at the point of issue: the thread, its context, its PC, its length and its bits. -/
structure Insn where
  k : Nat
  c : CtxId
  pc : Nat
  len : Nat
  bits : Nat
  deriving DecidableEq, Repr

/-- The core of an instruction's thread. -/
def Insn.core (i : Insn) : Nat := i.k / 8

/-- The unit code of the control processor. -/
def Insn.unit (i : Insn) : Nat := cpUnit i.core

/-- An integer register: x0 reads as zero. -/
def Dev.xreg (d : Dev) (k r : Nat) : Nat := if r = 0 then 0 else (tblGet 0 (d.thrAt k).x r).toNat

/-- The registers with one written: x0 discards. -/
def setX (x : Tbl W64) (r v : Nat) : Tbl W64 := if r = 0 then x else tblSet 0 x r (BitVec.ofNat 64 v)

/-- The instruction ends: rd is written and the thread is READY at a PC. -/
def Dev.retireTo (d : Dev) (i : Insn) (rd v pc : Nat) : Dev :=
  d.modThr i.k (fun t => { t with
    state := .ready, stall := none, wait := none, pc := pc % 2 ^ 64, x := setX t.x rd v })

/-- The instruction ends and the next one follows it. -/
def Dev.retire (d : Dev) (i : Insn) (rd v : Nat) : Dev := d.retireTo i rd v (i.pc + i.len)

/-- The thread is held (R151). -/
def Dev.stallOn (d : Dev) (i : Insn) (s : Stall) : Dev := d.modThr i.k (fun t => { t with state := .stall, stall := some s })

/-- A fault of the instruction with an address or its bits in MTVAL (R165). -/
def Dev.faultAt (d : Dev) (i : Insn) (cause tval : Nat) : Dev := d.threadFault i.k cause tval i.pc

/-- ILLEGAL: MTVAL holds the instruction's bits (R165). -/
def Dev.illegal (d : Dev) (i : Insn) : Dev := d.faultAt i 1 i.bits

/-- A fault for which the manual gives MTVAL no value: a free value (log 3).
DESIGN CHOICE, log 72. -/
def Dev.faultFree (d : Dev) (i : Insn) (cause : Nat) : Dev :=
  let (v, d) := d.draw
  d.faultAt i cause v.toNat

/-- The fetch of the instruction's bytes (R148, R304): the cause and address of the fault that it takes, if any.
DESIGN CHOICE, log 70. -/
def Dev.fetchFault (d : Dev) (m : Mem) (i : Insn) : Option (Nat × Nat) :=
  let try' := fun (va : Nat) =>
    let x := (d.translate m i.c (some i.core) .fetch false va).1
    if x.ok then none else some (x.cause, va)
  match try' i.pc with
  | some f => some f
  | none => if i.pc / 4096 = (i.pc + i.len - 1) / 4096 then none else try' (i.pc + i.len - 1)

/-- Runs an instruction of a thread that is READY in a RUNNING context (R152, R153); a thread in another state issues
nothing.  Its fetch is translated first (R148).
DESIGN CHOICE, log 71. -/
def threadAct (th : ThreadRef) (len bits : Nat) (f : Insn → Act) : Act := fun fu m d =>
  let k := thrNo th
  match d.holder (k / 8) with
  | none => { dev := d }
  | some c =>
    let i : Insn := ⟨k, c, (d.thrAt k).pc, len, bits⟩
    if (d.ctxAt c).state ≠ .running || (d.thrAt k).state ≠ .ready then { dev := d }
    else match d.fetchFault m i with
      | some (cause, va) => { dev := d.faultAt i cause va }
      | none =>
        let d := d.cache c i.pc (d.translate m c (some i.core) .fetch false i.pc)
        f i fu m d

/-- An instruction that acts on the device alone. -/
def threadDev (th : ThreadRef) (len bits : Nat) (f : Insn → Dev → Dev) : Act := threadAct th len bits (fun i => Act.dev (f i))

/-! ### Addresses -/

/-- Where a thread's access leads. -/
inductive Reach where
  /-- SRAM of the issuing die, or its own control page: a near access (R280). -/
  | near (pl : Place) (readOnly : Bool)
  /-- Elsewhere on the module: the place and bits [47:0] of the global address. -/
  | far (pl : Place) (addr : Nat) (readOnly : Bool)
  /-- Another module. -/
  | remote (module addr : Nat)
  | fault (cause : Nat)
  deriving DecidableEq, Repr

/-- Whether a place is near for a core (R280). -/
def Place.near (pl : Place) (core : Nat) : Bool :=
  match pl with
  | .mem a => a / 2 ^ 45 = 2 && homeDie a = core / 12
  | .ctrl _ _ => true
  | _ => false

/-- Bits [47:0] of the global address that a leaf gives a context address (R302). -/
def leafAddr (t : Xlat × Option (Nat × Pte) × Bool) (va : Nat) : Nat :=
  match t.2.1 with
  | some (l, p) => (p.frame + va % pageBytes l) % 2 ^ 48
  | none => 0

/-- The translation of a thread's access, and the device with it cached. -/
def Dev.reach (d : Dev) (m : Mem) (i : Insn) (acc : Access) (va : Nat) : Reach × Dev :=
  let t := d.translate m i.c (some i.core) acc false va
  let e := d.cache i.c va t
  match t.1 with
  | .here pl ro => (if pl.near i.core then .near pl ro else .far pl (leafAddr t va) ro, e)
  | .remote md a => (.remote md a, e)
  | x => (.fault x.cause, d)

/-- The line of a far access as R281 compares it: the module and the line. -/
def farLine (module addr : Nat) : Nat := module * 2 ^ 42 + addr / 64

/-- Whether an earlier far write of the thread to a line is not acknowledged (R281).
DEDUCED, log 77. -/
def Dev.lineBusy (d : Dev) (k line : Nat) : Bool := (d.thrAt k).far.any (fun f => f.2.1 = line)

/-- The slot whose tag blocks a near access (R194), by region key. -/
def Dev.nearBlock (d : Dev) (a n : Nat) (write : Bool) : Option (Nat × Nat) :=
  match d.coreOf a with
  | some k => (d.tagBlock k (d.toCoreLocal a) n write).map (fun x => (regionKey k x.1, x.2))
  | none => none

/-- Whether bytes lie in a held slot (R196). -/
def Dev.nearHeld (d : Dev) (a n : Nat) : Bool := (d.coreOf a).any (fun k => d.inHeld k (d.toCoreLocal a) n)

/-- ADDR of the UNINIT word for a read of a place by a thread at a context address: core-local in its own core, die-local in
other SRAM, the context address off the die (R200, R317). -/
def Dev.namedAddr (d : Dev) (core va : Nat) (pl : Place) : Nat :=
  match pl with
  | .mem a => if d.coreOf a = some core then d.toCoreLocal a / 64 * 64 else if a / 2 ^ 45 = 2 then a % 2 ^ 32 / 64 * 64 else va / 64 * 64
  | _ => va / 64 * 64

/-- A place on the core's short-write path: the identifier of the access (R230). -/
def Dev.takeShort (d : Dev) (core : Nat) : Option (Nat × Dev) :=
  if 32 ≤ (d.coreAt core).shorts.length then none
  else
    let id := d.nextFlight
    some (id, ({ d with nextFlight := id + 1 }).modCore core (fun x => { x with shorts := x.shorts ++ [id] }))

/-- Records a far access of a thread until it is acknowledged (R165, R281). -/
def Dev.noteFar (d : Dev) (i : Insn) (id line va : Nat) : Dev :=
  d.modThr i.k (fun t => { t with far := t.far ++ [(id, line, i.pc, va)] })

/-- Reads at a place for a load, LR or MISSUE of a thread: what it meets besides data. -/
inductive LoadEnd where
  | value (v : Nat)
  | wait (s : Stall)
  | fault (cause : Nat)
  deriving DecidableEq, Repr

/-- The read of a thread at a place of this module (R194, R199, R202, R268, R317): the value, with the core's UNINIT word set
where the bytes were never written. -/
def Dev.threadRead (d : Dev) (m : Mem) (i : Insn) (pl : Place) (va n : Nat) : LoadEnd × Dev :=
  match pl with
  | .ctrl core off =>
    match d.ctrlLoad core off n with
    | some v => (.value v, d)
    | none => (.fault 3, d)
  | _ =>
    match d.homeRead m i.c pl n with
    | .refused st => (.fault (answerCause st), d)
    | .wait =>
      let b := match pl with
        | .mem a => (d.nearBlock a n false).getD (0, 0)
        | _ => (0, 0)
      (.wait (.tag b.1 b.2 true), d)
    | .data bs poison uninit =>
      if poison then (.fault 0x0A, d)
      else if uninit then
        let d := d.noteUninit i.core i.unit (d.namedAddr i.core va pl)
        if d.det i.c then (.fault 0x0B, d) else (.value (leNat bs), d)
      else (.value (leNat bs), d)

end Sys2Proof.Machine
end

