-- ==== Sys2Proof/Machine/ThreadCmd.lean ====
section
/-! DEFINITION. The custom instructions, fences, CSRs and traps of threads (R148, R155, R158 to R168, R282). -/

namespace Sys2Proof.Machine

/-- The bits of a custom instruction (R158). -/
def custBits (op : CustOp) (opcode funct3 : Nat) : Nat :=
  op.funct7.toNat * 2 ^ 25 + op.rs2.val * 2 ^ 20 + op.rs1.val * 2 ^ 15 + funct3 * 2 ^ 12 + op.rd.val * 2 ^ 7 + opcode

/-! ### MISSUE (R119, R155, R156, R160) -/

/-- The command is accepted: rd holds the accept number. -/
def Dev.issued (d : Dev) (m : Mem) (i : Insn) (rd q : Nat) (bs : Bytes) : Dev :=
  let (n, d) := d.accept m i.core q bs (i.k % 8)
  d.retire i rd n

/-- Whether a thread may issue to a queue: in deterministic mode its owner alone (R155). -/
def Dev.mayIssue (d : Dev) (i : Insn) (q : Nat) : Bool := !d.det i.c || (d.queAt i.core q).owner = some (i.k % 8)

/-- MISSUE (R160).
DEDUCED, log 74. -/
def missueAct (op : CustOp) : Insn → Act := fun i _ m d =>
  let va := d.xreg i.k op.rs1.val
  let q := d.xreg i.k op.rs2.val
  if op.funct7.toNat ≠ 0 || 7 ≤ q then { dev := d.illegal i }
  else if !d.mayIssue i q then { dev := d.faultFree i 6 }
  else if va % 32 ≠ 0 then { dev := d.faultAt i 3 va }
  else
    let (r, d) := d.reach m i .read va
    match r with
    | .fault c => { dev := d.faultAt i c va }
    | .near (.mem a) _ =>
      let l := d.toCoreLocal a
      if d.coreOf a = some i.core && 0x01000000 ≤ l && l < 0x02200000 then
        match d.threadRead m i (.mem a) va 32 with
        | (.fault c, d) => { dev := d.faultAt i c va }
        | (.wait s, d) => { dev := d.stallOn i s }
        | (.value v, d) =>
          let bs := leBytes 32 v
          { dev := if 64 ≤ (d.queAt i.core q).cmds.length then d.stallOn i (.queue q op.rd.val bs) else d.issued m i op.rd.val q bs }
      else { dev := d.faultAt i 3 va }
    | _ => { dev := d.faultAt i 3 va }

/-- The thread of a core that a queue grants next: the first stalled on it at or after the pointer (R156). -/
def Dev.granted (d : Dev) (core q : Nat) : Option (Nat × Nat × Bytes) :=
  ((List.range 8).map (fun j => ((d.queAt core q).pointer + j) % 8)).findSome? (fun t =>
    match (d.thrAt (core * 8 + t)).stall with
    | some (.queue p rd bs) => if p = q then some (t, rd, bs) else none
    | _ => none)

/-- A stalled MISSUE is accepted once its queue has room (R119, R156). -/
def Dev.grant (d : Dev) (m : Mem) (core q : Nat) : Dev :=
  if 64 ≤ (d.queAt core q).cmds.length then d
  else match d.granted core q, d.holder core with
    | some (t, rd, bs), some c =>
      let d := d.modQue core q (fun u => { u with pointer := (t + 1) % 8 })
      d.issued m ⟨core * 8 + t, c, (d.thrAt (core * 8 + t)).pc, 4, 0⟩ rd q bs
    | _, _ => d

/-! ### MWAIT, MPOLL, MSIG (R161, R269 to R271, R283) -/

/-- The kind and number of the object that rs1 names, or none where a bit beyond it is set. -/
def objectOf (kind v : Nat) : Option Nat :=
  if kind = 0 then (if v < 4096 then some v else none) else if kind = 1 then (if v < 64 then some v else none) else none

/-- The value of an object or arrival counter. -/
def Dev.objectValue (d : Dev) (c : CtxId) (core kind obj : Nat) : Option Nat :=
  if kind = 0 then d.syncValue c (core / 12) obj else some (d.regionAt core obj).arrival

/-- MWAIT (R161). -/
def mwaitAct (op : CustOp) : Insn → Act := fun i => Act.dev (fun d =>
  let kind := field op.funct7.toNat 0 2
  let cond := field op.funct7.toNat 2 2
  let operand := d.xreg i.k op.rs2.val
  match objectOf kind (d.xreg i.k op.rs1.val) with
  | none => d.illegal i
  | some obj =>
    if cond = 3 || field op.funct7.toNat 4 3 ≠ 0 then d.illegal i
    else match d.objectValue i.c i.core kind obj with
      | none => d.faultFree i 0x0C
      | some v =>
        if waitHolds cond v operand then (d.retire i op.rd.val v).modThr i.k (fun t => { t with tmo := false })
        else d.modThr i.k (fun t => { t with
          state := .wait, wait := some { kind := kind, obj := obj, cond := cond, operand := operand, rd := op.rd.val, hit := none } }))

/-- A thread at its PC, for an instruction that ends later. -/
def Dev.insnOf (d : Dev) (k : Nat) (c : CtxId) : Insn := ⟨k, c, (d.thrAt k).pc, 4, 0⟩

/-- A waiting thread whose condition has held wakes with the value (R271). -/
def Dev.wake (d : Dev) (k : Nat) : Dev :=
  match (d.thrAt k).wait, d.holder (k / 8) with
  | some w, some c => match w.hit with
    | some v => (d.retire (d.insnOf k c) w.rd v).modThr k (fun t => { t with tmo := false })
    | none => d
  | _, _ => d

/-- MWTMO ends a wait of a context that is not beat-locked (R161, R162): rd holds the current value or beat. -/
def Dev.timeOut (d : Dev) (k : Nat) : Dev :=
  let t := d.thrAt k
  match d.holder (k / 8) with
  | none => d
  | some c =>
    if t.mwtmo = 0 || d.locked c then d
    else
      let late := fun (d : Dev) => d.modThr k (fun t => { t with tmo := true })
      if t.state = .beat then late (d.retire (d.insnOf k c) t.beatRd d.time.beat)
      else match t.wait with
        | some w =>
          if t.state = .wait && w.hit.isNone then
            late (d.retire (d.insnOf k c) w.rd ((d.objectValue c (k / 8) w.kind w.obj).getD 0))
          else d
        | none => d

/-- MPOLL (R161). -/
def mpollAct (op : CustOp) : Insn → Act := fun i => Act.dev (fun d =>
  let kind := field op.funct7.toNat 0 2
  match objectOf kind (d.xreg i.k op.rs1.val) with
  | none => d.illegal i
  | some obj =>
    if op.funct7.toNat ≠ kind || op.rs2.val ≠ 0 then d.illegal i
    else match d.objectValue i.c i.core kind obj with
      | none => d.faultFree i 0x0C
      | some v => d.retire i op.rd.val v)

/-- MSIG (R161, R269, R270). -/
def msigAct (op : CustOp) : Insn → Act := fun i => Act.dev (fun d =>
  match objectOf 0 (d.xreg i.k op.rs1.val) with
  | none => d.illegal i
  | some vid =>
    if op.funct7.toNat ≠ 0 then d.illegal i
    else
      let inc := toSigned (d.xreg i.k op.rs2.val) 64
      match d.msig i.c (i.core / 12) vid inc ⟨d.moduleId, i.unit, some (i.k % 8), 1⟩ with
      | (.ok old, d) => d.retire i op.rd.val old
      | (.range, d) => d.faultFree i 7
      | (.priv, d) => d.faultFree i 8
      | (.badId, d) => d.faultFree i 0x0C)

/-! ### Fences (R164, R282) -/

/-- Whether a stall for a fence may end.
DEDUCED, log 76. -/
def Dev.fenceDone (d : Dev) (k : Nat) (s : Stall) : Bool :=
  let done := fun (q : Nat) (p : QCmd → Bool) => (d.queAt (k / 8) q).doneFor (k % 8) p
  match s with
  | .fenceU mask => (bitsOf mask 7).all (fun q => done q (fun _ => true))
  | .fenceR => (d.thrAt k).far.isEmpty && done 5 QCmd.outward && done 6 QCmd.outward
  | .fenceG => (d.thrAt k).far.isEmpty && done 5 QCmd.moves && done 6 QCmd.moves
  | _ => false

/-- A fence passes at once or holds the thread. -/
def Dev.fenceOn (d : Dev) (i : Insn) (s : Stall) : Dev := if d.fenceDone i.k s then d.retire i 0 0 else d.stallOn i s

/-- MFENCE.U (R159, R164): a reserved mask bit raises ILLEGAL. -/
def mfenceUAct (op : CustOp) : Insn → Act := fun i => Act.dev (fun d =>
  let mask := d.xreg i.k op.rs1.val
  if op.rd.val ≠ 0 || op.rs2.val ≠ 0 || op.funct7.toNat ≠ 0 || 128 ≤ mask then d.illegal i else d.fenceOn i (.fenceU mask))

/-- MFENCE.R and MFENCE.G (R164). -/
def mfenceAct (s : Stall) (op : CustOp) : Insn → Act := fun i => Act.dev (fun d =>
  if op.rd.val ≠ 0 || op.rs1.val ≠ 0 || op.rs2.val ≠ 0 || op.funct7.toNat ≠ 0 then d.illegal i else d.fenceOn i s)

/-- A pending fence whose condition holds lets its thread go on (R164). -/
def Dev.fenceEnd (d : Dev) (k : Nat) : Dev :=
  match (d.thrAt k).stall, d.holder (k / 8) with
  | some s, some c => if d.fenceDone k s then d.retire (d.insnOf k c) 0 0 else d
  | _, _ => d

/-! ### Beats (R162, R163) and the end of a thread (R153) -/

/-- RDBEAT (R163).
DEDUCED, log 80. -/
def rdbeatAct (op : CustOp) : Insn → Act := fun i => Act.dev (fun d =>
  if op.rs2.val ≠ 0 || op.funct7.toNat ≠ 0 then d.illegal i
  else match op.rs1.val with
    | 0 => d.retire i op.rd.val d.time.beat
    | 1 => d.retire i op.rd.val (if d.locked i.c then (d.ctxAt i.c).relBeat d.time.beat else 0)
    | 2 => d.retire i op.rd.val (d.cclk - d.time.tickCycle)
    | _ => d.illegal i)

/-- BEAT.WAIT (R162). -/
def beatWaitAct (op : CustOp) : Insn → Act := fun i => Act.dev (fun d =>
  if op.rs1.val ≠ 0 || op.rs2.val ≠ 0 || op.funct7.toNat ≠ 0 then d.illegal i
  else d.modThr i.k (fun t => { t with state := .beat, beatRd := op.rd.val, beatIn := d.time.beat }))

/-- After a tick a thread in BEAT goes on with the new domain beat (R153, R162). -/
def Dev.beatRelease (d : Dev) (k : Nat) : Dev :=
  let t := d.thrAt k
  match d.holder (k / 8) with
  | some c =>
    if t.state = .beat && t.beatIn ≠ d.time.beat then
      (d.retire (d.insnOf k c) t.beatRd d.time.beat).modThr k (fun t => { t with tmo := false })
    else d
  | none => d

/-- MEXIT (R153): the thread ends in DONE. -/
def mexitAct (op : CustOp) : Insn → Act := fun i => Act.dev (fun d =>
  if op.rd.val ≠ 0 || op.rs1.val ≠ 0 || op.rs2.val ≠ 0 || op.funct7.toNat ≠ 0 then d.illegal i
  else (d.modThr i.k (fun t => { t with state := .done, pc := (t.pc + 4) % 2 ^ 64 })).endThreads i.c)

/-! ### Traps and plain fences -/

/-- ECALL raises a thread fault (R148). -/
def ecallAct : Insn → Act := fun i => Act.dev (fun d => d.faultFree i 9)

/-- EBREAK (R148, R153, R165, R503): DEBUG while the debugger view of the context is open, else BREAK.
DEDUCED, log 75. -/
def ebreakAct : Insn → Act := fun i => Act.dev (fun d =>
  if d.keep.debug = .context i.c then d.modThr i.k (fun t => { t with state := .debug }) else d.faultFree i 0x0D)

/-- FENCE, FENCE.TSO and FENCE.I (R150, R282): in this model near accesses are performed in program order, far loads hold
their thread, and a far write's acknowledgement is never waited for, so nothing is left to wait for. -/
def fenceAct : Insn → Act := fun i => Act.dev (fun d => d.retire i 0 0)

/-- The word of PAUSE, of the extension Zihintpause, which is not implemented (R147): FENCE with pred W alone and every
other field zero.
DEDUCED, log 69. -/
def pauseWord : Nat := 0x0100000F

/-- FENCE with a predecessor and a successor set; the word of PAUSE raises ILLEGAL (R147, R282). -/
def fenceSetAct (op : FenceOp) : Insn → Act := fun i =>
  if op.pred.val = 1 && op.succ.val = 0 then Act.dev (fun d => d.illegal i) else fenceAct i

/-! ### CSRs (R166, R167) -/

/-- The CSRs of R166. -/
inductive Csr where
  | mfpstat | mwtmo | mqctl | mcore | mdcyc | mcyc | mqown | mtstat | mtval | mtpc
  | mqst (q : Nat)
  | mqfail (q : Nat)
  deriving DecidableEq, Repr

/-- The CSR of a number. -/
def csrOf (n : Nat) : Option Csr :=
  if n = 0x800 then some .mfpstat
  else if n = 0x801 then some .mwtmo
  else if n = 0x802 then some .mqctl
  else if n = 0xCC0 then some .mcore
  else if n = 0xCC1 then some .mdcyc
  else if n = 0xCC2 then some .mcyc
  else if n = 0xCC3 then some .mqown
  else if n = 0xCC4 then some .mtstat
  else if n = 0xCC5 then some .mtval
  else if n = 0xCC6 then some .mtpc
  else if 0xCD0 ≤ n && n < 0xCD7 then some (.mqst (n - 0xCD0))
  else if 0xCD8 ≤ n && n < 0xCDF then some (.mqfail (n - 0xCD8))
  else none

/-- Whether a write may name the CSR. -/
def Csr.writable : Csr → Bool
  | .mfpstat => true
  | .mwtmo => true
  | .mqctl => true
  | _ => false

/-- The value of a CSR as a thread reads it (R167). -/
def Dev.csrRead (d : Dev) (i : Insn) (r : Csr) : Nat :=
  let t := d.thrAt i.k
  match r with
  | .mfpstat => (d.coreAt i.core).fpstat
  | .mwtmo => t.mwtmo
  | .mqctl => 0
  | .mcore => i.unit + (i.k % 8) * 2 ^ 16 + b2n (d.det i.c) * 2 ^ 19 + b2n (d.locked i.c) * 2 ^ 20 + i.c.val * 2 ^ 21
      + (((d.ctxAt i.c).loaded.map (·.rank)).getD 0) * 2 ^ 27
  | .mdcyc => d.cclk - tblGet 0 d.pwr.aonCycle (i.core / 12)
  | .mcyc => d.cclk - (d.coreAt i.core).born
  | .mqown => (List.range 7).foldl (fun v q => match (d.queAt i.core q).owner with
      | some o => v + (o + 8) * 2 ^ (4 * q)
      | none => v) 0
  | .mtstat => t.cause + t.state.ctorIdx * 2 ^ 8 + b2n t.tmo * 2 ^ 11
  | .mtval => t.tval
  | .mtpc => t.tpc
  | .mqst q =>
    let u := d.queAt i.core q
    u.lastWord + u.cmds.length * 2 ^ 32 + b2n u.stopped * 2 ^ 39 + u.lastTag * 2 ^ 48
  | .mqfail q => match (d.queAt i.core q).fail with
    | some (w, tag) => w + tag * 2 ^ 32 + 2 ^ 48
    | none => 0

/-- What a CSR instruction does with its operand (R167). -/
inductive CsrDo where
  | write
  | set
  | clear
  deriving DecidableEq, Repr

/-- Whether the instruction takes its operand from five immediate bits. -/
def CsrKind.imm : CsrKind → Bool
  | .rwi => true
  | .rsi => true
  | .rci => true
  | _ => false

/-- Writing, setting or clearing. -/
def csrDo : CsrKind → CsrDo
  | .rw => .write
  | .rwi => .write
  | .rs => .set
  | .rsi => .set
  | .rc => .clear
  | .rci => .clear

/-- A write of a CSR with an operand (R167). -/
def Dev.csrWrite (d : Dev) (i : Insn) (r : Csr) (k : CsrDo) (v : Nat) : Dev :=
  match r with
  | .mfpstat => if k = .set then d else d.modCore i.core (fun x => { x with fpstat := x.fpstat - (x.fpstat &&& v) })
  | .mwtmo => d.modThr i.k (fun t =>
      let n := match k with
        | .write => v
        | .set => t.mwtmo ||| v
        | .clear => t.mwtmo - (t.mwtmo &&& v)
      { t with mwtmo := n % 2 ^ 32 })
  | .mqctl => if k = .clear then d else d.writeMqctl i.core v
  | _ => d

/-- A CSR instruction (R165, R167): an unknown CSR, or a write to a read-only one, raises ILLEGAL; CSRRS and CSRRC with x0 or
an immediate of 0 write nothing. -/
def csrAct (op : CsrOp) : Insn → Act := fun i => Act.dev (fun d =>
  let writes := csrDo op.kind = .write || op.src.val ≠ 0
  match csrOf op.csr.toNat with
  | none => d.illegal i
  | some r =>
    if writes && !r.writable then d.illegal i
    else
      let v := if CsrKind.imm op.kind then op.src.val else d.xreg i.k op.src.val
      let old := d.csrRead i r
      let d := d.retire i op.rd.val old
      if writes then d.csrWrite i r (csrDo op.kind) v else d)

/-- funct3 of a CSR instruction. -/
def csrFunct3 : CsrKind → Nat
  | .rw => 1
  | .rs => 2
  | .rc => 3
  | .rwi => 5
  | .rsi => 6
  | .rci => 7

/-- The bits of a CSR instruction. -/
def csrBits (op : CsrOp) : Nat :=
  op.csr.toNat * 2 ^ 20 + op.src.val * 2 ^ 15 + csrFunct3 op.kind * 2 ^ 12 + op.rd.val * 2 ^ 7 + 0x73

/-! ### The rows -/

/-- FENCE (R282). -/
def execFence (th : ThreadRef) (op : FenceOp) (s : State) : Host.Outcome State Fault Refusal :=
  .next (s.run (threadAct th 4 (op.pred.val * 2 ^ 24 + op.succ.val * 2 ^ 20 + 0x0F) (fenceSetAct op)))

/-- FENCE_I (R150). -/
def execFenceI (th : ThreadRef) (s : State) : Host.Outcome State Fault Refusal := .next (s.run (threadAct th 4 0 fenceAct))

/-- ECALL (R148). -/
def execEcall (th : ThreadRef) (s : State) : Host.Outcome State Fault Refusal := .next (s.run (threadAct th 4 0x73 ecallAct))

/-- EBREAK (R148). -/
def execEbreak (th : ThreadRef) (compressed : Bool) (s : State) : Host.Outcome State Fault Refusal :=
  .next (s.run (threadAct th (if compressed then 2 else 4) (if compressed then 0x9002 else 0x100073) ebreakAct))

/-- CSR_INSTRUCTION (R167). -/
def execCsrInstruction (th : ThreadRef) (op : CsrOp) (s : State) : Host.Outcome State Fault Refusal :=
  .next (s.run (threadAct th 4 (csrBits op) (csrAct op)))

/-- A CSRRW of MQCTL with x0 as rd (R167).
DEDUCED, log 73. -/
def mqctlAct (v : Nat) : Insn → Act := fun i => Act.dev (fun d => (d.retire i 0 0).writeMqctl i.core v)

/-- MQCTL_RESTART (R167). -/
def execMqctlRestart (th : ThreadRef) (bits : BitVec 7) (s : State) : Host.Outcome State Fault Refusal :=
  .next (s.run (threadAct th 4 0 (mqctlAct bits.toNat)))

/-- MQCTL_CLEAR (R124). -/
def execMqctlClear (th : ThreadRef) (bits : BitVec 7) (s : State) : Host.Outcome State Fault Refusal :=
  .next (s.run (threadAct th 4 0 (mqctlAct (bits.toNat * 2 ^ 8))))

/-- MISSUE (R160). -/
def execMissue (th : ThreadRef) (op : CustOp) (s : State) : Host.Outcome State Fault Refusal :=
  .next (s.run (threadAct th 4 (custBits op 0x0B 0) (missueAct op)))

/-- QUEUE_ACCEPT (R119, R156). -/
def execQueueAccept (q : QueueRef) (s : State) : Host.Outcome State Fault Refusal :=
  .next (s.run (fun _ m d => { dev := d.grant m (coreNo q.die.val q.core.val) q.q.val }))

/-- MWAIT (R161). -/
def execMwait (th : ThreadRef) (op : CustOp) (s : State) : Host.Outcome State Fault Refusal :=
  .next (s.run (threadAct th 4 (custBits op 0x0B 1) (mwaitAct op)))

/-- MWAIT_WAKE (R271). -/
def execMwaitWake (th : ThreadRef) (s : State) : Host.Outcome State Fault Refusal := .next (s.run (Act.dev (fun d => d.wake (thrNo th))))

/-- MWTMO_EXPIRY (R161). -/
def execMwtmoExpiry (th : ThreadRef) (s : State) : Host.Outcome State Fault Refusal :=
  .next (s.run (Act.dev (fun d => d.timeOut (thrNo th))))

/-- MPOLL (R161). -/
def execMpoll (th : ThreadRef) (op : CustOp) (s : State) : Host.Outcome State Fault Refusal :=
  .next (s.run (threadAct th 4 (custBits op 0x0B 2) (mpollAct op)))

/-- MSIG (R269). -/
def execMsig (th : ThreadRef) (op : CustOp) (s : State) : Host.Outcome State Fault Refusal :=
  .next (s.run (threadAct th 4 (custBits op 0x0B 3) (msigAct op)))

/-- MFENCE_U (R164). -/
def execMfenceU (th : ThreadRef) (op : CustOp) (s : State) : Host.Outcome State Fault Refusal :=
  .next (s.run (threadAct th 4 (custBits op 0x2B 0) (mfenceUAct op)))

/-- MFENCE_R (R164). -/
def execMfenceR (th : ThreadRef) (op : CustOp) (s : State) : Host.Outcome State Fault Refusal :=
  .next (s.run (threadAct th 4 (custBits op 0x2B 1) (mfenceAct .fenceR op)))

/-- MFENCE_G (R164). -/
def execMfenceG (th : ThreadRef) (op : CustOp) (s : State) : Host.Outcome State Fault Refusal :=
  .next (s.run (threadAct th 4 (custBits op 0x2B 2) (mfenceAct .fenceG op)))

/-- FENCE_COMPLETE (R164). -/
def execFenceComplete (th : ThreadRef) (s : State) : Host.Outcome State Fault Refusal :=
  .next (s.run (Act.dev (fun d => d.fenceEnd (thrNo th))))

/-- RDBEAT (R163). -/
def execRdbeat (th : ThreadRef) (op : CustOp) (s : State) : Host.Outcome State Fault Refusal :=
  .next (s.run (threadAct th 4 (custBits op 0x2B 3) (rdbeatAct op)))

/-- BEAT_WAIT (R162). -/
def execBeatWait (th : ThreadRef) (op : CustOp) (s : State) : Host.Outcome State Fault Refusal :=
  .next (s.run (threadAct th 4 (custBits op 0x2B 4) (beatWaitAct op)))

/-- BEAT_WAIT_RELEASE (R157). -/
def execBeatWaitRelease (th : ThreadRef) (s : State) : Host.Outcome State Fault Refusal :=
  .next (s.run (Act.dev (fun d => d.beatRelease (thrNo th))))

/-- MEXIT (R153). -/
def execMexit (th : ThreadRef) (op : CustOp) (s : State) : Host.Outcome State Fault Refusal :=
  .next (s.run (threadAct th 4 (custBits op 0x2B 5) (mexitAct op)))

end Sys2Proof.Machine
end

