-- ==== Sys2Proof/Machine/ThreadMem.lean ====
section
/-! DEFINITION. Loads, stores and atomics of threads (R149, R157, R165, R173, R190 to R194, R230, R268, R280, R281, R308),
and what brings their answers (R195, R230). -/

namespace Sys2Proof.Machine

/-- A 12-bit immediate, sign-extended to 64 bits. -/
def imm12 (v : BitVec 12) : Nat := ofSigned (toSigned v.toNat 12) 64

/-- The value that a load writes to rd. -/
def loadValue (v bytes : Nat) (unsigned : Bool) : Nat :=
  if unsigned then v % 2 ^ (8 * bytes) else ofSigned (toSigned v (8 * bytes)) 64

/-- The GET_REQ of a get (R362, R391).
DESIGN CHOICE, log 79. -/
def getReqPkt (pkey dst src saddr seg raddr len : Nat) : Pkt :=
  ctlPkt 0x53 2 pkey dst src (leBytes 6 saddr ++ leBytes 1 seg ++ zeros 1 ++ leBytes 6 raddr ++ zeros 2 ++ leBytes 4 len)

/-! ### Loads -/

/-- A load is issued (R149, R153, R281): alignment first, then translation; a far load waits for earlier far writes to its
line.  The requester's address of a load from another module is a free value. -/
def loadAct (op : LoadOp) : Insn → Act := fun i _ m d =>
  let va := (d.xreg i.k op.rs1.val + imm12 op.imm) % 2 ^ 64
  let n := 2 ^ op.size.val
  let pend := fun (ga : Nat) (remote : Bool) => Stall.load ⟨op.rd.val, va, ga, n, op.unsigned, op.compressed, remote⟩
  if va % n ≠ 0 then { dev := d.faultAt i 2 va }
  else
    let (r, d) := d.reach m i .read va
    match r with
    | .fault c => { dev := d.faultAt i c va }
    | .near (.ctrl core off) _ =>
      if (d.ctrlLoad core off n).isNone then { dev := d.faultAt i 3 va } else { dev := d.stallOn i (pend (3 * 2 ^ 45 + 0x03000000 + off) false) }
    | .near (.mem a) _ =>
      match d.nearBlock a n false with
      | some b => { dev := d.stallOn i (.tag b.1 b.2 true) }
      | none => { dev := d.stallOn i (pend a false) }
    | .near _ _ => { dev := d.faultAt i 3 va }
    | .far _ a _ => if d.lineBusy i.k (farLine 0xFFFF a) then { dev := d.stallOn i .short } else { dev := d.stallOn i (pend a false) }
    | .remote md a =>
      if d.lineBusy i.k (farLine md a) then { dev := d.stallOn i .short }
      else
        let (v, d) := d.draw
        let p := getReqPkt (d.ctxAt i.c).pkey md d.moduleId a 0 (v.toNat % 2 ^ 48) n
        match d.handFor i.c (i.core / 12) [{ plainOut p with who := .load i.k }] with
        | some d => { dev := d.stallOn i (pend a true) }
        | none => { dev := d.faultAt i 0x0F va }

/-- The data of a load comes back (R157, R202, R268, R317).  What lies on this module is read now; from another module the
answer is the operand. -/
def loadReturn (th : ThreadRef) (ret : LoadReturn) : Act := fun _ m d =>
  let k := thrNo th
  match (d.thrAt k).stall, d.holder (k / 8) with
  | some (.load l), some c =>
    let i : Insn := ⟨k, c, (d.thrAt k).pc, if l.compressed then 2 else 4, 0⟩
    let done := fun (d : Dev) (v : Nat) => d.retire i l.rd (loadValue v l.bytes l.unsigned)
    let clear := fun (d : Dev) => { d with rte := { d.rte with send := tblMap SendFlow.init (fun _ s =>
      { s with await := s.await.filter (fun (e : Nat × Sender) => e.2 ≠ .load k) }) d.rte.send } }
    match ret with
    | .here =>
      if l.remote then { dev := d }
      else match d.decodeAt (some i.core) (field l.ga 45 3) (l.ga % 2 ^ 45) with
        | none => { dev := d.faultAt i 3 l.va }
        | some pl =>
          match d.threadRead m i pl l.va l.bytes with
          | (.value v, d) => { dev := done d v }
          | (.fault cause, d) => { dev := d.faultAt i cause l.va }
          | (.wait s, d) => { dev := if pl.near i.core then d.stallOn i s else d }
    | .data v poison uninit =>
      if !l.remote then { dev := d }
      else if poison then { dev := (clear d).faultAt i 0x0A l.va }
      else if uninit then
        let d := (clear d).noteUninit i.core i.unit (l.va / 64 * 64)
        { dev := if d.det c then d.faultAt i 0x0B l.va else done d v.toNat }
      else { dev := done (clear d) v.toNat }
    | .refused st => if l.remote then { dev := (clear d).faultAt i (answerCause st.toNat) l.va } else { dev := d }
  | _, _ => { dev := d }

/-! ### Stores -/

/-- A store to the control page of the thread's own core (R173, R190 to R193, R200). -/
def ctrlStoreAct (off v : Nat) (va : Nat) : Insn → Act := fun i _ _ d =>
  match d.ctrlStore i.core off v with
  | (.done, d, es) => { dev := d.retire i 0 0, mem := es }
  | (.access, d, es) => { dev := d.faultAt i 3 va, mem := es }
  | (.protection, d, es) => { dev := d.faultAt i 5 va, mem := es }
  | (.stall, d, es) => { dev := d.stallOn i (.ctrl ((off - 0x800) / 16) (v % 256 = 1)), mem := es }

/-- A near write of bytes (R194, R196, R198): it waits on a FULL slot and faults on a held one. -/
def nearWrite (a : Nat) (ro : Bool) (bs : Bytes) (va : Nat) (done : Dev → Dev) : Insn → Act := fun i _ m d =>
  if ro || d.nearHeld a bs.length then { dev := d.faultAt i 5 va }
  else match d.nearBlock a bs.length true with
    | some b => { dev := d.stallOn i (.tag b.1 b.2 false) }
    | none =>
      let (d, es) := d.unitWrite m i.c a bs false
      { dev := done d, mem := es }

/-- A far write leaves by the short-write path: `op` is 0 for a store or the atomic's OP (R230, R362); `hold` is what the
thread waits in, if it waits. -/
def farWrite (r : Reach) (va op : Nat) (amo : Option (AmoKind × Nat)) (bs : Bytes) (hold : Option (Nat → Stall)) : Insn → Act :=
    fun i _ _ d =>
  let send := fun (md addr : Nat) (out : Nat → Sender → Dev → Option Dev) =>
    match d.takeShort i.core with
    | none => d.stallOn i .short
    | some (id, e) =>
      let who := if hold.isSome then Sender.amo i.k id else .far i.core id
      match out id who e with
      | none => d.faultAt i 0x0F va
      | some e =>
        let e := e.noteFar i id (farLine md addr) va
        match hold with
        | some s => e.stallOn i (s id)
        | none => e.retire i 0 0
  match r with
  | .far _ a _ =>
    let fly := fun (id : Nat) (who : Sender) => Flight.mk id i.c i.unit (some (i.k % 8)) amo a bs 0 who true none
    { dev := send 0xFFFF a (fun id who e => some { e with flight := e.flight ++ [fly id who] }) }
  | .remote md a =>
    { dev := send md a (fun _ who e =>
        e.handFor i.c (i.core / 12) (shortPkts (e.ctxAt i.c).pkey md e.moduleId a op bs false who)) }
  | _ => { dev := d }

/-- A store of `n` bytes (R149, R230, R280).
DEDUCED, log 102. -/
def storeAct (va n v : Nat) : Insn → Act := fun i fu m d =>
  if va % n ≠ 0 then { dev := d.faultAt i 2 va }
  else
    let (r, d) := d.reach m i .write va
    match r with
    | .fault c => { dev := d.faultAt i c va }
    | .near (.ctrl _ off) _ => if n = 8 then ctrlStoreAct off v va i fu m d else { dev := d.faultAt i 3 va }
    | .near (.mem a) ro => nearWrite a ro (leBytes n v) va (fun d => d.retire i 0 0) i fu m d
    | .near _ _ => { dev := d.faultAt i 3 va }
    | .far _ _ true => { dev := d.faultAt i 5 va }
    | r => farWrite r va 0 none (leBytes n v) none i fu m d

/-! ### Atomics -/

/-- The OP of an atomic (R362). -/
def amoOp (k : AmoKind) : Nat :=
  match k with
  | .swap => 1
  | .add => 2
  | .xor => 3
  | .and => 4
  | .or => 5
  | .min => 6
  | .max => 7
  | .minu => 8
  | .maxu => 9

/-- An AMO (R149, R308): near at once, far at the home of its address; with rd other than x0 the thread waits for the old
value. -/
def amoAct (op : AmoOp) : Insn → Act := fun i fu m d =>
  let va := d.xreg i.k op.rs1.val
  let n := if op.dword then 8 else 4
  let v := d.xreg i.k op.rs2.val
  if va % n ≠ 0 then { dev := d.faultAt i 2 va }
  else
    let (r, d) := d.reach m i .write va
    match r with
    | .fault c => { dev := d.faultAt i c va }
    | .near (.mem a) ro =>
      let sig : Signaller := ⟨d.moduleId, i.unit, some (i.k % 8), 3⟩
      if ro then { dev := d.faultAt i 5 va }
      else match d.homeAmo m i.c (.mem a) op.kind n v sig false with
        | (.wait, _, _) =>
          let b := ((d.nearBlock a n false).map (fun b => (b, true))).getD ((d.nearBlock a n true).getD (0, 0), false)
          { dev := d.stallOn i (.tag b.1.1 b.1.2 b.2) }
        | (.refused st, d, es) =>
          let d := if st = refUninit then d.noteUninit i.core i.unit (d.namedAddr i.core va (.mem a)) else d
          { dev := d.faultAt i (answerCause st) va, mem := es }
        | (.done old un _, d, es) =>
          let d := if un then d.noteUninit i.core i.unit (d.namedAddr i.core va (.mem a)) else d
          { dev := d.retire i op.rd.val (loadValue old n false), mem := es }
    | .near _ _ => { dev := d.faultAt i 3 va }
    | .far _ _ true => { dev := d.faultAt i 5 va }
    | r =>
      let hold := if op.rd.val = 0 then none else some (fun id => Stall.amo ⟨id, op.rd.val, n, va⟩)
      farWrite r va (amoOp op.kind) (some (op.kind, n)) (leBytes n v) hold i fu m d

/-- The bits of LR and SC. -/
def lrScBits (op : LrScOp) (funct5 : Nat) : Nat :=
  funct5 * 2 ^ 27 + b2n op.aq * 2 ^ 26 + b2n op.rl * 2 ^ 25 + op.rs2.val * 2 ^ 20 + op.rs1.val * 2 ^ 15
    + (if op.dword then 3 else 2) * 2 ^ 12 + op.rd.val * 2 ^ 7 + 0x2F

/-- LR (R149): only in SRAM of the issuing die; it reserves the line.
DEDUCED, log 78. -/
def lrAct (op : LrScOp) : Insn → Act := fun i _ m d =>
  let va := d.xreg i.k op.rs1.val
  let n := if op.dword then 8 else 4
  if op.rs2.val ≠ 0 then { dev := d.illegal i }
  else if va % n ≠ 0 then { dev := d.faultAt i 2 va }
  else
    let (r, d) := d.reach m i .read va
    match r with
    | .fault c => { dev := d.faultAt i c va }
    | .near (.mem a) _ =>
      match d.threadRead m i (.mem a) va n with
      | (.value v, d) => { dev := (d.retire i op.rd.val (loadValue v n false)).modThr i.k (fun t => { t with resv := some (lineOf a) }) }
      | (.fault cause, d) => { dev := d.faultAt i cause va }
      | (.wait s, d) => { dev := d.stallOn i s }
    | _ => { dev := d.faultAt i 3 va }

/-- SC (R149): it stores while the reservation on the line holds, and ends it. -/
def scAct (op : LrScOp) : Insn → Act := fun i fu m d =>
  let va := d.xreg i.k op.rs1.val
  let n := if op.dword then 8 else 4
  if va % n ≠ 0 then { dev := d.faultAt i 2 va }
  else
    let (r, d) := d.reach m i .write va
    let drop := fun (d : Dev) => d.modThr i.k (fun t => { t with resv := none })
    match r with
    | .fault c => { dev := d.faultAt i c va }
    | .near (.mem a) ro =>
      if (d.thrAt i.k).resv = some (lineOf a) then
        nearWrite a ro (leBytes n (d.xreg i.k op.rs2.val)) va (fun d => drop (d.retire i op.rd.val 0)) i fu m d
      else { dev := drop (d.retire i op.rd.val 1) }
    | _ => { dev := d.faultAt i 3 va }

/-! ### Arrivals and acknowledgements inside the module -/

/-- Whether an earlier access of the same thread to the same home die is still on its way (R281). -/
def Dev.inOrder (d : Dev) (f : Flight) : Bool :=
  f.thread.isNone || !(d.flight.takeWhile (fun g => g.id ≠ f.id)).any (fun g =>
    g.unit = f.unit && g.thread = f.thread && g.answer.isNone
      && (d.pktPlace g.addr).map Place.die = (d.pktPlace f.addr).map Place.die)

/-- An access that has been performed: one that holds no place on the short-write path is acknowledged with it, the others
when SHORT_WRITE_ACKNOWLEDGEMENT brings it back (R224, R230). -/
def Dev.arrived (d : Dev) (f : Flight) (st old : Nat) (uninit : Bool) : Dev :=
  if f.short then
    { d with flight := d.flight.map (fun g => if g.id = f.id then { g with answer := some (st, old, uninit) } else g) }
  else ({ d with flight := d.flight.filter (fun g => g.id ≠ f.id) }).settle f.who st

/-- WRITE_UNIT_ARRIVAL: the access reaches its home and is performed there (R195, R230, R308). -/
def arrivalAct (id : Nat) : Act := fun _ m d =>
  match d.flight.find? (fun f => f.id = id && f.answer.isNone) with
  | none => { dev := d }
  | some f =>
    if !d.inOrder f then { dev := d }
    else match d.pktPlace f.addr with
      | none => { dev := (d.countRefusal 0 refAddr).arrived f refAddr 0 false }
      | some pl => match f.amo with
        | some (kind, n) =>
          match d.homeAmo m f.ctx pl kind n (leNat f.data) ⟨d.moduleId, f.unit, f.thread, 3⟩ true with
          | (.wait, _, _) => { dev := d }
          | (.refused st, d, es) => { dev := d.arrived f st 0 false, mem := es }
          | (.done old un _, d, es) => { dev := d.arrived f 0 old un, mem := es }
        | none =>
          match d.homeWrite m f.ctx pl f.data false none with
          | (.wait, _, _) => { dev := d }
          | (.refused st, d, es) => { dev := d.arrived f st 0 false, mem := es }
          | (.done _ _ _, d, es) => { dev := d.arrived f 0 0 false, mem := es ++ (if f.marks = 0 then [] else pl.marks f.data.length f.marks) }

/-- The answer of an access that holds a place on the short-write path reaches the issuing core (R165, R230, R308). -/
def shortAck (core id : Nat) (d : Dev) : Dev :=
  match d.flight.find? (fun f => f.id = id && f.short && f.answer.isSome && (d.coreAt core).shorts.contains id) with
  | none => d
  | some f =>
    let d := { d with flight := d.flight.filter (fun g => g.id ≠ f.id) }
    match f.answer with
    | none => d
    | some (st, old, un) => match f.who with
      | .amo k id => d.amoAnswer k id st old un
      | w => d.settle w st

/-! ### Blocked accesses (R194) -/

/-- A tag change, or the end of a region, lets a blocked access request again (R188, R192 to R194). -/
def tagWake (k : Nat) (d : Dev) : Dev :=
  let ready := d.modThr k (fun t => { t with state := .ready, stall := none })
  match (d.thrAt k).stall with
  | some (.tag key slot wantFull) =>
    let g := d.regionAt (key / 64) (key % 64)
    if g.valid && g.tags && d.isFull (key / 64) (key % 64) slot ≠ wantFull then d else ready
  | some (.ctrl r push) =>
    let g := d.regionAt (k / 8) r
    if g.valid && g.tags && (if push then g.fill = g.slots else g.fill = 0) then d else ready
  | _ => d

/-! ### The rows -/

/-- THREAD_LOAD (R149). -/
def execThreadLoad (th : ThreadRef) (op : LoadOp) (s : State) : Host.Outcome State Fault Refusal :=
  .next (s.run (threadAct th (if op.compressed then 2 else 4) 0 (loadAct op)))

/-- LOAD_DATA_RETURN (R157). -/
def execLoadDataReturn (th : ThreadRef) (ret : LoadReturn) (s : State) : Host.Outcome State Fault Refusal :=
  .next (s.run (loadReturn th ret))

/-- The address and value of a store instruction. -/
def storeOpAct (op : StoreOp) : Insn → Act := fun i fu m d =>
  storeAct ((d.xreg i.k op.rs1.val + imm12 op.imm) % 2 ^ 64) (2 ^ op.size.val) (d.xreg i.k op.rs2.val) i fu m d

/-- THREAD_STORE (R149). -/
def execThreadStore (th : ThreadRef) (op : StoreOp) (s : State) : Host.Outcome State Fault Refusal :=
  .next (s.run (threadAct th (if op.compressed then 2 else 4) 0 (storeOpAct op)))

/-- AMO (R308). -/
def execAmo (th : ThreadRef) (op : AmoOp) (s : State) : Host.Outcome State Fault Refusal :=
  .next (s.run (threadAct th 4 0 (amoAct op)))

/-- LR (R149). -/
def execLr (th : ThreadRef) (op : LrScOp) (s : State) : Host.Outcome State Fault Refusal :=
  .next (s.run (threadAct th 4 (lrScBits op 2) (lrAct op)))

/-- SC (R149). -/
def execSc (th : ThreadRef) (op : LrScOp) (s : State) : Host.Outcome State Fault Refusal :=
  .next (s.run (threadAct th 4 (lrScBits op 3) (scAct op)))

/-- WRITE_UNIT_ARRIVAL (R195). -/
def execWriteUnitArrival (id : Nat) (s : State) : Host.Outcome State Fault Refusal := .next (s.run (arrivalAct id))

/-- SHORT_WRITE_ACKNOWLEDGEMENT (R230). -/
def execShortWriteAcknowledgement (u : CoreRef) (id : Nat) (s : State) : Host.Outcome State Fault Refusal :=
  .next (s.run (Act.dev (shortAck (coreNo u.die.val u.core.val) id)))

/-- SLOT_FULL (R195): the complete slot at HEAD becomes FULL. -/
def execSlotFull (u : CoreRef) (region : Fin 64) (s : State) : Host.Outcome State Fault Refusal :=
  .next (s.run (Act.dev (fun d =>
    let k := coreNo u.die.val u.core.val
    if d.slotComplete k region.val then d.slotFull k region.val else d)))

/-- The store of a thread to word 1 of a region descriptor with VALID at a value, uncompressed (R192). -/
def descAct (r : Nat) (w : W64) (valid : Bool) : Insn → Act := fun i fu m d =>
  if bit w.toNat 8 = valid then ctrlStoreAct (32 * r + 8) w.toNat 0 i fu m d else { dev := d }

/-- REGION_ENABLE (R192). -/
def execRegionEnable (th : ThreadRef) (st : RegionStore) (s : State) : Host.Outcome State Fault Refusal :=
  .next (s.run (threadAct th 4 0 (descAct st.region.val st.value true)))

/-- REGION_DISABLE (R192). -/
def execRegionDisable (th : ThreadRef) (st : RegionStore) (s : State) : Host.Outcome State Fault Refusal :=
  .next (s.run (threadAct th 4 0 (descAct st.region.val st.value false)))

/-- A store of an operation to CTRL of a region; a fault names the context address, which the row does not give: a free
value. -/
def ctrlAct (r op : Nat) : Insn → Act := fun i fu m d =>
  let (v, d) := d.draw
  ctrlStoreAct (0x800 + 16 * r) op v.toNat i fu m d

/-- PUSH (R193). -/
def execPush (th : ThreadRef) (region : Fin 64) (s : State) : Host.Outcome State Fault Refusal :=
  .next (s.run (threadAct th 4 0 (ctrlAct region.val 1)))

/-- POP (R193). -/
def execPop (th : ThreadRef) (region : Fin 64) (s : State) : Host.Outcome State Fault Refusal :=
  .next (s.run (threadAct th 4 0 (ctrlAct region.val 2)))

/-- TAG_WAKE (R194). -/
def execTagWake (th : ThreadRef) (s : State) : Host.Outcome State Fault Refusal := .next (s.run (Act.dev (tagWake (thrNo th))))

/-- UNINIT_CLEAR (R200): a store to the UNINIT word of a core. -/
def execUninitClear (u : CoreRef) (value : W64) (s : State) : Host.Outcome State Fault Refusal :=
  .next (s.run (Act.dev (fun d => d.clearUninit (coreNo u.die.val u.core.val) value.toNat)))

/-- WINDOW_AMOADD (R268, R269): an AMOADD.D of a thread to the sync window word at a global address, from issue to answer.
DEDUCED, log 101. -/
def windowAct (a : WindowAmo) : Insn → Act := fun i _ m d =>
  let va := a.addr.toNat
  if va % 8 ≠ 0 then { dev := d.faultAt i 2 va }
  else match d.pktPlace (va % 2 ^ 48) with
    | some (.window die x) =>
      match d.homeAmo m i.c (.window die x) .add 8 a.value.toNat ⟨d.moduleId, i.unit, some (i.k % 8), 3⟩ true with
      | (.done old _ _, d, es) => { dev := d.retire i a.rd.val old, mem := es }
      | (.refused st, d, es) => { dev := d.faultAt i (answerCause st) va, mem := es }
      | (.wait, d, es) => { dev := d, mem := es }
    | _ => { dev := d.faultAt i 3 va }

/-- WINDOW_AMOADD (R268). -/
def execWindowAmoadd (a : WindowAmo) (s : State) : Host.Outcome State Fault Refusal :=
  .next (s.run (threadAct a.th 4 0 (windowAct a)))

end Sys2Proof.Machine
end

