-- ==== Sys2Proof/Machine/Rv64.lean ====
section
/-! DEFINITION. The instruction set of the control processor (R147): RV64I, M, A, Zca, Zicsr, Zifencei, Zba and Zbb of the
RISC-V specifications, and the custom instructions of R159, decoded from their bits.  Whatever is not named here raises
ILLEGAL (R147, R165). -/

namespace Sys2Proof.Machine

/-! ### Arithmetic on 64-bit words -/

/-- 2^64. -/
def two64 : Nat := 2 ^ 64

/-- The low 32 bits of a value, sign-extended to 64. -/
def sext32 (v : Nat) : Nat := ofSigned (toSigned v 32) 64

/-- A 64-bit word as a signed number. -/
def s64 (v : Nat) : Int := toSigned v 64

/-- A shift right of a signed word of `w` bits. -/
def sra (v n w : Nat) : Nat := ofSigned (toSigned v w >>> n) w

/-- A rotation right of a word of `w` bits. -/
def ror (v n w : Nat) : Nat :=
  let x := v % 2 ^ w
  let n := n % w
  (x >>> n) + (x % 2 ^ n) * 2 ^ (w - n)

/-- Leading zeros of a word of `w` bits. -/
def clz (v w : Nat) : Nat := if v % 2 ^ w = 0 then w else w - 1 - Nat.log2 (v % 2 ^ w)

/-- Trailing zeros of a word of `w` bits. -/
def ctz (v w : Nat) : Nat := ((List.range w).find? (bit v)).getD w

/-- Bits set in a word of `w` bits. -/
def cpop (v w : Nat) : Nat := (bitsOf v w).length

/-- Division as the M extension defines it, of signed words of `w` bits: by zero all ones, overflow the dividend. -/
def divS (a b w : Nat) : Nat :=
  let x := toSigned a w
  let y := toSigned b w
  if y = 0 then 2 ^ w - 1 else ofSigned (Int.tdiv x y) w

/-- The remainder of signed words: by zero the dividend. -/
def remS (a b w : Nat) : Nat :=
  let x := toSigned a w
  let y := toSigned b w
  if y = 0 then a % 2 ^ w else ofSigned (Int.tmod x y) w

/-- Unsigned division. -/
def divU (a b w : Nat) : Nat := if b % 2 ^ w = 0 then 2 ^ w - 1 else a % 2 ^ w / (b % 2 ^ w)

/-- Unsigned remainder. -/
def remU (a b w : Nat) : Nat := if b % 2 ^ w = 0 then a % 2 ^ w else a % 2 ^ w % (b % 2 ^ w)

/-- The bytes of a word in reverse order. -/
def rev8 (v : Nat) : Nat := leNat (leBytes 8 v).reverse

/-- Each byte of a word becomes 0xFF where it is not zero. -/
def orcB (v : Nat) : Nat := leNat ((leBytes 8 v).map (fun b => if b = 0 then (0 : Byte) else 0xFF))

/-- Register–register operations of OP by funct7 and funct3: RV64I, M, Zba, Zbb. -/
def opReg (f7 f3 a b : Nat) : Option Nat :=
  match f7, f3 with
  | 0x00, 0 => some (a + b)
  | 0x20, 0 => some (a + two64 - b)
  | 0x00, 1 => some (a <<< (b % 64))
  | 0x00, 2 => some (b2n (s64 a < s64 b))
  | 0x00, 3 => some (b2n (a < b))
  | 0x00, 4 => some (a ^^^ b)
  | 0x00, 5 => some (a >>> (b % 64))
  | 0x20, 5 => some (sra a (b % 64) 64)
  | 0x00, 6 => some (a ||| b)
  | 0x00, 7 => some (a &&& b)
  | 0x01, 0 => some (a * b)
  | 0x01, 1 => some (ofSigned ((s64 a * s64 b) >>> 64) 64)
  | 0x01, 2 => some (ofSigned ((s64 a * (b : Int)) >>> 64) 64)
  | 0x01, 3 => some ((a * b) >>> 64)
  | 0x01, 4 => some (divS a b 64)
  | 0x01, 5 => some (divU a b 64)
  | 0x01, 6 => some (remS a b 64)
  | 0x01, 7 => some (remU a b 64)
  | 0x10, 2 => some (a * 2 + b)
  | 0x10, 4 => some (a * 4 + b)
  | 0x10, 6 => some (a * 8 + b)
  | 0x20, 7 => some (a &&& (two64 - 1 - b))
  | 0x20, 6 => some (a ||| (two64 - 1 - b))
  | 0x20, 4 => some (a ^^^ (two64 - 1 - b))
  | 0x05, 4 => some (if s64 a < s64 b then a else b)
  | 0x05, 5 => some (Nat.min a b)
  | 0x05, 6 => some (if s64 a < s64 b then b else a)
  | 0x05, 7 => some (Nat.max a b)
  | 0x30, 1 => some (ror a (64 - b % 64) 64)
  | 0x30, 5 => some (ror a (b % 64) 64)
  | _, _ => none

/-- Word operations of OP-32. -/
def opReg32 (f7 f3 rs2 a b : Nat) : Option Nat :=
  match f7, f3 with
  | 0x00, 0 => some (sext32 (a + b))
  | 0x20, 0 => some (sext32 (a + two64 - b))
  | 0x00, 1 => some (sext32 (a <<< (b % 32)))
  | 0x00, 5 => some (sext32 ((a % 2 ^ 32) >>> (b % 32)))
  | 0x20, 5 => some (sext32 (sra a (b % 32) 32))
  | 0x01, 0 => some (sext32 (a * b))
  | 0x01, 4 => some (sext32 (divS a b 32))
  | 0x01, 5 => some (sext32 (divU a b 32))
  | 0x01, 6 => some (sext32 (remS a b 32))
  | 0x01, 7 => some (sext32 (remU a b 32))
  | 0x04, 0 => some (a % 2 ^ 32 + b)
  | 0x04, 4 => if rs2 = 0 then some (a % 2 ^ 16) else none
  | 0x10, 2 => some (a % 2 ^ 32 * 2 + b)
  | 0x10, 4 => some (a % 2 ^ 32 * 4 + b)
  | 0x10, 6 => some (a % 2 ^ 32 * 8 + b)
  | 0x30, 1 => some (sext32 (ror a (32 - b % 32) 32))
  | 0x30, 5 => some (sext32 (ror a (b % 32) 32))
  | _, _ => none

/-- Register–immediate operations of OP-IMM: `imm` is bits [31:20]. -/
def opImm (f3 imm a : Nat) : Option Nat :=
  let v := ofSigned (toSigned imm 12) 64
  let sh := imm % 64
  match f3 with
  | 0 => some (a + v)
  | 2 => some (b2n (s64 a < s64 v))
  | 3 => some (b2n (a < v))
  | 4 => some (a ^^^ v)
  | 6 => some (a ||| v)
  | 7 => some (a &&& v)
  | 1 =>
    if imm / 64 = 0 then some (a <<< sh)
    else match imm with
      | 0x600 => some (clz a 64)
      | 0x601 => some (ctz a 64)
      | 0x602 => some (cpop a 64)
      | 0x604 => some (ofSigned (toSigned a 8) 64)
      | 0x605 => some (ofSigned (toSigned a 16) 64)
      | _ => none
  | 5 =>
    if imm / 64 = 0 then some (a >>> sh)
    else if imm / 64 = 0x10 then some (sra a sh 64)
    else if imm / 64 = 0x18 then some (ror a sh 64)
    else if imm = 0x287 then some (orcB a)
    else if imm = 0x6B8 then some (rev8 a)
    else none
  | _ => none

/-- Register–immediate operations of OP-IMM-32. -/
def opImm32 (f3 imm a : Nat) : Option Nat :=
  let sh := imm % 32
  match f3 with
  | 0 => some (sext32 (a + ofSigned (toSigned imm 12) 64))
  | 1 =>
    if imm / 32 = 0 then some (sext32 (a <<< sh))
    else if imm / 64 = 2 then some ((a % 2 ^ 32) <<< (imm % 64))
    else match imm with
      | 0x600 => some (clz a 32)
      | 0x601 => some (ctz a 32)
      | 0x602 => some (cpop a 32)
      | _ => none
  | 5 =>
    if imm / 32 = 0 then some (sext32 ((a % 2 ^ 32) >>> sh))
    else if imm / 32 = 0x20 then some (sext32 (sra a sh 32))
    else if imm / 32 = 0x30 then some (sext32 (ror a sh 32))
    else none
  | _ => none

/-- Whether a branch is taken; none where funct3 is reserved. -/
def branchTaken (f3 a b : Nat) : Option Bool :=
  match f3 with
  | 0 => some (a = b)
  | 1 => some (a ≠ b)
  | 4 => some (s64 a < s64 b)
  | 5 => some (s64 b ≤ s64 a)
  | 6 => some (a < b)
  | 7 => some (b ≤ a)
  | _ => none

/-! ### Fields of a 32-bit instruction -/

def wRd (w : Nat) : Nat := field w 7 5
def wF3 (w : Nat) : Nat := field w 12 3
def wRs1 (w : Nat) : Nat := field w 15 5
def wRs2 (w : Nat) : Nat := field w 20 5
def wF7 (w : Nat) : Nat := field w 25 7
def wImmI (w : Nat) : Nat := field w 20 12
def wImmS (w : Nat) : Nat := field w 25 7 * 32 + field w 7 5
def wImmB (w : Nat) : Nat := field w 31 1 * 4096 + field w 7 1 * 2048 + field w 25 6 * 32 + field w 8 4 * 2
def wImmJ (w : Nat) : Nat := field w 31 1 * 2 ^ 20 + field w 12 8 * 4096 + field w 20 1 * 2048 + field w 21 10 * 2
def wImmU (w : Nat) : Nat := sext32 (field w 12 20 * 4096)

/-- The custom operands of a word. -/
def wCust (w : Nat) : CustOp := ⟨Fin.ofNat 32 (wRd w), Fin.ofNat 32 (wRs1 w), Fin.ofNat 32 (wRs2 w), BitVec.ofNat 7 (wF7 w)⟩

/-- The atomic operation of a funct5. -/
def amoKindOf (f5 : Nat) : Option AmoKind :=
  match f5 with
  | 0x00 => some .add
  | 0x01 => some .swap
  | 0x04 => some .xor
  | 0x08 => some .or
  | 0x0C => some .and
  | 0x10 => some .min
  | 0x14 => some .max
  | 0x18 => some .minu
  | 0x1C => some .maxu
  | _ => none

/-- The CSR operation of a funct3. -/
def csrKindOf (f3 : Nat) : Option CsrKind :=
  match f3 with
  | 1 => some .rw
  | 2 => some .rs
  | 3 => some .rc
  | 5 => some .rwi
  | 6 => some .rsi
  | 7 => some .rci
  | _ => none

/-! ### Meanings -/

/-- An instruction that raises ILLEGAL. -/
def illegalAct : Insn → Act := fun i => Act.dev (fun d => d.illegal i)

/-- rd receives a value, or the instruction is illegal. -/
def resultAct (rd : Nat) (f : Dev → Insn → Option Nat) : Insn → Act := fun i => Act.dev (fun d =>
  match f d i with
  | some v => d.retire i rd (v % two64)
  | none => d.illegal i)

/-- JAL and JALR: rd receives the address of the next instruction. -/
def jumpAct (rd : Nat) (target : Dev → Insn → Nat) : Insn → Act := fun i => Act.dev (fun d =>
  d.retireTo i rd ((i.pc + i.len) % two64) (target d i % two64))

/-- A conditional branch. -/
def branchAct (w : Nat) : Insn → Act := fun i => Act.dev (fun d =>
  match branchTaken (wF3 w) (d.xreg i.k (wRs1 w)) (d.xreg i.k (wRs2 w)) with
  | some true => d.retireTo i 0 0 ((i.pc + ofSigned (toSigned (wImmB w) 13) 64) % two64)
  | some false => d.retire i 0 0
  | none => d.illegal i)

/-- A load of a word. -/
def wLoad (w : Nat) (compressed : Bool) : Insn → Act :=
  if wF3 w = 7 then illegalAct
  else loadAct ⟨Fin.ofNat 32 (wRd w), Fin.ofNat 32 (wRs1 w), BitVec.ofNat 12 (wImmI w), Fin.ofNat 4 (wF3 w % 4), 4 ≤ wF3 w, compressed⟩

/-- A store of a word. -/
def wStore (w : Nat) (compressed : Bool) : Insn → Act :=
  if 3 < wF3 w then illegalAct
  else storeOpAct ⟨Fin.ofNat 32 (wRs1 w), Fin.ofNat 32 (wRs2 w), BitVec.ofNat 12 (wImmS w), Fin.ofNat 4 (wF3 w), compressed⟩

/-- The A extension. -/
def wAtomic (w : Nat) : Insn → Act :=
  let dw := wF3 w = 3
  let op : LrScOp := ⟨Fin.ofNat 32 (wRd w), Fin.ofNat 32 (wRs1 w), Fin.ofNat 32 (wRs2 w), dw, bit w 26, bit w 25⟩
  if wF3 w ≠ 2 && wF3 w ≠ 3 then illegalAct
  else if field w 27 5 = 2 then lrAct op
  else if field w 27 5 = 3 then scAct op
  else match amoKindOf (field w 27 5) with
    | some k => amoAct ⟨k, op.rd, op.rs1, op.rs2, dw, bit w 26, bit w 25⟩
    | none => illegalAct

/-- SYSTEM. -/
def wSystem (w : Nat) : Insn → Act :=
  if w = 0x73 then ecallAct
  else if w = 0x100073 then ebreakAct
  else match csrKindOf (wF3 w) with
    | some k => csrAct ⟨k, Fin.ofNat 32 (wRd w), Fin.ofNat 32 (wRs1 w), BitVec.ofNat 12 (wImmI w)⟩
    | none => illegalAct

/-- custom-0 and custom-1 (R159). -/
def wCustom0 (w : Nat) : Insn → Act :=
  match wF3 w with
  | 0 => missueAct (wCust w)
  | 1 => mwaitAct (wCust w)
  | 2 => mpollAct (wCust w)
  | 3 => msigAct (wCust w)
  | _ => illegalAct

/-- custom-1 (R159). -/
def wCustom1 (w : Nat) : Insn → Act :=
  match wF3 w with
  | 0 => mfenceUAct (wCust w)
  | 1 => mfenceAct .fenceR (wCust w)
  | 2 => mfenceAct .fenceG (wCust w)
  | 3 => rdbeatAct (wCust w)
  | 4 => beatWaitAct (wCust w)
  | 5 => mexitAct (wCust w)
  | _ => illegalAct

/-- The meaning of a 32-bit instruction word. -/
def wordAct (w : Nat) (compressed : Bool) : Insn → Act :=
  let rd := wRd w
  match w % 128 with
  | 0x37 => resultAct rd (fun _ _ => some (wImmU w))
  | 0x17 => resultAct rd (fun _ i => some (i.pc + wImmU w))
  | 0x6F => jumpAct rd (fun _ i => i.pc + ofSigned (toSigned (wImmJ w) 21) 64)
  | 0x67 =>
    if wF3 w ≠ 0 then illegalAct
    else jumpAct rd (fun d i =>
      let t := (d.xreg i.k (wRs1 w) + ofSigned (toSigned (wImmI w) 12) 64) % two64
      t / 2 * 2)
  | 0x63 => branchAct w
  | 0x03 => wLoad w compressed
  | 0x23 => wStore w compressed
  | 0x13 => resultAct rd (fun d i => opImm (wF3 w) (wImmI w) (d.xreg i.k (wRs1 w)))
  | 0x1B => resultAct rd (fun d i => opImm32 (wF3 w) (wImmI w) (d.xreg i.k (wRs1 w)))
  | 0x33 => resultAct rd (fun d i => opReg (wF7 w) (wF3 w) (d.xreg i.k (wRs1 w)) (d.xreg i.k (wRs2 w)))
  | 0x3B => resultAct rd (fun d i => opReg32 (wF7 w) (wF3 w) (wRs2 w) (d.xreg i.k (wRs1 w)) (d.xreg i.k (wRs2 w)))
  | 0x0F => if (wF3 w = 0 && w ≠ pauseWord) || wF3 w = 1 then fenceAct else illegalAct
  | 0x2F => wAtomic w
  | 0x73 => wSystem w
  | 0x0B => wCustom0 w
  | 0x2B => wCustom1 w
  | _ => illegalAct

/-! ### Compressed instructions (Zca): each stands for one 32-bit instruction -/

/-- An I-type word. -/
def encI (op f3 rd rs1 imm : Nat) : Nat := imm % 4096 * 2 ^ 20 + rs1 * 2 ^ 15 + f3 * 2 ^ 12 + rd * 2 ^ 7 + op

/-- An R-type word. -/
def encR (op f3 f7 rd rs1 rs2 : Nat) : Nat := f7 * 2 ^ 25 + rs2 * 2 ^ 20 + rs1 * 2 ^ 15 + f3 * 2 ^ 12 + rd * 2 ^ 7 + op

/-- An S-type word. -/
def encS (f3 rs1 rs2 imm : Nat) : Nat := imm / 32 % 128 * 2 ^ 25 + rs2 * 2 ^ 20 + rs1 * 2 ^ 15 + f3 * 2 ^ 12 + imm % 32 * 2 ^ 7 + 0x23

/-- A B-type word of BEQ or BNE with x0. -/
def encB (f3 rs1 imm : Nat) : Nat :=
  field imm 12 1 * 2 ^ 31 + field imm 5 6 * 2 ^ 25 + rs1 * 2 ^ 15 + f3 * 2 ^ 12 + field imm 1 4 * 2 ^ 8 + field imm 11 1 * 2 ^ 7 + 0x63

/-- A J-type word with x0. -/
def encJ (imm : Nat) : Nat :=
  field imm 20 1 * 2 ^ 31 + field imm 1 10 * 2 ^ 21 + field imm 11 1 * 2 ^ 20 + field imm 12 8 * 2 ^ 12 + 0x6F

/-- A 6-bit immediate at bits 12 and [6:2], sign-extended to 20 bits. -/
def cImm6 (h : Nat) : Nat := ofSigned (toSigned (field h 12 1 * 32 + field h 2 5) 6) 20

/-- Quadrant 0. -/
def expand0 (h : Nat) : Option Nat :=
  let rs := 8 + field h 7 3
  let rt := 8 + field h 2 3
  let w4 := field h 10 3 * 8 + field h 6 1 * 4 + field h 5 1 * 64
  let w8 := field h 10 3 * 8 + field h 5 2 * 64
  match field h 13 3 with
  | 0 =>
    let imm := field h 11 2 * 16 + field h 7 4 * 64 + field h 6 1 * 4 + field h 5 1 * 8
    if imm = 0 then none else some (encI 0x13 0 rt 2 imm)
  | 2 => some (encI 0x03 2 rt rs w4)
  | 3 => some (encI 0x03 3 rt rs w8)
  | 6 => some (encS 2 rs rt w4)
  | 7 => some (encS 3 rs rt w8)
  | _ => none

/-- The arithmetic row of quadrant 1. -/
def expandAlu (h : Nat) : Option Nat :=
  let rs := 8 + field h 7 3
  let rt := 8 + field h 2 3
  let sh := field h 12 1 * 32 + field h 2 5
  match field h 10 2 with
  | 0 => some (encI 0x13 5 rs rs sh)
  | 1 => some (encI 0x13 5 rs rs (0x400 + sh))
  | 2 => some (encI 0x13 7 rs rs (cImm6 h))
  | _ => match field h 12 1, field h 5 2 with
    | 0, 0 => some (encR 0x33 0 0x20 rs rs rt)
    | 0, 1 => some (encR 0x33 4 0 rs rs rt)
    | 0, 2 => some (encR 0x33 6 0 rs rs rt)
    | 0, 3 => some (encR 0x33 7 0 rs rs rt)
    | 1, 0 => some (encR 0x3B 0 0x20 rs rs rt)
    | 1, 1 => some (encR 0x3B 0 0 rs rs rt)
    | _, _ => none

/-- Quadrant 1. -/
def expand1 (h : Nat) : Option Nat :=
  let rd := field h 7 5
  let rs := 8 + field h 7 3
  let bOff := ofSigned (toSigned (field h 12 1 * 256 + field h 10 2 * 8 + field h 5 2 * 64 + field h 3 2 * 2 + field h 2 1 * 32) 9) 13
  let jOff := ofSigned (toSigned (field h 12 1 * 2048 + field h 11 1 * 16 + field h 9 2 * 256 + field h 8 1 * 1024 + field h 7 1 * 64
    + field h 6 1 * 128 + field h 3 3 * 2 + field h 2 1 * 32) 12) 21
  match field h 13 3 with
  | 0 => some (encI 0x13 0 rd rd (cImm6 h))
  | 1 => if rd = 0 then none else some (encI 0x1B 0 rd rd (cImm6 h))
  | 2 => some (encI 0x13 0 rd 0 (cImm6 h))
  | 3 =>
    if rd = 2 then
      let imm := ofSigned (toSigned (field h 12 1 * 512 + field h 6 1 * 16 + field h 5 1 * 64 + field h 3 2 * 128 + field h 2 1 * 32) 10) 12
      if imm = 0 then none else some (encI 0x13 0 2 2 imm)
    else if cImm6 h = 0 then none
    else some (cImm6 h * 4096 + rd * 128 + 0x37)
  | 4 => expandAlu h
  | 5 => some (encJ jOff)
  | 6 => some (encB 0 rs bOff)
  | _ => some (encB 1 rs bOff)

/-- Quadrant 2. -/
def expand2 (h : Nat) : Option Nat :=
  let rd := field h 7 5
  let rt := field h 2 5
  match field h 13 3 with
  | 0 => some (encI 0x13 1 rd rd (field h 12 1 * 32 + rt))
  | 2 => if rd = 0 then none else some (encI 0x03 2 rd 2 (field h 12 1 * 32 + field h 4 3 * 4 + field h 2 2 * 64))
  | 3 => if rd = 0 then none else some (encI 0x03 3 rd 2 (field h 12 1 * 32 + field h 5 2 * 8 + field h 2 3 * 64))
  | 4 =>
    if field h 12 1 = 0 then
      if rt = 0 then (if rd = 0 then none else some (encI 0x67 0 0 rd 0)) else some (encR 0x33 0 0 rd 0 rt)
    else if rt = 0 then (if rd = 0 then some 0x100073 else some (encI 0x67 0 1 rd 0))
    else some (encR 0x33 0 0 rd rd rt)
  | 6 => some (encS 2 2 rt (field h 9 4 * 4 + field h 7 2 * 64))
  | 7 => some (encS 3 2 rt (field h 10 3 * 8 + field h 7 3 * 64))
  | _ => none

/-- The 32-bit instruction that a compressed one stands for; none where it is reserved or not in Zca. -/
def expandC (h : Nat) : Option Nat :=
  match h % 4 with
  | 0 => expand0 h
  | 1 => expand1 h
  | 2 => expand2 h
  | _ => none

/-- BASE_INSTRUCTION (R147): the instruction whose bits the fetch has brought; the low half alone where it is compressed. -/
def execBaseInstruction (th : ThreadRef) (word : W32) (s : State) : Host.Outcome State Fault Refusal :=
  let w := word.toNat
  let h := w % 65536
  .next (s.run (
    if w % 4 = 3 then threadAct th 4 w (wordAct w false)
    else threadAct th 2 h (match expandC h with
      | some x => wordAct x true
      | none => illegalAct)))

end Sys2Proof.Machine
end

