-- ==== Sys2Proof/Machine/Bramble.lean ====
section
/-! DEFINITION. Bramble compression (R244 to R261): frames, blocks, the encoder, the decoder with its checks, and the order in
which a transfer issues what they give. -/

namespace Sys2Proof.Machine

/-- The bytes of a block (R245). -/
def bramBlock : Nat := 65536

/-- VW of a format: whether elements count as 2 bytes (R244). -/
def bramVW (f : Nat) : Nat := if f = fBF16 || f = fFP16 || f = fFP32 || f = fINT32 then 1 else 0

/-- The vector width v (R244). -/
def bramVec (f : Nat) : Nat := if bramVW f = 1 then 16 else 8

/-- The sub-stream count S (R245). -/
def bramSubs (want raw : Nat) : Nat := Nat.min want (ceilDiv raw bramBlock)

/-- The uncompressed range of sub-stream i: start and length (R245). -/
def bramRange (s raw i : Nat) : Nat × Nat :=
  let nb := ceilDiv raw bramBlock
  let lo := i * nb / s * bramBlock
  let hi := Nat.min raw ((i + 1) * nb / s * bramBlock)
  (lo, hi - lo)

/-! ### Encoding (R249 to R253) -/

/-- Distinct vectors with their counts, in order of first occurrence (R251). -/
def bramCount (vs : List Bytes) : List (Bytes × Nat) :=
  vs.foldl (fun (acc : List (Bytes × Nat)) x =>
    if acc.any (fun e => e.1 = x) then acc.map (fun e => if e.1 = x then (x, e.2 + 1) else e) else acc ++ [(x, 1)]) []

/-- Inserts by falling count, behind equals. -/
def insertByCount (x : Bytes × Nat) : List (Bytes × Nat) → List (Bytes × Nat)
  | [] => [x]
  | y :: ys => if y.2 < x.2 then x :: y :: ys else y :: insertByCount x ys

/-- The codebook of a block's vectors (R251). -/
def bramBook (vs : List Bytes) : List Bytes :=
  ((((bramCount vs).filter (fun e => 2 ≤ e.2)).foldl (fun acc x => insertByCount x acc) []).map (·.1)).take 255

/-- A block: CODED where that is shorter, else RAW (R249, R252). -/
def bramEncodeBlock (v : Nat) (raw : Bytes) : Bytes :=
  let n := raw.length / v
  let vs := chunks v n raw
  let book := bramBook vs
  let code := vs.flatMap (fun x => match book.findIdx? (· = x) with
    | some i => [BitVec.ofNat 8 i]
    | none => BitVec.ofNat 8 0xFF :: x)
  let body := book.flatten ++ code ++ raw.drop (n * v)
  let head := fun (ty ncb len : Nat) => leBytes 1 ty ++ leBytes 1 ncb ++ leBytes 2 (raw.length - 1) ++ leBytes 2 (len - 1) ++ zeros 2
  if body.length < raw.length then head 1 book.length body.length ++ body else head 0 0 raw.length ++ raw

/-- A frame: its sub-stream area, and its header with the directory (R245 to R248). -/
def bramEncode (f want : Nat) (raw : Bytes) : Bytes × Bytes :=
  let s := bramSubs want raw.length
  let subs := (List.range s).map (fun i =>
    let r := bramRange s raw.length i
    (((chunks bramBlock (r.2 + 1) (sub raw r.1 r.2)).map (bramEncodeBlock (bramVec f))).flatten, r.2))
  let dir := (subs.foldl (fun (acc : Bytes × Nat) (e : Bytes × Nat) =>
    (acc.1 ++ leBytes 4 acc.2 ++ leBytes 4 e.1.length ++ leBytes 4 e.2 ++ leBytes 4 (crc32c e.1), acc.2 + e.1.length)) ([], 32 + 16 * s)).1
  let area := subs.flatMap (·.1)
  let h0 := leBytes 2 0x4252 ++ leBytes 1 1 ++ leBytes 1 (bramVW f) ++ leBytes 1 (s - 1) ++ leBytes 1 f ++ zeros 2
    ++ leBytes 4 raw.length ++ leBytes 4 (32 + 16 * s + area.length)
  (area, h0 ++ leBytes 4 (crc32c (h0 ++ zeros 12 ++ dir)) ++ zeros 12 ++ dir)

/-! ### Decoding (R250, R254, R255) -/

/-- Decodes `n` code-stream entries: the bytes produced and what is left of the body, or the check that fails (R250, R254). -/
def bramCodes (v : Nat) (book : List Bytes) : Nat → Bytes → Except Nat (Bytes × Bytes)
  | 0, bs => .ok ([], bs)
  | n + 1, bs =>
    match bs with
    | [] => .error 6
    | c :: bs =>
      let cont := fun (x rest : Bytes) =>
        match bramCodes v book n rest with
        | .ok (out, rest) => .ok (x ++ out, rest)
        | .error e => .error e
      if c.toNat = 0xFF then (if bs.length < v then .error 6 else cont (bs.take v) (bs.drop v))
      else match book[c.toNat]? with
        | some x => cont x bs
        | none => .error 5

/-- Decodes a block whose uncompressed length must be `want`: its bytes and how many compressed bytes it took, or the check
that fails (R254). -/
def bramDecodeBlock (v want : Nat) (bs : Bytes) : Except Nat (Bytes × Nat) :=
  let ty := rdb bs 0
  let ncb := rdb bs 1
  let raw := rd bs 2 2 + 1
  let len := rd bs 4 2 + 1
  let bad := bs.length < 8 || 1 < ty || rd bs 6 2 ≠ 0 || raw ≠ want || (ty = 0 && (ncb ≠ 0 || len ≠ raw))
    || (ty = 1 && (raw ≤ len || len < ncb * v)) || bs.length < 8 + len
  if bad then .error 4
  else
    let body := sub bs 8 len
    if ty = 0 then .ok (body, 8 + len)
    else
      match bramCodes v (chunks v ncb (body.take (ncb * v))) (raw / v) (body.drop (ncb * v)) with
      | .error e => .error e
      | .ok (out, rest) =>
        if rest.length < raw % v then .error 6
        else if raw % v < rest.length then .error 7
        else .ok (out ++ rest, 8 + len)

/-- Where a sub-stream fails: check, block, offset within the sub-stream. -/
abbrev BramFail := Nat × Nat × Nat

/-- Decodes the blocks of a sub-stream in turn: `left` uncompressed bytes remain, `at'` compressed bytes are done.  The last
block is held until the lengths and the CRC agree (R255). -/
def bramWalk (v : Nat) (crcOk : Bool) (comp : Bytes) : Nat → Nat → Nat → Nat → Bytes × Option BramFail
  | 0, _, _, _ => ([], none)
  | n + 1, left, at', k =>
    match bramDecodeBlock v (Nat.min bramBlock left) (comp.drop at') with
    | .error e => ([], some (e, k, at'))
    | .ok (out, took) =>
      if bramBlock < left then
        let (more, fail) := bramWalk v crcOk comp n (left - bramBlock) (at' + took) (k + 1)
        (out ++ more, fail)
      else if at' + took ≠ comp.length then ([], some (7, k, at'))
      else if !crcOk then ([], some (8, k, 0))
      else (out, none)

/-- A sub-stream of a frame: where its uncompressed bytes lie, what could be decoded of them, how it fails, and its range in
the frame. -/
structure BramSub where
  start : Nat
  length : Nat
  out : Bytes
  fail : Option BramFail
  off : Nat
  comp : Nat

/-- The checks of the header and directory (R254): a check that fails, or the sub-streams decoded. -/
def bramDecode (sf : Nat) (frame : Bytes) : Except Nat (List BramSub) :=
  let fmt := rdb frame 5
  let s := rdb frame 4 + 1
  let raw := rd frame 8 4
  let hdrBad := frame.length < 32 || rd frame 0 2 ≠ 0x4252 || rdb frame 2 ≠ 1 || rdb frame 3 ≠ bramVW sf || fmt ≠ sf
    || rd frame 6 2 ≠ 0 || leNat (sub frame 0x14 12) ≠ 0
  if hdrBad then .error 1
  else
    let entry := fun (i o : Nat) => rd frame (32 + 16 * i + o) 4
    let is := List.range s
    let offs := is.all (fun i => if i = 0 then entry 0 0 = 32 + 16 * s else entry i 0 = entry (i - 1) 0 + entry (i - 1) 4)
    let lenBad := rd frame 0xC 4 ≠ frame.length || raw = 0 || 2 ^ 31 < raw || 64 < s || bramSubs s raw ≠ s
      || frame.length < 32 + 16 * s || !offs || entry (s - 1) 0 + entry (s - 1) 4 ≠ frame.length
      || is.any (fun i => entry i 8 ≠ (bramRange s raw i).2)
    if lenBad then .error 2
    else if rd frame 0x10 4 ≠ crc32c (sub frame 0 0x10 ++ sub frame 0x14 (12 + 16 * s)) then .error 3
    else .ok (is.map (fun i =>
      let r := bramRange s raw i
      let comp := sub frame (entry i 0) (entry i 4)
      let (out, fail) := bramWalk (bramVec sf) (crc32c comp = entry i 12) comp (ceilDiv r.2 bramBlock) r.2 0 0
      ⟨r.1, r.2, out, fail, entry i 0, entry i 4⟩))

/-! ### Issue order (R223, R259) -/

/-- The pieces of a destination run: one short write, or segments (R223). -/
def runPieces (n seg : Nat) (long : Bool) : List Nat := if n ≤ 256 && !long then [n] else segments n seg

/-- Cuts bytes into pieces of given lengths from a destination offset on. -/
def cutPieces (base : Nat) (poison short : Bool) : List Nat → Bytes → List Piece
  | [], _ => []
  | l :: ls, bs => ⟨base, bs.take l, poison, short⟩ :: cutPieces (base + l) poison short ls (bs.drop l)

/-- A destination run of known bytes cut into its pieces (R223). -/
def cutRun (base seg : Nat) (poison : Bool) (bs : Bytes) : List Piece :=
  cutPieces base poison (bs.length ≤ 256) (runPieces bs.length seg false) bs

/-- The pieces of a compressing transfer (R259): the sub-stream area, then header and directory. -/
def bramCompressPlan (f want seg : Nat) (poison : Bool) (raw : Bytes) : List Piece :=
  let (area, head) := bramEncode f want raw
  cutRun head.length seg poison area ++ cutRun 0 seg poison head

/-- A sub-stream as it is issued: its number, the pieces still to come, how it fails. -/
abbrev BramTurn := Nat × List Piece × Option BramFail

/-- One round over the active sub-streams (R259): the lowest four unfinished give one piece each; a sub-stream whose turn comes
without a piece that can be had stops the transfer. -/
def bramRound : Nat → List BramTurn → List Piece × Option (Nat × BramFail)
  | 0, _ => ([], none)
  | n + 1, subs =>
    let live := subs.filter (fun s => !s.2.1.isEmpty || s.2.2.isSome)
    let turn := live.take 4
    match turn with
    | [] => ([], none)
    | _ =>
      match turn.findIdx? (fun s => s.2.1.isEmpty) with
      | some i =>
        ((turn.take i).filterMap (fun s => s.2.1.head?), (turn[i]?).bind (fun s => s.2.2.map (fun e => (s.1, e))))
      | none =>
        let (more, fail) := bramRound n (turn.map (fun s => (s.1, s.2.1.drop 1, s.2.2)) ++ live.drop 4)
        (turn.filterMap (fun s => s.2.1.head?) ++ more, fail)

/-- The pieces of a decompressing transfer, with the failure that follows them: check, sub-stream, block, offset of what failed
in the frame (R255, R256, R259).  `cv` converts decoded bytes, `scale` their lengths; `poisoned` tells whether a range of the
frame is poisoned.
DEDUCED, log 98. -/
def bramDecompressPlan (sf seg : Nat) (frame : Bytes) (cv : Bytes → Bytes) (scale : Nat → Nat) (poisoned : Nat → Nat → Bool) :
    List Piece × Option (Nat × Nat × Nat × Nat) :=
  match bramDecode sf frame with
  | .error e => ([], some (e, 0, 0, 0))
  | .ok subs =>
    let head := poisoned 0 (32 + 16 * subs.length)
    let parts : List BramTurn := subs.zipIdx.map (fun (e : BramSub × Nat) =>
      let n := scale e.1.length
      let ls := runPieces n seg false
      let all := cutPieces (scale e.1.start) (head || poisoned e.1.off e.1.comp) (n ≤ 256) ls (cv e.1.out)
      (e.2, (all.zip ls).filterMap (fun (p : Piece × Nat) => if p.1.data.length = p.2 then some p.1 else none), e.1.fail))
    let (ps, fail) := bramRound (ceilDiv (frame.length * 65536) 64 + subs.length + 1) parts
    (ps, fail.map (fun e => (e.2.1, e.1, e.2.2.1,
      (subs[e.1]?.map (·.off)).getD 0 + (if e.2.1 = 8 then 0 else e.2.2.2))))

end Sys2Proof.Machine
end

