-- ==== Sys2Proof/Machine/Streams.lean ====
section
/-! DEFINITION. What a stream engine does with a transfer in flight (R207 to R211, R217 to R225, R229 to R234, R252 to R260):
addresses, source reads, segments and short writes. -/

namespace Sys2Proof.Machine

/-! ### Engines -/

/-- The core and the queue of stream engine k = 2 × core + s. -/
def strCore (k : Nat) : Nat := k / 2
def strQueue (k : Nat) : Nat := 5 + k % 2

/-- Its unit code (R37). -/
def strCode (k : Nat) : Nat := strUnit (k / 2) (k % 2)

/-- Whether a transfer is the one of a command and descriptor. -/
def Transfer.is (t : Transfer) (accept index : Nat) : Bool := t.own.isNone && t.accept = accept && t.index = index

/-- Changes a transfer of the context's commands. -/
def Dev.modTransfer (d : Dev) (k accept index : Nat) (f : Transfer → Transfer) : Dev :=
  d.modStr k (fun s => { s with transfers := s.transfers.map (fun t => if t.is accept index then f t else t) })

/-- The transfers of the context's own commands, in start order. -/
def Stream.mine (s : Stream) : List Transfer := s.transfers.filter (·.own.isNone)

/-! ### Descriptors (R217) -/

/-- The fields of a descriptor. -/
def dsKind (b : Bytes) : Nat := rdb b 0
def dsFlag (b : Bytes) (i : Nat) : Bool := bit (rdb b 1) i
def dsMcast (b : Bytes) : Bool := dsFlag b 3
def dsSrcKind (b : Bytes) : Nat := field (rdb b 2) 0 2
def dsDstKind (b : Bytes) : Nat := field (rdb b 2) 2 2
def dsIdxKind (b : Bytes) : Nat := field (rdb b 2) 4 2
def dsSfmt (b : Bytes) : Nat := rdb b 3 % 16
def dsDfmt (b : Bytes) : Nat := rdb b 3 / 16
def dsBram (b : Bytes) : Nat := rdb b 5 % 4
def dsSubs (b : Bytes) : Nat := rdb b 5 / 4 + 1
def dsSrc (b : Bytes) : Nat := rd b 8 8
def dsDst (b : Bytes) : Nat := rd b 0x10 8
def dsLen (b : Bytes) : Nat := rd b 0x18 4
def dsCount1 (b : Bytes) : Nat := rd b 0x1C 4
def dsCount2 (b : Bytes) : Nat := rd b 0x28 4
def dsMask (b : Bytes) : Nat := rdb b 0x35
def dsHin (b : Bytes) : Nat := rdb b 0x38 % 16
def dsHret (b : Bytes) : Nat := rdb b 0x38 / 16
def dsHout (b : Bytes) : Nat := rdb b 0x39 % 16
def dsHcore (b : Bytes) : Nat := rdb b 0x39 / 16

/-- A signed 4-byte stride. -/
def dsStride (b : Bytes) (o : Nat) : Int := toSigned (rd b o 4) 32

/-- The segment size in bytes; none where SEG is out of range (R213). -/
def segBytes (v : Nat) : Option Nat := if v = 0 then some 4096 else if 2 ≤ v && v ≤ 64 then some (64 * v) else none
def dsSeg (b : Bytes) : Nat := (segBytes (rdb b 0x36)).getD 4096

/-- Whether a descriptor converts (R220). -/
def dsConv (b : Bytes) : Bool := dsSfmt b ≠ dsDfmt b

/-- Source and destination element sizes of the conversion; 1 and 1 where bytes are copied (R220). -/
def dsSizes (b : Bytes) : Nat × Nat := if dsConv b then (fmtBits (dsSfmt b) / 8, fmtBits (dsDfmt b) / 8) else (1, 1)

/-- An address plus a signed multiple, formed in 64 bits (R218). -/
def addr64 (a : Nat) (i : Int) : Nat := ofSigned ((a : Int) + i) 64

/-- The runs of a descriptor (R218). -/
def dsRuns (b : Bytes) : Nat :=
  match dsKind b with
  | 2 => dsCount1 b * dsCount2 b
  | 3 => dsCount1 b
  | 4 => dsCount1 b
  | 5 => dsCount1 b * (64 / dsLen b)
  | _ => 1

/-- The source bytes of a run and the destination bytes it becomes (R218 to R220). -/
def dsRunSrc (b : Bytes) : Nat := if dsKind b = 5 then 32 * dsLen b else dsLen b
def dsRunDst (b : Bytes) : Nat := dsRunSrc b / (dsSizes b).1 * (dsSizes b).2

/-! ### Addresses (R210, R234) -/

/-- Where a stream access leads. -/
inductive Target where
  | here (pl : Place)
  | remote (module addr : Nat)
  | bad (status : Nat)
  deriving DecidableEq, Repr

/-- One address of an engine within a page (R34, R172 to R174, R210, R240, R304).
DEDUCED, log 100. -/
def Dev.aim (d : Dev) (m : Mem) (c : CtxId) (core kind addr : Nat) (write : Bool) : Target × Dev :=
  match kind with
  | 0 =>
    if 2 ^ 32 ≤ addr then (.bad 4, d)
    else if 0x03000000 ≤ addr && addr < 0x03005000 then (.bad 9, d)
    else match d.coreLocal core addr with
      | some a => (.here (.mem a), d)
      | none => (.bad 4, d)
  | 1 =>
    if 2 ^ 32 ≤ addr then (.bad 4, d)
    else match d.dieLocal (core / 12) addr with
      | none => (.bad 4, d)
      | some pl =>
        if !d.placeIn pl then (.bad 6, d)
        else match (d.right c pl).1 with
          | .no => (.bad 9, d)
          | .killed => (.bad 0x10, d)
          | .readOnly => (if write then .bad 5 else .here pl, d)
          | .yes => (.here pl, d)
  | 2 =>
    let t := d.translate m c (some core) (if write then .write else .read) (d.locked c) addr
    match t.1 with
    | .here (.ctrl _ _) _ => (.bad 9, d)
    | .here pl ro => (if ro && write then .bad 5 else .here pl, d.cache c addr t)
    | .remote md a => (.remote md a, d.cache c addr t)
    | x => (.bad (x.streamStatus (d.locked c)), d)
  | _ => (.bad 4, d)

/-- The parts of a range that lie in one page of 4 KiB each.
DEDUCED, log 95. -/
def pageParts (addr n : Nat) : List (Nat × Nat) :=
  if n = 0 then []
  else (List.range ((addr + n - 1) / 4096 - addr / 4096 + 1)).map (fun i =>
    let lo := if i = 0 then addr else (addr / 4096 + i) * 4096
    let hi := Nat.min (addr + n) ((addr / 4096 + i + 1) * 4096)
    (lo, hi - lo))

/-- A part of a range that is contiguous where it lies: its target, the address that names it, its length. -/
structure Part where
  at' : Target
  named : Nat
  len : Nat
  deriving DecidableEq, Repr

/-- Joins a part to the one before it where they are contiguous. -/
def joinPart (ps : List Part) (p : Part) : List Part :=
  match ps.getLast? with
  | none => [p]
  | some q =>
    let joins : Bool := match q.at', p.at' with
      | .here (.mem a), .here (.mem b) => decide (b = a + q.len)
      | .remote m a, .remote n b => m = n && b = a + q.len
      | _, _ => false
    if joins then ps.dropLast ++ [{ q with len := q.len + p.len }] else ps ++ [p]

/-- Every page of a range is translated (R234): its contiguous parts, or the status and address of the first that fails; a
missing page is named by its first byte (R235). -/
def Dev.aimAll (d : Dev) (m : Mem) (c : CtxId) (core kind addr n : Nat) (write : Bool) : Except (Nat × Nat) (List Part) × Dev :=
  (pageParts addr n).foldl (fun (acc : Except (Nat × Nat) (List Part) × Dev) (p : Nat × Nat) =>
    match acc.1 with
    | .error e => (.error e, acc.2)
    | .ok ps =>
      match acc.2.aim m c core kind p.1 write with
      | (.bad st, d) => (.error (st, if st = 0xA || st = 0xB then p.1 / 4096 * 4096 else p.1), d)
      | (t, d) => (.ok (joinPart ps ⟨t, p.1, p.2⟩), d)) (.ok [], d)

/-! ### Source reads (R225) -/

/-- Bytes read on this module: the bytes, the local ranges that they come from, and the named address of the first line that was
never written. -/
structure SrcData where
  bytes : Bytes
  spans : List (Nat × Nat)
  cold : Option Nat

/-- Whether any of `n` bytes from offset `o` of a source is poisoned. -/
def SrcData.poison (s : SrcData) (m : Mem) (o n : Nat) : Bool :=
  (s.spans.foldl (fun (acc : Bool × Nat) (r : Nat × Nat) =>
    let lo := Nat.max o acc.2
    let hi := Nat.min (o + n) (acc.2 + r.2)
    (acc.1 || (lo < hi && m.poisoned (r.1 + (lo - acc.2)) (hi - lo)), acc.2 + r.2)) (false, 0)).1

/-- How a source read ends. -/
inductive SrcEnd where
  | data (s : SrcData)
  | wait
  | fail (status addr : Nat)

/-- Reads parts on this module (R174, R194, R199, R202). -/
def Dev.readParts (d : Dev) (m : Mem) (c : CtxId) (ps : List Part) : SrcEnd :=
  ps.foldl (fun (acc : SrcEnd) p =>
    match acc, p.at' with
    | .data s, .here pl =>
      match d.homeRead m c pl p.len with
      | .wait => .wait
      | .refused st => .fail (answerStatus st) p.named
      | .data bs _ un =>
        let a := match pl with
          | .mem a => a
          | _ => 0
        .data { bytes := s.bytes ++ bs, spans := s.spans ++ [(a, p.len)],
                cold := if s.cold.isSome || !un then s.cold
                  else some ((p.named + ((m.uninitLine a p.len).getD (a / 64)) * 64 - a / 64 * 64) / 64 * 64) }
    | .data _, _ => .fail 4 p.named
    | e, _ => e) (.data ⟨[], [], none⟩)

/-! ### Putting bytes at a destination (R223, R230, R231) -/

/-- A place as bits [47:0] of a global address. -/
def Place.addr : Place → Nat
  | .mem a => a
  | .ctrl _ off => 3 * 2 ^ 45 + 0x03000000 + off
  | .window n a => dieAddr n a
  | .inval n => dieAddr n 0x60200000

/-- How putting bytes ends: with what is outstanding more. -/
inductive PutEnd where
  | wait
  | fail (status : Nat)
  | done (d : Dev) (es : List MemEff) (out : Nat)

/-- What a piece of a transfer is, for its acknowledgement. -/
structure Piece.Of where
  k : Nat
  accept : Nat
  index : Nat
  named : Nat

/-- Writes bytes at a destination (R224, R225): in the core's own SRAM at once; elsewhere on the module as a write unit or short
write on its way; at another module as a data packet or the packets of a short write.  `src` is where the payload can be read
again.
DEDUCED, log 96. -/
def Dev.putBytes (d : Dev) (m : Mem) (c : CtxId) (o : Piece.Of) (t : Target) (bs : Bytes) (marks : Nat) (short : Bool)
    (src : Option Nat) : PutEnd :=
  let core := o.k / 2
  match t with
  | .bad st => .fail st
  | .remote md a =>
    let own := d.moduleId
    let pkey := (d.ctxAt c).pkey
    if short then
      match d.takeShort core with
      | none => .wait
      | some (id, d) =>
        match d.handFor c (core / 12) (shortPkts pkey md own a 0 bs (marks ≠ 0) (.stream o.k o.accept o.index o.named (some id))) with
        | none => .fail 0xF
        | some d => .done d [] 1
    else
      let p : OutPkt := { plainOut (dataPkt 0x10 2 pkey md own (leBytes 6 a) bs) with
        src := src, who := .stream o.k o.accept o.index o.named none }
      match d.handFor c (core / 12) (p.withMap marks) with
      | none => .fail 0xF
      | some d => .done d [] 1
  | .here pl =>
    let mine : Bool := match pl with
      | .mem a => decide (d.coreOf a = some core)
      | _ => false
    if mine then
      match d.homeWrite m c pl bs false (some core) with
      | (.wait, _, _) => .wait
      | (.refused st, _, _) => .fail (answerStatus st)
      | (.done _ _ _, d, es) => .done d (es ++ pl.marks bs.length marks) 0
    else
      let fly := fun (id : Nat) (slot : Option Nat) =>
        Flight.mk id c (strCode o.k) none none pl.addr bs marks (.stream o.k o.accept o.index o.named slot) slot.isSome none
      if short then
        match d.takeShort core with
        | none => .wait
        | some (id, d) => .done { d with flight := d.flight ++ [fly id (some id)] } [] 1
      else .done { d with flight := d.flight ++ [fly d.nextFlight none], nextFlight := d.nextFlight + 1 } [] 1

/-- Sends one copy of a segment to every die of a mask (R232). -/
def Dev.putCopies (d : Dev) (c : CtxId) (o : Piece.Of) (mask addr : Nat) (bs : Bytes) (marks : Nat) : PutEnd :=
  let dies := bitsOf mask 8
  let d' := dies.foldl (fun (d : Dev) n =>
    let f := Flight.mk d.nextFlight c (strCode o.k) none none (dieAddr n addr) bs marks
      (.stream o.k o.accept o.index o.named none) false none
    { d with flight := d.flight ++ [f], nextFlight := d.nextFlight + 1 }) d
  .done d' [] dies.length

/-! ### Where a run reads and writes (R218, R219) -/

/-- The two ends of a run: address kinds and addresses; `zero` for a GATHER that skips. -/
structure RunEnds where
  srcKind : Nat
  src : Nat
  dstKind : Nat
  dst : Nat
  zero : Bool

/-- How finding a run's ends comes out. -/
inductive RunEnd where
  | ends (r : RunEnds) (d : Dev) (poison uninit : Bool)
  /-- A SCATTER element that moves nothing. -/
  | skip (d : Dev)
  | wait
  | fail (status access addr : Nat) (d : Dev)

/-- `n` bytes that another module holds: free values; the request for them goes out with an address of the requester that nothing
fixes (R391).
DESIGN CHOICE, log 94. -/
def Dev.fetchFree (d : Dev) (c : CtxId) (k md addr n : Nat) (who : Sender) : Option (Bytes × Dev) :=
  let (r, d) := d.draw
  let p := getReqPkt (d.ctxAt c).pkey md d.moduleId addr 0 (r.toNat % 2 ^ 48) n
  match d.handFor c (k / 24) [{ plainOut p with who := who }] with
  | none => none
  | some d => some ((List.range (ceilDiv n 8)).foldl (fun (acc : Bytes × Dev) i =>
      let (v, d) := acc.2.draw
      (acc.1 ++ (leBytes 8 v.toNat).take (n - 8 * i), d)) ([], d))

/-- How the read of an index entry or table entry ends. -/
inductive IdxEnd where
  | value (v : Nat) (poison uninit : Bool) (d : Dev)
  | wait
  | fail (status addr : Nat) (d : Dev)

/-- An index entry or a table entry (R218, R225, R234). -/
def Dev.readIndex (d : Dev) (m : Mem) (c : CtxId) (k kind addr n : Nat) : IdxEnd :=
  match d.aimAll m c (k / 2) kind addr n false with
  | (.error (st, a), d) => .fail st a d
  | (.ok ps, d) =>
    match ps with
    | ⟨.remote md a, _, _⟩ :: _ =>
      match d.fetchFree c k md a n .none with
      | some (bs, d) => .value (leNat bs) false false d
      | none => .fail 0xF addr d
    | _ =>
      match d.readParts m c ps with
      | .wait => .wait
      | .fail st a => .fail st a d
      | .data s =>
        match s.cold with
        | none => .value (leNat s.bytes) (s.poison m 0 n) false d
        | some a =>
          let d := d.noteUninit (k / 2) (strCode k) a
          if d.det c then .fail 7 addr d else .value (leNat s.bytes) (s.poison m 0 n) true d

/-- The width of an index entry (R218). -/
def idxBytes (b : Bytes) : Nat := [0, 2, 4, 8, 8].getD (rdb b 0x34) 8

/-- The ends of a run (R218, R219). -/
def Dev.runEnds (d : Dev) (m : Mem) (c : CtxId) (k : Nat) (b : Bytes) (run : Nat) : RunEnd :=
  let sk := dsSrcKind b
  let dk := dsDstKind b
  let s := dsSrc b
  let t := dsDst b
  let s1 := dsStride b 0x20
  let d1 := dsStride b 0x24
  match dsKind b with
  | 2 =>
    let i := run % dsCount1 b
    let j := run / dsCount1 b
    .ends ⟨sk, addr64 s (dsStride b 0x2C * j + s1 * i), dk, addr64 t (dsStride b 0x30 * j + d1 * i), false⟩ d false false
  | 5 =>
    let rows := 64 / dsLen b
    .ends ⟨sk, addr64 s (s1 * (run / rows : Nat)), dk, addr64 t (d1 * (run / rows : Nat) + dsStride b 0x30 * (run % rows : Nat)), false⟩ d
      false false
  | 3 | 4 =>
    let gather := dsKind b = 3
    let w := idxBytes b
    let ia := addr64 (rd b 0x28 8) (run * w : Nat)
    match d.readIndex m c k (dsIdxKind b) ia w with
    | .wait => .wait
    | .fail st a d => .fail st 2 a d
    | .value v po un d =>
      let route := rdb b 0x34 = 4
      if v = 2 ^ (8 * w) - 1 then
        if gather then .ends ⟨0, 0, dk, addr64 t (d1 * run), true⟩ d po un else .skip d
      else
        let x := if route then v / 256 else v
        let limit := rd b 0x30 4
        if limit ≠ 0 && limit ≤ x then .fail 0xC 2 ia d
        else
          let base :=
            if route then d.readIndex m c k (if gather then sk else dk) (addr64 (if gather then s else t) (8 * (v % 256) : Nat)) 8
            else .value (if gather then s else t) false false d
          match base with
          | .wait => .wait
          | .fail st a d => .fail st 2 a d
          | .value bv p2 u2 d =>
            let bk := if route then 2 else if gather then sk else dk
            let e : RunEnds :=
              if gather then ⟨bk, addr64 bv (s1 * x), dk, addr64 t (d1 * run), false⟩
              else ⟨sk, addr64 s (s1 * run), bk, addr64 bv (d1 * x), false⟩
            .ends e d (po || p2) (un || u2)
  | _ => .ends ⟨sk, s, dk, t, false⟩ d false false

/-! ### Transposed reads (R177, R179) -/

/-- The 32 lines of a transposed read from the line at a local address: its rows are consecutive rows of one enabled tile region
of the core's own core memory; none where it breaks R179. -/
def Dev.tileLines (d : Dev) (core a : Nat) : Option (List Nat) :=
  if d.coreOf a ≠ some core then none
  else
    let l := d.toCoreLocal a
    match d.slotAt core l with
    | none => none
    | some (r, _) =>
      let g := d.regionAt core r
      let w := 2 ^ (g.layout - 1)
      let line := (l - g.base) / 64
      let row := line / w
      if g.layout = 0 || 10 < g.layout || 0x02200000 ≤ l || g.bytes < (line + 31 * w + 1) * 64
          || (w < 32 && row % (32 / w) ≠ 0) then none
      else some ((List.range 32).map (fun i => a / 64 * 64 + i * w * 64))

/-- Output row `row` of a transposed read: element `row` of each of the 32 lines (R179). -/
def Dev.transposed (d : Dev) (m : Mem) (c : CtxId) (core a e row : Nat) : SrcEnd :=
  match d.tileLines core a with
  | none => .fail 3 a
  | some ls => d.readParts m c (ls.map (fun l => ⟨.here (.mem (l + e * row)), d.toCoreLocal l, e⟩))

/-! ### Issuing (R223, R224, R234) -/

/-- How an attempt to issue ends: nothing can go yet; the transfer stops with a status, the access and address that failed; or a
step has been made. -/
inductive IssueEnd where
  | wait (d : Dev)
  | stop (status access addr : Nat) (d : Dev)
  | step (d : Dev) (es : List MemEff)

/-- What is left of the segment in which an offset lies. -/
def segLeft : List Nat → Nat → Nat
  | [], _ => 0
  | l :: ls, off => if off < l then l - off else segLeft ls (off - l)

/-- The conversion of whole elements (R220). -/
def dsConvert (b bs : Bytes) : Bytes × Nat :=
  let cv := (convOf (rdb b 4)).getD ⟨0, false, false⟩
  let n := bs.length / (dsSizes b).1
  let (out, _, st) := convArray (dsSfmt b) (dsDfmt b) cv n (List.replicate n 0) bs []
  (out, st)

/-- A transfer moves on by `n` destination bytes of its run, with `out` more of them outstanding. -/
def Transfer.advance (t : Transfer) (runs len n out : Nat) : Transfer :=
  let off := t.off + n
  let run := if len ≤ off then t.run + 1 else t.run
  { t with off := if len ≤ off then 0 else off, run := run, wrote := t.wrote + n, unacked := t.unacked + out, issued := runs ≤ run }

/-- What a source read adds to its transfer, and to the core's UNINIT word (R99, R118, R199). -/
def Dev.noteSource (d : Dev) (c : CtxId) (k : Nat) (t : Transfer) (cold : Option Nat) (poison : Bool) (fp : Nat) : Except (Nat × Dev) Dev :=
  match cold with
  | some a =>
    let d := d.noteUninit (k / 2) (strCode k) a
    if d.det c then .error (a, d)
    else .ok (d.modTransfer k t.accept t.index (fun x => { x with uninit := true, poison := x.poison || poison, fpstat := x.fpstat ||| fp }))
  | none => .ok (d.modTransfer k t.accept t.index (fun x => { x with poison := x.poison || poison, fpstat := x.fpstat ||| fp }))

/-- Bytes ready to go at a destination, from the transfer's position: the first contiguous part of `n` bytes goes (R223, R230,
R234).  `bytes`, `marks` and `src` give a piece of the part's length. -/
def Dev.issueBytes (d : Dev) (m : Mem) (c : CtxId) (k : Nat) (t : Transfer) (kind addr n : Nat) (short : Bool)
    (bytes : Nat → Bytes) (marks : Nat → Nat) (src : Option Nat) (remoteOk : Bool) (move : Nat → Nat → Transfer → Transfer) : IssueEnd :=
  let n := if short then Nat.min n (4096 - addr % 4096) else n
  let o : Piece.Of := ⟨k, t.accept, t.index, addr⟩
  let finish := fun (l : Nat) (e : PutEnd) (d : Dev) =>
    match e with
    | .wait => .wait d
    | .fail st => .stop st 1 addr d
    | .done d es out => .step (d.modTransfer k t.accept t.index (move l out)) es
  if dsMcast t.desc then finish n (d.putCopies c o (dsMask t.desc) addr (bytes n) (marks n)) d
  else match d.aimAll m c (k / 2) kind addr n true with
    | (.error (st, a), d) => .stop st 1 a d
    | (.ok ps, d) =>
      match ps.head? with
      | none => .stop 4 1 addr d
      | some p =>
        match p.at' with
        | .remote _ _ => if remoteOk then finish p.len (d.putBytes m c o p.at' (bytes p.len) (marks p.len) short src) d else .stop 4 1 addr d
        | _ => finish p.len (d.putBytes m c o p.at' (bytes p.len) (marks p.len) short src) d

/-- Part of a get (R307, R391): a GET_REQ for what is contiguous at both ends, of at most 16 MiB. -/
def Dev.issueGet (d : Dev) (m : Mem) (c : CtxId) (k : Nat) (t : Transfer) (md saddr n kind addr : Nat) (move : Nat → Nat → Transfer → Transfer) :
    IssueEnd :=
  match d.aimAll m c (k / 2) kind addr n true with
  | (.error (st, a), d) => .stop st 1 a d
  | (.ok ps, d) =>
    match ps.head? with
    | some ⟨.here pl, _, len⟩ =>
      let p := getReqPkt (d.ctxAt c).pkey md d.moduleId saddr (rdb t.desc 0x36) pl.addr len
      match d.handFor c (k / 24) [{ plainOut p with who := .get k t.accept t.index pl.addr len addr }] with
      | none => .stop 0xF 0 addr d
      | some d => .step (d.modTransfer k t.accept t.index (move len 1)) []
    | _ => .stop 4 1 addr d

/-- The leading parts of a source that lie on this module. -/
def localLead (ps : List Part) : List Part := ps.takeWhile (fun p => match p.at' with | .here _ => true | _ => false)

/-- One piece of a run whose ends are known: its position is the transfer's offset. -/
def Dev.issueRun (d : Dev) (m : Mem) (c : CtxId) (k : Nat) (t : Transfer) (e : RunEnds) (poison : Bool) : IssueEnd :=
  let b := t.desc
  let len := dsRunDst b
  let runs := dsRuns b
  let (ss, ds) := dsSizes b
  let short := len ≤ 256 && !dsMcast b
  let n := if short then len - t.off else segLeft (segments len (dsSeg b)) t.off
  let move := fun (l out : Nat) (x : Transfer) => x.advance runs len l out
  let dst := addr64 e.dst (t.off : Nat)
  let all := fun (l : Nat) => if poison then 2 ^ ceilDiv l 64 - 1 else 0
  let send := fun (d : Dev) (n : Nat) (bytes : Bytes) (marks : Nat → Nat) (src : Option Nat) =>
    d.issueBytes m c k t e.dstKind dst n short (fun l => bytes.take l) marks src true move
  if e.zero then send d n (zeros n) all none
  else if dsKind b = 5 then
    match d.aimAll m c (k / 2) e.srcKind e.src 1 false with
    | (.error (st, a), d) => .stop st 0 a d
    | (.ok [⟨.here (.mem a), _, _⟩], d) =>
      match d.transposed m c (k / 2) a (dsLen b) (t.run % (64 / dsLen b)) with
      | .wait => .wait d
      | .fail st _ => .stop st 0 e.src d
      | .data x =>
        let po := poison || x.poison m 0 x.bytes.length
        match d.noteSource c k t x.cold po 0 with
        | .error (a, d) => .stop 7 0 a d
        | .ok d => send d n (x.bytes.drop t.off) (fun l => if po then 2 ^ ceilDiv l 64 - 1 else 0) none
    | (.ok _, d) => .stop 3 0 e.src d
  else
    let first := t.off / ds
    let last := ceilDiv (t.off + n) ds
    let src := addr64 e.src (first * ss : Nat)
    let want := (last - first) * ss
    match d.aimAll m c (k / 2) e.srcKind src want false with
    | (.error (st, a), d) => .stop st 0 a d
    | (.ok ps, d) =>
      match ps with
      | ⟨.remote md sa, _, rl⟩ :: _ =>
        if dsConv b then
          match d.fetchFree c k md sa want (.stream k t.accept t.index src none) with
          | none => .stop 0xF 0 src d
          | some (bs, d) =>
            let d := d.modTransfer k t.accept t.index (fun x => { x with unacked := x.unacked + 1 })
            d.issueBytes m c k t e.dstKind dst n short (fun l => ((dsConvert b bs).1.drop (t.off - first * ds)).take l) all none false move
        else
          let ext := Nat.min (len - t.off) (2 ^ 24)
          match d.aimAll m c (k / 2) e.srcKind src ext false with
          | (.ok (⟨.remote md sa, _, l⟩ :: _), d) => d.issueGet m c k t md sa l e.dstKind dst move
          | (_, d) => d.issueGet m c k t md sa rl e.dstKind dst move
      | _ =>
        let lead := localLead ps
        let got := (lead.map (·.len)).foldl (· + ·) 0
        let n := if got < want then got / ss * ds - (t.off - first * ds) else n
        match d.readParts m c (if got < want then lead else ps) with
        | .wait => .wait d
        | .fail st a => .stop st 0 a d
        | .data x =>
          let (bs, fp) := if dsConv b then dsConvert b x.bytes else (x.bytes, 0)
          let po := poison || x.poison m 0 x.bytes.length
          match d.noteSource c k t x.cold po fp with
          | .error (a, d) => .stop 7 0 a d
          | .ok d =>
            let skip := t.off - first * ds
            let marks := fun (l : Nat) =>
              if poison then 2 ^ ceilDiv l 64 - 1
              else poisonBits ((List.range (ceilDiv l 64)).map (fun g =>
                let lo := (skip + 64 * g) / ds * ss
                let hi := ceilDiv (skip + Nat.min l (64 * g + 64)) ds * ss
                x.poison m lo (hi - lo)))
            let again := if dsConv b then none else match x.spans with
              | [(a, _)] => some a
              | _ => none
            send d n (bs.drop skip) marks again

/-! ### Bramble transfers (R221, R255 to R260) -/

/-- The source of a Bramble transfer, read whole (R234, R257); what another module holds is free. -/
def Dev.bramSource (d : Dev) (m : Mem) (c : CtxId) (k : Nat) (t : Transfer) : SrcEnd × Dev :=
  let b := t.desc
  match d.aimAll m c (k / 2) (dsSrcKind b) (dsSrc b) (dsLen b) false with
  | (.error (st, a), d) => (.fail st a, d)
  | (.ok ps, d) =>
    match ps.find? (fun p => match p.at' with | .remote _ _ => true | _ => false) with
    | some ⟨.remote md a, _, _⟩ =>
      match d.fetchFree c k md a (dsLen b) (.stream k t.accept t.index (dsSrc b) none) with
      | none => (.fail 0xF (dsSrc b), d)
      | some (bs, d) => (.data ⟨bs, [], none⟩, d.modTransfer k t.accept t.index (fun x => { x with unacked := x.unacked + 1 }))
    | _ => (d.readParts m c ps, d)

/-- The plan of a Bramble transfer (R257, R259): its pieces, the failure behind them, the status bits of its conversion. -/
def bramPlan (b : Bytes) (m : Mem) (x : SrcData) : List Piece × Option (Nat × Nat × Nat × Nat) × Nat :=
  let (ss, ds) := dsSizes b
  if dsBram b = 1 then
    let (raw, fp) := if dsConv b then dsConvert b x.bytes else (x.bytes, 0)
    (bramCompressPlan (dsDfmt b) (dsSubs b) (dsSeg b) (x.poison m 0 x.bytes.length) raw, none, fp)
  else
    let cv := fun (bs : Bytes) => if dsConv b then (dsConvert b bs).1 else bs
    let (ps, e) := bramDecompressPlan (dsSfmt b) (dsSeg b) x.bytes cv (fun n => n / ss * ds) (x.poison m)
    let fp := match bramDecode (dsSfmt b) x.bytes with
      | .ok subs => if dsConv b then orAll (subs.map (fun s => (dsConvert b s.out).2)) else 0
      | .error _ => 0
    (ps, e, fp)

/-- One step of a Bramble transfer: first the plan, then its pieces in order, then the failure, if there is one. -/
def Dev.issueBram (d : Dev) (m : Mem) (c : CtxId) (k : Nat) (t : Transfer) : IssueEnd :=
  let b := t.desc
  match t.plan with
  | none =>
    match d.bramSource m c k t with
    | (.wait, d) => .wait d
    | (.fail st a, d) => .stop st 0 a d
    | (.data x, d) =>
      let (ps, e, fp) := bramPlan b m x
      match d.noteSource c k t x.cold (x.poison m 0 x.bytes.length) fp with
      | .error (a, d) => .stop 7 0 a d
      | .ok d =>
        let total := ps.foldl (fun n p => Nat.max n (p.off + p.data.length)) 0
        match d.aimAll m c (k / 2) (dsDstKind b) (dsDst b) total true with
        | (.error (st, a), d) => .stop st 1 a d
        | (.ok _, d) =>
          .step (d.modTransfer k t.accept t.index (fun t => { t with plan := some ps, planEnd := e, issued := ps.isEmpty && e.isNone })) []
  | some [] =>
    match t.planEnd with
    | none => .step (d.modTransfer k t.accept t.index (fun t => { t with issued := true })) []
    | some (check, sub', block, off) =>
      .stop 0xD 0 (dsSrc b + off) (d.modTransfer k t.accept t.index (fun t => { t with check := (check, sub', block) }))
  | some (p :: ps) =>
    let move := fun (l out : Nat) (x : Transfer) =>
      let rest := if l < p.data.length then { p with off := p.off + l, data := p.data.drop l } :: ps else ps
      { x with plan := some rest, wrote := x.wrote + l, unacked := x.unacked + out, issued := rest.isEmpty && x.planEnd.isNone }
    d.issueBytes m c k t (dsDstKind b) (addr64 (dsDst b) (p.off : Nat)) p.data.length p.short (fun l => p.data.take l)
      (fun l => if p.poison then 2 ^ ceilDiv l 64 - 1 else 0) none true move

/-! ### Handles (R227 to R229) -/

/-- A core's handle queue. -/
def Dev.handleQueue (d : Dev) (core q : Nat) : List W64 := tblGet [] (d.coreAt core).handles q

/-- Sets a core's handle queue. -/
def Dev.putHandles (d : Dev) (core q : Nat) (hs : List W64) : Dev :=
  d.modCore core (fun x => { x with handles := tblSet [] x.handles q hs })

/-- A descriptor with the fields that its popped handle gives: HANDLE becomes DIE, LEN 0 becomes BYTES (R228). -/
def withHandle (b : Bytes) (h : Nat) : Bytes :=
  let at' := leBytes 8 (field h 0 32)
  let am := rdb b 2
  let b := if dsSrcKind b = 3 then wr (wr b 8 at') 2 (leBytes 1 (setField am 0 2 1)) else b
  let am := rdb b 2
  let b := if dsDstKind b = 3 then wr (wr b 0x10 at') 2 (leBytes 1 (setField am 2 2 1)) else b
  if dsLen b = 0 then wr b 0x18 (leBytes 4 (field h 32 26)) else b

/-- Pops a transfer's handle: transfers of the engine that started before it pop first (R228, R229). -/
def Dev.popHandle (d : Dev) (k : Nat) (t : Transfer) : IssueEnd :=
  let core := k / 2
  let q := dsHin t.desc
  let earlier := ((d.strAt k).mine.takeWhile (fun x => !(x.is t.accept t.index))).any (fun x => x.pops && dsHin x.desc = q)
  match d.handleQueue core q with
  | h :: hs =>
    if earlier then .wait d
    else
      let d := (d.putHandles core q hs).modTransfer k t.accept t.index (fun x =>
        { x with pops := false, handle := some h, desc := withHandle x.desc h.toNat })
      let n := dsLen t.desc
      let bytes := field h.toNat 32 26
      let len := if n = 0 then bytes else n
      if bytes < n || len = 0 || (dsConv t.desc && dsBram t.desc ≠ 2 && len % (dsSizes t.desc).1 ≠ 0) then
        .stop 3 0 (field h.toNat 0 32) d
      else .step d []
  | [] => .wait d

/-- One step of a transfer (R207 to R209, R223): its handle, then the next segment or short write of its runs. -/
def Dev.issueStep (d : Dev) (m : Mem) (c : CtxId) (k : Nat) (t : Transfer) : IssueEnd :=
  if t.pops then d.popHandle k t
  else if dsBram t.desc ≠ 0 then d.issueBram m c k t
  else match d.runEnds m c k t.desc t.run with
    | .wait => .wait d
    | .fail st acc a d => .stop st acc a d
    | .skip d =>
      .step (d.modTransfer k t.accept t.index (fun x => { x with run := x.run + 1, off := 0, issued := dsRuns x.desc ≤ x.run + 1 })) []
    | .ends e d po un =>
      let d := if po || un then d.modTransfer k t.accept t.index (fun x => { x with poison := x.poison || po, uninit := x.uninit || un }) else d
      d.issueRun m c k t e po

/-- What an issue step leaves: a transfer that stops keeps its status and what failed (R235, R237). -/
def IssueEnd.res (e : IssueEnd) (k accept index : Nat) : Res :=
  match e with
  | .wait d => { dev := d }
  | .stop st acc a d => { dev := d.modTransfer k accept index (fun t => { t with status := st, access := acc, fault := a }) }
  | .step d es => { dev := d, mem := es }

end Sys2Proof.Machine
end

