-- ==== Sys2Proof/Machine/Vector.lean ====
section
/-! DEFINITION. The vector unit (R138 to R146) and the completion of commands of engines and vector units (R122 to
R124). -/

namespace Sys2Proof.Machine

/-- The vector unit's queue (R159). -/
def vecQueue : Nat := 4

/-- Whether an array lies in what the vector unit may name (R138, R173): core memory, in FLAT the whole scratchpad. -/
def Dev.vecOk (d : Dev) (core a n align : Nat) : Bool :=
  a % align = 0 && 0x01000000 ≤ a && a + n ≤ (if d.flat (core / 12) then 0x03000000 else 0x02200000)

/-- The lanes that process elements: i mod 128 in deterministic mode, otherwise lanes that nothing fixes (R105, R139).
DESIGN CHOICE, log 62. -/
def Dev.lanes (d : Dev) (c : CtxId) (n : Nat) : List Nat × Dev :=
  if d.det c then ((List.range n).map (· % 128), d)
  else
    let r := (List.range n).foldl (fun (a : List Nat × Dev) _ =>
      let (v, d) := a.2.draw
      (v.toNat % 128 :: a.1, d)) ([], d)
    (r.1.reverse, r.2)

/-- The draws of n elements from the generators of a unit value of R103: `w` bits each (R105). -/
def Dev.laneDraws (d : Dev) (core unit w : Nat) (lanes : List Nat) : List Nat × Dev :=
  d.genDraws (lanes.map (genKey core unit)) w

/-- The draws of a conversion by the vector unit: from the rounding generators, under SR only (R102, R105). -/
def Dev.vecConvDraws (d : Dev) (c : CtxId) (core n : Nat) (cv : Conv) : List Nat × Dev :=
  if cv.mode = rSR then
    let (ls, d) := d.lanes c n
    d.laneDraws core 4 16 ls
  else ((List.range n).map (fun _ => 0), d)

/-- Whether a vector command accepts a format: neither block-scaled nor reserved (R140). -/
def vecFmt (f : Nat) : Bool := fmtOk f && fmtBlock f = 0

/-- An element as an FP32 value: converted by RNE with the command's OVF and FTZ (R140). -/
def toFp32 (cv : Conv) (f code : Nat) : Num × Nat :=
  let (x, s1) := elemValue f cv.ftz code
  let (b, s2) := convOne f fFP32 ⟨0, cv.nonsat, cv.ftz⟩ 0 x
  (num32 b, s1 ||| s2)

/-! ### VEW (R140, R141) -/

/-- Which of a, b, c a sub-operation uses (R141). -/
def vewUses (op : Nat) : Option (Bool × Bool × Bool) :=
  if op ≤ 2 || op = 4 || op = 5 || op = 10 then some (true, true, false)
  else if op = 3 || op = 9 then some (true, true, true)
  else if op ≤ 19 then some (true, false, false)
  else none

/-- The larger of two values (R141): NaN if either is; +0 over −0. -/
def numMax (x y : Num) : Num :=
  if x.isNan || y.isNan then .nan
  else if x.isZero && y.isZero then (if x.neg then y else x)
  else if y.gt x then y else x

/-- The smaller of two values (R141): NaN if either is; −0 under +0. -/
def numMin (x y : Num) : Num :=
  if x.isNan || y.isNan then .nan
  else if x.isZero && y.isZero then (if x.neg then x else y)
  else if x.gt y then y else x

/-- a × b + c with one rounding (R141). -/
def fma32 (a b c : Num) : Num × Nat :=
  if a.isNan || b.isNan || c.isNan then (.nan, 0)
  else
    let (p, s1) := a.mul b
    let (x, s2) := p.add c
    round32 (x, s1 ||| s2)

/-- A function whose domain excludes negative values (R141). -/
def posFn (fn : Nat) (a : Num) : Num × Nat := if !a.isNan && !a.isZero && a.neg then (.nan, fpNV) else approxFn fn a

/-- The sub-operations on FP32 values (R141). -/
def vewFp (op : Nat) (a b c : Num) : Num × Nat :=
  match op with
  | 0 => round32 (a.add b)
  | 1 => round32 (a.add b.negate)
  | 2 => round32 (a.mul b)
  | 3 => fma32 a b c
  | 4 => (numMax a b, 0)
  | 5 => (numMin a b, 0)
  | 6 => (a.abs, 0)
  | 7 => (a.negate, 0)
  | 8 => (a, 0)
  | 9 => (if c.isZero then b else a, 0)
  | 10 => (if a.gt b then .fin false 1 0 else .zero, 0)
  | 11 => sqrt32 a
  | 12 => approxFn fnRecip a
  | 13 => posFn fnRsqrt a
  | 14 => approxFn fnExp a
  | 15 => posFn fnLog a
  | 16 => actFn 7 .zero a
  | 17 => actFn 6 .zero a
  | 18 => actFn 3 .zero a
  | _ => actFn 5 .zero a

/-- The sub-operations that 32-bit two's complement serves (R140). -/
def vewIntOp (op : Nat) : Bool := op = 0 || op = 1 || op = 2 || (4 ≤ op && op ≤ 10)

/-- The sub-operations on integers, saturating (R140, R141). -/
def vewInt (op : Nat) (a b c : Int) : Int × Nat :=
  let v := match op with
    | 0 => a + b
    | 1 => a - b
    | 2 => a * b
    | 4 => max a b
    | 5 => min a b
    | 6 => (a.natAbs : Int)
    | 7 => -a
    | 8 => a
    | 9 => if c = 0 then b else a
    | _ => if b < a then 1 else 0
  if v < -(2 ^ 31) then (-(2 ^ 31), fpISAT) else if 2 ^ 31 - 1 < v then (2 ^ 31 - 1, fpISAT) else (v, 0)

/-- An operand of a VEW: whether it is used, broadcast, its format and address. -/
structure VewSrc where
  used : Bool
  bcast : Bool
  fmt : Nat
  addr : Nat

/-- The span of an operand: element 0 alone where it is broadcast; none where it is not used. -/
def VewSrc.span (o : VewSrc) (n : Nat) : List Span := if o.used then [(o.addr, elemBytes o.fmt (if o.bcast then 1 else n))] else []

/-- The codes of an operand, one for each element. -/
def VewSrc.codes (o : VewSrc) (n : Nat) (bs : Bytes) : List Nat :=
  if !o.used then List.replicate n 0
  else if o.bcast then List.replicate n ((unpackCodes o.fmt 1 bs).getD 0 0)
  else unpackCodes o.fmt n bs

/-- The poison of an operand by element. -/
def Dev.srcPoison (d : Dev) (m : Mem) (core n : Nat) (o : VewSrc) : List Bool :=
  if !o.used then List.replicate n false
  else if o.bcast then List.replicate n (d.spanPoison m core (o.addr, elemBytes o.fmt 1))
  else d.cellPoison m core o.fmt n 1 [(o.addr, elemBytes o.fmt n)]

/-- VEW.
DEDUCED, log 64. -/
def Dev.vew (core : Nat) (c : CtxId) (x : QCmd) (m : Mem) (d : Dev) : CmdEnd :=
  let b := x.bytes
  let op := rd b 6 2
  let n := rd b 0x18 4
  let bc := rdb b 0x1F
  let df := rdb b 0x1D / 16
  match vewUses op with
  | none => .fail csBadOpcode d
  | some (ua, ub, uc) =>
    let oa : VewSrc := ⟨ua, bit bc 0, rdb b 0x1C % 16, rd b 8 4⟩
    let ob : VewSrc := ⟨ub, bit bc 1, rdb b 0x1C / 16, rd b 0xC 4⟩
    let oc : VewSrc := ⟨uc, bit bc 2, rdb b 0x1D % 16, rd b 0x10 4⟩
    let os := [oa, ob, oc].filter (·.used)
    match convOf (rdb b 0x1E) with
    | none => .fail csBadFormat d
    | some cv =>
      if !vecFmt df || os.any (fun o => !vecFmt o.fmt) then .fail csBadFormat d
      else if n = 0 || 2 ^ 24 < n then .fail csBadShape d
      else
        let reads := os.flatMap (fun o => o.span n)
        let dst : Span := (rd b 0x14 4, elemBytes df n)
        if (dst :: reads).any (fun s => !d.vecOk core s.1 s.2 4) then .fail csBadAddr d
        else d.guarded m c core (vecUnit core) reads [dst] [] (fun un d =>
          let codes := fun (o : VewSrc) => o.codes n ((o.span n).flatMap (d.readSpan m core))
          let isInt := fun (f : Nat) => f = fINT8 || f = fINT32
          let int := vewIntOp op && isInt df && os.all (fun o => isInt o.fmt)
          let ins := ((codes oa).zip (codes ob)).zip (codes oc)
          let outs : List (Num × Nat) := ins.map (fun (e : (Nat × Nat) × Nat) =>
            if int then
              let i := fun (o : VewSrc) (v : Nat) => toSigned v (fmtBits o.fmt)
              let (v, st) := vewInt op (i oa e.1.1) (i ob e.1.2) (i oc e.2)
              (.ofInt v, st)
            else
              let f := fun (o : VewSrc) (v : Nat) => if o.used then toFp32 cv o.fmt v else (Num.zero, 0)
              let (va, sa) := f oa e.1.1
              let (vb, sb) := f ob e.1.2
              let (vc, sc) := f oc e.2
              let (v, st) := vewFp op va vb vc
              let (v, sf) := flushed cv.ftz v
              (v, sa ||| sb ||| sc ||| st ||| sf))
          let (rs, d) := d.vecConvDraws c core n cv
          let (bs, _, st) := encodeElems (if int then fINT32 else fFP32) df cv rs (outs.map (·.1))
          let ps := ((d.srcPoison m core n oa).zip ((d.srcPoison m core n ob).zip (d.srcPoison m core n oc))).map
            (fun (p : Bool × Bool × Bool) => p.1 || p.2.1 || p.2.2)
          .done (st ||| orAll (outs.map (·.2))) (ps.any id) un d (d.spanEffs core (linePieces dst.1 (elemBytes df 1) bs ps)))

/-! ### VRED (R142) -/

/-- How two results are joined (R142): SUM and SUMSQ add, MAX and MIN choose. -/
def redJoin (op : Nat) (x y : Num × Nat) : Num × Nat :=
  let st := x.2 ||| y.2
  if op ≤ 1 then
    let (v, s) := round32 (x.1.add y.1)
    (v, st ||| s)
  else if op = 2 then (numMax x.1 y.1, st) else (numMin x.1 y.1, st)

/-- A lane's first element: SUMSQ squares it (R142). -/
def redFirst (op : Nat) (x : Num) : Num × Nat := if op = 1 then round32 (x.mul x) else (x, 0)

/-- A lane combines a further element: SUMSQ by one fused multiply-add (R138, R142). -/
def redNext (op : Nat) (acc : Num × Nat) (x : Num) : Num × Nat :=
  if op = 1 then
    let (v, s) := fma32 x x acc.1
    (v, acc.2 ||| s)
  else redJoin op acc (x, 0)

/-- One level of the tree: lanes 2i and 2i + 1 are joined; a missing partner passes its sibling up (R142). -/
def redLevel (op : Nat) : List (Num × Nat) → List (Num × Nat)
  | x :: y :: xs => redJoin op x y :: redLevel op xs
  | xs => xs

/-- The result of a row (R142): the lanes in increasing order, then seven levels.
DEDUCED, log 66. -/
def redRow (op : Nat) (xs : List Num) : Num × Nat :=
  let lanes := (List.range (Nat.min 128 xs.length)).map (fun l =>
    let es := (List.range (ceilDiv (xs.length - l) 128)).map (fun i => xs.getD (l + 128 * i) .nan)
    match es with
    | [] => (Num.zero, 0)
    | y :: ys => ys.foldl (redNext op) (redFirst op y))
  ((redLevel op (redLevel op (redLevel op (redLevel op (redLevel op (redLevel op (redLevel op lanes))))))).head?).getD (.zero, 0)

/-- The index of the first NaN, or else of the first maximum (R142). -/
def argMax (xs : List Num) : Nat :=
  match xs.findIdx? (·.isNan) with
  | some i => i
  | none => (xs.zipIdx.foldl (fun (b : Num × Nat) (x : Num × Nat) => if x.1.gt b.1 then x else b)
      ((xs.head?).getD .zero, 0)).2

/-- VRED. -/
def Dev.vred (core : Nat) (c : CtxId) (x : QCmd) (m : Mem) (d : Dev) : CmdEnd :=
  let b := x.bytes
  let op := rd b 6 2
  let rows := rd b 0x10 4
  let len := rd b 0x14 4
  let stride := rd b 0x18 4
  let sf := rdb b 0x1C % 16
  let df := rdb b 0x1C / 16
  if 4 < op then .fail csBadOpcode d
  else match convOf (rdb b 0x1D) with
  | none => .fail csBadFormat d
  | some cv =>
    if !vecFmt sf || !vecFmt df || (op = 4 && df ≠ fINT32) then .fail csBadFormat d
    else if rows = 0 || len = 0 || 2 ^ 24 < rows * len then .fail csBadShape d
    else
      let nb := elemBytes sf len
      let reads : List Span := (List.range rows).map (fun j => (rd b 8 4 + j * stride, nb))
      let dst : Span := (rd b 0xC 4, elemBytes df rows)
      if stride % 4 ≠ 0 || (dst :: reads).any (fun s => !d.vecOk core s.1 s.2 4) then .fail csBadAddr d
      else d.guarded m c core (vecUnit core) reads [dst] [] (fun un d =>
        let outs : List (Num × Nat) := reads.map (fun s =>
          let xs := (unpackCodes sf len (d.readSpan m core s)).map (toFp32 cv sf)
          let st := orAll (xs.map (·.2))
          let vs := xs.map (·.1)
          if op = 4 then (.ofInt (argMax vs), st)
          else
            let (v, s1) := redRow op vs
            let (v, s2) := flushed cv.ftz v
            (v, st ||| s1 ||| s2))
        let (ls, d) := if cv.mode = rSR then (List.range rows).foldl (fun (a : List Nat × Dev) _ =>
            let (v, d) := a.2.draw
            (a.1 ++ [v.toNat % 128], d)) ([], d) else ([], d)
        let (rs, d) := if cv.mode = rSR then d.laneDraws core 4 16 ls else ((List.range rows).map (fun _ => 0), d)
        let (bs, _, st) := encodeElems (if op = 4 then fINT32 else fFP32) df cv rs (outs.map (·.1))
        let ps := reads.map (d.spanPoison m core)
        .done (st ||| orAll (outs.map (·.2))) (ps.any id) un d (d.spanEffs core (linePieces dst.1 (elemBytes df 1) bs ps)))

/-! ### VCVT (R143) -/

/-- VCVT. -/
def Dev.vcvt (core : Nat) (c : CtxId) (x : QCmd) (m : Mem) (d : Dev) : CmdEnd :=
  match cvtUse x (d.vecOk core) id with
  | .error st => .fail st d
  | .ok u =>
    d.guarded m c core (vecUnit core) u.src u.dst [] (fun un d =>
      let (ls, d) := if u.cv.mode = rSR then d.lanes c u.count else ((List.range u.count).map (fun _ => 0), d)
      u.run m core (ls.map (genKey core 4)) un d)

/-! ### VRAND (R144) -/

/-- The value of one element of VRAND from its draws (R144): MASK, UNIFORM, NORMAL. -/
def randValue (op p0 p1 thr r1 r2 : Nat) : Num × Nat :=
  match op with
  | 0 => (if thr ≤ r1 then num32 p0 else .zero, 0)
  | 1 =>
    let (w, s1) := round32 ((num32 p1).add (num32 p0).negate)
    let (v, s2) := fma32 w (.fin false r1 (-24)) (num32 p0)
    (v, s1 ||| s2)
  | _ =>
    let (l, s1) := approxFn fnLog (.fin false (r1 + 1) (-24))
    let (p, s2) := round32 (l.mul (.fin true 2 0))
    let (q, s3) := sqrt32 p
    let (t, s4) := approxFn fnTwoPi (.fin false r2 (-24))
    let (k, s5) := approxFn fnCos t
    let (z, s6) := round32 (q.mul k)
    let (v, s7) := fma32 (num32 p1) z (num32 p0)
    (v, orAll [s1, s2, s3, s4, s5, s6, s7])

/-- VRAND. -/
def Dev.vrand (core : Nat) (c : CtxId) (x : QCmd) (m : Mem) (d : Dev) : CmdEnd :=
  let b := x.bytes
  let op := rd b 6 2
  let n := rd b 0xC 4
  let width := rdb b 0x1A
  let purpose := rdb b 0x1B
  let df := rdb b 0x1C % 16
  if 3 < op then .fail csBadOpcode d
  else match convOf (rdb b 0x1D) with
  | none => .fail csBadFormat d
  | some cv =>
    if !vecFmt df || (op = 3 && df ≠ fINT32) || (op ≠ 0 && (purpose = 0 || 3 < purpose)) then .fail csBadFormat d
    else if n = 0 || 2 ^ 24 < n || (op = 3 && (width = 0 || 32 < width)) then .fail csBadShape d
    else
      let dst : Span := (rd b 8 4, elemBytes df n)
      if !d.vecOk core dst.1 dst.2 4 then .fail csBadAddr d
      else d.guarded m c core (vecUnit core) [] [dst] [] (fun un d =>
        let (ls, d) := d.lanes c n
        let unit := if op = 0 then 5 else 4 + purpose
        let w := if op = 0 then 16 else if op = 3 then width else 24
        let r := ls.foldl (fun (a : List (Nat × Nat) × Dev) l =>
          let (r1, d) := a.2.genDraw (genKey core unit l) w
          let (r2, d) := if op = 2 then d.genDraw (genKey core unit l) w else (0, d)
          ((r1, r2) :: a.1, d)) ([], d)
        let outs : List (Num × Nat) := r.1.reverse.map (fun (e : Nat × Nat) =>
          if op = 3 then (.ofInt (toSigned e.1 32), 0)
          else
            let (v, st) := randValue op (rd b 0x10 4) (rd b 0x14 4) (rd b 0x18 2) e.1 e.2
            let (v, sf) := flushed cv.ftz v
            (v, st ||| sf))
        let (rs, d) := if cv.mode = rSR then r.2.laneDraws core 4 16 ls else (ls.map (fun _ => 0), r.2)
        let (bs, _, st) := encodeElems (if op = 3 then fINT32 else fFP32) df cv rs (outs.map (·.1))
        .done (st ||| orAll (outs.map (·.2))) false un d (d.spanEffs core [(dst.1, bs, false)]))

/-! ### VSEED (R145, R146) -/

/-- VSEED: it waits for what the engines that it names had accepted before it. -/
def Dev.vseed (core : Nat) (c : CtxId) (x : QCmd) (_m : Mem) (d : Dev) : CmdEnd :=
  let b := x.bytes
  let units := rdb b 0x10
  let first := rdb b 0x11
  let n := rdb b 0x12
  let engs := bitsOf units 4
  if n = 0 || 128 < first + n then .fail csBadShape d
  else if engs.any (fun k => !d.admitted (engGroup core k)) then .fail csNotIn d
  else if engs.any (fun k => (d.queAt core k).cmds.any (fun y => notAfter y.accept (x.after.getD k 0))) then .wait
  else
    let y := d.ctxAt c
    let rank := (y.loaded.map (·.rank)).getD 0
    let keys := (bitsOf units 8).flatMap (fun u => (List.range n).map (fun i => (u, first + i)))
    .done 0 false false (keys.foldl (fun d (e : Nat × Nat) =>
      let v := BitVec.ofNat 64 (seedOf (rd b 8 8) (streamNo rank (y.genDie core) (core % 12) e.1 e.2))
      { d with gens := tblSet 0 d.gens (genKey core e.1 e.2) v }) d) []

/-! ### Completion (R122 to R124, R127) -/

/-- Whether an opcode is one of the kind of unit that a queue serves (R127, R212). -/
def queueOp (q op : Nat) : Bool :=
  if q < 4 then 1 ≤ op && op ≤ 7 else if q = 4 then 0x10 ≤ op && op ≤ 0x14 else 0x20 ≤ op && op ≤ 0x25

/-- The front command of an engine's or vector unit's queue completes: one that has been executed, or one with an opcode that
is not the unit's, which fails with BAD_OPCODE.  After a halt nothing completes (R125). -/
def Dev.completeFront (d : Dev) (core q : Nat) : Dev :=
  match d.holder core, (d.queAt core q).cmds with
  | some c, x :: _ =>
    if (d.ctxAt c).state ≠ .running then d
    else match x.result with
      | some w => d.endCmd c core q x w
      | none =>
        if (d.frontCmd core q).isSome && !queueOp q x.op then
          d.endCmd c core q x (if d.admitted (queueGroup core q) then csBadOpcode else csNotIn)
        else d
  | _, _ => d

/-- Runs a command of a vector unit. -/
def vectorAct (u : CoreRef) (op : Nat) (body : Nat → CtxId → QCmd → Mem → Dev → CmdEnd) : Act :=
  runFront (coreNo u.die.val u.core.val) vecQueue op (body (coreNo u.die.val u.core.val))

/-- VEW (R138 to R141). -/
def execVew (u : CoreRef) (s : State) : Host.Outcome State Fault Refusal := .next (s.run (vectorAct u 0x10 Dev.vew))

/-- VRED (R142). -/
def execVred (u : CoreRef) (s : State) : Host.Outcome State Fault Refusal := .next (s.run (vectorAct u 0x11 Dev.vred))

/-- VCVT (R143). -/
def execVcvt (u : CoreRef) (s : State) : Host.Outcome State Fault Refusal := .next (s.run (vectorAct u 0x12 Dev.vcvt))

/-- VRAND (R144). -/
def execVrand (u : CoreRef) (s : State) : Host.Outcome State Fault Refusal := .next (s.run (vectorAct u 0x13 Dev.vrand))

/-- VSEED (R145, R146). -/
def execVseed (u : CoreRef) (s : State) : Host.Outcome State Fault Refusal := .next (s.run (vectorAct u 0x14 Dev.vseed))

end Sys2Proof.Machine
end

