-- ==== Sys2Proof/Machine/StreamCmd.lean ====
section
/-! DEFINITION. Stream commands and descriptors (R206 to R239): how they start, complete and stop; markers, handles and the
position record. -/

namespace Sys2Proof.Machine

/-! ### The next command of an engine -/

/-- The unit of a stream row. -/
def strOf (u : StreamRef) : Nat := 2 * coreNo u.die.val u.core.val + u.s.val

/-- The context for which an engine works: the holder of its core while it runs and the engine's queue does (R237, R241). -/
def Dev.strCtx (d : Dev) (k : Nat) : Option CtxId :=
  match d.holder (strCore k) with
  | some c => if (d.ctxAt c).state = .running && !(d.queAt (strCore k) (strQueue k)).stopped then some c else none
  | none => none

/-- The command that an engine starts next (R208, R226, R237): the first that has not begun, with nothing in the way: no
failure, no marker, no chain; with FENCE, nothing before it. -/
def Dev.nextCmd (d : Dev) (k : Nat) : Option (CtxId × QCmd) :=
  let s := d.strAt k
  let cmds := (d.queAt (strCore k) (strQueue k)).cmds
  match d.strCtx k, cmds.find? (fun x => x.result.isNone && !s.mine.any (fun t => t.accept = x.accept)) with
  | some c, some x =>
    let clear := s.stopper.isNone && s.marker.isNone && s.chain.isNone
    let fenced := x.fence && !(s.mine.isEmpty && cmds.head? = some x)
    if clear && !fenced && (!d.locked c || x.beat = d.time.beat) then some (c, x) else none
  | _, _ => none

/-- Whether a transfer slot is free: ring moves that wait come first (R207, R233). -/
def Stream.hasSlot (s : Stream) : Bool := s.slots < 6 && s.ownWait.isEmpty

/-- Adds a transfer in start order. -/
def Dev.addTransfer (d : Dev) (k : Nat) (t : Transfer) : Dev := d.modStr k (fun s => { s with transfers := s.transfers ++ [t] })

/-- How the start of a command or descriptor ends. -/
inductive StartEnd where
  /-- It cannot start yet. -/
  | wait
  /-- It fails: status, access and address (R235). -/
  | fail (status access addr : Nat) (dev : Dev)
  | go (dev : Dev) (mem : List MemEff)

/-- A command with FENCE starts: the descriptors behind it are what they are now (R214, R226). -/
def Dev.fenceSees (d : Dev) (m : Mem) (k : Nat) (x : QCmd) : Dev := if x.fence then d.seeAgain m (strCore k) (strQueue k) else d

/-- Starts the next command where its opcode is `op`; a command that fails stays as a transfer that stops the engine (R237). -/
def startCmd (u : StreamRef) (op : Nat) (body : Nat → CtxId → QCmd → Mem → Dev → StartEnd) : Act := fun _ m d =>
  let k := strOf u
  match d.nextCmd k with
  | none => { dev := d }
  | some (c, x) =>
    let t := { Transfer.init with accept := x.accept, cmd := x.bytes }
    if x.op ≠ op then { dev := d }
    else if !d.admitted (csGroup (strCore k)) then { dev := d.addTransfer k { t with status := csNotIn } }
    else match body k c x m (d.fenceSees m k x) with
      | .wait => { dev := d }
      | .fail st acc a d => { dev := d.addTransfer k { t with status := st, access := acc, fault := a } }
      | .go d es => { dev := d, mem := es }

/-- A command that takes no transfer is done; it completes in its turn (R208). -/
def Dev.doneCmd (d : Dev) (k accept : Nat) : Dev :=
  d.modCmd (strCore k) (strQueue k) accept (fun y => { y with result := some 0 })

/-! ### Checks -/

/-- Whether `p` holds of every number below one, the highest first. -/
def allBelow (p : Nat → Bool) : Nat → Bool
  | 0 => true
  | n + 1 => p n && allBelow p n

/-- Whether a range lies in the core memory of a core: the scratchpad apart from operand buffers, or the FLAT share (R172). -/
def Dev.inCoreMem (d : Dev) (core a n : Nat) : Bool :=
  (0x01000000 ≤ a && a + n ≤ 0x02200000) || (d.flat (core / 12) && 0x02800000 ≤ a && a + n ≤ 0x03000000)

/-- The destination address of a run (R218), where no index decides it. -/
def dsRunAddr (b : Bytes) (run : Nat) : Nat :=
  let i := fun (n : Nat) => (n : Int)
  match dsKind b with
  | 2 => addr64 (dsDst b) (dsStride b 0x30 * i (run / dsCount1 b) + dsStride b 0x24 * i (run % dsCount1 b))
  | 5 =>
    let rows := 64 / dsLen b
    addr64 (dsDst b) (dsStride b 0x24 * i (run / rows) + dsStride b 0x30 * i (run % rows))
  | _ => dsDst b

/-- One destination range of a multicast on one die: the STATUS that refuses it (R174, R232, R268). -/
def Dev.castCheck (d : Dev) (c : CtxId) (die addr n : Nat) : Nat :=
  if 2 ^ 32 < addr + n then 4
  else (pageParts addr n).foldl (fun st p =>
    if st ≠ 0 then st
    else match d.dieLocal die p.1, d.dieLocal die (p.1 + p.2 - 1) with
      | some pl, some _ =>
        match pl with
        | .mem _ => if !d.placeIn pl then 6 else match (d.right c pl).1 with
          | .yes => 0
          | .readOnly => 5
          | .killed => 0x10
          | .no => 9
        | _ => 9
      | _, _ => 4) 0

/-- The checks of R232, in the order of its table: 0 where all pass.
DEDUCED, log 99. -/
def Dev.mcastCheck (d : Dev) (c : CtxId) (b : Bytes) : Nat :=
  let dies := bitsOf (dsMask b) 8
  let n := dsRunDst b
  let passes := fun (st : Nat) =>
    dies.all (fun die => allBelow (fun r => d.castCheck c die (dsRunAddr b r) n ≠ st) (dsRuns b))
  if dies.isEmpty || dsKind b = 3 || dsKind b = 4 || dsBram b ≠ 0 || n < 64 then 3
  else if dsDstKind b ≠ 1 || dsSrcKind b = 3 then 4
  else if !dies.all (fun die => d.admitted (aonGroup die)) then 6
  else match [6, 4, 9, 5, 0x10].find? (fun st => !passes st) with
    | some st => st
    | none => 0

/-- Whether a format may be converted by a stream engine (R220).
DEDUCED, log 88. -/
def dsConvertible (f : Nat) : Bool := f ≤ 4 || f = 8 || f = 10

/-- Whether every transposed read of a descriptor keeps R179; an address that leads nowhere fails when it is read. -/
def Dev.tilesOk (d : Dev) (m : Mem) (c : CtxId) (core : Nat) (b : Bytes) : Bool :=
  allBelow (fun i =>
    match (d.aim m c core (dsSrcKind b) (addr64 (dsSrc b) (dsStride b 0x20 * (i : Int))) false).1 with
    | .here (.mem a) => (d.tileLines core a).isSome
    | .here _ => false
    | .remote _ _ => false
    | .bad _ => true) (dsCount1 b)

/-- Whether a count is one of 1 to 2³¹ (R213, R217). -/
def countOk (n : Nat) : Bool := 1 ≤ n && n ≤ 2 ^ 31

/-- The first row of R222: KIND, IFMT, BRAM and the reserved fields.
DEDUCED, log 87. -/
def dsShapeOk (b : Bytes) : Bool :=
  let kind := dsKind b
  let hq := fun (v : Nat) => v ≤ 7 || v = 15
  let idx := kind = 3 || kind = 4
  1 ≤ kind && kind ≤ 5 && rdb b 1 < 32 && rdb b 2 < 64 && rdb b 4 < 32 && rdb b 0x37 = 0 && rd b 6 2 < 4096
    && rd b 0x3A 2 < (if dsFlag b 4 then 64 else 4096)
    && (!idx || (1 ≤ rdb b 0x34 && rdb b 0x34 ≤ 4))
    && dsBram b ≠ 3 && (dsBram b = 0 || (kind = 1 && !dsMcast b && dsSrcKind b ≠ 3 && dsDstKind b ≠ 3))
    && hq (dsHin b) && hq (dsHret b) && hq (dsHout b) && (dsHcore b ≤ 11 || dsHcore b = 15)

/-- The second row of R222: counts, lengths, SEG and tile regions. -/
def Dev.dsRangeOk (d : Dev) (m : Mem) (c : CtxId) (core : Nat) (b : Bytes) : Bool :=
  let kind := dsKind b
  (kind = 1 || countOk (dsCount1 b)) && (kind ≠ 2 || countOk (dsCount2 b)) && (segBytes (rdb b 0x36)).isSome
    && (if kind = 5 then (dsLen b = 1 || dsLen b = 2 || dsLen b = 4) && d.tilesOk m c core b
        else countOk (dsLen b) || (dsLen b = 0 && dsHin b ≠ 15))

/-- The third row of R222: address kinds. -/
def dsKindsOk (b : Bytes) : Bool :=
  let hs := dsSrcKind b = 3
  let hd := dsDstKind b = 3
  let idx := dsKind b = 3 || dsKind b = 4
  !(idx && dsIdxKind b = 3) && (!(hs || hd) || dsHin b ≠ 15) && !(hs && hd) && (dsHout b = 15 || dsDstKind b ≤ 1)

/-- The fourth row of R222: formats (R77, R220). -/
def dsFormatOk (b : Bytes) : Bool :=
  dsSfmt b ≤ 10 && dsDfmt b ≤ 10 && (!dsConv b
    || (dsConvertible (dsSfmt b) && dsConvertible (dsDfmt b) && rdb b 4 % 8 ≤ 3 && dsKind b ≠ 5))

/-- Whether LEN is whole elements of the source format where there is a conversion (R220). -/
def dsLenOk (b : Bytes) : Bool := !dsConv b || dsBram b = 2 || dsLen b % (dsSizes b).1 = 0

/-- The checks of R222 and R232 on a descriptor: the status of the first that fails, 0 where all pass. -/
def Dev.dsCheck (d : Dev) (m : Mem) (c : CtxId) (core : Nat) (b : Bytes) : Nat :=
  if !dsShapeOk b || !d.dsRangeOk m c core b then 3
  else if !dsKindsOk b then 4
  else if !dsFormatOk b then 2
  else if !dsLenOk b then 3
  else if dsMcast b then d.mcastCheck c b else 0

/-! ### Commands (R213 to R216) -/

/-- The LINEAR descriptor that does the work of an XFER or SHORT. -/
def linearDesc (src dst srcKind dstKind len seg : Nat) (mcast : Bool) (mask : Nat) : Bytes :=
  leBytes 1 1 ++ leBytes 1 (8 * b2n mcast) ++ leBytes 1 (srcKind + 4 * dstKind) ++ zeros 5 ++ leBytes 8 src ++ leBytes 8 dst
    ++ leBytes 4 len ++ zeros 25 ++ leBytes 1 mask ++ leBytes 1 seg ++ zeros 1 ++ leBytes 2 0xFFFF ++ zeros 6

/-- XFER. -/
def xferStart (k : Nat) (c : CtxId) (x : QCmd) (_m : Mem) (d : Dev) : StartEnd :=
  let b := x.bytes
  let am := rdb b 0x1C
  let desc := linearDesc (rd b 8 8) (rd b 0x10 8) (field am 0 2) (field am 2 2) (rd b 0x18 4) (rdb b 0x1D) (bit am 4) (rdb b 0x1E)
  if !(d.strAt k).hasSlot then .wait
  else if !countOk (dsLen desc) || (segBytes (rdb b 0x1D)).isNone then .fail 3 0 0 d
  else if dsSrcKind desc = 3 || dsDstKind desc = 3 then .fail 4 (b2n (dsSrcKind desc ≠ 3)) 0 d
  else
    let st := if bit am 4 then d.mcastCheck c desc else 0
    if st ≠ 0 then .fail st 1 (dsDst desc) d
    else .go (d.addTransfer k { Transfer.init with accept := x.accept, cmd := b, desc := desc }) []

/-- CHAIN: its descriptors start one by one (R214). -/
def chainStart (k : Nat) (_c : CtxId) (x : QCmd) (_m : Mem) (d : Dev) : StartEnd :=
  let a := rd x.bytes 8 4
  let n := rd x.bytes 0xC 2
  if n = 0 then .fail 3 3 0 d
  else if a % 64 ≠ 0 || !d.inCoreMem (strCore k) a (64 * n) then .fail 4 3 a d
  else .go (d.modStr k (fun s => { s with chain := some ⟨x.accept, x.bytes, 0, none⟩ })) []

/-- Issues all of a short write that takes no slot (R215): it waits whole where any of it must wait. -/
def issueAll (c : CtxId) (k accept : Nat) : Nat → Mem → Dev → List MemEff → StartEnd
  | 0, _, d, es => .go d es
  | n + 1, m, d, es =>
    match (d.strAt k).mine.find? (fun t => t.is accept 0) with
    | none => .go d es
    | some t =>
      if t.issued then .go d es
      else match d.issueStep m c k t with
        | .wait _ => .wait
        | .stop st acc a d => .go (d.modTransfer k accept 0 (fun t => { t with status := st, access := acc, fault := a })) es
        | .step d es' => issueAll c k accept n (m.apply es') d (es ++ es')

/-- SHORT (R215, R230). -/
def shortStart (k : Nat) (c : CtxId) (x : QCmd) (m : Mem) (d : Dev) : StartEnd :=
  let b := x.bytes
  let n := rd b 0x14 2
  let src := rd b 0x10 4
  let dk := field (rdb b 0x16) 2 2
  if n = 0 || 256 < n then .fail 3 0 0 d
  else if dk = 3 then .fail 4 1 (rd b 8 8) d
  else if !d.inCoreMem (strCore k) src n then .fail 4 0 src d
  else
    let t := { Transfer.init with accept := x.accept, cmd := b, desc := linearDesc src (rd b 8 8) 0 dk n 0 false 0 }
    issueAll c k x.accept 16 m (d.addTransfer k t) []

/-- A marker on an object or counter (R216, R226); none where the identifier is not bound (R265).
DEDUCED, log 93. -/
def Dev.markerOf (d : Dev) (c : CtxId) (core kind id value : Nat) : Option Marker :=
  if kind = 1 then (d.physOf c (core / 12) (id % 4096)).map (fun _ => ⟨1, id % 4096, value, false⟩)
  else some ⟨kind, id % 64, value, false⟩

/-- SDEP (R216). -/
def sdepStart (k : Nat) (c : CtxId) (x : QCmd) (_m : Mem) (d : Dev) : StartEnd :=
  let b := x.bytes
  if 2 < rdb b 8 then .fail 3 0 0 d
  else match d.markerOf c (strCore k) (rdb b 8) (rd b 0xA 2) (rd b 0x10 8) with
    | none => .fail 4 0 0 d
    | some mark => .go (d.modStr k (fun s => { s with marker := some mark })) []

/-- How a push of a handle ends. -/
inductive PushEnd where
  | wait
  | fail (status : Nat)
  | done (dev : Dev)

/-- Pushes a handle to a queue of a core (R229). -/
def Dev.pushHandle (d : Dev) (c : CtxId) (core q : Nat) (h : W64) : PushEnd :=
  if !(d.ctxAt c).cores.contains core then .fail 9
  else if !d.admitted (csGroup core) then .fail 6
  else if 32 ≤ (d.handleQueue core q).length then .wait
  else .done (d.putHandles core q (d.handleQueue core q ++ [h]))

/-- HPUSH (R216, R228, R229). -/
def hpushStart (k : Nat) (c : CtxId) (x : QCmd) (_m : Mem) (d : Dev) : StartEnd :=
  let b := x.bytes
  let n := rdb b 0x11
  if 11 < n && n ≠ 0xFF then .fail 3 1 0 d
  else
    let core := if n = 0xFF then strCore k else coreNo (strCore k / 12) n
    match d.pushHandle c core (rdb b 0x10 % 8) (BitVec.ofNat 64 (rd b 8 8)) with
    | .wait => .wait
    | .fail st => .fail st 1 0 d
    | .done d => .go (d.doneCmd k x.accept) []

/-- SSAVE (R216).
DEDUCED, log 92. -/
def ssaveStart (k : Nat) (_c : CtxId) (x : QCmd) (_m : Mem) (d : Dev) : StartEnd :=
  let a := rd x.bytes 8 4
  let f := rd x.bytes 0xC 2
  if a ≠ 0 && (a % 256 ≠ 0 || !d.inCoreMem (strCore k) a 256) then .fail 4 1 a d
  else
    let d := d.modStr k (fun s => { s with
      save := if a = 0 then none else some a,
      fsync := if f = 0xFFFF then none else some (f % 4096) })
    .go (d.doneCmd k x.accept) []

/-! ### Descriptors of a chain (R214, R222, R226) -/

/-- How the read of a descriptor ends. -/
inductive DescEnd where
  | wait
  | fail (dev : Dev) (addr : Nat)
  | desc (b : Bytes) (poison uninit : Bool) (dev : Dev)

/-- What a descriptor of a chain may read as it was: its line when the CHAIN was accepted or a marker was last released (R214). -/
def Dev.oldDesc (d : Dev) (m : Mem) (k accept line : Nat) : Option Past :=
  (d.pastAt (strCore k) (strQueue k)).find? (fun p => p.accept = accept && p.line = line && m.differs p)

/-- Reads 64 bytes of a descriptor (R214, R225): as they are or, freely, as they were.
DESIGN CHOICE, log 86. -/
def Dev.readDesc (d : Dev) (m : Mem) (c : CtxId) (k accept a : Nat) : DescEnd :=
  let core := strCore k
  if (d.tagBlock core a 64 false).isSome then .wait
  else
    let x := (d.coreLocal core a).getD 0
    let (m, d) := match d.oldDesc m k accept (lineOf x) with
      | none => (m, d)
      | some p => if bit d.draw.1.toNat 0 then (m.withPast p, d.draw.2) else (m, d.draw.2)
    let b := m.read x 64
    if m.uninit x 64 then
      let d := d.noteUninit core (strCode k) a
      if d.det c then .fail d a else .desc b (m.poisoned x 64) true d
    else .desc b (m.poisoned x 64) false d

/-- Moves a chain on to its next descriptor; after the last nothing of it is left to start. -/
def Dev.chainOn (d : Dev) (k : Nat) : Dev :=
  d.modStr k (fun s => { s with chain := s.chain.bind (fun ch =>
    if ch.next + 1 < rd ch.cmd 0xC 2 then some { ch with next := ch.next + 1, desc := none } else none) })

/-- Starts a descriptor that has been read: it is checked, and becomes a transfer (R207, R222). -/
def Dev.startDesc (d : Dev) (m : Mem) (c : CtxId) (k : Nat) (ch : ChainRun) (b : Bytes) (poison uninit : Bool) : Dev :=
  let st := d.dsCheck m c (strCore k) b
  let t := { Transfer.init with
    accept := ch.accept, cmd := ch.cmd, desc := b, index := ch.next, last := ch.next + 1 = rd ch.cmd 0xC 2, poison := poison,
    uninit := uninit, status := st, access := if st = 0 then 0 else 3, pops := st = 0 && dsHin b ≠ 15 }
  (d.chainOn k).addTransfer k t

/-- Starts the next descriptor of a chain where its KIND is one of a list; a descriptor with a marker is read once, and
starts when the marker has been released (R226). -/
def chainAct (u : StreamRef) (kinds : Nat → Bool) : Act := fun _ m d =>
  let k := strOf u
  let s := d.strAt k
  match d.strCtx k, s.chain with
  | some c, some ch =>
    if s.stopper.isSome || s.marker.isSome then { dev := d }
    else
      let a := rd ch.cmd 8 4 + 64 * ch.next
      let fails := fun (d : Dev) (st a : Nat) => (d.chainOn k).addTransfer k { Transfer.init with
        accept := ch.accept, cmd := ch.cmd, index := ch.next, status := st, access := 3, fault := a }
      match ch.desc with
      | some b => if !kinds (dsKind b) || !s.hasSlot then { dev := d } else { dev := d.startDesc m c k ch b false false }
      | none =>
        match d.readDesc m c k ch.accept a with
        | .wait => { dev := d }
        | .fail e a => if kinds 0 then { dev := fails e 7 a } else { dev := d }
        | .desc b po un e =>
          if !kinds (dsKind b) then { dev := d }
          else if dsFlag b 1 || dsFlag b 2 then
            let kind := if !dsFlag b 2 then 0 else if dsFlag b 4 then 2 else 1
            match e.markerOf c (strCore k) kind (rd b 0x3A 2) (rd b 0x3C 4) with
            | none => { dev := fails e 4 a }
            | some mark => { dev := e.modStr k (fun s => { s with marker := some mark, chain := some { ch with desc := some b } }) }
          else if !s.hasSlot then { dev := d }
          else { dev := e.startDesc m c k ch b po un }
  | _, _ => { dev := d }

/-! ### Markers (R226) -/

/-- Whether a marker's condition holds. -/
def Dev.markerHolds (d : Dev) (c : CtxId) (core : Nat) (mark : Marker) : Bool :=
  mark.hit || match mark.kind with
    | 0 => true
    | 1 => (d.syncValue c (core / 12) mark.obj).any (fun v => mark.value ≤ v)
    | _ => mark.value ≤ (d.regionAt core mark.obj).arrival

/-- A marker is released once every earlier transfer has completed and its condition holds; an SDEP is then done. -/
def Dev.releaseMarker (d : Dev) (m : Mem) (k : Nat) : Dev :=
  let s := d.strAt k
  match d.strCtx k, s.marker with
  | some c, some mark =>
    if !s.mine.isEmpty || !d.markerHolds c (strCore k) mark then d
    else
      let d := (d.modStr k (fun s => { s with marker := none })).seeAgain m (strCore k) (strQueue k)
      if s.chain.isSome then d
      else match (d.queAt (strCore k) (strQueue k)).cmds.find? (·.result.isNone) with
        | some x => d.doneCmd k x.accept
        | none => d
  | _, _ => d

/-! ### Completion (R208, R224, R228, R229) -/

/-- The bits [17:8] of a completion word that a transfer adds. -/
def Transfer.flags (t : Transfer) : Nat := complWord 0 t.fpstat t.poison t.uninit

/-- The die-local address of a transfer's first destination byte (R228). -/
def Dev.firstByte (d : Dev) (core : Nat) (b : Bytes) : Nat :=
  if dsDstKind b = 0 then ((d.coreLocal core (dsDst b)).getD 0) % 2 ^ 32 else dsDst b % 2 ^ 32

/-- How the end of a transfer comes out. -/
inductive TurnEnd where
  | wait
  | stop (status addr : Nat)
  | done (dev : Dev)

/-- HRET: the popped handle goes back to the owner of its buffer (R228). -/
def Dev.returnHandle (d : Dev) (c : CtxId) (k : Nat) (t : Transfer) : TurnEnd :=
  match t.handle with
  | none => .done d
  | some h =>
    if dsHret t.desc = 15 then .done d
    else
      let a := field h.toNat 0 32
      match d.dieLocal (strCore k / 12) a with
      | none => .stop 4 a
      | some pl =>
        let owner := match pl with
          | .mem x => (d.coreOf x).getD (strCore k)
          | .ctrl core _ => core
          | _ => strCore k
        match d.pushHandle c owner (dsHret t.desc) h with
        | .wait => .wait
        | .fail st => .stop st a
        | .done d => .done d

/-- HOUT: a handle of what has been written (R228). -/
def Dev.giveHandle (d : Dev) (c : CtxId) (k : Nat) (t : Transfer) : TurnEnd :=
  if dsHout t.desc = 15 then .done d
  else
    let a := d.firstByte (strCore k) t.desc
    let tag := match t.handle with
      | some h => field h.toNat 58 6
      | none => 0
    let core := if dsHcore t.desc = 15 then strCore k else coreNo (strCore k / 12) (dsHcore t.desc)
    match d.pushHandle c core (dsHout t.desc) (BitVec.ofNat 64 (a + t.wrote % 2 ^ 26 * 2 ^ 32 + tag * 2 ^ 58)) with
    | .wait => .wait
    | .fail st => .stop st a
    | .done d => .done d

/-- A transfer leaves: its slot is free, its descriptor signals, its flags join its command's, and the command completes with
its last transfer (R122, R208, R224). -/
def Dev.leave (d : Dev) (c : CtxId) (k : Nat) (t : Transfer) : Dev :=
  let core := strCore k
  let q := strQueue k
  let d := (d.modStr k (fun s => { s with transfers := s.transfers.filter (fun x => !(x.is t.accept t.index)) })).nextMove k
  let d := if t.cmd.head? = some 0x21 && dsFlag t.desc 0 then d.cmdSignal c (core / 12) (rd t.desc 6 2 % 4096) ⟨d.moduleId, strCode k, none, 2⟩
    else d
  let d := d.modCmd core q t.accept (fun x => { x with flags := x.flags ||| t.flags })
  match (d.queAt core q).cmds.find? (·.accept = t.accept) with
  | none => d
  | some x => if t.last && !(d.strAt k).mine.any (fun y => y.accept = t.accept) then d.endCmd c core q x x.flags else d

/-- A transfer that has been performed completes: HRET, then HOUT, then it leaves (R228, R229).  A push that waits holds the
completion; one that fails stops the engine.
DEDUCED, log 91. -/
def Dev.finishTransfer (d : Dev) (c : CtxId) (k : Nat) (t : Transfer) : Dev :=
  let stop := fun (d : Dev) (st a : Nat) => d.modTransfer k t.accept t.index (fun x => { x with status := st, access := 1, fault := a })
  match d.returnHandle c k t with
  | .wait => d
  | .stop st a => stop d st a
  | .done d =>
    let t' := { t with desc := wr t.desc 0x38 (leBytes 1 (setField (rdb t.desc 0x38) 4 4 15)) }
    let d := d.modTransfer k t.accept t.index (fun _ => t')
    match d.giveHandle c k t' with
    | .wait => d
    | .stop st a => stop d st a
    | .done d => d.leave c k t'

/-- Whether a transfer's writes are all acknowledged (R224). -/
def Transfer.performed (t : Transfer) : Bool := t.issued && t.unacked = 0 && t.status = 0

/-- What completes next: the first transfer in start order, or the first command, where it took none (R208). -/
def Dev.completeStream (d : Dev) (k : Nat) : Dev :=
  let cmds := (d.queAt (strCore k) (strQueue k)).cmds
  match d.strCtx k with
  | none => d
  | some c =>
    match (d.strAt k).mine.head?, cmds.head? with
    | some t, some x =>
      if x.result = some 0 && cmds.any (fun y => y.accept = t.accept) then d.endCmd c (strCore k) (strQueue k) x x.flags
      else if t.performed then d.finishTransfer c k t
      else d
    | some t, none => if t.performed then d.finishTransfer c k t else d
    | none, some x => if x.result = some 0 then d.endCmd c (strCore k) (strQueue k) x x.flags else d
    | none, none => d

/-! ### Stops (R235, R237) -/

/-- The entry of a transfer in the position record (R235). -/
def recordEntry (stopper t : Transfer) : Bytes :=
  let idx := dsKind t.desc = 3 || dsKind t.desc = 4
  let state := if t.is stopper.accept stopper.index then 2 else if t.issued then 3 else 1
  leBytes 4 t.accept ++ leBytes 2 t.index ++ leBytes 1 state ++ zeros 1 ++ leBytes 8 (if idx then t.off else t.wrote)
    ++ leBytes 4 (if idx then t.run else 0) ++ leBytes 4 (b2n t.handle.isSome) ++ zeros 8

/-- The position record (R235). -/
def positionRecord (k : Nat) (stopper : Transfer) (word : Nat) (ts : List Transfer) : Bytes :=
  sub (leBytes 4 word ++ leBytes 2 (strCode k) ++ leBytes 1 ts.length ++ leBytes 1 stopper.access ++ leBytes 8 stopper.fault
    ++ zeros 16 ++ (ts.take 6).flatMap (recordEntry stopper)) 0 256

/-- The transfers that complete when an engine stops: those before the first that has not issued all its work, the one that
stops it apart (R237 step 3).
DEDUCED, log 89. -/
def Stream.leading (s : Stream) (stopper : Transfer) : List Transfer :=
  (s.mine.takeWhile (·.issued)).filter (fun t => t.status = 0 && !(t.is stopper.accept stopper.index))

/-- STR_ERR and STR_BRAM of a stop (R243, R263), and the count of R34. -/
def Dev.countStop (d : Dev) (c : CtxId) (k : Nat) (t : Transfer) : Dev :=
  let n := strCore k / 12
  if t.status = 0xA || t.status = 0xB then d.count STR_ERR.FAULT n
  else if t.status = 0xD then
    let d := ((d.count STR_BRAM.FAILS n).put STR_BRAM.LAST_CHECK t.check.1 n).put STR_BRAM.LAST_UNIT (strCode k) n
    if t.check.1 = 3 || t.check.1 = 8 then d.count STR_BRAM.CRC_FAILS n else d
  else if t.status = 6 then d.modCtx c (fun x => { x with notAdmitted := x.notAdmitted + 1 })
  else d

/-- The STREAM_FAULT event, or in a beat-locked context that misses a page the overrun (R237, R240, R439). -/
def Dev.tellStop (d : Dev) (c : CtxId) (k : Nat) (t : Transfer) : Dev :=
  if t.status = 0xB then d.detectNow c [Detection.unitOnly 3 (strCode k)]
  else d.event c 3 (leBytes 8 t.fault ++ leBytes 2 (strCode k) ++ leBytes 1 t.status ++ leBytes 1 t.check.1 ++ leBytes 1 t.check.2.1
    ++ zeros 1 ++ leBytes 2 t.check.2.2 ++ leBytes 4 t.accept ++ leBytes 8 d.time.beat ++ zeros 4)

/-- The stopping command of a status that cannot be resumed: it has failed, and leaves the queue (R124, R238). -/
def Dev.failStopper (d : Dev) (k : Nat) (t : Transfer) (word : Nat) : Dev :=
  if t.status = 0xA || t.status = 0xB then d
  else
    let front := (d.queAt (strCore k) (strQueue k)).cmds.head?.any (fun x => x.accept = t.accept)
    (d.modQue (strCore k) (strQueue k) (fun u => { u with
      lastWord := word, lastTag := rd t.cmd 4 2,
      cmds := if front then u.cmds.filter (fun x => x.accept ≠ t.accept)
        else u.cmds.map (fun x => if x.accept = t.accept then { x with result := some word } else x) })).orFpstat (strCore k) word

/-- An engine stops (R237): once every issued segment has completed, the leading transfers complete, where no push of theirs
waits; the record is written and signalled, the queue stops with the completion word, and the event goes out.
DEDUCED, log 90. -/
def stopAct (u : StreamRef) : Act := fun _ m d =>
  let k := strOf u
  let core := strCore k
  let q := strQueue k
  match d.strCtx k, (d.strAt k).stopper with
  | some c, some t =>
    if (d.strAt k).mine.any (fun x => x.unacked ≠ 0) then { dev := d }
    else
      let d := ((d.strAt k).leading t).foldl (fun d x => d.finishTransfer c k x) d
      if !((d.strAt k).leading t).isEmpty then { dev := d }
      else
        let flags := ((d.queAt core q).cmds.find? (·.accept = t.accept)).elim 0 (·.flags)
        let word := t.status + (flags ||| t.flags)
        let (d, es) := match (d.strAt k).save with
          | none => (d, [])
          | some a =>
            let es := d.spanEffs core [(a, positionRecord k t word (d.strAt k).mine, false)]
            let d := d.performed m c es
            match (d.strAt k).fsync with
            | none => (d, es)
            | some v => (d.cmdSignal c (core / 12) v ⟨d.moduleId, strCode k, none, 2⟩, es)
        let d := (d.stopQue core q word (rd t.cmd 4 2)).failStopper k t word
        { dev := (d.countStop c k t).tellStop c k t, mem := es }
  | _, _ => { dev := d }

/-! ### The rows -/

/-- XFER (R213). -/
def execXfer (u : StreamRef) (s : State) : Host.Outcome State Fault Refusal := .next (s.run (startCmd u 0x20 xferStart))

/-- CHAIN (R214). -/
def execChain (u : StreamRef) (s : State) : Host.Outcome State Fault Refusal := .next (s.run (startCmd u 0x21 chainStart))

/-- SHORT (R215). -/
def execShort (u : StreamRef) (s : State) : Host.Outcome State Fault Refusal := .next (s.run (startCmd u 0x22 shortStart))

/-- SDEP (R216). -/
def execSdep (u : StreamRef) (s : State) : Host.Outcome State Fault Refusal := .next (s.run (startCmd u 0x23 sdepStart))

/-- HPUSH (R216, R228). -/
def execHpush (u : StreamRef) (s : State) : Host.Outcome State Fault Refusal := .next (s.run (startCmd u 0x24 hpushStart))

/-- SSAVE (R216). -/
def execSsave (u : StreamRef) (s : State) : Host.Outcome State Fault Refusal := .next (s.run (startCmd u 0x25 ssaveStart))

/-- LINEAR (R218); a descriptor of no KIND, and one that cannot be read, fail here (R222, R225). -/
def execLinear (u : StreamRef) (s : State) : Host.Outcome State Fault Refusal :=
  .next (s.run (chainAct u (fun k => k = 0 || k = 1 || 5 < k)))

/-- STRIDED (R218). -/
def execStrided (u : StreamRef) (s : State) : Host.Outcome State Fault Refusal := .next (s.run (chainAct u (fun k => k = 2)))

/-- GATHER (R218). -/
def execGather (u : StreamRef) (s : State) : Host.Outcome State Fault Refusal := .next (s.run (chainAct u (fun k => k = 3)))

/-- SCATTER (R218). -/
def execScatter (u : StreamRef) (s : State) : Host.Outcome State Fault Refusal := .next (s.run (chainAct u (fun k => k = 4)))

/-- TRANSPOSE (R218). -/
def execTranspose (u : StreamRef) (s : State) : Host.Outcome State Fault Refusal := .next (s.run (chainAct u (fun k => k = 5)))

/-- MARKER_RELEASE (R226). -/
def execMarkerRelease (u : StreamRef) (s : State) : Host.Outcome State Fault Refusal :=
  .next (s.run (fun _ m d => { dev := d.releaseMarker m (strOf u) }))

/-- TRANSFER_COMPLETION (R224). -/
def execTransferCompletion (u : StreamRef) (s : State) : Host.Outcome State Fault Refusal :=
  .next (s.run (Act.dev (fun d => d.completeStream (strOf u))))

/-- STREAM_STOP (R237). -/
def execStreamStop (u : StreamRef) (s : State) : Host.Outcome State Fault Refusal := .next (s.run (stopAct u))

/-- A stream queue's next command with an opcode of no stream command fails with BAD_OPCODE (R212). -/
def Dev.badStreamOp (d : Dev) (k : Nat) : Dev :=
  match d.nextCmd k with
  | none => d
  | some (_, x) =>
    if 0x20 ≤ x.op && x.op ≤ 0x25 then d
    else d.addTransfer k { Transfer.init with
      accept := x.accept, cmd := x.bytes, status := if d.admitted (csGroup (strCore k)) then csBadOpcode else csNotIn }

/-- COMMAND_COMPLETION (R122, R208, R212). -/
def execCommandCompletion (u : QueueRef) (s : State) : Host.Outcome State Fault Refusal :=
  .next (s.run (Act.dev (fun d =>
    let core := coreNo u.die.val u.core.val
    if u.q.val < 5 then d.completeFront core u.q.val
    else
      let k := 2 * core + (u.q.val - 5)
      (d.badStreamOp k).completeStream k)))

end Sys2Proof.Machine
end

