-- ==== Sys2Proof/Machine/StreamIssue.lean ====
section
/-! DEFINITION. SEGMENT_ISSUE (R207, R223, R224): the next piece of a transfer in one of an engine's six slots, and the fills
and relays of rings that S1 makes (R48, R50, R57 to R61, R233, R261). -/

namespace Sys2Proof.Machine

/-! ### Ring moves -/

/-- `n` bytes that nothing fixes. -/
def Dev.freeBytes (d : Dev) (n : Nat) : Bytes × Dev :=
  let r := (List.range (ceilDiv n 8)).foldl (fun (acc : List Bytes × Dev) _ =>
    let (v, d) := acc.2.draw
    (leBytes 8 v.toNat :: acc.1, d)) ([], d)
  (r.1.reverse.flatten.take n, r.2)

/-- Changes the transfer of a ring move. -/
def Dev.modMove (d : Dev) (k : Nat) (mv : RingMove) (f : Transfer → Transfer) : Dev :=
  d.modStr k (fun s => { s with transfers := s.transfers.map (fun t => if t.own = some mv then f t else t) })

/-- The local address of an offset in a slot of a ring region. -/
def Dev.slotByte (d : Dev) (core r slot off : Nat) : Option Nat :=
  let g := d.regionAt core r
  d.coreLocal core (g.base + slot * g.slotBytes + off)

/-- The fill that a move performs. -/
def Ctx.fillOf (x : Ctx) (mv : RingMove) : Option Fill :=
  x.fills.find? (fun f => f.own && f.ring = mv.ring && f.grad = mv.grad && f.slice = mv.slice && f.lap = mv.lap && f.due = mv.due)

/-- One shard of an origin's own fill (R48, R61): the same bytes reach the slot of every die of the slice.  Where the master
copy lies the manual does not say: the bytes are free values.  After the last the slots are full and their producers advance
(R53, R56). -/
def Dev.fillShard (d : Dev) (k : Nat) (mv : RingMove) (t : Transfer) (g : RingDesc) (f : Fill) : Res :=
  let r := g.regionNo mv.grad
  let total := g.sliceBytes mv.grad
  let n := segLeft (segments total g.shardBytes) t.off
  let blocked := f.slots.any (fun e =>
    let core := g.slotCore mv.grad e.1
    (d.regionAt core r).slots ≤ (d.regionAt core r).fill || d.isFull core r e.2)
  if blocked then { dev := d }
  else
    let (bs, d) := d.freeBytes n
    let put := fun (acc : Dev × List MemEff) (e : Nat × Nat) =>
      match acc.1.slotByte (g.slotCore mv.grad e.1) r e.2 t.off with
      | none => acc
      | some a => (acc.1.breakLines a n, acc.2 ++ [.write a bs false])
    let (d, es) := f.slots.foldl put (d, [])
    if t.off + n < total then { dev := d.modMove k mv (fun t => { t with off := t.off + n, wrote := t.wrote + n }), mem := es }
    else
      let d := f.slots.foldl (fun d e => d.slotFull (g.slotCore mv.grad e.1) r) d
      let d := d.modCtx mv.ctx (fun x => { x with fills := x.fills.map (fun h => if h = f then { h with done := true } else h) })
      { dev := d.endMove k mv, mem := es }

/-- The SPEC field of a shard (R363). -/
def shardSpec (g : RingDesc) (mv : RingMove) (index count : Nat) : Bytes :=
  leBytes 2 g.id ++ leBytes 4 mv.lap ++ leBytes 2 (mv.origin + b2n mv.grad * 2 ^ 15) ++ leBytes 3 (index + mv.slice * 2 ^ 19)
    ++ leBytes 3 count

/-- Sends a shard downstream (R46, R60, R343, R359, R371): on DOWN_PORT, by the ring's circuit where it has one, on side 1 from
the Hinge position. -/
def Dev.sendShard (d : Dev) (k : Nat) (mv : RingMove) (g : RingDesc) (index count : Nat) (bs : Bytes) (marks : Nat) (src : Option Nat) : Dev :=
  let p := dataPkt 0x12 1 (d.ctxAt mv.ctx).pkey g.down d.moduleId (shardSpec g mv index count) bs
  let o := { plainOut p with port := some g.downPort, upper := g.position = g.hinge, src := src, who := .relay k mv }
  let os := (o.withMap marks).map (fun o => if g.circuit = 0xFFFF then o else o.onCircuit g.circuit)
  d.hand (strCore k / 12) os

/-- A relay moves on by a shard. -/
def Transfer.relayed (t : Transfer) (n total : Nat) : Transfer :=
  { t with off := t.off + n, wrote := t.wrote + n, run := t.run + 1, unacked := t.unacked + 1, issued := total ≤ t.off + n }

/-- One shard of the relay of a weight or activation slice, from the slot that holds it (R50, R60, R74). -/
def Dev.relayShard (d : Dev) (m : Mem) (k : Nat) (mv : RingMove) (t : Transfer) (g : RingDesc) : Res :=
  let total := g.sliceBytes false
  let ls := segments total g.shardBytes
  let n := segLeft ls t.off
  match d.slotByte (strCore k) (g.regionNo false) mv.slot t.off with
  | none => { dev := d }
  | some a =>
    let marks := poisonBits ((List.range (ceilDiv n 64)).map (fun i => m.poisoned (a + 64 * i) (Nat.min 64 (n - 64 * i))))
    { dev := (d.sendShard k mv g t.run ls.length (m.read a n) marks (some a)).modMove k mv (fun t => t.relayed n total) }

/-- The FP32 words of the gradient slice that the held slot carries (R57, R59, R261); whether it is poisoned. -/
def Dev.heldGradient (d : Dev) (m : Mem) (core slot : Nat) (g : RingDesc) : List Nat × Bool :=
  let f := if g.gradFormat = 2 then fBF16 else fFP32
  let raw := g.sliceBytes true
  match d.slotByte core (g.regionNo true) slot 0 with
  | none => ([], false)
  | some a =>
    let bytes := m.read a (g.slotBytes true)
    let body :=
      if g.gbramble then
        match bramDecode f (bytes.take (rd bytes 0xC 4)) with
        | .ok subs => subs.flatMap (·.out)
        | .error _ => []
      else bytes
    let w := fmtBits f / 8
    ((List.range (raw / w)).map (fun i => rd body (w * i) w * (if w = 2 then 65536 else 1)), m.poisoned a (g.slotBytes true))

/-- The gradient slice that a position forms (R57, R58): G_0 = cvt(P_0), G_k = cvt(fp32(G_(k-1)) + P_k).  The module's partials P_k
are free values: the manual leaves them to the beat program. -/
def Dev.formGradient (d : Dev) (m : Mem) (core slot : Nat) (g : RingDesc) (origin : Nat) : Bytes × Bool × Dev :=
  let f := if g.gradFormat = 2 then fBF16 else fFP32
  let n := g.sliceBytes true / (fmtBits f / 8)
  let first := origin = g.position
  let (held, poison) := if first then ([], false) else d.heldGradient m core slot g
  let (ps, d) := d.freeBytes (4 * n)
  let sums := (List.range n).map (fun i =>
    let p := num32 (rd ps (4 * i) 4)
    if first then p else (round32 ((num32 (held.getD i 0)).add p)).1)
  ((encodeElems fFP32 f ⟨0, false, false⟩ (List.replicate n 0) sums).1, poison, d)

/-- One shard of the relay of a gradient slice (R57 to R60, R261): what is sent is formed once, then goes shard by shard. -/
def Dev.relayGradient (d : Dev) (m : Mem) (k : Nat) (mv : RingMove) (t : Transfer) (g : RingDesc) : Res :=
  match t.plan with
  | none =>
    let (body, poison, d) := d.formGradient m (strCore k) mv.slot g mv.origin
    let bytes :=
      if g.gbramble then
        let (area, head) := bramEncode (if g.gradFormat = 2 then fBF16 else fFP32) 1 body
        head ++ area
      else body
    let cut := cutPieces 0 poison false (segments bytes.length g.shardBytes) bytes
    { dev := d.modMove k mv (fun t => { t with plan := some cut, index := cut.length }) }
  | some [] => { dev := d }
  | some (p :: ps) =>
    let d := d.sendShard k mv g t.run t.index p.data (if p.poison then 2 ^ ceilDiv p.data.length 64 - 1 else 0) none
    { dev := d.modMove k mv (fun t => { (t.relayed p.data.length (t.off + p.data.length)) with plan := some ps, issued := ps.isEmpty }) }

/-- The next shard of a ring move (R48, R50, R69, R233). -/
def Dev.issueMove (d : Dev) (m : Mem) (k : Nat) (mv : RingMove) (t : Transfer) : Res :=
  let x := d.ctxAt mv.ctx
  match x.ring mv.ring with
  | none => { dev := d }
  | some g =>
    if x.overrun then { dev := d }
    else if mv.fill then
      match x.fillOf mv with
      | some f => if x.state = .running || x.startAt.isSome then d.fillShard k mv t g f else { dev := d }
      | none => { dev := d }
    else if x.state ≠ .running || t.issued then { dev := d }
    else if mv.grad then d.relayGradient m k mv t g
    else d.relayShard m k mv t g

/-! ### The row -/

/-- SEGMENT_ISSUE (R207, R208, R223, R237): one step of the transfer in a slot. -/
def execSegmentIssue (u : StreamRef) (slot : Fin 6) (s : State) : Host.Outcome State Fault Refusal :=
  .next (s.run (fun _ m d =>
    let k := strOf u
    let e := d.strAt k
    match (e.transfers.filter (·.slotted))[slot.val]? with
    | none => { dev := d }
    | some t =>
      match t.own with
      | some mv => d.issueMove m k mv t
      | none =>
        match d.strCtx k with
        | none => { dev := d }
        | some c =>
          if e.stopper.isSome || t.issued then { dev := d } else (d.issueStep m c k t).res k t.accept t.index))

end Sys2Proof.Machine
end

