-- ==== Sys2Proof/Machine/Dispatch.lean ====
section
/-! DEFINITION. One arm per command: the direct call of its meaning. -/

namespace Sys2Proof.Machine

def exec (i : Instr) (s : State) : Host.Outcome State Fault Refusal :=
  match i with
  | .assign h => Sys2Proof.Machine.execAssign h s
  | .release h => Sys2Proof.Machine.execRelease h s
  | .kill h => Sys2Proof.Machine.execKill h s
  | .killComplete c => Sys2Proof.Machine.execKillComplete c s
  | .grantImage h => Sys2Proof.Machine.execGrantImage h s
  | .revokeImage h => Sys2Proof.Machine.execRevokeImage h s
  | .hostMemRelease h => Sys2Proof.Machine.execHostMemRelease h s
  | .hostMemReclaim h => Sys2Proof.Machine.execHostMemReclaim h s
  | .hostCopy h => Sys2Proof.Machine.execHostCopy h s
  | .stats h => Sys2Proof.Machine.execStats h s
  | .ctxSetup h => Sys2Proof.Machine.execCtxSetup h s
  | .memAlloc h => Sys2Proof.Machine.execMemAlloc h s
  | .memFree h => Sys2Proof.Machine.execMemFree h s
  | .load h => Sys2Proof.Machine.execLoad h s
  | .start h => Sys2Proof.Machine.execStart h s
  | .haltAtBeat h => Sys2Proof.Machine.execHaltAtBeat h s
  | .haltNow h => Sys2Proof.Machine.execHaltNow h s
  | .copy h => Sys2Proof.Machine.execCopy h s
  | .importStream h => Sys2Proof.Machine.execImportStream h s
  | .importRecord c record => Sys2Proof.Machine.execImportRecord c record s
  | .commandFetch entry linkOk => Sys2Proof.Machine.execCommandFetch entry linkOk s
  | .sqDoorbell fn ring value => Sys2Proof.Machine.execSqDoorbell fn ring value s
  | .cqDoorbell fn cq value => Sys2Proof.Machine.execCqDoorbell fn cq value s
  | .ringEnable fn ring w => Sys2Proof.Machine.execRingEnable fn ring w s
  | .ringDisable fn ring w => Sys2Proof.Machine.execRingDisable fn ring w s
  | .functionLevelReset fn => Sys2Proof.Machine.execFunctionLevelReset fn s
  | .vfRemoval numVfs => Sys2Proof.Machine.execVfRemoval numVfs s
  | .hostLinkReset => Sys2Proof.Machine.execHostLinkReset s
  | .cxlMemRead line => Sys2Proof.Machine.execCxlMemRead line s
  | .cxlMemWrite line data => Sys2Proof.Machine.execCxlMemWrite line data s
  | .registerWrite a => Sys2Proof.Machine.execRegisterWrite a s
  | .getVersion m => Sys2Proof.Machine.execGetVersion m s
  | .getCapabilities m => Sys2Proof.Machine.execGetCapabilities m s
  | .negotiateAlgorithms m => Sys2Proof.Machine.execNegotiateAlgorithms m s
  | .getDigests m => Sys2Proof.Machine.execGetDigests m s
  | .getCertificate m => Sys2Proof.Machine.execGetCertificate m s
  | .challenge m => Sys2Proof.Machine.execChallenge m s
  | .getMeasurements m => Sys2Proof.Machine.execGetMeasurements m s
  | .keyExchange m => Sys2Proof.Machine.execKeyExchange m s
  | .finish m => Sys2Proof.Machine.execFinish m s
  | .heartbeat m => Sys2Proof.Machine.execHeartbeat m s
  | .keyUpdate m => Sys2Proof.Machine.execKeyUpdate m s
  | .endSession m => Sys2Proof.Machine.execEndSession m s
  | .bindModelKey m => Sys2Proof.Machine.execBindModelKey m s
  | .dropModelKey m => Sys2Proof.Machine.execDropModelKey m s
  | .setLinkKey m => Sys2Proof.Machine.execSetLinkKey m s
  | .setDebugKey m => Sys2Proof.Machine.execSetDebugKey m s
  | .retiredKeyDestroy pkey => Sys2Proof.Machine.execRetiredKeyDestroy pkey s
  | .alarmTrip sensor now => Sys2Proof.Machine.execAlarmTrip sensor now s
  | .alarmClear w => Sys2Proof.Machine.execAlarmClear w s
  | .alarmCfgCommit w => Sys2Proof.Machine.execAlarmCfgCommit w s
  | .svnCommit w => Sys2Proof.Machine.execSvnCommit w s
  | .nonceRead => Sys2Proof.Machine.execNonceRead s
  | .tokenSubmit w => Sys2Proof.Machine.execTokenSubmit w s
  | .debugLock w => Sys2Proof.Machine.execDebugLock w s
  | .lockoutExpiry => Sys2Proof.Machine.execLockoutExpiry s
  | .vsb12Present => Sys2Proof.Machine.execVsb12Present s
  | .vsb12Lost => Sys2Proof.Machine.execVsb12Lost s
  | .vin48Present => Sys2Proof.Machine.execVin48Present s
  | .vin48Lost => Sys2Proof.Machine.execVin48Lost s
  | .vin48Overvoltage => Sys2Proof.Machine.execVin48Overvoltage s
  | .seatOpen => Sys2Proof.Machine.execSeatOpen s
  | .resetPin => Sys2Proof.Machine.execResetPin s
  | .startupComplete failed => Sys2Proof.Machine.execStartupComplete failed s
  | .startFail reason => Sys2Proof.Machine.execStartFail reason s
  | .startDeadline => Sys2Proof.Machine.execStartDeadline s
  | .startRetry => Sys2Proof.Machine.execStartRetry s
  | .computeDieReset w => Sys2Proof.Machine.execComputeDieReset w s
  | .warmModuleReset w => Sys2Proof.Machine.execWarmModuleReset w s
  | .brynoaDieReset w => Sys2Proof.Machine.execBrynoaDieReset w s
  | .coldModuleReset w => Sys2Proof.Machine.execColdModuleReset w s
  | .prepareRemove w => Sys2Proof.Machine.execPrepareRemove w s
  | .takeOut w rival => Sys2Proof.Machine.execTakeOut w rival s
  | .bringIn w rival => Sys2Proof.Machine.execBringIn w rival s
  | .scrubComplete unit => Sys2Proof.Machine.execScrubComplete unit s
  | .testComplete unit pass => Sys2Proof.Machine.execTestComplete unit pass s
  | .unitFault unit => Sys2Proof.Machine.execUnitFault unit s
  | .moduleError unit cause => Sys2Proof.Machine.execModuleError unit cause s
  | .fwBegin w => Sys2Proof.Machine.execFwBegin w s
  | .fwData w => Sys2Proof.Machine.execFwData w s
  | .fwCheck w => Sys2Proof.Machine.execFwCheck w s
  | .fwSwitch w => Sys2Proof.Machine.execFwSwitch w s
  | .switchComplete => Sys2Proof.Machine.execSwitchComplete s
  | .traceEnable w => Sys2Proof.Machine.execTraceEnable w s
  | .pwrCapWrite w rival => Sys2Proof.Machine.execPwrCapWrite w rival s
  | .dutyStep p => Sys2Proof.Machine.execDutyStep p s
  | .peakLimit avg2us => Sys2Proof.Machine.execPeakLimit avg2us s
  | .peakRecovery avg2us => Sys2Proof.Machine.execPeakRecovery avg2us s
  | .thermalLimit die => Sys2Proof.Machine.execThermalLimit die s
  | .domainRaise die => Sys2Proof.Machine.execDomainRaise die s
  | .domainLower domain => Sys2Proof.Machine.execDomainLower domain s
  | .coolantStatus c => Sys2Proof.Machine.execCoolantStatus c s
  | .linkProfileCommit w => Sys2Proof.Machine.execLinkProfileCommit w s
  | .portEnable port w => Sys2Proof.Machine.execPortEnable port w s
  | .quadTrainingDone quad outcome => Sys2Proof.Machine.execQuadTrainingDone quad outcome s
  | .trainingTimeout port => Sys2Proof.Machine.execTrainingTimeout port s
  | .trainingRetry port => Sys2Proof.Machine.execTrainingRetry port s
  | .lcf port flit => Sys2Proof.Machine.execLcf port flit s
  | .lcfTimeout port => Sys2Proof.Machine.execLcfTimeout port s
  | .removeQuad port flit => Sys2Proof.Machine.execRemoveQuad port flit s
  | .addQuad port flit => Sys2Proof.Machine.execAddQuad port flit s
  | .substituteSpare port flit => Sys2Proof.Machine.execSubstituteSpare port flit s
  | .quadAcknowledge port flit => Sys2Proof.Machine.execQuadAcknowledge port flit s
  | .quadRefuse port flit => Sys2Proof.Machine.execQuadRefuse port flit s
  | .switchAtReached port => Sys2Proof.Machine.execSwitchAtReached port s
  | .quadFail quad => Sys2Proof.Machine.execQuadFail quad s
  | .uncorrectableSet quad vcs => Sys2Proof.Machine.execUncorrectableSet quad vcs s
  | .recal quad w => Sys2Proof.Machine.execRecal quad w s
  | .helloTimer port => Sys2Proof.Machine.execHelloTimer port s
  | .hello a => Sys2Proof.Machine.execHello a s
  | .moduleIdCommit w => Sys2Proof.Machine.execModuleIdCommit w s
  | .timeCfgWrite w => Sys2Proof.Machine.execTimeCfgWrite w s
  | .timeExchangeTimer now => Sys2Proof.Machine.execTimeExchangeTimer now s
  | .timeReq a => Sys2Proof.Machine.execTimeReq a s
  | .timeResp a => Sys2Proof.Machine.execTimeResp a s
  | .timeInfo a => Sys2Proof.Machine.execTimeInfo a s
  | .holdoverTimeout => Sys2Proof.Machine.execHoldoverTimeout s
  | .periodApply w now => Sys2Proof.Machine.execPeriodApply w now s
  | .beatTick => Sys2Proof.Machine.execBeatTick s
  | .arrivalDeadline c => Sys2Proof.Machine.execArrivalDeadline c s
  | .tumblerFlip => Sys2Proof.Machine.execTumblerFlip s
  | .flipRequest w => Sys2Proof.Machine.execFlipRequest w s
  | .pendingClear => Sys2Proof.Machine.execPendingClear s
  | .tableEntryWrite w => Sys2Proof.Machine.execTableEntryWrite w s
  | .tableEntryRead => Sys2Proof.Machine.execTableEntryRead s
  | .packetSend att => Sys2Proof.Machine.execPacketSend att s
  | .packetForward a => Sys2Proof.Machine.execPacketForward a s
  | .write a => Sys2Proof.Machine.execWrite a s
  | .getData a => Sys2Proof.Machine.execGetData a s
  | .shard a => Sys2Proof.Machine.execShard a s
  | .ack a => Sys2Proof.Machine.execAck a s
  | .nack a => Sys2Proof.Machine.execNack a s
  | .reset a => Sys2Proof.Machine.execReset a s
  | .refuse a => Sys2Proof.Machine.execRefuse a s
  | .shortPacket a => Sys2Proof.Machine.execShortPacket a s
  | .shortCont a => Sys2Proof.Machine.execShortCont a s
  | .amoResp a => Sys2Proof.Machine.execAmoResp a s
  | .getReq a => Sys2Proof.Machine.execGetReq a s
  | .ringHalt a => Sys2Proof.Machine.execRingHalt a s
  | .poisonMap a => Sys2Proof.Machine.execPoisonMap a s
  | .lockstep a => Sys2Proof.Machine.execLockstep a s
  | .mgmtRead r => Sys2Proof.Machine.execMgmtRead r s
  | .mgmtWrite r => Sys2Proof.Machine.execMgmtWrite r s
  | .ackTimer flow => Sys2Proof.Machine.execAckTimer flow s
  | .rtoExpiry flow => Sys2Proof.Machine.execRtoExpiry flow s
  | .flowTimeout flow => Sys2Proof.Machine.execFlowTimeout flow s
  | .congestionStep flow => Sys2Proof.Machine.execCongestionStep flow s
  | .frameReceive f => Sys2Proof.Machine.execFrameReceive f s
  | .pauseFrameReceive f => Sys2Proof.Machine.execPauseFrameReceive f s
  | .pauseExpiry sub pri => Sys2Proof.Machine.execPauseExpiry sub pri s
  | .pfcRefresh sub => Sys2Proof.Machine.execPfcRefresh sub s
  | .frameTransmit sub data => Sys2Proof.Machine.execFrameTransmit sub data s
  | .ethDoorbell fn queue value descs => Sys2Proof.Machine.execEthDoorbell fn queue value descs s
  | .subPortLink sub up => Sys2Proof.Machine.execSubPortLink sub up s
  | .ethPortEnable port w => Sys2Proof.Machine.execEthPortEnable port w s
  | .ethQueueConfig fn queue w => Sys2Proof.Machine.execEthQueueConfig fn queue w s
  | .ethRuleWrite w => Sys2Proof.Machine.execEthRuleWrite w s
  | .watermarkArm fn queue w => Sys2Proof.Machine.execWatermarkArm fn queue w s
  | .baseInstruction th word => Sys2Proof.Machine.execBaseInstruction th word s
  | .threadLoad th op => Sys2Proof.Machine.execThreadLoad th op s
  | .loadDataReturn th ret => Sys2Proof.Machine.execLoadDataReturn th ret s
  | .threadStore th op => Sys2Proof.Machine.execThreadStore th op s
  | .amo th op => Sys2Proof.Machine.execAmo th op s
  | .lr th op => Sys2Proof.Machine.execLr th op s
  | .sc th op => Sys2Proof.Machine.execSc th op s
  | .fence th op => Sys2Proof.Machine.execFence th op s
  | .fenceI th => Sys2Proof.Machine.execFenceI th s
  | .ecall th => Sys2Proof.Machine.execEcall th s
  | .ebreak th compressed => Sys2Proof.Machine.execEbreak th compressed s
  | .csrInstruction th op => Sys2Proof.Machine.execCsrInstruction th op s
  | .mqctlRestart th bits => Sys2Proof.Machine.execMqctlRestart th bits s
  | .mqctlClear th bits => Sys2Proof.Machine.execMqctlClear th bits s
  | .missue th op => Sys2Proof.Machine.execMissue th op s
  | .queueAccept q => Sys2Proof.Machine.execQueueAccept q s
  | .mwait th op => Sys2Proof.Machine.execMwait th op s
  | .mwaitWake th => Sys2Proof.Machine.execMwaitWake th s
  | .mwtmoExpiry th => Sys2Proof.Machine.execMwtmoExpiry th s
  | .mpoll th op => Sys2Proof.Machine.execMpoll th op s
  | .msig th op => Sys2Proof.Machine.execMsig th op s
  | .mfenceU th op => Sys2Proof.Machine.execMfenceU th op s
  | .mfenceR th op => Sys2Proof.Machine.execMfenceR th op s
  | .mfenceG th op => Sys2Proof.Machine.execMfenceG th op s
  | .fenceComplete th => Sys2Proof.Machine.execFenceComplete th s
  | .rdbeat th op => Sys2Proof.Machine.execRdbeat th op s
  | .beatWait th op => Sys2Proof.Machine.execBeatWait th op s
  | .beatWaitRelease th => Sys2Proof.Machine.execBeatWaitRelease th s
  | .mexit th op => Sys2Proof.Machine.execMexit th op s
  | .loadb e => Sys2Proof.Machine.execLoadb e s
  | .mma e => Sys2Proof.Machine.execMma e s
  | .mmat e => Sys2Proof.Machine.execMmat e s
  | .epi e => Sys2Proof.Machine.execEpi e s
  | .drain e => Sys2Proof.Machine.execDrain e s
  | .zero e => Sys2Proof.Machine.execZero e s
  | .cvt e => Sys2Proof.Machine.execCvt e s
  | .vew u => Sys2Proof.Machine.execVew u s
  | .vred u => Sys2Proof.Machine.execVred u s
  | .vcvt u => Sys2Proof.Machine.execVcvt u s
  | .vrand u => Sys2Proof.Machine.execVrand u s
  | .vseed u => Sys2Proof.Machine.execVseed u s
  | .commandCompletion q => Sys2Proof.Machine.execCommandCompletion q s
  | .xfer u => Sys2Proof.Machine.execXfer u s
  | .chain u => Sys2Proof.Machine.execChain u s
  | .short u => Sys2Proof.Machine.execShort u s
  | .sdep u => Sys2Proof.Machine.execSdep u s
  | .hpush u => Sys2Proof.Machine.execHpush u s
  | .ssave u => Sys2Proof.Machine.execSsave u s
  | .linear u => Sys2Proof.Machine.execLinear u s
  | .strided u => Sys2Proof.Machine.execStrided u s
  | .gather u => Sys2Proof.Machine.execGather u s
  | .scatter u => Sys2Proof.Machine.execScatter u s
  | .transpose u => Sys2Proof.Machine.execTranspose u s
  | .markerRelease u => Sys2Proof.Machine.execMarkerRelease u s
  | .segmentIssue u slot => Sys2Proof.Machine.execSegmentIssue u slot s
  | .transferCompletion u => Sys2Proof.Machine.execTransferCompletion u s
  | .streamStop u => Sys2Proof.Machine.execStreamStop u s
  | .writeUnitArrival id => Sys2Proof.Machine.execWriteUnitArrival id s
  | .slotFull u region => Sys2Proof.Machine.execSlotFull u region s
  | .regionEnable th st => Sys2Proof.Machine.execRegionEnable th st s
  | .regionDisable th st => Sys2Proof.Machine.execRegionDisable th st s
  | .push th region => Sys2Proof.Machine.execPush th region s
  | .pop th region => Sys2Proof.Machine.execPop th region s
  | .tagWake th => Sys2Proof.Machine.execTagWake th s
  | .uninitClear u value => Sys2Proof.Machine.execUninitClear u value s
  | .windowAmoadd a => Sys2Proof.Machine.execWindowAmoadd a s
  | .invalidation c value => Sys2Proof.Machine.execInvalidation c value s
  | .latchRelease die latch => Sys2Proof.Machine.execLatchRelease die latch s
  | .sramScrub line found => Sys2Proof.Machine.execSramScrub line found s
  | .patrolScrub line found => Sys2Proof.Machine.execPatrolScrub line found s
  | .backgroundFill unit => Sys2Proof.Machine.execBackgroundFill unit s
  | .prgSramEccClr die => Sys2Proof.Machine.execPrgSramEccClr die s
  | .strErrClr die => Sys2Proof.Machine.execStrErrClr die s
  | .strBramClr die => Sys2Proof.Machine.execStrBramClr die s
  | .synStatClr die => Sys2Proof.Machine.execSynStatClr die s
  | .memEccClr die => Sys2Proof.Machine.execMemEccClr die s
  | .lnkQuadClr quad => Sys2Proof.Machine.execLnkQuadClr quad s
  | .lnkErrClr => Sys2Proof.Machine.execLnkErrClr s
  | .rteErrClr => Sys2Proof.Machine.execRteErrClr s
  | .rteRelClr => Sys2Proof.Machine.execRteRelClr s
  | .rtePviolClr k => Sys2Proof.Machine.execRtePviolClr k s
  | .bryLsStatClr => Sys2Proof.Machine.execBryLsStatClr s
  | .bryOvrCntClr c => Sys2Proof.Machine.execBryOvrCntClr c s
  | .ethRxErrClr port => Sys2Proof.Machine.execEthRxErrClr port s
  | .ethRxDropClr port => Sys2Proof.Machine.execEthRxDropClr port s
  | .ethTxErrClr port => Sys2Proof.Machine.execEthTxErrClr port s
  | .ethPauseClr port => Sys2Proof.Machine.execEthPauseClr port s
  | .mmcCfgRejClr => Sys2Proof.Machine.execMmcCfgRejClr s
  | .shortWriteAcknowledgement u id => Sys2Proof.Machine.execShortWriteAcknowledgement u id s
  | .hostCommandComplete c tag => Sys2Proof.Machine.execHostCommandComplete c tag s
  | .vfEnable numVfs => Sys2Proof.Machine.execVfEnable numVfs s
  | .alarmSensorRelease sensor => Sys2Proof.Machine.execAlarmSensorRelease sensor s
  | .thermalLimitRelease die => Sys2Proof.Machine.execThermalLimitRelease die s

end Sys2Proof.Machine
end

