-- ==== Sys2Proof/Machine/Step.lean ====
section
/-! DEFINITION. One step: the command at the front of the queue is performed with the queue's rest; on an empty
queue one CCLK cycle passes (log 1). -/

namespace Sys2Proof.Machine

/-- One step of the block.
DESIGN CHOICE, log 1.
DESIGN CHOICE, log 11.
DESIGN CHOICE, log 155. -/
def step (s : State) : Host.Outcome State Fault Refusal :=
  match s.pending with
  | [] => .next { s with dev := { s.dev with cclk := s.dev.cclk + 1 } }
  | c :: rest => exec c { s with pending := rest }

/-- The state with the command that a table word spells at the front of its queue; the state itself where the word
spells none (no row of the table gives bits). -/
def State.withFetchWord (s : State) (nbits w : Nat) : State :=
  match decodeTableWord nbits w with
  | some c => { s with pending := c :: s.pending }
  | none => s

end Sys2Proof.Machine
end

