-- ==== Sys2Proof/Safety.lean ====
section
/-! DEFINITION. What the model's claims call safe: a step that answers a next state, memory in its canonical form, fuses
that only rise. -/

namespace Sys2Proof.Machine

/-- A command answers a next state that satisfies `P`: no fault, no refusal. -/
def Answers (i : Instr) (s : State) (P : State → Prop) : Prop := ∃ t, exec i s = .next t ∧ P t

/-- The memory of a state is in its canonical form. -/
def State.memWf (s : State) : Prop := s.mem.wf = true

/-- No fuse of the first state is blown less in the second (R484, R488, R500). -/
def Fuses.le (a b : Fuses) : Prop := (∀ k, a.minSvn k ≤ b.minSvn k) ∧ a.erases ≤ b.erases

/-- The fused ERASE count keeps to its range (R500). -/
def Fuses.inRange (a : Fuses) : Prop := a.erases ≤ 31

/-- Everything of a device but its register file is the same. -/
def Dev.onlyRegs (a b : Dev) : Prop := b = { a with regs := b.regs }

/-- A context's record without the counts that posting a completion or an event changes. -/
def Ctx.uncounted (x : Ctx) : Ctx := { x with done := 0, events := 0, eventNo := 0, lost := 0 }

/-- The MMC without its error log. -/
def Mmc.unlogged (m : Mmc) : Mmc := { m with log := [], seq := 0, heldRecs := [] }

/-- The host interface without its completion rings, its list of commands under way and the counts of its reports. -/
def HostIf.unposted (h : HostIf) : HostIf := { h with cq := [], fetched := [], admDone := 0, admEvents := 0, admLost := 0 }

/-- From `a` to `b` the device does no more than report: completions, events, interrupts, error records, packets that it
hands to the router and their counts, in host memory and at its outputs.  Every other part of it, and every register but
HOST_CTX_STAT and MMC_LOG_SEL, is unchanged. -/
structure Dev.Reports (a b : Dev) : Prop where
  own : b.own = a.own
  keep : b.keep = a.keep
  pwr : b.pwr = a.pwr
  thr : b.thr = a.thr
  que : b.que = a.que
  core : b.core = a.core
  regn : b.regn = a.regn
  slotCnt : b.slotCnt = a.slotCnt
  full : b.full = a.full
  flight : b.flight = a.flight
  nextFlight : b.nextFlight = a.nextFlight
  sync : b.sync = a.sync
  eng : b.eng = a.eng
  gens : b.gens = a.gens
  str : b.str = a.str
  time : b.time = a.time
  lnk : b.lnk = a.lnk
  rte : b.rte = a.rte
  eth : b.eth = a.eth
  cclk : b.cclk = a.cclk
  free : b.free = a.free
  ctx : ∀ c, (b.ctxAt c).uncounted = (a.ctxAt c).uncounted
  mmc : b.mmc.unlogged = a.mmc.unlogged
  host : b.host.unposted = a.host.unposted
  regs : ∀ (f : Fld) (i : Nat), i < 1024 → f.reg ≠ .HOST_CTX_STAT → f.reg ≠ .MMC_LOG_SEL → b.get f i = a.get f i

/-! ### Host commands -/

/-- A fetched command that has begun. -/
def Fetched.begin (x : Fetched) : Fetched := { x with begun := true }

/-- The device once a command has begun: its record says so, and nothing else differs. -/
def Dev.begin (d : Dev) (x : Fetched) : Dev := d.putFetched x x.begin

/-- A host command starts (R432, R440): the host interface serves, the row's command is the next of its ring, with the row's
opcode, and no contradictory order of the same cycle is present. -/
structure Dev.Starts (d : Dev) (h : HostCmd) (op : Nat) (x : Fetched) : Prop where
  up : d.hostUp = true
  next : d.hostNext h = some x
  op : rdb x.entry 0 = op
  alone : h.rival = none

/-- It starts on a context that is in a state R440 lists, with its reserved bytes zero (R437, R440, R441). -/
structure Dev.StartsOn (d : Dev) (h : HostCmd) (op : Nat) (x : Fetched) (c : CtxId) (states : List CtxState)
    (used : List (Nat × Nat)) : Prop extends Dev.Starts d h op x where
  ctx : cmdCtx x = some c
  state : states.contains (d.ctxAt c).state = true
  clean : argsClean x.entry used = true

/-- From `a` to `b` a command that has begun completes with a status and results (R434), and beyond that the device only
reports. -/
def Dev.Completes (a b : Dev) (x : Fetched) (code r0 r1 : Nat) : Prop := ∃ e, a.Reports e ∧ b = e.finish x.begin code r0 r1

/-- The same, where the completion waits for a fill if there is one (R299, R446). -/
def Dev.CompletesAfter (a b : Dev) (x : Fetched) (fill : Bool) (code r0 r1 : Nat) : Prop :=
  ∃ e, a.Reports e ∧ b = e.finishAfterFill x.begin fill code r0 r1

/-- From `a` to `b` a command that has begun comes to owe a completion, which HOST_COMMAND_COMPLETE posts (R446), and beyond
that the device only reports. -/
def Dev.Owes (a b : Dev) (x : Fetched) (code r0 r1 : Nat) : Prop := ∃ e, a.Reports e ∧ b = e.owe x.begin code r0 r1

/-- The DPA granules that a HOST_MEM names (R441). -/
def Fetched.granules (x : Fetched) : List Nat := (List.range (rd x.entry 0x18 4)).map (· + rd x.entry 0x14 4)

/-- A HOST_MEM starts with an OP, its reserved bytes zero and its range within the region (R427, R441). -/
structure Dev.StartsHostMem (d : Dev) (h : HostCmd) (x : Fetched) (k : Nat) : Prop extends Dev.Starts d h 0x06 x where
  clean : argsClean x.entry [(0x10, 1), (0x14, 4), (0x18, 4)] = true
  range : rd x.entry 0x14 4 + rd x.entry 0x18 4 ≤ 1048576
  oper : rdb x.entry 0x10 = k

/-- The granules of a list beside the units that each capacity device gives them (R447). -/
def reclaimPairs (ks : List Nat) (picks : List (List Nat)) : List (Nat × Nat) :=
  ((List.range 16).zip picks).flatMap (fun p => (onDevice ks p.1).zip p.2)

/-- Granules that become backed by units, which become HOST (R447). -/
def Own.backed (o : Own) (pairs : List (Nat × Nat)) : Own :=
  pairs.foldl (fun o p => { (o.setOwner p.2 .host) with dpa := tblSet none o.dpa p.1 (some (some p.2)) }) o

/-- A CTX_SETUP starts and passes every check of R443 and R266: the units that it takes. -/
structure Dev.StartsSetup (d : Dev) (h : HostCmd) (x : Fetched) (c : CtxId) (us : List Nat) : Prop extends
    Dev.StartsOn d h 0x20 x c [.assigned] [(0x10, 3), (0x14, 4), (0x18, 8), (0x20, 12), (0x2C, 4), (0x30, 8), (0x38, 2)] where
  first : (d.ctxAt c).root = none
  stack : rdb x.entry 0x10 ≤ 7
  weight : rdb x.entry 0x11 ≤ 1
  some : rd x.entry 0x14 4 ≠ 0
  root : rd x.entry 0x2C 4 < granule ∧ rd x.entry 0x2C 4 % 4096 = 0
  objects : rd x.entry 0x38 2 ≤ 4064
  cores : d.coreCheck c (coresOf (rd x.entry 0x20 12)) (rdb x.entry 0x12) = none
  units : d.allocation c (rdb x.entry 0x10) (rd x.entry 0x14 4) = .some us
  sync : d.checkSync c (coresOf (rd x.entry 0x20 12)) (syncEntries (sub h.data 0 (16 * rd x.entry 0x38 2))) (fun _ => 0) = none

/-- The dies on which a CTX_SETUP gives cores: trace capture on them stops (R531). -/
def Fetched.setupDies (x : Fetched) : List Nat :=
  (List.range 8).filter (fun k => (coresOf (rd x.entry 0x20 12)).any (fun j => j / 12 = k))

/-- No trace capture runs on the dies of a list. -/
def Dev.untraced (d : Dev) (ns : List Nat) : Prop := ∀ n ∈ ns, bit (d.get MMC_TRACE.EN) n = false

/-- What a copy has done before its completion: `copied` bytes are counted (R446, R448). -/
def Dev.counted (d : Dev) (c : CtxId) (copied : Nat) : Dev := d.modCtx c (fun y => { y with copied := y.copied + copied })

/-- The PF's ring counts the bytes that it copied (R448). -/
def Dev.admCopy (d : Dev) (n : Nat) : Dev := { d with host := { d.host with admCopied := d.host.admCopied + n } }

/-- The status and RESULT0 of a HOST_COPY that reads DPA addresses (R437, R447). -/
def Dev.copyCode (d : Dev) (m : Mem) (x : Fetched) : Nat × Nat :=
  match (pieces (rd x.entry 0x10 8) (rd x.entry 0x20 8)).find? (fun p => d.dpaPoison m p.1 p.2) with
  | some p => (0x16, p.1)
  | none => (0, 0)

/-- A LOAD starts on a context that is set up and has never started, in a module that is not in ALARM (R440, R452, R456). -/
structure Dev.StartsLoad (d : Dev) (h : HostCmd) (x : Fetched) (c : CtxId) : Prop extends
    Dev.StartsOn d h 0x23 x c [.assigned] [(0x10, 8), (0x18, 8)] where
  setUp : (d.ctxAt c).root.isSome
  fresh : (d.ctxAt c).started = false ∧ (d.ctxAt c).startAt = none
  calm : d.mmc.state ≠ .alarm

/-- A container passes every check of a LOAD (R456). -/
structure Dev.Loadable (d : Dev) (c : CtxId) (b : Bytes) (len : Nat) : Prop where
  size : 160 ≤ len
  header : checkHeader b len = none
  entries : checkEntries b = none
  mode : (parseContainer b).memMode = (d.ctxAt c).memMode
  det : (parseContainer b).det = true → field (parseContainer b).memMode 2 2 ≠ 0
  rings : d.badRing (d.ctxAt c) (parseContainer b) = none
  cores : d.badCore c (parseContainer b) = none
  sync : (d.dropRingObjs c).checkSync c (d.ctxAt c).cores ((secEntries b 4).map (fun e => ⟨e⟩)) (ringObjects (parseContainer b)) = none

/-- A START starts on a context with a program, no other START pending, in a module that is not in ALARM, and passes the checks
of R444. -/
structure Dev.StartsRun (d : Dev) (h : HostCmd) (x : Fetched) (c : CtxId) (p : Container) : Prop extends
    Dev.StartsOn d h 0x24 x c [.assigned, .halted] [(0x10, 8), (0x18, 4), (0x20, 8)] where
  loaded : (d.ctxAt c).loaded = some p
  idle : (d.ctxAt c).startAt = none
  calm : d.mmc.state ≠ .alarm
  checks : d.startCheck c p (rd x.entry 0x10 8) (rd x.entry 0x18 4) h.now.toNat = none

/-- The model key that an IMPORT names by its handle (R457). -/
def Dev.importKey (d : Dev) (c : CtxId) (x : Fetched) : Bytes := tblGet [] (d.keysAt c).model (rdb x.entry 0x12)

/-- An IMPORT starts on a context, with legal fields and a key (R441, R457, R459, R480, R500). -/
structure Dev.StartsImport (d : Dev) (h : HostCmd) (x : Fetched) (c : CtxId) (dst : Nat) : Prop extends
    Dev.StartsOn d h 0x28 x c [.assigned, .halted] [(0x10, 4), (0x14, 4), (0x18, 8), (0x20, 8), (0x28, 8), (0x30, 1)] where
  calm : d.mmc.state ≠ .alarm
  source : rdb x.entry 0x10 ≤ 2
  dest : rdb x.entry 0x11 = dst
  handle : rdb x.entry 0x12 ≤ 15
  records : rd x.entry 0x14 4 ≠ 0
  key : d.importKey c x ≠ []
  queue : rdb x.entry 0x10 = 2 → d.importQueue c (rdb x.entry 0x13) = true

/-- The run that an IMPORT begins (R457). -/
def Dev.importRun (d : Dev) (c : CtxId) (x : Fetched) (image : Option Nat) : ImportRun :=
  { entry := x.entry, ring := x.ring, key := d.importKey c x, next := 0, offset := 0, pos := 0, buf := [], image := image }

/-- The next record of a context's oldest import stands ready (R457, R458). -/
structure Dev.ImportNext (d : Dev) (m : Mem) (c : CtxId) (given : Bytes) (r : ImportRun) (rec : Bytes) : Prop where
  oldest : (d.ctxAt c).imports.head? = some r
  record : d.nextRecord m c r given = some rec

/-- The plaintext of a record, where its header is in order and its tag is right (R458). -/
def importPlain (r : ImportRun) (rec : Bytes) : Option Bytes :=
  if recordOk r rec then
    Config.gcmOpen r.key (sub rec 0x0C 12) (sub rec 0 32) (sub rec 32 (rd rec 8 4)) (sub rec (32 + rd rec 8 4) 16)
  else none

/-- An import after a record of n bytes of plaintext (R457). -/
def ImportRun.after (r : ImportRun) (n : Nat) : ImportRun :=
  { r with next := r.next + 1, offset := r.offset + n, pos := r.pos + 48 + n, buf := r.buf.drop (48 + n) }

/-- The context counts a record's bytes, and its import goes on from behind it. -/
def Dev.importOn (d : Dev) (c : CtxId) (r : ImportRun) (n : Nat) : Dev :=
  d.modCtx c (fun y => { y with imported := y.imported + n, imports := y.imports.map (fun i => if i = r then r.after n else i) })

/-! ### Rings and functions -/

/-- A function may write a ring's register (R429): the PF its own rings, a VF those of its contexts. -/
def Dev.reaches (d : Dev) (fn : FnId) (r : RingSel) : Prop :=
  d.hostUp = true ∧ match selCtx r with
    | none => fn = 0
    | some c => d.owns fn c = true

/-- A ring's EN, SIZE and BASE. -/
def Dev.ringOn (d : Dev) (r : RingSel) : Bool := d.flag (ringFields r).1 (ringFields r).2.2.2.1
def Dev.ringSize (d : Dev) (r : RingSel) : Nat := d.get (ringFields r).2.1 (ringFields r).2.2.2.1
def Dev.ringBase (d : Dev) (r : RingSel) : Nat := d.get (ringFields r).2.2.1 (ringFields r).2.2.2.1

/-- The device with a ring's register written field by field (R12 to R16). -/
def Dev.ringWritten (d : Dev) (r : RingSel) (w : RegWr) : Dev := d.writeFields (ringFields r).1.reg (ringFields r).2.2.2.1 false w

/-- From `a` to `b` every context of a set that is not FREE comes into KILLING, and every other context keeps its record but for
the counts of its reports. -/
def Dev.KillsOnly (a b : Dev) (p : CtxId → Prop) : Prop :=
  (∀ c, p c → (a.ctxAt c).state ≠ .free → (b.ctxAt c).state = .killing)
  ∧ (∀ c, (¬ p c ∨ (a.ctxAt c).state = .free) → (b.ctxAt c).uncounted = (a.ctxAt c).uncounted)

/-- A reset of the PF (R426): every context is killed, no VF is left, the administration rings are disabled and empty, and none of
their commands is under way. -/
structure Dev.PfReset (a b : Dev) : Prop where
  kills : a.KillsOnly b (fun _ => True)
  vfs : b.host.numVfs = 0
  subOff : b.flag HOST_ADM_SQ_CFG.EN = false
  compOff : b.flag HOST_ADM_CQ_CFG.EN = false
  subEmpty : b.sqAt .adm = SqRec.init
  compEmpty : b.cqAt .adm = CqRec.init
  none : ∀ f ∈ b.host.fetched, f.ring ≠ .adm

/-! ### The Keeper -/

/-- A request reaches the Keeper and is taken (R425, R460, R489, R524): its function is there, the Keeper does not switch its
firmware, and a message in a session is one of that function's session that opens under its keys. -/
def Dev.Asks (d : Dev) (m : SpdmMsg) : Prop :=
  d.fnPresent m.fn = true ∧ d.mmc.switching ≠ some imgKeeper
    ∧ ∀ n, m.session = some n → m.plain = true ∧ ∃ x, d.sessionAt n.val = some x ∧ x.fn = m.fn

/-- The answer of a code that the standard fixes (R489). -/
def spdmAnswer (m : SpdmMsg) (code : Nat) : Bytes := leBytes 1 code ++ Config.spdmBody code m.fn.val m.body

/-- The measurement blocks of an answer, each behind its number: the one asked for, or all that are present (R490). -/
def Dev.blocks (d : Dev) (f : Fuses) (m : SpdmMsg) : List Bytes :=
  (if rdb m.body 1 = 0xFF then List.range 0x80 else [rdb m.body 1]).filterMap (fun i => (d.block f m i).map (fun b => leBytes 1 i ++ b))

/-- A key command comes in an established session of the VF that owns the context it names (R491). -/
structure Dev.CommandsKeys (d : Dev) (m : SpdmMsg) (n : Fin 128) (c : CtxId) : Prop where
  asks : d.Asks m
  session : m.session = some n
  inside : d.inSession m = true
  ctx : rdb m.body 1 = c.val
  vf : m.fn ≠ 0
  state : (d.ctxAt c).state ≠ .free
  owner : (d.ctxAt c).owner = m.fn

/-- The key that unwraps what a session brings (R492). -/
def Dev.wrapKey (d : Dev) (m : SpdmMsg) (n : Fin 128) : Bytes :=
  Config.importKey m.fn.val n.val (((d.sessionAt n.val).map (·.updates)).getD 0)

/-- A write of a register's row reaches the MMC, which performs it (R6, R507, R512, R524). -/
def Dev.Manages (d : Dev) (r : RegName) : Prop := d.mmc.state ≠ .off ∧ d.mmc.switching ≠ some 1 ∧ d.blockIn r = true

/-- The trips of VGLITCH and CGLITCH within the last second (R499). -/
def Dev.recentTrips (d : Dev) (now : Nat) : List (Nat × Nat) := d.keep.trips.filter (fun t => now - t.2 ≤ oneSecond)

/-- The level at which a trip acts (R499): the sensor's, or ERASE at the fourth glitch within a second. -/
def Dev.tripLevel (d : Dev) (sensor : Fin 5) (now : Nat) : Nat :=
  if (sensor.val = 1 ∨ sensor.val = 2) ∧ 3 ≤ (d.recentTrips now).length then 2 else d.alarmLevel sensor.val

/-- A trip's record in KEEP_ALARM (R499, R506). -/
def Dev.tripped (d : Dev) (sensor : Fin 5) (now : Nat) : Dev :=
  let d := if sensor.val = 1 ∨ sensor.val = 2 then d.modKeep (fun k => { k with trips := (sensor.val, now) :: d.recentTrips now }) else d
  let d := d.put KEEP_ALARM.ACTIVE (d.get KEEP_ALARM.ACTIVE ||| 2 ^ sensor.val)
  (d.put KEEP_ALARM.SEEN (d.get KEEP_ALARM.SEEN ||| 2 ^ sensor.val)).count KEEP_ALARM.LOGS

/-- A sensor whose level is CLAMP or more is active (R501). -/
def Dev.clampHeld (d : Dev) : Bool := (List.range 5).any (fun i => bit (d.get KEEP_ALARM.ACTIVE) i && 1 ≤ d.alarmLevel i)

/-! ### Rails, starts and resets -/

/-- What the loss of 48 V leaves (R507, R545): the module is in STANDBY with its input switch open, no context, no thread, no owner
and no tenant key stands, every unit is OUT, no start is under way. -/
structure Dev.Unpowered (a b : Dev) : Prop where
  state : b.mmc.state = .standby
  start : b.mmc.start = none
  ctx : b.ctx = []
  own : b.own = Own.init
  thr : b.thr = []
  slots : ∀ k, k ≠ 0 → b.slotLoaded k = false
  keys : b.keep.ctx = [] ∧ b.keep.retired = []
  system : b.slotLoaded 0 = a.slotLoaded 0
  units : ∀ g, (b.unitAt g).state = .out
  log : b.mmc.log = a.mmc.log
  flash : b.mmc.flash = a.mmc.flash

/-- A start has failed for the first or second time (R507, R511): the module is powered down, FAILS is one higher, the next cold
start is due. -/
structure Dev.FailedOnce (a b : Dev) : Prop where
  state : b.mmc.state = .standby
  start : b.mmc.start = none
  retry : b.mmc.retry = true
  fails : b.get KEEP_BOOT.FAILS = a.get KEEP_BOOT.FAILS + 1
  ctx : b.ctx = []
  keys : b.keep.ctx = [] ∧ b.keep.retired = []

/-- A cold start is under way (R503, R507, R509): TRAINING, with no debug view open and no ERASE recorded. -/
structure Dev.ColdStarting (b : Dev) : Prop where
  state : b.mmc.state = .training
  start : b.mmc.start = some ⟨true, false⟩
  debug : b.keep.debug = .locked ∧ b.keep.moduleDebug = false
  erased : b.keep.erased = false

/-- A cold module reset (R507, R513, R565): a cold start of a module that holds nothing but its error log, its flash, its rails and
what lies outside it. -/
structure Dev.ColdReset (a b : Dev) : Prop extends Dev.ColdStarting b where
  ctx : b.ctx = []
  own : b.own = Own.init
  slots : b.keep.slots = []
  keys : b.keep.ctx = [] ∧ b.keep.retired = []
  log : b.mmc.log = a.mmc.log
  flash : b.mmc.flash = a.mmc.flash
  rails : b.pwr.vin48 = a.pwr.vin48 ∧ b.pwr.vinOn = a.pwr.vinOn ∧ b.pwr.seat = a.pwr.seat
  hostMem : b.hostMem = a.hostMem

/-- A warm start is under way (R485, R507, R510, R513): TRAINING; every context is FREE, no tenant key is left, every unit is OUT;
the system key stays, so host memory outlives it. -/
structure Dev.WarmStarting (a b : Dev) (brynoa : Bool) : Prop where
  state : b.mmc.state = .training
  start : b.mmc.start = some ⟨false, brynoa⟩
  free : ∀ c, (b.ctxAt c).state = .free
  slots : ∀ k, k ≠ 0 → b.slotLoaded k = false
  system : b.slotLoaded 0 = a.slotLoaded 0
  keys : b.keep.ctx = [] ∧ b.keep.retired = []
  units : ∀ g, (b.unitAt g).state = .out
  thr : b.thr = []

/-- A write of MMC_RESET with GO that names a scope (R513, R533), with nothing in its way (R514). -/
structure Dev.OrdersReset (d : Dev) (w : RegWr) (scope : Nat) : Prop where
  manages : d.Manages .MMC_RESET
  go : wrSets w MMC_RESET.GO = true
  scope : (d.writeFields .MMC_RESET 0 false w).get MMC_RESET.SCOPE 0 = scope
  idle : d.resetBusy = false

/-! ### Units, firmware, power -/

/-- An order of MMC_UNIT_CMD with GO (R522): its OP, its unit and its group, with no command pending and no rival that outranks
it. -/
structure Dev.OrdersUnit (d : Dev) (w : RegWr) (rival : Option Rival) (op unit g : Nat) : Prop where
  manages : d.Manages .MMC_UNIT_CMD
  go : wrSets w MMC_UNIT_CMD.GO = true
  wins : mmcLoses rival = false
  oper : (d.writeFields .MMC_UNIT_CMD 0 false w).get MMC_UNIT_CMD.OP = op
  named : (d.writeFields .MMC_UNIT_CMD 0 false w).get MMC_UNIT_CMD.UNIT = unit
  group : groupOf unit = some g
  idle : d.mmc.unitCmd = none

/-- A step of MMC_FW with GO on a kind (R523), with no switch and no start under way. -/
structure Dev.OrdersFw (d : Dev) (w : RegWr) (op kind : Nat) : Prop where
  manages : d.Manages .MMC_FW
  go : wrSets w MMC_FW.GO = true
  oper : (d.writeFields .MMC_FW 0 false w).get MMC_FW.OP = op
  named : (d.writeFields .MMC_FW 0 false w).get MMC_FW.KIND = kind
  known : kind ≤ 5
  idle : d.mmc.switching = none ∧ d.mmc.start = none

/-- Nothing but registers, the power controller's own state and the count of free values changes. -/
def Dev.OnlyPower (a b : Dev) : Prop := b = { a with regs := b.regs, pwr := b.pwr, free := b.free }

/-- The quad and the spare that a request names on a port (R337, R349). -/
def Dev.lcfQuad (d : Dev) (k : Nat) (f : Bytes) : Nat :=
  d.get LNK_PORT_MAP.FIRST k + (if rdb f 0x1C = 3 then rdb f 0x1D % 16 else rdb f 0x1D)
def Dev.lcfSpare (d : Dev) (k : Nat) (f : Bytes) : Nat := d.get LNK_PORT_MAP.FIRST k + rdb f 0x1D / 16

/-! ### Packets -/

/-- A link-local packet of a type arrives at a port and passes the steps of R382 (R399, R400). -/
structure Dev.Hears (d : Dev) (a : Arrival) (ty : Nat) : Prop where
  type : a.pkt.type = ty
  found : psDiscover ≤ d.portState a.port.val
  takes : d.portTakes a.port.val a.pkt = true
  form : a.pkt.wellFormed a.flits = true
  key : d.keyPasses a.port.val a.pkt = true
  sound : a.pkt.trailer = a.pkt.crc

/-- The device once an arrival's flits have filled the input buffer and been freed (R340). -/
def Dev.passed (d : Dev) (a : Arrival) : Dev :=
  (d.holdFlits a.port.val (2 * a.pkt.tc.val + b2n a.upper) a.flits).freeFlits a.port.val (2 * a.pkt.tc.val + b2n a.upper) a.flits

/-- θ of an exchange in 1/4 ps (R405): half of (t2 - t1) - (t4 - t3), less ASYM, which is in ps. -/
def Dev.theta (d : Dev) (b : Bytes) (t1 t4 : Nat) : Int :=
  (toSigned (ofSigned ((rd b 8 8 : Nat) - (t1 : Int)) 64) 64 - toSigned (ofSigned ((t4 : Int) - (rd b 0x10 8 : Nat)) 64) 64) * 125
    - 2 * toSigned (d.get BRY_TIME_CFG.ASYM) 16

/-- A TIME_RESP answers the open exchange of a child in time (R405, R406): t1 of that exchange. -/
structure Dev.Answered (d : Dev) (a : Arrival) (t1 : Nat) : Prop extends Dev.Hears d a 0x62 where
  armed : psArmed ≤ d.portState a.port.val
  parent : d.timeParent = some a.port.val
  exchange : d.time.exchange = some (a.pkt.at' 0x10 2, t1)
  soon : d.domainTime a.now.toNat ≤ t1 + eightMicros

/-- A write of BRY_PERIOD that applies a period (R410), with APPLY set. -/
structure Dev.AppliesPeriod (d : Dev) (w : RegWr) (next : Nat) : Prop where
  manages : d.Manages .BRY_PERIOD
  apply : wrSets w BRY_PERIOD.APPLY = true
  next : (d.writeFields .BRY_PERIOD 0 false w).get BRY_PERIOD.NEXT 0 = next

/-- A packet of a type that is delivered here passes the steps of R382 up to its trailer (R366, R378, R380): whether it is
marked, and the device after the check, which may have moved to a later key generation (R494). -/
structure Dev.Delivered (d : Dev) (a : Arrival) (ty : Nat) (m : Bool) (e : Dev) : Prop where
  type : a.pkt.type = ty
  id : d.idCommitted = true
  here : d.route a.port.val a.pkt = .here
  takes : d.portTakes a.port.val a.pkt = true
  calm : d.clamps a.pkt = false
  form : a.pkt.wellFormed a.flits = true
  keyIn : d.keyPasses a.port.val a.pkt = true
  keyHere : d.keyPasses localPort a.pkt = true
  opened : d.openPkt a.pkt = (.good m, e)

/-- The flow that a packet belongs to, at its receiver (R381). -/
def arrivalFlow (a : Arrival) : Nat := flowKey a.pkt.src.toNat a.pkt.tc.val

/-- A sequenced packet is accepted at its place in its flow (R375, R383, R387), and no POISON_MAP is to follow it (R364): its
flow, and whether a SYN has opened the flow over. -/
structure Dev.InOrder (d : Dev) (a : Arrival) (ty : Nat) (m : Bool) (e : Dev) (r : RecvFlow) (z : Bool) : Prop extends
    Dev.Delivered d a ty m e where
  place : e.place7 (arrivalFlow a) a.pkt = .accept r z
  alone : z = false → r.mapped = none
  whole : a.pkt.pmap = false

/-- A flow that a SYN opens over forgets what it was waiting for (R387). -/
def RecvFlow.fresh (r : RecvFlow) (z : Bool) : RecvFlow := if z then { r with mapped := none, short := none } else r

/-- The device as an accepted packet's action finds it: its flow stands at the packet's number. -/
def Dev.taking (e : Dev) (a : Arrival) (r : RecvFlow) (z : Bool) : Dev := e.putRecv (arrivalFlow a) (r.fresh z)

/-- The device after an accepted packet's action: `n` more packets are covered, an ACK goes out once enough are owed, a
flow opened over is counted, and the input buffer is free again (R340, R384, R387). -/
def Dev.took (x : Dev) (a : Arrival) (r : RecvFlow) (z m : Bool) (n : Nat) : Dev :=
  let y := x.accepted (arrivalFlow a) (r.fresh z) a.pkt n (b2n m)
  (if z then y.count RTE_REL.RESYNC else y).passed a

/-- A numbered packet comes before `e` in its flow (R381). -/
def Sent.before (x : Sent) (e : Nat) : Bool := 32768 ≤ (x.seq + 65536 - e) % 65536

/-- A write of RTE_FLIP with FLIP set, with no flip pending (R373): its beat. -/
structure Dev.AsksFlip (d : Dev) (w : RegWr) (b : Nat) : Prop where
  manages : d.Manages .RTE_FLIP
  flip : wrSets w RTE_FLIP.FLIP = true
  idle : d.flag RTE_FLIP.PENDING = false
  beat : d.reg .RTE_FLIP_BEAT 0 = b

/-- Every output port can carry what the circuits of the version that is not in force reserve on it (R373). -/
def Dev.circuitsFit (d : Dev) : Prop := ∀ k < 12, d.booked (1 - d.inforce) k ≤ 64

/-- The tables that a flip has put in force (R372 to R374). -/
structure Dev.Flipped (a b : Dev) : Prop where
  inforce : b.inforce = 1 - a.inforce
  status : b.get RTE_FLIP.STATUS = 0
  pending : b.flag RTE_FLIP.PENDING = true
  draining : b.rte.draining = true
  tbl : b.rte.tbl = a.rte.tbl

/-- Registers that software only stores and reads back. -/
def storedRegs : List RegName := [.BRY_PERIOD_AT, .ETH_RULE_SEL, .MMC_LOG_SEL, .MMC_MGR, .MMC_UNIT_STAT, .PWR_DOM_SEL, .RTE_CC,
  .RTE_FLIP_BEAT, .RTE_TBL_SEL]

/-- A management read that performs an access of one register that has no action of its own (R16, R529). -/
structure Dev.ReadsReg (d : Dev) (q : MgmtRequest) (w : RegWr) (r : RegName) (i : Nat) : Prop where
  lanes : accessLanes q.offset.toNat q.size 0 = some w
  place : d.regAt q.space.toNat q.offset.toNat = some (r, i)
  plain : r ≠ .RTE_TBL_DATA ∧ r ≠ .KEEP_DBG_NONCE
  idle : d.mmc.switching ≠ some 1

/-! ### Ethernet -/

/-- No frame is held at any sub-port of a port. -/
def Dev.noneHeld (d : Dev) (p : Fin 2) : Prop := ∀ y ∈ subsOf p, (d.ethSub y).held = []

/-- A frame comes in at a sub-port that is up, is long enough, and is no PAUSE or PFC frame (R466, R468). -/
structure Dev.FrameComes (d : Dev) (f : EthFrame) : Prop where
  up : d.subUp f.at' = true
  long : 60 ≤ f.bytes.length
  data : isPause f.bytes = false
  calm : d.noneHeld f.at'.port

/-- Its queue, once a frame has been steered (R468). -/
def HeldFrame.dest (h : HeldFrame) : Nat := 32 * h.frame.at'.port.val + h.queue

/-- A frame is steered to an enabled receive queue with buffers in host memory, and its share has room (R469, R473). -/
structure Dev.Steered (d : Dev) (f : EthFrame) : Prop extends Dev.FrameComes d f where
  taken : d.takesAddr f.at'.port.val f.bytes = true
  room : frameTakes f ≤ d.shareBytes f.at'.port.val
  short : f.bytes.length ≤ 9212
  sound : f.fcsOk = true
  on : d.flag ETH_QCFG.EN (d.steer f).dest = true
  ring : d.flag ETH_QCFG.KIND (d.steer f).dest = false
  host : d.flag ETH_QCFG.BUFKIND (d.steer f).dest = false

/-- FLAGS of a frame that one buffer takes whole (R472): SOP and EOP, its checks, whether it is tagged. -/
def wholeFlags (f : EthFrame) : Nat := (if (parseFrame f.bytes).outer.isSome then 128 else 0) + checkFlags f.bytes + 3

/-- How far a doorbell moves a queue's tail (R433, R471). -/
def Dev.bellMore (d : Dev) (j v : Nat) : Nat := (v % 65536 + d.queueSize j - d.queueTail j) % d.queueSize j

/-- The registers of a queue after a write of ETH_QCFG by its fields, those that it does not have apart (R483). -/
def Dev.queueWritten (d : Dev) (j : Nat) (w : RegWr) : Dev := (d.writeFields .ETH_QCFG j false w).queueTrim j

/-! ### Threads -/

/-- A thread issues an instruction of `n` bytes with the bits `b` (R148, R152, R153): it is READY in a RUNNING context and the
fetch translates; the device then holds the fetch's translation. -/
structure Dev.Issues (d : Dev) (m : Mem) (th : ThreadRef) (n b : Nat) (i : Insn) (e : Dev) : Prop where
  thread : i.k = thrNo th
  holder : d.holder (thrNo th / 8) = some i.c
  pc : i.pc = (d.thrAt (thrNo th)).pc
  size : i.len = n
  word : i.bits = b
  running : (d.ctxAt i.c).state = .running
  ready : (d.thrAt (thrNo th)).state = .ready
  fetch : d.fetchFault m i = none
  cached : e = d.cache i.c i.pc (d.translate m i.c (some i.core) .fetch false i.pc)

/-- Some register operations of RV64 by funct7 and funct3, on 64-bit words (R147). -/
def regOps : List (Nat × Nat × (Nat → Nat → Nat)) :=
  [(0, 0, fun a b => (a + b) % 2 ^ 64), (0x20, 0, fun a b => (a + (2 ^ 64 - b)) % 2 ^ 64), (0, 3, fun a b => if a < b then 1 else 0),
   (0, 4, fun a b => a ^^^ b), (0, 6, fun a b => a ||| b), (0, 7, fun a b => a &&& b), (1, 0, fun a b => a * b % 2 ^ 64),
   (1, 5, fun a b => if b = 0 then 2 ^ 64 - 1 else a / b), (1, 7, fun a b => if b = 0 then a else a % b)]

/-- A custom instruction whose unused fields are zero (R159). -/
def bareOp (op : CustOp) : Prop := op.rd.val = 0 ∧ op.rs1.val = 0 ∧ op.rs2.val = 0 ∧ op.funct7.toNat = 0

/-- A near access of a thread to plain memory (R280): the place, whether it is read-only, the device with the translation cached. -/
def Dev.ReachesMem (d : Dev) (m : Mem) (i : Insn) (acc : Access) (va a : Nat) (ro : Bool) (e : Dev) : Prop :=
  d.reach m i acc va = (.near (.mem a) ro, e)

/-- A thread's near write of `n` bytes finds them free to be written (R194, R196). -/
def Dev.freeToWrite (d : Dev) (a n : Nat) : Prop := d.nearHeld a n = false ∧ d.nearBlock a n true = none

/-- The address that a load or store names (R149). -/
def Dev.loadAddr (d : Dev) (i : Insn) (op : LoadOp) : Nat := (d.xreg i.k op.rs1.val + imm12 op.imm) % 2 ^ 64
def Dev.storeAddr (d : Dev) (i : Insn) (op : StoreOp) : Nat := (d.xreg i.k op.rs1.val + imm12 op.imm) % 2 ^ 64

/-- The kind, condition and reserved bits of MWAIT's funct7 are legal, and rs1 names an object of that kind (R161). -/
structure Dev.WaitsOn (d : Dev) (i : Insn) (op : CustOp) (kind cond obj v : Nat) : Prop where
  kindOf : field op.funct7.toNat 0 2 = kind
  condOf : field op.funct7.toNat 2 2 = cond
  legal : cond ≠ 3 ∧ field op.funct7.toNat 4 3 = 0
  names : objectOf kind (d.xreg i.k op.rs1.val) = some obj
  value : d.objectValue i.c i.core kind obj = some v

/-- A MISSUE finds its command (R155, R160): its queue, and the 32 bytes that it reads from its own core's memory. -/
structure Dev.Issuing (d : Dev) (m : Mem) (i : Insn) (op : CustOp) (q v : Nat) (e : Dev) : Prop where
  funct : op.funct7.toNat = 0
  queue : d.xreg i.k op.rs2.val = q
  known : q < 7
  owner : d.mayIssue i q = true
  aligned : d.xreg i.k op.rs1.val % 32 = 0
  place : ∃ a ro f, d.ReachesMem m i .read (d.xreg i.k op.rs1.val) a ro f ∧ f.coreOf a = some i.core ∧ 0x01000000 ≤ f.toCoreLocal a
    ∧ f.toCoreLocal a < 0x02200000 ∧ f.threadRead m i (.mem a) (d.xreg i.k op.rs1.val) 32 = (.value v, e)

/-! ### Engines and vector units -/

/-- The front command of a queue may start, has the opcode `n`, and its unit is admitted (R25, R124, R125). -/
structure Dev.CmdStarts (d : Dev) (core q n : Nat) (c : CtxId) (x : QCmd) : Prop where
  front : d.frontCmd core q = some (c, x)
  op : x.op = n
  admitted : d.admitted (queueGroup core q) = true

/-- The same, and it races with no earlier command of its queue (R121). -/
structure Dev.Front (d : Dev) (core q n : Nat) (c : CtxId) (x : QCmd) : Prop extends d.CmdStarts core q n c x where
  settled : d.racing core q x = []

/-- The device once a queue's command has been executed: its completion word waits for COMMAND_COMPLETION (R122). -/
def Dev.executed (d : Dev) (core q : Nat) (x : QCmd) (w : Nat) : Dev :=
  d.modCmd core q x.accept (fun y => { y with result := some w })

/-- The commands of an engine, with their opcodes and what they do (R127). -/
def engineRows (e : EngineRef) : List (Instr × Nat × (Nat → Nat → CtxId → QCmd → Mem → Dev → CmdEnd)) :=
  [(.loadb e, 1, Dev.loadb), (.mma e, 2, Dev.mma false), (.mmat e, 3, Dev.mma true), (.epi e, 4, Dev.setEpi),
    (.drain e, 5, Dev.drainRowsCmd), (.zero e, 6, Dev.zeroRows), (.cvt e, 7, Dev.cvtCmd)]

/-- The commands of a vector unit, with their opcodes and what they do (R127). -/
def vectorRows (u : CoreRef) : List (Instr × Nat × (Nat → CtxId → QCmd → Mem → Dev → CmdEnd)) :=
  [(.vew u, 0x10, Dev.vew), (.vred u, 0x11, Dev.vred), (.vcvt u, 0x12, Dev.vcvt), (.vrand u, 0x13, Dev.vrand),
    (.vseed u, 0x14, Dev.vseed)]

/-- The runs that a command reads and writes are free: no tag holds them, no held slot is written, every line read was written
(R194, R196, R199). -/
structure Dev.SpansFree (d : Dev) (m : Mem) (core : Nat) (reads writes : List Span) : Prop where
  tags : d.spansBlock core reads writes = false
  held : writes.any (fun s => d.inHeld core s.1 s.2) = false
  cold : d.coldLines m core reads = []

/-- From `a` to `b` a command of an engine has been executed with a completion word, and beyond that only the engine has
changed. -/
def Dev.engineRan (a b : Dev) (core k : Nat) (x : QCmd) (w : Nat) : Prop :=
  b = { a.executed core k x w with eng := b.eng } ∧ ∀ c j, c * 4 + j ≠ core * 4 + k → b.engAt c j = a.engAt c j

/-- The activation rows of an MMA and their scales (R129). -/
def QCmd.actRows (x : QCmd) (k : Nat) (tl : Tile) : List Span :=
  obRows k (rd x.bytes 8 4) (rd x.bytes 0x10 4) (rd x.bytes 0x16 2) (elemBytes (rdb x.bytes 0x1A % 16) tl.kdepth)
def QCmd.actScales (x : QCmd) (k : Nat) (tl : Tile) : List Span :=
  obRows k (rd x.bytes 0xC 4) (rd x.bytes 0x14 2) (rd x.bytes 0x16 2) (scalesBytes (rdb x.bytes 0x1A % 16) tl.kdepth)

/-- An MMA or MMAT passes every check of R110, R111, R113, R116, R117, R129 and R130. -/
structure Dev.Multiplies (d : Dev) (m : Mem) (core k : Nat) (ternary : Bool) (x : QCmd) (tl : Tile) (p : Pairing) : Prop where
  rows : 1 ≤ rd x.bytes 0x16 2 ∧ rd x.bytes 0x18 2 + rd x.bytes 0x16 2 ≤ 2048
  tile : (d.engAt core k).tile (rdb x.bytes 0x1B % 2) = some tl
  kind : decide (tl.wfmt = fT2) = ternary
  pair : pairing tl.wfmt (rdb x.bytes 0x1A % 16) = some p
  deep : tl.kdepth ≤ p.deepest
  acc : bit (rdb x.bytes 0x1A) 5 = true → ∀ i < rd x.bytes 0x16 2,
    ((d.engAt core k).row (i + rd x.bytes 0x18 2)).ty = b2n p.int ∧ ((d.engAt core k).row (i + rd x.bytes 0x18 2)).written = true
  elems : obOk (rd x.bytes 8 4) (rd x.bytes 0x10 4) (rd x.bytes 0x16 2) (elemBytes (rdb x.bytes 0x1A % 16) tl.kdepth) 4 = true
  scales : scalesBytes (rdb x.bytes 0x1A % 16) tl.kdepth ≠ 0 → obOk (rd x.bytes 0xC 4) (rd x.bytes 0x14 2) (rd x.bytes 0x16 2)
    (scalesBytes (rdb x.bytes 0x1A % 16) tl.kdepth) (scaleBytes (rdb x.bytes 0x1A % 16)) = true
  free : d.SpansFree m core (x.actRows k tl ++ x.actScales k tl) []

/-- The exact values of an MMA's i-th activation row (R92, R129). -/
def Dev.actValues (d : Dev) (m : Mem) (core k : Nat) (x : QCmd) (tl : Tile) (i : Nat) : List Num :=
  let f := rdb x.bytes 0x1A % 16
  (readElems f (bit (rdb x.bytes 0x1A) 4) tl.kdepth (d.readSpan m core ((x.actRows k tl).getD i (0, 0)))
    (if scalesBytes f tl.kdepth = 0 then [] else d.readSpan m core ((x.actScales k tl).getD i (0, 0)))).1

/-- Whether that row or its scales carry poison (R118). -/
def Dev.actPoison (d : Dev) (m : Mem) (core k : Nat) (x : QCmd) (tl : Tile) (i : Nat) : Bool :=
  d.spanPoison m core ((x.actRows k tl).getD i (0, 0))
    || (scalesBytes (rdb x.bytes 0x1A % 16) tl.kdepth ≠ 0 && d.spanPoison m core ((x.actScales k tl).getD i (0, 0)))

/-- A DRAIN of one row that no vector feeds (R133, R135): its row, columns, destination run and output format. -/
structure Dev.DrainsRow (d : Dev) (m : Mem) (core k : Nat) (x : QCmd) (outf : Nat) (dst : Span) : Prop where
  one : rd x.bytes 0xA 2 = 1
  row : rd x.bytes 8 2 < 2048
  cols : 1 ≤ rdb x.bytes 0x1B ∧ rdb x.bytes 0x1B ≤ 128
  plain : fmtBlock outf = 0
  written : ((d.engAt core k).row (rd x.bytes 8 2)).written = true
  place : d.drainRows core k (rd x.bytes 0xC 4) (rd x.bytes 0x10 4) 1 (elemBytes outf (rdb x.bytes 0x1B)) 4 = some [dst]
  free : d.SpansFree m core [] [dst]

/-- A CVT or VCVT of one element between unscaled formats, without draws (R94, R134). -/
structure CvtUse.One (u : CvtUse) (src dst : Span) : Prop where
  count : u.count = 1
  plain : fmtBlock u.sf = 0 ∧ fmtBlock u.df = 0
  mode : u.cv.mode ≠ rSR
  src : u.src = [src]
  dst : u.dst = [dst]

/-- The packed result of converting one packed element (R81, R94). -/
def CvtUse.oneElem (u : CvtUse) (bs : Bytes) : Bytes :=
  packCodes u.df [(convOne u.sf u.df u.cv 0 (elemValue u.sf u.cv.ftz ((unpackCodes u.sf 1 bs).getD 0 0)).1).1]

/-- An FP32 result as it is stored with RNE, SAT and no FTZ (R93 to R96). -/
def storedFp32 (v : Num) : Bytes := packCodes fFP32 [(convOne fFP32 fFP32 ⟨0, false, false⟩ 0 (flushed false v).1).1]

/-- The FP32 values of a run, as a vector command converts them with RNE, SAT and no FTZ (R140). -/
def Dev.fp32At (d : Dev) (m : Mem) (core n : Nat) (s : Span) : List Num :=
  (unpackCodes fFP32 n (d.readSpan m core s)).map (fun v => (toFp32 ⟨0, false, false⟩ fFP32 v).1)

/-- The runs of the operands that a VEW of one FP32 element uses (R140, R141). -/
def vewRuns (uses : Bool × Bool × Bool) (b : Bytes) : List Span :=
  (if uses.1 then [(rd b 8 4, 4)] else []) ++ (if uses.2.1 then [(rd b 0xC 4, 4)] else [])
    ++ (if uses.2.2 then [(rd b 0x10 4, 4)] else [])

/-- The value of an operand: zero where it is not used. -/
def Dev.vewArg (d : Dev) (m : Mem) (core : Nat) (used : Bool) (a : Nat) : Num :=
  if used then (d.fp32At m core 1 (a, 4)).getD 0 .nan else .zero

/-- From `a` to `b` a command of a vector unit has been executed and is done; the poison and status bits of its completion word
apart, its queue shows no more than that (R122, R123). -/
def Dev.vectorRan (a b : Dev) (core : Nat) (x : QCmd) (poison : Bool) : Prop :=
  ∃ fp, b.que = (a.executed core 4 x (complWord 0 fp poison false)).que

/-- From `a` to `b` a unit of a core has written memory: command queues with what they keep of old contents, generators and engines apart, which a statement gives
besides, only reservations have broken (R149) and digests of lock-step have moved (R417). -/
structure Dev.WroteOnly (a b : Dev) : Prop where
  rest : b = { a with que := b.que, past := b.past, gens := b.gens, eng := b.eng, thr := b.thr, ctx := b.ctx }
  thr : ∀ k, { b.thrAt k with resv := none } = { a.thrAt k with resv := none }
  ctx : ∀ c, { b.ctxAt c with lock := (a.ctxAt c).lock } = a.ctxAt c

/-! ### Stream engines -/

/-- The next command of a stream engine has the opcode `n`, and its unit is admitted (R25, R208, R212). -/
structure Dev.NextStream (d : Dev) (k n : Nat) (c : CtxId) (x : QCmd) : Prop where
  next : d.nextCmd k = some (c, x)
  op : x.op = n
  admitted : d.admitted (csGroup (strCore k)) = true

/-- A read of local memory by a stream engine finds it allowed, free, written and clean (R174, R194, R199, R202). -/
structure Dev.ReadsClean (d : Dev) (m : Mem) (c : CtxId) (a n : Nat) : Prop where
  check : d.homeCheck c (.mem a) n false = none
  tags : (d.coreOf a).any (fun k => (d.tagBlock k (d.toCoreLocal a) n false).isSome) = false
  written : m.uninit a n = false
  clean : m.poisoned a n = false

/-- A write by a stream engine to its own core's memory finds it allowed and free (R174, R194, R196). -/
structure Dev.WritesOwn (d : Dev) (c : CtxId) (core b n : Nat) : Prop where
  check : d.homeCheck c (.mem b) n true = none
  home : d.coreOf b = some core
  held : d.inHeld core (d.toCoreLocal b) n = false
  tags : d.tagBlock core (d.toCoreLocal b) n true = none

/-- What a clean source read leaves of its transfer: nothing new. -/
def Dev.afterRead (d : Dev) (k : Nat) (t : Transfer) : Dev :=
  d.modTransfer k t.accept t.index (fun y => { y with poison := y.poison || false, fpstat := y.fpstat ||| 0 })

/-- The next piece of a LINEAR transfer of bytes: `n` of them, read at the local address `a` and written at `b`, each contiguous
(R207, R218, R223, R234). -/
structure Dev.MovesPiece (d : Dev) (m : Mem) (k : Nat) (c : CtxId) (t : Transfer) (a b n : Nat) (f : Dev) : Prop where
  src : ∃ e, d.aimAll m c (strCore k) (dsSrcKind t.desc) (addr64 (dsSrc t.desc) (t.off : Nat)) n false
      = (.ok [⟨.here (.mem a), addr64 (dsSrc t.desc) (t.off : Nat), n⟩], e) ∧ e.ReadsClean m c a n
    ∧ (e.afterRead k t).aimAll m c (strCore k) (dsDstKind t.desc) (addr64 (dsDst t.desc) (t.off : Nat)) n true
      = (.ok [⟨.here (.mem b), addr64 (dsDst t.desc) (t.off : Nat), n⟩], f)
  plain : dsKind t.desc = 1 ∧ dsSfmt t.desc = dsDfmt t.desc ∧ dsBram t.desc = 0 ∧ dsMcast t.desc = false ∧ t.pops = false
  own : t.own = none

/-- The descriptors of a chain by KIND (R218). -/
def chainRows (u : StreamRef) : List (Instr × Nat) :=
  [(.linear u, 1), (.strided u, 2), (.gather u, 3), (.scatter u, 4), (.transpose u, 5)]

/-- A descriptor of a chain stands ready: its engine has started no stop and waits at no marker, and its 64 bytes are free,
written, clean and as they were when the CHAIN was accepted or a marker last released (R207, R214, R226, R237). -/
structure Dev.ChainNext (d : Dev) (m : Mem) (k : Nat) (c : CtxId) (ch : ChainRun) (b : Bytes) : Prop where
  ctx : d.strCtx k = some c
  chain : (d.strAt k).chain = some ch
  unread : ch.desc = none
  runs : (d.strAt k).stopper = none ∧ (d.strAt k).marker = none
  tags : d.tagBlock (strCore k) (rd ch.cmd 8 4 + 64 * ch.next) 64 false = none
  bytes : b = m.read ((d.coreLocal (strCore k) (rd ch.cmd 8 4 + 64 * ch.next)).getD 0) 64
  settled : d.oldDesc m k ch.accept (lineOf ((d.coreLocal (strCore k) (rd ch.cmd 8 4 + 64 * ch.next)).getD 0)) = none
  written : m.uninit ((d.coreLocal (strCore k) (rd ch.cmd 8 4 + 64 * ch.next)).getD 0) 64 = false
  clean : m.poisoned ((d.coreLocal (strCore k) (rd ch.cmd 8 4 + 64 * ch.next)).getD 0) 64 = false

/-- The state with another device: memory, fuses and queue are the same. -/
def State.withDev (s : State) (d : Dev) : State := { s with dev := d }

/-- The parts of a state beside the device are unchanged. -/
def State.onlyDev (s t : State) : Prop := t.mem = s.mem ∧ t.fuse = s.fuse ∧ t.pending = s.pending

end Sys2Proof.Machine
end

