-- ==== Sys2Proof/Certificates/Slice0/Obligations.lean ====
section
/-! DEFINITION. The statements for the provers. -/

open Sys2Proof Sys2Proof.Machine

/-! ### Host commands on contexts (R440 to R449) -/

/-- ASSIGN (R441, R443, R449): a FREE context becomes ASSIGNED with the owner, PKEY and quotas that the entry names, its memory
key is loaded, and the command completes OK.
ASSIGN of a PKEY that another context holds completes with CONFLICT and changes nothing else (R443). -/
def Obligations.Assign : Prop :=
  (∀ (h : HostCmd) (x : Fetched) (c : CtxId) (s : State),
    s.dev.StartsOn h 0x01 x c [.free] [(0x10, 1), (0x12, 2), (0x14, 2), (0x18, 4), (0x1C, 4), (0x20, 2)] →
    1 ≤ rdb x.entry 0x10 → rdb x.entry 0x10 ≤ 63 → rd x.entry 0x12 2 ≠ 0 → rd x.entry 0x12 2 ≠ 0xFFFF → rd x.entry 0x14 2 ≤ 96 →
    (∀ o, (s.dev.ctxAt o).state ≠ .free → (s.dev.ctxAt o).pkey ≠ rd x.entry 0x12 2) →
    Answers (.assign h) s (fun t => s.onlyDev t ∧
      Dev.Completes (((s.dev.begin x).modCtx c (fun _ => { Ctx.init with
          state := .assigned, owner := Fin.ofNat 64 (rdb x.entry 0x10), pkey := rd x.entry 0x12 2, coreQuota := rd x.entry 0x14 2,
          hbmQuota := rd x.entry 0x18 4, capQuota := rd x.entry 0x1C 4, shmQuota := rd x.entry 0x20 2 })).putSlot (c.val + 1) true)
        t.dev x 0 0 0))
  ∧ (∀ (h : HostCmd) (x : Fetched) (c o : CtxId) (s : State),
    s.dev.StartsOn h 0x01 x c [.free] [(0x10, 1), (0x12, 2), (0x14, 2), (0x18, 4), (0x1C, 4), (0x20, 2)] →
    1 ≤ rdb x.entry 0x10 → rdb x.entry 0x10 ≤ 63 → rd x.entry 0x12 2 ≠ 0 → rd x.entry 0x12 2 ≠ 0xFFFF → rd x.entry 0x14 2 ≤ 96 →
    (s.dev.ctxAt o).state ≠ .free → (s.dev.ctxAt o).pkey = rd x.entry 0x12 2 →
    Answers (.assign h) s (fun t => s.onlyDev t ∧ Dev.Completes (s.dev.begin x) t.dev x 0x05 0 0))


/-- RELEASE and KILL (R449) put the context into KILLING under its issuer, clear its cores' SRAM and its shared memory, and
stand as the command that the end of the kill completes; KILL_COMPLETE makes a KILLING context FREE, its off-die units
FREE_DIRTY and its shared-memory units FREE_CLEAN (R300). -/
def Obligations.KillEndsContext : Prop :=
  (∀ (h : HostCmd) (x : Fetched) (c : CtxId) (s : State), s.dev.StartsOn h 0x02 x c [.assigned, .halted] [] →
    Answers (.release h) s (fun t => (t.dev.ctxAt c).state = .killing ∧ (t.dev.ctxAt c).killCmd = some x.begin
      ∧ (t.dev.ctxAt c).issuer = s.dev.ringCode x.ring ∧ t.fuse = s.fuse
      ∧ t.mem = s.mem.apply ((s.dev.ctxAt c).cores.flatMap s.dev.coreSram
          ++ ((s.dev.own.unitsOf c).filter (shmUnit0 ≤ ·)).map (fun u => MemEff.clear (unitAddr u) (unitBytes u)))))
  ∧ (∀ (h : HostCmd) (x : Fetched) (c : CtxId) (s : State), s.dev.StartsOn h 0x03 x c [.assigned, .running, .halted] [] →
    Answers (.kill h) s (fun t => (t.dev.ctxAt c).state = .killing ∧ (t.dev.ctxAt c).killCmd = some x.begin
      ∧ (t.dev.ctxAt c).issuer = s.dev.ringCode x.ring ∧ t.fuse = s.fuse
      ∧ t.mem = s.mem.apply ((s.dev.ctxAt c).cores.flatMap s.dev.coreSram
          ++ ((s.dev.own.unitsOf c).filter (shmUnit0 ≤ ·)).map (fun u => MemEff.clear (unitAddr u) (unitBytes u)))))
  ∧ (∀ (c : CtxId) (s : State), (s.dev.ctxAt c).state = .killing →
    Answers (.killComplete c) s (fun t => (t.dev.ctxAt c).state = .free ∧ t.dev.own = s.dev.own.freeCtx c ∧ s.onlyDev t))

/-- GRANT_IMAGE and REVOKE_IMAGE (R75, R440, R459): a grant adds the context to the image's grants; a revocation takes it away,
and with the last grant the image, its units (FREE_DIRTY) and its key go.  An image that does not exist completes BAD_FIELD. -/
def Obligations.ImageGrants : Prop :=
  (∀ (h : HostCmd) (x : Fetched) (c : CtxId) (us : List Nat) (gs : List CtxId) (s : State),
    s.dev.StartsOn h 0x04 x c [.assigned, .running, .halted] [(0x10, 1)] → s.dev.own.image (rdb x.entry 0x10) = some (us, gs) →
    Answers (.grantImage h) s (fun t => s.onlyDev t ∧
      Dev.Completes ((s.dev.begin x).withOwn { s.dev.own with
        images := tblSet none s.dev.own.images (rdb x.entry 0x10) (some (us, if gs.contains c then gs else gs ++ [c])) })
        t.dev x 0 0 0))
  ∧ (∀ (h : HostCmd) (x : Fetched) (c : CtxId) (us : List Nat) (gs : List CtxId) (s : State),
    s.dev.StartsOn h 0x05 x c [.assigned, .running, .halted] [(0x10, 1)] → s.dev.own.image (rdb x.entry 0x10) = some (us, gs) →
    Answers (.revokeImage h) s (fun t => s.onlyDev t ∧
      Dev.Completes (if !gs.contains c then s.dev.begin x
        else if (gs.filter (· ≠ c)).isEmpty then
          ((s.dev.begin x).withOwn { (s.dev.own.setOwners us .freeDirty) with
            images := tblSet none s.dev.own.images (rdb x.entry 0x10) none }).putSlot (65 + rdb x.entry 0x10) false
        else (s.dev.begin x).withOwn { s.dev.own with
          images := tblSet none s.dev.own.images (rdb x.entry 0x10) (some (us, gs.filter (· ≠ c))) }) t.dev x 0 0 0))
  ∧ (∀ (h : HostCmd) (x : Fetched) (c : CtxId) (s : State), s.dev.own.image (rdb x.entry 0x10) = none →
    (s.dev.StartsOn h 0x04 x c [.assigned, .running, .halted] [(0x10, 1)] →
      Answers (.grantImage h) s (fun t => s.onlyDev t ∧ Dev.Completes (s.dev.begin x) t.dev x 0x02 0 0))
    ∧ (s.dev.StartsOn h 0x05 x c [.assigned, .running, .halted] [(0x10, 1)] →
      Answers (.revokeImage h) s (fun t => s.onlyDev t ∧ Dev.Completes (s.dev.begin x) t.dev x 0x02 0 0)))

/-- MEM_ALLOC and MEM_FREE (R299, R300, R442): an allocation takes the units that the rules of R299 pick within the quota, clears
those that are dirty, gives them to the context, writes their addresses to host memory and completes with their count, after the
fill where there is one; a release makes every listed unit FREE_DIRTY, or none if one of them is not the context's.
HOST_MEM (R447): a release of backed granules makes their units FREE_DIRTY and the granules released; a reclaim gives each
released granule a free unit of its own device, cleared where it is dirty; a release of a released granule completes BAD_FIELD,
a reclaim for which one device has too few free units NO_MEM, and both change nothing. -/
def Obligations.MemoryOwnership : Prop :=
  ((∀ (h : HostCmd) (x : Fetched) (c : CtxId) (us : List Nat) (s : State),
    s.dev.StartsOn h 0x21 x c [.assigned, .halted] [(0x10, 1), (0x11, 1), (0x14, 4), (0x18, 8)] →
    rdb x.entry 0x11 ≤ 1 → (rdb x.entry 0x10 < 0x20 ∨ s.dev.flat (rdb x.entry 0x10 - 0x20) = false) →
    s.dev.allocation c (rdb x.entry 0x10) (rd x.entry 0x14 4) = some us → us.any s.dev.traced = false →
    Answers (.memAlloc h) s (fun t => t.mem = s.mem.apply (s.dev.fillEffs us) ∧ t.fuse = s.fuse ∧ t.pending = s.pending ∧
      Dev.CompletesAfter ((((s.dev.begin x).hostWrite (rd x.entry 0x18 8) (us.flatMap (fun u => leBytes 8 (s.dev.unitGlobal u)))).withOwn
          (s.dev.own.setOwners us (.context c (rdb x.entry 0x11 = 1)))).modCtx c (fun y => { y with given := y.given ++ us }))
        t.dev x (s.dev.anyDirty us) 0 (rd x.entry 0x14 4) 0))
  ∧ (∀ (h : HostCmd) (x : Fetched) (c : CtxId) (s : State),
    s.dev.StartsOn h 0x21 x c [.assigned, .halted] [(0x10, 1), (0x11, 1), (0x14, 4), (0x18, 8)] →
    rdb x.entry 0x11 ≤ 1 → (rdb x.entry 0x10 < 0x20 ∨ s.dev.flat (rdb x.entry 0x10 - 0x20) = false) →
    (deviceUnits (rdb x.entry 0x10)).isSome → s.dev.allocation c (rdb x.entry 0x10) (rd x.entry 0x14 4) = none →
    Answers (.memAlloc h) s (fun t => s.onlyDev t ∧ Dev.Completes (s.dev.begin x) t.dev x 0x0C 0 0))
  ∧ (∀ (h : HostCmd) (x : Fetched) (c : CtxId) (us : List Nat) (s : State),
    s.dev.StartsOn h 0x22 x c [.assigned, .halted] [(0x14, 4), (0x18, 8)] →
    (List.range (rd x.entry 0x14 4)).map (fun i => s.dev.ownedUnit c (rd h.data (8 * i) 8)) = us.map some →
    Answers (.memFree h) s (fun t => s.onlyDev t ∧
      Dev.Completes (((s.dev.begin x).withOwn (s.dev.own.setOwners us .freeDirty)).invalidate c none) t.dev x 0 0 0))
  ∧ (∀ (h : HostCmd) (x : Fetched) (c : CtxId) (i : Nat) (s : State),
    s.dev.StartsOn h 0x22 x c [.assigned, .halted] [(0x14, 4), (0x18, 8)] →
    i < rd x.entry 0x14 4 → s.dev.ownedUnit c (rd h.data (8 * i) 8) = none →
    Answers (.memFree h) s (fun t => s.onlyDev t ∧ Dev.Completes (s.dev.begin x) t.dev x 0x11 0 0)))
  ∧ ((∀ (h : HostCmd) (x : Fetched) (s : State), s.dev.StartsHostMem h x 1 → (∀ k ∈ x.granules, (s.dev.dpaUnit k).isSome) →
    Answers (.hostMemRelease h) s (fun t => s.onlyDev t ∧
      Dev.Completes ((s.dev.begin x).withOwn (x.granules.foldl (fun o k => o.releaseDpa k ((s.dev.dpaUnit k).getD 0)) s.dev.own))
        t.dev x 0 0 0))
  ∧ (∀ (h : HostCmd) (x : Fetched) (k : Nat) (s : State), s.dev.StartsHostMem h x 1 → k ∈ x.granules → s.dev.dpaUnit k = none →
    Answers (.hostMemRelease h) s (fun t => s.onlyDev t ∧ Dev.Completes (s.dev.begin x) t.dev x 0x02 0 0))
  ∧ (∀ (h : HostCmd) (x : Fetched) (picks : List (List Nat)) (s : State), s.dev.StartsHostMem h x 2 →
    (∀ k ∈ x.granules, s.dev.dpaUnit k = none) →
    (List.range 16).map (fun m => s.dev.pickUnits (capUnit0 + m * 65536) 65536 (onDevice x.granules m).length) = picks.map some →
    Answers (.hostMemReclaim h) s (fun t => t.fuse = s.fuse ∧ t.pending = s.pending
      ∧ t.mem = s.mem.apply (s.dev.fillEffs ((reclaimPairs x.granules picks).map (·.2)))
      ∧ Dev.CompletesAfter ((s.dev.begin x).withOwn (s.dev.own.backed (reclaimPairs x.granules picks))) t.dev x
        (s.dev.anyDirty ((reclaimPairs x.granules picks).map (·.2))) 0 0 0))
  ∧ (∀ (h : HostCmd) (x : Fetched) (m : Nat) (s : State), s.dev.StartsHostMem h x 2 → (∀ k ∈ x.granules, s.dev.dpaUnit k = none) →
    m < 16 → s.dev.pickUnits (capUnit0 + m * 65536) 65536 (onDevice x.granules m).length = none →
    Answers (.hostMemReclaim h) s (fun t => s.onlyDev t ∧ Dev.Completes (s.dev.begin x) t.dev x 0x0C 0 0)))


/-- HALT_AT_BEAT (R445): on a beat-locked context the halt becomes pending, and the command waits for it; a beat less than
10 microseconds away completes LATE, a second halt BAD_STATE, a context that is not beat-locked BAD_MODE, each without effect.
HALT_NOW (R445, R449) halts the context with reason 2 and completes OK.
STATS (R448): the 128 bytes of counts go to host memory, of one context for a VF, of all 64 and the administration ring for
the PF. -/
def Obligations.HaltAndStats : Prop :=
  ((∀ (h : HostCmd) (x : Fetched) (c : CtxId) (s : State), s.dev.StartsOn h 0x25 x c [.running] [(0x10, 8)] →
    Answers (.haltAtBeat h) s (fun t => s.onlyDev t ∧
      ((s.dev.ctxAt c).haltAt ≠ none → Dev.Completes (s.dev.begin x) t.dev x 0x03 0 0)
      ∧ ((s.dev.ctxAt c).haltAt = none → s.dev.locked c = false → Dev.Completes (s.dev.begin x) t.dev x 0x07 0 0)
      ∧ ((s.dev.ctxAt c).haltAt = none → s.dev.locked c = true → s.dev.tooLate (rd x.entry 0x10 8) h.now.toNat = true →
        Dev.Completes (s.dev.begin x) t.dev x 0x10 0 0)
      ∧ ((s.dev.ctxAt c).haltAt = none → s.dev.locked c = true → s.dev.tooLate (rd x.entry 0x10 8) h.now.toNat = false →
        t.dev = (s.dev.begin x).modCtx c (fun y => { y with haltAt := some (rd x.entry 0x10 8) }))))
  ∧ (∀ (h : HostCmd) (x : Fetched) (c : CtxId) (s : State), s.dev.StartsOn h 0x26 x c [.running] [] →
    Answers (.haltNow h) s (fun t => s.onlyDev t ∧ (t.dev.ctxAt c).state = .halted ∧ (t.dev.ctxAt c).haltAt = none
      ∧ (t.dev.ctxAt c).haltRbeat = none ∧ Dev.Completes ((s.dev.begin x).haltCtx c 2) t.dev x 0 0 0)))
  ∧ (∀ (h : HostCmd) (x : Fetched) (s : State), s.dev.Starts h 0x08 x → argsClean x.entry [(0x10, 8)] = true →
    Answers (.stats h) s (fun t => s.onlyDev t ∧
      Dev.Completes ((s.dev.begin x).hostWrite (rd x.entry 0x10 8) (match x.ring with
        | .adm => s.dev.statsBlock allCtx true
        | .sq c _ => s.dev.statsBlock [c] false)) t.dev x 0 0 0))


/-- CTX_SETUP (R266, R302, R442, R443): with every check passed the units, cleared where they are dirty, and the cores become the
context's, its root table stands at the offset in its first unit, its sync objects are bound, and the command completes with the
root's address, after the fill where there is one.  A die that captures a trace is covered by the second part (R531). -/
def Obligations.CtxSetupBinds : Prop :=
  (∀ (h : HostCmd) (x : Fetched) (c : CtxId) (us : List Nat) (s : State), s.dev.StartsSetup h x c us → s.dev.untraced x.setupDies →
    Answers (.ctxSetup h) s (fun t => t.mem = s.mem.apply (s.dev.fillEffs us) ∧ t.fuse = s.fuse ∧ t.pending = s.pending ∧
      Dev.CompletesAfter (((((s.dev.begin x).hostWrite (rd x.entry 0x18 8) (us.flatMap (fun u => leBytes 8 (s.dev.unitGlobal u)))).withOwn
          (s.dev.own.setOwners us (.context c (rdb x.entry 0x11 = 1)))).modCtx c (fun y => { y with
            cores := coresOf (rd x.entry 0x20 12), memMode := rdb x.entry 0x12,
            root := some (s.dev.unitGlobal (us.headD 0) + rd x.entry 0x2C 4), given := y.given ++ us })).bindSync c
          (syncEntries (sub h.data 0 (16 * rd x.entry 0x38 2)))) t.dev x (s.dev.anyDirty us) 0
        (s.dev.unitGlobal (us.headD 0) + rd x.entry 0x2C 4) 0))
  ∧ (∀ (h : HostCmd) (x : Fetched) (c : CtxId) (us : List Nat) (s : State), s.dev.StartsSetup h x c us →
    Answers (.ctxSetup h) s (fun t => t.fuse = s.fuse ∧ t.pending = s.pending ∧ t.dev.untraced x.setupDies
      ∧ t.mem = s.mem.apply ((x.setupDies.filter (fun n => bit (s.dev.get MMC_TRACE.EN) n)).map
          (fun n => MemEff.clear (dieAddr n (quadrantBase 3)) 0x01800000) ++ s.dev.fillEffs us)
      ∧ (t.dev.ctxAt c).cores = coresOf (rd x.entry 0x20 12)
      ∧ (t.dev.ctxAt c).root = some (s.dev.unitGlobal (us.headD 0) + rd x.entry 0x2C 4)))

/-- COPY (R446): the bytes move piece by piece through the page tables, each piece in order on what the pieces before left; the
command owes OK, or the status of the first piece that fails with its address, or POISON with the first poisoned address where a
copy to the host met poison.
HOST_COPY (R447): between host memory and DPA addresses that HOST units back, by its direction, counted for STATS; a range
that is not backed completes ACCESS without effect.  The command owes its completion: OK, or POISON with the first poisoned
address read. -/
def Obligations.Copies : Prop :=
  ((∀ (h : HostCmd) (x : Fetched) (c : CtxId) (e : Option (Nat × Nat)) (d : Dev) (es : List MemEff) (s : State),
    s.dev.StartsOn h 0x27 x c [.assigned, .running, .halted] [(0x10, 8), (0x18, 8), (0x20, 8), (0x28, 1)] →
    1 ≤ rd x.entry 0x20 8 → rd x.entry 0x20 8 ≤ 2 ^ 40 → rdb x.entry 0x28 = 0 →
    walkList (copyIn c h.data (rd x.entry 0x18 8)) (pieces (rd x.entry 0x18 8) (rd x.entry 0x20 8)) s.mem (s.dev.begin x) = (e, d, es) →
    Answers (.copy h) s (fun t => t.mem = s.mem.apply es ∧ t.fuse = s.fuse ∧ t.pending = s.pending ∧
      t.dev = match e with
        | none => (d.counted c (rd x.entry 0x20 8)).owe x.begin 0 0 0
        | some (st, a) => (d.counted c (a - rd x.entry 0x18 8)).owe x.begin st (failAddr st a) 0))
  ∧ (∀ (h : HostCmd) (x : Fetched) (c : CtxId) (e : Option (Nat × Nat)) (d : Dev) (es : List MemEff) (s : State),
    s.dev.StartsOn h 0x27 x c [.assigned, .running, .halted] [(0x10, 8), (0x18, 8), (0x20, 8), (0x28, 1)] →
    1 ≤ rd x.entry 0x20 8 → rd x.entry 0x20 8 ≤ 2 ^ 40 → rdb x.entry 0x28 = 1 →
    walkList (copyOut c (rd x.entry 0x18 8) (rd x.entry 0x10 8)) (pieces (rd x.entry 0x10 8) (rd x.entry 0x20 8)) s.mem (s.dev.begin x)
      = (e, d, es) →
    Answers (.copy h) s (fun t => t.mem = s.mem.apply es ∧ t.fuse = s.fuse ∧ t.pending = s.pending ∧
      t.dev = match e, s.dev.firstPoison s.mem c (rd x.entry 0x10 8) (rd x.entry 0x20 8) with
        | some (st, a), _ => (d.counted c (a - rd x.entry 0x10 8)).owe x.begin st (failAddr st a) 0
        | none, some a => (d.counted c (rd x.entry 0x20 8)).owe x.begin 0x16 a 0
        | none, none => (d.counted c (rd x.entry 0x20 8)).owe x.begin 0 0 0)))
  ∧ (∀ (h : HostCmd) (x : Fetched) (s : State), s.dev.Starts h 0x07 x →
    argsClean x.entry [(0x10, 8), (0x18, 8), (0x20, 8), (0x28, 1)] = true → 1 ≤ rd x.entry 0x20 8 → rd x.entry 0x20 8 ≤ 2 ^ 40 →
    (rdb x.entry 0x28 = 0 → s.dev.dpaReady (rd x.entry 0x18 8) (rd x.entry 0x20 8) = true →
      Answers (.hostCopy h) s (fun t => t.fuse = s.fuse ∧ t.pending = s.pending
        ∧ t.mem = s.mem.apply (s.dev.dpaWrites (rd x.entry 0x18 8) (rd x.entry 0x20 8) (fun o n => sub h.data o n) (fun _ _ => false))
        ∧ t.dev = ((s.dev.begin x).admCopy (rd x.entry 0x20 8)).owe x.begin 0 0 0))
    ∧ (rdb x.entry 0x28 = 1 → s.dev.dpaReady (rd x.entry 0x10 8) (rd x.entry 0x20 8) = true →
      Answers (.hostCopy h) s (fun t => s.onlyDev t ∧
        t.dev = (((s.dev.begin x).hostWrite (rd x.entry 0x18 8) (s.dev.dpaRead s.mem (rd x.entry 0x10 8) (rd x.entry 0x20 8))).admCopy
          (rd x.entry 0x20 8)).owe x.begin (s.dev.copyCode s.mem x).1 (s.dev.copyCode s.mem x).2 0))
    ∧ (rdb x.entry 0x28 = 2 → s.dev.dpaReady (rd x.entry 0x10 8) (rd x.entry 0x20 8) = true →
      s.dev.dpaReady (rd x.entry 0x18 8) (rd x.entry 0x20 8) = true →
      Answers (.hostCopy h) s (fun t => t.fuse = s.fuse ∧ t.pending = s.pending
        ∧ t.mem = s.mem.apply (s.dev.dpaWrites (rd x.entry 0x18 8) (rd x.entry 0x20 8)
            (fun o n => s.dev.dpaRead s.mem (rd x.entry 0x10 8 + o) n) (fun o n => s.dev.dpaPoison s.mem (rd x.entry 0x10 8 + o) n))
        ∧ t.dev = ((s.dev.begin x).admCopy (rd x.entry 0x20 8)).owe x.begin (s.dev.copyCode s.mem x).1 (s.dev.copyCode s.mem x).2 0))
    ∧ (rdb x.entry 0x28 ≤ 2 → (rdb x.entry 0x28 ≠ 1 ∧ s.dev.dpaReady (rd x.entry 0x18 8) (rd x.entry 0x20 8) = false
        ∨ rdb x.entry 0x28 ≠ 0 ∧ s.dev.dpaReady (rd x.entry 0x10 8) (rd x.entry 0x20 8) = false) →
      Answers (.hostCopy h) s (fun t => s.onlyDev t ∧ Dev.Completes (s.dev.begin x) t.dev x 0x11 0 0)))


/-- LOAD (R452, R456): a container that passes every check has its segments copied to context memory, its ring channels reserved,
its sync objects bound, and becomes the context's program; the command owes OK.  A segment that fails leaves the context without
a program, and the command owes the failure's status with its address. -/
def Obligations.LoadBindsProgram : Prop :=
  ∀ (h : HostCmd) (x : Fetched) (c : CtxId) (s : State) (b : Bytes) (e : Option (Nat × Nat × Nat)) (d : Dev) (es : List MemEff),
    s.dev.StartsLoad h x c → b = sub h.data 0 (rd x.entry 0x18 8) → s.dev.Loadable c b (rd x.entry 0x18 8) →
    walkList (copySegment c b) (List.range (secCount b 5)) s.mem (s.dev.begin x) = (e, d, es) →
    Answers (.load h) s (fun t => t.mem = s.mem.apply es ∧ t.fuse = s.fuse ∧ t.pending = s.pending ∧
      t.dev = match e with
        | some (st, a, o) => (d.modCtx c (fun y => { y with loaded := none })).owe x.begin st a o
        | none => ((((d.dropRingObjs c).reserveRings c (parseContainer b)).bindSync c ((secEntries b 4).map (fun e => ⟨e⟩))).modCtx c
            (fun y => { y with loaded := some (parseContainer b) })).owe x.begin 0 0 0)

/-- START (R42, R152, R444): a program that is not beat-locked runs at once, from the present beat, with its threads at their
entries, and the command completes OK; a beat-locked one waits for tick B₀ with its rings and generators set up, and the command
completes there.  A module that follows its contexts (R507) is RUNNING with the first of these. -/
def Obligations.StartRuns : Prop :=
  (∀ (h : HostCmd) (x : Fetched) (c : CtxId) (p : Container) (d : Dev) (es : List MemEff) (s : State),
    s.dev.StartsRun h x c p → p.beatLocked = false →
    (s.dev.begin x).prepare c p s.dev.time.beat (rd x.entry 0x18 4) (rd x.entry 0x20 8) = (d, es) →
    Answers (.start h) s (fun t => t.mem = s.mem.apply es ∧ t.fuse = s.fuse ∧ t.pending = s.pending
      ∧ (t.dev.ctxAt c).state = .running ∧
      t.dev = ((((d.modCtx c (fun y => { y with state := .running })).startThreads c (rd x.entry 0x18 4) d.time.beat).finish
        x.begin 0 0 0).settleModule)))
  ∧ (∀ (h : HostCmd) (x : Fetched) (c : CtxId) (p : Container) (d : Dev) (es : List MemEff) (s : State),
    s.dev.StartsRun h x c p → p.beatLocked = true →
    (s.dev.begin x).prepare c p (rd x.entry 0x10 8) (rd x.entry 0x18 4) (rd x.entry 0x20 8) = (d, es) →
    Answers (.start h) s (fun t => t.mem = s.mem.apply es ∧ t.fuse = s.fuse ∧ t.pending = s.pending
      ∧ (t.dev.ctxAt c).startAt = some (rd x.entry 0x10 8) ∧
      t.dev = (d.modCtx c (fun y => { y with startAt := some (rd x.entry 0x10 8) })).settleModule))

/-- IMPORT (R457, R459): an import into context memory begins with the command's key; one that makes an image takes the lowest free
number and free units, which it gives to the image, cleared where they are dirty, with a grant and a key, and writes their
addresses to host memory; where there is none, NO_MEM.
IMPORT_RECORD (R457, R458): a record whose header is in order and whose tag opens it goes piece by piece to its place, and the
last record ends the import, OK where the length is right, else BAD_FIELD; a piece that fails ends it with its status; a record
that does not open ends it with AUTH, and what it would have covered reads as unwritten. -/
def Obligations.Imports : Prop :=
  ((∀ (h : HostCmd) (x : Fetched) (c : CtxId) (s : State), s.dev.StartsImport h x c 0 →
    Answers (.importStream h) s (fun t => s.onlyDev t ∧
      t.dev = (s.dev.begin x).modCtx c (fun y => { y with imports := y.imports ++ [s.dev.importRun c x none] })))
  ∧ (∀ (h : HostCmd) (x : Fetched) (c : CtxId) (i : Nat) (us : List Nat) (s : State), s.dev.StartsImport h x c 1 →
    (rdb x.entry 0x30 = 0xFF ∨ rdb x.entry 0x30 < 8 ∨ 0x10 ≤ rdb x.entry 0x30 ∧ rdb x.entry 0x30 < 0x20) →
    s.dev.freeImage = some i → s.dev.imageUnits (rdb x.entry 0x30) (ceilDiv (rd x.entry 0x28 8) granule) = some us →
    Answers (.importStream h) s (fun t => t.mem = s.mem.apply (s.dev.fillEffs us) ∧ t.fuse = s.fuse ∧ t.pending = s.pending ∧
      t.dev = ((((s.dev.begin x).hostWrite (rd x.entry 0x20 8) (us.flatMap (fun u => leBytes 8 (s.dev.unitGlobal u)))).withOwn
          { (s.dev.own.setOwners us (.image i)) with
            images := tblSet none (s.dev.own.setOwners us (.image i)).images i (some (us, [c])) }).putSlot (65 + i) true).modCtx c
          (fun y => { y with imports := y.imports ++ [s.dev.importRun c x (some i)] })))
  ∧ (∀ (h : HostCmd) (x : Fetched) (c : CtxId) (s : State), s.dev.StartsImport h x c 1 →
    (rdb x.entry 0x30 = 0xFF ∨ rdb x.entry 0x30 < 8 ∨ 0x10 ≤ rdb x.entry 0x30 ∧ rdb x.entry 0x30 < 0x20) →
    (s.dev.freeImage = none ∨ s.dev.imageUnits (rdb x.entry 0x30) (ceilDiv (rd x.entry 0x28 8) granule) = none) →
    Answers (.importStream h) s (fun t => s.onlyDev t ∧ Dev.Completes (s.dev.begin x) t.dev x 0x0C 0 0)))
  ∧ ((∀ (c : CtxId) (given rec plain : Bytes) (r : ImportRun) (e : Option (Nat × Nat)) (d : Dev) (es : List MemEff) (s : State),
    s.dev.ImportNext s.mem c given r rec → importPlain r rec = some plain →
    walkList (importWrite c r plain) (importPieces r (rd rec 8 4)) s.mem s.dev = (e, d, es) →
    Answers (.importRecord c given) s (fun t => t.mem = s.mem.apply es ∧ t.fuse = s.fuse ∧ t.pending = s.pending ∧
      t.dev = match e with
        | some (code, a) => d.importEnd c r code (failAddr code a) r.next
        | none => if r.next + 1 < rd r.entry 0x14 4 then d.importOn c r (rd rec 8 4)
            else (d.importOn c r (rd rec 8 4)).importEnd c (r.after (rd rec 8 4))
              (if r.offset + rd rec 8 4 = rd r.entry 0x28 8 then 0 else 0x02) 0 0))
  ∧ (∀ (c : CtxId) (given rec : Bytes) (r : ImportRun) (s : State),
    s.dev.ImportNext s.mem c given r rec → importPlain r rec = none →
    Answers (.importRecord c given) s (fun t => t.fuse = s.fuse ∧ t.pending = s.pending ∧ t.dev = s.dev.importEnd c r 0x12 0 r.next ∧
      t.mem = s.mem.apply (s.dev.importRefill s.mem c r (Nat.min (rd rec 8 4) (rd r.entry 0x28 8 - r.offset))))))


/-- COMMAND_FETCH (R430, R432, R440): the arbiter's next ring gives its head entry, its head and the round's pointer advance, and
the command waits to start, or completes BAD_OPCODE; a ring whose link fails loses EN and sets CFG_ERR.  HOST_COMMAND_COMPLETE
(R446) posts what a command of the ring with the tag owes, and changes nothing where none does. -/
def Obligations.FetchAndComplete : Prop :=
  (∀ (entry : Bytes) (r : HostRing) (s : State), s.dev.hostUp = true → s.dev.nextRing = some r →
    Answers (.commandFetch entry true) s (fun t => s.onlyDev t ∧
      t.dev = (let d := s.dev.putSq r { s.dev.sqAt r with head := ((s.dev.sqAt r).head + 1) % s.dev.sqSize r }
        let d := { d with host := { d.host with pointer := (sqKey r + 1) % 513 } }
        if opAllowed r (rdb (sub entry 0 64) 0) then
          { d with host := { d.host with fetched := d.host.fetched ++
            [⟨r, sub entry 0 64, ((s.dev.sqAt r).head + 1) % s.dev.sqSize r, false, none⟩] } }
        else d.complete r (sub entry 0 64) (((s.dev.sqAt r).head + 1) % s.dev.sqSize r) 0x01 0 0 0)))
  ∧ (∀ (entry : Bytes) (r : HostRing) (s : State), s.dev.hostUp = true → s.dev.nextRing = some r →
    Answers (.commandFetch entry false) s (fun t => s.onlyDev t ∧
      t.dev = match r with
        | .adm => s.dev.put HOST_ADM_SQ_CFG.EN 0
        | .sq c i => (s.dev.put HOST_SQ_CFG.EN 0 (c.val * 8 + i.val)).put HOST_CTX_STAT.CFG_ERR 1 c.val))
  ∧ (∀ (c : Option CtxId) (tag : W64) (f : Fetched) (code r0 r1 : Nat) (s : State),
    s.dev.host.fetched.find? (fun f => ringCtx f.ring = c && rd f.entry 8 8 = tag.toNat && f.owes.isSome) = some f →
    f.owes = some (code, r0, r1) →
    Answers (.hostCommandComplete c tag) s (fun t => s.onlyDev t ∧ t.dev = s.dev.finish f code r0 r1))
  ∧ (∀ (c : Option CtxId) (tag : W64) (s : State),
    s.dev.host.fetched.find? (fun f => ringCtx f.ring = c && rd f.entry 8 8 = tag.toNat && f.owes.isSome) = none →
    Answers (.hostCommandComplete c tag) s (fun t => t = s))

/-- SQ_DOORBELL and CQ_DOORBELL (R429, R433, R435): a value within the ring's room becomes the tail; a head that goes forward over
posted entries returns them, arms the interrupt with bit 63 and posts what is held; every other value is ignored and counted.  A
function that does not own the ring's context rings nothing, and its access is counted; the administration ring heeds the PF alone. -/
def Obligations.DoorbellsMoveRings : Prop :=
  (∀ (fn : FnId) (c : CtxId) (i : Fin 8) (v : W64) (s : State), s.dev.hostUp = true → s.dev.owns fn c = true →
    Answers (.sqDoorbell fn (.sq c i) v) s (fun t => s.onlyDev t ∧ t.dev =
      if s.dev.sqEn (.sq c i) ∧ v.toNat % 65536 < s.dev.sqSize (.sq c i)
          ∧ (v.toNat % 65536 + s.dev.sqSize (.sq c i) - (s.dev.sqAt (.sq c i)).tail) % s.dev.sqSize (.sq c i)
            ≤ s.dev.sqSize (.sq c i) - 1 - s.dev.sqHolds (.sq c i) then
        s.dev.putSq (.sq c i) { s.dev.sqAt (.sq c i) with tail := v.toNat % 65536 }
      else s.dev.count HOST_CTX_STAT.DB_IGNORED c.val))
  ∧ (∀ (fn : FnId) (c : CtxId) (v : W64) (s : State), s.dev.hostUp = true → s.dev.owns fn c = true →
    Answers (.cqDoorbell fn (.ctx c) v) s (fun t => s.onlyDev t ∧ t.dev =
      (let back := (v.toNat % 65536 + s.dev.cqSize (.ctx c) - (s.dev.cqAt (.ctx c)).head) % s.dev.cqSize (.ctx c)
       if s.dev.cqEn (.ctx c) ∧ v.toNat % 65536 < s.dev.cqSize (.ctx c) ∧ back ≤ (s.dev.cqAt (.ctx c)).posted then
        (s.dev.modCq (.ctx c) (fun r => { r with head := v.toNat % 65536, posted := r.posted - back, armed := r.armed || bit v.toNat 63 })).cqFlush
          (.ctx c)
      else s.dev.count HOST_CTX_STAT.DB_IGNORED c.val)))
  ∧ (∀ (fn : FnId) (c : CtxId) (i : Fin 8) (v : W64) (s : State), s.dev.hostUp = true → s.dev.owns fn c = false →
    Answers (.sqDoorbell fn (.sq c i) v) s (fun t => s.onlyDev t ∧ t.dev = s.dev.reject 9 (c.val * 0x1000 + 8 * i.val))
    ∧ Answers (.cqDoorbell fn (.ctx c) v) s (fun t => s.onlyDev t ∧ t.dev = s.dev.reject 9 (c.val * 0x1000 + 0x40)))
  ∧ (∀ (fn : FnId) (v : W64) (s : State), fn ≠ 0 →
    Answers (.sqDoorbell fn .adm v) s (fun t => t = s) ∧ Answers (.cqDoorbell fn .adm v) s (fun t => t = s))

/-- RING_ENABLE and RING_DISABLE (R430, R462): a write of a ring's register by the function that may make it sets the register's
fields.  A ring that so becomes enabled with a SIZE in range starts with head and tail 0; out of range it stays disabled and
CFG_ERR is set.  While a ring is enabled its BASE and SIZE keep, and a try counts as a rejected write; a write that keeps them has
no other effect than on the register.  A function that does not own the ring's context writes nothing, and its access is counted. -/
def Obligations.RingRegisterWrites : Prop :=
  (∀ (fn : FnId) (r : RingSel) (w : RegWr) (s : State), s.dev.reaches fn r → s.dev.ringOn r = false → (s.dev.ringWritten r w).ringOn r = true →
    Answers (.ringEnable fn r w) s (fun t => s.onlyDev t ∧
      t.dev = if (ringFields r).2.2.2.2 ≤ (s.dev.ringWritten r w).ringSize r ∧ (s.dev.ringWritten r w).ringSize r ≤ 16 then
          match r with
          | .sub q => (s.dev.ringWritten r w).putSq q ⟨0, 0⟩
          | .comp q => ((s.dev.ringWritten r w).modCq q (fun x => ⟨0, 0, 0, true, false, x.held, x.lost⟩)).cqFlush q
        else match selCtx r with
          | some c => ((s.dev.ringWritten r w).put (ringFields r).1 0 (ringFields r).2.2.2.1).put HOST_CTX_STAT.CFG_ERR 1 c.val
          | none => (s.dev.ringWritten r w).put (ringFields r).1 0 (ringFields r).2.2.2.1))
  ∧ (∀ (fn : FnId) (r : RingSel) (w : RegWr) (s : State), s.dev.reaches fn r → (s.dev.ringWritten r w).ringOn r = false →
    (s.dev.ringOn r = true → (s.dev.ringWritten r w).ringSize r = s.dev.ringSize r ∧ (s.dev.ringWritten r w).ringBase r = s.dev.ringBase r) →
    Answers (.ringDisable fn r w) s (fun t => s.onlyDev t ∧ t.dev = s.dev.ringWritten r w))
  ∧ (∀ (fn : FnId) (r : RingSel) (w : RegWr) (s : State), s.dev.reaches fn r → s.dev.ringOn r = true →
    ((s.dev.ringWritten r w).ringSize r ≠ s.dev.ringSize r ∨ (s.dev.ringWritten r w).ringBase r ≠ s.dev.ringBase r) →
    Answers (.ringDisable fn r w) s (fun t => s.onlyDev t ∧
      t.dev = (((s.dev.ringWritten r w).put (ringFields r).2.1 (s.dev.ringSize r) (ringFields r).2.2.2.1).put (ringFields r).2.2.1
        (s.dev.ringBase r) (ringFields r).2.2.2.1).rejectAt (ringFields r).1.reg (ringFields r).2.2.2.1))
  ∧ (∀ (fn : FnId) (r : RingSel) (c : CtxId) (w : RegWr) (s : State), s.dev.hostUp = true → selCtx r = some c → s.dev.owns fn c = false →
    Answers (.ringEnable fn r w) s (fun t => s.onlyDev t ∧ t.dev = s.dev.reject 9 ((ringFields r).1.reg.place (ringFields r).2.2.2.1).2)
    ∧ Answers (.ringDisable fn r w) s (fun t => s.onlyDev t ∧ t.dev = s.dev.reject 9 ((ringFields r).1.reg.place (ringFields r).2.2.2.1).2))

/-- FUNCTION_LEVEL_RESET, VF_REMOVAL, HOST_LINK_RESET and VF_ENABLE (R425, R426, R460): a VF that is reset or removed has its
contexts killed; a reset of the PF or of the host's link kills every context, disables every VF, and disables and empties the PF's
rings; VFs up to a new NumVFs come into existence.  Contexts that are not concerned keep what they hold.
CXL_MEM_READ and CXL_MEM_WRITE (R427, R447, R500): a line that a HOST unit backs is read with its poison, or written whole and
clean; a line of a released granule reads poisoned all-ones, and a write to it is discarded, and both are counted; after an ERASE
reads are poisoned and writes have no effect. -/
def Obligations.FunctionsAndCxl : Prop :=
  ((∀ (fn : FnId) (s : State), s.dev.hostUp = true → fn ≠ 0 → fn.val ≤ s.dev.host.numVfs →
    Answers (.functionLevelReset fn) s (fun t => t.fuse = s.fuse ∧ t.pending = s.pending ∧ t.dev.host.numVfs = s.dev.host.numVfs
      ∧ s.dev.KillsOnly t.dev (fun c => (s.dev.ctxAt c).owner = fn)))
  ∧ (∀ (n : FnId) (s : State), s.dev.hostUp = true → n.val < s.dev.host.numVfs →
    Answers (.vfRemoval n) s (fun t => t.fuse = s.fuse ∧ t.pending = s.pending ∧ t.dev.host.numVfs = n.val
      ∧ s.dev.KillsOnly t.dev (fun c => n.val < (s.dev.ctxAt c).owner.val ∧ (s.dev.ctxAt c).owner.val ≤ s.dev.host.numVfs)))
  ∧ (∀ (s : State), s.dev.hostUp = true →
    Answers (.functionLevelReset 0) s (fun t => t.fuse = s.fuse ∧ t.pending = s.pending ∧ s.dev.PfReset t.dev)
    ∧ Answers .hostLinkReset s (fun t => t.fuse = s.fuse ∧ t.pending = s.pending ∧ s.dev.PfReset t.dev))
  ∧ (∀ (n : FnId) (s : State), s.dev.hostUp = true → s.dev.host.numVfs < n.val →
    Answers (.vfEnable n) s (fun t => t = s.withDev ({ s.dev with host := { s.dev.host with numVfs := n.val } }))))
  ∧ ((∀ (line : BitVec 35) (data : BitVec 512) (a : Nat) (s : State), s.dev.cxlUp = true → s.dev.dpaLocal (64 * line.toNat) = some a →
    s.dev.slotLoaded 0 = true →
    Answers (.cxlMemRead line) s (fun t => t = s.withDev (s.dev.emit (.cxl (BitVec.ofNat 512 (s.mem.num a 64)) (s.mem.poisoned a 64))))
    ∧ Answers (.cxlMemWrite line data) s (fun t => t = { s with mem := s.mem.write a (leBytes 64 data.toNat) false }))
  ∧ (∀ (line : BitVec 35) (data : BitVec 512) (s : State), s.dev.cxlUp = true → s.dev.dpaLocal (64 * line.toNat) = none →
    Answers (.cxlMemRead line) s (fun t => t = s.withDev ((s.dev.count HOST_MOD_STAT.HOST_UNMAPPED).emit (.cxl (BitVec.allOnes 512) true)))
    ∧ Answers (.cxlMemWrite line data) s (fun t => t = s.withDev (s.dev.count HOST_MOD_STAT.HOST_UNMAPPED)))
  ∧ (∀ (line : BitVec 35) (data : BitVec 512) (a : Nat) (s : State), s.dev.cxlUp = true → s.dev.dpaLocal (64 * line.toNat) = some a →
    s.dev.slotLoaded 0 = false →
    Answers (.cxlMemRead line) s (fun t => t = s.withDev (s.dev.emit (.cxl (BitVec.allOnes 512) true)))
    ∧ Answers (.cxlMemWrite line data) s (fun t => t = s)))


/-! ### The Keeper (R484 to R506) -/

/-- GET_VERSION, GET_CAPABILITIES and NEGOTIATE_ALGORITHMS (R489): the exchange of a function goes through its stages in this
order, GET_VERSION starting it anew; a request out of its order is answered with an error and changes no stage.  Nothing but the
stage and the answer changes.
GET_DIGESTS, GET_CERTIFICATE, CHALLENGE and GET_MEASUREMENTS (R489, R490): once the algorithms are fixed, or in a session, each
is answered, GET_MEASUREMENTS with the block asked for or with all that the asker may see, and nothing else changes; before that
each is answered with an error.  A context's block is there in a session of the VF that owns it alone. -/
def Obligations.SpdmMessages : Prop :=
  (∀ (m : SpdmMsg) (s : State), s.dev.Asks m →
    Answers (.getVersion m) s (fun t => t = s.withDev ((s.dev.putSpdm m.fn .version).emit (.spdm m.fn m.session (spdmAnswer m 0x04))))
    ∧ (s.dev.spdmAt m.fn = .version → Answers (.getCapabilities m) s (fun t =>
        t = s.withDev ((s.dev.putSpdm m.fn .capabilities).emit (.spdm m.fn m.session (spdmAnswer m 0x61)))))
    ∧ (s.dev.spdmAt m.fn = .capabilities → Answers (.negotiateAlgorithms m) s (fun t =>
        t = s.withDev ((s.dev.putSpdm m.fn .algorithms).emit (.spdm m.fn m.session (spdmAnswer m 0x63)))))
    ∧ (s.dev.spdmAt m.fn ≠ .version → Answers (.getCapabilities m) s (fun t =>
        t = s.withDev (s.dev.emit (.spdm m.fn m.session spdmError))))
    ∧ (s.dev.spdmAt m.fn ≠ .capabilities → Answers (.negotiateAlgorithms m) s (fun t =>
        t = s.withDev (s.dev.emit (.spdm m.fn m.session spdmError)))))
  ∧ ((∀ (m : SpdmMsg) (s : State), s.dev.Asks m → (s.dev.spdmAt m.fn = .algorithms ∨ m.session.isSome) →
    Answers (.getDigests m) s (fun t => t = s.withDev (s.dev.emit (.spdm m.fn m.session (spdmAnswer m 0x01))))
    ∧ Answers (.getCertificate m) s (fun t => t = s.withDev (s.dev.emit (.spdm m.fn m.session (spdmAnswer m 0x02))))
    ∧ Answers (.challenge m) s (fun t => t = s.withDev (s.dev.emit (.spdm m.fn m.session (spdmAnswer m 0x03))))
    ∧ Answers (.getMeasurements m) s (fun t => t = s.withDev (s.dev.emit (.spdm m.fn m.session (leBytes 1 0x60
        ++ leBytes 1 (s.dev.blocks s.fuse m).length ++ (s.dev.blocks s.fuse m).flatten ++ Config.spdmBody 0x60 m.fn.val m.body)))))
  ∧ (∀ (m : SpdmMsg) (s : State), s.dev.Asks m → s.dev.spdmAt m.fn ≠ .algorithms → m.session = none →
    ∀ i ∈ [Instr.getDigests m, .getCertificate m, .challenge m, .getMeasurements m],
      Answers i s (fun t => t = s.withDev (s.dev.emit (.spdm m.fn m.session spdmError))))
  ∧ (∀ (m : SpdmMsg) (c : CtxId) (s : State), (s.dev.block s.fuse m (0x40 + c.val)).isSome →
      m.session.isSome ∧ (s.dev.ctxAt c).state ≠ .free ∧ (s.dev.ctxAt c).owner = m.fn))


/-- KEY_EXCHANGE, FINISH, HEARTBEAT, KEY_UPDATE and END_SESSION (R489): an exchange opens the lowest free of 128 sessions, two at
most for one function; FINISH establishes it; HEARTBEAT leaves it, KEY_UPDATE takes its next keys, END_SESSION closes it, each in
an established session only. -/
def Obligations.SpdmSessions : Prop :=
  (∀ (m : SpdmMsg) (n : Nat) (s : State), s.dev.Asks m → s.dev.spdmAt m.fn = .algorithms → s.dev.freeSession m.fn = some n →
    Answers (.keyExchange m) s (fun t => t = s.withDev ((s.dev.putSession n (some ⟨m.fn, false, 0⟩)).emit
      (.spdm m.fn m.session (leBytes 1 0x64 ++ leBytes 1 n ++ Config.spdmBody 0x64 m.fn.val m.body)))))
  ∧ (∀ (m : SpdmMsg) (s : State), s.dev.Asks m → (s.dev.spdmAt m.fn ≠ .algorithms ∨ s.dev.freeSession m.fn = none) →
    Answers (.keyExchange m) s (fun t => t = s.withDev (s.dev.emit (.spdm m.fn m.session spdmError))))
  ∧ (∀ (m : SpdmMsg) (n : Fin 128) (x : Session) (s : State), s.dev.Asks m → m.session = some n → s.dev.sessionAt n.val = some x →
    Answers (.finish m) s (fun t => t = s.withDev ((s.dev.putSession n.val (some { x with established := true })).emit
      (.spdm m.fn m.session (spdmAnswer m 0x65))))
    ∧ (x.established = true →
      Answers (.heartbeat m) s (fun t => t = s.withDev (s.dev.emit (.spdm m.fn m.session (spdmAnswer m 0x68))))
      ∧ Answers (.keyUpdate m) s (fun t => t = s.withDev ((s.dev.putSession n.val (some { x with updates := x.updates + 1 })).emit
          (.spdm m.fn m.session (spdmAnswer m 0x69))))
      ∧ Answers (.endSession m) s (fun t => t = s.withDev ((s.dev.emit (.spdm m.fn m.session (spdmAnswer m 0x6C))).putSession
          n.val none)))
    ∧ (x.established = false → ∀ i ∈ [Instr.heartbeat m, .keyUpdate m, .endSession m],
      Answers i s (fun t => t = s.withDev (s.dev.emit (.spdm m.fn m.session spdmError)))))

/-- BIND_MODEL_KEY, DROP_MODEL_KEY, SET_LINK_KEY and SET_DEBUG_KEY (R491, R492, R494), in an established session of the VF that
owns the context: the key that unwraps is bound to a free handle; a handle that no IMPORT uses is dropped; generation 0 of the
link key is set before the first START, and its counters begin again; so is a debug key that lies on the curve; each is answered
OK.  A session of another VF is answered BAD_CONTEXT without effect.  RETIRED_KEY_DESTROY (R496) ends a retired key alone. -/
def Obligations.KeyCommands : Prop :=
  (∀ (m : SpdmMsg) (n : Fin 128) (c : CtxId) (key : Bytes) (s : State), s.dev.CommandsKeys m n c → (s.dev.ctxAt c).keyState = true →
    rdb m.body 2 ≤ 15 → tblGet [] (s.dev.keysAt c).model (rdb m.body 2) = [] → Config.unwrapKey (s.dev.wrapKey m n) (sub m.body 3 40) = some key →
    Answers (.bindModelKey m) s (fun t => t = s.withDev ((s.dev.modKeys c (fun k => { k with model := tblSet [] k.model (rdb m.body 2) key })).emit (.spdm m.fn m.session [0x7E, 0]))))
  ∧ (∀ (m : SpdmMsg) (n : Fin 128) (c : CtxId) (s : State), s.dev.CommandsKeys m n c → (s.dev.ctxAt c).keyState = true →
    rdb m.body 2 ≤ 15 → ((s.dev.ctxAt c).imports.any (fun i => rdb i.entry 0x12 = rdb m.body 2)) = false →
    Answers (.dropModelKey m) s (fun t => t = s.withDev ((s.dev.modKeys c (fun k => { k with model := tblSet [] k.model (rdb m.body 2) [] })).emit (.spdm m.fn m.session [0x7E, 0]))))
  ∧ (∀ (m : SpdmMsg) (n : Fin 128) (c : CtxId) (key : Bytes) (s : State), s.dev.CommandsKeys m n c → (s.dev.ctxAt c).state = .assigned →
    (s.dev.ctxAt c).started = false → (s.dev.keysAt c).link = none → rd m.body 2 2 = (s.dev.ctxAt c).pkey →
    Config.unwrapKey (s.dev.wrapKey m n) (sub m.body 4 40) = some key →
    Answers (.setLinkKey m) s (fun t => t = s.withDev (((s.dev.modKeys c (fun k => { k with link := some ⟨key, 0, none⟩ })).restartCounters (s.dev.ctxAt c).pkey).emit
        (.spdm m.fn m.session [0x7E, 0]))))
  ∧ (∀ (m : SpdmMsg) (n : Fin 128) (c : CtxId) (s : State), s.dev.CommandsKeys m n c → (s.dev.ctxAt c).state = .assigned →
    (s.dev.ctxAt c).started = false → (s.dev.keysAt c).debug = none → Config.onCurve (sub m.body 2 96) = true →
    Answers (.setDebugKey m) s (fun t => t = s.withDev ((s.dev.modKeys c (fun k => { k with debug := some (sub m.body 2 96) })).emit (.spdm m.fn m.session [0x7E, 0]))))
  ∧ (∀ (m : SpdmMsg) (c : CtxId) (s : State), s.dev.Asks m → s.dev.inSession m = true → rdb m.body 1 = c.val →
    (m.fn = 0 ∨ (s.dev.ctxAt c).state = .free ∨ (s.dev.ctxAt c).owner ≠ m.fn) →
    ∀ i ∈ [Instr.bindModelKey m, .dropModelKey m, .setLinkKey m, .setDebugKey m],
      Answers i s (fun t => t = s.withDev (s.dev.emit (.spdm m.fn m.session [0x7E, 1]))))
  ∧ (∀ (pkey : W16) (s : State), Answers (.retiredKeyDestroy pkey) s (fun t =>
      t = s.withDev ({ s.dev with keep := { s.dev.keep with retired := tblSet none s.dev.keep.retired pkey.toNat none } })))

/-- ALARM_TRIP, ALARM_SENSOR_RELEASE, ALARM_CLEAR and ALARM_CFG_COMMIT (R499 to R501): a trip is recorded as active and seen, and
counted; at LOG it does no more than report; from CLAMP on the running contexts halt and the module is in ALARM; a release takes
the sensor out of the active ones; CLEAR without an active sensor of CLAMP or more ends CLAMP, and the module's state follows its
contexts, while with one it is counted and ends nothing; COMMIT locks the levels.
ERASE (R500): a trip at level 2 leaves no key slot, no context key, no retired key and no session, every context FREE, LEVEL 2,
and the fused count one higher, up to 31; HOST units keep their owner, but their key slot is gone with the others. -/
def Obligations.Alarm : Prop :=
  ((∀ (sensor : Fin 5) (now : W64) (s : State), s.dev.mmc.state ≠ .off → s.dev.tripLevel sensor now.toNat = 0 →
    Answers (.alarmTrip sensor now) s (fun t => s.onlyDev t ∧ Dev.Reports (s.dev.tripped sensor now.toNat) t.dev))
  ∧ (∀ (sensor : Fin 5) (now : W64) (s : State), s.dev.mmc.state ≠ .off → s.dev.tripLevel sensor now.toNat = 1 →
    Answers (.alarmTrip sensor now) s (fun t => s.onlyDev t ∧ (∀ c, (t.dev.ctxAt c).state ≠ .running)
      ∧ (∀ c, (s.dev.ctxAt c).state ≠ .running → (t.dev.ctxAt c).uncounted = (s.dev.ctxAt c).uncounted)
      ∧ (s.dev.mmc.state = .ready ∨ s.dev.mmc.state = .running ∨ s.dev.mmc.state = .halted → t.dev.mmc.state = .alarm)
      ∧ t.dev.get KEEP_ALARM.LEVEL 0 = Nat.max 1 (s.dev.get KEEP_ALARM.LEVEL 0)
      ∧ t.dev.get KEEP_ALARM.ACTIVE 0 = s.dev.get KEEP_ALARM.ACTIVE 0 ||| 2 ^ sensor.val))
  ∧ (∀ (sensor : Fin 5) (s : State), Answers (.alarmSensorRelease sensor) s (fun t =>
      t = s.withDev (s.dev.put KEEP_ALARM.ACTIVE (setField (s.dev.get KEEP_ALARM.ACTIVE 0) sensor.val 1 0) 0)))
  ∧ (∀ (w : RegWr) (s : State), s.dev.Manages .KEEP_ALARM → wrSets w KEEP_ALARM.CLEAR = true →
    (s.dev.clampHeld = false → s.dev.mmc.state = .alarm → s.dev.get KEEP_ALARM.LEVEL 0 = 1 →
      Answers (.alarmClear w) s (fun t => s.onlyDev t ∧ t.dev.mmc.state = s.dev.impliedState ∧ t.dev.get KEEP_ALARM.LEVEL 0 = 0
        ∧ t.dev.ctx = s.dev.ctx))
    ∧ (s.dev.clampHeld = true → Answers (.alarmClear w) s (fun t =>
        t = s.withDev ((s.dev.writeFields .KEEP_ALARM 0 false w).rejectAt .KEEP_ALARM 0))))
  ∧ (∀ (w : RegWr) (s : State), s.dev.Manages .KEEP_ALARM_CFG → wrSets w KEEP_ALARM_CFG.COMMIT = true →
    Answers (.alarmCfgCommit w) s (fun t => s.onlyDev t ∧ t.dev.flag KEEP_ALARM_CFG.COMMITTED 0 = true
      ∧ (s.dev.flag KEEP_ALARM_CFG.COMMITTED 0 = true → t.dev.get KEEP_ALARM_CFG.LEVEL 0 = s.dev.get KEEP_ALARM_CFG.LEVEL 0)
      ∧ (levelsLegal (s.dev.get KEEP_ALARM_CFG.LEVEL 0) = true → levelsLegal (t.dev.get KEEP_ALARM_CFG.LEVEL 0) = true))))
  ∧ (∀ (sensor : Fin 5) (now : W64) (s : State), s.dev.mmc.state ≠ .off → s.dev.tripLevel sensor now.toNat = 2 →
    Answers (.alarmTrip sensor now) s (fun t => t.pending = s.pending
      ∧ t.dev.keep.slots = [] ∧ t.dev.keep.ctx = [] ∧ t.dev.keep.retired = [] ∧ t.dev.keep.sessions = []
      ∧ (∀ c, (t.dev.ctxAt c).state = .free) ∧ t.dev.get KEEP_ALARM.LEVEL 0 = 2 ∧ t.dev.keep.erased = true
      ∧ t.fuse.erases = Nat.min (s.fuse.erases + 1) 31 ∧ t.fuse.svn = s.fuse.svn))


/-- NONCE_READ, TOKEN_SUBMIT, DEBUG_LOCK, LOCKOUT_EXPIRY and SVN_COMMIT (R488, R502, R503, R506): a read makes a new nonce unless a
failed token blocks it; a token that passes uses its nonce up and opens its view, a context's or, with every context killed, the
module's; one that fails is counted and blocks the next; LOCK closes a context's view; the expiry ends the block; a commit raises
the fused minimum SVN of each kind named to the SVN that runs, and shows it. -/
def Obligations.DebugUnlock : Prop :=
  (∀ (s : State), s.dev.Manages .KEEP_DBG_NONCE →
    Answers .nonceRead s (fun t => t = s.withDev (if s.dev.keep.lockout then s.dev else s.dev.newNonce))
    ∧ (s.dev.keep.lockout = false → s.dev.newNonce.keep.nonceValid = true ∧ s.dev.newNonce.free = s.dev.free + 2
        ∧ s.dev.newNonce.keep.nonce = leBytes 8 (Config.freeBits s.dev.free).toNat ++ leBytes 8 (Config.freeBits (s.dev.free + 1)).toNat))
  ∧ (∀ (w : RegWr) (s : State), s.dev.Manages .KEEP_DBG_CTL → wrSets w KEEP_DBG_CTL.SUBMIT = true → wrSets w KEEP_DBG_CTL.LOCK = false →
    (s.dev.tokenCheck s.dev.token = 1 → rdb s.dev.token 2 = 1 → s.dev.keep.debug ≠ .module →
      Answers (.tokenSubmit w) s (fun t => s.onlyDev t ∧ t.dev.keep = { s.dev.keep with nonceValid := false, debug := .context (Fin.ofNat 64 (rdb s.dev.token 3)) }
        ∧ t.dev.ctx = s.dev.ctx))
    ∧ (s.dev.tokenCheck s.dev.token = 1 → rdb s.dev.token 2 = 2 →
      Answers (.tokenSubmit w) s (fun t => t.fuse = s.fuse ∧ t.pending = s.pending ∧ t.dev.keep.debug = .module ∧ t.dev.keep.moduleDebug = true
        ∧ t.dev.keep.nonceValid = false ∧ s.dev.KillsOnly t.dev (fun _ => True)))
    ∧ (s.dev.tokenCheck s.dev.token ≠ 1 →
      Answers (.tokenSubmit w) s (fun t => s.onlyDev t ∧ t.dev.keep = { s.dev.keep with lockout := true } ∧ t.dev.ctx = s.dev.ctx
        ∧ t.dev.get KEEP_DBG_CTL.RESULT 0 = s.dev.tokenCheck s.dev.token)))
  ∧ (∀ (w : RegWr) (s : State), s.dev.Manages .KEEP_DBG_CTL → wrSets w KEEP_DBG_CTL.LOCK = true → wrSets w KEEP_DBG_CTL.SUBMIT = false →
    s.dev.keep.debug ≠ .module →
    Answers (.debugLock w) s (fun t => s.onlyDev t ∧ t.dev.keep = { s.dev.keep with debug := .locked } ∧ t.dev.get KEEP_DBG_CTL.OPEN 0 = 0))
  ∧ (∀ (s : State), Answers .lockoutExpiry s (fun t => t = s.withDev { s.dev with keep := { s.dev.keep with lockout := false } }))
  ∧ (∀ (w : RegWr) (s : State), s.dev.Manages .KEEP_BOOT →
    Answers (.svnCommit w) s (fun t => t.mem = s.mem ∧ t.pending = s.pending ∧ t.fuse.erases = s.fuse.erases
      ∧ ∀ k, t.fuse.minSvn k = if bit (wrGet w KEEP_BOOT.SVN_COMMIT) k ∧ k < 6 then
          Nat.max (s.fuse.minSvn k) (s.dev.slotAtFlash k (s.dev.runSlot k)).svn else s.fuse.minSvn k))

/-! ### Rails, starts and resets (R507 to R514, R526, R527, R534) -/

/-- VSB12_PRESENT, VIN48_PRESENT and START_RETRY (R486, R507, R511, R555): standby power with passing Keeper and MMC images brings
STANDBY, and without them leaves OFF; in STANDBY with VIN48 in range, SEAT closed and AUTO set, a cold start begins, unless one
has failed: then it begins at the retry.  Without AUTO the switch closes and the module stays in STANDBY. -/
def Obligations.PowerBringsUp : Prop :=
  (∀ (s : State), s.dev.mmc.state = .off → (s.dev.bootSlot s.fuse imgKeeper).isSome → (s.dev.bootSlot s.fuse imgMmc).isSome →
    (s.dev.pwr.vin48 && s.dev.pwr.seat) = false →
    Answers .vsb12Present s (fun t => s.onlyDev t ∧ t.dev.mmc.state = .standby ∧ t.dev.pwr = { s.dev.pwr with vsb12 := true }
      ∧ t.dev.out = .pin 9 true :: s.dev.out))
  ∧ (∀ (s : State), s.dev.mmc.state = .off → (s.dev.bootSlot s.fuse imgKeeper = none ∨ s.dev.bootSlot s.fuse imgMmc = none) →
    Answers .vsb12Present s (fun t => t = s.withDev { s.dev with pwr := { s.dev.pwr with vsb12 := true } }))
  ∧ (∀ (s : State), s.dev.mmc.state = .standby → s.dev.pwr.vinOn = false → s.dev.mmc.retry = false → s.dev.flag MMC_RESET.AUTO 0 = true →
    Answers .vin48Present s (fun t => s.onlyDev t ∧ t.dev.ColdStarting ∧ t.dev.pwr.vinOn = true ∧ t.dev.pwr.vin48 = true ∧ t.dev.pwr.seat = true
      ∧ t.dev.mmc.overVolt = false))
  ∧ (∀ (s : State), s.dev.mmc.state = .standby → s.dev.pwr.vinOn = false → s.dev.flag MMC_RESET.AUTO 0 = false →
    Answers .vin48Present s (fun t => s.onlyDev t ∧ t.dev.mmc.state = .standby ∧ t.dev.pwr.vinOn = true ∧ t.dev.mmc.start = s.dev.mmc.start))
  ∧ (∀ (s : State), s.dev.mmc.retry = true → s.dev.mmc.state = .standby → s.dev.pwr.vinOn = true →
    Answers .startRetry s (fun t => s.onlyDev t ∧ t.dev.ColdStarting))

/-- VSB12_LOST, VIN48_LOST, VIN48_OVERVOLTAGE and SEAT_OPEN (R485, R507, R534, R545, R556): with standby power the module loses
its state but for flash, and is OFF; without 48 V, at overvoltage and with SEAT open, a module beyond STANDBY loses everything
that its dies held, and stands in STANDBY with the switch open, its error log kept; in STANDBY the switch opens. -/
def Obligations.PowerTakesDown : Prop :=
  (∀ (s : State), s.dev.mmc.state ≠ .off →
    Answers .vsb12Lost s (fun t => s.onlyDev t ∧ t.dev.mmc.state = .off ∧ t.dev.regs = [] ∧ t.dev.keep = Keeper.init ∧ t.dev.ctx = []
      ∧ t.dev.own = Own.init ∧ t.dev.thr = [] ∧ t.dev.mmc.log = [] ∧ t.dev.mmc.flash = s.dev.mmc.flash
      ∧ t.dev.out = .pin 9 false :: s.dev.out ∧ t.dev.hostMem = s.dev.hostMem))
  ∧ (∀ (s : State), s.dev.mmc.state ≠ .off → s.dev.mmc.state ≠ .standby →
    Answers .vin48Lost s (fun t => s.onlyDev t ∧ s.dev.Unpowered t.dev ∧ t.dev.pwr.vin48 = false ∧ t.dev.pwr.vinOn = false)
    ∧ Answers .vin48Overvoltage s (fun t => s.onlyDev t ∧ s.dev.Unpowered t.dev ∧ t.dev.pwr.vinOn = false ∧ t.dev.mmc.overVolt = true)
    ∧ Answers .seatOpen s (fun t => s.onlyDev t ∧ s.dev.Unpowered t.dev ∧ t.dev.pwr.vinOn = false ∧ t.dev.pwr.seat = false))
  ∧ (∀ (s : State), s.dev.mmc.state = .standby → ∀ i ∈ [Instr.vin48Lost, .vin48Overvoltage, .seatOpen],
    Answers i s (fun t => s.onlyDev t ∧ t.dev.mmc.state = .standby ∧ t.dev.pwr.vinOn = false ∧ t.dev.keep = s.dev.keep))

/-- STARTUP_COMPLETE (R300, R499, R507, R509): a start with power and passing images ends in READY.  After
a cold start all memory is cleared, no context stands and the system key alone is loaded; after a warm one the dies' SRAM and the tenants' units are cleared, and those units are free.
START_FAIL and START_DEADLINE (R487, R507, R511): a start that fails, by its images, by a unit of the Brynoa die or by its
deadline, is counted and powers the module down; below three failures the next cold start is due, at three the module is in
RECOVERY if that image passes.  Images that pass do not fail a start. -/
def Obligations.StartEnds : Prop :=
  ((∀ (failed : List (W16 × Bool)) (s : State), s.dev.mmc.start = some ⟨true, false⟩ → s.dev.pwr.vinOn = true →
    s.dev.startImages s.fuse true = true →
    Answers (.startupComplete failed) s (fun t => t.fuse = s.fuse ∧ t.pending = s.pending ∧ t.mem = s.mem.apply [.clear 0 (3 * 2 ^ 45)]
      ∧ t.dev.mmc.state = .ready ∧ t.dev.mmc.start = none ∧ t.dev.ctx = [] ∧ t.dev.own = Own.init ∧ t.dev.thr = []
      ∧ t.dev.keep.slots = [(0, true)] ∧ t.dev.keep.ctx = [] ∧ t.dev.keep.retired = []))
  ∧ (∀ (failed : List (W16 × Bool)) (s : State), s.dev.mmc.start = some ⟨false, false⟩ → s.dev.pwr.vinOn = true →
    s.dev.startImages s.fuse false = true → (∀ c, (s.dev.ctxAt c).state = .free) →
    Answers (.startupComplete failed) s (fun t => t.fuse = s.fuse ∧ t.pending = s.pending
      ∧ t.mem = s.mem.apply (.clear (localAddr 2 0) (2 ^ 35) ::
          (s.dev.own.listed (· = .freeDirty)).map (fun u => MemEff.clear (unitAddr u) (unitBytes u)))
      ∧ t.dev.mmc.state = .ready ∧ t.dev.mmc.start = none ∧ t.dev.keep = s.dev.keep
      ∧ t.dev.own = s.dev.own.setOwners (s.dev.own.listed (· = .freeDirty)) .freeClean)))
  ∧ ((∀ (s : State), s.dev.mmc.start.isSome → s.dev.get KEEP_BOOT.FAILS 0 < 2 →
    Answers .startDeadline s (fun t => s.onlyDev t ∧ s.dev.FailedOnce t.dev))
  ∧ (∀ (k : Fin 6) (r : StartRun) (s : State), s.dev.mmc.start = some r → r.cold = true → k.val < 5 →
    s.dev.bootSlot s.fuse k.val = none → s.dev.get KEEP_BOOT.FAILS 0 < 2 →
    Answers (.startFail (.imageCheck k)) s (fun t => s.onlyDev t ∧ s.dev.FailedOnce t.dev))
  ∧ (∀ (k : Fin 6) (r : StartRun) (s : State), s.dev.mmc.start = some r → r.cold = true → (s.dev.bootSlot s.fuse k.val).isSome →
    Answers (.startFail (.imageCheck k)) s (fun t => t = s))
  ∧ (∀ (u : W16) (r : StartRun) (s : State), s.dev.mmc.start = some r → u.toNat / 0x1000 = 8 → validUnit u.toNat = true →
    field u.toNat 8 4 ≠ 0xA → field u.toNat 8 4 ≠ 0xC → s.dev.get KEEP_BOOT.FAILS 0 < 2 →
    Answers (.startFail (.selfTest u)) s (fun t => s.onlyDev t ∧ s.dev.FailedOnce t.dev))
  ∧ (∀ (s : State), s.dev.mmc.start.isSome → 2 ≤ s.dev.get KEEP_BOOT.FAILS 0 →
    Answers .startDeadline s (fun t => s.onlyDev t ∧ t.dev.mmc.state =
      if (s.dev.bootSlot s.fuse imgRecovery).isSome then .recovery else .standby)))


/-- COLD_MODULE_RESET, RESET_PIN, WARM_MODULE_RESET and BRYNOA_DIE_RESET (R507, R513, R514): a cold reset begins a cold start of an
empty module; a warm one kills every context, destroys the tenants' keys and begins a warm start, with the Brynoa die where its
scope says so.  A module in which ERASE has acted takes no warm reset (BAD_STATE), and no reset is taken while one is under
way. -/
def Obligations.ModuleResets : Prop :=
  (∀ (w : RegWr) (s : State), s.dev.OrdersReset w 4 → s.dev.mmc.state ≠ .recovery →
    Answers (.coldModuleReset w) s (fun t => s.onlyDev t ∧ s.dev.ColdReset t.dev))
  ∧ (∀ (s : State), s.dev.mmc.state ≠ .off → s.dev.mmc.state ≠ .recovery → s.dev.resetBusy = false →
    Answers .resetPin s (fun t => s.onlyDev t ∧ s.dev.ColdReset t.dev))
  ∧ (∀ (w : RegWr) (s : State), s.dev.OrdersReset w 2 → s.dev.inService = true → s.dev.keep.erased = false →
    Answers (.warmModuleReset w) s (fun t => t.fuse = s.fuse ∧ t.pending = s.pending ∧ s.dev.WarmStarting t.dev false))
  ∧ (∀ (w : RegWr) (s : State), s.dev.OrdersReset w 3 → s.dev.inService = true → s.dev.keep.erased = false →
    Answers (.brynoaDieReset w) s (fun t => t.fuse = s.fuse ∧ t.pending = s.pending ∧ s.dev.WarmStarting t.dev true
      ∧ t.dev.host = HostIf.init ∧ t.dev.lnk = [] ∧ t.dev.rte = Rte.init ∧ t.dev.eth = Eth.init))
  ∧ (∀ (w : RegWr) (k : Nat) (s : State), s.dev.OrdersReset w k → k = 2 ∨ k = 3 → s.dev.keep.erased = true →
    ∀ i ∈ [Instr.warmModuleReset w, .brynoaDieReset w],
      Answers i s (fun t => t = s.withDev ((s.dev.writeFields .MMC_RESET 0 false w).put MMC_RESET.STATUS 2 0)))
  ∧ (∀ (w : RegWr) (s : State), s.dev.Manages .MMC_RESET → wrSets w MMC_RESET.GO = true → s.dev.resetBusy = true →
    ∀ i ∈ [Instr.computeDieReset w, .warmModuleReset w, .brynoaDieReset w, .coldModuleReset w, .prepareRemove w],
      Answers i s (fun t => t = s.withDev ((s.dev.writeFields .MMC_RESET 0 false w).put MMC_RESET.STATUS 1 0)))

/-- COMPUTE_DIE_RESET, PREPARE_REMOVE and MODULE_ERROR (R513, R520, R526, R527): a die that nothing uses, or with FORCE one in use,
has every unit leave service and come back through SCRUB; a module without contexts takes every unit OUT, its ports DOWN, and
asserts REMOVE_OK, while one with a context is BUSY; a module error is recorded and ends every context, by a cold reset where AUTO
is set, else the module is held in TRAINING with its ports DOWN. -/
def Obligations.DieResetAndRemoval : Prop :=
  (∀ (w : RegWr) (s : State), s.dev.OrdersReset w 1 → s.dev.inService = true →
    let d := s.dev.writeFields .MMC_RESET 0 false w
    (d.flag MMC_RESET.FORCE 0 = true ∨ ∀ g ∈ dieGroups (d.get MMC_RESET.DIE 0), d.usersOf g = []) →
    Answers (.computeDieReset w) s (fun t => s.onlyDev t ∧ t.dev.get MMC_RESET.STATUS 0 = 0
      ∧ ∀ g ∈ dieGroups (d.get MMC_RESET.DIE 0), (t.dev.unitAt g).state = .scrub))
  ∧ (∀ (w : RegWr) (s : State), s.dev.OrdersReset w 5 → (∀ c, (s.dev.ctxAt c).state = .free) →
    Answers (.prepareRemove w) s (fun t => s.onlyDev t ∧ t.dev.flag MMC_RESET.REMOVE_OK 0 = true ∧ t.dev.get MMC_RESET.STATUS 0 = 0
      ∧ (∀ g ∈ allGroups, (t.dev.unitAt g).state = .out) ∧ (∀ k < 12, t.dev.portState k = psDown)))
  ∧ (∀ (w : RegWr) (c : CtxId) (s : State), s.dev.OrdersReset w 5 → (s.dev.ctxAt c).state ≠ .free →
    Answers (.prepareRemove w) s (fun t => t = s.withDev ((s.dev.writeFields .MMC_RESET 0 false w).put MMC_RESET.STATUS 1 0)))
  ∧ (∀ (unit cause : W16) (s : State), s.dev.mmc.state ≠ .off → s.dev.mmc.state ≠ .standby → s.dev.flag MMC_RESET.AUTO 0 = true →
    Answers (.moduleError unit cause) s (fun t => t.fuse = s.fuse ∧ t.pending = s.pending ∧ t.dev.ColdStarting ∧ t.dev.ctx = []))
  ∧ (∀ (unit cause : W16) (s : State), s.dev.mmc.state ≠ .off → s.dev.mmc.state ≠ .standby → s.dev.flag MMC_RESET.AUTO 0 = false →
    Answers (.moduleError unit cause) s (fun t => t.fuse = s.fuse ∧ t.pending = s.pending ∧ t.dev.mmc.state = .training
      ∧ t.dev.mmc.start = none ∧ t.dev.mmc.heldDown = true ∧ (∀ c, (t.dev.ctxAt c).state = .free) ∧ (∀ k < 12, t.dev.portState k = psDown)))

/-! ### Units, firmware and power (R515 to R557) -/

/-- TAKE_OUT, BRING_IN and UNIT_FAULT (R516, R517, R519, R521, R522, R527): an order on a unit in service that nothing uses, or with
FORCE, takes its groups OUT and completes OK; one in use without FORCE completes BUSY without effect; an order on a unit that is
OUT brings its groups to SCRUB and stays PENDING; a fault takes a unit's groups OUT whatever uses them.
SCRUB_COMPLETE and TEST_COMPLETE (R19, R203, R301, R516): a unit in SCRUB whose domain is on is cleared and comes to TEST; one
that passes waits in STANDBY for the next tick, or without a period is ADMITTED at once; one that fails is OUT and failed. -/
def Obligations.UnitService : Prop :=
  ((∀ (w : RegWr) (rival : Option Rival) (unit g : Nat) (s : State), s.dev.OrdersUnit w rival 1 unit g → (s.dev.unitAt g).state ≠ .out →
    s.dev.neighbourOut g = false → s.dev.flatQuadrant g = false →
    let d := s.dev.writeFields .MMC_UNIT_CMD 0 false w
    (d.flag MMC_UNIT_CMD.FORCE 0 = true ∨ ∀ h ∈ orderGroups unit, s.dev.usersOf h = []) →
    Answers (.takeOut w rival) s (fun t => s.onlyDev t ∧ t.dev.get MMC_UNIT_CMD.STATUS 0 = 0
      ∧ ∀ h ∈ orderGroups unit, (t.dev.unitAt h).state = .out))
  ∧ (∀ (w : RegWr) (rival : Option Rival) (unit g h : Nat) (s : State), s.dev.OrdersUnit w rival 1 unit g → (s.dev.unitAt g).state ≠ .out →
    s.dev.neighbourOut g = false → s.dev.flatQuadrant g = false →
    let d := s.dev.writeFields .MMC_UNIT_CMD 0 false w
    d.flag MMC_UNIT_CMD.FORCE 0 = false → h ∈ orderGroups unit → s.dev.usersOf h ≠ [] →
    Answers (.takeOut w rival) s (fun t => t = s.withDev (d.put MMC_UNIT_CMD.STATUS 2 0)))
  ∧ (∀ (w : RegWr) (rival : Option Rival) (unit g : Nat) (s : State), s.dev.OrdersUnit w rival 2 unit g → (s.dev.unitAt g).state = .out →
    Answers (.bringIn w rival) s (fun t => s.onlyDev t ∧ t.dev.get MMC_UNIT_CMD.STATUS 0 = 1 ∧ t.dev.mmc.unitCmd = some (g, true)
      ∧ (t.dev.unitAt g).state = .scrub ∧ t.dev.ctx = s.dev.ctx ∧ t.dev.own = s.dev.own))
  ∧ (∀ (unit : W16) (g : Nat) (s : State), groupOf unit.toNat = some g → (s.dev.unitAt g).state ≠ .out →
    Answers (.unitFault unit) s (fun t => s.onlyDev t ∧ ∀ h ∈ orderGroups unit.toNat, (t.dev.unitAt h).state = .out)))
  ∧ ((∀ (unit : W16) (g : Nat) (s : State), groupOf unit.toNat = some g → (s.dev.unitAt g).state = .scrub → s.dev.domOn g = true →
    Answers (.scrubComplete unit) s (fun t => t.mem = s.mem.apply (s.dev.scrubMem g) ∧ t.fuse = s.fuse ∧ t.pending = s.pending
      ∧ t.dev = (s.dev.scrubDev g).putUnit g .test))
  ∧ (∀ (unit : W16) (g : Nat) (s : State), groupOf unit.toNat = some g → (s.dev.unitAt g).state = .test → s.dev.ticking = true →
    Answers (.testComplete unit true) s (fun t => t = s.withDev (s.dev.modUnit g (fun _ => ⟨.standby, false⟩))))
  ∧ (∀ (unit : W16) (g : Nat) (s : State), groupOf unit.toNat = some g → (s.dev.unitAt g).state = .test → s.dev.ticking = false →
    Answers (.testComplete unit true) s (fun t => s.onlyDev t ∧ t.dev.unitAt g = ⟨.admitted, false⟩))
  ∧ (∀ (unit : W16) (g : Nat) (s : State), groupOf unit.toNat = some g → (s.dev.unitAt g).state = .test →
    Answers (.testComplete unit false) s (fun t => s.onlyDev t ∧ t.dev.unitAt g = ⟨.out, true⟩ ∧ t.dev.ctx = s.dev.ctx ∧ t.dev.own = s.dev.own)))


/-- FW_BEGIN, FW_DATA, FW_CHECK, FW_SWITCH and SWITCH_COMPLETE (R487, R488, R523, R524): the inactive slot of a kind is erased,
filled eight bytes at a time up to 64 MiB, checked by the rules of R487 with its SVN shown, and, where it may run, preferred and
switched to; the end of the switch makes it the running one.  A slot that may not run is refused with BAD_IMAGE. -/
def Obligations.FirmwareSteps : Prop :=
  (∀ (w : RegWr) (kind : Nat) (s : State), s.dev.OrdersFw w 1 kind →
    Answers (.fwBegin w) s (fun t => s.onlyDev t ∧ t.dev.mmc = { s.dev.mmc with begun := some (kind, []), flash := t.dev.mmc.flash }
      ∧ t.dev.mmc.flash = tblSet FlashSlot.init s.dev.mmc.flash (kind * 2 + s.dev.idleSlot kind) ⟨[], 0, false⟩
      ∧ t.dev.get MMC_FW.STATUS 0 = 0 ∧ t.dev.get MMC_FW.WRITTEN 0 = 0))
  ∧ (∀ (w : RegWr) (kind : Nat) (bs : Bytes) (s : State), s.dev.Manages .MMC_FW_DATA → s.dev.mmc.begun = some (kind, bs) →
    bs.length < 0x4000000 →
    Answers (.fwData w) s (fun t => s.onlyDev t ∧ t.dev.mmc = { s.dev.mmc with begun := t.dev.mmc.begun, flash := t.dev.mmc.flash }
      ∧ t.dev.mmc.begun = some (kind, bs ++ leBytes 8 (wrGet w MMC_FW_DATA.BYTES))
      ∧ t.dev.mmc.flash = tblSet FlashSlot.init s.dev.mmc.flash (kind * 2 + s.dev.idleSlot kind)
          ⟨bs ++ leBytes 8 (wrGet w MMC_FW_DATA.BYTES), 0, false⟩))
  ∧ (∀ (w : RegWr) (kind : Nat) (s : State), s.dev.OrdersFw w 2 kind →
    Answers (.fwCheck w) s (fun t => s.onlyDev t ∧ t.dev.mmc.begun = none
      ∧ t.dev.get MMC_FW.STATUS 0 = (if imageOk s.fuse kind (s.dev.slotAtFlash kind (s.dev.idleSlot kind)).image then 0 else 2)
      ∧ (t.dev.slotAtFlash kind (s.dev.idleSlot kind)).valid = imageOk s.fuse kind (s.dev.slotAtFlash kind (s.dev.idleSlot kind)).image
      ∧ (t.dev.slotAtFlash kind (s.dev.idleSlot kind)).image = (s.dev.slotAtFlash kind (s.dev.idleSlot kind)).image))
  ∧ (∀ (w : RegWr) (kind : Nat) (s : State), s.dev.OrdersFw w 3 kind → kind ≠ imgRecovery →
    (s.dev.slotRuns s.fuse kind (s.dev.idleSlot kind) = true →
      Answers (.fwSwitch w) s (fun t => s.onlyDev t ∧ t.dev.mmc = { s.dev.mmc with switching := some kind }
        ∧ t.dev.get MMC_FW.STATUS 0 = 3 ∧ t.dev.flag MMC_FW.SWITCHING 0 = true
        ∧ t.dev.get KEEP_BOOT.PREF 0 = setField (s.dev.get KEEP_BOOT.PREF 0) kind 1 (s.dev.idleSlot kind)
        ∧ (kind = imgKeeper → t.dev.keep.sessions = [])))
    ∧ (s.dev.slotRuns s.fuse kind (s.dev.idleSlot kind) = false →
      Answers (.fwSwitch w) s (fun t => t = s.withDev ((s.dev.writeFields .MMC_FW 0 false w).put MMC_FW.STATUS 2 0))))
  ∧ (∀ (kind : Nat) (s : State), kind ≤ 5 → s.dev.mmc.switching = some kind → s.dev.switchReady kind = true →
    Answers .switchComplete s (fun t => s.onlyDev t ∧ t.dev.mmc.switching = none
      ∧ t.dev.get KEEP_BOOT.RUN 0 = setField (s.dev.get KEEP_BOOT.RUN 0) kind 1 (b2n (bit (s.dev.get KEEP_BOOT.PREF 0) kind))))

/-- TRACE_ENABLE (R530, R531): on each die of a write that carries EN, capture runs afterwards if it is asked for and runs already
or may run; a refusal is shown, and on a die whose capture stops the quadrant SQ3 is cleared. -/
def Obligations.TraceCapture : Prop :=
  ∀ (w : RegWr) (s : State), s.dev.Manages .MMC_TRACE → wrCarries w MMC_TRACE.EN = true →
    Answers (.traceEnable w) s (fun t => t.fuse = s.fuse ∧ t.pending = s.pending
      ∧ (∀ n < 8, bit (t.dev.get MMC_TRACE.EN 0) n = (bit (wrGet w MMC_TRACE.EN) n && (bit (s.dev.get MMC_TRACE.EN 0) n || s.dev.traceAllowed n)))
      ∧ (∀ n < 8, bit (wrGet w MMC_TRACE.EN) n = true → bit (s.dev.get MMC_TRACE.EN 0) n = false →
          bit (t.dev.get MMC_TRACE.REFUSED 0) n = !s.dev.traceAllowed n)
      ∧ t.mem = s.mem.apply (((List.range 8).filter (fun n => !bit (wrGet w MMC_TRACE.EN) n && bit (s.dev.get MMC_TRACE.EN 0) n)).map
          (fun n => MemEff.clear (dieAddr n (quadrantBase 3)) 0x01800000))
      ∧ ∃ r, t.dev = { s.dev with regs := r })

/-- DUTY_STEP, PEAK_LIMIT, PEAK_RECOVERY, THERMAL_LIMIT and THERMAL_LIMIT_RELEASE (R539, R541, R544): the sustained controller moves
by 1 outside the band between CAP - 40 W and CAP - 10 W, between 1 and 64, and not under a fixed duty; the excursion controller moves
down by 4 after 8 ms above 2,000 W; the peak limiter halves above 2,350 W and rises by 1 at or below 2,200 W; a thermal limit holds
its die at 32 at most until it is released.  All but the power controller's own state and its registers is unchanged.
PWR_CAP_WRITE, DOMAIN_RAISE, DOMAIN_LOWER and COOLANT_STATUS (R541, R543, R544, R548): a cap of 800 to 1,950 W with a duty of at
most 64 is taken, any other value is discarded and counted; of a die's waiting domains the lowest is raised, and a domain whose
units are all OUT is lowered; coolant readings are shown with their warnings. -/
def Obligations.PowerControl : Prop :=
  ((∀ (p : PowerReading) (s : State), s.dev.mmc.state ≠ .off →
    Answers (.dutyStep p) s (fun t => s.onlyDev t ∧ s.dev.OnlyPower t.dev ∧ t.dev.pwr.fixed = s.dev.get PWR_CAP.FIXED_DUTY 0
      ∧ t.dev.pwr.peak = s.dev.pwr.peak ∧ t.dev.pwr.thermal = s.dev.pwr.thermal
      ∧ t.dev.pwr.sustained = (if s.dev.get PWR_CAP.FIXED_DUTY 0 ≠ 0 then s.dev.pwr.sustained
        else if s.dev.get PWR_CAP.CAP 0 < p.avg1s.toNat + 10 then Nat.max 1 (s.dev.pwr.sustained - 1)
        else if p.avg1s.toNat + 40 < s.dev.get PWR_CAP.CAP 0 then Nat.min 64 (s.dev.pwr.sustained + 1) else s.dev.pwr.sustained)
      ∧ (p.excursionDone = false → t.dev.pwr.excursion =
          if s.dev.pwr.overRun + 1 ≤ 80 then s.dev.pwr.excursion else Nat.max 1 (s.dev.pwr.excursion - 4))
      ∧ (p.excursionDone = true → s.dev.pwr.excursion ≤ 64 → s.dev.pwr.excursion ≤ t.dev.pwr.excursion ∧ t.dev.pwr.excursion ≤ 64)))
  ∧ (∀ (a : W16) (s : State), s.dev.mmc.state ≠ .off →
    (2350 < a.toNat → Answers (.peakLimit a) s (fun t => s.onlyDev t ∧ s.dev.OnlyPower t.dev ∧ t.dev.flag PWR_STAT.FASTLIM 0 = true
      ∧ t.dev.pwr = { s.dev.pwr with peak := Nat.max 1 (s.dev.pwr.peak / 2) }))
    ∧ (a.toNat ≤ 2350 → Answers (.peakLimit a) s (fun t => t = s))
    ∧ (a.toNat ≤ 2200 → Answers (.peakRecovery a) s (fun t => s.onlyDev t ∧ s.dev.OnlyPower t.dev
      ∧ t.dev.pwr = { s.dev.pwr with peak := Nat.min 64 (s.dev.pwr.peak + 1) }))
    ∧ (2200 < a.toNat → Answers (.peakRecovery a) s (fun t => t = s)))
  ∧ (∀ (die : DieId) (s : State),
    Answers (.thermalLimit die) s (fun t => s.onlyDev t ∧ s.dev.OnlyPower t.dev ∧ t.dev.pwr.duty die.val ≤ 32
      ∧ t.dev.pwr = { s.dev.pwr with thermal := s.dev.pwr.thermal ||| 2 ^ die.val })
    ∧ Answers (.thermalLimitRelease die) s (fun t => s.onlyDev t ∧ s.dev.OnlyPower t.dev ∧ t.dev.pwr.duty die.val = s.dev.pwr.common
      ∧ t.dev.pwr = { s.dev.pwr with thermal := setField s.dev.pwr.thermal die.val 1 0 })))
  ∧ ((∀ (w : RegWr) (rival : Option Rival) (s : State), s.dev.Manages .PWR_CAP → mmcLoses rival = false →
    Answers (.pwrCapWrite w rival) s (fun t => t = s.withDev (
      if 800 ≤ field (s.dev.merged .PWR_CAP w) 0 12 ∧ field (s.dev.merged .PWR_CAP w) 0 12 ≤ 1950 ∧ field (s.dev.merged .PWR_CAP w) 12 7 ≤ 64
      then s.dev.writeFields .PWR_CAP 0 false w else s.dev.rejectAt .PWR_CAP 0)))
  ∧ (∀ (die : DieId) (x : Nat) (s : State), (dieDoms die.val).find? (fun x => (s.dev.domAt x).state = .raising) = some x →
    Answers (.domainRaise die) s (fun t => s.onlyDev t ∧ s.dev.OnlyPower t.dev ∧ (t.dev.domAt x).state = .on
      ∧ (∀ y, y ≠ x → t.dev.domAt y = s.dev.domAt y) ∧ t.dev.regs = s.dev.regs))
  ∧ (∀ (x : Fin 443) (s : State), s.dev.domIdle x.val = true → (s.dev.domAt x.val).state ≠ .off →
    Answers (.domainLower x) s (fun t => s.onlyDev t ∧ s.dev.OnlyPower t.dev ∧ (t.dev.domAt x.val).state = .off
      ∧ (∀ y, y ≠ x.val → t.dev.domAt y = s.dev.domAt y) ∧ t.dev.regs = s.dev.regs))
  ∧ (∀ (x : Fin 443) (s : State), s.dev.domIdle x.val = false → Answers (.domainLower x) s (fun t => t = s))
  ∧ (∀ (c : CoolantReading) (s : State), s.dev.mmc.state ≠ .off →
    Answers (.coolantStatus c) s (fun t => s.onlyDev t ∧ s.dev.OnlyPower { t.dev with out := s.dev.out } ∧ t.dev.pwr = s.dev.pwr
      ∧ t.dev.flag PWR_THERM.LEAK 0 = c.leak ∧ t.dev.flag PWR_THERM.FLOW_LOW 0 = decide (c.flow.toNat < 135)
      ∧ t.dev.flag PWR_THERM.INLET_HIGH 0 = decide (40 < c.inlet.toInt)
      ∧ t.dev.out = if s.dev.flag PWR_THERM.LEAK 0 = c.leak then s.dev.out else .pin 19 (!c.leak) :: s.dev.out)))


/-! ### Links (R325 to R355) -/

/-- LINK_PROFILE_COMMIT and PORT_ENABLE (R326, R327, R328, R331): a commit of a named profile, with shared pools of at most 1,792
flits, sets every port's quads and locks the set-up; one with larger pools fails with STATUS 2, and after a commit the set-up does
not change.  EN set on a port of the committed profile that is DOWN starts its training, once the links are in operation; EN
cleared takes the port DOWN with nothing left in it.
QUAD_TRAINING_DONE, TRAINING_TIMEOUT and TRAINING_RETRY (R330, R331): an active quad that trains to the port's peer is ACTIVE, one
that reaches another peer STRAY, one that fails FAILED and recorded; a port with no active quad after 2 s is DOWN until its retry,
which trains it anew. -/
def Obligations.LinkStart : Prop :=
  ((∀ (w : RegWr) (s : State), s.dev.Manages .LNK_PROFILE → wrSets w LNK_PROFILE.COMMIT = true → s.dev.flag LNK_PROFILE.COMMITTED 0 = false →
    let d := s.dev.writeFields .LNK_PROFILE 0 false w
    (d.get LNK_PROFILE.PROFILE 0 < 4 → s.dev.pool 0 + s.dev.pool 1 + s.dev.pool 2 + s.dev.pool 3 ≤ 1792 →
      Answers (.linkProfileCommit w) s (fun t => s.onlyDev t ∧ t.dev.flag LNK_PROFILE.COMMITTED 0 = true ∧ t.dev.get LNK_PROFILE.STATUS 0 = 0
        ∧ ∀ k < 12, t.dev.get LNK_PORT_MAP.FIRST k = (profilePort (d.get LNK_PROFILE.PROFILE 0) k).1
          ∧ t.dev.get LNK_PORT_MAP.COUNT k = (profilePort (d.get LNK_PROFILE.PROFILE 0) k).2.1
          ∧ t.dev.flag LNK_PORT_MAP.AUX k = (profilePort (d.get LNK_PROFILE.PROFILE 0) k).2.2))
    ∧ (d.get LNK_PROFILE.PROFILE 0 ≤ 4 → 1792 < s.dev.pool 0 + s.dev.pool 1 + s.dev.pool 2 + s.dev.pool 3 →
      Answers (.linkProfileCommit w) s (fun t => t = s.withDev ((d.put LNK_PROFILE.STATUS 2 0).put LNK_PROFILE.BADPORT 0 0))))
  ∧ (∀ (w : RegWr) (s : State), s.dev.Manages .LNK_PROFILE → s.dev.flag LNK_PROFILE.COMMITTED 0 = true →
    Answers (.linkProfileCommit w) s (fun t => t = s.withDev (s.dev.writeFields .LNK_PROFILE 0 true w)))
  ∧ (∀ (port : PortId) (w : RegWr) (s : State), s.dev.Manages .LNK_PORT_CFG → wrCarries w LNK_PORT_CFG.EN = true →
    (wrSets w LNK_PORT_CFG.EN = true → s.dev.flag LNK_PROFILE.COMMITTED 0 = true → s.dev.linksLive = true → s.dev.portCount port.val ≠ 0 →
      s.dev.portState port.val = psDown →
      Answers (.portEnable port w) s (fun t => s.onlyDev t ∧ t.dev.portState port.val = psTraining ∧ t.dev.portAt port.val = LnkPort.init
        ∧ ∀ q ∈ s.dev.portQuads port.val, t.dev.quadState q = qsTraining))
    ∧ (wrSets w LNK_PORT_CFG.EN = false → s.dev.portState port.val ≠ psDown →
      Answers (.portEnable port w) s (fun t => s.onlyDev t ∧ t.dev.portState port.val = psDown
        ∧ t.dev.portAt port.val = LnkPort.init ∧ ∀ q ∈ s.dev.portQuads port.val, t.dev.quadState q = qsOff))))
  ∧ ((∀ (q : QuadId) (serial : W64) (s : State), s.dev.quadState q.val = qsTraining → q.val ∈ s.dev.activePlaces (s.dev.get LNK_QUAD.PORT q.val) →
    s.dev.get LNK_QUAD.PORT q.val < 12 →
    (s.dev.portAt (s.dev.get LNK_QUAD.PORT q.val)).peer = none ∨ (s.dev.portAt (s.dev.get LNK_QUAD.PORT q.val)).peer = some serial.toNat →
    Answers (.quadTrainingDone q (.trained serial)) s (fun t => s.onlyDev t ∧ t.dev.quadState q.val = qsActive))
  ∧ (∀ (q : QuadId) (s : State), s.dev.quadState q.val = qsTraining →
    Answers (.quadTrainingDone q .stray) s (fun t => s.onlyDev t ∧ t.dev.quadState q.val = qsStray)
    ∧ Answers (.quadTrainingDone q .failed) s (fun t => s.onlyDev t ∧ t.dev.quadState q.val = qsFailed))
  ∧ (∀ (port : PortId) (s : State), s.dev.portState port.val = psTraining →
    (s.dev.activePlaces port.val).any (fun q => s.dev.quadState q = qsActive) = false →
    Answers (.trainingTimeout port) s (fun t => s.onlyDev t ∧ t.dev.portState port.val = psDown
      ∧ t.dev.portAt port.val = { LnkPort.init with retry := true }))
  ∧ (∀ (port : PortId) (s : State), (s.dev.portAt port.val).retry = true → s.dev.portCount port.val ≠ 0 → s.dev.portState port.val = psDown →
    s.dev.flag LNK_PORT_CFG.EN port.val = true →
    Answers (.trainingRetry port) s (fun t => s.onlyDev t ∧ t.dev.portState port.val = psTraining ∧ t.dev.portAt port.val = LnkPort.init)))


/-- LCF, REMOVE_QUAD, ADD_QUAD, SUBSTITUTE_SPARE, QUAD_ACKNOWLEDGE, QUAD_REFUSE and LCF_TIMEOUT (R334, R337, R349 to R352): a good LCF
returns the peer's credits; a request that this end can carry out, with no change under way, is agreed to and acknowledged; the
acknowledgement of this end's request agrees it, a refusal ends it; 1 microsecond without an LCF takes the port DOWN.
SWITCH_AT_REACHED, QUAD_FAIL, RECAL and UNCORRECTABLE_SET (R338, R349 to R352): an agreed removal takes the quad out of the slot
order; an active quad that fails, with others left, asks for a spare in its place or for its removal; a recalibration that no check
refuses does the same for its quad, and one that is refused shows why; an uncorrectable set counts, with its 20 flits. -/
def Obligations.QuadChanges : Prop :=
  ((∀ (port : PortId) (f : Bytes) (s : State), lcfGood f = true → psDiscover ≤ s.dev.portState port.val →
    (rdb f 0x1C = 0 → Answers (.lcf port f) s (fun t => t = s.withDev (s.dev.takeCredits port.val f)))
    ∧ (∀ req, rdb f 0x1C = req → (1 ≤ req ∧ req ≤ 3) → s.dev.changeOk port.val req (s.dev.lcfQuad port.val f) (s.dev.lcfSpare port.val f) = true →
      (s.dev.portAt port.val).change = none →
      ∀ i, (req = 1 ∧ i = Instr.removeQuad port f ∨ req = 2 ∧ i = .addQuad port f ∨ req = 3 ∧ i = .substituteSpare port f) →
        Answers i s (fun t => s.onlyDev t ∧ (t.dev.portAt port.val).change = some ⟨false, req, s.dev.lcfQuad port.val f,
          s.dev.lcfSpare port.val f, rdb f 0x1E, rd f 0x20 4, true, false⟩))
    ∧ (∀ c, (s.dev.portAt port.val).change = some c → c.own = true → c.id = rdb f 0x1E →
      (rdb f 0x1C = 4 → c.switchAt = rd f 0x20 4 →
        Answers (.quadAcknowledge port f) s (fun t => s.onlyDev t ∧ (t.dev.portAt port.val).change = some { c with agreed := true }))
      ∧ (rdb f 0x1C = 5 → c.agreed = false →
        Answers (.quadRefuse port f) s (fun t => s.onlyDev t ∧ (t.dev.portAt port.val).change = none))))
  ∧ (∀ (port : PortId) (s : State), psDiscover ≤ s.dev.portState port.val →
    Answers (.lcfTimeout port) s (fun t => s.onlyDev t ∧ t.dev.portState port.val = psDown ∧ t.dev.portAt port.val = LnkPort.init)))
  ∧ ((∀ (port : PortId) (c : QuadChange) (s : State), (s.dev.portAt port.val).change = some c → c.agreed = true → c.req = 1 →
    (s.dev.portAt port.val).todo = [] → (s.dev.portAt port.val).order.any (· ≠ c.quad) = true →
    Answers (.switchAtReached port) s (fun t => s.onlyDev t
      ∧ (t.dev.portAt port.val).order = (s.dev.portAt port.val).order.filter (· ≠ c.quad)))
  ∧ (∀ (q : QuadId) (k : Nat) (s : State), s.dev.get LNK_QUAD.PORT q.val = k → k < 12 → s.dev.quadState q.val = qsActive →
    (s.dev.portAt k).order.contains q.val = true → (s.dev.portAt k).order.any (· ≠ q.val) = true → psDiscover ≤ s.dev.portState k →
    (s.dev.portAt k).change = none →
    Answers (.quadFail q) s (fun t => s.onlyDev t ∧ t.dev.quadState q.val = qsFailed
      ∧ ∃ c, (t.dev.portAt k).change = some c ∧ c.own = true ∧ c.quad = q.val ∧ c.agreed = false
        ∧ c.req = if (s.dev.freeSpare k).isSome then 3 else 1))
  ∧ (∀ (q : QuadId) (w : RegWr) (s : State), s.dev.Manages .LNK_QUAD → wrSets w LNK_QUAD.RECAL = true →
    let d := s.dev.writeFields .LNK_QUAD q.val false w
    let k := s.dev.get LNK_QUAD.PORT q.val
    (∀ r, s.dev.recalCheck k q.val = some r → Answers (.recal q w) s (fun t => t = s.withDev (d.put LNK_QUAD.RSTAT r q.val)))
    ∧ (s.dev.recalCheck k q.val = none → (s.dev.portAt k).order.contains q.val = true →
      Answers (.recal q w) s (fun t => s.onlyDev t ∧ t.dev.get LNK_QUAD.RSTAT q.val = 1
        ∧ ∃ c, (t.dev.portAt k).change = some c ∧ c.own = true ∧ c.quad = q.val ∧ c.recal = true
          ∧ c.req = if (s.dev.freeSpare k).isSome then 3 else 1)))
  ∧ (∀ (q : QuadId) (vcs : List (Fin 8)) (s : State), Answers (.uncorrectableSet q vcs) s (fun t => s.onlyDev t
      ∧ t.dev.get LNK_QUAD.UNCORR q.val = satAdd (s.dev.get LNK_QUAD.UNCORR q.val) 1 (2 ^ LNK_QUAD.UNCORR.width - 1)
      ∧ t.dev.get LNK_ERR.FLIT_DISC 0 = satAdd (s.dev.get LNK_ERR.FLIT_DISC 0) 20 (2 ^ LNK_ERR.FLIT_DISC.width - 1)
      ∧ ∃ r l, t.dev = { s.dev with regs := r, lnk := l })))


/-! ### Discovery, domain time, beats (R399 to R410) -/

/-- HELLO_TIMER, HELLO and MODULE_ID_COMMIT (R401, R402, R403, R423): a named neighbour takes a port from DISCOVER to ARMED, with its
entry in BRY_NBR; a port hears its own serial number as LOOP, and in ARMED or later a neighbour of another serial number or port takes
it DOWN.  An ID other than FFFFH is committed once. -/
def Obligations.Discovery : Prop :=
  (∀ (port : PortId) (h : Bytes) (s : State), s.dev.portState port.val = psDiscover → (s.dev.portAt port.val).hello = some h →
    ((s.dev.portAt port.val).echoed = true →
      Answers (.helloTimer port) s (fun t => s.onlyDev t ∧ t.dev.portState port.val = psArmed
        ∧ t.dev.out = (s.dev.sendLocal port.val 0x60 (s.dev.helloBody port.val)).out
        ∧ t.dev.get BRY_NBR.PEER_ID port.val = rd h 8 2 ∧ t.dev.get BRY_NBR.VALID port.val = 1
        ∧ t.dev.get BRY_NBR.PEER_DOMAIN port.val = rd h 0xA 2 ∧ t.dev.get BRY_NBR_SERIAL.SERIAL port.val = rd h 0 8))
    ∧ ((s.dev.portAt port.val).echoed = false →
      Answers (.helloTimer port) s (fun t => t = s.withDev (s.dev.sendLocal port.val 0x60 (s.dev.helloBody port.val)))))
  ∧ (∀ (a : Arrival) (s : State), s.dev.Hears a 0x60 → s.dev.portState a.port.val = psDiscover →
    (rd a.pkt.body 0 8 = s.dev.get BRY_SERIAL.SERIAL 0 →
      Answers (.hello a) s (fun t => s.onlyDev t ∧ t.dev.get BRY_NBR.LOOP a.port.val = 1 ∧ t.dev.portState a.port.val = psDiscover))
    ∧ (rd a.pkt.body 0 8 ≠ s.dev.get BRY_SERIAL.SERIAL 0 →
      Answers (.hello a) s (fun t => s.onlyDev t ∧ t.dev.portState a.port.val = psDiscover
        ∧ (t.dev.portAt a.port.val).hello = some (sub a.pkt.body 0 32)
        ∧ ((rd a.pkt.body 0x10 8 = s.dev.get BRY_SERIAL.SERIAL 0 ∧ rdb a.pkt.body 0x18 = a.port.val) → (t.dev.portAt a.port.val).echoed = true))))
  ∧ (∀ (a : Arrival) (s : State), s.dev.Hears a 0x60 → psArmed ≤ s.dev.portState a.port.val →
    (rd a.pkt.body 0 8 ≠ s.dev.get BRY_NBR_SERIAL.SERIAL a.port.val ∨ rdb a.pkt.body 0xC ≠ s.dev.get BRY_NBR.PEER_PORT a.port.val) →
    Answers (.hello a) s (fun t => s.onlyDev t ∧ t.dev.portState a.port.val = psDown))
  ∧ (∀ (w : RegWr) (s : State), s.dev.Manages .BRY_MODULE_ID →
    (s.dev.idCommitted = false → wrSets w BRY_MODULE_ID.COMMIT = true →
      let d := s.dev.writeFields .BRY_MODULE_ID 0 false w
      Answers (.moduleIdCommit w) s (fun t => t = s.withDev (if d.moduleId = 0xFFFF then d.put BRY_MODULE_ID.STATUS 1 0
        else (d.put BRY_MODULE_ID.COMMITTED 1 0).put BRY_MODULE_ID.STATUS 0 0)))
    ∧ (s.dev.idCommitted = true →
      Answers (.moduleIdCommit w) s (fun t => t = s.withDev (s.dev.writeFields .BRY_MODULE_ID 0 true w))))

/-- TIME_CFG_WRITE, TIME_EXCHANGE_TIMER, TIME_REQ, TIME_RESP, TIME_INFO and HOLDOVER_TIMEOUT (R405, R406, R407): a root is LOCKED
and keeps its time, a FREE module with a parent becomes ACQUIRING; the child asks under a new REQ_ID; the parent answers TIME_RESP, then
TIME_INFO, with a t3 that the model leaves free; an exchange under a LOCKED parent moves T by its offset, the eighth small one in a row
locks an ACQUIRING child one hop further, a LOCKED child slews by at most 50 ppm; the ACQUIRING child takes the parent's beat, tick and
period, the LOCKED one compares; 64 microseconds without an exchange put it in HOLDOVER. -/
def Obligations.DomainTime : Prop :=
  (∀ (w : RegWr) (s : State), s.dev.Manages .BRY_TIME_CFG →
    let d := s.dev.writeFields .BRY_TIME_CFG 0 false w
    (d.flag BRY_TIME_CFG.ROOT 0 = true → Answers (.timeCfgWrite w) s (fun t => s.onlyDev t ∧ t.dev.timeState = tsLocked
        ∧ t.dev.get BRY_TIME_STAT.HOPS 0 = 0 ∧ t.dev.time.beat = s.dev.time.beat ∧ t.dev.time.tickT = s.dev.time.tickT
        ∧ t.dev.time.offset = s.dev.time.offset ∧ t.dev.get BRY_PERIOD.PERIOD 0 = s.dev.get BRY_PERIOD.PERIOD 0))
    ∧ (d.timeParent.isSome → s.dev.timeState = tsFree →
      Answers (.timeCfgWrite w) s (fun t => s.onlyDev t ∧ t.dev.timeState = tsAcquiring))
    ∧ (d.flag BRY_TIME_CFG.ROOT 0 = false → d.timeParent = none →
      Answers (.timeCfgWrite w) s (fun t => s.onlyDev t ∧ t.dev.timeState = tsFree)))
  ∧ (∀ (now : W64) (k : Nat) (s : State), s.dev.timeParent = some k → psArmed ≤ s.dev.portState k →
    Answers (.timeExchangeTimer now) s (fun t => s.onlyDev t
      ∧ t.dev.time = { s.dev.time with reqId := (s.dev.time.reqId + 1) % 65536,
                                       exchange := some ((s.dev.time.reqId + 1) % 65536, s.dev.domainTime now.toNat) }
      ∧ t.dev.out = (s.dev.sendLocal k 0x61 (leBytes 2 ((s.dev.time.reqId + 1) % 65536) ++ zeros 30)).out))
  ∧ (∀ (a : Arrival) (s : State), s.dev.Hears a 0x61 → psArmed ≤ s.dev.portState a.port.val →
    Answers (.timeReq a) s (fun t => s.onlyDev t ∧ t.dev.time = s.dev.time ∧ ∃ t3 : Nat,
      t.dev.out = ((s.dev.sendLocal a.port.val 0x62 (sub a.pkt.body 0 2 ++ leBytes 1 s.dev.timeState
        ++ leBytes 1 (s.dev.get BRY_TIME_STAT.HOPS 0) ++ zeros 4 ++ leBytes 8 (s.dev.domainTime a.now.toNat) ++ leBytes 8 t3
        ++ zeros 8)).sendLocal a.port.val 0x63 s.dev.timeInfoBody).out))
  ∧ (∀ (a : Arrival) (t1 : Nat) (s : State), s.dev.Answered a t1 → rdb a.pkt.body 2 = tsLocked →
    let θ := s.dev.theta (sub a.pkt.body 0 32) t1 (s.dev.domainTime a.now.toNat)
    (s.dev.timeState = tsAcquiring → Answers (.timeResp a) s (fun t => s.onlyDev t ∧ t.dev.time.offset = s.dev.time.offset + θ
        ∧ t.dev.time.exchange = none
        ∧ t.dev.timeState = (if (-twoNs < θ ∧ θ < twoNs) ∧ 7 ≤ s.dev.time.good then tsLocked else tsAcquiring)
        ∧ ((-twoNs < θ ∧ θ < twoNs) ∧ 7 ≤ s.dev.time.good → rdb a.pkt.body 3 < 15 →
            t.dev.get BRY_TIME_STAT.HOPS 0 = rdb a.pkt.body 3 + 1)))
    ∧ (s.dev.timeState = tsLocked → Answers (.timeResp a) s (fun t => s.onlyDev t ∧ t.dev.timeState = tsLocked
        ∧ t.dev.time.offset = s.dev.time.offset + clampTo 3200 θ
        ∧ ((θ ≤ -oneMicro ∨ oneMicro ≤ θ) → t.dev.get BRY_TIME_STAT.OUT_OF_BOUND 0 = 1))))
  ∧ (∀ (a : Arrival) (t1 : Nat) (s : State), s.dev.Answered a t1 → rdb a.pkt.body 2 ≠ tsLocked → s.dev.timeState = tsLocked →
    Answers (.timeResp a) s (fun t => s.onlyDev t ∧ t.dev.timeState = tsHoldover ∧ t.dev.time.offset = s.dev.time.offset))
  ∧ (∀ (a : Arrival) (s : State), s.dev.Hears a 0x62 → psArmed ≤ s.dev.portState a.port.val → s.dev.time.exchange = none →
    Answers (.timeResp a) s (fun t => t = s.withDev (s.dev.passed a)))
  ∧ (∀ (a : Arrival) (s : State), s.dev.Hears a 0x63 → psArmed ≤ s.dev.portState a.port.val → s.dev.timeParent = some a.port.val →
    s.dev.time.parent.1 = tsLocked →
    (s.dev.timeState = tsAcquiring → Answers (.timeInfo a) s (fun t => s.onlyDev t ∧ t.dev.time.beat = rd a.pkt.body 0 8
        ∧ t.dev.time.tickT = rd a.pkt.body 8 8 ∧ t.dev.get BRY_PERIOD.PERIOD 0 = rd a.pkt.body 0x10 4 % 2 ^ 30
        ∧ t.dev.time.announced = if rd a.pkt.body 0x14 4 = 0 then none else some (rd a.pkt.body 0x14 4, rd a.pkt.body 0x18 8)))
    ∧ (s.dev.timeState = tsLocked → s.dev.agrees (rd a.pkt.body 0 8) (rd a.pkt.body 8 8) (rd a.pkt.body 0x10 4) = false →
      Answers (.timeInfo a) s (fun t => s.onlyDev t ∧ t.dev.get BRY_TIME_STAT.PERIOD_MISMATCH 0 = 1
        ∧ t.dev.time.beat = s.dev.time.beat ∧ t.dev.time.tickT = s.dev.time.tickT)))
  ∧ (∀ (s : State), s.dev.timeParent.isSome → s.dev.timeState = tsLocked →
    Answers .holdoverTimeout s (fun t => s.onlyDev t ∧ t.dev.timeState = tsHoldover ∧ t.dev.time.offset = s.dev.time.offset))

/-- PERIOD_APPLY, BEAT_TICK and ARRIVAL_DEADLINE (R49, R56, R62, R404, R410, R444): a bad period, or a module that is not root, shows
in STATUS; with no period in force a good one is at once, the tick being that instant; else it is announced if its beat is 1 ms away.
A tick advances the beat and its instant by one period, an announced period of that beat takes effect, and a context that was to start
then runs.  At the deadline an incomplete block of the next beat marks the overrun of its context. -/
def Obligations.BeatAndPeriod : Prop :=
  (∀ (w : RegWr) (now : W64) (next : Nat) (s : State), s.dev.AppliesPeriod w next →
    let d := s.dev.writeFields .BRY_PERIOD 0 false w
    ((next < 2000 ∨ 1000000000 < next) → Answers (.periodApply w now) s (fun t => t = s.withDev (d.put BRY_PERIOD.STATUS 1 0)))
    ∧ (2000 ≤ next → next ≤ 1000000000 → s.dev.flag BRY_TIME_CFG.ROOT 0 = false →
      Answers (.periodApply w now) s (fun t => t = s.withDev (d.put BRY_PERIOD.STATUS 2 0)))
    ∧ (2000 ≤ next → next ≤ 1000000000 → s.dev.flag BRY_TIME_CFG.ROOT 0 = true → s.dev.get BRY_PERIOD.PERIOD 0 = 0 →
      Answers (.periodApply w now) s (fun t => s.onlyDev t ∧ t.dev.get BRY_PERIOD.PERIOD 0 = next ∧ t.dev.get BRY_PERIOD.STATUS 0 = 0
        ∧ t.dev.time = { s.dev.time with tickT := s.dev.domainTime now.toNat, tickCycle := s.dev.cclk }))
    ∧ (2000 ≤ next → next ≤ 1000000000 → s.dev.flag BRY_TIME_CFG.ROOT 0 = true → s.dev.get BRY_PERIOD.PERIOD 0 ≠ 0 →
      s.dev.time.announced = none → s.dev.time.beat < s.dev.reg .BRY_PERIOD_AT 0 →
      s.dev.domainTime now.toNat + oneMilli ≤
        s.dev.time.tickT + 16 * (s.dev.reg .BRY_PERIOD_AT 0 - s.dev.time.beat) * s.dev.get BRY_PERIOD.PERIOD 0 →
      Answers (.periodApply w now) s (fun t => s.onlyDev t ∧ t.dev.get BRY_PERIOD.PERIOD 0 = s.dev.get BRY_PERIOD.PERIOD 0
        ∧ t.dev.get BRY_PERIOD.STATUS 0 = 0 ∧ t.dev.time = { s.dev.time with announced := some (next, s.dev.reg .BRY_PERIOD_AT 0) })))
  ∧ (∀ (s : State), s.dev.mmc.state ≠ .off → s.dev.get BRY_PERIOD.PERIOD 0 ≠ 0 →
    Answers .beatTick s (fun t => s.onlyDev t ∧ t.dev.time.beat = (s.dev.time.beat + 1) % 2 ^ 64
      ∧ t.dev.time.tickT = s.dev.time.tickT + 16 * s.dev.get BRY_PERIOD.PERIOD 0
      ∧ (∀ p, s.dev.time.announced = some (p, (s.dev.time.beat + 1) % 2 ^ 64) →
          t.dev.get BRY_PERIOD.PERIOD 0 = p % 2 ^ 30 ∧ t.dev.time.announced = none)
      ∧ (∀ c, s.dev.locked c = true → (s.dev.ctxAt c).state ≠ .running → (s.dev.ctxAt c).startAt = some ((s.dev.time.beat + 1) % 2 ^ 64) →
          (t.dev.ctxAt c).state = .running ∧ (t.dev.ctxAt c).startAt = none)))
  ∧ (∀ (c : CtxId) (s : State), s.dev.locked c = true → (s.dev.ctxAt c).state = .running → (s.dev.ctxAt c).overrun = false →
    (s.dev.ctxAt c).endsAt (s.dev.time.beat + 1) = false →
    (s.dev.dueLate c (s.dev.time.beat + 1) false = [] → Answers (.arrivalDeadline c) s (fun t => t = s))
    ∧ (s.dev.dueLate c (s.dev.time.beat + 1) false ≠ [] →
      Answers (.arrivalDeadline c) s (fun t => s.onlyDev t ∧ (t.dev.ctxAt c).overrun = true ∧ (t.dev.ctxAt c).state = .running)))

/-! ### Flows and packets (R356 to R398) -/

/-- ACK, NACK, RESET, REFUSE, ACK_TIMER, RTO_EXPIRY, FLOW_TIMEOUT and CONGESTION_STEP (R384 to R389, R393): an ACK takes the packets
before its number off the flow; a NACK sends the flow again from its number; a RESET fails it and opens it anew; a REFUSE gives the
waiting thread the cause of its status; the timers send the owed ACK, send the flow again with a doubled RTO, fail it, and raise a
limited rate by RAI up to the full one. -/
def Obligations.FlowControl : Prop :=
  (∀ (a : Arrival) (m : Bool) (e : Dev) (s : State), s.dev.Delivered a 0x40 m e → a.pkt.at' 0x14 1 = a.pkt.tc.val →
    (e.sendFlow (arrivalFlow a)).covers (a.pkt.at' 0x10 2) = true →
    (∃ x ∈ (e.sendFlow (arrivalFlow a)).unacked, x.before (a.pkt.at' 0x10 2) = true) →
    Answers (.ack a) s (fun t => s.onlyDev t ∧ (t.dev.sendFlow (arrivalFlow a)).opening = false ∧ (t.dev.sendFlow (arrivalFlow a)).rto = 0
      ∧ (t.dev.sendFlow (arrivalFlow a)).unacked
        = (e.sendFlow (arrivalFlow a)).unacked.filter (fun x => !x.before (a.pkt.at' 0x10 2))))
  ∧ (∀ (a : Arrival) (m : Bool) (e : Dev) (f : Nat) (s : State), s.dev.Delivered a 0x41 m e → f = flowKey a.pkt.src.toNat (a.pkt.at' 0x14 1) →
    Answers (.nack a) s (fun t => t = s.withDev
      ((if (e.sendFlow f).covers (a.pkt.at' 0x10 2) then e.resend s.mem f (a.pkt.at' 0x10 2) else e).passed a)))
  ∧ (∀ (a : Arrival) (m : Bool) (e : Dev) (f : Nat) (s : State), s.dev.Delivered a 0x42 m e → f = flowKey a.pkt.src.toNat (a.pkt.at' 0x14 1) →
    Answers (.reset a) s (fun t => s.onlyDev t ∧ (t.dev.sendFlow f).unacked = [] ∧ (t.dev.sendFlow f).await = []
      ∧ (t.dev.sendFlow f).opening = true ∧ (t.dev.sendFlow f).next = (e.sendFlow f).next))
  ∧ (∀ (a : Arrival) (m : Bool) (e : Dev) (r : RecvFlow) (z : Bool) (x : Sent) (core id k : Nat) (g : Nat × Nat × Nat) (s : State),
    s.dev.InOrder a 0x43 m e r z → a.pkt.at' 0x12 1 ≠ 0 → k < 8 →
    (e.sendFlow (flowKey a.pkt.src.toNat (a.pkt.at' 0x13 1))).unacked.find? (fun x => x.seq = a.pkt.at' 0x10 2) = some x →
    x.out.who = .far core id → (∀ j < k, ∀ y ∈ (e.thrAt (core * 8 + j)).far, y.1 ≠ id) →
    (e.thrAt (core * 8 + k)).far.find? (fun y => y.1 = id) = some (id, g) → (e.thrAt (core * 8 + k)).state.faults = true →
    Answers (.refuse a) s (fun t => s.onlyDev t ∧ (t.dev.thrAt (core * 8 + k)).cause = answerCause (a.pkt.at' 0x12 1)
      ∧ (t.dev.thrAt (core * 8 + k)).tval = g.2.2 ∧ (t.dev.thrAt (core * 8 + k)).tpc = g.2.1))
  ∧ (∀ (flow : FlowRef) (r : RecvFlow) (s : State), s.dev.recvFlow (flowKey flow.peer.toNat flow.tc.val) = some r → 0 < r.owed →
    Answers (.ackTimer flow) s (fun t => s.onlyDev t ∧ t.dev.recvFlow (flowKey flow.peer.toNat flow.tc.val) = some { r with owed := 0, ce := 0 }
      ∧ tblGet [] t.dev.outq 10 = tblGet [] s.dev.outq 10 ++ [plainOut (ctlPkt 0x40 flow.tc.val r.pkey flow.peer.toNat s.dev.moduleId
        (leBytes 2 r.exp ++ leBytes 2 r.ce ++ leBytes 1 flow.tc.val))]))
  ∧ (∀ (flow : FlowRef) (f rto : Nat) (o : Sent) (s : State), f = flowKey flow.peer.toNat flow.tc.val →
    rto = (if (s.dev.sendFlow f).rto = 0 then s.dev.get RTE_TIMERS.RTO 0 else (s.dev.sendFlow f).rto) →
    (s.dev.sendFlow f).unacked.head? = some o →
    Answers (.rtoExpiry flow) s (fun t => s.onlyDev t
      ∧ t.dev.sendFlow f = { s.dev.sendFlow f with rto := Nat.min (2 * rto) (Nat.max rto 10000) }
      ∧ t.dev = (s.dev.modSend f (fun x => { x with rto := Nat.min (2 * rto) (Nat.max rto 10000) })).resend s.mem f o.seq))
  ∧ (∀ (flow : FlowRef) (f : Nat) (s : State), f = flowKey flow.peer.toNat flow.tc.val → (s.dev.sendFlow f).unacked ≠ [] →
    Answers (.flowTimeout flow) s (fun t => s.onlyDev t ∧ (t.dev.sendFlow f).unacked = [] ∧ (t.dev.sendFlow f).await = []
      ∧ (t.dev.sendFlow f).opening = true ∧ t.dev.get RTE_ERR.FLOWLOST 0 = satAdd (s.dev.get RTE_ERR.FLOWLOST 0) 1 (2 ^ RTE_ERR.FLOWLOST.width - 1)))
  ∧ (∀ (flow : FlowRef) (f : Nat) (s : State), f = flowKey flow.peer.toNat flow.tc.val → tblGet 0 s.dev.rte.rate f ≠ 0 →
    s.dev.flag RTE_CC.EN 0 = true →
    Answers (.congestionStep flow) s (fun t => s.onlyDev t
      ∧ t.dev.rateOf f = Nat.min (s.dev.rmax flow.peer.toNat) (s.dev.rateOf f + 1000 * s.dev.get RTE_CC.RAI 0)))

/-- WRITE, GET_DATA, SHORT_PACKET, SHORT_CONT, POISON_MAP, GET_REQ and AMO_RESP (R230, R231, R308, R309, R316, R362 to R364, R391): an
accepted packet's bytes stand in memory at the address that it names, and its flow expects the next number; a place that refuses it
changes no memory and is answered by a REFUSE; a get of up to 256 bytes is answered by a short write of what stands at its source; the
old value of an atomic comes to its thread, which goes on. -/
def Obligations.PacketsMoveData : Prop :=
  (∀ (a : Arrival) (m : Bool) (e : Dev) (r : RecvFlow) (z : Bool) (c : CtxId) (s : State), s.dev.InOrder a 0x10 m e r z →
    (e.taking a r z).jobCtx a.pkt.pkey.toNat = some c →
    (∀ u, (e.taking a r z).pktPlace (a.pkt.spec 0x12 6) = some (.mem u) → e.coreOf u = none →
      (e.taking a r z).homeCheck c (.mem u) a.pkt.payload.length true = none →
      Answers (.write a) s (fun t => t.fuse = s.fuse ∧ t.pending = s.pending ∧ t.mem = s.mem.write u a.pkt.payload false
        ∧ t.dev = ((e.taking a r z).unitWrite s.mem c u a.pkt.payload false).1.took a r z m 1
        ∧ (t.dev.recvFlow (arrivalFlow a)).map (·.exp) = some ((a.pkt.seq.toNat + 1) % 65536)))
    ∧ (∀ pl st, (e.taking a r z).pktPlace (a.pkt.spec 0x12 6) = some pl →
      (e.taking a r z).homeCheck c pl a.pkt.payload.length true = some st →
      Answers (.write a) s (fun t => t = s.withDev
        ((((e.taking a r z).countRefusal pl.die st).sendRefuse a.pkt a.pkt.tc.val st (a.pkt.spec 0x12 6)).took a r z m 1))))
  ∧ (∀ (a : Arrival) (m : Bool) (e x : Dev) (r : RecvFlow) (z : Bool) (c : CtxId) (pl : Place) (g : Nat × Sender) (es : List MemEff)
      (old : Nat) (s : State), s.dev.InOrder a 0x11 m e r z →
    (e.taking a r z).getOf a.pkt.src.toNat (some (a.pkt.spec 0x18 2)) (a.pkt.spec 0x12 6) = some g → bit (a.pkt.spec 0x1A 1) 0 = false →
    (e.taking a r z).jobCtx a.pkt.pkey.toNat = some c → (e.taking a r z).pktPlace (a.pkt.spec 0x12 6) = some pl →
    (e.taking a r z).homeWrite s.mem c pl a.pkt.payload false (getCore (some g)) = (.done old false false, x, es) →
    Answers (.getData a) s (fun t => t.fuse = s.fuse ∧ t.pending = s.pending ∧ t.mem = s.mem.apply es
      ∧ t.dev = (x.gotBytes a.pkt.src.toNat (some g) a.pkt.payload.length false false).took a r z m 1))
  ∧ (∀ (a : Arrival) (m : Bool) (e : Dev) (r : RecvFlow) (z : Bool) (c : CtxId) (u : Nat) (s : State), s.dev.InOrder a 0x50 m e r z →
    a.pkt.at' 0x17 1 = 0 → a.pkt.at' 0x16 1 < 24 → e.getOf a.pkt.src.toNat none (a.pkt.at' 0x10 6) = none →
    e.jobCtx a.pkt.pkey.toNat = some c → e.pktPlace (a.pkt.at' 0x10 6) = some (.mem u) → e.coreOf u = none →
    e.homeCheck c (.mem u) (a.pkt.at' 0x16 1 + 1) true = none →
    Answers (.shortPacket a) s (fun t => t.fuse = s.fuse ∧ t.pending = s.pending
      ∧ t.mem = s.mem.write u (sub a.pkt.body 8 (a.pkt.at' 0x16 1 + 1)) false
      ∧ (t.dev.recvFlow (arrivalFlow a)).map (·.exp) = some ((a.pkt.seq.toNat + 1) % 65536)))
  ∧ (∀ (a : Arrival) (m : Bool) (e : Dev) (r : RecvFlow) (z p : Bool) (c : CtxId) (u n : Nat) (q : Pkt) (bs : Bytes) (s : State),
    s.dev.InOrder a 0x51 m e r z → (r.fresh z).short = some (q, bs, p) → n = q.at' 0x16 1 + 1 → bs.length < n → n ≤ bs.length + 32 →
    q.at' 0x17 1 = 0 → e.getOf a.pkt.src.toNat none (q.at' 0x10 6) = none →
    e.jobCtx a.pkt.pkey.toNat = some c → e.pktPlace (q.at' 0x10 6) = some (.mem u) → e.coreOf u = none →
    e.homeCheck c (.mem u) n true = none →
    Answers (.shortCont a) s (fun t => t.fuse = s.fuse ∧ t.pending = s.pending
      ∧ t.mem = s.mem.write u (bs ++ sub a.pkt.body 0 (n - bs.length)) p
      ∧ (t.dev.recvFlow (arrivalFlow a)).map (fun f => (f.exp, f.short)) = some ((a.pkt.seq.toNat + 1) % 65536, none)))
  ∧ (∀ (a : Arrival) (m : Bool) (e : Dev) (r : RecvFlow) (z : Bool) (c : CtxId) (u : Nat) (q : Pkt) (s : State), s.dev.Delivered a 0x59 m e →
    e.place7 (arrivalFlow a) a.pkt = .accept r z → (r.fresh z).mapped = some q → q.type = 0x10 →
    (e.taking a r z).jobCtx q.pkey.toNat = some c → (e.taking a r z).pktPlace (q.spec 0x12 6) = some (.mem u) → e.coreOf u = none →
    (e.taking a r z).homeCheck c (.mem u) q.payload.length true = none →
    Answers (.poisonMap a) s (fun t => t.fuse = s.fuse ∧ t.pending = s.pending
      ∧ t.mem = s.mem.apply (.write u q.payload false :: markEffs u q.payload.length (a.pkt.at' 0x10 8))
      ∧ t.dev = ((e.taking a r z).unitWrite s.mem c u q.payload false).1.took a r z m 2))
  ∧ (∀ (a : Arrival) (m : Bool) (e : Dev) (r : RecvFlow) (z un : Bool) (c : CtxId) (u : Nat) (bs : Bytes) (s : State),
    s.dev.InOrder a 0x53 m e r z → a.pkt.at' 0x20 4 ≤ 256 → (e.taking a r z).jobCtx a.pkt.pkey.toNat = some c →
    (e.taking a r z).pktPlace (a.pkt.at' 0x10 6) = some (.mem u) →
    (e.taking a r z).homeRead s.mem c (.mem u) (a.pkt.at' 0x20 4) = .data bs false un →
    Answers (.getReq a) s (fun t => s.onlyDev t ∧ t.dev =
      (((e.taking a r z).handFor c (homeDie u) (shortPkts a.pkt.pkey.toNat a.pkt.src.toNat e.moduleId (a.pkt.at' 0x18 6) 0 bs false
        .none)).getD (e.taking a r z)).took a r z m 1))
  ∧ (∀ (a : Arrival) (m : Bool) (e : Dev) (r : RecvFlow) (z : Bool) (k id : Nat) (f : PendAmo) (s : State), s.dev.InOrder a 0x52 m e r z →
    (e.sendFlow (flowKey a.pkt.src.toNat 2)).await.find? (fun x => x.1 = a.pkt.at' 0x10 2) = some (a.pkt.at' 0x10 2, .amo k id) →
    (e.thrAt k).stall = some (.amo f) → f.id = id → bit (a.pkt.at' 0x12 1) 1 = false →
    Answers (.amoResp a) s (fun t => s.onlyDev t ∧ (t.dev.thrAt k).state = .ready ∧ (t.dev.thrAt k).stall = none
      ∧ (t.dev.thrAt k).pc = ((e.thrAt k).pc + 4) % 2 ^ 64
      ∧ (f.rd ≠ 0 → tblGet 0 (t.dev.thrAt k).x f.rd = BitVec.ofNat 64
          (if f.bytes = 4 then ofSigned (toSigned (a.pkt.at' 0x18 8) 32) 64 else a.pkt.at' 0x18 8))))

/-- SHARD, RING_HALT and LOCKSTEP (R52, R53, R55, R70, R419, R420): a shard that matches a fill is written into every copy of its slot
and counted; a RING_HALT ends the run of every beat-locked context of its job; a partner's notice of a mismatch does so for the
context in module lock-step and shows the unit, its digest blocks are compared. -/
def Obligations.RingPackets : Prop :=
  (∀ (a : Arrival) (m : Bool) (e x : Dev) (r : RecvFlow) (z : Bool) (c : CtxId) (g : RingDesc) (f : Fill) (n : Nat) (es : List MemEff)
      (s : State), s.dev.InOrder a 0x12 m e r z → (e.taking a r z).shardFill a.pkt = some (c, g, f) →
    n = shardOffset g f (field (a.pkt.spec 0x1A 3) 0 19) ((e.taking a r z).shardCount g f (field (a.pkt.spec 0x1D 3) 0 20)) a.pkt.payload.length →
    field (a.pkt.spec 0x1D 3) 0 20 = (e.taking a r z).shardCount g f (field (a.pkt.spec 0x1D 3) 0 20) →
    field (a.pkt.spec 0x1A 3) 0 19 < field (a.pkt.spec 0x1D 3) 0 20 → n + a.pkt.payload.length ≤ g.slotBytes f.grad →
    (∀ p ∈ f.slots, (e.regionAt (g.slotCore f.grad p.1) (g.regionNo f.grad)).fill < (e.regionAt (g.slotCore f.grad p.1) (g.regionNo f.grad)).slots
      ∧ e.isFull (g.slotCore f.grad p.1) (g.regionNo f.grad) p.2 = false) →
    f.slots.foldl (shardCopy g f n (field (a.pkt.spec 0x1D 3) 0 20) a.pkt 0) (e.taking a r z, []) = (x, es) →
    Answers (.shard a) s (fun t => t.fuse = s.fuse ∧ t.pending = s.pending ∧ t.mem = s.mem.apply es
      ∧ t.dev = (x.modCtx c (fun y => { y with fills := y.fills.map (fun h =>
          if h = f then { h with pos := n + a.pkt.payload.length } else h) })).took a r z m 1))
  ∧ (∀ (a : Arrival) (m : Bool) (e : Dev) (r : RecvFlow) (z : Bool) (s : State), s.dev.InOrder a 0x58 m e r z →
    Answers (.ringHalt a) s (fun t => s.onlyDev t ∧ ∀ c, (e.ctxAt c).pkey = a.pkt.pkey.toNat → (e.ctxAt c).state = .running →
      e.locked c = true → (t.dev.ctxAt c).overrun = true ∧ (t.dev.ctxAt c).ringHaltSent = true))
  ∧ (∀ (a : Arrival) (c : CtxId) (s : State), s.dev.Hears a 0x64 → psUp ≤ s.dev.portState a.port.val → s.dev.portAux a.port.val = true →
    allCtx.find? (fun c => (s.dev.ctxAt c).state = .running && (s.dev.ctxAt c).lock.form = 1) = some c →
    (bit (a.pkt.at' 0x2A 1) 0 = true → s.dev.locked c = true →
      Answers (.lockstep a) s (fun t => s.onlyDev t ∧ (t.dev.ctxAt c).overrun = true ∧ (t.dev.ctxAt c).lock.halt = true
        ∧ t.dev.get BRY_LS_STAT.LAST_UNIT 0 = a.pkt.at' 0x28 2))
    ∧ (bit (a.pkt.at' 0x2A 1) 0 = false →
      Answers (.lockstep a) s (fun t => t = s.withDev (((s.dev.modCtx c (fun x => { x with lock := { x.lock with
        heard := x.lock.heard ++ [(a.pkt.at' 0x10 8, a.pkt.at' 0x28 2, sub a.pkt.body 8 16)] } })).comparePair c false).passed a))))

/-- TABLE_ENTRY_WRITE, TABLE_ENTRY_READ, FLIP_REQUEST, TUMBLER_FLIP, PENDING_CLEAR, PACKET_SEND and PACKET_FORWARD (R366, R372 to R374,
R378, R380, R381, R398): an entry outside the version in force takes the value written, one in it is refused and counted; a flip with
circuits that fit puts the other version in force, at its beat or at once for beat 0; PENDING clears when no packet of the old version
is left; a packet of an attachment takes the next number of its flow; an arriving packet with a route and keys goes to its output port,
one without a route is dropped and counted. -/
def Obligations.RouterRows : Prop :=
  (∀ (w : RegWr) (s : State), s.dev.Manages .RTE_TBL_DATA → w.lanes = .full →
    let p := s.dev.tblSel
    (selValid p = true → (p.1 = 2 ∨ (p.2.1 ≠ s.dev.inforce ∧ s.dev.flag RTE_FLIP.PENDING 0 = false)) → s.dev.tblEntry < 2 ^ 64 →
      Answers (.tableEntryWrite w) s (fun t => s.onlyDev t ∧ t.dev.entry p.1 p.2.1 p.2.2.1 p.2.2.2 = w.value.toNat
        ∧ (∀ key, key ≠ rteKey p.1 p.2.1 p.2.2.1 p.2.2.2 → tblGet 0 t.dev.rte.tbl key = tblGet 0 s.dev.rte.tbl key)
        ∧ t.dev.get RTE_TBL_SEL.INDEX 0 = (s.dev.get RTE_TBL_SEL.INDEX 0 + s.dev.get RTE_TBL_SEL.INC 0) % 65536))
    ∧ (p.1 ≠ 2 → (p.2.1 = s.dev.inforce ∨ s.dev.flag RTE_FLIP.PENDING 0 = true) →
      Answers (.tableEntryWrite w) s (fun t => t = s.withDev (s.dev.count RTE_ERR.TBLREJ 0).tblNext)))
  ∧ (∀ (s : State), s.dev.Manages .RTE_TBL_DATA → Answers .tableEntryRead s (fun t => s.onlyDev t ∧ t.dev.rte = s.dev.rte
      ∧ t.dev.get RTE_TBL_SEL.INDEX 0 = (s.dev.get RTE_TBL_SEL.INDEX 0 + s.dev.get RTE_TBL_SEL.INC 0) % 65536))
  ∧ (∀ (w : RegWr) (b : Nat) (s : State), s.dev.AsksFlip w b →
    (b = 0 → s.dev.circuitsFit → Answers (.flipRequest w) s (fun t => s.onlyDev t ∧ s.dev.Flipped t.dev))
    ∧ (b = 0 → ¬ s.dev.circuitsFit →
      Answers (.flipRequest w) s (fun t => s.onlyDev t ∧ t.dev.inforce = s.dev.inforce ∧ t.dev.get RTE_FLIP.STATUS 0 = 1
        ∧ t.dev.flag RTE_FLIP.PENDING 0 = false ∧ t.dev.rte = s.dev.rte))
    ∧ (b ≠ 0 → b ≤ s.dev.time.beat → Answers (.flipRequest w) s (fun t => t = s.withDev ((s.dev.writeFields .RTE_FLIP 0 false w).put
        RTE_FLIP.STATUS 3 0)))
    ∧ (s.dev.time.beat < b → Answers (.flipRequest w) s (fun t => s.onlyDev t ∧ t.dev.flag RTE_FLIP.PENDING 0 = true
        ∧ t.dev.get RTE_FLIP.STATUS 0 = 0 ∧ t.dev.inforce = s.dev.inforce
        ∧ t.dev.rte.flip = some (b, (s.dev.writeFields .RTE_FLIP 0 false w).get RTE_FLIP.ADMIT 0))))
  ∧ (∀ (b ports : Nat) (s : State), s.dev.rte.flip = some (b, ports) → b ≤ s.dev.time.beat → s.dev.circuitsFit →
    Answers .tumblerFlip s (fun t => s.onlyDev t ∧ s.dev.Flipped t.dev ∧ t.dev.rte.flip = none))
  ∧ (∀ (s : State), s.dev.rte.draining = true → (∀ p ∈ s.dev.lnk, ∀ v ∈ p.2.queue, b2n v.pkt.tumbler = s.dev.inforce) →
    Answers .pendingClear s (fun t => s.onlyDev t ∧ t.dev.flag RTE_FLIP.PENDING 0 = false ∧ t.dev.rte.draining = false))
  ∧ (∀ (att : Fin 11) (i n : Nat) (o : OutPkt) (x : Dev) (s : State), s.dev.hostUp = true → s.dev.idCommitted = true →
    s.dev.firstReady att.val (tblGet [] s.dev.outq att.val) 0 [] = some (i, o) →
    x = ({ s.dev with outq := tblSet [] s.dev.outq att.val ((tblGet [] s.dev.outq att.val).eraseIdx i) }).sendNew att.val o →
    x.rte.loop = [] → o.pkt.sequenced = true → (s.dev.sendFlow o.flow).next = some n →
    Answers (.packetSend att) s (fun t => t = s.withDev x
      ∧ tblGet [] t.dev.outq att.val = (tblGet [] s.dev.outq att.val).eraseIdx i
      ∧ (t.dev.sendFlow o.flow).next = some ((n + 1) % 65536)
      ∧ (t.dev.sendFlow o.flow).unacked = (s.dev.sendFlow o.flow).unacked ++ [⟨n, att.val, o⟩]))
  ∧ (∀ (a : Arrival) (s : State), a.pkt.linkLocal = false → s.dev.hostUp = true → s.dev.idCommitted = true → s.dev.clamps a.pkt = false →
    s.dev.keyPasses a.port.val a.pkt = true → s.dev.portTakes a.port.val a.pkt = true →
    (∀ o, s.dev.route a.port.val a.pkt = .out o → psUp ≤ s.dev.portState a.port.val → s.dev.carries o false a.pkt = true →
      s.dev.keyPasses o a.pkt = true →
      Answers (.packetForward a) s (fun t => t = s.withDev ((s.dev.holdFlits a.port.val (2 * a.pkt.tc.val + b2n a.upper) a.flits).enqueue o
        (s.dev.forwardSide a.port.val o a.upper) a.marked a.pkt (some (a.port.val, 2 * a.pkt.tc.val + b2n a.upper)))))
    ∧ (s.dev.route a.port.val a.pkt = .none →
      Answers (.packetForward a) s (fun t => t = s.withDev ((s.dev.count RTE_ERR.NOROUTE 0).passed a))))

/-- MGMT_READ, MGMT_WRITE and REGISTER_WRITE (R12, R16, R428, R429, R529, R563, R564): a read of a register answers with what it reads
as, one where no register is answers zero and counts; a full write of a register that software only stores gives each of its RW fields
the value written, through BAR4 and over the side band; a VF's write to the page of a context that is not its own changes nothing
but the count. -/
def Obligations.RegisterAccesses : Prop :=
  (∀ (q : MgmtRequest) (w : RegWr) (r : RegName) (i : Nat) (s : State), s.dev.ReadsReg q w r i →
    (q.via = .bar4 → s.dev.bar4In = true →
      Answers (.mgmtRead q) s (fun t => t = s.withDev (s.dev.emit (.mgmt false (leBytes q.size (laneData w (s.dev.regView r i)))))))
    ∧ (q.via = .sideBand → s.dev.mmc.state ≠ .off → q.size = 8 →
      Answers (.mgmtRead q) s (fun t => t = s.withDev (s.dev.emit (.mgmt true (leBytes 1 0x72 ++ mgmtResp q.tag.toNat 0 (s.dev.regView r i)))))))
  ∧ (∀ (q : MgmtRequest) (s : State), q.via = .bar4 → s.dev.bar4In = true → s.dev.regAt q.space.toNat q.offset.toNat = none →
    Answers (.mgmtRead q) s (fun t => t = s.withDev ((s.dev.reject q.space.toNat q.offset.toNat).emit (.mgmt false (leBytes q.size 0)))))
  ∧ (∀ (q : MgmtRequest) (r : RegName) (i : Nat) (s : State), r ∈ storedRegs → s.dev.mmc.switching ≠ some 1 → s.dev.mmc.state ≠ .off →
    s.dev.regAt q.space.toNat q.offset.toNat = some (r, i) → q.size = 8 → q.offset.toNat % 8 = 0 →
    ((q.via = .bar4 ∧ s.dev.bar4In = true) ∨ q.via = .sideBand) →
    Answers (.mgmtWrite q) s (fun t => s.onlyDev t
      ∧ ∀ f ∈ r.fields, f.type = .rw → t.dev.get f i = field q.data.toNat f.lo f.width))
  ∧ (∀ (a : RegAccess) (sp off : Nat) (r : RegName) (i : Nat) (s : State), r ∈ storedRegs → s.dev.mmc.switching ≠ some 1 →
    a.path = .bar4 → s.dev.bar4In = true → bar4Space a.offset = (sp, off) → s.dev.regAt sp off = some (r, i) → a.size = 8 → off % 8 = 0 →
    Answers (.registerWrite a) s (fun t => s.onlyDev t
      ∧ ∀ f ∈ r.fields, f.type = .rw → t.dev.get f i = field a.data.toNat f.lo f.width))
  ∧ (∀ (a : RegAccess) (fn : FnId) (w : RegWr) (s : State), a.path = .bar0 fn → fn ≠ 0 → s.dev.hostUp = true → s.dev.fnPresent fn = true →
    accessLanes a.offset a.size a.data.toNat = some w → s.dev.owns fn (Fin.ofNat 64 (a.offset / 0x400)) = false →
    Answers (.registerWrite a) s (fun t => t = s.withDev (s.dev.foreign a.offset)))

/-! ### Ethernet (R463 to R483) -/

/-- FRAME_RECEIVE, ETH_DOORBELL and WATERMARK_ARM (R466, R468, R469, R471 to R474, R479): a runt and a frame for a foreign destination
are dropped and counted; a frame that its queue's first buffer takes whole is written there with its descriptor; with no descriptor
posted it waits where PFC covers its priority, and is dropped and counted where it does not.  A doorbell posts the descriptors up to the
new tail.  Arming a watermark at or below which LEVEL stands posts its notice at once and disarms it. -/
def Obligations.EthernetReceive : Prop :=
  (∀ (f : EthFrame) (s : State), s.dev.subUp f.at' = true → s.dev.noneHeld f.at'.port → f.bytes.length < 60 →
    Answers (.frameReceive f) s (fun t => t = s.withDev (s.dev.count ETH_RX_ERR.RUNT f.at'.port.val)))
  ∧ (∀ (f : EthFrame) (s : State), s.dev.FrameComes f → s.dev.takesAddr f.at'.port.val f.bytes = false →
    Answers (.frameReceive f) s (fun t => t = s.withDev (s.dev.count ETH_RX_ERR.FILTER f.at'.port.val)))
  ∧ (∀ (f : EthFrame) (b : Bytes) (s : State), s.dev.Steered f → (s.dev.queueDescs (s.dev.steer f).dest).head? = some b → sizeOk b = true →
    f.bytes.length ≤ rd b 8 4 →
    Answers (.frameReceive f) s (fun t => t = s.withDev ((s.dev.hostWrite (rd b 0 8) f.bytes).writeBack (s.dev.steer f).dest 0x10
      (rxBack (s.dev.steer f) (wholeFlags f) f.bytes.length f.bytes.length))))
  ∧ (∀ (f : EthFrame) (s : State), s.dev.Steered f → s.dev.queueDescs (s.dev.steer f).dest = [] →
    (s.dev.pfcOn f.at'.port.val (s.dev.steer f).pri = true →
      Answers (.frameReceive f) s (fun t => s.onlyDev t ∧ (t.dev.ethSub f.at').held = [s.dev.steer f]
        ∧ t.dev.queueDescs (s.dev.steer f).dest = []))
    ∧ (s.dev.pfcOn f.at'.port.val (s.dev.steer f).pri = false →
      Answers (.frameReceive f) s (fun t => t = s.withDev
        ((s.dev.count ETH_RX_DROP.NOBUF f.at'.port.val).count ETH_QSTAT.DROPS (s.dev.steer f).dest))))
  ∧ (∀ (fn : FnId) (q : Fin 64) (v : W64) (ds : List Bytes) (s : State), s.dev.hostUp = true → s.dev.reachesQueue fn q.val = true →
    s.dev.noneHeld (Fin.ofNat 2 (q.val / 32)) → s.dev.flag ETH_QCFG.EN q.val = true → v.toNat % 65536 < s.dev.queueSize q.val →
    s.dev.get ETH_QSTAT.LEVEL q.val + s.dev.bellMore q.val v.toNat < s.dev.queueSize q.val → s.dev.queueSize q.val ≤ 65536 →
    Answers (.ethDoorbell fn q v ds) s (fun t => s.onlyDev t
      ∧ t.dev.queueDescs q.val = s.dev.queueDescs q.val ++ (List.range (s.dev.bellMore q.val v.toNat)).map (fun i => sub (ds.getD i []) 0 32)
      ∧ t.dev.get ETH_QSTAT.LEVEL q.val = s.dev.get ETH_QSTAT.LEVEL q.val + s.dev.bellMore q.val v.toNat))
  ∧ (∀ (fn : FnId) (q : Fin 64) (w : RegWr) (s : State), s.dev.hostUp = true → s.dev.reachesQueue fn q.val = true →
    wrSets w ETH_QWM.ARMED = true →
    let d := s.dev.writeFields .ETH_QWM q.val false w
    (s.dev.get ETH_QSTAT.LEVEL q.val ≤ d.get ETH_QWM.WM q.val →
      Answers (.watermarkArm fn q w) s (fun t => t = s.withDev (d.watermark q.val) ∧ t.dev.flag ETH_QWM.ARMED q.val = false))
    ∧ (d.get ETH_QWM.WM q.val < s.dev.get ETH_QSTAT.LEVEL q.val →
      Answers (.watermarkArm fn q w) s (fun t => t = s.withDev d ∧ t.dev.flag ETH_QWM.ARMED q.val = true)))

/-- PAUSE_FRAME_RECEIVE, PAUSE_EXPIRY, PFC_REFRESH, FRAME_TRANSMIT and SUB_PORT_LINK (R465, R467, R475 to R478): a PAUSE frame stops every
priority for a time that is not zero and resumes them for zero; an expiry resumes its priority alone; a stopped sender is told again
while a share stands above XON; the next ready frame leaves and its descriptors come back with OK; a link that comes up or goes down
shows in LINK.
ETH_PORT_ENABLE, ETH_QUEUE_CONFIG and ETH_RULE_WRITE (R465, R470, R471, R482, R483): a port whose set-up is legal is enabled, and one
that is not stays disabled with STATUS 1; a port that is disabled has no link and no pause; the PF gives a free queue to a legal owner,
with an empty ring as it is enabled; a rule is written where its queues end within 16, else refused. -/
def Obligations.EthernetSendAndSetUp : Prop :=
  ((∀ (f : EthFrame) (s : State), s.dev.subUp f.at' = true → isPause f.bytes = true → f.fcsOk = true → 60 ≤ f.bytes.length →
    s.dev.get ETH_PORT_CFG.FC f.at'.port.val = 1 → beNat (sub f.bytes 14 2) = 1 →
    Answers (.pauseFrameReceive f) s (fun t => s.onlyDev t
      ∧ (t.dev.ethSub f.at').stopped = (if beNat (sub f.bytes 16 2) = 0 then 0 else 0xFF)
      ∧ t.dev.get ETH_PAUSE.RX_PAUSE f.at'.port.val = satAdd (s.dev.get ETH_PAUSE.RX_PAUSE f.at'.port.val) 1 (2 ^ ETH_PAUSE.RX_PAUSE.width - 1)))
  ∧ (∀ (x : SubPort) (pri : Fin 8) (s : State),
    Answers (.pauseExpiry x pri) s (fun t => s.onlyDev t ∧ bit (t.dev.ethSub x).stopped pri.val = false
      ∧ (∀ i : Fin 8, i ≠ pri → bit (t.dev.ethSub x).stopped i.val = bit (s.dev.ethSub x).stopped i.val)
      ∧ (t.dev.ethSub x).held = (s.dev.ethSub x).held))
  ∧ (∀ (x : SubPort) (s : State), s.dev.subUp x = true → s.dev.get ETH_PORT_CFG.FC x.port.val = 1 → (s.dev.ethSub x).xoff ≠ 0 →
    Answers (.pfcRefresh x) s (fun t => t = s.withDev (s.dev.sendPause x (pauseBody 0xFFFF))))
  ∧ (∀ (x : SubPort) (q j : Nat) (data : Bytes) (ds : List Bytes) (s : State), s.dev.subUp x = true → s.dev.txNext x = some q →
    j = 32 * x.port.val + 16 + q → txFrame (s.dev.queueDescs j) = some ds →
    let d := s.dev.modSub x (fun y => { y with next := (q + 1) % 16 })
    (∀ bytes, txCheck ds = txOk → d.txBytes s.mem j ds data = .ok bytes →
      Answers (.frameTransmit x data) s (fun t => t = s.withDev
        (((txOut (ds.getD 0 []) bytes).foldl (fun d b => d.emit (.frame x b)) d).txDone x.port.val j ds.length txOk)))
    ∧ (txCheck ds ≠ txOk →
      Answers (.frameTransmit x data) s (fun t => t = s.withDev (d.txDone x.port.val j ds.length (txCheck ds)))))
  ∧ (∀ (x : SubPort) (s : State), s.dev.ethUp x.port.val = true → x.sub.val < s.dev.subCount x.port.val →
    Answers (.subPortLink x true) s (fun t => s.onlyDev t ∧ bit (t.dev.get ETH_PORT_CFG.LINK x.port.val) x.sub.val = true)
    ∧ Answers (.subPortLink x false) s (fun t => s.onlyDev t ∧ bit (t.dev.get ETH_PORT_CFG.LINK x.port.val) x.sub.val = false)))
  ∧ ((∀ (p : Fin 2) (w : RegWr) (s : State), s.dev.Manages .ETH_PORT_CFG →
    let d := s.dev.writeFields .ETH_PORT_CFG p.val false w
    (s.dev.flag ETH_PORT_CFG.EN p.val = false → d.flag ETH_PORT_CFG.EN p.val = true →
      (d.portOk p.val = true → Answers (.ethPortEnable p w) s (fun t => s.onlyDev t ∧ t.dev.flag ETH_PORT_CFG.EN p.val = true
        ∧ t.dev.get ETH_PORT_CFG.STATUS p.val = 0 ∧ t.dev.domOn (416 + p.val) = true))
      ∧ (d.portOk p.val = false → Answers (.ethPortEnable p w) s (fun t => s.onlyDev t ∧ t.dev.flag ETH_PORT_CFG.EN p.val = false
        ∧ t.dev.get ETH_PORT_CFG.STATUS p.val = 1)))
    ∧ (s.dev.flag ETH_PORT_CFG.EN p.val = true → d.flag ETH_PORT_CFG.EN p.val = false →
      Answers (.ethPortEnable p w) s (fun t => s.onlyDev t ∧ t.dev.flag ETH_PORT_CFG.EN p.val = false
        ∧ t.dev.get ETH_PORT_CFG.LINK p.val = 0 ∧ t.dev.get ETH_PAUSE.PAUSED p.val = 0 ∧ t.dev.noneHeld p
        ∧ t.dev.get ETH_PORT_CFG.BREAKOUT p.val = s.dev.get ETH_PORT_CFG.BREAKOUT p.val)))
  ∧ (∀ (q : Fin 64) (w : RegWr) (s : State), s.dev.hostUp = true → s.dev.noneHeld (Fin.ofNat 2 (q.val / 32)) →
    s.dev.flag ETH_QCFG.EN q.val = false → 64 ≤ s.dev.get ETH_QCFG.OWNER q.val →
    let d := s.dev.queueWritten q.val w
    (d.ownerOk q.val = true → (d.get ETH_QCFG.OWNER q.val ≠ 64 ∨ d.flag ETH_QCFG.BUFKIND q.val = false) →
      6 ≤ d.get ETH_QCFG.SIZE q.val → d.get ETH_QCFG.SIZE q.val ≤ 16 → d.flag ETH_QCFG.EN q.val = true →
      Answers (.ethQueueConfig 0 q w) s (fun t => s.onlyDev t ∧ t.dev.flag ETH_QCFG.EN q.val = true ∧ t.dev.queueDescs q.val = []
        ∧ t.dev.get ETH_QSTAT.LEVEL q.val = 0 ∧ t.dev.get ETH_QSTAT.HEAD q.val = 0
        ∧ t.dev.get ETH_QCFG.OWNER q.val = d.get ETH_QCFG.OWNER q.val ∧ t.dev.get ETH_QCFG.BASE q.val = d.get ETH_QCFG.BASE q.val))
    ∧ (ownerChanged s.dev d q.val = true → d.ownerOk q.val = false →
      Answers (.ethQueueConfig 0 q w) s (fun t => t = s.withDev (s.dev.rejectAt .ETH_QCFG q.val))))
  ∧ (∀ (w : RegWr) (v : Nat) (s : State), s.dev.Manages .ETH_RULE_DATA → w.lanes = .full → v = w.value.toNat % 2 ^ 45 →
    (ruleField v ETH_RULE_DATA.QUEUE + 2 ^ ruleField v ETH_RULE_DATA.SPAN ≤ 16 →
      s.dev.ethRule (s.dev.get ETH_RULE_SEL.PORT 0) (s.dev.get ETH_RULE_SEL.INDEX 0) < 2 ^ 64 →
      Answers (.ethRuleWrite w) s (fun t => s.onlyDev t ∧ t.dev.regs = s.dev.regs
        ∧ t.dev.ethRule (s.dev.get ETH_RULE_SEL.PORT 0) (s.dev.get ETH_RULE_SEL.INDEX 0) = v))
    ∧ (16 < ruleField v ETH_RULE_DATA.QUEUE + 2 ^ ruleField v ETH_RULE_DATA.SPAN →
      s.dev.ethRule (s.dev.get ETH_RULE_SEL.PORT 0) (s.dev.get ETH_RULE_SEL.INDEX 0) < 2 ^ 64 →
      Answers (.ethRuleWrite w) s (fun t => t = s.withDev (s.dev.rejectAt .ETH_RULE_DATA 0)))))


/-! ### Threads (R147 to R168, R280 to R283) -/

/-- BASE_INSTRUCTION, FENCE, FENCE_I, ECALL, EBREAK, CSR_INSTRUCTION, MQCTL_RESTART and MQCTL_CLEAR (R124, R147, R148, R150, R165 to R167,
R282): register operations, branches and jumps give rd and the PC their RV64 values, and a word of another extension raises ILLEGAL with
its bits; the plain fences only go on; ECALL faults with cause 9, EBREAK with cause 13, or stops the thread for an open debugger; a CSR read
gives its value, a write of MWTMO its 32 bits, an unknown CSR ILLEGAL; MQCTL restarts and clears the queues that its bits name. -/
def Obligations.ThreadInstructions : Prop :=
  (∀ (th : ThreadRef) (word : W32) (w : Nat) (i : Insn) (e : Dev) (s : State), w = word.toNat → w % 4 = 3 → s.dev.Issues s.mem th 4 w i e →
    let a := e.xreg i.k (wRs1 w)
    let b := e.xreg i.k (wRs2 w)
    (w % 128 = 0x33 → ∀ p ∈ regOps, wF7 w = p.1 → wF3 w = p.2.1 →
      Answers (.baseInstruction th word) s (fun t => t = s.withDev (e.retire i (wRd w) (p.2.2 a b))))
    ∧ (w % 128 = 0x13 → wF3 w = 0 →
      Answers (.baseInstruction th word) s (fun t => t = s.withDev
        (e.retire i (wRd w) ((a + ofSigned (toSigned (wImmI w) 12) 64) % 2 ^ 64))))
    ∧ (w % 128 = 0x63 → wF3 w = 0 →
      Answers (.baseInstruction th word) s (fun t => t = s.withDev (if a = b
        then e.retireTo i 0 0 ((i.pc + ofSigned (toSigned (wImmB w) 13) 64) % 2 ^ 64) else e.retire i 0 0)))
    ∧ (w % 128 = 0x6F →
      Answers (.baseInstruction th word) s (fun t => t = s.withDev
        (e.retireTo i (wRd w) ((i.pc + 4) % 2 ^ 64) ((i.pc + ofSigned (toSigned (wImmJ w) 21) 64) % 2 ^ 64))))
    ∧ (w % 128 ∈ [0x07, 0x27, 0x43, 0x53, 0x57] →
      Answers (.baseInstruction th word) s (fun t => t = s.withDev (e.illegal i) ∧ (t.dev.thrAt i.k).cause = 1
        ∧ (t.dev.thrAt i.k).tval = w ∧ (t.dev.thrAt i.k).tpc = i.pc)))
  ∧ (∀ (th : ThreadRef) (op : FenceOp) (b : Nat) (i : Insn) (e : Dev) (s : State), s.dev.Issues s.mem th 4 b i e →
    b = op.pred.val * 2 ^ 24 + op.succ.val * 2 ^ 20 + 0x0F → ¬ (op.pred.val = 1 ∧ op.succ.val = 0) →
    Answers (.fence th op) s (fun t => t = s.withDev (e.retire i 0 0)))
  ∧ (∀ (th : ThreadRef) (i : Insn) (e : Dev) (s : State), s.dev.Issues s.mem th 4 0 i e →
    Answers (.fenceI th) s (fun t => t = s.withDev (e.retire i 0 0)))
  ∧ (∀ (th : ThreadRef) (i : Insn) (e : Dev) (s : State), s.dev.Issues s.mem th 4 0x73 i e →
    Answers (.ecall th) s (fun t => s.onlyDev t ∧ (t.dev.thrAt i.k).cause = 9 ∧ (t.dev.thrAt i.k).tpc = i.pc))
  ∧ (∀ (th : ThreadRef) (z : Bool) (i : Insn) (e : Dev) (s : State),
    s.dev.Issues s.mem th (if z then 2 else 4) (if z then 0x9002 else 0x100073) i e →
    (s.dev.keep.debug = .context i.c → Answers (.ebreak th z) s (fun t => s.onlyDev t ∧ (t.dev.thrAt i.k).state = .debug
      ∧ (t.dev.thrAt i.k).pc = i.pc))
    ∧ (s.dev.keep.debug ≠ .context i.c → Answers (.ebreak th z) s (fun t => s.onlyDev t ∧ (t.dev.thrAt i.k).cause = 0x0D
      ∧ (t.dev.thrAt i.k).tpc = i.pc)))
  ∧ (∀ (th : ThreadRef) (op : CsrOp) (i : Insn) (e : Dev) (s : State), s.dev.Issues s.mem th 4 (csrBits op) i e →
    (∀ r, csrOf op.csr.toNat = some r → op.kind = .rs → op.src.val = 0 →
      Answers (.csrInstruction th op) s (fun t => t = s.withDev (e.retire i op.rd.val (e.csrRead i r))))
    ∧ (op.csr.toNat = 0x801 → op.kind = .rw →
      Answers (.csrInstruction th op) s (fun t => s.onlyDev t ∧ (t.dev.thrAt i.k).mwtmo = e.xreg i.k op.src.val % 2 ^ 32
        ∧ (t.dev.thrAt i.k).x = setX (e.thrAt i.k).x op.rd.val (e.thrAt i.k).mwtmo ∧ (t.dev.thrAt i.k).pc = (i.pc + 4) % 2 ^ 64))
    ∧ (csrOf op.csr.toNat = none → Answers (.csrInstruction th op) s (fun t => t = s.withDev (e.illegal i))))
  ∧ (∀ (th : ThreadRef) (bits : BitVec 7) (i : Insn) (e : Dev) (s : State), s.dev.Issues s.mem th 4 0 i e →
    Answers (.mqctlRestart th bits) s (fun t => s.onlyDev t ∧ ∀ q < 5,
      if bit bits.toNat q then (t.dev.queAt i.core q).stopped = false ∧ (t.dev.queAt i.core q).cmds = (e.queAt i.core q).cmds
      else t.dev.queAt i.core q = e.queAt i.core q)
    ∧ Answers (.mqctlClear th bits) s (fun t => s.onlyDev t ∧ ∀ q < 7,
      if bit bits.toNat q then (t.dev.queAt i.core q).stopped = false ∧ (t.dev.queAt i.core q).cmds = []
      else t.dev.queAt i.core q = e.queAt i.core q))

/-- THREAD_LOAD, LOAD_DATA_RETURN, THREAD_STORE, AMO, LR, SC, WRITE_UNIT_ARRIVAL and SHORT_WRITE_ACKNOWLEDGEMENT (R149, R157, R165, R194,
R195, R230, R280): a near load waits for its data, which its return writes to rd; a near store writes its bytes; a misaligned access faults
with cause 2; a near atomic reads and writes memory at once; SC stores and answers 0 only under its reservation, else 1 without a store;
a far write is performed as it arrives at its home, and its acknowledgement frees its place in the core. -/
def Obligations.ThreadMemory : Prop :=
  (∀ (th : ThreadRef) (op : LoadOp) (i : Insn) (e : Dev) (s : State), s.dev.Issues s.mem th (if op.compressed then 2 else 4) 0 i e →
    (e.loadAddr i op % 2 ^ op.size.val ≠ 0 → Answers (.threadLoad th op) s (fun t => t = s.withDev (e.faultAt i 2 (e.loadAddr i op))))
    ∧ (∀ a ro f, e.loadAddr i op % 2 ^ op.size.val = 0 → e.ReachesMem s.mem i .read (e.loadAddr i op) a ro f →
      f.nearBlock a (2 ^ op.size.val) false = none →
      Answers (.threadLoad th op) s (fun t => t = s.withDev (f.stallOn i (.load
        ⟨op.rd.val, e.loadAddr i op, a, 2 ^ op.size.val, op.unsigned, op.compressed, false⟩)))))
  ∧ (∀ (th : ThreadRef) (l : PendLoad) (c : CtxId) (i : Insn) (pl : Place) (v : Nat) (f : Dev) (s : State),
    (s.dev.thrAt (thrNo th)).stall = some (.load l) → s.dev.holder (thrNo th / 8) = some c → l.remote = false →
    i = ⟨thrNo th, c, (s.dev.thrAt (thrNo th)).pc, if l.compressed then 2 else 4, 0⟩ →
    s.dev.decodeAt (some i.core) (field l.ga 45 3) (l.ga % 2 ^ 45) = some pl → s.dev.threadRead s.mem i pl l.va l.bytes = (.value v, f) →
    Answers (.loadDataReturn th .here) s (fun t => t = s.withDev (f.retire i l.rd (loadValue v l.bytes l.unsigned))))
  ∧ (∀ (th : ThreadRef) (op : StoreOp) (i : Insn) (e f : Dev) (a : Nat) (s : State),
    s.dev.Issues s.mem th (if op.compressed then 2 else 4) 0 i e → e.storeAddr i op % 2 ^ op.size.val = 0 →
    e.ReachesMem s.mem i .write (e.storeAddr i op) a false f → f.freeToWrite a (2 ^ op.size.val) →
    Answers (.threadStore th op) s (fun t => t.fuse = s.fuse ∧ t.pending = s.pending
      ∧ t.mem = s.mem.write a (leBytes (2 ^ op.size.val) (e.xreg i.k op.rs2.val)) false
      ∧ t.dev = ((f.unitWrite s.mem i.c a (leBytes (2 ^ op.size.val) (e.xreg i.k op.rs2.val)) false).1).retire i 0 0))
  ∧ (∀ (th : ThreadRef) (op : AmoOp) (n old : Nat) (po : Bool) (i : Insn) (e f x : Dev) (a : Nat) (es : List MemEff) (s : State),
    s.dev.Issues s.mem th 4 0 i e → n = (if op.dword then 8 else 4) → e.xreg i.k op.rs1.val % n = 0 →
    e.ReachesMem s.mem i .write (e.xreg i.k op.rs1.val) a false f →
    f.homeAmo s.mem i.c (.mem a) op.kind n (f.xreg i.k op.rs2.val) ⟨f.moduleId, i.unit, some (i.k % 8), 3⟩ false = (.done old false po, x, es) →
    Answers (.amo th op) s (fun t => t.fuse = s.fuse ∧ t.pending = s.pending ∧ t.mem = s.mem.apply es ∧ old = s.mem.num a n
      ∧ es = [.write a (leBytes n (amoResult op.kind n old (f.xreg i.k op.rs2.val))) false]
      ∧ t.dev = x.retire i op.rd.val (loadValue old n false)))
  ∧ (∀ (th : ThreadRef) (op : LrScOp) (n v : Nat) (ro : Bool) (i : Insn) (e f x : Dev) (a : Nat) (s : State),
    s.dev.Issues s.mem th 4 (lrScBits op 2) i e → op.rs2.val = 0 → n = (if op.dword then 8 else 4) → e.xreg i.k op.rs1.val % n = 0 →
    e.ReachesMem s.mem i .read (e.xreg i.k op.rs1.val) a ro f → f.threadRead s.mem i (.mem a) (e.xreg i.k op.rs1.val) n = (.value v, x) →
    Answers (.lr th op) s (fun t => s.onlyDev t ∧ (t.dev.thrAt i.k).resv = some (lineOf a) ∧ (t.dev.thrAt i.k).state = .ready
      ∧ (t.dev.thrAt i.k).pc = (i.pc + 4) % 2 ^ 64 ∧ (t.dev.thrAt i.k).x = setX (x.thrAt i.k).x op.rd.val (loadValue v n false)))
  ∧ (∀ (th : ThreadRef) (op : LrScOp) (n : Nat) (ro : Bool) (i : Insn) (e f : Dev) (a : Nat) (s : State),
    s.dev.Issues s.mem th 4 (lrScBits op 3) i e → n = (if op.dword then 8 else 4) → e.xreg i.k op.rs1.val % n = 0 →
    e.ReachesMem s.mem i .write (e.xreg i.k op.rs1.val) a ro f →
    ((f.thrAt i.k).resv ≠ some (lineOf a) →
      Answers (.sc th op) s (fun t => s.onlyDev t ∧ (t.dev.thrAt i.k).resv = none ∧ (t.dev.thrAt i.k).x = setX (f.thrAt i.k).x op.rd.val 1))
    ∧ ((f.thrAt i.k).resv = some (lineOf a) → ro = false → f.freeToWrite a n →
      Answers (.sc th op) s (fun t => t.fuse = s.fuse ∧ t.pending = s.pending
        ∧ t.mem = s.mem.write a (leBytes n (f.xreg i.k op.rs2.val)) false ∧ (t.dev.thrAt i.k).resv = none
        ∧ (t.dev.thrAt i.k).x = setX (f.thrAt i.k).x op.rd.val 0)))
  ∧ (∀ (id u : Nat) (f : Flight) (s : State), s.dev.flight.find? (fun x => x.id = id && x.answer.isNone) = some f → s.dev.inOrder f = true →
    s.dev.pktPlace f.addr = some (.mem u) → f.amo = none → s.dev.coreOf u = none →
    s.dev.homeCheck f.ctx (.mem u) f.data.length true = none →
    Answers (.writeUnitArrival id) s (fun t => t.fuse = s.fuse ∧ t.pending = s.pending
      ∧ t.mem = s.mem.apply (.write u f.data false :: (if f.marks = 0 then [] else markEffs u f.data.length f.marks))
      ∧ t.dev = ((s.dev.unitWrite s.mem f.ctx u f.data false).1).arrived f 0 0 false))
  ∧ (∀ (u : CoreRef) (id old : Nat) (un : Bool) (f : Flight) (s : State),
    s.dev.flight.find? (fun x => x.id = id && x.short && x.answer.isSome && (s.dev.coreAt (coreNo u.die.val u.core.val)).shorts.contains id)
      = some f → f.answer = some (0, old, un) → f.who = .far (coreNo u.die.val u.core.val) id →
    Answers (.shortWriteAcknowledgement u id) s (fun t => s.onlyDev t ∧ t.dev.flight = s.dev.flight.filter (fun g => g.id ≠ id)
      ∧ (t.dev.coreAt (coreNo u.die.val u.core.val)).shorts = (s.dev.coreAt (coreNo u.die.val u.core.val)).shorts.filter (· ≠ id)))

/-- MISSUE, QUEUE_ACCEPT, MWAIT, MWAIT_WAKE, MWTMO_EXPIRY, MPOLL and MSIG (R119, R155, R156, R160, R161, R269 to R271): a command with room
in its queue joins it and rd takes its accept number, one without waits for QUEUE_ACCEPT; a wait whose condition holds goes on with the
value, another waits, and wakes with the value that met it or, not beat-locked, at its time limit; a poll reads; a signal adds to an event
object within its limits and returns the old value. -/
def Obligations.ThreadQueuesAndWaits : Prop :=
  (∀ (th : ThreadRef) (op : CustOp) (q v : Nat) (i : Insn) (e f : Dev) (s : State), s.dev.Issues s.mem th 4 (custBits op 0x0B 0) i e →
    e.Issuing s.mem i op q v f →
    ((f.queAt i.core q).cmds.length < 64 → Answers (.missue th op) s (fun t => t = s.withDev (f.issued s.mem i op.rd.val q (leBytes 32 v))
        ∧ (t.dev.queAt i.core q).cmds.length = (f.queAt i.core q).cmds.length + 1
        ∧ (t.dev.queAt i.core q).accepts = ((f.queAt i.core q).accepts + 1) % 2 ^ 32))
    ∧ (64 ≤ (f.queAt i.core q).cmds.length →
      Answers (.missue th op) s (fun t => t = s.withDev (f.stallOn i (.queue q op.rd.val (leBytes 32 v))))))
  ∧ (∀ (u : QueueRef) (k n rd : Nat) (bs : Bytes) (c : CtxId) (s : State), k = coreNo u.die.val u.core.val →
    (s.dev.queAt k u.q.val).cmds.length < 64 → s.dev.granted k u.q.val = some (n, rd, bs) → s.dev.holder k = some c →
    Answers (.queueAccept u) s (fun t => s.onlyDev t ∧ (t.dev.queAt k u.q.val).cmds.length = (s.dev.queAt k u.q.val).cmds.length + 1
      ∧ (t.dev.thrAt (k * 8 + n)).state = .ready ∧ (t.dev.thrAt (k * 8 + n)).stall = none ∧ (t.dev.queAt k u.q.val).pointer = (n + 1) % 8
      ∧ (t.dev.thrAt (k * 8 + n)).x = setX (s.dev.thrAt (k * 8 + n)).x rd (((s.dev.queAt k u.q.val).accepts + 1) % 2 ^ 32)))
  ∧ (∀ (th : ThreadRef) (op : CustOp) (kind cond obj v : Nat) (i : Insn) (e : Dev) (s : State),
    s.dev.Issues s.mem th 4 (custBits op 0x0B 1) i e → e.WaitsOn i op kind cond obj v →
    (waitHolds cond v (e.xreg i.k op.rs2.val) = true → Answers (.mwait th op) s (fun t => t = s.withDev
        ((e.retire i op.rd.val v).modThr i.k (fun x => { x with tmo := false }))))
    ∧ (waitHolds cond v (e.xreg i.k op.rs2.val) = false → Answers (.mwait th op) s (fun t => s.onlyDev t
        ∧ (t.dev.thrAt i.k).state = .wait ∧ (t.dev.thrAt i.k).pc = i.pc
        ∧ (t.dev.thrAt i.k).wait = some ⟨kind, obj, cond, e.xreg i.k op.rs2.val, op.rd.val, none⟩)))
  ∧ (∀ (th : ThreadRef) (w : WaitOn) (c : CtxId) (v : Nat) (s : State), (s.dev.thrAt (thrNo th)).wait = some w → w.hit = some v →
    s.dev.holder (thrNo th / 8) = some c →
    Answers (.mwaitWake th) s (fun t => s.onlyDev t ∧ (t.dev.thrAt (thrNo th)).state = .ready ∧ (t.dev.thrAt (thrNo th)).wait = none
      ∧ (t.dev.thrAt (thrNo th)).tmo = false ∧ (t.dev.thrAt (thrNo th)).x = setX (s.dev.thrAt (thrNo th)).x w.rd v
      ∧ (t.dev.thrAt (thrNo th)).pc = ((s.dev.thrAt (thrNo th)).pc + 4) % 2 ^ 64))
  ∧ (∀ (th : ThreadRef) (w : WaitOn) (c : CtxId) (v : Nat) (s : State), (s.dev.thrAt (thrNo th)).wait = some w → w.hit = none →
    s.dev.holder (thrNo th / 8) = some c → s.dev.locked c = false → (s.dev.thrAt (thrNo th)).mwtmo ≠ 0 →
    (s.dev.thrAt (thrNo th)).state = .wait → s.dev.objectValue c (thrNo th / 8) w.kind w.obj = some v →
    Answers (.mwtmoExpiry th) s (fun t => s.onlyDev t ∧ (t.dev.thrAt (thrNo th)).state = .ready ∧ (t.dev.thrAt (thrNo th)).tmo = true
      ∧ (t.dev.thrAt (thrNo th)).x = setX (s.dev.thrAt (thrNo th)).x w.rd v))
  ∧ (∀ (th : ThreadRef) (op : CustOp) (kind obj v : Nat) (i : Insn) (e : Dev) (s : State),
    s.dev.Issues s.mem th 4 (custBits op 0x0B 2) i e → op.funct7.toNat = kind → kind < 4 → op.rs2.val = 0 →
    objectOf kind (e.xreg i.k op.rs1.val) = some obj → e.objectValue i.c i.core kind obj = some v →
    Answers (.mpoll th op) s (fun t => t = s.withDev (e.retire i op.rd.val v)))
  ∧ (∀ (th : ThreadRef) (op : CustOp) (p : Nat) (inc : Int) (i : Insn) (e : Dev) (s : State),
    s.dev.Issues s.mem th 4 (custBits op 0x0B 3) i e → op.funct7.toNat = 0 → e.xreg i.k op.rs1.val < 4096 →
    e.physOf i.c (i.core / 12) (e.xreg i.k op.rs1.val) = some p → (e.syncAt (i.core / 12) p).kind = kEvent →
    inc = toSigned (e.xreg i.k op.rs2.val) 64 → -2147483648 ≤ inc → inc ≤ 2147483647 →
    (inc ≠ 0 → 0 ≤ ((e.syncAt (i.core / 12) p).value : Int) + inc →
      ((e.syncAt (i.core / 12) p).value : Int) + inc ≤ ((e.syncAt (i.core / 12) p).limit : Int) →
      Answers (.msig th op) s (fun t => s.onlyDev t
        ∧ ((t.dev.syncAt (i.core / 12) p).value : Int) = ((e.syncAt (i.core / 12) p).value : Int) + inc
        ∧ (t.dev.thrAt i.k).x = setX (e.thrAt i.k).x op.rd.val (e.syncAt (i.core / 12) p).value
        ∧ (t.dev.thrAt i.k).pc = (i.pc + 4) % 2 ^ 64))
    ∧ (((e.syncAt (i.core / 12) p).value : Int) + inc < 0 →
      Answers (.msig th op) s (fun t => s.onlyDev t ∧ (t.dev.thrAt i.k).cause = 7
        ∧ (t.dev.syncAt (i.core / 12) p).value = (e.syncAt (i.core / 12) p).value ∧ (t.dev.syncAt (i.core / 12) p).faulted = true)))

/-- MFENCE_U, MFENCE_R, MFENCE_G, FENCE_COMPLETE, RDBEAT, BEAT_WAIT, BEAT_WAIT_RELEASE and MEXIT (R153, R162 to R164): a fence passes once
nothing that it orders is open, else holds the thread until then; RDBEAT reads the domain beat, the relative beat of a beat-locked context
and the cycles since the tick; BEAT.WAIT holds the thread until the beat has changed, and it goes on with the new one; MEXIT ends it. -/
def Obligations.ThreadFencesAndBeats : Prop :=
  (∀ (th : ThreadRef) (op : CustOp) (i : Insn) (e : Dev) (s : State), s.dev.Issues s.mem th 4 (custBits op 0x2B 0) i e →
    op.rd.val = 0 → op.rs2.val = 0 → op.funct7.toNat = 0 →
    (e.xreg i.k op.rs1.val < 128 → Answers (.mfenceU th op) s (fun t => t = s.withDev
      (if e.fenceDone i.k (.fenceU (e.xreg i.k op.rs1.val)) then e.retire i 0 0 else e.stallOn i (.fenceU (e.xreg i.k op.rs1.val)))))
    ∧ (128 ≤ e.xreg i.k op.rs1.val → Answers (.mfenceU th op) s (fun t => t = s.withDev (e.illegal i))))
  ∧ (∀ (th : ThreadRef) (op : CustOp) (i : Insn) (e : Dev) (s : State), s.dev.Issues s.mem th 4 (custBits op 0x2B 1) i e → bareOp op →
    Answers (.mfenceR th op) s (fun t => t = s.withDev (if e.fenceDone i.k .fenceR then e.retire i 0 0 else e.stallOn i .fenceR)))
  ∧ (∀ (th : ThreadRef) (op : CustOp) (i : Insn) (e : Dev) (s : State), s.dev.Issues s.mem th 4 (custBits op 0x2B 2) i e → bareOp op →
    Answers (.mfenceG th op) s (fun t => t = s.withDev (if e.fenceDone i.k .fenceG then e.retire i 0 0 else e.stallOn i .fenceG)))
  ∧ (∀ (th : ThreadRef) (x : Stall) (c : CtxId) (s : State), (s.dev.thrAt (thrNo th)).stall = some x → s.dev.holder (thrNo th / 8) = some c →
    s.dev.fenceDone (thrNo th) x = true →
    Answers (.fenceComplete th) s (fun t => s.onlyDev t ∧ (t.dev.thrAt (thrNo th)).state = .ready ∧ (t.dev.thrAt (thrNo th)).stall = none
      ∧ (t.dev.thrAt (thrNo th)).pc = ((s.dev.thrAt (thrNo th)).pc + 4) % 2 ^ 64 ∧ (t.dev.thrAt (thrNo th)).x = (s.dev.thrAt (thrNo th)).x))
  ∧ (∀ (th : ThreadRef) (op : CustOp) (i : Insn) (e : Dev) (s : State), s.dev.Issues s.mem th 4 (custBits op 0x2B 3) i e →
    op.rs2.val = 0 → op.funct7.toNat = 0 →
    (op.rs1.val = 0 → Answers (.rdbeat th op) s (fun t => t = s.withDev (e.retire i op.rd.val e.time.beat)))
    ∧ (op.rs1.val = 1 → Answers (.rdbeat th op) s (fun t => t = s.withDev (e.retire i op.rd.val
        (if e.locked i.c then (e.ctxAt i.c).relBeat e.time.beat else 0))))
    ∧ (op.rs1.val = 2 → Answers (.rdbeat th op) s (fun t => t = s.withDev (e.retire i op.rd.val (e.cclk - e.time.tickCycle))))
    ∧ (2 < op.rs1.val → Answers (.rdbeat th op) s (fun t => t = s.withDev (e.illegal i))))
  ∧ (∀ (th : ThreadRef) (op : CustOp) (i : Insn) (e : Dev) (s : State), s.dev.Issues s.mem th 4 (custBits op 0x2B 4) i e →
    op.rs1.val = 0 → op.rs2.val = 0 → op.funct7.toNat = 0 →
    Answers (.beatWait th op) s (fun t => s.onlyDev t ∧ (t.dev.thrAt i.k).state = .beat ∧ (t.dev.thrAt i.k).beatRd = op.rd.val
      ∧ (t.dev.thrAt i.k).beatIn = s.dev.time.beat ∧ (t.dev.thrAt i.k).pc = i.pc))
  ∧ (∀ (th : ThreadRef) (c : CtxId) (s : State), s.dev.holder (thrNo th / 8) = some c → (s.dev.thrAt (thrNo th)).state = .beat →
    (s.dev.thrAt (thrNo th)).beatIn ≠ s.dev.time.beat →
    Answers (.beatWaitRelease th) s (fun t => s.onlyDev t ∧ (t.dev.thrAt (thrNo th)).state = .ready ∧ (t.dev.thrAt (thrNo th)).tmo = false
      ∧ (t.dev.thrAt (thrNo th)).x = setX (s.dev.thrAt (thrNo th)).x (s.dev.thrAt (thrNo th)).beatRd s.dev.time.beat))
  ∧ (∀ (th : ThreadRef) (op : CustOp) (i : Insn) (e : Dev) (s : State), s.dev.Issues s.mem th 4 (custBits op 0x2B 5) i e → bareOp op →
    Answers (.mexit th op) s (fun t => t = s.withDev
      ((e.modThr i.k (fun x => { x with state := .done, pc := (x.pc + 4) % 2 ^ 64 })).endThreads i.c)))

/-! ### Engines and vector units (R87 to R146) -/

/-- LOADB, MMA, MMAT, EPI, DRAIN, ZERO, CVT, VEW, VRED, VCVT, VRAND, VSEED and COMMAND_COMPLETION (R25, R120 to R125, R160): a row
performs its command only where that is at the front of its queue and may start, on memory in which a line that an earlier command of
the queue wrote while this one waited is as it is or as it was, and which races with nothing where there is no such line; a unit whose
domain is off answers UNIT_NOT_ADMITTED; a command that fails writes no memory; one that is done has its effects and its word; the completion takes the word, signals an event
object after OK with SIG, and stops the queue after a failure. -/
def Obligations.UnitCommands : Prop :=
  (∀ (e : EngineRef) (core : Nat) (s : State), core = coreNo e.die.val e.core.val → ∀ p ∈ engineRows e,
    (s.dev.frontCmd core e.k.val = none → Answers p.1 s (fun t => t = s))
    ∧ (∀ c x, s.dev.frontCmd core e.k.val = some (c, x) → x.op ≠ p.2.1 → Answers p.1 s (fun t => t = s))
    ∧ (∀ c x, s.dev.frontCmd core e.k.val = some (c, x) → x.op = p.2.1 → s.dev.admitted (engGroup core e.k.val) = false →
      Answers p.1 s (fun t => t = s.withDev (s.dev.executed core e.k.val x 6)))
    ∧ (∀ c x r, s.dev.CmdStarts core e.k.val p.2.1 c x → s.dev.raced s.mem core e.k.val x = r →
      (p.2.2 core e.k.val c x r.1 r.2 = .wait → Answers p.1 s (fun t => t = s))
      ∧ (∀ st f, p.2.2 core e.k.val c x r.1 r.2 = .fail st f → Answers p.1 s (fun t => t = s.withDev (f.executed core e.k.val x st)))
      ∧ (∀ fp po un f es, p.2.2 core e.k.val c x r.1 r.2 = .done fp po un f es →
        Answers p.1 s (fun t => t.fuse = s.fuse ∧ t.pending = s.pending ∧ t.mem = s.mem.apply es
          ∧ t.dev = (f.executed core e.k.val x (complWord 0 fp po un)).wrote s.mem c core e.k.val x es)))
    ∧ (∀ x, s.dev.racing core e.k.val x = [] → s.dev.raced s.mem core e.k.val x = (s.mem, s.dev)))
  ∧ (∀ (u : CoreRef) (core : Nat) (s : State), core = coreNo u.die.val u.core.val → ∀ p ∈ vectorRows u,
    (s.dev.frontCmd core 4 = none → Answers p.1 s (fun t => t = s))
    ∧ (∀ c x, s.dev.frontCmd core 4 = some (c, x) → x.op ≠ p.2.1 → Answers p.1 s (fun t => t = s))
    ∧ (∀ c x, s.dev.frontCmd core 4 = some (c, x) → x.op = p.2.1 → s.dev.admitted (csGroup core) = false →
      Answers p.1 s (fun t => t = s.withDev (s.dev.executed core 4 x 6)))
    ∧ (∀ c x r, s.dev.CmdStarts core 4 p.2.1 c x → s.dev.raced s.mem core 4 x = r →
      (p.2.2 core c x r.1 r.2 = .wait → Answers p.1 s (fun t => t = s))
      ∧ (∀ st f, p.2.2 core c x r.1 r.2 = .fail st f → Answers p.1 s (fun t => t = s.withDev (f.executed core 4 x st)))
      ∧ (∀ fp po un f es, p.2.2 core c x r.1 r.2 = .done fp po un f es →
        Answers p.1 s (fun t => t.fuse = s.fuse ∧ t.pending = s.pending ∧ t.mem = s.mem.apply es
          ∧ t.dev = (f.executed core 4 x (complWord 0 fp po un)).wrote s.mem c core 4 x es))))
  ∧ (∀ (u : QueueRef) (core : Nat) (c : CtxId) (x : QCmd) (rest : List QCmd) (s : State), core = coreNo u.die.val u.core.val →
    u.q.val < 5 → s.dev.holder core = some c → (s.dev.ctxAt c).state = .running → (s.dev.queAt core u.q.val).cmds = x :: rest →
    (∀ w, x.result = some w → w % 256 ≠ 0 → Answers (.commandCompletion u) s (fun t => s.onlyDev t ∧ t.dev.sync = s.dev.sync
      ∧ t.dev.queAt core u.q.val = { s.dev.queAt core u.q.val with
          cmds := (x :: rest).filter (fun y => y.accept ≠ x.accept)
          lastWord := w
          lastTag := x.tag
          stopped := true
          fail := some (((s.dev.queAt core u.q.val).fail).getD (w, x.tag)) }))
    ∧ (∀ w, x.result = some w → w % 256 = 0 → Answers (.commandCompletion u) s (fun t => s.onlyDev t
      ∧ t.dev.queAt core u.q.val = { s.dev.queAt core u.q.val with
          cmds := (x :: rest).filter (fun y => y.accept ≠ x.accept)
          lastWord := w
          lastTag := x.tag }
      ∧ (t.dev.coreAt core).fpstat = (s.dev.coreAt core).fpstat ||| field w 8 8
      ∧ (x.sig = false → t.dev.sync = s.dev.sync)
      ∧ (∀ p, x.sig = true → s.dev.physOf c (core / 12) x.sync = some p → (s.dev.syncAt (core / 12) p).kind = kEvent →
        (s.dev.syncAt (core / 12) p).value < (s.dev.syncAt (core / 12) p).limit →
        (t.dev.syncAt (core / 12) p).value = (s.dev.syncAt (core / 12) p).value + 1)))
    ∧ (x.result = none → s.dev.frontCmd core u.q.val = some (c, x) → queueOp u.q.val x.op = false →
      s.dev.admitted (queueGroup core u.q.val) = true →
      Answers (.commandCompletion u) s (fun t => s.onlyDev t ∧ (t.dev.queAt core u.q.val).stopped = true
        ∧ (t.dev.queAt core u.q.val).lastWord = 1 ∧ (t.dev.queAt core u.q.val).cmds = (x :: rest).filter (fun y => y.accept ≠ x.accept))))

/-- LOADB, MMA, MMAT, EPI, DRAIN, ZERO and CVT (R92, R94, R110 to R118, R128 to R135): LOADB fills its slot from the columns; MMA and MMAT
give every row of theirs its sums with the tile and leave every other row; ZERO sets its rows, EPI its slot; DRAIN writes a row's words, or
what its slot makes of them, and with CLR clears the row; CVT writes a converted element; the rest of the device stays. -/
def Obligations.EngineResults : Prop :=
  (∀ (e : EngineRef) (core k f kd nc : Nat) (es ss : List Span) (c : CtxId) (x : QCmd) (s : State),
    core = coreNo e.die.val e.core.val → k = e.k.val → s.dev.Front core k 1 c x →
    f = rdb x.bytes 0x18 % 16 → kd = rd x.bytes 0x14 2 → nc = rdb x.bytes 0x16 → f < 10 → 1 ≤ kd → kd ≤ loadMax f → kd % loadL f = 0 →
    1 ≤ nc → nc ≤ 128 → obOk (rd x.bytes 8 4) (rd x.bytes 0x10 4) nc (elemBytes f kd) 4 = true →
    (scalesBytes f kd ≠ 0 → obOk (rd x.bytes 0xC 4) (rd x.bytes 0x1A 2) nc (scalesBytes f kd) (scaleBytes f) = true) →
    es = obRows k (rd x.bytes 8 4) (rd x.bytes 0x10 4) nc (elemBytes f kd) →
    ss = obRows k (rd x.bytes 0xC 4) (rd x.bytes 0x1A 2) nc (scalesBytes f kd) → s.dev.SpansFree s.mem core (es ++ ss) [] →
    Answers (.loadb e) s (fun t => s.onlyDev t
      ∧ s.dev.engineRan t.dev core k x (complWord 0 0 ((es ++ ss).any (s.dev.spanPoison s.mem core)) false)
      ∧ (t.dev.engAt core k).acc = (s.dev.engAt core k).acc ∧ (t.dev.engAt core k).epi = (s.dev.engAt core k).epi
      ∧ (t.dev.engAt core k).tile (1 - rdb x.bytes 0x17 % 2) = (s.dev.engAt core k).tile (1 - rdb x.bytes 0x17 % 2)
      ∧ (t.dev.engAt core k).tile (rdb x.bytes 0x17 % 2) = some ⟨f, kd, nc, es.flatMap (s.dev.readSpan s.mem core),
        ss.flatMap (s.dev.readSpan s.mem core), (es ++ ss).any (s.dev.spanPoison s.mem core)⟩))
  ∧ (∀ (e : EngineRef) (core k : Nat) (tern : Bool) (c : CtxId) (x : QCmd) (tl : Tile) (p : Pairing) (s : State),
    core = coreNo e.die.val e.core.val → k = e.k.val → s.dev.Front core k (if tern then 3 else 2) c x →
    s.dev.Multiplies s.mem core k tern x tl p →
    Answers (if tern then .mmat e else .mma e) s (fun t => s.onlyDev t
      ∧ (∃ fp po, s.dev.engineRan t.dev core k x (complWord 0 fp po false))
      ∧ (t.dev.engAt core k).tiles = (s.dev.engAt core k).tiles ∧ (t.dev.engAt core k).epi = (s.dev.engAt core k).epi
      ∧ (∀ r, (r < rd x.bytes 0x18 2 ∨ rd x.bytes 0x18 2 + rd x.bytes 0x16 2 ≤ r) →
        (t.dev.engAt core k).row r = (s.dev.engAt core k).row r)
      ∧ (∀ i < rd x.bytes 0x16 2, (t.dev.engAt core k).row (i + rd x.bytes 0x18 2)
        = (tl.intoRow p (bit (rdb x.bytes 0x1A) 4) (bit (rdb x.bytes 0x1A) 5) (tl.columns (bit (rdb x.bytes 0x1A) 4)).1
            (s.dev.actValues s.mem core k x tl i) (s.dev.actPoison s.mem core k x tl i)
            ((s.dev.engAt core k).row (i + rd x.bytes 0x18 2))).1)))
  ∧ (∀ (e : EngineRef) (core k : Nat) (c : CtxId) (x : QCmd) (s : State), core = coreNo e.die.val e.core.val → k = e.k.val →
    s.dev.Front core k 6 c x →
    (1 ≤ rd x.bytes 0xA 2 → rd x.bytes 8 2 + rd x.bytes 0xA 2 ≤ 2048 →
      Answers (.zero e) s (fun t => s.onlyDev t ∧ s.dev.engineRan t.dev core k x 0
        ∧ (t.dev.engAt core k).tiles = (s.dev.engAt core k).tiles ∧ (t.dev.engAt core k).epi = (s.dev.engAt core k).epi
        ∧ ∀ r, (t.dev.engAt core k).row r = if rd x.bytes 8 2 ≤ r ∧ r < rd x.bytes 8 2 + rd x.bytes 0xA 2
            then ⟨rdb x.bytes 0xC % 2, true, false, []⟩ else (s.dev.engAt core k).row r))
    ∧ (rd x.bytes 0xA 2 = 0 ∨ 2048 < rd x.bytes 8 2 + rd x.bytes 0xA 2 →
      Answers (.zero e) s (fun t => t = s.withDev (s.dev.executed core k x 3))))
  ∧ (∀ (e : EngineRef) (core k : Nat) (c : CtxId) (x : QCmd) (s : State), core = coreNo e.die.val e.core.val → k = e.k.val →
    s.dev.Front core k 4 c x →
    Answers (.epi e) s (fun t => s.onlyDev t ∧ s.dev.engineRan t.dev core k x 0
      ∧ (t.dev.engAt core k).tiles = (s.dev.engAt core k).tiles ∧ (t.dev.engAt core k).acc = (s.dev.engAt core k).acc
      ∧ ∀ i < 4, tblGet epiReset (t.dev.engAt core k).epi i = if i = rdb x.bytes 8 % 4
          then zeros 9 ++ sub x.bytes 9 21 ++ zeros 2 else tblGet epiReset (s.dev.engAt core k).epi i))
  ∧ (∀ (e : EngineRef) (core k outf : Nat) (dst : Span) (row : AccRow) (v : Bytes) (c : CtxId) (x : QCmd) (s : State),
    core = coreNo e.die.val e.core.val → k = e.k.val → s.dev.Front core k 5 c x → s.dev.DrainsRow s.mem core k x outf dst →
    row = (s.dev.engAt core k).row (rd x.bytes 8 2) → v = tblGet epiReset (s.dev.engAt core k).epi (rdb x.bytes 0x1A % 4) →
    (bit (rdb x.bytes 0x1A) 3 = true → outf = fFP32 →
      Answers (.drain e) s (fun t => t.fuse = s.fuse ∧ t.pending = s.pending
        ∧ t.mem = s.mem.write ((s.dev.coreLocal core dst.1).getD 0) (((List.range (rdb x.bytes 0x1B)).map row.at).flatMap (leBytes 4))
            row.poison
        ∧ (∀ r, (t.dev.engAt core k).row r = if bit (rdb x.bytes 0x1A) 2 = true ∧ r = rd x.bytes 8 2
            then ⟨row.ty, true, false, []⟩ else (s.dev.engAt core k).row r)
        ∧ (t.dev.engAt core k).tiles = (s.dev.engAt core k).tiles ∧ (t.dev.engAt core k).epi = (s.dev.engAt core k).epi
        ∧ s.dev.WroteOnly t.dev ∧ t.dev.gens = s.dev.gens ∧ (∀ c' j, c' * 4 + j ≠ core * 4 + k → t.dev.engAt c' j = s.dev.engAt c' j)))
    ∧ (∀ cv, bit (rdb x.bytes 0x1A) 3 = false → epiConv v = some cv → cv.mode ≠ rSR → outf = rdb v 0x1C % 16 → rdb v 9 ≤ 1 → rdb v 0xA = 0 →
      Answers (.drain e) s (fun t => t.fuse = s.fuse ∧ t.pending = s.pending
        ∧ t.mem = s.mem.write ((s.dev.coreLocal core dst.1).getD 0)
            ((⟨rdb v 9, 0, rdb v 0xB, num32 (rd v 0xC 4), num32 (rd v 0x18 4), [], []⟩ : EpiUse).row outf cv row 0 (rdb x.bytes 0x1B)
              (List.replicate (rdb x.bytes 0x1B) 0)).1 row.poison
        ∧ s.dev.WroteOnly t.dev ∧ t.dev.gens = s.dev.gens ∧ (∀ c' j, c' * 4 + j ≠ core * 4 + k → t.dev.engAt c' j = s.dev.engAt c' j))))
  ∧ (∀ (e : EngineRef) (core k : Nat) (u : CvtUse) (src dst : Span) (c : CtxId) (x : QCmd) (s : State),
    core = coreNo e.die.val e.core.val → k = e.k.val → s.dev.Front core k 7 c x →
    cvtUse x (fun a n al => obOk a 0 1 n al) (obLocal k) = .ok u → u.One src dst → s.dev.SpansFree s.mem core [src] [dst] →
    Answers (.cvt e) s (fun t => t.fuse = s.fuse ∧ t.pending = s.pending
      ∧ t.mem = s.mem.write ((s.dev.coreLocal core dst.1).getD 0) (u.oneElem (s.dev.readSpan s.mem core src))
          (s.dev.spanPoison s.mem core src)
      ∧ s.dev.WroteOnly t.dev ∧ t.dev.gens = s.dev.gens ∧ t.dev.eng = s.dev.eng))

/-- VEW, VRED, VCVT, VRAND and VSEED (R94, R104, R105, R139 to R146): VEW writes the operation on its elements, VRED a row's reduction or
the index of its maximum, VCVT a converted element, MASK the drop-out value of one draw; VSEED gives every generator that it names its
seed and leaves the others, and reseeds nothing where it names an engine that is off. -/
def Obligations.VectorResults : Prop :=
  (∀ (u : CoreRef) (core op : Nat) (uses : Bool × Bool × Bool) (dst : Span) (c : CtxId) (x : QCmd) (s : State),
    core = coreNo u.die.val u.core.val → s.dev.Front core 4 0x10 c x → op = rd x.bytes 6 2 → vewUses op = some uses →
    rd x.bytes 0x18 4 = 1 → (∀ i ∈ [0x1C, 0x1D, 0x1E, 0x1F], rdb x.bytes i = 0) → dst = (rd x.bytes 0x14 4, 4) →
    (∀ r ∈ dst :: vewRuns uses x.bytes, s.dev.vecOk core r.1 r.2 4 = true) → s.dev.SpansFree s.mem core (vewRuns uses x.bytes) [dst] →
    Answers (.vew u) s (fun t => t.fuse = s.fuse ∧ t.pending = s.pending
      ∧ t.mem = s.mem.write ((s.dev.coreLocal core dst.1).getD 0)
          (storedFp32 (vewFp op (s.dev.vewArg s.mem core uses.1 (rd x.bytes 8 4)) (s.dev.vewArg s.mem core uses.2.1 (rd x.bytes 0xC 4))
            (s.dev.vewArg s.mem core uses.2.2 (rd x.bytes 0x10 4))).1)
          ((vewRuns uses x.bytes).any (s.dev.spanPoison s.mem core))
      ∧ s.dev.vectorRan t.dev core x ((vewRuns uses x.bytes).any (s.dev.spanPoison s.mem core))
      ∧ s.dev.WroteOnly t.dev ∧ t.dev.gens = s.dev.gens ∧ t.dev.eng = s.dev.eng))
  ∧ (∀ (u : CoreRef) (core op len : Nat) (src dst : Span) (c : CtxId) (x : QCmd) (s : State),
    core = coreNo u.die.val u.core.val → s.dev.Front core 4 0x11 c x → op = rd x.bytes 6 2 → op ≤ 4 → rd x.bytes 0x10 4 = 1 →
    len = rd x.bytes 0x14 4 → 1 ≤ len → len ≤ 2 ^ 24 → rd x.bytes 0x18 4 % 4 = 0 → rdb x.bytes 0x1C = (if op = 4 then 0xA0 else 0) →
    rdb x.bytes 0x1D = 0 → src = (rd x.bytes 8 4, elemBytes fFP32 len) → dst = (rd x.bytes 0xC 4, 4) →
    s.dev.vecOk core src.1 src.2 4 = true → s.dev.vecOk core dst.1 dst.2 4 = true → s.dev.SpansFree s.mem core [src] [dst] →
    Answers (.vred u) s (fun t => t.fuse = s.fuse ∧ t.pending = s.pending
      ∧ t.mem = s.mem.write ((s.dev.coreLocal core dst.1).getD 0)
          (if op = 4 then leBytes 4 (argMax (s.dev.fp32At s.mem core len src)) else storedFp32 (redRow op (s.dev.fp32At s.mem core len src)).1)
          (s.dev.spanPoison s.mem core src)
      ∧ s.dev.vectorRan t.dev core x (s.dev.spanPoison s.mem core src)
      ∧ s.dev.WroteOnly t.dev ∧ t.dev.gens = s.dev.gens ∧ t.dev.eng = s.dev.eng))
  ∧ (∀ (u : CoreRef) (core : Nat) (w : CvtUse) (src dst : Span) (c : CtxId) (x : QCmd) (s : State),
    core = coreNo u.die.val u.core.val → s.dev.Front core 4 0x12 c x → cvtUse x (s.dev.vecOk core) id = .ok w → w.One src dst →
    s.dev.SpansFree s.mem core [src] [dst] →
    Answers (.vcvt u) s (fun t => t.fuse = s.fuse ∧ t.pending = s.pending
      ∧ t.mem = s.mem.write ((s.dev.coreLocal core dst.1).getD 0) (w.oneElem (s.dev.readSpan s.mem core src))
          (s.dev.spanPoison s.mem core src)
      ∧ s.dev.vectorRan t.dev core x (s.dev.spanPoison s.mem core src)
      ∧ s.dev.WroteOnly t.dev ∧ t.dev.gens = s.dev.gens ∧ t.dev.eng = s.dev.eng))
  ∧ (∀ (u : CoreRef) (core : Nat) (dst : Span) (c : CtxId) (x : QCmd) (s : State),
    core = coreNo u.die.val u.core.val → s.dev.Front core 4 0x13 c x → s.dev.det c = true → rd x.bytes 6 2 = 0 → rd x.bytes 0xC 4 = 1 →
    rdb x.bytes 0x1C = 0 → rdb x.bytes 0x1D = 0 → dst = (rd x.bytes 8 4, 4) → s.dev.vecOk core dst.1 4 4 = true →
    s.dev.SpansFree s.mem core [] [dst] →
    Answers (.vrand u) s (fun t => t.fuse = s.fuse ∧ t.pending = s.pending
      ∧ t.mem = s.mem.write ((s.dev.coreLocal core dst.1).getD 0)
          (storedFp32 (if rd x.bytes 0x18 2 ≤ (s.dev.genDraw (genKey core 5 0) 16).1 then num32 (rd x.bytes 0x10 4) else .zero)) false
      ∧ t.dev.gens = (s.dev.genDraw (genKey core 5 0) 16).2.gens ∧ s.dev.vectorRan t.dev core x false
      ∧ s.dev.WroteOnly t.dev ∧ t.dev.eng = s.dev.eng))
  ∧ (∀ (u : CoreRef) (core units first n : Nat) (c : CtxId) (x : QCmd) (s : State),
    core = coreNo u.die.val u.core.val → s.dev.Front core 4 0x14 c x → units = rdb x.bytes 0x10 → first = rdb x.bytes 0x11 →
    n = rdb x.bytes 0x12 → 1 ≤ n → first + n ≤ 128 →
    ((∀ k < 4, bit units k = true → s.dev.admitted (engGroup core k) = true
        ∧ ∀ y ∈ (s.dev.queAt core k).cmds, notAfter y.accept (x.after.getD k 0) = false) →
      Answers (.vseed u) s (fun t => s.onlyDev t ∧ s.dev.vectorRan t.dev core x false
        ∧ t.dev = { s.dev with que := t.dev.que, gens := t.dev.gens }
        ∧ ∀ v < 8, ∀ l < 128, tblGet 0 t.dev.gens (genKey core v l) =
          if bit units v = true ∧ first ≤ l ∧ l < first + n
          then BitVec.ofNat 64 (seedOf (rd x.bytes 8 8)
            (streamNo (((s.dev.ctxAt c).loaded.map (·.rank)).getD 0) ((s.dev.ctxAt c).genDie core) (core % 12) v l))
          else tblGet 0 s.dev.gens (genKey core v l)))
    ∧ (∀ k < 4, bit units k = true → s.dev.admitted (engGroup core k) = false →
      Answers (.vseed u) s (fun t => t = s.withDev (s.dev.executed core 4 x 6))))

/-! ### Stream engines (R206 to R243) -/

/-- XFER, CHAIN, SHORT, SDEP, HPUSH, SSAVE, LINEAR, STRIDED, GATHER, SCATTER and TRANSPOSE (R207, R212 to R218, R222, R226, R228, R229):
an XFER becomes a LINEAR transfer, or one that stops the engine with its status; a CHAIN starts its descriptors one by one as they
stand where nothing has stored to them since, a descriptor with DEP or ORDER first as a marker; a SHORT within the core writes its bytes at once; SDEP sets a marker; HPUSH appends a handle, and
waits at a full queue; SSAVE sets the save area. -/
def Obligations.StreamCommands : Prop :=
  (∀ (u : StreamRef) (k : Nat) (c : CtxId) (x : QCmd) (s : State), k = strOf u → s.dev.NextStream k 0x20 c x →
    (s.dev.strAt k).hasSlot = true →
    (∀ desc, desc = linearDesc (rd x.bytes 8 8) (rd x.bytes 0x10 8) (field (rdb x.bytes 0x1C) 0 2) (field (rdb x.bytes 0x1C) 2 2)
        (rd x.bytes 0x18 4) (rdb x.bytes 0x1D) (bit (rdb x.bytes 0x1C) 4) (rdb x.bytes 0x1E) →
      1 ≤ rd x.bytes 0x18 4 → rd x.bytes 0x18 4 ≤ 2 ^ 31 → (rdb x.bytes 0x1D = 0 ∨ 2 ≤ rdb x.bytes 0x1D ∧ rdb x.bytes 0x1D ≤ 64) →
      field (rdb x.bytes 0x1C) 0 2 ≠ 3 → field (rdb x.bytes 0x1C) 2 2 ≠ 3 → (bit (rdb x.bytes 0x1C) 4 = true → s.dev.mcastCheck c desc = 0) →
      Answers (.xfer u) s (fun t => s.onlyDev t ∧ t.dev.strAt k = { s.dev.strAt k with
        transfers := (s.dev.strAt k).transfers ++ [{ Transfer.init with accept := x.accept, cmd := x.bytes, desc := desc }] }))
    ∧ (rd x.bytes 0x18 4 = 0 ∨ 2 ^ 31 < rd x.bytes 0x18 4 ∨ rdb x.bytes 0x1D = 1 ∨ 64 < rdb x.bytes 0x1D →
      Answers (.xfer u) s (fun t => s.onlyDev t ∧ t.dev.strAt k = { s.dev.strAt k with
        transfers := (s.dev.strAt k).transfers ++ [{ Transfer.init with accept := x.accept, cmd := x.bytes, status := 3 }] })))
  ∧ (∀ (u : StreamRef) (k : Nat) (c : CtxId) (x : QCmd) (s : State), k = strOf u → s.dev.NextStream k 0x21 c x →
    rd x.bytes 0xC 2 ≠ 0 → rd x.bytes 8 4 % 64 = 0 → s.dev.inCoreMem (strCore k) (rd x.bytes 8 4) (64 * rd x.bytes 0xC 2) = true →
    Answers (.chain u) s (fun t => s.onlyDev t ∧ t.dev.strAt k = { s.dev.strAt k with chain := some ⟨x.accept, x.bytes, 0, none⟩ }))
  ∧ (∀ (u : StreamRef) (k n a b : Nat) (desc : Bytes) (c : CtxId) (x : QCmd) (tr : Transfer) (f : Dev) (s : State), k = strOf u →
    s.dev.NextStream k 0x22 c x → n = rd x.bytes 0x14 2 → 1 ≤ n → n ≤ 256 → field (rdb x.bytes 0x16) 2 2 ≠ 3 →
    s.dev.inCoreMem (strCore k) (rd x.bytes 0x10 4) n = true → rd x.bytes 8 8 % 4096 + n ≤ 4096 →
    desc = linearDesc (rd x.bytes 0x10 4) (rd x.bytes 8 8) 0 (field (rdb x.bytes 0x16) 2 2) n 0 false 0 →
    tr = { Transfer.init with accept := x.accept, cmd := x.bytes, desc := desc } →
    ((s.dev.fenceSees s.mem k x).addTransfer k tr).MovesPiece s.mem k c tr a b n f → f.WritesOwn c (strCore k) b n →
    Answers (.short u) s (fun t => t.fuse = s.fuse ∧ t.pending = s.pending ∧ t.mem = s.mem.write b (s.mem.read a n) false
      ∧ t.dev = ((f.unitWrite s.mem c b (s.mem.read a n) false).1).modTransfer k x.accept 0 (fun y => y.advance 1 n n 0)))
  ∧ (∀ (u : StreamRef) (k : Nat) (c : CtxId) (x : QCmd) (s : State), k = strOf u → s.dev.NextStream k 0x23 c x →
    (rdb x.bytes 8 = 0 ∨ rdb x.bytes 8 = 2 → Answers (.sdep u) s (fun t => s.onlyDev t ∧ t.dev.strAt k = { s.dev.strAt k with
      marker := some ⟨rdb x.bytes 8, rd x.bytes 0xA 2 % 64, rd x.bytes 0x10 8, false⟩ }))
    ∧ (∀ p, rdb x.bytes 8 = 1 → s.dev.physOf c (strCore k / 12) (rd x.bytes 0xA 2 % 4096) = some p →
      Answers (.sdep u) s (fun t => s.onlyDev t ∧ t.dev.strAt k = { s.dev.strAt k with
        marker := some ⟨1, rd x.bytes 0xA 2 % 4096, rd x.bytes 0x10 8, false⟩ }))
    ∧ (2 < rdb x.bytes 8 → Answers (.sdep u) s (fun t => s.onlyDev t ∧ t.dev.strAt k = { s.dev.strAt k with
      transfers := (s.dev.strAt k).transfers ++ [{ Transfer.init with accept := x.accept, cmd := x.bytes, status := 3 }] })))
  ∧ (∀ (u : StreamRef) (k core q : Nat) (c : CtxId) (x : QCmd) (s : State), k = strOf u → s.dev.NextStream k 0x24 c x →
    q = rdb x.bytes 0x10 % 8 → (rdb x.bytes 0x11 = 0xFF ∧ core = strCore k ∨
      rdb x.bytes 0x11 ≤ 11 ∧ core = coreNo (strCore k / 12) (rdb x.bytes 0x11)) →
    (s.dev.ctxAt c).cores.contains core = true → s.dev.admitted (csGroup core) = true →
    ((s.dev.handleQueue core q).length < 32 → Answers (.hpush u) s (fun t => s.onlyDev t
      ∧ t.dev.handleQueue core q = s.dev.handleQueue core q ++ [BitVec.ofNat 64 (rd x.bytes 8 8)]
      ∧ t.dev.que = (s.dev.doneCmd k x.accept).que ∧ t.dev.str = s.dev.str))
    ∧ (32 ≤ (s.dev.handleQueue core q).length → Answers (.hpush u) s (fun t => t = s)))
  ∧ (∀ (u : StreamRef) (k a : Nat) (c : CtxId) (x : QCmd) (s : State), k = strOf u → s.dev.NextStream k 0x25 c x → a = rd x.bytes 8 4 →
    (a = 0 ∨ a % 256 = 0 ∧ s.dev.inCoreMem (strCore k) a 256 = true → Answers (.ssave u) s (fun t => s.onlyDev t
      ∧ t.dev.strAt k = { s.dev.strAt k with
          save := if a = 0 then none else some a
          fsync := if rd x.bytes 0xC 2 = 0xFFFF then none else some (rd x.bytes 0xC 2 % 4096) }
      ∧ t.dev.que = (s.dev.doneCmd k x.accept).que))
    ∧ (a % 256 ≠ 0 → Answers (.ssave u) s (fun t => s.onlyDev t ∧ t.dev.strAt k = { s.dev.strAt k with
      transfers := (s.dev.strAt k).transfers ++ [{ Transfer.init with accept := x.accept, cmd := x.bytes, status := 4, access := 1, fault := a }] })))
  ∧ (∀ (u : StreamRef) (k : Nat) (c : CtxId) (ch : ChainRun) (b : Bytes) (s : State), k = strOf u → s.dev.ChainNext s.mem k c ch b →
    ∀ p ∈ chainRows u, dsKind b = p.2 → (dsFlag b 1 = false ∧ dsFlag b 2 = false → (s.dev.strAt k).hasSlot = true →
      (s.dev.dsCheck s.mem c (strCore k) b = 0 → Answers p.1 s (fun t => s.onlyDev t
        ∧ (t.dev.strAt k).transfers = (s.dev.strAt k).transfers ++ [{ Transfer.init with
            accept := ch.accept
            cmd := ch.cmd
            desc := b
            index := ch.next
            last := ch.next + 1 = rd ch.cmd 0xC 2
            pops := dsHin b ≠ 15 }]
        ∧ (t.dev.strAt k).chain = (if ch.next + 1 < rd ch.cmd 0xC 2 then some { ch with next := ch.next + 1, desc := none } else none)))
      ∧ (s.dev.dsCheck s.mem c (strCore k) b ≠ 0 → Answers p.1 s (fun t => s.onlyDev t
        ∧ ∃ tr, (t.dev.strAt k).transfers = (s.dev.strAt k).transfers ++ [tr] ∧ tr.status = s.dev.dsCheck s.mem c (strCore k) b
          ∧ tr.access = 3 ∧ tr.index = ch.next ∧ tr.accept = ch.accept)))
      ∧ (dsFlag b 1 = true → dsFlag b 2 = false → Answers p.1 s (fun t => s.onlyDev t ∧ t.dev.strAt k = { s.dev.strAt k with
          marker := some ⟨0, rd b 0x3A 2 % 64, rd b 0x3C 4, false⟩
          chain := some { ch with desc := some b } })))

/-- MARKER_RELEASE, SEGMENT_ISSUE, TRANSFER_COMPLETION, STREAM_STOP and COMMAND_COMPLETION of a stream queue (R207, R208, R212, R223, R224,
R226, R230, R237): a released marker goes, and an SDEP is done; a segment within the core is written at once, one to another core goes out
as a write unit; the first transfer completes with its command; a stopped engine keeps its word and stops its queue; an opcode that is no
stream command's stops the engine with BAD_OPCODE. -/
def Obligations.StreamTransfers : Prop :=
  (∀ (u : StreamRef) (k : Nat) (c : CtxId) (mark : Marker) (s : State), k = strOf u → s.dev.strCtx k = some c →
    (s.dev.strAt k).marker = some mark →
    ((s.dev.strAt k).mine = [] → s.dev.markerHolds c (strCore k) mark = true → Answers (.markerRelease u) s (fun t => s.onlyDev t
      ∧ t.dev.strAt k = { s.dev.strAt k with marker := none }
      ∧ ((s.dev.strAt k).chain.isSome = true → t.dev.que = s.dev.que)
      ∧ (∀ x, (s.dev.strAt k).chain = none →
        (s.dev.queAt (strCore k) (strQueue k)).cmds.find? (fun y => y.result.isNone) = some x →
        t.dev.que = (s.dev.doneCmd k x.accept).que)))
    ∧ ((s.dev.strAt k).mine ≠ [] ∨ s.dev.markerHolds c (strCore k) mark = false → Answers (.markerRelease u) s (fun t => t = s)))
  ∧ (∀ (u : StreamRef) (slot : Fin 6) (k a b n : Nat) (c : CtxId) (tr : Transfer) (f : Dev) (s : State), k = strOf u →
    ((s.dev.strAt k).transfers.filter (fun y => y.slotted))[slot.val]? = some tr → s.dev.strCtx k = some c →
    (s.dev.strAt k).stopper = none → tr.issued = false → 256 < dsLen tr.desc →
    n = segLeft (segments (dsLen tr.desc) (dsSeg tr.desc)) tr.off → 1 ≤ n → s.dev.MovesPiece s.mem k c tr a b n f →
    (f.WritesOwn c (strCore k) b n → Answers (.segmentIssue u slot) s (fun t => t.fuse = s.fuse ∧ t.pending = s.pending
      ∧ t.mem = s.mem.write b (s.mem.read a n) false
      ∧ t.dev = ((f.unitWrite s.mem c b (s.mem.read a n) false).1).modTransfer k tr.accept tr.index
          (fun y => y.advance 1 (dsLen tr.desc) n 0)))
    ∧ (f.coreOf b ≠ some (strCore k) → Answers (.segmentIssue u slot) s (fun t => s.onlyDev t
      ∧ t.dev.flight = f.flight ++ [⟨f.nextFlight, c, strCode k, none, none, b, s.mem.read a n, 0,
          .stream k tr.accept tr.index (addr64 (dsDst tr.desc) (tr.off : Nat)) none, false, none⟩]
      ∧ t.dev.str = (f.modTransfer k tr.accept tr.index (fun y => y.advance 1 (dsLen tr.desc) n 1)).str)))
  ∧ (∀ (u : StreamRef) (k : Nat) (c : CtxId) (tr : Transfer) (x : QCmd) (rest : List QCmd) (s : State), k = strOf u →
    s.dev.strCtx k = some c → (s.dev.strAt k).mine = [tr] → tr.performed = true → (s.dev.strAt k).ownWait = [] →
    (s.dev.queAt (strCore k) (strQueue k)).cmds = x :: rest → x.result = none → x.accept = tr.accept → tr.last = true →
    tr.cmd.head? = some 0x20 → dsHret tr.desc = 15 → dsHout tr.desc = 15 → tr.desc.length = 64 →
    (x.flags ||| tr.flags) % 256 = 0 → x.sig = false →
    Answers (.transferCompletion u) s (fun t => s.onlyDev t ∧ (t.dev.strAt k).mine = []
      ∧ (t.dev.queAt (strCore k) (strQueue k)).cmds = rest.filter (fun y => y.accept ≠ x.accept)
      ∧ (t.dev.queAt (strCore k) (strQueue k)).lastWord = x.flags ||| tr.flags
      ∧ (t.dev.queAt (strCore k) (strQueue k)).stopped = (s.dev.queAt (strCore k) (strQueue k)).stopped))
  ∧ (∀ (u : StreamRef) (k : Nat) (c : CtxId) (tr : Transfer) (s : State), k = strOf u → s.dev.strCtx k = some c →
    (s.dev.strAt k).stopper = some tr → (∀ y ∈ (s.dev.strAt k).mine, y.unacked = 0) → (s.dev.strAt k).leading tr = [] →
    (s.dev.strAt k).save = none → tr.status ≠ 0xB →
    Answers (.streamStop u) s (fun t => s.onlyDev t ∧ (t.dev.queAt (strCore k) (strQueue k)).stopped = true
      ∧ ∃ word, word = tr.status + ((((s.dev.queAt (strCore k) (strQueue k)).cmds.find? (fun y => y.accept = tr.accept)).elim 0
            QCmd.flags) ||| tr.flags)
        ∧ (t.dev.queAt (strCore k) (strQueue k)).fail
          = some (((s.dev.queAt (strCore k) (strQueue k)).fail).getD (word, rd tr.cmd 4 2))
        ∧ (tr.status = 0xA → (t.dev.queAt (strCore k) (strQueue k)).cmds = (s.dev.queAt (strCore k) (strQueue k)).cmds)
        ∧ (tr.status ≠ 0xA → (t.dev.queAt (strCore k) (strQueue k)).lastWord = word)))
  ∧ (∀ (u : QueueRef) (k : Nat) (c : CtxId) (x : QCmd) (s : State), 5 ≤ u.q.val → k = 2 * coreNo u.die.val u.core.val + (u.q.val - 5) →
    (s.dev.nextCmd k = some (c, x) → s.dev.admitted (csGroup (strCore k)) = true → x.op < 0x20 ∨ 0x25 < x.op → (s.dev.strAt k).mine = [] →
      Answers (.commandCompletion u) s (fun t => s.onlyDev t ∧ (t.dev.strAt k).stopper
        = some { Transfer.init with accept := x.accept, cmd := x.bytes, status := 1 })))

/-! ### Regions, sync objects, upkeep, counters (R190 to R205, R264 to R291, R300, R306, R316 to R320) -/

/-- REGION_ENABLE, REGION_DISABLE, PUSH, POP, TAG_WAKE, UNINIT_CLEAR and SLOT_FULL (R192 to R195, R200): an enable that passes the checks
makes the region valid with its counters zero and its tags EMPTY, one that fails leaves its STATUS; a disable clears VALID and the marks;
the store to a ring region sets BUSY; PUSH and POP move HEAD and TAIL, stall on tags, or set BAD_OP, on a ring region with PROTECTION; a stalled thread goes on when the tag
lets it; ones clear SEEN and MULTI; a complete slot at HEAD becomes FULL. -/
def Obligations.Regions : Prop :=
  (∀ (th : ThreadRef) (st : RegionStore) (w r : Nat) (g h : Region) (i : Insn) (e : Dev) (s : State), s.dev.Issues s.mem th 4 0 i e →
    w = st.value.toNat → r = st.region.val → g = e.regionAt i.core r → h = g.word1 w → bit w 12 = false → field w 13 3 = 0 →
    (bit w 8 = true → g.ring = false → g.valid = false →
      ((e.modRegion i.core r (fun x => x.word1 w)).regionCheck i.core r h = 0 →
        Answers (.regionEnable th st) s (fun t => t.fuse = s.fuse ∧ t.pending = s.pending
          ∧ t.mem = s.mem.apply [.clearMarks (e.regionLocal i.core h) h.bytes]
          ∧ t.dev.regionAt i.core r = { h with valid := true, status := 0, head := 0, tail := 0, arrival := 0 }
          ∧ (∀ n < 64, t.dev.slotCount i.core r n = 0 ∧ t.dev.isFull i.core r n = false)
          ∧ (t.dev.thrAt i.k).pc = (i.pc + 4) % 2 ^ 64))
      ∧ (∀ c, (e.modRegion i.core r (fun x => x.word1 w)).regionCheck i.core r h = c → c ≠ 0 →
        Answers (.regionEnable th st) s (fun t => s.onlyDev t ∧ t.dev.regionAt i.core r = { h with status := c }
          ∧ (t.dev.regionAt i.core r).valid = false)))
    ∧ (bit w 8 = false → g.ring = false → g.valid = true →
      Answers (.regionDisable th st) s (fun t => t.fuse = s.fuse ∧ t.pending = s.pending
        ∧ t.mem = s.mem.apply [.clearMarks (e.regionLocal i.core g) g.bytes]
        ∧ t.dev.regionAt i.core r = { h with valid := false } ∧ (t.dev.thrAt i.k).pc = (i.pc + 4) % 2 ^ 64))
    ∧ (g.ring = true → Answers (if bit w 8 then .regionEnable th st else .regionDisable th st) s (fun t => s.onlyDev t
        ∧ t.dev.regionAt i.core r = { g with status := 4 })))
  ∧ (∀ (th : ThreadRef) (region : Fin 64) (g : Region) (i : Insn) (e : Dev) (s : State), s.dev.Issues s.mem th 4 0 i e →
    g = e.regionAt i.core region.val → g.valid = true → g.ring = false →
    (g.commit = false → g.fill ≠ g.slots → Answers (.push th region) s (fun t => s.onlyDev t
      ∧ t.dev.regionAt i.core region.val = { g with head := (g.head + 1) % 2 ^ 32 }
      ∧ t.dev.isFull i.core region.val (g.head % g.slots) = true ∧ (t.dev.thrAt i.k).pc = (i.pc + 4) % 2 ^ 64))
    ∧ (g.commit = false → g.fill = g.slots → g.tags = true → Answers (.push th region) s (fun t => s.onlyDev t
      ∧ t.dev.regn = e.regn ∧ t.dev.full = e.full ∧ (t.dev.thrAt i.k).state = .stall
      ∧ (t.dev.thrAt i.k).stall = some (.ctrl region.val true)))
    ∧ (g.commit = true ∨ g.fill = g.slots ∧ g.tags = false → Answers (.push th region) s (fun t => s.onlyDev t
      ∧ t.dev.regionAt i.core region.val = { g with status := 5 } ∧ t.dev.full = e.full))
    ∧ (g.fill ≠ 0 → Answers (.pop th region) s (fun t => s.onlyDev t
      ∧ t.dev.regionAt i.core region.val = { g with tail := (g.tail + 1) % 2 ^ 32 }
      ∧ t.dev.isFull i.core region.val (g.tail % g.slots) = false ∧ t.dev.slotCount i.core region.val (g.tail % g.slots) = 0
      ∧ (t.dev.thrAt i.k).pc = (i.pc + 4) % 2 ^ 64))
    ∧ (g.fill = 0 → g.tags = true → Answers (.pop th region) s (fun t => s.onlyDev t ∧ t.dev.regn = e.regn ∧ t.dev.full = e.full
      ∧ (t.dev.thrAt i.k).state = .stall ∧ (t.dev.thrAt i.k).stall = some (.ctrl region.val false)))
    ∧ (g.fill = 0 → g.tags = false → Answers (.pop th region) s (fun t => s.onlyDev t
      ∧ t.dev.regionAt i.core region.val = { g with status := 5 } ∧ t.dev.full = e.full)))
  ∧ (∀ (th : ThreadRef) (region : Fin 64) (g : Region) (i : Insn) (e : Dev) (s : State), s.dev.Issues s.mem th 4 0 i e →
    g = e.regionAt i.core region.val → ∀ j ∈ [Instr.push th region, .pop th region],
    (g.valid = false → Answers j s (fun t => s.onlyDev t ∧ t.dev.regionAt i.core region.val = { g with status := 5 }
      ∧ t.dev.full = e.full ∧ t.dev.slotCnt = e.slotCnt ∧ (t.dev.thrAt i.k).pc = (i.pc + 4) % 2 ^ 64))
    ∧ (g.valid = true → g.ring = true → Answers j s (fun t => s.onlyDev t ∧ t.dev.regionAt i.core region.val = { g with status := 5 }
      ∧ t.dev.full = e.full ∧ t.dev.slotCnt = e.slotCnt ∧ (t.dev.thrAt i.k).cause = 5)))
  ∧ (∀ (th : ThreadRef) (key slot : Nat) (wantFull : Bool) (g : Region) (s : State),
    (s.dev.thrAt (thrNo th)).stall = some (.tag key slot wantFull) → g = s.dev.regionAt (key / 64) (key % 64) →
    (g.valid = false ∨ g.tags = false ∨ s.dev.isFull (key / 64) (key % 64) slot = wantFull →
      Answers (.tagWake th) s (fun t => s.onlyDev t
        ∧ t.dev.thrAt (thrNo th) = { s.dev.thrAt (thrNo th) with state := .ready, stall := none }))
    ∧ (g.valid = true → g.tags = true → s.dev.isFull (key / 64) (key % 64) slot ≠ wantFull → Answers (.tagWake th) s (fun t => t = s)))
  ∧ (∀ (u : CoreRef) (v : W64) (k : Nat) (s : State), k = coreNo u.die.val u.core.val →
    (bit v.toNat 0 = true → Answers (.uninitClear u v) s (fun t => s.onlyDev t
      ∧ t.dev.coreAt k = { s.dev.coreAt k with
          uninit := if bit (s.dev.coreAt k).uninit.toNat 1 && !bit v.toNat 1 then 2 else 0 }))
    ∧ (bit v.toNat 0 = false → bit v.toNat 1 = true → bit (s.dev.coreAt k).uninit.toNat 0 = true →
      Answers (.uninitClear u v) s (fun t => s.onlyDev t
        ∧ t.dev.coreAt k = { s.dev.coreAt k with uninit := BitVec.ofNat 64 (setField (s.dev.coreAt k).uninit.toNat 1 1 0) })))
  ∧ (∀ (u : CoreRef) (region : Fin 64) (k : Nat) (g : Region) (s : State), k = coreNo u.die.val u.core.val →
    g = s.dev.regionAt k region.val →
    (g.valid = true → g.commit = true → g.ring = false → g.fill < g.slots → g.expect ≤ s.dev.slotCount k region.val (g.head % g.slots) →
      Answers (.slotFull u region) s (fun t => s.onlyDev t ∧ t.dev.regionAt k region.val = { g with head := (g.head + 1) % 2 ^ 32 }
        ∧ t.dev.isFull k region.val (g.head % g.slots) = true))
    ∧ (g.valid = false ∨ g.commit = false ∨ g.slots ≤ g.fill ∨ s.dev.slotCount k region.val (g.head % g.slots) < g.expect →
      Answers (.slotFull u region) s (fun t => t = s)))

/-- WINDOW_AMOADD, INVALIDATION, LATCH_RELEASE, SRAM_SCRUB, PATROL_SCRUB and BACKGROUND_FILL (R202, R268, R269, R274, R300, R306, R318,
R320): the window adds to an event object within its limits and returns the old value, and refuses another kind; an invalidation removes
the context's translations, a malformed one changes nothing; a release advances its Latch; a scrub counts what it corrects, and marks what
it cannot; the fill cleans a dirty unit. -/
def Obligations.SyncAndUpkeep : Prop :=
  (∀ (a : WindowAmo) (die x p : Nat) (inc : Int) (o : SyncObj) (i : Insn) (e : Dev) (s : State), s.dev.Issues s.mem a.th 4 0 i e →
    a.addr.toNat % 8 = 0 → e.pktPlace (a.addr.toNat % 2 ^ 48) = some (.window die x) → x < 0x60008000 → x % 8 = 0 →
    e.homeCheck i.c (.window die x) 8 true = none → e.physOf i.c die ((x - 0x60000000) / 8) = some p → o = e.syncAt die p →
    inc = toSigned a.value.toNat 64 →
    (o.kind = kEvent → -2147483648 ≤ inc → inc ≤ 2147483647 → inc ≠ 0 → 0 ≤ (o.value : Int) + inc →
      (o.value : Int) + inc ≤ (o.limit : Int) → Answers (.windowAmoadd a) s (fun t => s.onlyDev t
        ∧ ((t.dev.syncAt die p).value : Int) = (o.value : Int) + inc
        ∧ (t.dev.thrAt i.k).x = setX (e.thrAt i.k).x a.rd.val o.value ∧ (t.dev.thrAt i.k).pc = (i.pc + 4) % 2 ^ 64))
    ∧ (o.kind ≠ kEvent → Answers (.windowAmoadd a) s (fun t => s.onlyDev t ∧ (t.dev.syncAt die p).value = o.value
        ∧ (t.dev.thrAt i.k).cause = 8)))
  ∧ (∀ (c : CtxId) (v : W64) (s : State), (s.dev.ctxAt c).state ≠ .free → (s.dev.ctxAt c).state ≠ .killing →
    (field v.toNat 0 2 = 1 → field v.toNat 2 10 = 0 → field v.toNat 48 16 = 0 → Answers (.invalidation c v) s (fun t =>
      t = s.withDev (s.dev.withOwn { s.dev.own with tlb := s.dev.own.tlb.filter (fun y => y.1 ≠ c) })))
    ∧ (field v.toNat 0 2 = 0 → field v.toNat 2 10 = 0 → field v.toNat 48 16 = 0 → Answers (.invalidation c v) s (fun t =>
      t = s.withDev (s.dev.withOwn { s.dev.own with tlb := s.dev.own.tlb.filter (fun y => !(y.1 = c &&
        field v.toNat 12 36 * 4096 / pageBytes y.2.2.1 * pageBytes y.2.2.1 = y.2.1)) })))
    ∧ (1 < field v.toNat 0 2 ∨ field v.toNat 2 10 ≠ 0 ∨ field v.toNat 48 16 ≠ 0 → Answers (.invalidation c v) s (fun t => t = s)))
  ∧ (∀ (die : DieId) (latch : Fin 8) (p : Nat) (o : SyncObj) (s : State), p < 65536 → s.dev.syncAt die.val p = o →
    (s.dev.latchObjs latch.val).filter (fun y => y.1 / 65536 = die.val && y.2.release) = [(syncKey die.val p, o)] →
    o.participants ≠ 0 → s.dev.admitted (aonGroup die.val) = true →
    Answers (.latchRelease die latch) s (fun t => s.onlyDev t ∧ (t.dev.syncAt die.val p).value = o.value + 1
      ∧ (t.dev.syncAt die.val p).arrived = 0 ∧ (t.dev.syncAt die.val p).drive = false ∧ (t.dev.syncAt die.val p).release = false))
  ∧ (∀ (line u : Nat) (s : State), sramUnit (64 * line) = some u →
    Answers (.sramScrub line .clean) s (fun t => t = s)
    ∧ Answers (.sramScrub line .corrected) s (fun t => t = s.withDev (s.dev.count PRG_SRAM_ECC.CORRECTED (u / 0x1000)))
    ∧ Answers (.sramScrub line .uncorrectable) s (fun t => t.mem = s.mem.apply [.mark line] ∧ t.fuse = s.fuse ∧ t.pending = s.pending
      ∧ t.dev.get PRG_SRAM_ECC.UE (u / 0x1000) = 1 ∧ t.dev.get PRG_SRAM_ECC.LAST_UNIT (u / 0x1000) = u
      ∧ t.dev.get PRG_SRAM_ECC.UNCORRECTED (u / 0x1000) = satAdd (s.dev.get PRG_SRAM_ECC.UNCORRECTED (u / 0x1000)) 1 0xFFFF))
  ∧ (∀ (line u n : Nat) (s : State), unitOf (64 * line) = some u → u < shmUnit0 → n = unitGroup u / 47 →
    Answers (.patrolScrub line .clean) s (fun t => t = s)
    ∧ Answers (.patrolScrub line .corrected) s (fun t =>
      t = s.withDev (s.dev.count (if u < capUnit0 then MEM_ECC.HBM_CORR else MEM_ECC.CAP_CORR) n))
    ∧ Answers (.patrolScrub line .uncorrectable) s (fun t => t.mem = s.mem.apply [.mark line] ∧ t.fuse = s.fuse ∧ t.pending = s.pending
      ∧ t.dev.get MEM_ECC.UE n = 1 ∧ t.dev.get MEM_ECC.LAST_UNIT n = domUnit (unitGroup u)
      ∧ t.dev.get MEM_ECC.LAST_CLASS n = s.dev.lineClass u))
  ∧ (∀ (unit : Nat) (s : State),
    (unit < shmUnit0 → s.dev.own.ownerOf unit = .freeDirty → s.dev.admitted (unitGroup unit) = true →
      Answers (.backgroundFill unit) s (fun t => t.fuse = s.fuse ∧ t.pending = s.pending
        ∧ t.mem = s.mem.apply [.clear (unitAddr unit) (unitBytes unit)]
        ∧ t.dev = s.dev.withOwn (s.dev.own.setOwner unit .freeClean) ∧ t.dev.own.ownerOf unit = .freeClean))
    ∧ (s.dev.own.ownerOf unit ≠ .freeDirty → Answers (.backgroundFill unit) s (fun t => t = s)))

/-- PRG_SRAM_ECC_CLR, STR_ERR_CLR, STR_BRAM_CLR, SYN_STAT_CLR, MEM_ECC_CLR, LNK_QUAD_CLR, LNK_ERR_CLR, RTE_ERR_CLR, RTE_REL_CLR,
RTE_PVIOL_CLR, BRY_LS_STAT_CLR, BRY_OVR_CNT_CLR, ETH_RX_ERR_CLR, ETH_RX_DROP_CLR, ETH_TX_ERR_CLR, ETH_PAUSE_CLR and MMC_CFG_REJ_CLR: each
zeroes the counters of its register that its rule names, and changes nothing else. -/
def Obligations.CounterClears : Prop :=
  ∀ (die : DieId) (quad : QuadId) (k : Fin 13) (c : Fin 9) (port : Fin 2) (s : State),
  (∀ p ∈ ([(.prgSramEccClr die, .PRG_SRAM_ECC), (.strErrClr die, .STR_ERR), (.strBramClr die, .STR_BRAM), (.synStatClr die, .SYN_STAT),
      (.memEccClr die, .MEM_ECC)] : List (Instr × RegName)), s.dev.Manages p.2 →
    (s.dev.domOn (aonGroup die.val) = true → Answers p.1 s (fun t => t = s.withDev (s.dev.zero (clrFields p.2) die.val)
      ∧ ∀ f ∈ clrFields p.2, t.dev.get f die.val = 0))
    ∧ (s.dev.domOn (aonGroup die.val) = false → Answers p.1 s (fun t => t = s.withDev (s.dev.rejectAt p.2 die.val))))
  ∧ (∀ p ∈ ([(.lnkQuadClr quad, .LNK_QUAD, quad.val), (.lnkErrClr, .LNK_ERR, 0), (.rteErrClr, .RTE_ERR, 0), (.rteRelClr, .RTE_REL, 0),
      (.rtePviolClr k, .RTE_PVIOL, k.val), (.bryLsStatClr, .BRY_LS_STAT, 0), (.bryOvrCntClr c, .BRY_OVR_CNT, c.val),
      (.ethRxErrClr port, .ETH_RX_ERR, port.val), (.ethRxDropClr port, .ETH_RX_DROP, port.val), (.ethTxErrClr port, .ETH_TX_ERR, port.val),
      (.ethPauseClr port, .ETH_PAUSE, port.val), (.mmcCfgRejClr, .MMC_CFG_REJ, 0)] : List (Instr × RegName × Nat)), s.dev.Manages p.2.1 →
    Answers p.1 s (fun t => t = s.withDev (s.dev.zero (clrFields p.2.1) p.2.2) ∧ ∀ f ∈ clrFields p.2.1, t.dev.get f p.2.2 = 0))

/-! ### The machine as a whole -/

/-- A step takes the command at the front of the queue and performs it on the state with the queue's rest. -/
def Obligations.StepRunsTheFront : Prop :=
  (∀ (i : Instr) (s : State), step { s with pending := i :: s.pending } = exec i s)
  ∧ (∀ (i : Instr) (rest : List Instr) (s : State), s.pending = i :: rest → step s = exec i { s with pending := rest })

/-- On an empty queue one cycle of CCLK passes and nothing else happens (the model's choice, log 1). -/
def Obligations.EmptyQueueIdles : Prop :=
  ∀ s : State, s.pending = [] → ∃ t, step s = .next t ∧ t = s.withDev { s.dev with cclk := s.dev.cclk + 1 }

/-- Every command answers a next state on every state, and leaves the queue of waiting commands as it is: none faults, none is
refused. -/
def Obligations.EveryCommandAnswers : Prop := ∀ (i : Instr) (s : State), Answers i s (fun t => t.pending = s.pending)

/-- Every step keeps memory in its canonical form. -/
def Obligations.StepsKeepMemoryForm : Prop := ∀ s t : State, s.memWf → step s = .next t → t.memWf

/-- A fuse is never blown back (R488, R500): every step leaves each fused minimum SVN and the fused ERASE count at least as high, and
keeps the count within its 31. -/
def Obligations.FusesOnlyRise : Prop :=
  ∀ s t : State, step s = .next t → s.fuse.le t.fuse ∧ (s.fuse.inRange → t.fuse.inRange)

/-- Only SVN_COMMIT, ALARM_TRIP and the writes of registers by the host or the management plane change a fuse: every other command leaves
all of them as they are (R488, R500). -/
def Obligations.FusesChangeByFew : Prop :=
  ∀ (i : Instr) (s t : State), exec i s = .next t → (∀ w, i ≠ .svnCommit w) → (∀ sensor now, i ≠ .alarmTrip sensor now) →
    (∀ a, i ≠ .registerWrite a) → (∀ r, i ≠ .mgmtWrite r) → t.fuse = s.fuse

/-- The machine after reset: memory in its canonical form with nothing in it, fuses in range, no command waiting, the module OFF (R507),
every context FREE (R440), the beat counter at 0 (R404). -/
def Obligations.ResetState : Prop :=
  State.reset.memWf ∧ State.reset.fuse.inRange ∧ State.reset.pending = [] ∧ (∀ a n, State.reset.mem.read a n = List.replicate n 0)
  ∧ State.reset.dev.mmc.state = .off ∧ (∀ c, (State.reset.dev.ctxAt c).state = .free) ∧ State.reset.dev.time.beat = 0

/-- The written bits of memory (R198): a write of any size sets the bit of every line that it touches and puts its bytes in place; a partial
write to a line whose bit is clear stores zero in the line's other bytes; every other byte and bit stays; a read of a line whose bit is clear
returns zero and does not set the bit. -/
def Obligations.WrittenBits : Prop :=
  (∀ (m : Mem) (a : Nat) (bs : Bytes) (p : Bool), m.wf = true → bs ≠ [] →
    (∀ l, lineOf a ≤ l → l ≤ lineOf (a + bs.length - 1) → (m.write a bs p).isWritten l = true)
    ∧ (∀ l, l < lineOf a ∨ lineOf (a + bs.length - 1) < l → (m.write a bs p).isWritten l = m.isWritten l)
    ∧ (m.write a bs p).read a bs.length = bs
    ∧ (∀ x, x < a ∨ a + bs.length ≤ x → (m.write a bs p).byte x = m.byte x)
    ∧ (∀ x, lineOf a ≤ lineOf x → lineOf x ≤ lineOf (a + bs.length - 1) → m.isWritten (lineOf x) = false →
      x < a ∨ a + bs.length ≤ x → (m.write a bs p).byte x = 0))
  ∧ (∀ (m : Mem) (a n : Nat), (∀ i < n, m.isWritten (lineOf (a + i)) = false) → m.read a n = List.replicate n 0)
end

