-- ==== Sys2Proof/Laws/Table.lean ====
section
/-! SUPPORT. The sparse tables: reading after writing, and the canonical form that every operation keeps. -/

namespace Sys2Proof.Laws

open Sys2Proof.Machine

variable {V : Type}

theorem tblRising_weaken {lo lo' : Nat} {t : Tbl V} (h : tblRising lo' t = true) (hl : lo ≤ lo') : tblRising lo t = true := by
  cases t with
  | nil => rfl
  | cons e t => simp only [tblRising, Bool.and_eq_true, decide_eq_true_eq] at h ⊢; exact ⟨by omega, h.2⟩

theorem tblRising_ins {k : Nat} {v : V} :
    ∀ {lo : Nat} {t : Tbl V}, tblRising lo t = true → lo ≤ k → tblRising lo (tblIns v t k) = true
  | _, [], _, hk => by simp [tblIns, tblRising, hk]
  | lo, (j, w) :: t, h, hk => by
    simp only [tblRising, Bool.and_eq_true, decide_eq_true_eq] at h
    simp only [tblIns]
    split
    · simp only [tblRising, Bool.and_eq_true, decide_eq_true_eq]; exact ⟨hk, by omega, h.2⟩
    · split
      · subst_vars; simpa [tblRising] using ⟨hk, h.2⟩
      · simpa [tblRising] using ⟨h.1, tblRising_ins h.2 (by omega)⟩

theorem tblRising_filter {p : Nat × V → Bool} : ∀ {lo : Nat} {t : Tbl V}, tblRising lo t = true → tblRising lo (t.filter p) = true
  | _, [], _ => rfl
  | lo, (j, v) :: t, h => by
    simp only [tblRising, Bool.and_eq_true, decide_eq_true_eq] at h
    by_cases hp : p (j, v) = true
    · simpa [hp, tblRising] using ⟨h.1, tblRising_filter h.2⟩
    · simpa [hp] using tblRising_weaken (tblRising_filter h.2) (by omega)

theorem mem_tblIns {k : Nat} {v : V} {e : Nat × V} : ∀ {t : Tbl V}, e ∈ tblIns v t k → e = (k, v) ∨ e ∈ t
  | [], h => by simpa [tblIns] using h
  | (j, w) :: t, h => by
    simp only [tblIns] at h
    split at h
    · simpa using h
    · split at h
      · rcases List.mem_cons.mp h with rfl | h
        · exact .inl rfl
        · exact .inr (List.mem_cons_of_mem _ h)
      · rcases List.mem_cons.mp h with rfl | h
        · simp
        · rcases mem_tblIns h with h | h
          · exact .inl h
          · exact .inr (List.mem_cons_of_mem _ h)

variable {d : V}

/-- Entries with other keys do not matter to a read. -/
theorem tblGet_filter {p : Nat × V → Bool} {k : Nat} (hp : ∀ v, p (k, v) = true) : ∀ {t : Tbl V}, tblGet d (t.filter p) k = tblGet d t k
  | [] => rfl
  | (i, v) :: t => by
    by_cases hi : i = k
    · subst hi; simp [hp, tblGet]
    · by_cases hq : p (i, v) = true
      · simp [hq, tblGet, hi, tblGet_filter hp]
      · simp [hq, tblGet, hi, tblGet_filter hp]

/-- A key whose entries are all gone reads as the default. -/
theorem tblGet_filter_gone {p : Nat × V → Bool} {k : Nat} (hp : ∀ v, p (k, v) = false) : ∀ {t : Tbl V}, tblGet d (t.filter p) k = d
  | [] => rfl
  | (i, v) :: t => by
    by_cases hi : i = k
    · subst hi; simp [hp, tblGet_filter_gone hp]
    · by_cases hq : p (i, v) = true
      · simp [hq, tblGet, hi, tblGet_filter_gone hp]
      · simp [hq, tblGet_filter_gone hp]

theorem tblGet_del_ne {k j : Nat} (hk : j ≠ k) {t : Tbl V} : tblGet d (tblDel t k) j = tblGet d t j :=
  tblGet_filter (fun _ => by simpa using hk)

theorem tblGet_del_self {k : Nat} {t : Tbl V} : tblGet d (tblDel t k) k = d :=
  tblGet_filter_gone (fun _ => by simp)

/-- Dropping keys leaves every other key alone. -/
theorem tblGet_drop_of_not {p : Nat → Bool} {k : Nat} {t : Tbl V} (h : p k = false) : tblGet d (tblDrop p t) k = tblGet d t k :=
  tblGet_filter (fun _ => by simp [h])

/-- A dropped key reads as the default. -/
theorem tblGet_drop_of {p : Nat → Bool} {k : Nat} {t : Tbl V} (h : p k = true) : tblGet d (tblDrop p t) k = d :=
  tblGet_filter_gone (fun _ => by simp [h])

theorem tblGet_ins_ne {k j : Nat} {v : V} (hk : j ≠ k) : ∀ {t : Tbl V}, tblGet d (tblIns v t k) j = tblGet d t j
  | [] => by simp [tblIns, tblGet, Ne.symm hk]
  | (i, w) :: t => by
    simp only [tblIns]
    split
    · simp [tblGet, Ne.symm hk]
    · split
      · subst_vars; simp [tblGet, Ne.symm hk]
      · simp only [tblGet]; split
        · rfl
        · exact tblGet_ins_ne hk

theorem tblGet_ins_self {k : Nat} {v : V} : ∀ {t : Tbl V}, tblGet d (tblIns v t k) k = v
  | [] => by simp [tblIns, tblGet]
  | (i, w) :: t => by
    simp only [tblIns]
    split
    · simp [tblGet]
    · split
      · simp [tblGet]
      · simp only [tblGet]; split
        · contradiction
        · exact tblGet_ins_self

variable [DecidableEq V]

/-- A write keeps the canonical form. -/
theorem tblSet_wf {t : Tbl V} {k : Nat} {v : V} (h : tblWf d t = true) : tblWf d (tblSet d t k v) = true := by
  simp only [tblWf, Bool.and_eq_true, List.all_eq_true, decide_eq_true_eq, ne_eq] at h ⊢
  unfold tblSet
  split
  · exact ⟨tblRising_filter h.1, fun e he => h.2 e (List.mem_filter.mp he).1⟩
  · refine ⟨tblRising_ins h.1 (by omega), fun e he => ?_⟩
    rcases mem_tblIns he with rfl | he
    · assumption
    · exact h.2 e he

/-- Dropping entries keeps the canonical form. -/
theorem tblDrop_wf {t : Tbl V} {p : Nat → Bool} (h : tblWf d t = true) : tblWf d (tblDrop p t) = true := by
  simp only [tblWf, Bool.and_eq_true, List.all_eq_true, decide_eq_true_eq, ne_eq] at h ⊢
  exact ⟨tblRising_filter h.1, fun e he => h.2 e ((List.mem_filter.mp he).1)⟩

/-- Writing a run of keys keeps the canonical form. -/
theorem tblSetList_wf : ∀ {vs : List V} {t : Tbl V} {k : Nat}, tblWf d t = true → tblWf d (tblSetList d t k vs) = true
  | [], _, _, h => h
  | _ :: vs, _, _, h => tblSetList_wf (vs := vs) (tblSet_wf h)

/-- A write leaves every other key alone. -/
theorem tblGet_set_ne {e : V} {t : Tbl V} {k j : Nat} {v : V} (hk : j ≠ k) : tblGet e (tblSet d t k v) j = tblGet e t j := by
  unfold tblSet; split
  · exact tblGet_del_ne hk
  · exact tblGet_ins_ne hk

/-- A read after a write gives what was written. -/
@[simp] theorem tblGet_set_self {t : Tbl V} {k : Nat} {v : V} : tblGet d (tblSet d t k v) k = v := by
  unfold tblSet; split
  · subst_vars; exact tblGet_del_self
  · exact tblGet_ins_self

/-- A change of an entry. -/
@[simp] theorem tblGet_mod_self {t : Tbl V} {k : Nat} {f : V → V} : tblGet d (tblMod d t k f) k = f (tblGet d t k) :=
  tblGet_set_self

/-- A change of another entry. -/
theorem tblGet_mod_ne {e : V} {t : Tbl V} {k j : Nat} {f : V → V} (hk : j ≠ k) : tblGet e (tblMod d t k f) j = tblGet e t j :=
  tblGet_set_ne hk

end Sys2Proof.Laws
end

