-- ==== Sys2Proof/Laws/Fields.lean ====
section
/-! SUPPORT. Bit fields and set-up registers: what a field reads as after a field is set. -/

namespace Sys2Proof.Laws

open Sys2Proof.Machine

theorem setField_eq (n lo w v : Nat) :
    setField n lo w v = 2 ^ (lo + w) * (n / 2 ^ (lo + w)) + (2 ^ lo * (v % 2 ^ w) + n % 2 ^ lo) := by
  have h1 : n = 2 ^ lo * (n / 2 ^ lo) + n % 2 ^ lo := (Nat.div_add_mod n _).symm
  have h2 : n / 2 ^ lo = 2 ^ w * (n / 2 ^ lo / 2 ^ w) + n / 2 ^ lo % 2 ^ w := (Nat.div_add_mod _ _).symm
  have h3 : n / 2 ^ lo / 2 ^ w = n / 2 ^ (lo + w) := by rw [Nat.div_div_eq_div_mul, ← pow_add]
  unfold setField field
  rw [Nat.shiftRight_eq_div_pow, Nat.shiftLeft_eq, Nat.shiftLeft_eq]
  rw [h3] at h2
  have h4 : 2 ^ lo * (n / 2 ^ lo) = 2 ^ (lo + w) * (n / 2 ^ (lo + w)) + n / 2 ^ lo % 2 ^ w * 2 ^ lo := by
    conv_lhs => rw [h2]
    rw [pow_add]; ring
  rw [Nat.mul_comm (v % 2 ^ w)]
  omega

theorem testBit_setField (n lo w v i : Nat) :
    (setField n lo w v).testBit i = if i < lo then n.testBit i else if i < lo + w then v.testBit (i - lo) else n.testBit i := by
  have hm : n % 2 ^ lo < 2 ^ lo := Nat.mod_lt _ (Nat.two_pow_pos _)
  have hv : v % 2 ^ w < 2 ^ w := Nat.mod_lt _ (Nat.two_pow_pos _)
  have hb : 2 ^ lo * (v % 2 ^ w) + n % 2 ^ lo < 2 ^ (lo + w) := by
    rw [pow_add]
    calc 2 ^ lo * (v % 2 ^ w) + n % 2 ^ lo < 2 ^ lo * (v % 2 ^ w) + 2 ^ lo := by omega
      _ = 2 ^ lo * (v % 2 ^ w + 1) := by ring
      _ ≤ 2 ^ lo * 2 ^ w := Nat.mul_le_mul_left _ hv
  rw [setField_eq, Nat.testBit_two_pow_mul_add _ hb, Nat.testBit_two_pow_mul_add _ hm]
  by_cases h1 : i < lo
  · simp [h1, show i < lo + w by omega, Nat.testBit_mod_two_pow]
  · by_cases h2 : i < lo + w
    · simp [h1, h2, Nat.testBit_mod_two_pow, show i - lo < w by omega]
    · simp [h1, h2, Nat.testBit_div_two_pow, show i - (lo + w) + (lo + w) = i by omega]

theorem testBit_field (n lo w i : Nat) : (field n lo w).testBit i = (decide (i < w) && n.testBit (lo + i)) := by
  simp [field, Nat.testBit_mod_two_pow, Nat.testBit_shiftRight]

/-- A field reads as what was put into it. -/
theorem field_setField_self (n lo w v : Nat) : field (setField n lo w v) lo w = v % 2 ^ w := by
  apply Nat.eq_of_testBit_eq; intro i
  rw [testBit_field, testBit_setField, Nat.testBit_mod_two_pow]
  by_cases h : i < w <;> simp [h]

/-- A field that does not overlap another is not changed with it. -/
theorem field_setField_ne {n lo w v lo' w' : Nat} (h : lo' + w' ≤ lo ∨ lo + w ≤ lo') :
    field (setField n lo w v) lo' w' = field n lo' w' := by
  apply Nat.eq_of_testBit_eq; intro i
  rw [testBit_field, testBit_field, testBit_setField]
  by_cases hi : i < w'
  · simp only [hi, decide_true, Bool.true_and]
    split
    · rfl
    · split
      · omega
      · rfl
  · simp [hi]

theorem setField_lt {n lo w v : Nat} (hn : n < 2 ^ 64) (hw : lo + w ≤ 64) : setField n lo w v < 2 ^ 64 := by
  apply Nat.lt_pow_two_of_testBit; intro i hi
  rw [testBit_setField]
  simp [show ¬ i < lo by omega, show ¬ i < lo + w by omega, Nat.testBit_lt_two_pow (Nat.lt_of_lt_of_le hn (Nat.pow_le_pow_right (by decide) hi))]

theorem reg_lt (d : Dev) (r : RegName) (i : Nat) : d.reg r i < 2 ^ 64 := BitVec.isLt _

theorem reg_setReg_self (d : Dev) (r : RegName) (i v : Nat) (hv : v < 2 ^ 64) : (d.setReg r i v).reg r i = v := by
  show (tblGet _ (tblSet _ d.regs _ _) _).toNat = v
  rw [tblGet_set_self, BitVec.toNat_ofNat, Nat.mod_eq_of_lt hv]

theorem reg_setReg_ne (d : Dev) (r r' : RegName) (i i' v : Nat) (h : regKey r' i' ≠ regKey r i) :
    (d.setReg r i v).reg r' i' = d.reg r' i' := by
  show (tblGet _ (tblSet _ d.regs _ _) _).toNat = _
  rw [tblGet_set_ne h]; rfl

/-- A field reads as what was put into it. -/
theorem get_put_self (d : Dev) (f : Fld) (v i : Nat) (hw : f.lo + f.width ≤ 64) : (d.put f v i).get f i = v % 2 ^ f.width := by
  unfold Dev.put Dev.get
  rw [reg_setReg_self _ _ _ _ (setField_lt (reg_lt _ _ _) hw), field_setField_self]

/-- Another field of the register keeps its value. -/
theorem get_put_field (d : Dev) (f g : Fld) (v i : Nat) (hr : g.reg = f.reg) (hw : f.lo + f.width ≤ 64)
    (hd : g.lo + g.width ≤ f.lo ∨ f.lo + f.width ≤ g.lo) : (d.put f v i).get g i = d.get g i := by
  unfold Dev.put Dev.get
  rw [hr, reg_setReg_self _ _ _ _ (setField_lt (reg_lt _ _ _) hw), field_setField_ne hd]

/-- Another register keeps its value. -/
theorem get_put_ne (d : Dev) (f g : Fld) (v i j : Nat) (h : regKey g.reg j ≠ regKey f.reg i) : (d.put f v i).get g j = d.get g j := by
  unfold Dev.put Dev.get
  rw [reg_setReg_ne _ _ _ _ _ _ h]

end Sys2Proof.Laws
end

