-- ==== Sys2Proof/Laws/State.lean ====
section
/-! SUPPORT. One lemma per field per update: an update of one part of the device leaves every other part.  All are true by
definition. -/

namespace Sys2Proof.Machine

variable (d : Dev)

@[simp] theorem Dev.setReg_pwr (r : RegName) (i v : Nat) : (d.setReg r i v).pwr = d.pwr := rfl
@[simp] theorem Dev.setReg_mmc (r : RegName) (i v : Nat) : (d.setReg r i v).mmc = d.mmc := rfl
@[simp] theorem Dev.setReg_keep (r : RegName) (i v : Nat) : (d.setReg r i v).keep = d.keep := rfl
@[simp] theorem Dev.setReg_own (r : RegName) (i v : Nat) : (d.setReg r i v).own = d.own := rfl
@[simp] theorem Dev.setReg_host (r : RegName) (i v : Nat) : (d.setReg r i v).host = d.host := rfl
@[simp] theorem Dev.setReg_ctx (r : RegName) (i v : Nat) : (d.setReg r i v).ctx = d.ctx := rfl
@[simp] theorem Dev.setReg_thr (r : RegName) (i v : Nat) : (d.setReg r i v).thr = d.thr := rfl
@[simp] theorem Dev.setReg_que (r : RegName) (i v : Nat) : (d.setReg r i v).que = d.que := rfl
@[simp] theorem Dev.setReg_past (r : RegName) (i v : Nat) : (d.setReg r i v).past = d.past := rfl
@[simp] theorem Dev.setReg_core (r : RegName) (i v : Nat) : (d.setReg r i v).core = d.core := rfl
@[simp] theorem Dev.setReg_regn (r : RegName) (i v : Nat) : (d.setReg r i v).regn = d.regn := rfl
@[simp] theorem Dev.setReg_slotCnt (r : RegName) (i v : Nat) : (d.setReg r i v).slotCnt = d.slotCnt := rfl
@[simp] theorem Dev.setReg_full (r : RegName) (i v : Nat) : (d.setReg r i v).full = d.full := rfl
@[simp] theorem Dev.setReg_flight (r : RegName) (i v : Nat) : (d.setReg r i v).flight = d.flight := rfl
@[simp] theorem Dev.setReg_nextFlight (r : RegName) (i v : Nat) : (d.setReg r i v).nextFlight = d.nextFlight := rfl
@[simp] theorem Dev.setReg_sync (r : RegName) (i v : Nat) : (d.setReg r i v).sync = d.sync := rfl
@[simp] theorem Dev.setReg_eng (r : RegName) (i v : Nat) : (d.setReg r i v).eng = d.eng := rfl
@[simp] theorem Dev.setReg_gens (r : RegName) (i v : Nat) : (d.setReg r i v).gens = d.gens := rfl
@[simp] theorem Dev.setReg_str (r : RegName) (i v : Nat) : (d.setReg r i v).str = d.str := rfl
@[simp] theorem Dev.setReg_time (r : RegName) (i v : Nat) : (d.setReg r i v).time = d.time := rfl
@[simp] theorem Dev.setReg_outq (r : RegName) (i v : Nat) : (d.setReg r i v).outq = d.outq := rfl
@[simp] theorem Dev.setReg_lnk (r : RegName) (i v : Nat) : (d.setReg r i v).lnk = d.lnk := rfl
@[simp] theorem Dev.setReg_rte (r : RegName) (i v : Nat) : (d.setReg r i v).rte = d.rte := rfl
@[simp] theorem Dev.setReg_eth (r : RegName) (i v : Nat) : (d.setReg r i v).eth = d.eth := rfl
@[simp] theorem Dev.setReg_hostMem (r : RegName) (i v : Nat) : (d.setReg r i v).hostMem = d.hostMem := rfl
@[simp] theorem Dev.setReg_out (r : RegName) (i v : Nat) : (d.setReg r i v).out = d.out := rfl
@[simp] theorem Dev.setReg_cclk (r : RegName) (i v : Nat) : (d.setReg r i v).cclk = d.cclk := rfl
@[simp] theorem Dev.setReg_free (r : RegName) (i v : Nat) : (d.setReg r i v).free = d.free := rfl

@[simp] theorem Dev.put_pwr (f : Fld) (v i : Nat) : (d.put f v i).pwr = d.pwr := d.setReg_pwr _ _ _
@[simp] theorem Dev.put_mmc (f : Fld) (v i : Nat) : (d.put f v i).mmc = d.mmc := d.setReg_mmc _ _ _
@[simp] theorem Dev.put_keep (f : Fld) (v i : Nat) : (d.put f v i).keep = d.keep := d.setReg_keep _ _ _
@[simp] theorem Dev.put_own (f : Fld) (v i : Nat) : (d.put f v i).own = d.own := d.setReg_own _ _ _
@[simp] theorem Dev.put_host (f : Fld) (v i : Nat) : (d.put f v i).host = d.host := d.setReg_host _ _ _
@[simp] theorem Dev.put_ctx (f : Fld) (v i : Nat) : (d.put f v i).ctx = d.ctx := d.setReg_ctx _ _ _
@[simp] theorem Dev.put_thr (f : Fld) (v i : Nat) : (d.put f v i).thr = d.thr := d.setReg_thr _ _ _
@[simp] theorem Dev.put_que (f : Fld) (v i : Nat) : (d.put f v i).que = d.que := d.setReg_que _ _ _
@[simp] theorem Dev.put_past (f : Fld) (v i : Nat) : (d.put f v i).past = d.past := d.setReg_past _ _ _
@[simp] theorem Dev.put_core (f : Fld) (v i : Nat) : (d.put f v i).core = d.core := d.setReg_core _ _ _
@[simp] theorem Dev.put_regn (f : Fld) (v i : Nat) : (d.put f v i).regn = d.regn := d.setReg_regn _ _ _
@[simp] theorem Dev.put_slotCnt (f : Fld) (v i : Nat) : (d.put f v i).slotCnt = d.slotCnt := d.setReg_slotCnt _ _ _
@[simp] theorem Dev.put_full (f : Fld) (v i : Nat) : (d.put f v i).full = d.full := d.setReg_full _ _ _
@[simp] theorem Dev.put_flight (f : Fld) (v i : Nat) : (d.put f v i).flight = d.flight := d.setReg_flight _ _ _
@[simp] theorem Dev.put_nextFlight (f : Fld) (v i : Nat) : (d.put f v i).nextFlight = d.nextFlight := d.setReg_nextFlight _ _ _
@[simp] theorem Dev.put_sync (f : Fld) (v i : Nat) : (d.put f v i).sync = d.sync := d.setReg_sync _ _ _
@[simp] theorem Dev.put_eng (f : Fld) (v i : Nat) : (d.put f v i).eng = d.eng := d.setReg_eng _ _ _
@[simp] theorem Dev.put_gens (f : Fld) (v i : Nat) : (d.put f v i).gens = d.gens := d.setReg_gens _ _ _
@[simp] theorem Dev.put_str (f : Fld) (v i : Nat) : (d.put f v i).str = d.str := d.setReg_str _ _ _
@[simp] theorem Dev.put_time (f : Fld) (v i : Nat) : (d.put f v i).time = d.time := d.setReg_time _ _ _
@[simp] theorem Dev.put_outq (f : Fld) (v i : Nat) : (d.put f v i).outq = d.outq := d.setReg_outq _ _ _
@[simp] theorem Dev.put_lnk (f : Fld) (v i : Nat) : (d.put f v i).lnk = d.lnk := d.setReg_lnk _ _ _
@[simp] theorem Dev.put_rte (f : Fld) (v i : Nat) : (d.put f v i).rte = d.rte := d.setReg_rte _ _ _
@[simp] theorem Dev.put_eth (f : Fld) (v i : Nat) : (d.put f v i).eth = d.eth := d.setReg_eth _ _ _
@[simp] theorem Dev.put_hostMem (f : Fld) (v i : Nat) : (d.put f v i).hostMem = d.hostMem := d.setReg_hostMem _ _ _
@[simp] theorem Dev.put_out (f : Fld) (v i : Nat) : (d.put f v i).out = d.out := d.setReg_out _ _ _
@[simp] theorem Dev.put_cclk (f : Fld) (v i : Nat) : (d.put f v i).cclk = d.cclk := d.setReg_cclk _ _ _
@[simp] theorem Dev.put_free (f : Fld) (v i : Nat) : (d.put f v i).free = d.free := d.setReg_free _ _ _

@[simp] theorem Dev.count_pwr (f : Fld) (i n : Nat) : (d.count f i n).pwr = d.pwr := d.put_pwr _ _ _
@[simp] theorem Dev.count_mmc (f : Fld) (i n : Nat) : (d.count f i n).mmc = d.mmc := d.put_mmc _ _ _
@[simp] theorem Dev.count_keep (f : Fld) (i n : Nat) : (d.count f i n).keep = d.keep := d.put_keep _ _ _
@[simp] theorem Dev.count_own (f : Fld) (i n : Nat) : (d.count f i n).own = d.own := d.put_own _ _ _
@[simp] theorem Dev.count_host (f : Fld) (i n : Nat) : (d.count f i n).host = d.host := d.put_host _ _ _
@[simp] theorem Dev.count_ctx (f : Fld) (i n : Nat) : (d.count f i n).ctx = d.ctx := d.put_ctx _ _ _
@[simp] theorem Dev.count_thr (f : Fld) (i n : Nat) : (d.count f i n).thr = d.thr := d.put_thr _ _ _
@[simp] theorem Dev.count_que (f : Fld) (i n : Nat) : (d.count f i n).que = d.que := d.put_que _ _ _
@[simp] theorem Dev.count_past (f : Fld) (i n : Nat) : (d.count f i n).past = d.past := d.put_past _ _ _
@[simp] theorem Dev.count_core (f : Fld) (i n : Nat) : (d.count f i n).core = d.core := d.put_core _ _ _
@[simp] theorem Dev.count_regn (f : Fld) (i n : Nat) : (d.count f i n).regn = d.regn := d.put_regn _ _ _
@[simp] theorem Dev.count_slotCnt (f : Fld) (i n : Nat) : (d.count f i n).slotCnt = d.slotCnt := d.put_slotCnt _ _ _
@[simp] theorem Dev.count_full (f : Fld) (i n : Nat) : (d.count f i n).full = d.full := d.put_full _ _ _
@[simp] theorem Dev.count_flight (f : Fld) (i n : Nat) : (d.count f i n).flight = d.flight := d.put_flight _ _ _
@[simp] theorem Dev.count_nextFlight (f : Fld) (i n : Nat) : (d.count f i n).nextFlight = d.nextFlight := d.put_nextFlight _ _ _
@[simp] theorem Dev.count_sync (f : Fld) (i n : Nat) : (d.count f i n).sync = d.sync := d.put_sync _ _ _
@[simp] theorem Dev.count_eng (f : Fld) (i n : Nat) : (d.count f i n).eng = d.eng := d.put_eng _ _ _
@[simp] theorem Dev.count_gens (f : Fld) (i n : Nat) : (d.count f i n).gens = d.gens := d.put_gens _ _ _
@[simp] theorem Dev.count_str (f : Fld) (i n : Nat) : (d.count f i n).str = d.str := d.put_str _ _ _
@[simp] theorem Dev.count_time (f : Fld) (i n : Nat) : (d.count f i n).time = d.time := d.put_time _ _ _
@[simp] theorem Dev.count_outq (f : Fld) (i n : Nat) : (d.count f i n).outq = d.outq := d.put_outq _ _ _
@[simp] theorem Dev.count_lnk (f : Fld) (i n : Nat) : (d.count f i n).lnk = d.lnk := d.put_lnk _ _ _
@[simp] theorem Dev.count_rte (f : Fld) (i n : Nat) : (d.count f i n).rte = d.rte := d.put_rte _ _ _
@[simp] theorem Dev.count_eth (f : Fld) (i n : Nat) : (d.count f i n).eth = d.eth := d.put_eth _ _ _
@[simp] theorem Dev.count_hostMem (f : Fld) (i n : Nat) : (d.count f i n).hostMem = d.hostMem := d.put_hostMem _ _ _
@[simp] theorem Dev.count_out (f : Fld) (i n : Nat) : (d.count f i n).out = d.out := d.put_out _ _ _
@[simp] theorem Dev.count_cclk (f : Fld) (i n : Nat) : (d.count f i n).cclk = d.cclk := d.put_cclk _ _ _
@[simp] theorem Dev.count_free (f : Fld) (i n : Nat) : (d.count f i n).free = d.free := d.put_free _ _ _

@[simp] theorem Dev.reject_pwr (a b : Nat) : (d.reject a b).pwr = d.pwr := (Dev.put_pwr _ _ _ _).trans ((Dev.put_pwr _ _ _ _).trans (d.count_pwr _ _ _))
@[simp] theorem Dev.reject_mmc (a b : Nat) : (d.reject a b).mmc = d.mmc := (Dev.put_mmc _ _ _ _).trans ((Dev.put_mmc _ _ _ _).trans (d.count_mmc _ _ _))
@[simp] theorem Dev.reject_keep (a b : Nat) : (d.reject a b).keep = d.keep := (Dev.put_keep _ _ _ _).trans ((Dev.put_keep _ _ _ _).trans (d.count_keep _ _ _))
@[simp] theorem Dev.reject_own (a b : Nat) : (d.reject a b).own = d.own := (Dev.put_own _ _ _ _).trans ((Dev.put_own _ _ _ _).trans (d.count_own _ _ _))
@[simp] theorem Dev.reject_host (a b : Nat) : (d.reject a b).host = d.host := (Dev.put_host _ _ _ _).trans ((Dev.put_host _ _ _ _).trans (d.count_host _ _ _))
@[simp] theorem Dev.reject_ctx (a b : Nat) : (d.reject a b).ctx = d.ctx := (Dev.put_ctx _ _ _ _).trans ((Dev.put_ctx _ _ _ _).trans (d.count_ctx _ _ _))
@[simp] theorem Dev.reject_thr (a b : Nat) : (d.reject a b).thr = d.thr := (Dev.put_thr _ _ _ _).trans ((Dev.put_thr _ _ _ _).trans (d.count_thr _ _ _))
@[simp] theorem Dev.reject_que (a b : Nat) : (d.reject a b).que = d.que := (Dev.put_que _ _ _ _).trans ((Dev.put_que _ _ _ _).trans (d.count_que _ _ _))
@[simp] theorem Dev.reject_past (a b : Nat) : (d.reject a b).past = d.past := (Dev.put_past _ _ _ _).trans ((Dev.put_past _ _ _ _).trans (d.count_past _ _ _))
@[simp] theorem Dev.reject_core (a b : Nat) : (d.reject a b).core = d.core := (Dev.put_core _ _ _ _).trans ((Dev.put_core _ _ _ _).trans (d.count_core _ _ _))
@[simp] theorem Dev.reject_regn (a b : Nat) : (d.reject a b).regn = d.regn := (Dev.put_regn _ _ _ _).trans ((Dev.put_regn _ _ _ _).trans (d.count_regn _ _ _))
@[simp] theorem Dev.reject_slotCnt (a b : Nat) : (d.reject a b).slotCnt = d.slotCnt := (Dev.put_slotCnt _ _ _ _).trans ((Dev.put_slotCnt _ _ _ _).trans (d.count_slotCnt _ _ _))
@[simp] theorem Dev.reject_full (a b : Nat) : (d.reject a b).full = d.full := (Dev.put_full _ _ _ _).trans ((Dev.put_full _ _ _ _).trans (d.count_full _ _ _))
@[simp] theorem Dev.reject_flight (a b : Nat) : (d.reject a b).flight = d.flight := (Dev.put_flight _ _ _ _).trans ((Dev.put_flight _ _ _ _).trans (d.count_flight _ _ _))
@[simp] theorem Dev.reject_nextFlight (a b : Nat) : (d.reject a b).nextFlight = d.nextFlight := (Dev.put_nextFlight _ _ _ _).trans ((Dev.put_nextFlight _ _ _ _).trans (d.count_nextFlight _ _ _))
@[simp] theorem Dev.reject_sync (a b : Nat) : (d.reject a b).sync = d.sync := (Dev.put_sync _ _ _ _).trans ((Dev.put_sync _ _ _ _).trans (d.count_sync _ _ _))
@[simp] theorem Dev.reject_eng (a b : Nat) : (d.reject a b).eng = d.eng := (Dev.put_eng _ _ _ _).trans ((Dev.put_eng _ _ _ _).trans (d.count_eng _ _ _))
@[simp] theorem Dev.reject_gens (a b : Nat) : (d.reject a b).gens = d.gens := (Dev.put_gens _ _ _ _).trans ((Dev.put_gens _ _ _ _).trans (d.count_gens _ _ _))
@[simp] theorem Dev.reject_str (a b : Nat) : (d.reject a b).str = d.str := (Dev.put_str _ _ _ _).trans ((Dev.put_str _ _ _ _).trans (d.count_str _ _ _))
@[simp] theorem Dev.reject_time (a b : Nat) : (d.reject a b).time = d.time := (Dev.put_time _ _ _ _).trans ((Dev.put_time _ _ _ _).trans (d.count_time _ _ _))
@[simp] theorem Dev.reject_outq (a b : Nat) : (d.reject a b).outq = d.outq := (Dev.put_outq _ _ _ _).trans ((Dev.put_outq _ _ _ _).trans (d.count_outq _ _ _))
@[simp] theorem Dev.reject_lnk (a b : Nat) : (d.reject a b).lnk = d.lnk := (Dev.put_lnk _ _ _ _).trans ((Dev.put_lnk _ _ _ _).trans (d.count_lnk _ _ _))
@[simp] theorem Dev.reject_rte (a b : Nat) : (d.reject a b).rte = d.rte := (Dev.put_rte _ _ _ _).trans ((Dev.put_rte _ _ _ _).trans (d.count_rte _ _ _))
@[simp] theorem Dev.reject_eth (a b : Nat) : (d.reject a b).eth = d.eth := (Dev.put_eth _ _ _ _).trans ((Dev.put_eth _ _ _ _).trans (d.count_eth _ _ _))
@[simp] theorem Dev.reject_hostMem (a b : Nat) : (d.reject a b).hostMem = d.hostMem := (Dev.put_hostMem _ _ _ _).trans ((Dev.put_hostMem _ _ _ _).trans (d.count_hostMem _ _ _))
@[simp] theorem Dev.reject_out (a b : Nat) : (d.reject a b).out = d.out := (Dev.put_out _ _ _ _).trans ((Dev.put_out _ _ _ _).trans (d.count_out _ _ _))
@[simp] theorem Dev.reject_cclk (a b : Nat) : (d.reject a b).cclk = d.cclk := (Dev.put_cclk _ _ _ _).trans ((Dev.put_cclk _ _ _ _).trans (d.count_cclk _ _ _))
@[simp] theorem Dev.reject_free (a b : Nat) : (d.reject a b).free = d.free := (Dev.put_free _ _ _ _).trans ((Dev.put_free _ _ _ _).trans (d.count_free _ _ _))

@[simp] theorem Dev.rejectAt_pwr (r : RegName) (i : Nat) : (d.rejectAt r i).pwr = d.pwr := d.reject_pwr _ _
@[simp] theorem Dev.rejectAt_mmc (r : RegName) (i : Nat) : (d.rejectAt r i).mmc = d.mmc := d.reject_mmc _ _
@[simp] theorem Dev.rejectAt_keep (r : RegName) (i : Nat) : (d.rejectAt r i).keep = d.keep := d.reject_keep _ _
@[simp] theorem Dev.rejectAt_own (r : RegName) (i : Nat) : (d.rejectAt r i).own = d.own := d.reject_own _ _
@[simp] theorem Dev.rejectAt_host (r : RegName) (i : Nat) : (d.rejectAt r i).host = d.host := d.reject_host _ _
@[simp] theorem Dev.rejectAt_ctx (r : RegName) (i : Nat) : (d.rejectAt r i).ctx = d.ctx := d.reject_ctx _ _
@[simp] theorem Dev.rejectAt_thr (r : RegName) (i : Nat) : (d.rejectAt r i).thr = d.thr := d.reject_thr _ _
@[simp] theorem Dev.rejectAt_que (r : RegName) (i : Nat) : (d.rejectAt r i).que = d.que := d.reject_que _ _
@[simp] theorem Dev.rejectAt_past (r : RegName) (i : Nat) : (d.rejectAt r i).past = d.past := d.reject_past _ _
@[simp] theorem Dev.rejectAt_core (r : RegName) (i : Nat) : (d.rejectAt r i).core = d.core := d.reject_core _ _
@[simp] theorem Dev.rejectAt_regn (r : RegName) (i : Nat) : (d.rejectAt r i).regn = d.regn := d.reject_regn _ _
@[simp] theorem Dev.rejectAt_slotCnt (r : RegName) (i : Nat) : (d.rejectAt r i).slotCnt = d.slotCnt := d.reject_slotCnt _ _
@[simp] theorem Dev.rejectAt_full (r : RegName) (i : Nat) : (d.rejectAt r i).full = d.full := d.reject_full _ _
@[simp] theorem Dev.rejectAt_flight (r : RegName) (i : Nat) : (d.rejectAt r i).flight = d.flight := d.reject_flight _ _
@[simp] theorem Dev.rejectAt_nextFlight (r : RegName) (i : Nat) : (d.rejectAt r i).nextFlight = d.nextFlight := d.reject_nextFlight _ _
@[simp] theorem Dev.rejectAt_sync (r : RegName) (i : Nat) : (d.rejectAt r i).sync = d.sync := d.reject_sync _ _
@[simp] theorem Dev.rejectAt_eng (r : RegName) (i : Nat) : (d.rejectAt r i).eng = d.eng := d.reject_eng _ _
@[simp] theorem Dev.rejectAt_gens (r : RegName) (i : Nat) : (d.rejectAt r i).gens = d.gens := d.reject_gens _ _
@[simp] theorem Dev.rejectAt_str (r : RegName) (i : Nat) : (d.rejectAt r i).str = d.str := d.reject_str _ _
@[simp] theorem Dev.rejectAt_time (r : RegName) (i : Nat) : (d.rejectAt r i).time = d.time := d.reject_time _ _
@[simp] theorem Dev.rejectAt_outq (r : RegName) (i : Nat) : (d.rejectAt r i).outq = d.outq := d.reject_outq _ _
@[simp] theorem Dev.rejectAt_lnk (r : RegName) (i : Nat) : (d.rejectAt r i).lnk = d.lnk := d.reject_lnk _ _
@[simp] theorem Dev.rejectAt_rte (r : RegName) (i : Nat) : (d.rejectAt r i).rte = d.rte := d.reject_rte _ _
@[simp] theorem Dev.rejectAt_eth (r : RegName) (i : Nat) : (d.rejectAt r i).eth = d.eth := d.reject_eth _ _
@[simp] theorem Dev.rejectAt_hostMem (r : RegName) (i : Nat) : (d.rejectAt r i).hostMem = d.hostMem := d.reject_hostMem _ _
@[simp] theorem Dev.rejectAt_out (r : RegName) (i : Nat) : (d.rejectAt r i).out = d.out := d.reject_out _ _
@[simp] theorem Dev.rejectAt_cclk (r : RegName) (i : Nat) : (d.rejectAt r i).cclk = d.cclk := d.reject_cclk _ _
@[simp] theorem Dev.rejectAt_free (r : RegName) (i : Nat) : (d.rejectAt r i).free = d.free := d.reject_free _ _

@[simp] theorem Dev.emit_regs (o : Output) : (d.emit o).regs = d.regs := rfl
@[simp] theorem Dev.emit_pwr (o : Output) : (d.emit o).pwr = d.pwr := rfl
@[simp] theorem Dev.emit_mmc (o : Output) : (d.emit o).mmc = d.mmc := rfl
@[simp] theorem Dev.emit_keep (o : Output) : (d.emit o).keep = d.keep := rfl
@[simp] theorem Dev.emit_own (o : Output) : (d.emit o).own = d.own := rfl
@[simp] theorem Dev.emit_host (o : Output) : (d.emit o).host = d.host := rfl
@[simp] theorem Dev.emit_ctx (o : Output) : (d.emit o).ctx = d.ctx := rfl
@[simp] theorem Dev.emit_thr (o : Output) : (d.emit o).thr = d.thr := rfl
@[simp] theorem Dev.emit_que (o : Output) : (d.emit o).que = d.que := rfl
@[simp] theorem Dev.emit_past (o : Output) : (d.emit o).past = d.past := rfl
@[simp] theorem Dev.emit_core (o : Output) : (d.emit o).core = d.core := rfl
@[simp] theorem Dev.emit_regn (o : Output) : (d.emit o).regn = d.regn := rfl
@[simp] theorem Dev.emit_slotCnt (o : Output) : (d.emit o).slotCnt = d.slotCnt := rfl
@[simp] theorem Dev.emit_full (o : Output) : (d.emit o).full = d.full := rfl
@[simp] theorem Dev.emit_flight (o : Output) : (d.emit o).flight = d.flight := rfl
@[simp] theorem Dev.emit_nextFlight (o : Output) : (d.emit o).nextFlight = d.nextFlight := rfl
@[simp] theorem Dev.emit_sync (o : Output) : (d.emit o).sync = d.sync := rfl
@[simp] theorem Dev.emit_eng (o : Output) : (d.emit o).eng = d.eng := rfl
@[simp] theorem Dev.emit_gens (o : Output) : (d.emit o).gens = d.gens := rfl
@[simp] theorem Dev.emit_str (o : Output) : (d.emit o).str = d.str := rfl
@[simp] theorem Dev.emit_time (o : Output) : (d.emit o).time = d.time := rfl
@[simp] theorem Dev.emit_outq (o : Output) : (d.emit o).outq = d.outq := rfl
@[simp] theorem Dev.emit_lnk (o : Output) : (d.emit o).lnk = d.lnk := rfl
@[simp] theorem Dev.emit_rte (o : Output) : (d.emit o).rte = d.rte := rfl
@[simp] theorem Dev.emit_eth (o : Output) : (d.emit o).eth = d.eth := rfl
@[simp] theorem Dev.emit_hostMem (o : Output) : (d.emit o).hostMem = d.hostMem := rfl
@[simp] theorem Dev.emit_cclk (o : Output) : (d.emit o).cclk = d.cclk := rfl
@[simp] theorem Dev.emit_free (o : Output) : (d.emit o).free = d.free := rfl

@[simp] theorem Dev.modCtx_regs (c : CtxId) (f : Ctx → Ctx) : (d.modCtx c f).regs = d.regs := rfl
@[simp] theorem Dev.modCtx_pwr (c : CtxId) (f : Ctx → Ctx) : (d.modCtx c f).pwr = d.pwr := rfl
@[simp] theorem Dev.modCtx_mmc (c : CtxId) (f : Ctx → Ctx) : (d.modCtx c f).mmc = d.mmc := rfl
@[simp] theorem Dev.modCtx_keep (c : CtxId) (f : Ctx → Ctx) : (d.modCtx c f).keep = d.keep := rfl
@[simp] theorem Dev.modCtx_own (c : CtxId) (f : Ctx → Ctx) : (d.modCtx c f).own = d.own := rfl
@[simp] theorem Dev.modCtx_host (c : CtxId) (f : Ctx → Ctx) : (d.modCtx c f).host = d.host := rfl
@[simp] theorem Dev.modCtx_thr (c : CtxId) (f : Ctx → Ctx) : (d.modCtx c f).thr = d.thr := rfl
@[simp] theorem Dev.modCtx_que (c : CtxId) (f : Ctx → Ctx) : (d.modCtx c f).que = d.que := rfl
@[simp] theorem Dev.modCtx_past (c : CtxId) (f : Ctx → Ctx) : (d.modCtx c f).past = d.past := rfl
@[simp] theorem Dev.modCtx_core (c : CtxId) (f : Ctx → Ctx) : (d.modCtx c f).core = d.core := rfl
@[simp] theorem Dev.modCtx_regn (c : CtxId) (f : Ctx → Ctx) : (d.modCtx c f).regn = d.regn := rfl
@[simp] theorem Dev.modCtx_slotCnt (c : CtxId) (f : Ctx → Ctx) : (d.modCtx c f).slotCnt = d.slotCnt := rfl
@[simp] theorem Dev.modCtx_full (c : CtxId) (f : Ctx → Ctx) : (d.modCtx c f).full = d.full := rfl
@[simp] theorem Dev.modCtx_flight (c : CtxId) (f : Ctx → Ctx) : (d.modCtx c f).flight = d.flight := rfl
@[simp] theorem Dev.modCtx_nextFlight (c : CtxId) (f : Ctx → Ctx) : (d.modCtx c f).nextFlight = d.nextFlight := rfl
@[simp] theorem Dev.modCtx_sync (c : CtxId) (f : Ctx → Ctx) : (d.modCtx c f).sync = d.sync := rfl
@[simp] theorem Dev.modCtx_eng (c : CtxId) (f : Ctx → Ctx) : (d.modCtx c f).eng = d.eng := rfl
@[simp] theorem Dev.modCtx_gens (c : CtxId) (f : Ctx → Ctx) : (d.modCtx c f).gens = d.gens := rfl
@[simp] theorem Dev.modCtx_str (c : CtxId) (f : Ctx → Ctx) : (d.modCtx c f).str = d.str := rfl
@[simp] theorem Dev.modCtx_time (c : CtxId) (f : Ctx → Ctx) : (d.modCtx c f).time = d.time := rfl
@[simp] theorem Dev.modCtx_outq (c : CtxId) (f : Ctx → Ctx) : (d.modCtx c f).outq = d.outq := rfl
@[simp] theorem Dev.modCtx_lnk (c : CtxId) (f : Ctx → Ctx) : (d.modCtx c f).lnk = d.lnk := rfl
@[simp] theorem Dev.modCtx_rte (c : CtxId) (f : Ctx → Ctx) : (d.modCtx c f).rte = d.rte := rfl
@[simp] theorem Dev.modCtx_eth (c : CtxId) (f : Ctx → Ctx) : (d.modCtx c f).eth = d.eth := rfl
@[simp] theorem Dev.modCtx_hostMem (c : CtxId) (f : Ctx → Ctx) : (d.modCtx c f).hostMem = d.hostMem := rfl
@[simp] theorem Dev.modCtx_out (c : CtxId) (f : Ctx → Ctx) : (d.modCtx c f).out = d.out := rfl
@[simp] theorem Dev.modCtx_cclk (c : CtxId) (f : Ctx → Ctx) : (d.modCtx c f).cclk = d.cclk := rfl
@[simp] theorem Dev.modCtx_free (c : CtxId) (f : Ctx → Ctx) : (d.modCtx c f).free = d.free := rfl

@[simp] theorem Dev.modThr_regs (k : Nat) (f : Thread → Thread) : (d.modThr k f).regs = d.regs := rfl
@[simp] theorem Dev.modThr_pwr (k : Nat) (f : Thread → Thread) : (d.modThr k f).pwr = d.pwr := rfl
@[simp] theorem Dev.modThr_mmc (k : Nat) (f : Thread → Thread) : (d.modThr k f).mmc = d.mmc := rfl
@[simp] theorem Dev.modThr_keep (k : Nat) (f : Thread → Thread) : (d.modThr k f).keep = d.keep := rfl
@[simp] theorem Dev.modThr_own (k : Nat) (f : Thread → Thread) : (d.modThr k f).own = d.own := rfl
@[simp] theorem Dev.modThr_host (k : Nat) (f : Thread → Thread) : (d.modThr k f).host = d.host := rfl
@[simp] theorem Dev.modThr_ctx (k : Nat) (f : Thread → Thread) : (d.modThr k f).ctx = d.ctx := rfl
@[simp] theorem Dev.modThr_que (k : Nat) (f : Thread → Thread) : (d.modThr k f).que = d.que := rfl
@[simp] theorem Dev.modThr_past (k : Nat) (f : Thread → Thread) : (d.modThr k f).past = d.past := rfl
@[simp] theorem Dev.modThr_core (k : Nat) (f : Thread → Thread) : (d.modThr k f).core = d.core := rfl
@[simp] theorem Dev.modThr_regn (k : Nat) (f : Thread → Thread) : (d.modThr k f).regn = d.regn := rfl
@[simp] theorem Dev.modThr_slotCnt (k : Nat) (f : Thread → Thread) : (d.modThr k f).slotCnt = d.slotCnt := rfl
@[simp] theorem Dev.modThr_full (k : Nat) (f : Thread → Thread) : (d.modThr k f).full = d.full := rfl
@[simp] theorem Dev.modThr_flight (k : Nat) (f : Thread → Thread) : (d.modThr k f).flight = d.flight := rfl
@[simp] theorem Dev.modThr_nextFlight (k : Nat) (f : Thread → Thread) : (d.modThr k f).nextFlight = d.nextFlight := rfl
@[simp] theorem Dev.modThr_sync (k : Nat) (f : Thread → Thread) : (d.modThr k f).sync = d.sync := rfl
@[simp] theorem Dev.modThr_eng (k : Nat) (f : Thread → Thread) : (d.modThr k f).eng = d.eng := rfl
@[simp] theorem Dev.modThr_gens (k : Nat) (f : Thread → Thread) : (d.modThr k f).gens = d.gens := rfl
@[simp] theorem Dev.modThr_str (k : Nat) (f : Thread → Thread) : (d.modThr k f).str = d.str := rfl
@[simp] theorem Dev.modThr_time (k : Nat) (f : Thread → Thread) : (d.modThr k f).time = d.time := rfl
@[simp] theorem Dev.modThr_outq (k : Nat) (f : Thread → Thread) : (d.modThr k f).outq = d.outq := rfl
@[simp] theorem Dev.modThr_lnk (k : Nat) (f : Thread → Thread) : (d.modThr k f).lnk = d.lnk := rfl
@[simp] theorem Dev.modThr_rte (k : Nat) (f : Thread → Thread) : (d.modThr k f).rte = d.rte := rfl
@[simp] theorem Dev.modThr_eth (k : Nat) (f : Thread → Thread) : (d.modThr k f).eth = d.eth := rfl
@[simp] theorem Dev.modThr_hostMem (k : Nat) (f : Thread → Thread) : (d.modThr k f).hostMem = d.hostMem := rfl
@[simp] theorem Dev.modThr_out (k : Nat) (f : Thread → Thread) : (d.modThr k f).out = d.out := rfl
@[simp] theorem Dev.modThr_cclk (k : Nat) (f : Thread → Thread) : (d.modThr k f).cclk = d.cclk := rfl
@[simp] theorem Dev.modThr_free (k : Nat) (f : Thread → Thread) : (d.modThr k f).free = d.free := rfl

@[simp] theorem Dev.modQue_regs (k q : Nat) (f : Queue → Queue) : (d.modQue k q f).regs = d.regs := rfl
@[simp] theorem Dev.modQue_pwr (k q : Nat) (f : Queue → Queue) : (d.modQue k q f).pwr = d.pwr := rfl
@[simp] theorem Dev.modQue_mmc (k q : Nat) (f : Queue → Queue) : (d.modQue k q f).mmc = d.mmc := rfl
@[simp] theorem Dev.modQue_keep (k q : Nat) (f : Queue → Queue) : (d.modQue k q f).keep = d.keep := rfl
@[simp] theorem Dev.modQue_own (k q : Nat) (f : Queue → Queue) : (d.modQue k q f).own = d.own := rfl
@[simp] theorem Dev.modQue_host (k q : Nat) (f : Queue → Queue) : (d.modQue k q f).host = d.host := rfl
@[simp] theorem Dev.modQue_ctx (k q : Nat) (f : Queue → Queue) : (d.modQue k q f).ctx = d.ctx := rfl
@[simp] theorem Dev.modQue_thr (k q : Nat) (f : Queue → Queue) : (d.modQue k q f).thr = d.thr := rfl
@[simp] theorem Dev.modQue_past (k q : Nat) (f : Queue → Queue) : (d.modQue k q f).past = d.past := rfl
@[simp] theorem Dev.modQue_core (k q : Nat) (f : Queue → Queue) : (d.modQue k q f).core = d.core := rfl
@[simp] theorem Dev.modQue_regn (k q : Nat) (f : Queue → Queue) : (d.modQue k q f).regn = d.regn := rfl
@[simp] theorem Dev.modQue_slotCnt (k q : Nat) (f : Queue → Queue) : (d.modQue k q f).slotCnt = d.slotCnt := rfl
@[simp] theorem Dev.modQue_full (k q : Nat) (f : Queue → Queue) : (d.modQue k q f).full = d.full := rfl
@[simp] theorem Dev.modQue_flight (k q : Nat) (f : Queue → Queue) : (d.modQue k q f).flight = d.flight := rfl
@[simp] theorem Dev.modQue_nextFlight (k q : Nat) (f : Queue → Queue) : (d.modQue k q f).nextFlight = d.nextFlight := rfl
@[simp] theorem Dev.modQue_sync (k q : Nat) (f : Queue → Queue) : (d.modQue k q f).sync = d.sync := rfl
@[simp] theorem Dev.modQue_eng (k q : Nat) (f : Queue → Queue) : (d.modQue k q f).eng = d.eng := rfl
@[simp] theorem Dev.modQue_gens (k q : Nat) (f : Queue → Queue) : (d.modQue k q f).gens = d.gens := rfl
@[simp] theorem Dev.modQue_str (k q : Nat) (f : Queue → Queue) : (d.modQue k q f).str = d.str := rfl
@[simp] theorem Dev.modQue_time (k q : Nat) (f : Queue → Queue) : (d.modQue k q f).time = d.time := rfl
@[simp] theorem Dev.modQue_outq (k q : Nat) (f : Queue → Queue) : (d.modQue k q f).outq = d.outq := rfl
@[simp] theorem Dev.modQue_lnk (k q : Nat) (f : Queue → Queue) : (d.modQue k q f).lnk = d.lnk := rfl
@[simp] theorem Dev.modQue_rte (k q : Nat) (f : Queue → Queue) : (d.modQue k q f).rte = d.rte := rfl
@[simp] theorem Dev.modQue_eth (k q : Nat) (f : Queue → Queue) : (d.modQue k q f).eth = d.eth := rfl
@[simp] theorem Dev.modQue_hostMem (k q : Nat) (f : Queue → Queue) : (d.modQue k q f).hostMem = d.hostMem := rfl
@[simp] theorem Dev.modQue_out (k q : Nat) (f : Queue → Queue) : (d.modQue k q f).out = d.out := rfl
@[simp] theorem Dev.modQue_cclk (k q : Nat) (f : Queue → Queue) : (d.modQue k q f).cclk = d.cclk := rfl
@[simp] theorem Dev.modQue_free (k q : Nat) (f : Queue → Queue) : (d.modQue k q f).free = d.free := rfl

@[simp] theorem Dev.modEng_regs (c k : Nat) (f : Engine → Engine) : (d.modEng c k f).regs = d.regs := rfl
@[simp] theorem Dev.modEng_pwr (c k : Nat) (f : Engine → Engine) : (d.modEng c k f).pwr = d.pwr := rfl
@[simp] theorem Dev.modEng_mmc (c k : Nat) (f : Engine → Engine) : (d.modEng c k f).mmc = d.mmc := rfl
@[simp] theorem Dev.modEng_keep (c k : Nat) (f : Engine → Engine) : (d.modEng c k f).keep = d.keep := rfl
@[simp] theorem Dev.modEng_own (c k : Nat) (f : Engine → Engine) : (d.modEng c k f).own = d.own := rfl
@[simp] theorem Dev.modEng_host (c k : Nat) (f : Engine → Engine) : (d.modEng c k f).host = d.host := rfl
@[simp] theorem Dev.modEng_ctx (c k : Nat) (f : Engine → Engine) : (d.modEng c k f).ctx = d.ctx := rfl
@[simp] theorem Dev.modEng_thr (c k : Nat) (f : Engine → Engine) : (d.modEng c k f).thr = d.thr := rfl
@[simp] theorem Dev.modEng_que (c k : Nat) (f : Engine → Engine) : (d.modEng c k f).que = d.que := rfl
@[simp] theorem Dev.modEng_past (c k : Nat) (f : Engine → Engine) : (d.modEng c k f).past = d.past := rfl
@[simp] theorem Dev.modEng_core (c k : Nat) (f : Engine → Engine) : (d.modEng c k f).core = d.core := rfl
@[simp] theorem Dev.modEng_regn (c k : Nat) (f : Engine → Engine) : (d.modEng c k f).regn = d.regn := rfl
@[simp] theorem Dev.modEng_slotCnt (c k : Nat) (f : Engine → Engine) : (d.modEng c k f).slotCnt = d.slotCnt := rfl
@[simp] theorem Dev.modEng_full (c k : Nat) (f : Engine → Engine) : (d.modEng c k f).full = d.full := rfl
@[simp] theorem Dev.modEng_flight (c k : Nat) (f : Engine → Engine) : (d.modEng c k f).flight = d.flight := rfl
@[simp] theorem Dev.modEng_nextFlight (c k : Nat) (f : Engine → Engine) : (d.modEng c k f).nextFlight = d.nextFlight := rfl
@[simp] theorem Dev.modEng_sync (c k : Nat) (f : Engine → Engine) : (d.modEng c k f).sync = d.sync := rfl
@[simp] theorem Dev.modEng_gens (c k : Nat) (f : Engine → Engine) : (d.modEng c k f).gens = d.gens := rfl
@[simp] theorem Dev.modEng_str (c k : Nat) (f : Engine → Engine) : (d.modEng c k f).str = d.str := rfl
@[simp] theorem Dev.modEng_time (c k : Nat) (f : Engine → Engine) : (d.modEng c k f).time = d.time := rfl
@[simp] theorem Dev.modEng_outq (c k : Nat) (f : Engine → Engine) : (d.modEng c k f).outq = d.outq := rfl
@[simp] theorem Dev.modEng_lnk (c k : Nat) (f : Engine → Engine) : (d.modEng c k f).lnk = d.lnk := rfl
@[simp] theorem Dev.modEng_rte (c k : Nat) (f : Engine → Engine) : (d.modEng c k f).rte = d.rte := rfl
@[simp] theorem Dev.modEng_eth (c k : Nat) (f : Engine → Engine) : (d.modEng c k f).eth = d.eth := rfl
@[simp] theorem Dev.modEng_hostMem (c k : Nat) (f : Engine → Engine) : (d.modEng c k f).hostMem = d.hostMem := rfl
@[simp] theorem Dev.modEng_out (c k : Nat) (f : Engine → Engine) : (d.modEng c k f).out = d.out := rfl
@[simp] theorem Dev.modEng_cclk (c k : Nat) (f : Engine → Engine) : (d.modEng c k f).cclk = d.cclk := rfl
@[simp] theorem Dev.modEng_free (c k : Nat) (f : Engine → Engine) : (d.modEng c k f).free = d.free := rfl

@[simp] theorem Dev.modStr_regs (k : Nat) (f : Stream → Stream) : (d.modStr k f).regs = d.regs := rfl
@[simp] theorem Dev.modStr_pwr (k : Nat) (f : Stream → Stream) : (d.modStr k f).pwr = d.pwr := rfl
@[simp] theorem Dev.modStr_mmc (k : Nat) (f : Stream → Stream) : (d.modStr k f).mmc = d.mmc := rfl
@[simp] theorem Dev.modStr_keep (k : Nat) (f : Stream → Stream) : (d.modStr k f).keep = d.keep := rfl
@[simp] theorem Dev.modStr_own (k : Nat) (f : Stream → Stream) : (d.modStr k f).own = d.own := rfl
@[simp] theorem Dev.modStr_host (k : Nat) (f : Stream → Stream) : (d.modStr k f).host = d.host := rfl
@[simp] theorem Dev.modStr_ctx (k : Nat) (f : Stream → Stream) : (d.modStr k f).ctx = d.ctx := rfl
@[simp] theorem Dev.modStr_thr (k : Nat) (f : Stream → Stream) : (d.modStr k f).thr = d.thr := rfl
@[simp] theorem Dev.modStr_que (k : Nat) (f : Stream → Stream) : (d.modStr k f).que = d.que := rfl
@[simp] theorem Dev.modStr_past (k : Nat) (f : Stream → Stream) : (d.modStr k f).past = d.past := rfl
@[simp] theorem Dev.modStr_core (k : Nat) (f : Stream → Stream) : (d.modStr k f).core = d.core := rfl
@[simp] theorem Dev.modStr_regn (k : Nat) (f : Stream → Stream) : (d.modStr k f).regn = d.regn := rfl
@[simp] theorem Dev.modStr_slotCnt (k : Nat) (f : Stream → Stream) : (d.modStr k f).slotCnt = d.slotCnt := rfl
@[simp] theorem Dev.modStr_full (k : Nat) (f : Stream → Stream) : (d.modStr k f).full = d.full := rfl
@[simp] theorem Dev.modStr_flight (k : Nat) (f : Stream → Stream) : (d.modStr k f).flight = d.flight := rfl
@[simp] theorem Dev.modStr_nextFlight (k : Nat) (f : Stream → Stream) : (d.modStr k f).nextFlight = d.nextFlight := rfl
@[simp] theorem Dev.modStr_sync (k : Nat) (f : Stream → Stream) : (d.modStr k f).sync = d.sync := rfl
@[simp] theorem Dev.modStr_eng (k : Nat) (f : Stream → Stream) : (d.modStr k f).eng = d.eng := rfl
@[simp] theorem Dev.modStr_gens (k : Nat) (f : Stream → Stream) : (d.modStr k f).gens = d.gens := rfl
@[simp] theorem Dev.modStr_time (k : Nat) (f : Stream → Stream) : (d.modStr k f).time = d.time := rfl
@[simp] theorem Dev.modStr_outq (k : Nat) (f : Stream → Stream) : (d.modStr k f).outq = d.outq := rfl
@[simp] theorem Dev.modStr_lnk (k : Nat) (f : Stream → Stream) : (d.modStr k f).lnk = d.lnk := rfl
@[simp] theorem Dev.modStr_rte (k : Nat) (f : Stream → Stream) : (d.modStr k f).rte = d.rte := rfl
@[simp] theorem Dev.modStr_eth (k : Nat) (f : Stream → Stream) : (d.modStr k f).eth = d.eth := rfl
@[simp] theorem Dev.modStr_hostMem (k : Nat) (f : Stream → Stream) : (d.modStr k f).hostMem = d.hostMem := rfl
@[simp] theorem Dev.modStr_out (k : Nat) (f : Stream → Stream) : (d.modStr k f).out = d.out := rfl
@[simp] theorem Dev.modStr_cclk (k : Nat) (f : Stream → Stream) : (d.modStr k f).cclk = d.cclk := rfl
@[simp] theorem Dev.modStr_free (k : Nat) (f : Stream → Stream) : (d.modStr k f).free = d.free := rfl

@[simp] theorem Dev.modCore_regs (k : Nat) (f : Core → Core) : (d.modCore k f).regs = d.regs := rfl
@[simp] theorem Dev.modCore_pwr (k : Nat) (f : Core → Core) : (d.modCore k f).pwr = d.pwr := rfl
@[simp] theorem Dev.modCore_mmc (k : Nat) (f : Core → Core) : (d.modCore k f).mmc = d.mmc := rfl
@[simp] theorem Dev.modCore_keep (k : Nat) (f : Core → Core) : (d.modCore k f).keep = d.keep := rfl
@[simp] theorem Dev.modCore_own (k : Nat) (f : Core → Core) : (d.modCore k f).own = d.own := rfl
@[simp] theorem Dev.modCore_host (k : Nat) (f : Core → Core) : (d.modCore k f).host = d.host := rfl
@[simp] theorem Dev.modCore_ctx (k : Nat) (f : Core → Core) : (d.modCore k f).ctx = d.ctx := rfl
@[simp] theorem Dev.modCore_thr (k : Nat) (f : Core → Core) : (d.modCore k f).thr = d.thr := rfl
@[simp] theorem Dev.modCore_que (k : Nat) (f : Core → Core) : (d.modCore k f).que = d.que := rfl
@[simp] theorem Dev.modCore_past (k : Nat) (f : Core → Core) : (d.modCore k f).past = d.past := rfl
@[simp] theorem Dev.modCore_regn (k : Nat) (f : Core → Core) : (d.modCore k f).regn = d.regn := rfl
@[simp] theorem Dev.modCore_slotCnt (k : Nat) (f : Core → Core) : (d.modCore k f).slotCnt = d.slotCnt := rfl
@[simp] theorem Dev.modCore_full (k : Nat) (f : Core → Core) : (d.modCore k f).full = d.full := rfl
@[simp] theorem Dev.modCore_flight (k : Nat) (f : Core → Core) : (d.modCore k f).flight = d.flight := rfl
@[simp] theorem Dev.modCore_nextFlight (k : Nat) (f : Core → Core) : (d.modCore k f).nextFlight = d.nextFlight := rfl
@[simp] theorem Dev.modCore_sync (k : Nat) (f : Core → Core) : (d.modCore k f).sync = d.sync := rfl
@[simp] theorem Dev.modCore_eng (k : Nat) (f : Core → Core) : (d.modCore k f).eng = d.eng := rfl
@[simp] theorem Dev.modCore_gens (k : Nat) (f : Core → Core) : (d.modCore k f).gens = d.gens := rfl
@[simp] theorem Dev.modCore_str (k : Nat) (f : Core → Core) : (d.modCore k f).str = d.str := rfl
@[simp] theorem Dev.modCore_time (k : Nat) (f : Core → Core) : (d.modCore k f).time = d.time := rfl
@[simp] theorem Dev.modCore_outq (k : Nat) (f : Core → Core) : (d.modCore k f).outq = d.outq := rfl
@[simp] theorem Dev.modCore_lnk (k : Nat) (f : Core → Core) : (d.modCore k f).lnk = d.lnk := rfl
@[simp] theorem Dev.modCore_rte (k : Nat) (f : Core → Core) : (d.modCore k f).rte = d.rte := rfl
@[simp] theorem Dev.modCore_eth (k : Nat) (f : Core → Core) : (d.modCore k f).eth = d.eth := rfl
@[simp] theorem Dev.modCore_hostMem (k : Nat) (f : Core → Core) : (d.modCore k f).hostMem = d.hostMem := rfl
@[simp] theorem Dev.modCore_out (k : Nat) (f : Core → Core) : (d.modCore k f).out = d.out := rfl
@[simp] theorem Dev.modCore_cclk (k : Nat) (f : Core → Core) : (d.modCore k f).cclk = d.cclk := rfl
@[simp] theorem Dev.modCore_free (k : Nat) (f : Core → Core) : (d.modCore k f).free = d.free := rfl

@[simp] theorem Dev.modRegion_regs (k r : Nat) (f : Region → Region) : (d.modRegion k r f).regs = d.regs := rfl
@[simp] theorem Dev.modRegion_pwr (k r : Nat) (f : Region → Region) : (d.modRegion k r f).pwr = d.pwr := rfl
@[simp] theorem Dev.modRegion_mmc (k r : Nat) (f : Region → Region) : (d.modRegion k r f).mmc = d.mmc := rfl
@[simp] theorem Dev.modRegion_keep (k r : Nat) (f : Region → Region) : (d.modRegion k r f).keep = d.keep := rfl
@[simp] theorem Dev.modRegion_own (k r : Nat) (f : Region → Region) : (d.modRegion k r f).own = d.own := rfl
@[simp] theorem Dev.modRegion_host (k r : Nat) (f : Region → Region) : (d.modRegion k r f).host = d.host := rfl
@[simp] theorem Dev.modRegion_ctx (k r : Nat) (f : Region → Region) : (d.modRegion k r f).ctx = d.ctx := rfl
@[simp] theorem Dev.modRegion_thr (k r : Nat) (f : Region → Region) : (d.modRegion k r f).thr = d.thr := rfl
@[simp] theorem Dev.modRegion_que (k r : Nat) (f : Region → Region) : (d.modRegion k r f).que = d.que := rfl
@[simp] theorem Dev.modRegion_past (k r : Nat) (f : Region → Region) : (d.modRegion k r f).past = d.past := rfl
@[simp] theorem Dev.modRegion_core (k r : Nat) (f : Region → Region) : (d.modRegion k r f).core = d.core := rfl
@[simp] theorem Dev.modRegion_slotCnt (k r : Nat) (f : Region → Region) : (d.modRegion k r f).slotCnt = d.slotCnt := rfl
@[simp] theorem Dev.modRegion_full (k r : Nat) (f : Region → Region) : (d.modRegion k r f).full = d.full := rfl
@[simp] theorem Dev.modRegion_flight (k r : Nat) (f : Region → Region) : (d.modRegion k r f).flight = d.flight := rfl
@[simp] theorem Dev.modRegion_nextFlight (k r : Nat) (f : Region → Region) : (d.modRegion k r f).nextFlight = d.nextFlight := rfl
@[simp] theorem Dev.modRegion_sync (k r : Nat) (f : Region → Region) : (d.modRegion k r f).sync = d.sync := rfl
@[simp] theorem Dev.modRegion_eng (k r : Nat) (f : Region → Region) : (d.modRegion k r f).eng = d.eng := rfl
@[simp] theorem Dev.modRegion_gens (k r : Nat) (f : Region → Region) : (d.modRegion k r f).gens = d.gens := rfl
@[simp] theorem Dev.modRegion_str (k r : Nat) (f : Region → Region) : (d.modRegion k r f).str = d.str := rfl
@[simp] theorem Dev.modRegion_time (k r : Nat) (f : Region → Region) : (d.modRegion k r f).time = d.time := rfl
@[simp] theorem Dev.modRegion_outq (k r : Nat) (f : Region → Region) : (d.modRegion k r f).outq = d.outq := rfl
@[simp] theorem Dev.modRegion_lnk (k r : Nat) (f : Region → Region) : (d.modRegion k r f).lnk = d.lnk := rfl
@[simp] theorem Dev.modRegion_rte (k r : Nat) (f : Region → Region) : (d.modRegion k r f).rte = d.rte := rfl
@[simp] theorem Dev.modRegion_eth (k r : Nat) (f : Region → Region) : (d.modRegion k r f).eth = d.eth := rfl
@[simp] theorem Dev.modRegion_hostMem (k r : Nat) (f : Region → Region) : (d.modRegion k r f).hostMem = d.hostMem := rfl
@[simp] theorem Dev.modRegion_out (k r : Nat) (f : Region → Region) : (d.modRegion k r f).out = d.out := rfl
@[simp] theorem Dev.modRegion_cclk (k r : Nat) (f : Region → Region) : (d.modRegion k r f).cclk = d.cclk := rfl
@[simp] theorem Dev.modRegion_free (k r : Nat) (f : Region → Region) : (d.modRegion k r f).free = d.free := rfl

@[simp] theorem Dev.putCount_regs (k r s n : Nat) : (d.putCount k r s n).regs = d.regs := rfl
@[simp] theorem Dev.putCount_pwr (k r s n : Nat) : (d.putCount k r s n).pwr = d.pwr := rfl
@[simp] theorem Dev.putCount_mmc (k r s n : Nat) : (d.putCount k r s n).mmc = d.mmc := rfl
@[simp] theorem Dev.putCount_keep (k r s n : Nat) : (d.putCount k r s n).keep = d.keep := rfl
@[simp] theorem Dev.putCount_own (k r s n : Nat) : (d.putCount k r s n).own = d.own := rfl
@[simp] theorem Dev.putCount_host (k r s n : Nat) : (d.putCount k r s n).host = d.host := rfl
@[simp] theorem Dev.putCount_ctx (k r s n : Nat) : (d.putCount k r s n).ctx = d.ctx := rfl
@[simp] theorem Dev.putCount_thr (k r s n : Nat) : (d.putCount k r s n).thr = d.thr := rfl
@[simp] theorem Dev.putCount_que (k r s n : Nat) : (d.putCount k r s n).que = d.que := rfl
@[simp] theorem Dev.putCount_past (k r s n : Nat) : (d.putCount k r s n).past = d.past := rfl
@[simp] theorem Dev.putCount_core (k r s n : Nat) : (d.putCount k r s n).core = d.core := rfl
@[simp] theorem Dev.putCount_regn (k r s n : Nat) : (d.putCount k r s n).regn = d.regn := rfl
@[simp] theorem Dev.putCount_full (k r s n : Nat) : (d.putCount k r s n).full = d.full := rfl
@[simp] theorem Dev.putCount_flight (k r s n : Nat) : (d.putCount k r s n).flight = d.flight := rfl
@[simp] theorem Dev.putCount_nextFlight (k r s n : Nat) : (d.putCount k r s n).nextFlight = d.nextFlight := rfl
@[simp] theorem Dev.putCount_sync (k r s n : Nat) : (d.putCount k r s n).sync = d.sync := rfl
@[simp] theorem Dev.putCount_eng (k r s n : Nat) : (d.putCount k r s n).eng = d.eng := rfl
@[simp] theorem Dev.putCount_gens (k r s n : Nat) : (d.putCount k r s n).gens = d.gens := rfl
@[simp] theorem Dev.putCount_str (k r s n : Nat) : (d.putCount k r s n).str = d.str := rfl
@[simp] theorem Dev.putCount_time (k r s n : Nat) : (d.putCount k r s n).time = d.time := rfl
@[simp] theorem Dev.putCount_outq (k r s n : Nat) : (d.putCount k r s n).outq = d.outq := rfl
@[simp] theorem Dev.putCount_lnk (k r s n : Nat) : (d.putCount k r s n).lnk = d.lnk := rfl
@[simp] theorem Dev.putCount_rte (k r s n : Nat) : (d.putCount k r s n).rte = d.rte := rfl
@[simp] theorem Dev.putCount_eth (k r s n : Nat) : (d.putCount k r s n).eth = d.eth := rfl
@[simp] theorem Dev.putCount_hostMem (k r s n : Nat) : (d.putCount k r s n).hostMem = d.hostMem := rfl
@[simp] theorem Dev.putCount_out (k r s n : Nat) : (d.putCount k r s n).out = d.out := rfl
@[simp] theorem Dev.putCount_cclk (k r s n : Nat) : (d.putCount k r s n).cclk = d.cclk := rfl
@[simp] theorem Dev.putCount_free (k r s n : Nat) : (d.putCount k r s n).free = d.free := rfl

@[simp] theorem Dev.putFull_regs (k r s : Nat) (v : Bool) : (d.putFull k r s v).regs = d.regs := rfl
@[simp] theorem Dev.putFull_pwr (k r s : Nat) (v : Bool) : (d.putFull k r s v).pwr = d.pwr := rfl
@[simp] theorem Dev.putFull_mmc (k r s : Nat) (v : Bool) : (d.putFull k r s v).mmc = d.mmc := rfl
@[simp] theorem Dev.putFull_keep (k r s : Nat) (v : Bool) : (d.putFull k r s v).keep = d.keep := rfl
@[simp] theorem Dev.putFull_own (k r s : Nat) (v : Bool) : (d.putFull k r s v).own = d.own := rfl
@[simp] theorem Dev.putFull_host (k r s : Nat) (v : Bool) : (d.putFull k r s v).host = d.host := rfl
@[simp] theorem Dev.putFull_ctx (k r s : Nat) (v : Bool) : (d.putFull k r s v).ctx = d.ctx := rfl
@[simp] theorem Dev.putFull_thr (k r s : Nat) (v : Bool) : (d.putFull k r s v).thr = d.thr := rfl
@[simp] theorem Dev.putFull_que (k r s : Nat) (v : Bool) : (d.putFull k r s v).que = d.que := rfl
@[simp] theorem Dev.putFull_past (k r s : Nat) (v : Bool) : (d.putFull k r s v).past = d.past := rfl
@[simp] theorem Dev.putFull_core (k r s : Nat) (v : Bool) : (d.putFull k r s v).core = d.core := rfl
@[simp] theorem Dev.putFull_regn (k r s : Nat) (v : Bool) : (d.putFull k r s v).regn = d.regn := rfl
@[simp] theorem Dev.putFull_slotCnt (k r s : Nat) (v : Bool) : (d.putFull k r s v).slotCnt = d.slotCnt := rfl
@[simp] theorem Dev.putFull_flight (k r s : Nat) (v : Bool) : (d.putFull k r s v).flight = d.flight := rfl
@[simp] theorem Dev.putFull_nextFlight (k r s : Nat) (v : Bool) : (d.putFull k r s v).nextFlight = d.nextFlight := rfl
@[simp] theorem Dev.putFull_sync (k r s : Nat) (v : Bool) : (d.putFull k r s v).sync = d.sync := rfl
@[simp] theorem Dev.putFull_eng (k r s : Nat) (v : Bool) : (d.putFull k r s v).eng = d.eng := rfl
@[simp] theorem Dev.putFull_gens (k r s : Nat) (v : Bool) : (d.putFull k r s v).gens = d.gens := rfl
@[simp] theorem Dev.putFull_str (k r s : Nat) (v : Bool) : (d.putFull k r s v).str = d.str := rfl
@[simp] theorem Dev.putFull_time (k r s : Nat) (v : Bool) : (d.putFull k r s v).time = d.time := rfl
@[simp] theorem Dev.putFull_outq (k r s : Nat) (v : Bool) : (d.putFull k r s v).outq = d.outq := rfl
@[simp] theorem Dev.putFull_lnk (k r s : Nat) (v : Bool) : (d.putFull k r s v).lnk = d.lnk := rfl
@[simp] theorem Dev.putFull_rte (k r s : Nat) (v : Bool) : (d.putFull k r s v).rte = d.rte := rfl
@[simp] theorem Dev.putFull_eth (k r s : Nat) (v : Bool) : (d.putFull k r s v).eth = d.eth := rfl
@[simp] theorem Dev.putFull_hostMem (k r s : Nat) (v : Bool) : (d.putFull k r s v).hostMem = d.hostMem := rfl
@[simp] theorem Dev.putFull_out (k r s : Nat) (v : Bool) : (d.putFull k r s v).out = d.out := rfl
@[simp] theorem Dev.putFull_cclk (k r s : Nat) (v : Bool) : (d.putFull k r s v).cclk = d.cclk := rfl
@[simp] theorem Dev.putFull_free (k r s : Nat) (v : Bool) : (d.putFull k r s v).free = d.free := rfl

@[simp] theorem Dev.modSync_regs (n p : Nat) (f : SyncObj → SyncObj) : (d.modSync n p f).regs = d.regs := rfl
@[simp] theorem Dev.modSync_pwr (n p : Nat) (f : SyncObj → SyncObj) : (d.modSync n p f).pwr = d.pwr := rfl
@[simp] theorem Dev.modSync_mmc (n p : Nat) (f : SyncObj → SyncObj) : (d.modSync n p f).mmc = d.mmc := rfl
@[simp] theorem Dev.modSync_keep (n p : Nat) (f : SyncObj → SyncObj) : (d.modSync n p f).keep = d.keep := rfl
@[simp] theorem Dev.modSync_own (n p : Nat) (f : SyncObj → SyncObj) : (d.modSync n p f).own = d.own := rfl
@[simp] theorem Dev.modSync_host (n p : Nat) (f : SyncObj → SyncObj) : (d.modSync n p f).host = d.host := rfl
@[simp] theorem Dev.modSync_ctx (n p : Nat) (f : SyncObj → SyncObj) : (d.modSync n p f).ctx = d.ctx := rfl
@[simp] theorem Dev.modSync_thr (n p : Nat) (f : SyncObj → SyncObj) : (d.modSync n p f).thr = d.thr := rfl
@[simp] theorem Dev.modSync_que (n p : Nat) (f : SyncObj → SyncObj) : (d.modSync n p f).que = d.que := rfl
@[simp] theorem Dev.modSync_past (n p : Nat) (f : SyncObj → SyncObj) : (d.modSync n p f).past = d.past := rfl
@[simp] theorem Dev.modSync_core (n p : Nat) (f : SyncObj → SyncObj) : (d.modSync n p f).core = d.core := rfl
@[simp] theorem Dev.modSync_regn (n p : Nat) (f : SyncObj → SyncObj) : (d.modSync n p f).regn = d.regn := rfl
@[simp] theorem Dev.modSync_slotCnt (n p : Nat) (f : SyncObj → SyncObj) : (d.modSync n p f).slotCnt = d.slotCnt := rfl
@[simp] theorem Dev.modSync_full (n p : Nat) (f : SyncObj → SyncObj) : (d.modSync n p f).full = d.full := rfl
@[simp] theorem Dev.modSync_flight (n p : Nat) (f : SyncObj → SyncObj) : (d.modSync n p f).flight = d.flight := rfl
@[simp] theorem Dev.modSync_nextFlight (n p : Nat) (f : SyncObj → SyncObj) : (d.modSync n p f).nextFlight = d.nextFlight := rfl
@[simp] theorem Dev.modSync_eng (n p : Nat) (f : SyncObj → SyncObj) : (d.modSync n p f).eng = d.eng := rfl
@[simp] theorem Dev.modSync_gens (n p : Nat) (f : SyncObj → SyncObj) : (d.modSync n p f).gens = d.gens := rfl
@[simp] theorem Dev.modSync_str (n p : Nat) (f : SyncObj → SyncObj) : (d.modSync n p f).str = d.str := rfl
@[simp] theorem Dev.modSync_time (n p : Nat) (f : SyncObj → SyncObj) : (d.modSync n p f).time = d.time := rfl
@[simp] theorem Dev.modSync_outq (n p : Nat) (f : SyncObj → SyncObj) : (d.modSync n p f).outq = d.outq := rfl
@[simp] theorem Dev.modSync_lnk (n p : Nat) (f : SyncObj → SyncObj) : (d.modSync n p f).lnk = d.lnk := rfl
@[simp] theorem Dev.modSync_rte (n p : Nat) (f : SyncObj → SyncObj) : (d.modSync n p f).rte = d.rte := rfl
@[simp] theorem Dev.modSync_eth (n p : Nat) (f : SyncObj → SyncObj) : (d.modSync n p f).eth = d.eth := rfl
@[simp] theorem Dev.modSync_hostMem (n p : Nat) (f : SyncObj → SyncObj) : (d.modSync n p f).hostMem = d.hostMem := rfl
@[simp] theorem Dev.modSync_out (n p : Nat) (f : SyncObj → SyncObj) : (d.modSync n p f).out = d.out := rfl
@[simp] theorem Dev.modSync_cclk (n p : Nat) (f : SyncObj → SyncObj) : (d.modSync n p f).cclk = d.cclk := rfl
@[simp] theorem Dev.modSync_free (n p : Nat) (f : SyncObj → SyncObj) : (d.modSync n p f).free = d.free := rfl

@[simp] theorem Dev.modPort_regs (k : Nat) (f : LnkPort → LnkPort) : (d.modPort k f).regs = d.regs := rfl
@[simp] theorem Dev.modPort_pwr (k : Nat) (f : LnkPort → LnkPort) : (d.modPort k f).pwr = d.pwr := rfl
@[simp] theorem Dev.modPort_mmc (k : Nat) (f : LnkPort → LnkPort) : (d.modPort k f).mmc = d.mmc := rfl
@[simp] theorem Dev.modPort_keep (k : Nat) (f : LnkPort → LnkPort) : (d.modPort k f).keep = d.keep := rfl
@[simp] theorem Dev.modPort_own (k : Nat) (f : LnkPort → LnkPort) : (d.modPort k f).own = d.own := rfl
@[simp] theorem Dev.modPort_host (k : Nat) (f : LnkPort → LnkPort) : (d.modPort k f).host = d.host := rfl
@[simp] theorem Dev.modPort_ctx (k : Nat) (f : LnkPort → LnkPort) : (d.modPort k f).ctx = d.ctx := rfl
@[simp] theorem Dev.modPort_thr (k : Nat) (f : LnkPort → LnkPort) : (d.modPort k f).thr = d.thr := rfl
@[simp] theorem Dev.modPort_que (k : Nat) (f : LnkPort → LnkPort) : (d.modPort k f).que = d.que := rfl
@[simp] theorem Dev.modPort_past (k : Nat) (f : LnkPort → LnkPort) : (d.modPort k f).past = d.past := rfl
@[simp] theorem Dev.modPort_core (k : Nat) (f : LnkPort → LnkPort) : (d.modPort k f).core = d.core := rfl
@[simp] theorem Dev.modPort_regn (k : Nat) (f : LnkPort → LnkPort) : (d.modPort k f).regn = d.regn := rfl
@[simp] theorem Dev.modPort_slotCnt (k : Nat) (f : LnkPort → LnkPort) : (d.modPort k f).slotCnt = d.slotCnt := rfl
@[simp] theorem Dev.modPort_full (k : Nat) (f : LnkPort → LnkPort) : (d.modPort k f).full = d.full := rfl
@[simp] theorem Dev.modPort_flight (k : Nat) (f : LnkPort → LnkPort) : (d.modPort k f).flight = d.flight := rfl
@[simp] theorem Dev.modPort_nextFlight (k : Nat) (f : LnkPort → LnkPort) : (d.modPort k f).nextFlight = d.nextFlight := rfl
@[simp] theorem Dev.modPort_sync (k : Nat) (f : LnkPort → LnkPort) : (d.modPort k f).sync = d.sync := rfl
@[simp] theorem Dev.modPort_eng (k : Nat) (f : LnkPort → LnkPort) : (d.modPort k f).eng = d.eng := rfl
@[simp] theorem Dev.modPort_gens (k : Nat) (f : LnkPort → LnkPort) : (d.modPort k f).gens = d.gens := rfl
@[simp] theorem Dev.modPort_str (k : Nat) (f : LnkPort → LnkPort) : (d.modPort k f).str = d.str := rfl
@[simp] theorem Dev.modPort_time (k : Nat) (f : LnkPort → LnkPort) : (d.modPort k f).time = d.time := rfl
@[simp] theorem Dev.modPort_outq (k : Nat) (f : LnkPort → LnkPort) : (d.modPort k f).outq = d.outq := rfl
@[simp] theorem Dev.modPort_rte (k : Nat) (f : LnkPort → LnkPort) : (d.modPort k f).rte = d.rte := rfl
@[simp] theorem Dev.modPort_eth (k : Nat) (f : LnkPort → LnkPort) : (d.modPort k f).eth = d.eth := rfl
@[simp] theorem Dev.modPort_hostMem (k : Nat) (f : LnkPort → LnkPort) : (d.modPort k f).hostMem = d.hostMem := rfl
@[simp] theorem Dev.modPort_out (k : Nat) (f : LnkPort → LnkPort) : (d.modPort k f).out = d.out := rfl
@[simp] theorem Dev.modPort_cclk (k : Nat) (f : LnkPort → LnkPort) : (d.modPort k f).cclk = d.cclk := rfl
@[simp] theorem Dev.modPort_free (k : Nat) (f : LnkPort → LnkPort) : (d.modPort k f).free = d.free := rfl

@[simp] theorem Dev.modRte_regs (f : Rte → Rte) : (d.modRte f).regs = d.regs := rfl
@[simp] theorem Dev.modRte_pwr (f : Rte → Rte) : (d.modRte f).pwr = d.pwr := rfl
@[simp] theorem Dev.modRte_mmc (f : Rte → Rte) : (d.modRte f).mmc = d.mmc := rfl
@[simp] theorem Dev.modRte_keep (f : Rte → Rte) : (d.modRte f).keep = d.keep := rfl
@[simp] theorem Dev.modRte_own (f : Rte → Rte) : (d.modRte f).own = d.own := rfl
@[simp] theorem Dev.modRte_host (f : Rte → Rte) : (d.modRte f).host = d.host := rfl
@[simp] theorem Dev.modRte_ctx (f : Rte → Rte) : (d.modRte f).ctx = d.ctx := rfl
@[simp] theorem Dev.modRte_thr (f : Rte → Rte) : (d.modRte f).thr = d.thr := rfl
@[simp] theorem Dev.modRte_que (f : Rte → Rte) : (d.modRte f).que = d.que := rfl
@[simp] theorem Dev.modRte_past (f : Rte → Rte) : (d.modRte f).past = d.past := rfl
@[simp] theorem Dev.modRte_core (f : Rte → Rte) : (d.modRte f).core = d.core := rfl
@[simp] theorem Dev.modRte_regn (f : Rte → Rte) : (d.modRte f).regn = d.regn := rfl
@[simp] theorem Dev.modRte_slotCnt (f : Rte → Rte) : (d.modRte f).slotCnt = d.slotCnt := rfl
@[simp] theorem Dev.modRte_full (f : Rte → Rte) : (d.modRte f).full = d.full := rfl
@[simp] theorem Dev.modRte_flight (f : Rte → Rte) : (d.modRte f).flight = d.flight := rfl
@[simp] theorem Dev.modRte_nextFlight (f : Rte → Rte) : (d.modRte f).nextFlight = d.nextFlight := rfl
@[simp] theorem Dev.modRte_sync (f : Rte → Rte) : (d.modRte f).sync = d.sync := rfl
@[simp] theorem Dev.modRte_eng (f : Rte → Rte) : (d.modRte f).eng = d.eng := rfl
@[simp] theorem Dev.modRte_gens (f : Rte → Rte) : (d.modRte f).gens = d.gens := rfl
@[simp] theorem Dev.modRte_str (f : Rte → Rte) : (d.modRte f).str = d.str := rfl
@[simp] theorem Dev.modRte_time (f : Rte → Rte) : (d.modRte f).time = d.time := rfl
@[simp] theorem Dev.modRte_outq (f : Rte → Rte) : (d.modRte f).outq = d.outq := rfl
@[simp] theorem Dev.modRte_lnk (f : Rte → Rte) : (d.modRte f).lnk = d.lnk := rfl
@[simp] theorem Dev.modRte_eth (f : Rte → Rte) : (d.modRte f).eth = d.eth := rfl
@[simp] theorem Dev.modRte_hostMem (f : Rte → Rte) : (d.modRte f).hostMem = d.hostMem := rfl
@[simp] theorem Dev.modRte_out (f : Rte → Rte) : (d.modRte f).out = d.out := rfl
@[simp] theorem Dev.modRte_cclk (f : Rte → Rte) : (d.modRte f).cclk = d.cclk := rfl
@[simp] theorem Dev.modRte_free (f : Rte → Rte) : (d.modRte f).free = d.free := rfl

@[simp] theorem Dev.modKeep_regs (f : Keeper → Keeper) : (d.modKeep f).regs = d.regs := rfl
@[simp] theorem Dev.modKeep_pwr (f : Keeper → Keeper) : (d.modKeep f).pwr = d.pwr := rfl
@[simp] theorem Dev.modKeep_mmc (f : Keeper → Keeper) : (d.modKeep f).mmc = d.mmc := rfl
@[simp] theorem Dev.modKeep_own (f : Keeper → Keeper) : (d.modKeep f).own = d.own := rfl
@[simp] theorem Dev.modKeep_host (f : Keeper → Keeper) : (d.modKeep f).host = d.host := rfl
@[simp] theorem Dev.modKeep_ctx (f : Keeper → Keeper) : (d.modKeep f).ctx = d.ctx := rfl
@[simp] theorem Dev.modKeep_thr (f : Keeper → Keeper) : (d.modKeep f).thr = d.thr := rfl
@[simp] theorem Dev.modKeep_que (f : Keeper → Keeper) : (d.modKeep f).que = d.que := rfl
@[simp] theorem Dev.modKeep_past (f : Keeper → Keeper) : (d.modKeep f).past = d.past := rfl
@[simp] theorem Dev.modKeep_core (f : Keeper → Keeper) : (d.modKeep f).core = d.core := rfl
@[simp] theorem Dev.modKeep_regn (f : Keeper → Keeper) : (d.modKeep f).regn = d.regn := rfl
@[simp] theorem Dev.modKeep_slotCnt (f : Keeper → Keeper) : (d.modKeep f).slotCnt = d.slotCnt := rfl
@[simp] theorem Dev.modKeep_full (f : Keeper → Keeper) : (d.modKeep f).full = d.full := rfl
@[simp] theorem Dev.modKeep_flight (f : Keeper → Keeper) : (d.modKeep f).flight = d.flight := rfl
@[simp] theorem Dev.modKeep_nextFlight (f : Keeper → Keeper) : (d.modKeep f).nextFlight = d.nextFlight := rfl
@[simp] theorem Dev.modKeep_sync (f : Keeper → Keeper) : (d.modKeep f).sync = d.sync := rfl
@[simp] theorem Dev.modKeep_eng (f : Keeper → Keeper) : (d.modKeep f).eng = d.eng := rfl
@[simp] theorem Dev.modKeep_gens (f : Keeper → Keeper) : (d.modKeep f).gens = d.gens := rfl
@[simp] theorem Dev.modKeep_str (f : Keeper → Keeper) : (d.modKeep f).str = d.str := rfl
@[simp] theorem Dev.modKeep_time (f : Keeper → Keeper) : (d.modKeep f).time = d.time := rfl
@[simp] theorem Dev.modKeep_outq (f : Keeper → Keeper) : (d.modKeep f).outq = d.outq := rfl
@[simp] theorem Dev.modKeep_lnk (f : Keeper → Keeper) : (d.modKeep f).lnk = d.lnk := rfl
@[simp] theorem Dev.modKeep_rte (f : Keeper → Keeper) : (d.modKeep f).rte = d.rte := rfl
@[simp] theorem Dev.modKeep_eth (f : Keeper → Keeper) : (d.modKeep f).eth = d.eth := rfl
@[simp] theorem Dev.modKeep_hostMem (f : Keeper → Keeper) : (d.modKeep f).hostMem = d.hostMem := rfl
@[simp] theorem Dev.modKeep_out (f : Keeper → Keeper) : (d.modKeep f).out = d.out := rfl
@[simp] theorem Dev.modKeep_cclk (f : Keeper → Keeper) : (d.modKeep f).cclk = d.cclk := rfl
@[simp] theorem Dev.modKeep_free (f : Keeper → Keeper) : (d.modKeep f).free = d.free := rfl

@[simp] theorem Dev.modUnit_regs (g : Nat) (f : UnitRec → UnitRec) : (d.modUnit g f).regs = d.regs := rfl
@[simp] theorem Dev.modUnit_pwr (g : Nat) (f : UnitRec → UnitRec) : (d.modUnit g f).pwr = d.pwr := rfl
@[simp] theorem Dev.modUnit_keep (g : Nat) (f : UnitRec → UnitRec) : (d.modUnit g f).keep = d.keep := rfl
@[simp] theorem Dev.modUnit_own (g : Nat) (f : UnitRec → UnitRec) : (d.modUnit g f).own = d.own := rfl
@[simp] theorem Dev.modUnit_host (g : Nat) (f : UnitRec → UnitRec) : (d.modUnit g f).host = d.host := rfl
@[simp] theorem Dev.modUnit_ctx (g : Nat) (f : UnitRec → UnitRec) : (d.modUnit g f).ctx = d.ctx := rfl
@[simp] theorem Dev.modUnit_thr (g : Nat) (f : UnitRec → UnitRec) : (d.modUnit g f).thr = d.thr := rfl
@[simp] theorem Dev.modUnit_que (g : Nat) (f : UnitRec → UnitRec) : (d.modUnit g f).que = d.que := rfl
@[simp] theorem Dev.modUnit_past (g : Nat) (f : UnitRec → UnitRec) : (d.modUnit g f).past = d.past := rfl
@[simp] theorem Dev.modUnit_core (g : Nat) (f : UnitRec → UnitRec) : (d.modUnit g f).core = d.core := rfl
@[simp] theorem Dev.modUnit_regn (g : Nat) (f : UnitRec → UnitRec) : (d.modUnit g f).regn = d.regn := rfl
@[simp] theorem Dev.modUnit_slotCnt (g : Nat) (f : UnitRec → UnitRec) : (d.modUnit g f).slotCnt = d.slotCnt := rfl
@[simp] theorem Dev.modUnit_full (g : Nat) (f : UnitRec → UnitRec) : (d.modUnit g f).full = d.full := rfl
@[simp] theorem Dev.modUnit_flight (g : Nat) (f : UnitRec → UnitRec) : (d.modUnit g f).flight = d.flight := rfl
@[simp] theorem Dev.modUnit_nextFlight (g : Nat) (f : UnitRec → UnitRec) : (d.modUnit g f).nextFlight = d.nextFlight := rfl
@[simp] theorem Dev.modUnit_sync (g : Nat) (f : UnitRec → UnitRec) : (d.modUnit g f).sync = d.sync := rfl
@[simp] theorem Dev.modUnit_eng (g : Nat) (f : UnitRec → UnitRec) : (d.modUnit g f).eng = d.eng := rfl
@[simp] theorem Dev.modUnit_gens (g : Nat) (f : UnitRec → UnitRec) : (d.modUnit g f).gens = d.gens := rfl
@[simp] theorem Dev.modUnit_str (g : Nat) (f : UnitRec → UnitRec) : (d.modUnit g f).str = d.str := rfl
@[simp] theorem Dev.modUnit_time (g : Nat) (f : UnitRec → UnitRec) : (d.modUnit g f).time = d.time := rfl
@[simp] theorem Dev.modUnit_outq (g : Nat) (f : UnitRec → UnitRec) : (d.modUnit g f).outq = d.outq := rfl
@[simp] theorem Dev.modUnit_lnk (g : Nat) (f : UnitRec → UnitRec) : (d.modUnit g f).lnk = d.lnk := rfl
@[simp] theorem Dev.modUnit_rte (g : Nat) (f : UnitRec → UnitRec) : (d.modUnit g f).rte = d.rte := rfl
@[simp] theorem Dev.modUnit_eth (g : Nat) (f : UnitRec → UnitRec) : (d.modUnit g f).eth = d.eth := rfl
@[simp] theorem Dev.modUnit_hostMem (g : Nat) (f : UnitRec → UnitRec) : (d.modUnit g f).hostMem = d.hostMem := rfl
@[simp] theorem Dev.modUnit_out (g : Nat) (f : UnitRec → UnitRec) : (d.modUnit g f).out = d.out := rfl
@[simp] theorem Dev.modUnit_cclk (g : Nat) (f : UnitRec → UnitRec) : (d.modUnit g f).cclk = d.cclk := rfl
@[simp] theorem Dev.modUnit_free (g : Nat) (f : UnitRec → UnitRec) : (d.modUnit g f).free = d.free := rfl

@[simp] theorem Dev.modDom_regs (x : Nat) (f : DomRec → DomRec) : (d.modDom x f).regs = d.regs := rfl
@[simp] theorem Dev.modDom_mmc (x : Nat) (f : DomRec → DomRec) : (d.modDom x f).mmc = d.mmc := rfl
@[simp] theorem Dev.modDom_keep (x : Nat) (f : DomRec → DomRec) : (d.modDom x f).keep = d.keep := rfl
@[simp] theorem Dev.modDom_own (x : Nat) (f : DomRec → DomRec) : (d.modDom x f).own = d.own := rfl
@[simp] theorem Dev.modDom_host (x : Nat) (f : DomRec → DomRec) : (d.modDom x f).host = d.host := rfl
@[simp] theorem Dev.modDom_ctx (x : Nat) (f : DomRec → DomRec) : (d.modDom x f).ctx = d.ctx := rfl
@[simp] theorem Dev.modDom_thr (x : Nat) (f : DomRec → DomRec) : (d.modDom x f).thr = d.thr := rfl
@[simp] theorem Dev.modDom_que (x : Nat) (f : DomRec → DomRec) : (d.modDom x f).que = d.que := rfl
@[simp] theorem Dev.modDom_past (x : Nat) (f : DomRec → DomRec) : (d.modDom x f).past = d.past := rfl
@[simp] theorem Dev.modDom_core (x : Nat) (f : DomRec → DomRec) : (d.modDom x f).core = d.core := rfl
@[simp] theorem Dev.modDom_regn (x : Nat) (f : DomRec → DomRec) : (d.modDom x f).regn = d.regn := rfl
@[simp] theorem Dev.modDom_slotCnt (x : Nat) (f : DomRec → DomRec) : (d.modDom x f).slotCnt = d.slotCnt := rfl
@[simp] theorem Dev.modDom_full (x : Nat) (f : DomRec → DomRec) : (d.modDom x f).full = d.full := rfl
@[simp] theorem Dev.modDom_flight (x : Nat) (f : DomRec → DomRec) : (d.modDom x f).flight = d.flight := rfl
@[simp] theorem Dev.modDom_nextFlight (x : Nat) (f : DomRec → DomRec) : (d.modDom x f).nextFlight = d.nextFlight := rfl
@[simp] theorem Dev.modDom_sync (x : Nat) (f : DomRec → DomRec) : (d.modDom x f).sync = d.sync := rfl
@[simp] theorem Dev.modDom_eng (x : Nat) (f : DomRec → DomRec) : (d.modDom x f).eng = d.eng := rfl
@[simp] theorem Dev.modDom_gens (x : Nat) (f : DomRec → DomRec) : (d.modDom x f).gens = d.gens := rfl
@[simp] theorem Dev.modDom_str (x : Nat) (f : DomRec → DomRec) : (d.modDom x f).str = d.str := rfl
@[simp] theorem Dev.modDom_time (x : Nat) (f : DomRec → DomRec) : (d.modDom x f).time = d.time := rfl
@[simp] theorem Dev.modDom_outq (x : Nat) (f : DomRec → DomRec) : (d.modDom x f).outq = d.outq := rfl
@[simp] theorem Dev.modDom_lnk (x : Nat) (f : DomRec → DomRec) : (d.modDom x f).lnk = d.lnk := rfl
@[simp] theorem Dev.modDom_rte (x : Nat) (f : DomRec → DomRec) : (d.modDom x f).rte = d.rte := rfl
@[simp] theorem Dev.modDom_eth (x : Nat) (f : DomRec → DomRec) : (d.modDom x f).eth = d.eth := rfl
@[simp] theorem Dev.modDom_hostMem (x : Nat) (f : DomRec → DomRec) : (d.modDom x f).hostMem = d.hostMem := rfl
@[simp] theorem Dev.modDom_out (x : Nat) (f : DomRec → DomRec) : (d.modDom x f).out = d.out := rfl
@[simp] theorem Dev.modDom_cclk (x : Nat) (f : DomRec → DomRec) : (d.modDom x f).cclk = d.cclk := rfl
@[simp] theorem Dev.modDom_free (x : Nat) (f : DomRec → DomRec) : (d.modDom x f).free = d.free := rfl

@[simp] theorem Dev.withOwn_regs (o : Own) : (d.withOwn o).regs = d.regs := rfl
@[simp] theorem Dev.withOwn_pwr (o : Own) : (d.withOwn o).pwr = d.pwr := rfl
@[simp] theorem Dev.withOwn_mmc (o : Own) : (d.withOwn o).mmc = d.mmc := rfl
@[simp] theorem Dev.withOwn_keep (o : Own) : (d.withOwn o).keep = d.keep := rfl
@[simp] theorem Dev.withOwn_host (o : Own) : (d.withOwn o).host = d.host := rfl
@[simp] theorem Dev.withOwn_ctx (o : Own) : (d.withOwn o).ctx = d.ctx := rfl
@[simp] theorem Dev.withOwn_thr (o : Own) : (d.withOwn o).thr = d.thr := rfl
@[simp] theorem Dev.withOwn_que (o : Own) : (d.withOwn o).que = d.que := rfl
@[simp] theorem Dev.withOwn_past (o : Own) : (d.withOwn o).past = d.past := rfl
@[simp] theorem Dev.withOwn_core (o : Own) : (d.withOwn o).core = d.core := rfl
@[simp] theorem Dev.withOwn_regn (o : Own) : (d.withOwn o).regn = d.regn := rfl
@[simp] theorem Dev.withOwn_slotCnt (o : Own) : (d.withOwn o).slotCnt = d.slotCnt := rfl
@[simp] theorem Dev.withOwn_full (o : Own) : (d.withOwn o).full = d.full := rfl
@[simp] theorem Dev.withOwn_flight (o : Own) : (d.withOwn o).flight = d.flight := rfl
@[simp] theorem Dev.withOwn_nextFlight (o : Own) : (d.withOwn o).nextFlight = d.nextFlight := rfl
@[simp] theorem Dev.withOwn_sync (o : Own) : (d.withOwn o).sync = d.sync := rfl
@[simp] theorem Dev.withOwn_eng (o : Own) : (d.withOwn o).eng = d.eng := rfl
@[simp] theorem Dev.withOwn_gens (o : Own) : (d.withOwn o).gens = d.gens := rfl
@[simp] theorem Dev.withOwn_str (o : Own) : (d.withOwn o).str = d.str := rfl
@[simp] theorem Dev.withOwn_time (o : Own) : (d.withOwn o).time = d.time := rfl
@[simp] theorem Dev.withOwn_outq (o : Own) : (d.withOwn o).outq = d.outq := rfl
@[simp] theorem Dev.withOwn_lnk (o : Own) : (d.withOwn o).lnk = d.lnk := rfl
@[simp] theorem Dev.withOwn_rte (o : Own) : (d.withOwn o).rte = d.rte := rfl
@[simp] theorem Dev.withOwn_eth (o : Own) : (d.withOwn o).eth = d.eth := rfl
@[simp] theorem Dev.withOwn_hostMem (o : Own) : (d.withOwn o).hostMem = d.hostMem := rfl
@[simp] theorem Dev.withOwn_out (o : Own) : (d.withOwn o).out = d.out := rfl
@[simp] theorem Dev.withOwn_cclk (o : Own) : (d.withOwn o).cclk = d.cclk := rfl
@[simp] theorem Dev.withOwn_free (o : Own) : (d.withOwn o).free = d.free := rfl

@[simp] theorem Dev.putSq_regs (r : HostRing) (x : SqRec) : (d.putSq r x).regs = d.regs := rfl
@[simp] theorem Dev.putSq_pwr (r : HostRing) (x : SqRec) : (d.putSq r x).pwr = d.pwr := rfl
@[simp] theorem Dev.putSq_mmc (r : HostRing) (x : SqRec) : (d.putSq r x).mmc = d.mmc := rfl
@[simp] theorem Dev.putSq_keep (r : HostRing) (x : SqRec) : (d.putSq r x).keep = d.keep := rfl
@[simp] theorem Dev.putSq_own (r : HostRing) (x : SqRec) : (d.putSq r x).own = d.own := rfl
@[simp] theorem Dev.putSq_ctx (r : HostRing) (x : SqRec) : (d.putSq r x).ctx = d.ctx := rfl
@[simp] theorem Dev.putSq_thr (r : HostRing) (x : SqRec) : (d.putSq r x).thr = d.thr := rfl
@[simp] theorem Dev.putSq_que (r : HostRing) (x : SqRec) : (d.putSq r x).que = d.que := rfl
@[simp] theorem Dev.putSq_past (r : HostRing) (x : SqRec) : (d.putSq r x).past = d.past := rfl
@[simp] theorem Dev.putSq_core (r : HostRing) (x : SqRec) : (d.putSq r x).core = d.core := rfl
@[simp] theorem Dev.putSq_regn (r : HostRing) (x : SqRec) : (d.putSq r x).regn = d.regn := rfl
@[simp] theorem Dev.putSq_slotCnt (r : HostRing) (x : SqRec) : (d.putSq r x).slotCnt = d.slotCnt := rfl
@[simp] theorem Dev.putSq_full (r : HostRing) (x : SqRec) : (d.putSq r x).full = d.full := rfl
@[simp] theorem Dev.putSq_flight (r : HostRing) (x : SqRec) : (d.putSq r x).flight = d.flight := rfl
@[simp] theorem Dev.putSq_nextFlight (r : HostRing) (x : SqRec) : (d.putSq r x).nextFlight = d.nextFlight := rfl
@[simp] theorem Dev.putSq_sync (r : HostRing) (x : SqRec) : (d.putSq r x).sync = d.sync := rfl
@[simp] theorem Dev.putSq_eng (r : HostRing) (x : SqRec) : (d.putSq r x).eng = d.eng := rfl
@[simp] theorem Dev.putSq_gens (r : HostRing) (x : SqRec) : (d.putSq r x).gens = d.gens := rfl
@[simp] theorem Dev.putSq_str (r : HostRing) (x : SqRec) : (d.putSq r x).str = d.str := rfl
@[simp] theorem Dev.putSq_time (r : HostRing) (x : SqRec) : (d.putSq r x).time = d.time := rfl
@[simp] theorem Dev.putSq_outq (r : HostRing) (x : SqRec) : (d.putSq r x).outq = d.outq := rfl
@[simp] theorem Dev.putSq_lnk (r : HostRing) (x : SqRec) : (d.putSq r x).lnk = d.lnk := rfl
@[simp] theorem Dev.putSq_rte (r : HostRing) (x : SqRec) : (d.putSq r x).rte = d.rte := rfl
@[simp] theorem Dev.putSq_eth (r : HostRing) (x : SqRec) : (d.putSq r x).eth = d.eth := rfl
@[simp] theorem Dev.putSq_hostMem (r : HostRing) (x : SqRec) : (d.putSq r x).hostMem = d.hostMem := rfl
@[simp] theorem Dev.putSq_out (r : HostRing) (x : SqRec) : (d.putSq r x).out = d.out := rfl
@[simp] theorem Dev.putSq_cclk (r : HostRing) (x : SqRec) : (d.putSq r x).cclk = d.cclk := rfl
@[simp] theorem Dev.putSq_free (r : HostRing) (x : SqRec) : (d.putSq r x).free = d.free := rfl

@[simp] theorem Dev.modCq_regs (q : CqRef) (f : CqRec → CqRec) : (d.modCq q f).regs = d.regs := rfl
@[simp] theorem Dev.modCq_pwr (q : CqRef) (f : CqRec → CqRec) : (d.modCq q f).pwr = d.pwr := rfl
@[simp] theorem Dev.modCq_mmc (q : CqRef) (f : CqRec → CqRec) : (d.modCq q f).mmc = d.mmc := rfl
@[simp] theorem Dev.modCq_keep (q : CqRef) (f : CqRec → CqRec) : (d.modCq q f).keep = d.keep := rfl
@[simp] theorem Dev.modCq_own (q : CqRef) (f : CqRec → CqRec) : (d.modCq q f).own = d.own := rfl
@[simp] theorem Dev.modCq_ctx (q : CqRef) (f : CqRec → CqRec) : (d.modCq q f).ctx = d.ctx := rfl
@[simp] theorem Dev.modCq_thr (q : CqRef) (f : CqRec → CqRec) : (d.modCq q f).thr = d.thr := rfl
@[simp] theorem Dev.modCq_que (q : CqRef) (f : CqRec → CqRec) : (d.modCq q f).que = d.que := rfl
@[simp] theorem Dev.modCq_past (q : CqRef) (f : CqRec → CqRec) : (d.modCq q f).past = d.past := rfl
@[simp] theorem Dev.modCq_core (q : CqRef) (f : CqRec → CqRec) : (d.modCq q f).core = d.core := rfl
@[simp] theorem Dev.modCq_regn (q : CqRef) (f : CqRec → CqRec) : (d.modCq q f).regn = d.regn := rfl
@[simp] theorem Dev.modCq_slotCnt (q : CqRef) (f : CqRec → CqRec) : (d.modCq q f).slotCnt = d.slotCnt := rfl
@[simp] theorem Dev.modCq_full (q : CqRef) (f : CqRec → CqRec) : (d.modCq q f).full = d.full := rfl
@[simp] theorem Dev.modCq_flight (q : CqRef) (f : CqRec → CqRec) : (d.modCq q f).flight = d.flight := rfl
@[simp] theorem Dev.modCq_nextFlight (q : CqRef) (f : CqRec → CqRec) : (d.modCq q f).nextFlight = d.nextFlight := rfl
@[simp] theorem Dev.modCq_sync (q : CqRef) (f : CqRec → CqRec) : (d.modCq q f).sync = d.sync := rfl
@[simp] theorem Dev.modCq_eng (q : CqRef) (f : CqRec → CqRec) : (d.modCq q f).eng = d.eng := rfl
@[simp] theorem Dev.modCq_gens (q : CqRef) (f : CqRec → CqRec) : (d.modCq q f).gens = d.gens := rfl
@[simp] theorem Dev.modCq_str (q : CqRef) (f : CqRec → CqRec) : (d.modCq q f).str = d.str := rfl
@[simp] theorem Dev.modCq_time (q : CqRef) (f : CqRec → CqRec) : (d.modCq q f).time = d.time := rfl
@[simp] theorem Dev.modCq_outq (q : CqRef) (f : CqRec → CqRec) : (d.modCq q f).outq = d.outq := rfl
@[simp] theorem Dev.modCq_lnk (q : CqRef) (f : CqRec → CqRec) : (d.modCq q f).lnk = d.lnk := rfl
@[simp] theorem Dev.modCq_rte (q : CqRef) (f : CqRec → CqRec) : (d.modCq q f).rte = d.rte := rfl
@[simp] theorem Dev.modCq_eth (q : CqRef) (f : CqRec → CqRec) : (d.modCq q f).eth = d.eth := rfl
@[simp] theorem Dev.modCq_hostMem (q : CqRef) (f : CqRec → CqRec) : (d.modCq q f).hostMem = d.hostMem := rfl
@[simp] theorem Dev.modCq_out (q : CqRef) (f : CqRec → CqRec) : (d.modCq q f).out = d.out := rfl
@[simp] theorem Dev.modCq_cclk (q : CqRef) (f : CqRec → CqRec) : (d.modCq q f).cclk = d.cclk := rfl
@[simp] theorem Dev.modCq_free (q : CqRef) (f : CqRec → CqRec) : (d.modCq q f).free = d.free := rfl

@[simp] theorem Dev.hostWrite_regs (a : Nat) (bs : Bytes) : (d.hostWrite a bs).regs = d.regs := rfl
@[simp] theorem Dev.hostWrite_pwr (a : Nat) (bs : Bytes) : (d.hostWrite a bs).pwr = d.pwr := rfl
@[simp] theorem Dev.hostWrite_mmc (a : Nat) (bs : Bytes) : (d.hostWrite a bs).mmc = d.mmc := rfl
@[simp] theorem Dev.hostWrite_keep (a : Nat) (bs : Bytes) : (d.hostWrite a bs).keep = d.keep := rfl
@[simp] theorem Dev.hostWrite_own (a : Nat) (bs : Bytes) : (d.hostWrite a bs).own = d.own := rfl
@[simp] theorem Dev.hostWrite_host (a : Nat) (bs : Bytes) : (d.hostWrite a bs).host = d.host := rfl
@[simp] theorem Dev.hostWrite_ctx (a : Nat) (bs : Bytes) : (d.hostWrite a bs).ctx = d.ctx := rfl
@[simp] theorem Dev.hostWrite_thr (a : Nat) (bs : Bytes) : (d.hostWrite a bs).thr = d.thr := rfl
@[simp] theorem Dev.hostWrite_que (a : Nat) (bs : Bytes) : (d.hostWrite a bs).que = d.que := rfl
@[simp] theorem Dev.hostWrite_past (a : Nat) (bs : Bytes) : (d.hostWrite a bs).past = d.past := rfl
@[simp] theorem Dev.hostWrite_core (a : Nat) (bs : Bytes) : (d.hostWrite a bs).core = d.core := rfl
@[simp] theorem Dev.hostWrite_regn (a : Nat) (bs : Bytes) : (d.hostWrite a bs).regn = d.regn := rfl
@[simp] theorem Dev.hostWrite_slotCnt (a : Nat) (bs : Bytes) : (d.hostWrite a bs).slotCnt = d.slotCnt := rfl
@[simp] theorem Dev.hostWrite_full (a : Nat) (bs : Bytes) : (d.hostWrite a bs).full = d.full := rfl
@[simp] theorem Dev.hostWrite_flight (a : Nat) (bs : Bytes) : (d.hostWrite a bs).flight = d.flight := rfl
@[simp] theorem Dev.hostWrite_nextFlight (a : Nat) (bs : Bytes) : (d.hostWrite a bs).nextFlight = d.nextFlight := rfl
@[simp] theorem Dev.hostWrite_sync (a : Nat) (bs : Bytes) : (d.hostWrite a bs).sync = d.sync := rfl
@[simp] theorem Dev.hostWrite_eng (a : Nat) (bs : Bytes) : (d.hostWrite a bs).eng = d.eng := rfl
@[simp] theorem Dev.hostWrite_gens (a : Nat) (bs : Bytes) : (d.hostWrite a bs).gens = d.gens := rfl
@[simp] theorem Dev.hostWrite_str (a : Nat) (bs : Bytes) : (d.hostWrite a bs).str = d.str := rfl
@[simp] theorem Dev.hostWrite_time (a : Nat) (bs : Bytes) : (d.hostWrite a bs).time = d.time := rfl
@[simp] theorem Dev.hostWrite_outq (a : Nat) (bs : Bytes) : (d.hostWrite a bs).outq = d.outq := rfl
@[simp] theorem Dev.hostWrite_lnk (a : Nat) (bs : Bytes) : (d.hostWrite a bs).lnk = d.lnk := rfl
@[simp] theorem Dev.hostWrite_rte (a : Nat) (bs : Bytes) : (d.hostWrite a bs).rte = d.rte := rfl
@[simp] theorem Dev.hostWrite_eth (a : Nat) (bs : Bytes) : (d.hostWrite a bs).eth = d.eth := rfl
@[simp] theorem Dev.hostWrite_out (a : Nat) (bs : Bytes) : (d.hostWrite a bs).out = d.out := rfl
@[simp] theorem Dev.hostWrite_cclk (a : Nat) (bs : Bytes) : (d.hostWrite a bs).cclk = d.cclk := rfl
@[simp] theorem Dev.hostWrite_free (a : Nat) (bs : Bytes) : (d.hostWrite a bs).free = d.free := rfl

@[simp] theorem Dev.modPast_regs (c q : Nat) (f : List Past → List Past) : (d.modPast c q f).regs = d.regs := rfl
@[simp] theorem Dev.modPast_pwr (c q : Nat) (f : List Past → List Past) : (d.modPast c q f).pwr = d.pwr := rfl
@[simp] theorem Dev.modPast_mmc (c q : Nat) (f : List Past → List Past) : (d.modPast c q f).mmc = d.mmc := rfl
@[simp] theorem Dev.modPast_keep (c q : Nat) (f : List Past → List Past) : (d.modPast c q f).keep = d.keep := rfl
@[simp] theorem Dev.modPast_own (c q : Nat) (f : List Past → List Past) : (d.modPast c q f).own = d.own := rfl
@[simp] theorem Dev.modPast_host (c q : Nat) (f : List Past → List Past) : (d.modPast c q f).host = d.host := rfl
@[simp] theorem Dev.modPast_ctx (c q : Nat) (f : List Past → List Past) : (d.modPast c q f).ctx = d.ctx := rfl
@[simp] theorem Dev.modPast_thr (c q : Nat) (f : List Past → List Past) : (d.modPast c q f).thr = d.thr := rfl
@[simp] theorem Dev.modPast_que (c q : Nat) (f : List Past → List Past) : (d.modPast c q f).que = d.que := rfl
@[simp] theorem Dev.modPast_core (c q : Nat) (f : List Past → List Past) : (d.modPast c q f).core = d.core := rfl
@[simp] theorem Dev.modPast_regn (c q : Nat) (f : List Past → List Past) : (d.modPast c q f).regn = d.regn := rfl
@[simp] theorem Dev.modPast_slotCnt (c q : Nat) (f : List Past → List Past) : (d.modPast c q f).slotCnt = d.slotCnt := rfl
@[simp] theorem Dev.modPast_full (c q : Nat) (f : List Past → List Past) : (d.modPast c q f).full = d.full := rfl
@[simp] theorem Dev.modPast_flight (c q : Nat) (f : List Past → List Past) : (d.modPast c q f).flight = d.flight := rfl
@[simp] theorem Dev.modPast_nextFlight (c q : Nat) (f : List Past → List Past) : (d.modPast c q f).nextFlight = d.nextFlight := rfl
@[simp] theorem Dev.modPast_sync (c q : Nat) (f : List Past → List Past) : (d.modPast c q f).sync = d.sync := rfl
@[simp] theorem Dev.modPast_eng (c q : Nat) (f : List Past → List Past) : (d.modPast c q f).eng = d.eng := rfl
@[simp] theorem Dev.modPast_gens (c q : Nat) (f : List Past → List Past) : (d.modPast c q f).gens = d.gens := rfl
@[simp] theorem Dev.modPast_str (c q : Nat) (f : List Past → List Past) : (d.modPast c q f).str = d.str := rfl
@[simp] theorem Dev.modPast_time (c q : Nat) (f : List Past → List Past) : (d.modPast c q f).time = d.time := rfl
@[simp] theorem Dev.modPast_outq (c q : Nat) (f : List Past → List Past) : (d.modPast c q f).outq = d.outq := rfl
@[simp] theorem Dev.modPast_lnk (c q : Nat) (f : List Past → List Past) : (d.modPast c q f).lnk = d.lnk := rfl
@[simp] theorem Dev.modPast_rte (c q : Nat) (f : List Past → List Past) : (d.modPast c q f).rte = d.rte := rfl
@[simp] theorem Dev.modPast_eth (c q : Nat) (f : List Past → List Past) : (d.modPast c q f).eth = d.eth := rfl
@[simp] theorem Dev.modPast_hostMem (c q : Nat) (f : List Past → List Past) : (d.modPast c q f).hostMem = d.hostMem := rfl
@[simp] theorem Dev.modPast_out (c q : Nat) (f : List Past → List Past) : (d.modPast c q f).out = d.out := rfl
@[simp] theorem Dev.modPast_cclk (c q : Nat) (f : List Past → List Past) : (d.modPast c q f).cclk = d.cclk := rfl
@[simp] theorem Dev.modPast_free (c q : Nat) (f : List Past → List Past) : (d.modPast c q f).free = d.free := rfl

@[simp] theorem Dev.hand_regs (k : Nat) (os : List OutPkt) : (d.hand k os).regs = d.regs := rfl
@[simp] theorem Dev.hand_pwr (k : Nat) (os : List OutPkt) : (d.hand k os).pwr = d.pwr := rfl
@[simp] theorem Dev.hand_mmc (k : Nat) (os : List OutPkt) : (d.hand k os).mmc = d.mmc := rfl
@[simp] theorem Dev.hand_keep (k : Nat) (os : List OutPkt) : (d.hand k os).keep = d.keep := rfl
@[simp] theorem Dev.hand_own (k : Nat) (os : List OutPkt) : (d.hand k os).own = d.own := rfl
@[simp] theorem Dev.hand_host (k : Nat) (os : List OutPkt) : (d.hand k os).host = d.host := rfl
@[simp] theorem Dev.hand_ctx (k : Nat) (os : List OutPkt) : (d.hand k os).ctx = d.ctx := rfl
@[simp] theorem Dev.hand_thr (k : Nat) (os : List OutPkt) : (d.hand k os).thr = d.thr := rfl
@[simp] theorem Dev.hand_que (k : Nat) (os : List OutPkt) : (d.hand k os).que = d.que := rfl
@[simp] theorem Dev.hand_past (k : Nat) (os : List OutPkt) : (d.hand k os).past = d.past := rfl
@[simp] theorem Dev.hand_core (k : Nat) (os : List OutPkt) : (d.hand k os).core = d.core := rfl
@[simp] theorem Dev.hand_regn (k : Nat) (os : List OutPkt) : (d.hand k os).regn = d.regn := rfl
@[simp] theorem Dev.hand_slotCnt (k : Nat) (os : List OutPkt) : (d.hand k os).slotCnt = d.slotCnt := rfl
@[simp] theorem Dev.hand_full (k : Nat) (os : List OutPkt) : (d.hand k os).full = d.full := rfl
@[simp] theorem Dev.hand_flight (k : Nat) (os : List OutPkt) : (d.hand k os).flight = d.flight := rfl
@[simp] theorem Dev.hand_nextFlight (k : Nat) (os : List OutPkt) : (d.hand k os).nextFlight = d.nextFlight := rfl
@[simp] theorem Dev.hand_sync (k : Nat) (os : List OutPkt) : (d.hand k os).sync = d.sync := rfl
@[simp] theorem Dev.hand_eng (k : Nat) (os : List OutPkt) : (d.hand k os).eng = d.eng := rfl
@[simp] theorem Dev.hand_gens (k : Nat) (os : List OutPkt) : (d.hand k os).gens = d.gens := rfl
@[simp] theorem Dev.hand_str (k : Nat) (os : List OutPkt) : (d.hand k os).str = d.str := rfl
@[simp] theorem Dev.hand_time (k : Nat) (os : List OutPkt) : (d.hand k os).time = d.time := rfl
@[simp] theorem Dev.hand_lnk (k : Nat) (os : List OutPkt) : (d.hand k os).lnk = d.lnk := rfl
@[simp] theorem Dev.hand_rte (k : Nat) (os : List OutPkt) : (d.hand k os).rte = d.rte := rfl
@[simp] theorem Dev.hand_eth (k : Nat) (os : List OutPkt) : (d.hand k os).eth = d.eth := rfl
@[simp] theorem Dev.hand_hostMem (k : Nat) (os : List OutPkt) : (d.hand k os).hostMem = d.hostMem := rfl
@[simp] theorem Dev.hand_out (k : Nat) (os : List OutPkt) : (d.hand k os).out = d.out := rfl
@[simp] theorem Dev.hand_cclk (k : Nat) (os : List OutPkt) : (d.hand k os).cclk = d.cclk := rfl
@[simp] theorem Dev.hand_free (k : Nat) (os : List OutPkt) : (d.hand k os).free = d.free := rfl

@[simp] theorem State.run_pending (s : State) (a : Act) : (s.run a).pending = s.pending := rfl
@[simp] theorem State.run_dev (s : State) (a : Act) : (s.run a).dev = (a s.fuse s.mem s.dev).dev := rfl
@[simp] theorem State.run_mem (s : State) (a : Act) : (s.run a).mem = s.mem.apply (a s.fuse s.mem s.dev).mem := rfl
@[simp] theorem State.run_fuse (s : State) (a : Act) : (s.run a).fuse = s.fuse.apply (a s.fuse s.mem s.dev).fuse := rfl
@[simp] theorem Act.dev_apply (f : Dev → Dev) (x : Fuses) (m : Mem) (d : Dev) : Act.dev f x m d = { dev := f d } := rfl

end Sys2Proof.Machine
end

