-- ==== Sys2Proof/Laws/Reports.lean ====
section
/-! SUPPORT. What the module's reports can do: completions, events, error records and packets that it hands out change its rings,
its log, its outputs and their counts, and nothing else (R434 to R439, R527 to R529). -/

namespace Sys2Proof.Machine

open Sys2Proof.Laws

theorem regKey_ne {r r' : RegName} {i j : Nat} (hi : i < 1024) (hj : j < 1024) (h : r ≠ r') : regKey r i ≠ regKey r' j := by
  have : r.ctorIdx ≠ r'.ctorIdx := fun e => h (by rw [← RegName.ofNat_ctorIdx r, ← RegName.ofNat_ctorIdx r', e])
  unfold regKey; omega

theorem Dev.Reports.refl (d : Dev) : d.Reports d := by constructor <;> first | rfl | intros; rfl

theorem Dev.Reports.trans {a b c : Dev} (h : a.Reports b) (g : b.Reports c) : a.Reports c where
  own := g.own.trans h.own
  keep := g.keep.trans h.keep
  pwr := g.pwr.trans h.pwr
  thr := g.thr.trans h.thr
  que := g.que.trans h.que
  core := g.core.trans h.core
  regn := g.regn.trans h.regn
  slotCnt := g.slotCnt.trans h.slotCnt
  full := g.full.trans h.full
  flight := g.flight.trans h.flight
  nextFlight := g.nextFlight.trans h.nextFlight
  sync := g.sync.trans h.sync
  eng := g.eng.trans h.eng
  gens := g.gens.trans h.gens
  str := g.str.trans h.str
  time := g.time.trans h.time
  lnk := g.lnk.trans h.lnk
  rte := g.rte.trans h.rte
  eth := g.eth.trans h.eth
  cclk := g.cclk.trans h.cclk
  free := g.free.trans h.free
  ctx := fun c => (g.ctx c).trans (h.ctx c)
  mmc := g.mmc.trans h.mmc
  host := g.host.trans h.host
  regs := fun f i hi h1 h2 => (g.regs f i hi h1 h2).trans (h.regs f i hi h1 h2)

/-- A count of a report in HOST_CTX_STAT or MMC_LOG_SEL. -/
theorem Dev.Reports.put (d : Dev) (f : Fld) (v i : Nat) (hi : i < 1024) (hr : f.reg = .HOST_CTX_STAT ∨ f.reg = .MMC_LOG_SEL) :
    d.Reports (d.put f v i) := by
  constructor <;> first | rfl | (intro c; rfl) | skip
  intro g j hj h1 h2
  refine get_put_ne d f g v i j (regKey_ne hj hi ?_)
  rcases hr with h | h <;> rw [h] <;> assumption

theorem Dev.Reports.count (d : Dev) (f : Fld) (i n : Nat) (hi : i < 1024) (hr : f.reg = .HOST_CTX_STAT ∨ f.reg = .MMC_LOG_SEL) :
    d.Reports (d.count f i n) := Dev.Reports.put d f _ i hi hr

theorem Dev.Reports.modCtx (d : Dev) (c : CtxId) (f : Ctx → Ctx) (hf : ∀ x, (f x).uncounted = x.uncounted) :
    d.Reports (d.modCtx c f) := by
  constructor <;> first | rfl | (intros; rfl) | skip
  intro k
  by_cases h : k.val = c.val
  · simp only [Dev.ctxAt, Dev.modCtx, h, tblGet_mod_self, hf]
  · simp only [Dev.ctxAt, Dev.modCtx, tblGet_mod_ne h]

theorem Dev.Reports.emit (d : Dev) (o : Output) : d.Reports (d.emit o) := by constructor <;> first | rfl | (intros; rfl)
theorem Dev.Reports.hand (d : Dev) (k : Nat) (os : List OutPkt) : d.Reports (d.hand k os) := by
  constructor <;> first | rfl | (intros; rfl)
theorem Dev.Reports.hostWrite (d : Dev) (a : Nat) (bs : Bytes) : d.Reports (d.hostWrite a bs) := by
  constructor <;> first | rfl | (intros; rfl)
theorem Dev.Reports.modCq (d : Dev) (q : CqRef) (f : CqRec → CqRec) : d.Reports (d.modCq q f) := by
  constructor <;> first | rfl | (intros; rfl)
theorem Dev.Reports.dropFetched (d : Dev) (f : Fetched) : d.Reports (d.dropFetched f) := by
  constructor <;> first | rfl | (intros; rfl)
theorem Dev.Reports.putFetched (d : Dev) (f g : Fetched) : d.Reports (d.putFetched f g) := by
  constructor <;> first | rfl | (intros; rfl)
theorem Dev.Reports.owe (d : Dev) (x : Fetched) (a b c : Nat) : d.Reports (d.owe x a b c) := Dev.Reports.putFetched d _ _
theorem Dev.Reports.originate (d : Dev) (k : Nat) (p : Pkt) : d.Reports (d.originate k p) := Dev.Reports.hand d k _

theorem Dev.Reports.cqIrq (d : Dev) (q : CqRef) : d.Reports (d.cqIrq q) := by
  unfold Dev.cqIrq; split
  · exact (Dev.Reports.modCq d q _).trans (Dev.Reports.emit _ _)
  · exact Dev.Reports.refl d

theorem Dev.Reports.takeEventNo (d : Dev) (q : CqRef) : d.Reports (d.takeEventNo q).2 := by
  cases q with
  | adm => constructor <;> first | rfl | (intros; rfl)
  | ctx c => exact Dev.Reports.modCtx d c _ (fun _ => rfl)

theorem Dev.Reports.cqWrite (d : Dev) (q : CqRef) (it : CqItem) : d.Reports (d.cqWrite q it) := by
  unfold Dev.cqWrite Dev.cqSlot
  simp only
  split
  · exact ((((Dev.Reports.modCq d q _).trans (Dev.Reports.modCq _ q _)).trans (Dev.Reports.takeEventNo _ q)).trans (Dev.Reports.hostWrite _ _ _)).trans
      (Dev.Reports.hostWrite _ _ _)
  · exact (Dev.Reports.modCq d q _).trans (Dev.Reports.hostWrite _ _ _)

theorem Dev.Reports.cqDrain (q : CqRef) : ∀ (n : Nat) (d : Dev), d.Reports (Dev.cqDrain q n d)
  | 0, d => Dev.Reports.refl d
  | n + 1, d => by
    unfold Dev.cqDrain
    simp only
    split
    · exact Dev.Reports.refl d
    · split
      · split
        · exact Dev.Reports.refl d
        · exact ((Dev.Reports.modCq d q _).trans (Dev.Reports.cqWrite _ q _)).trans (Dev.Reports.cqDrain q n _)
      · split
        · exact Dev.Reports.refl d
        · split
          · exact Dev.Reports.refl d
          · exact ((Dev.Reports.modCq d q _).trans (Dev.Reports.cqWrite _ q _)).trans (Dev.Reports.cqDrain q n _)

theorem Dev.Reports.cqFlush (d : Dev) (q : CqRef) : d.Reports (d.cqFlush q) := (Dev.Reports.cqDrain q _ d).trans (Dev.Reports.cqIrq _ q)

theorem Dev.Reports.cqGive (d : Dev) (q : CqRef) (it : CqItem) : d.Reports (d.cqGive q it) := by
  unfold Dev.cqGive
  simp only
  split
  · exact (Dev.Reports.cqWrite d q it).trans (Dev.Reports.cqIrq _ q)
  · split
    · cases q with
      | adm =>
        exact (Dev.Reports.modCq d .adm (fun r => { r with lost := r.lost + 1 })).trans
          (by constructor <;> first | rfl | (intros; rfl))
      | ctx c =>
        exact ((Dev.Reports.modCq d (.ctx c) (fun r => { r with lost := r.lost + 1 })).trans
          (Dev.Reports.count _ _ _ _ (by omega) (.inl rfl))).trans (Dev.Reports.modCtx _ c _ (fun _ => rfl))
    · exact Dev.Reports.modCq d q _

theorem Dev.Reports.event (d : Dev) (c : CtxId) (ty : Nat) (b : Bytes) : d.Reports (d.event c ty b) := Dev.Reports.cqGive d _ _

theorem Dev.Reports.complete (d : Dev) (r : HostRing) (e : Bytes) (h c w a b : Nat) : d.Reports (d.complete r e h c w a b) := by
  unfold Dev.complete
  refine Dev.Reports.trans ?_ (Dev.Reports.cqGive _ _ _)
  cases r with
  | adm => constructor <;> first | rfl | (intros; rfl)
  | sq c i => exact Dev.Reports.modCtx d c _ (fun _ => rfl)

theorem Dev.Reports.finish (d : Dev) (f : Fetched) (c a b : Nat) : d.Reports (d.finish f c a b) :=
  (Dev.Reports.dropFetched d f).trans (Dev.Reports.complete _ _ _ _ _ _ _ _)

theorem Dev.Reports.finishOp (d : Dev) (c : CtxId) (op code : Nat) : d.Reports (d.finishOp c op code) := by
  unfold Dev.finishOp; split
  · exact Dev.Reports.refl d
  · exact Dev.Reports.finish d _ _ _ _

theorem Dev.Reports.finishAfterFill (d : Dev) (x : Fetched) (dirty : Bool) (c a b : Nat) : d.Reports (d.finishAfterFill x dirty c a b) := by
  unfold Dev.finishAfterFill; split
  · exact Dev.Reports.owe d x c a b
  · exact Dev.Reports.finish d x c a b

theorem Dev.Reports.mmcLog (d : Dev) (m : Mmc) (h : m.unlogged = d.mmc.unlogged) : d.Reports { d with mmc := m } := by
  constructor <;> first | rfl | (intros; rfl) | exact h

theorem Dev.Reports.addRecord (d : Dev) (e : ErrRec) : d.Reports (d.addRecord e) := by
  unfold Dev.addRecord
  split
  · exact Dev.Reports.mmcLog d _ rfl
  · simp only
    have h1 : d.Reports (if 1024 ≤ d.mmc.log.length then d.count MMC_LOG_SEL.OVERFLOW else d) := by
      split
      · exact Dev.Reports.count d _ _ _ (by decide) (.inr rfl)
      · exact Dev.Reports.refl d
    generalize (if 1024 ≤ d.mmc.log.length then d.count MMC_LOG_SEL.OVERFLOW else d) = x at h1 ⊢
    generalize (if 1024 ≤ x.mmc.log.length then x.mmc.log.drop 1 else x.mmc.log) = log
    split
    · refine h1.trans (((Dev.Reports.mmcLog x _ ?_).trans (Dev.Reports.emit _ _)).trans (Dev.Reports.emit _ _))
      rfl
    · refine (h1.trans (((Dev.Reports.mmcLog x _ ?_).trans (Dev.Reports.emit _ _)).trans (Dev.Reports.emit _ _))).trans
        (Dev.Reports.originate _ _ _)
      rfl

/-- Reporting an error. -/
theorem Dev.Reports.logError (d : Dev) (a b c e f g h : Nat) : d.Reports (d.logError a b c e f g h) := by
  unfold Dev.logError
  simp only
  split
  · split
    · exact Dev.Reports.mmcLog d _ rfl
    · exact Dev.Reports.refl d
  · exact Dev.Reports.addRecord d _

end Sys2Proof.Machine
end

