-- ==== Sys2Proof/Laws/HostRows.lean ====
section
/-! SUPPORT. What a host command's row does once the command starts (R432, R440). -/

namespace Sys2Proof.Machine

theorem hostRow_starts {d : Dev} {h : HostCmd} {op : Nat} {x : Fetched} (H : d.Starts h op x) (body : Fetched → Act) (f : Fuses)
    (m : Mem) : hostRow [op] h body f m d = body x.begin f m (d.begin x) := by
  simp [hostRow, H.up, H.next, H.op, H.alone, Dev.begin, Fetched.begin]

@[simp] theorem begin_ctxAt (d : Dev) (x : Fetched) (c : CtxId) : (d.begin x).ctxAt c = d.ctxAt c := rfl

theorem ctxRow_starts {d : Dev} {h : HostCmd} {op : Nat} {x : Fetched} {c : CtxId} {st : List CtxState} {us : List (Nat × Nat)}
    (H : d.StartsOn h op x c st us) (body : Fetched → CtxId → Ctx → Act) (f : Fuses) (m : Mem) :
    hostRow [op] h (fun y => ctxCommand st us y (body y)) f m d = body x.begin c (d.ctxAt c) f m (d.begin x) := by
  have hc : cmdCtx x.begin = some c := H.ctx
  have ha : argsClean x.begin.entry us = true := H.clean
  have hs : st.contains ((d.begin x).ctxAt c).state = true := H.state
  rw [hostRow_starts H.toStarts]
  simp only [ctxCommand, hc, ha, hs]
  rfl

end Sys2Proof.Machine
end

