-- ==== Sys2Proof/Laws/Contexts.lean ====
section
/-! SUPPORT. What the shared operations on contexts can do (R423, R445, R449, R507). -/

namespace Sys2Proof.Machine

open Sys2Proof.Laws

@[simp] theorem Dev.modCtx_at (d : Dev) (c : CtxId) (f : Ctx → Ctx) : (d.modCtx c f).ctxAt c = f (d.ctxAt c) := by
  simp [Dev.ctxAt, Dev.modCtx]

theorem Dev.modCtx_at_ne (d : Dev) {c k : CtxId} (f : Ctx → Ctx) (h : k ≠ c) : (d.modCtx c f).ctxAt k = d.ctxAt k :=
  tblGet_mod_ne (fun e => h (Fin.ext e))

/-- The module state follows the contexts: registers of lock-step and the module state are all that may change. -/
theorem Dev.settleModule_changes (d : Dev) : ∃ r st, d.settleModule = { d with regs := r, mmc := { d.mmc with state := st } } := by
  unfold Dev.settleModule Dev.put Dev.setReg
  simp only
  split <;> exact ⟨_, _, rfl⟩

@[simp] theorem Dev.settleModule_ctxAt (d : Dev) (c : CtxId) : (d.settleModule).ctxAt c = d.ctxAt c := by
  obtain ⟨r, st, e⟩ := d.settleModule_changes; rw [e]; rfl

@[simp] theorem Dev.settleModule_own (d : Dev) : (d.settleModule).own = d.own := by
  obtain ⟨r, st, e⟩ := d.settleModule_changes; rw [e]

@[simp] theorem Dev.settleModule_thr (d : Dev) : (d.settleModule).thr = d.thr := by
  obtain ⟨r, st, e⟩ := d.settleModule_changes; rw [e]

@[simp] theorem Dev.settleModule_host (d : Dev) : (d.settleModule).host = d.host := by
  obtain ⟨r, st, e⟩ := d.settleModule_changes; rw [e]

/-- Every command of a context completes ABORTED. -/
theorem Dev.Reports.abortAll (d : Dev) (c : CtxId) : d.Reports (d.abortAll c) := by
  unfold Dev.abortAll
  generalize d.host.fetched.filter _ = l
  induction l generalizing d with
  | nil => exact Dev.Reports.refl d
  | cons f l ih => exact (Dev.Reports.finish d f _ _ _).trans (ih _)

theorem Dev.Reports.killReport (d : Dev) (c : CtxId) : d.Reports (d.killReport c) := by
  unfold Dev.killReport
  refine Dev.Reports.trans (b := match (d.ctxAt c).killCmd with
    | some f => (d.abortAll c).complete f.ring f.entry f.sqHead 0 0 0 0
    | none => d.abortAll c) ?_ (Dev.Reports.event _ _ _ _)
  cases (d.ctxAt c).killCmd with
  | none => exact Dev.Reports.abortAll d c
  | some f => exact (Dev.Reports.abortAll d c).trans (Dev.Reports.complete _ _ _ _ _ _ _ _)

/-- Closing the rings of a context leaves ownership. -/
theorem Dev.closeRings_own (d : Dev) (c : CtxId) : (d.closeRings c).own = d.own := by
  have h : ∀ (l : List Nat) (d : Dev), (l.foldl (fun d i => d.put HOST_SQ_CFG.EN 0 (c.val * 8 + i)) d).own = d.own := by
    intro l; induction l with
    | nil => intro d; rfl
    | cons i l ih => intro d; rw [List.foldl_cons, ih, Dev.put_own]
  unfold Dev.closeRings
  exact ((Dev.modCq_own _ _ _).trans (Dev.put_own _ _ _ _)).trans (h _ d)

/-- A context that is killed stands in KILLING under its issuer, with the command that completes; its cores' SRAM and its
shared memory are cleared (R449). -/
theorem killAct_does (d : Dev) (m : Mem) (f : Fuses) (c : CtxId) (n : Nat) (x : Option Fetched) (h1 : (d.ctxAt c).state ≠ .free)
    (h2 : (d.ctxAt c).state ≠ .killing) :
    let r := killAct c n x f m d
    (r.dev.ctxAt c).state = .killing ∧ (r.dev.ctxAt c).issuer = n ∧ (r.dev.ctxAt c).killCmd = x ∧ r.fuse = [] ∧
    r.mem = (d.ctxAt c).cores.flatMap d.coreSram
      ++ ((d.own.unitsOf c).filter (shmUnit0 ≤ ·)).map (fun u => MemEff.clear (unitAddr u) (unitBytes u)) := by
  rcases x with _ | x <;>
  simp only [killAct, Dev.kill, h1, h2, decide_false, Bool.or_self, Bool.false_eq_true, if_false, Dev.settleModule_ctxAt,
    Dev.modCtx_at, true_and]; rfl

/-- A context whose kill is done is FREE and its units are free (R300, R449). -/
theorem Dev.killDone_does (d : Dev) (c : CtxId) : ((d.killDone c).ctxAt c).state = .free ∧ (d.killDone c).own = d.own.freeCtx c := by
  refine ⟨?_, ?_⟩
  · unfold Dev.killDone
    rw [Dev.settleModule_ctxAt, Dev.modCtx_at]; rfl
  · unfold Dev.killDone
    rw [Dev.settleModule_own, Dev.modCtx_own, Dev.closeRings_own, (Dev.Reports.killReport _ c).own]; rfl

/-- A completion leaves the rest of a context's record. -/
theorem Dev.finish_ctxAt (d : Dev) (x : Fetched) (code r0 r1 : Nat) (c : CtxId) :
    ((d.finish x code r0 r1).ctxAt c).uncounted = (d.ctxAt c).uncounted := (Dev.Reports.finish d x code r0 r1).ctx c

/-- A context's record after a change and an event. -/
theorem Dev.event_modCtx (d : Dev) (c : CtxId) (f : Ctx → Ctx) (ty : Nat) (b : Bytes) :
    (((d.modCtx c f).event c ty b).ctxAt c).uncounted = (f (d.ctxAt c)).uncounted := by
  rw [(Dev.Reports.event _ c ty b).ctx c, Dev.modCtx_at]

/-- A context that halts stands in HALTED, with no START and no HALT_AT_BEAT pending, and with its relative beat where it may
resume there (R444, R445). -/
theorem Dev.haltCtx_does (d : Dev) (c : CtxId) (r : Nat) :
    ((d.haltCtx c r).ctxAt c).state = .halted ∧ ((d.haltCtx c r).ctxAt c).startAt = none ∧ ((d.haltCtx c r).ctxAt c).haltAt = none
    ∧ ((d.haltCtx c r).ctxAt c).haltRbeat =
      if r = haltAtBeatReason || r = periodReason then some ((d.ctxAt c).relBeat d.time.beat) else none := by
  unfold Dev.haltCtx
  simp only [Dev.settleModule_ctxAt]
  refine ⟨?_, ?_, ?_, ?_⟩
  · exact congrArg Ctx.state (Dev.event_modCtx _ c _ _ _)
  · exact congrArg Ctx.startAt (Dev.event_modCtx _ c _ _ _)
  · exact congrArg Ctx.haltAt (Dev.event_modCtx _ c _ _ _)
  · exact congrArg Ctx.haltRbeat (Dev.event_modCtx _ c _ _ _)

/-- Threads that begin leave the contexts. -/
theorem Dev.startThreads_ctx (d : Dev) (c : CtxId) (r b : Nat) : (d.startThreads c r b).ctx = d.ctx := by
  have h1 : ∀ (x : Ctx) (k : Nat) (d : Dev), (d.startCore x k r b).ctx = d.ctx := by
    intro x k d
    unfold Dev.startCore
    cases x.coreEntry k with
    | none => rfl
    | some e =>
      simp only
      have h : ∀ (l : List Nat) (d : Dev), (l.foldl (fun d t => if bit e.enable t then
          { d with thr := tblSet Thread.init d.thr (k * 8 + t) (Thread.atEntry (e.entries.getD t 0) r b) } else d) d).ctx = d.ctx := by
        intro l
        induction l with
        | nil => intro d; rfl
        | cons t l ih => intro d; rw [List.foldl_cons, ih]; split <;> rfl
      exact h _ d
  have h2 : ∀ (x : Ctx) (l : List Nat) (d : Dev), (l.foldl (fun d k => d.startCore x k r b) d).ctx = d.ctx := by
    intro x l
    induction l with
    | nil => intro d; rfl
    | cons k l ih => intro d; rw [List.foldl_cons, ih, h1]
  exact h2 (d.ctxAt c) _ d

end Sys2Proof.Machine
end

