-- ==== Sys2Proof/Laws/Effects.lean ====
section
/-! SUPPORT. What an action can do to memory and fuses: its effects keep the canonical form of memory and never lower a
fuse (R198, R316, R484, R488, R500). -/

namespace Sys2Proof.Laws

open Sys2Proof.Machine

theorem memWf_iff {m : Mem} : m.wf = true ↔ tblWf 0 m.bytes = true ∧ tblWf false m.written = true ∧ tblWf false m.poison = true := by
  simp [Mem.wf, and_assoc]

/-- A fold keeps what each of its steps keeps. -/
theorem foldl_keeps {A B : Type} {P : B → Prop} {f : B → A → B} (hf : ∀ b a, P b → P (f b a)) :
    ∀ (as : List A) (b : B), P b → P (as.foldl f b)
  | [], _, h => h
  | a :: as, b, h => foldl_keeps hf as (f b a) (hf b a h)

theorem openLine_wf (m : Mem) (l : Nat) (h : m.wf = true) : (m.openLine l).wf = true := by
  rw [memWf_iff] at h ⊢
  unfold Mem.openLine; split
  · exact h
  · exact ⟨tblDrop_wf (p := fun k => lineOf k = l) h.1, tblSet_wf (k := l) (v := true) h.2.1, h.2.2⟩

theorem markLine_wf (a n : Nat) (p : Bool) (m : Mem) (l : Nat) (h : m.wf = true) : (m.markLine a n p l).wf = true := by
  rw [memWf_iff] at h ⊢
  unfold Mem.markLine; split
  · exact ⟨h.1, h.2.1, tblSet_wf (k := l) (v := true) h.2.2⟩
  · split
    · exact ⟨h.1, h.2.1, tblSet_wf (k := l) (v := false) h.2.2⟩
    · exact h

theorem write_wf (m : Mem) (a : Nat) (bs : Bytes) (p : Bool) (h : m.wf = true) : (m.write a bs p).wf = true := by
  unfold Mem.write
  refine foldl_keeps (P := fun m : Mem => m.wf = true) (fun b l hb => markLine_wf a bs.length p b l hb) _ _ ?_
  have ho := foldl_keeps (P := fun m : Mem => m.wf = true) openLine_wf (linesOf a bs.length) m h
  rw [memWf_iff] at ho ⊢
  exact ⟨tblSetList_wf ho.1, ho.2⟩

theorem eff_wf (m : Mem) (e : MemEff) (h : m.wf = true) : (m.eff e).wf = true := by
  cases e with
  | write a bs p => exact write_wf m a bs p h
  | clear a n =>
    rw [memWf_iff] at h ⊢
    let p := fun l => decide (lineOf a ≤ l) && decide (l < lineOf (a + n))
    exact ⟨tblDrop_wf (p := fun k => decide (a ≤ k) && decide (k < a + n)) h.1, tblDrop_wf (p := p) h.2.1, tblDrop_wf (p := p) h.2.2⟩
  | clearMarks a n =>
    rw [memWf_iff] at h ⊢
    let p := fun l => decide (lineOf a ≤ l) && decide (l < lineOf (a + n))
    exact ⟨h.1, tblDrop_wf (p := p) h.2.1, tblDrop_wf (p := p) h.2.2⟩
  | mark l => rw [memWf_iff] at h ⊢; exact ⟨h.1, h.2.1, tblSet_wf (k := l) (v := true) h.2.2⟩

/-- Effects keep the canonical form of memory. -/
theorem apply_wf (m : Mem) (es : List MemEff) (h : m.wf = true) : (m.apply es).wf = true :=
  foldl_keeps (P := fun m : Mem => m.wf = true) eff_wf es m h

/-- An action keeps the canonical form of memory. -/
theorem run_memWf (s : State) (a : Act) (h : s.memWf) : (s.run a).memWf := apply_wf _ _ h

theorem run_pending (s : State) (a : Act) : (s.run a).pending = s.pending := rfl

/-- An action on the device alone leaves memory and fuses. -/
theorem run_dev (s : State) (f : Dev → Dev) : s.run (Act.dev f) = { s with dev := f s.dev } := rfl

end Sys2Proof.Laws
end

