-- ==== Sys2Proof/Laws/Keeper.lean ====
section
/-! SUPPORT. What a request to the Keeper and a key command do once they are taken (R489, R491). -/

namespace Sys2Proof.Machine

theorem spdm_asks {d : Dev} {m : SpdmMsg} (H : d.Asks m) (g : Fuses → Dev → Dev) (f : Fuses) (mem : Mem) :
    spdm m g f mem d = { dev := g f d } := by
  obtain ⟨h1, h2, h3⟩ := H
  have h2' : (decide (d.mmc.switching ≠ some imgKeeper)) = true := by simpa using h2
  unfold spdm
  cases hs : m.session with
  | none => simp only [h1, h2', Bool.and_self, if_true]
  | some n =>
    obtain ⟨a, x, b, c⟩ := h3 n hs
    simp only [h1, h2', a, b, c, Option.any_some, decide_true, Bool.and_self, if_true]

theorem keyCommand_taken {d : Dev} {m : SpdmMsg} {n : Fin 128} {c : CtxId} (H : d.CommandsKeys m n c)
    (g : Dev → CtxId → Bytes → Nat × Dev) (f : Fuses) (mem : Mem) :
    keyCommand m g f mem d =
      { dev := (g d c (d.wrapKey m n)).2.reply m ([0x7E] ++ leBytes 1 (g d c (d.wrapKey m n)).1) } := by
  unfold keyCommand
  rw [spdm_asks H.asks]
  have e : (Fin.ofNat 64 (rdb m.body 1) : CtxId) = c := by rw [H.ctx]; apply Fin.ext; simp
  have e2 : (decide (64 ≤ rdb m.body 1) || decide (m.fn = 0) || decide ((d.ctxAt c).state = .free)
      || decide ((d.ctxAt c).owner ≠ m.fn)) = false := by
    have := c.isLt
    rw [← H.ctx] at this
    simp [H.vf, H.state, H.owner]; omega
  simp only [H.session, H.inside, e, e2]
  rfl

end Sys2Proof.Machine
end

