-- ==== Sys2Proof/Laws/Kills.lean ====
section
/-! SUPPORT. What killing contexts leaves: the other contexts, the VFs, the fuses (R426, R449). -/

namespace Sys2Proof.Machine

open Sys2Proof.Laws

/-- Two devices with the same contexts and the same host interface. -/
def Dev.SameHost (a b : Dev) : Prop := b.ctx = a.ctx ∧ b.host = a.host

theorem Dev.SameHost.refl (d : Dev) : d.SameHost d := ⟨rfl, rfl⟩

theorem Dev.SameHost.trans {a b c : Dev} (h : a.SameHost b) (g : b.SameHost c) : a.SameHost c := ⟨g.1.trans h.1, g.2.trans h.2⟩

/-- A fold of steps that keep them keeps them. -/
theorem Dev.SameHost.foldl {A : Type} (f : Dev → A → Dev) (h : ∀ (d : Dev) (a : A), d.SameHost (f d a)) : ∀ (l : List A) (d : Dev), d.SameHost (l.foldl f d)
  | [], d => Dev.SameHost.refl d
  | a :: l, d => (h d a).trans (Dev.SameHost.foldl f h l (f d a))

theorem Dev.SameHost.wipeCore (d : Dev) (k : Nat) : d.SameHost (d.wipeCore k) := by
  unfold Dev.wipeCore
  exact ⟨rfl, rfl⟩

theorem Dev.SameHost.revoke (d : Dev) (i : Nat) (c : CtxId) : d.SameHost (d.revoke i c) := by
  unfold Dev.revoke
  split
  · exact Dev.SameHost.refl d
  · simp only; split <;> exact ⟨rfl, rfl⟩

theorem Dev.SameHost.dropKeys (d : Dev) (c : CtxId) : d.SameHost (d.dropKeys c) := by
  unfold Dev.dropKeys
  simp only
  refine Dev.SameHost.trans ?_ (Dev.SameHost.foldl _ (fun d i => ?_) _ _)
  · split <;> exact ⟨rfl, rfl⟩
  · split
    · exact Dev.SameHost.revoke d i c
    · exact Dev.SameHost.refl d

theorem Dev.SameHost.dropEthQueues (d : Dev) (c : CtxId) : d.SameHost (d.dropEthQueues c) := by
  unfold Dev.dropEthQueues
  refine Dev.SameHost.foldl _ (fun d i => ?_) _ _
  split
  · exact ⟨rfl, rfl⟩
  · exact Dev.SameHost.refl d

/-- The counts of a context's reports say nothing of its state. -/
theorem uncounted_state {a b : Ctx} (h : a.uncounted = b.uncounted) : a.state = b.state :=
  (congrArg Ctx.state h : a.uncounted.state = b.uncounted.state)

/-- What a kill of one context leaves: the other contexts but for their counts, and the VFs. -/
theorem Dev.kill_leaves (d : Dev) (c : CtxId) (n : Nat) (x : Option Fetched) :
    (∀ k, k ≠ c → ((d.kill c n x).1.ctxAt k).uncounted = (d.ctxAt k).uncounted) ∧ (d.kill c n x).1.host.numVfs = d.host.numVfs := by
  unfold Dev.kill
  simp only
  split
  · exact ⟨fun _ _ => rfl, rfl⟩
  · have h1 : d.Reports ((match x with | some f => d.dropFetched f | none => d).abortAll c) := by
      cases x with
      | none => exact Dev.Reports.abortAll d c
      | some f => exact (Dev.Reports.dropFetched d f).trans (Dev.Reports.abortAll _ c)
    generalize (match x with | some f => d.dropFetched f | none => d).abortAll c = a at h1
    have h2 : a.SameHost ((((d.ctxAt c).cores.foldl Dev.wipeCore a).dropKeys c).dropEthQueues c) :=
      ((Dev.SameHost.foldl _ Dev.SameHost.wipeCore _ a).trans (Dev.SameHost.dropKeys _ c)).trans (Dev.SameHost.dropEthQueues _ c)
    generalize (((d.ctxAt c).cores.foldl Dev.wipeCore a).dropKeys c).dropEthQueues c = b at h2
    refine ⟨fun k hk => ?_, ?_⟩
    · rw [Dev.settleModule_ctxAt, Dev.modCtx_at_ne _ _ hk]
      show (tblGet Ctx.init b.ctx k.val).uncounted = _
      rw [h2.1]; exact h1.ctx k
    · rw [Dev.settleModule_host]
      show b.host.numVfs = _
      rw [h2.2]
      exact (show a.host.unposted.numVfs = d.host.unposted.numVfs by rw [h1.host])

/-- What a kill of one context does to its record's state. -/
theorem Dev.kill_state (d : Dev) (c : CtxId) (n : Nat) (x : Option Fetched) :
    ((d.kill c n x).1.ctxAt c).state = if (d.ctxAt c).state = .free then .free else .killing := by
  unfold Dev.kill
  simp only
  split
  · rename_i h
    simp only [Bool.or_eq_true, decide_eq_true_eq] at h
    rcases h with h | h <;> simp [h]
  · rename_i h
    simp only [Bool.or_eq_true, decide_eq_true_eq, not_or] at h
    rw [if_neg h.1, Dev.settleModule_ctxAt, Dev.modCtx_at]

/-- What killing a list of contexts does: those that are not FREE come into KILLING; the other contexts keep their records but for
their counts. -/
theorem killAll_does (n : Nat) : ∀ (cs : List CtxId) (f : Fuses) (m : Mem) (d : Dev),
    (∀ k, ((killAll cs n f m d).dev.ctxAt k).state = if k ∈ cs ∧ (d.ctxAt k).state ≠ .free then .killing else (d.ctxAt k).state)
    ∧ (∀ k, (k ∉ cs ∨ (d.ctxAt k).state = .free) → ((killAll cs n f m d).dev.ctxAt k).uncounted = (d.ctxAt k).uncounted)
    ∧ (killAll cs n f m d).dev.host.numVfs = d.host.numVfs ∧ (killAll cs n f m d).fuse = []
  | [], _, _, d => ⟨fun k => by simp [killAll, Act.each, Act.skip], fun _ _ => rfl, rfl, rfl⟩
  | c :: cs, f, m, d => by
    obtain ⟨i1, i2, i3, i4⟩ := killAll_does n cs f (m.apply (d.kill c n none).2) (d.kill c n none).1
    have e1 : (killAll (c :: cs) n f m d).dev = (killAll cs n f (m.apply (d.kill c n none).2) (d.kill c n none).1).dev := rfl
    have e2 : (killAll (c :: cs) n f m d).fuse = (killAll cs n f (m.apply (d.kill c n none).2) (d.kill c n none).1).fuse := rfl
    obtain ⟨l1, l2⟩ := d.kill_leaves c n none
    have l3 := d.kill_state c n none
    rw [e1, e2]
    refine ⟨fun k => ?_, fun k hk => ?_, i3.trans l2, i4⟩
    · rw [i1 k]
      by_cases h : k = c
      · subst h; rw [l3]; by_cases g : (d.ctxAt k).state = .free <;> by_cases q : k ∈ cs <;> simp [g, q]
      · have : ((d.kill c n none).1.ctxAt k).state = (d.ctxAt k).state := uncounted_state (l1 k h)
        rw [this]; simp [h]
    · by_cases h : k = c
      · subst h
        rcases hk with hk | hk
        · simp at hk
        · have : (d.kill k n none).1 = d := by unfold Dev.kill; simp [hk]
          rw [i2 k (.inr (by rw [this]; exact hk)), this]
      · have g : ((d.kill c n none).1.ctxAt k).state = (d.ctxAt k).state := uncounted_state (l1 k h)
        rw [i2 k (by rw [g]; rcases hk with hk | hk
                     · exact .inl (fun q => hk (by simp [q]))
                     · exact .inr hk), l1 k h]

end Sys2Proof.Machine
end

