-- ==== Sys2Proof/Laws/PerInstr.lean ====
section
/-! SUPPORT. One lemma per command: the command answers, on every state, what one action makes of the state.  No command
faults, refuses or touches the queue; what an action can do to memory and fuses is in Laws/Effects.lean. -/

namespace Sys2Proof.Laws

open Sys2Proof.Machine

/-- A command is performed as one action on the state, whatever the state. -/
def Acts.Statement (i : Instr) : Prop := ∀ s : State, ∃ a : Act, exec i s = .next (s.run a)

theorem Acts.assign (h : HostCmd) : Acts.Statement (.assign h) := fun _ => ⟨_, rfl⟩
theorem Acts.release (h : HostCmd) : Acts.Statement (.release h) := fun _ => ⟨_, rfl⟩
theorem Acts.kill (h : HostCmd) : Acts.Statement (.kill h) := fun _ => ⟨_, rfl⟩
theorem Acts.killComplete (c : CtxId) : Acts.Statement (.killComplete c) := fun _ => ⟨_, rfl⟩
theorem Acts.grantImage (h : HostCmd) : Acts.Statement (.grantImage h) := fun _ => ⟨_, rfl⟩
theorem Acts.revokeImage (h : HostCmd) : Acts.Statement (.revokeImage h) := fun _ => ⟨_, rfl⟩
theorem Acts.hostMemRelease (h : HostCmd) : Acts.Statement (.hostMemRelease h) := fun _ => ⟨_, rfl⟩
theorem Acts.hostMemReclaim (h : HostCmd) : Acts.Statement (.hostMemReclaim h) := fun _ => ⟨_, rfl⟩
theorem Acts.hostCopy (h : HostCmd) : Acts.Statement (.hostCopy h) := fun _ => ⟨_, rfl⟩
theorem Acts.stats (h : HostCmd) : Acts.Statement (.stats h) := fun _ => ⟨_, rfl⟩
theorem Acts.ctxSetup (h : HostCmd) : Acts.Statement (.ctxSetup h) := fun _ => ⟨_, rfl⟩
theorem Acts.memAlloc (h : HostCmd) : Acts.Statement (.memAlloc h) := fun _ => ⟨_, rfl⟩
theorem Acts.memFree (h : HostCmd) : Acts.Statement (.memFree h) := fun _ => ⟨_, rfl⟩
theorem Acts.load (h : HostCmd) : Acts.Statement (.load h) := fun _ => ⟨_, rfl⟩
theorem Acts.start (h : HostCmd) : Acts.Statement (.start h) := fun _ => ⟨_, rfl⟩
theorem Acts.haltAtBeat (h : HostCmd) : Acts.Statement (.haltAtBeat h) := fun _ => ⟨_, rfl⟩
theorem Acts.haltNow (h : HostCmd) : Acts.Statement (.haltNow h) := fun _ => ⟨_, rfl⟩
theorem Acts.copy (h : HostCmd) : Acts.Statement (.copy h) := fun _ => ⟨_, rfl⟩
theorem Acts.importStream (h : HostCmd) : Acts.Statement (.importStream h) := fun _ => ⟨_, rfl⟩
theorem Acts.importRecord (c : CtxId) (record : Bytes) : Acts.Statement (.importRecord c record) := fun _ => ⟨_, rfl⟩
theorem Acts.commandFetch (entry : Bytes) (linkOk : Bool) : Acts.Statement (.commandFetch entry linkOk) := fun _ => ⟨_, rfl⟩
theorem Acts.sqDoorbell (fn : FnId) (ring : HostRing) (value : W64) : Acts.Statement (.sqDoorbell fn ring value) := fun _ => ⟨_, rfl⟩
theorem Acts.cqDoorbell (fn : FnId) (cq : CqRef) (value : W64) : Acts.Statement (.cqDoorbell fn cq value) := fun _ => ⟨_, rfl⟩
theorem Acts.ringEnable (fn : FnId) (ring : RingSel) (w : RegWr) : Acts.Statement (.ringEnable fn ring w) := fun _ => ⟨_, rfl⟩
theorem Acts.ringDisable (fn : FnId) (ring : RingSel) (w : RegWr) : Acts.Statement (.ringDisable fn ring w) := fun _ => ⟨_, rfl⟩
theorem Acts.functionLevelReset (fn : FnId) : Acts.Statement (.functionLevelReset fn) := fun _ => ⟨_, rfl⟩
theorem Acts.vfRemoval (numVfs : FnId) : Acts.Statement (.vfRemoval numVfs) := fun _ => ⟨_, rfl⟩
theorem Acts.hostLinkReset : Acts.Statement (.hostLinkReset) := fun _ => ⟨_, rfl⟩
theorem Acts.cxlMemRead (line : BitVec 35) : Acts.Statement (.cxlMemRead line) := fun _ => ⟨_, rfl⟩
theorem Acts.cxlMemWrite (line : BitVec 35) (data : BitVec 512) : Acts.Statement (.cxlMemWrite line data) := fun _ => ⟨_, rfl⟩
theorem Acts.registerWrite (a : RegAccess) : Acts.Statement (.registerWrite a) := fun _ => ⟨_, rfl⟩
theorem Acts.getVersion (m : SpdmMsg) : Acts.Statement (.getVersion m) := fun _ => ⟨_, rfl⟩
theorem Acts.getCapabilities (m : SpdmMsg) : Acts.Statement (.getCapabilities m) := fun _ => ⟨_, rfl⟩
theorem Acts.negotiateAlgorithms (m : SpdmMsg) : Acts.Statement (.negotiateAlgorithms m) := fun _ => ⟨_, rfl⟩
theorem Acts.getDigests (m : SpdmMsg) : Acts.Statement (.getDigests m) := fun _ => ⟨_, rfl⟩
theorem Acts.getCertificate (m : SpdmMsg) : Acts.Statement (.getCertificate m) := fun _ => ⟨_, rfl⟩
theorem Acts.challenge (m : SpdmMsg) : Acts.Statement (.challenge m) := fun _ => ⟨_, rfl⟩
theorem Acts.getMeasurements (m : SpdmMsg) : Acts.Statement (.getMeasurements m) := fun _ => ⟨_, rfl⟩
theorem Acts.keyExchange (m : SpdmMsg) : Acts.Statement (.keyExchange m) := fun _ => ⟨_, rfl⟩
theorem Acts.finish (m : SpdmMsg) : Acts.Statement (.finish m) := fun _ => ⟨_, rfl⟩
theorem Acts.heartbeat (m : SpdmMsg) : Acts.Statement (.heartbeat m) := fun _ => ⟨_, rfl⟩
theorem Acts.keyUpdate (m : SpdmMsg) : Acts.Statement (.keyUpdate m) := fun _ => ⟨_, rfl⟩
theorem Acts.endSession (m : SpdmMsg) : Acts.Statement (.endSession m) := fun _ => ⟨_, rfl⟩
theorem Acts.bindModelKey (m : SpdmMsg) : Acts.Statement (.bindModelKey m) := fun _ => ⟨_, rfl⟩
theorem Acts.dropModelKey (m : SpdmMsg) : Acts.Statement (.dropModelKey m) := fun _ => ⟨_, rfl⟩
theorem Acts.setLinkKey (m : SpdmMsg) : Acts.Statement (.setLinkKey m) := fun _ => ⟨_, rfl⟩
theorem Acts.setDebugKey (m : SpdmMsg) : Acts.Statement (.setDebugKey m) := fun _ => ⟨_, rfl⟩
theorem Acts.retiredKeyDestroy (pkey : W16) : Acts.Statement (.retiredKeyDestroy pkey) := fun _ => ⟨_, rfl⟩
theorem Acts.alarmTrip (sensor : Fin 5) (now : W64) : Acts.Statement (.alarmTrip sensor now) := fun _ => ⟨_, rfl⟩
theorem Acts.alarmClear (w : RegWr) : Acts.Statement (.alarmClear w) := fun _ => ⟨_, rfl⟩
theorem Acts.alarmCfgCommit (w : RegWr) : Acts.Statement (.alarmCfgCommit w) := fun _ => ⟨_, rfl⟩
theorem Acts.svnCommit (w : RegWr) : Acts.Statement (.svnCommit w) := fun _ => ⟨_, rfl⟩
theorem Acts.nonceRead : Acts.Statement (.nonceRead) := fun _ => ⟨_, rfl⟩
theorem Acts.tokenSubmit (w : RegWr) : Acts.Statement (.tokenSubmit w) := fun _ => ⟨_, rfl⟩
theorem Acts.debugLock (w : RegWr) : Acts.Statement (.debugLock w) := fun _ => ⟨_, rfl⟩
theorem Acts.lockoutExpiry : Acts.Statement (.lockoutExpiry) := fun _ => ⟨_, rfl⟩
theorem Acts.vsb12Present : Acts.Statement (.vsb12Present) := fun _ => ⟨_, rfl⟩
theorem Acts.vsb12Lost : Acts.Statement (.vsb12Lost) := fun _ => ⟨_, rfl⟩
theorem Acts.vin48Present : Acts.Statement (.vin48Present) := fun _ => ⟨_, rfl⟩
theorem Acts.vin48Lost : Acts.Statement (.vin48Lost) := fun _ => ⟨_, rfl⟩
theorem Acts.vin48Overvoltage : Acts.Statement (.vin48Overvoltage) := fun _ => ⟨_, rfl⟩
theorem Acts.seatOpen : Acts.Statement (.seatOpen) := fun _ => ⟨_, rfl⟩
theorem Acts.resetPin : Acts.Statement (.resetPin) := fun _ => ⟨_, rfl⟩
theorem Acts.startupComplete (failed : List ((W16 × Bool))) : Acts.Statement (.startupComplete failed) := fun _ => ⟨_, rfl⟩
theorem Acts.startFail (reason : StartFailure) : Acts.Statement (.startFail reason) := fun _ => ⟨_, rfl⟩
theorem Acts.startDeadline : Acts.Statement (.startDeadline) := fun _ => ⟨_, rfl⟩
theorem Acts.startRetry : Acts.Statement (.startRetry) := fun _ => ⟨_, rfl⟩
theorem Acts.computeDieReset (w : RegWr) : Acts.Statement (.computeDieReset w) := fun _ => ⟨_, rfl⟩
theorem Acts.warmModuleReset (w : RegWr) : Acts.Statement (.warmModuleReset w) := fun _ => ⟨_, rfl⟩
theorem Acts.brynoaDieReset (w : RegWr) : Acts.Statement (.brynoaDieReset w) := fun _ => ⟨_, rfl⟩
theorem Acts.coldModuleReset (w : RegWr) : Acts.Statement (.coldModuleReset w) := fun _ => ⟨_, rfl⟩
theorem Acts.prepareRemove (w : RegWr) : Acts.Statement (.prepareRemove w) := fun _ => ⟨_, rfl⟩
theorem Acts.takeOut (w : RegWr) (rival : Option Rival) : Acts.Statement (.takeOut w rival) := fun _ => ⟨_, rfl⟩
theorem Acts.bringIn (w : RegWr) (rival : Option Rival) : Acts.Statement (.bringIn w rival) := fun _ => ⟨_, rfl⟩
theorem Acts.scrubComplete (unit : W16) : Acts.Statement (.scrubComplete unit) := fun _ => ⟨_, rfl⟩
theorem Acts.testComplete (unit : W16) (pass : Bool) : Acts.Statement (.testComplete unit pass) := fun _ => ⟨_, rfl⟩
theorem Acts.unitFault (unit : W16) : Acts.Statement (.unitFault unit) := fun _ => ⟨_, rfl⟩
theorem Acts.moduleError (unit : W16) (cause : W16) : Acts.Statement (.moduleError unit cause) := fun _ => ⟨_, rfl⟩
theorem Acts.fwBegin (w : RegWr) : Acts.Statement (.fwBegin w) := fun _ => ⟨_, rfl⟩
theorem Acts.fwData (w : RegWr) : Acts.Statement (.fwData w) := fun _ => ⟨_, rfl⟩
theorem Acts.fwCheck (w : RegWr) : Acts.Statement (.fwCheck w) := fun _ => ⟨_, rfl⟩
theorem Acts.fwSwitch (w : RegWr) : Acts.Statement (.fwSwitch w) := fun _ => ⟨_, rfl⟩
theorem Acts.switchComplete : Acts.Statement (.switchComplete) := fun _ => ⟨_, rfl⟩
theorem Acts.traceEnable (w : RegWr) : Acts.Statement (.traceEnable w) := fun _ => ⟨_, rfl⟩
theorem Acts.pwrCapWrite (w : RegWr) (rival : Option Rival) : Acts.Statement (.pwrCapWrite w rival) := fun _ => ⟨_, rfl⟩
theorem Acts.dutyStep (p : PowerReading) : Acts.Statement (.dutyStep p) := fun _ => ⟨_, rfl⟩
theorem Acts.peakLimit (avg2us : W16) : Acts.Statement (.peakLimit avg2us) := fun _ => ⟨_, rfl⟩
theorem Acts.peakRecovery (avg2us : W16) : Acts.Statement (.peakRecovery avg2us) := fun _ => ⟨_, rfl⟩
theorem Acts.thermalLimit (die : DieId) : Acts.Statement (.thermalLimit die) := fun _ => ⟨_, rfl⟩
theorem Acts.domainRaise (die : DieId) : Acts.Statement (.domainRaise die) := fun _ => ⟨_, rfl⟩
theorem Acts.domainLower (domain : Fin 443) : Acts.Statement (.domainLower domain) := fun _ => ⟨_, rfl⟩
theorem Acts.coolantStatus (c : CoolantReading) : Acts.Statement (.coolantStatus c) := fun _ => ⟨_, rfl⟩
theorem Acts.linkProfileCommit (w : RegWr) : Acts.Statement (.linkProfileCommit w) := fun _ => ⟨_, rfl⟩
theorem Acts.portEnable (port : PortId) (w : RegWr) : Acts.Statement (.portEnable port w) := fun _ => ⟨_, rfl⟩
theorem Acts.quadTrainingDone (quad : QuadId) (outcome : TrainOutcome) : Acts.Statement (.quadTrainingDone quad outcome) := fun _ => ⟨_, rfl⟩
theorem Acts.trainingTimeout (port : PortId) : Acts.Statement (.trainingTimeout port) := fun _ => ⟨_, rfl⟩
theorem Acts.trainingRetry (port : PortId) : Acts.Statement (.trainingRetry port) := fun _ => ⟨_, rfl⟩
theorem Acts.lcf (port : PortId) (flit : Bytes) : Acts.Statement (.lcf port flit) := fun _ => ⟨_, rfl⟩
theorem Acts.lcfTimeout (port : PortId) : Acts.Statement (.lcfTimeout port) := fun _ => ⟨_, rfl⟩
theorem Acts.removeQuad (port : PortId) (flit : Bytes) : Acts.Statement (.removeQuad port flit) := fun _ => ⟨_, rfl⟩
theorem Acts.addQuad (port : PortId) (flit : Bytes) : Acts.Statement (.addQuad port flit) := fun _ => ⟨_, rfl⟩
theorem Acts.substituteSpare (port : PortId) (flit : Bytes) : Acts.Statement (.substituteSpare port flit) := fun _ => ⟨_, rfl⟩
theorem Acts.quadAcknowledge (port : PortId) (flit : Bytes) : Acts.Statement (.quadAcknowledge port flit) := fun _ => ⟨_, rfl⟩
theorem Acts.quadRefuse (port : PortId) (flit : Bytes) : Acts.Statement (.quadRefuse port flit) := fun _ => ⟨_, rfl⟩
theorem Acts.switchAtReached (port : PortId) : Acts.Statement (.switchAtReached port) := fun _ => ⟨_, rfl⟩
theorem Acts.quadFail (quad : QuadId) : Acts.Statement (.quadFail quad) := fun _ => ⟨_, rfl⟩
theorem Acts.uncorrectableSet (quad : QuadId) (vcs : List (Fin 8)) : Acts.Statement (.uncorrectableSet quad vcs) := fun _ => ⟨_, rfl⟩
theorem Acts.recal (quad : QuadId) (w : RegWr) : Acts.Statement (.recal quad w) := fun _ => ⟨_, rfl⟩
theorem Acts.helloTimer (port : PortId) : Acts.Statement (.helloTimer port) := fun _ => ⟨_, rfl⟩
theorem Acts.hello (a : Arrival) : Acts.Statement (.hello a) := fun _ => ⟨_, rfl⟩
theorem Acts.moduleIdCommit (w : RegWr) : Acts.Statement (.moduleIdCommit w) := fun _ => ⟨_, rfl⟩
theorem Acts.timeCfgWrite (w : RegWr) : Acts.Statement (.timeCfgWrite w) := fun _ => ⟨_, rfl⟩
theorem Acts.timeExchangeTimer (now : W64) : Acts.Statement (.timeExchangeTimer now) := fun _ => ⟨_, rfl⟩
theorem Acts.timeReq (a : Arrival) : Acts.Statement (.timeReq a) := fun _ => ⟨_, rfl⟩
theorem Acts.timeResp (a : Arrival) : Acts.Statement (.timeResp a) := fun _ => ⟨_, rfl⟩
theorem Acts.timeInfo (a : Arrival) : Acts.Statement (.timeInfo a) := fun _ => ⟨_, rfl⟩
theorem Acts.holdoverTimeout : Acts.Statement (.holdoverTimeout) := fun _ => ⟨_, rfl⟩
theorem Acts.periodApply (w : RegWr) (now : W64) : Acts.Statement (.periodApply w now) := fun _ => ⟨_, rfl⟩
theorem Acts.beatTick : Acts.Statement (.beatTick) := fun _ => ⟨_, rfl⟩
theorem Acts.arrivalDeadline (c : CtxId) : Acts.Statement (.arrivalDeadline c) := fun _ => ⟨_, rfl⟩
theorem Acts.tumblerFlip : Acts.Statement (.tumblerFlip) := fun _ => ⟨_, rfl⟩
theorem Acts.flipRequest (w : RegWr) : Acts.Statement (.flipRequest w) := fun _ => ⟨_, rfl⟩
theorem Acts.pendingClear : Acts.Statement (.pendingClear) := fun _ => ⟨_, rfl⟩
theorem Acts.tableEntryWrite (w : RegWr) : Acts.Statement (.tableEntryWrite w) := fun _ => ⟨_, rfl⟩
theorem Acts.tableEntryRead : Acts.Statement (.tableEntryRead) := fun _ => ⟨_, rfl⟩
theorem Acts.packetSend (att : Fin 11) : Acts.Statement (.packetSend att) := fun _ => ⟨_, rfl⟩
theorem Acts.packetForward (a : Arrival) : Acts.Statement (.packetForward a) := fun _ => ⟨_, rfl⟩
theorem Acts.write (a : Arrival) : Acts.Statement (.write a) := fun _ => ⟨_, rfl⟩
theorem Acts.getData (a : Arrival) : Acts.Statement (.getData a) := fun _ => ⟨_, rfl⟩
theorem Acts.shard (a : Arrival) : Acts.Statement (.shard a) := fun _ => ⟨_, rfl⟩
theorem Acts.ack (a : Arrival) : Acts.Statement (.ack a) := fun _ => ⟨_, rfl⟩
theorem Acts.nack (a : Arrival) : Acts.Statement (.nack a) := fun _ => ⟨_, rfl⟩
theorem Acts.reset (a : Arrival) : Acts.Statement (.reset a) := fun _ => ⟨_, rfl⟩
theorem Acts.refuse (a : Arrival) : Acts.Statement (.refuse a) := fun _ => ⟨_, rfl⟩
theorem Acts.shortPacket (a : Arrival) : Acts.Statement (.shortPacket a) := fun _ => ⟨_, rfl⟩
theorem Acts.shortCont (a : Arrival) : Acts.Statement (.shortCont a) := fun _ => ⟨_, rfl⟩
theorem Acts.amoResp (a : Arrival) : Acts.Statement (.amoResp a) := fun _ => ⟨_, rfl⟩
theorem Acts.getReq (a : Arrival) : Acts.Statement (.getReq a) := fun _ => ⟨_, rfl⟩
theorem Acts.ringHalt (a : Arrival) : Acts.Statement (.ringHalt a) := fun _ => ⟨_, rfl⟩
theorem Acts.poisonMap (a : Arrival) : Acts.Statement (.poisonMap a) := fun _ => ⟨_, rfl⟩
theorem Acts.lockstep (a : Arrival) : Acts.Statement (.lockstep a) := fun _ => ⟨_, rfl⟩
theorem Acts.mgmtRead (r : MgmtRequest) : Acts.Statement (.mgmtRead r) := fun _ => ⟨_, rfl⟩
theorem Acts.mgmtWrite (r : MgmtRequest) : Acts.Statement (.mgmtWrite r) := fun _ => ⟨_, rfl⟩
theorem Acts.ackTimer (flow : FlowRef) : Acts.Statement (.ackTimer flow) := fun _ => ⟨_, rfl⟩
theorem Acts.rtoExpiry (flow : FlowRef) : Acts.Statement (.rtoExpiry flow) := fun _ => ⟨_, rfl⟩
theorem Acts.flowTimeout (flow : FlowRef) : Acts.Statement (.flowTimeout flow) := fun _ => ⟨_, rfl⟩
theorem Acts.congestionStep (flow : FlowRef) : Acts.Statement (.congestionStep flow) := fun _ => ⟨_, rfl⟩
theorem Acts.frameReceive (f : EthFrame) : Acts.Statement (.frameReceive f) := fun _ => ⟨_, rfl⟩
theorem Acts.pauseFrameReceive (f : EthFrame) : Acts.Statement (.pauseFrameReceive f) := fun _ => ⟨_, rfl⟩
theorem Acts.pauseExpiry (sub : SubPort) (pri : Fin 8) : Acts.Statement (.pauseExpiry sub pri) := fun _ => ⟨_, rfl⟩
theorem Acts.pfcRefresh (sub : SubPort) : Acts.Statement (.pfcRefresh sub) := fun _ => ⟨_, rfl⟩
theorem Acts.frameTransmit (sub : SubPort) (data : Bytes) : Acts.Statement (.frameTransmit sub data) := fun _ => ⟨_, rfl⟩
theorem Acts.ethDoorbell (fn : FnId) (queue : Fin 64) (value : W64) (descs : List Bytes) : Acts.Statement (.ethDoorbell fn queue value descs) := fun _ => ⟨_, rfl⟩
theorem Acts.subPortLink (sub : SubPort) (up : Bool) : Acts.Statement (.subPortLink sub up) := fun _ => ⟨_, rfl⟩
theorem Acts.ethPortEnable (port : Fin 2) (w : RegWr) : Acts.Statement (.ethPortEnable port w) := fun _ => ⟨_, rfl⟩
theorem Acts.ethQueueConfig (fn : FnId) (queue : Fin 64) (w : RegWr) : Acts.Statement (.ethQueueConfig fn queue w) := fun _ => ⟨_, rfl⟩
theorem Acts.ethRuleWrite (w : RegWr) : Acts.Statement (.ethRuleWrite w) := fun _ => ⟨_, rfl⟩
theorem Acts.watermarkArm (fn : FnId) (queue : Fin 64) (w : RegWr) : Acts.Statement (.watermarkArm fn queue w) := fun _ => ⟨_, rfl⟩
theorem Acts.baseInstruction (th : ThreadRef) (word : W32) : Acts.Statement (.baseInstruction th word) := fun _ => ⟨_, rfl⟩
theorem Acts.threadLoad (th : ThreadRef) (op : LoadOp) : Acts.Statement (.threadLoad th op) := fun _ => ⟨_, rfl⟩
theorem Acts.loadDataReturn (th : ThreadRef) (ret : LoadReturn) : Acts.Statement (.loadDataReturn th ret) := fun _ => ⟨_, rfl⟩
theorem Acts.threadStore (th : ThreadRef) (op : StoreOp) : Acts.Statement (.threadStore th op) := fun _ => ⟨_, rfl⟩
theorem Acts.amo (th : ThreadRef) (op : AmoOp) : Acts.Statement (.amo th op) := fun _ => ⟨_, rfl⟩
theorem Acts.lr (th : ThreadRef) (op : LrScOp) : Acts.Statement (.lr th op) := fun _ => ⟨_, rfl⟩
theorem Acts.sc (th : ThreadRef) (op : LrScOp) : Acts.Statement (.sc th op) := fun _ => ⟨_, rfl⟩
theorem Acts.fence (th : ThreadRef) (op : FenceOp) : Acts.Statement (.fence th op) := fun _ => ⟨_, rfl⟩
theorem Acts.fenceI (th : ThreadRef) : Acts.Statement (.fenceI th) := fun _ => ⟨_, rfl⟩
theorem Acts.ecall (th : ThreadRef) : Acts.Statement (.ecall th) := fun _ => ⟨_, rfl⟩
theorem Acts.ebreak (th : ThreadRef) (compressed : Bool) : Acts.Statement (.ebreak th compressed) := fun _ => ⟨_, rfl⟩
theorem Acts.csrInstruction (th : ThreadRef) (op : CsrOp) : Acts.Statement (.csrInstruction th op) := fun _ => ⟨_, rfl⟩
theorem Acts.mqctlRestart (th : ThreadRef) (bits : BitVec 7) : Acts.Statement (.mqctlRestart th bits) := fun _ => ⟨_, rfl⟩
theorem Acts.mqctlClear (th : ThreadRef) (bits : BitVec 7) : Acts.Statement (.mqctlClear th bits) := fun _ => ⟨_, rfl⟩
theorem Acts.missue (th : ThreadRef) (op : CustOp) : Acts.Statement (.missue th op) := fun _ => ⟨_, rfl⟩
theorem Acts.queueAccept (q : QueueRef) : Acts.Statement (.queueAccept q) := fun _ => ⟨_, rfl⟩
theorem Acts.mwait (th : ThreadRef) (op : CustOp) : Acts.Statement (.mwait th op) := fun _ => ⟨_, rfl⟩
theorem Acts.mwaitWake (th : ThreadRef) : Acts.Statement (.mwaitWake th) := fun _ => ⟨_, rfl⟩
theorem Acts.mwtmoExpiry (th : ThreadRef) : Acts.Statement (.mwtmoExpiry th) := fun _ => ⟨_, rfl⟩
theorem Acts.mpoll (th : ThreadRef) (op : CustOp) : Acts.Statement (.mpoll th op) := fun _ => ⟨_, rfl⟩
theorem Acts.msig (th : ThreadRef) (op : CustOp) : Acts.Statement (.msig th op) := fun _ => ⟨_, rfl⟩
theorem Acts.mfenceU (th : ThreadRef) (op : CustOp) : Acts.Statement (.mfenceU th op) := fun _ => ⟨_, rfl⟩
theorem Acts.mfenceR (th : ThreadRef) (op : CustOp) : Acts.Statement (.mfenceR th op) := fun _ => ⟨_, rfl⟩
theorem Acts.mfenceG (th : ThreadRef) (op : CustOp) : Acts.Statement (.mfenceG th op) := fun _ => ⟨_, rfl⟩
theorem Acts.fenceComplete (th : ThreadRef) : Acts.Statement (.fenceComplete th) := fun _ => ⟨_, rfl⟩
theorem Acts.rdbeat (th : ThreadRef) (op : CustOp) : Acts.Statement (.rdbeat th op) := fun _ => ⟨_, rfl⟩
theorem Acts.beatWait (th : ThreadRef) (op : CustOp) : Acts.Statement (.beatWait th op) := fun _ => ⟨_, rfl⟩
theorem Acts.beatWaitRelease (th : ThreadRef) : Acts.Statement (.beatWaitRelease th) := fun _ => ⟨_, rfl⟩
theorem Acts.mexit (th : ThreadRef) (op : CustOp) : Acts.Statement (.mexit th op) := fun _ => ⟨_, rfl⟩
theorem Acts.loadb (e : EngineRef) : Acts.Statement (.loadb e) := fun _ => ⟨_, rfl⟩
theorem Acts.mma (e : EngineRef) : Acts.Statement (.mma e) := fun _ => ⟨_, rfl⟩
theorem Acts.mmat (e : EngineRef) : Acts.Statement (.mmat e) := fun _ => ⟨_, rfl⟩
theorem Acts.epi (e : EngineRef) : Acts.Statement (.epi e) := fun _ => ⟨_, rfl⟩
theorem Acts.drain (e : EngineRef) : Acts.Statement (.drain e) := fun _ => ⟨_, rfl⟩
theorem Acts.zero (e : EngineRef) : Acts.Statement (.zero e) := fun _ => ⟨_, rfl⟩
theorem Acts.cvt (e : EngineRef) : Acts.Statement (.cvt e) := fun _ => ⟨_, rfl⟩
theorem Acts.vew (u : CoreRef) : Acts.Statement (.vew u) := fun _ => ⟨_, rfl⟩
theorem Acts.vred (u : CoreRef) : Acts.Statement (.vred u) := fun _ => ⟨_, rfl⟩
theorem Acts.vcvt (u : CoreRef) : Acts.Statement (.vcvt u) := fun _ => ⟨_, rfl⟩
theorem Acts.vrand (u : CoreRef) : Acts.Statement (.vrand u) := fun _ => ⟨_, rfl⟩
theorem Acts.vseed (u : CoreRef) : Acts.Statement (.vseed u) := fun _ => ⟨_, rfl⟩
theorem Acts.commandCompletion (q : QueueRef) : Acts.Statement (.commandCompletion q) := fun _ => ⟨_, rfl⟩
theorem Acts.xfer (u : StreamRef) : Acts.Statement (.xfer u) := fun _ => ⟨_, rfl⟩
theorem Acts.chain (u : StreamRef) : Acts.Statement (.chain u) := fun _ => ⟨_, rfl⟩
theorem Acts.short (u : StreamRef) : Acts.Statement (.short u) := fun _ => ⟨_, rfl⟩
theorem Acts.sdep (u : StreamRef) : Acts.Statement (.sdep u) := fun _ => ⟨_, rfl⟩
theorem Acts.hpush (u : StreamRef) : Acts.Statement (.hpush u) := fun _ => ⟨_, rfl⟩
theorem Acts.ssave (u : StreamRef) : Acts.Statement (.ssave u) := fun _ => ⟨_, rfl⟩
theorem Acts.linear (u : StreamRef) : Acts.Statement (.linear u) := fun _ => ⟨_, rfl⟩
theorem Acts.strided (u : StreamRef) : Acts.Statement (.strided u) := fun _ => ⟨_, rfl⟩
theorem Acts.gather (u : StreamRef) : Acts.Statement (.gather u) := fun _ => ⟨_, rfl⟩
theorem Acts.scatter (u : StreamRef) : Acts.Statement (.scatter u) := fun _ => ⟨_, rfl⟩
theorem Acts.transpose (u : StreamRef) : Acts.Statement (.transpose u) := fun _ => ⟨_, rfl⟩
theorem Acts.markerRelease (u : StreamRef) : Acts.Statement (.markerRelease u) := fun _ => ⟨_, rfl⟩
theorem Acts.segmentIssue (u : StreamRef) (slot : Fin 6) : Acts.Statement (.segmentIssue u slot) := fun _ => ⟨_, rfl⟩
theorem Acts.transferCompletion (u : StreamRef) : Acts.Statement (.transferCompletion u) := fun _ => ⟨_, rfl⟩
theorem Acts.streamStop (u : StreamRef) : Acts.Statement (.streamStop u) := fun _ => ⟨_, rfl⟩
theorem Acts.writeUnitArrival (id : Nat) : Acts.Statement (.writeUnitArrival id) := fun _ => ⟨_, rfl⟩
theorem Acts.slotFull (u : CoreRef) (region : Fin 64) : Acts.Statement (.slotFull u region) := fun _ => ⟨_, rfl⟩
theorem Acts.regionEnable (th : ThreadRef) (st : RegionStore) : Acts.Statement (.regionEnable th st) := fun _ => ⟨_, rfl⟩
theorem Acts.regionDisable (th : ThreadRef) (st : RegionStore) : Acts.Statement (.regionDisable th st) := fun _ => ⟨_, rfl⟩
theorem Acts.push (th : ThreadRef) (region : Fin 64) : Acts.Statement (.push th region) := fun _ => ⟨_, rfl⟩
theorem Acts.pop (th : ThreadRef) (region : Fin 64) : Acts.Statement (.pop th region) := fun _ => ⟨_, rfl⟩
theorem Acts.tagWake (th : ThreadRef) : Acts.Statement (.tagWake th) := fun _ => ⟨_, rfl⟩
theorem Acts.uninitClear (u : CoreRef) (value : W64) : Acts.Statement (.uninitClear u value) := fun _ => ⟨_, rfl⟩
theorem Acts.windowAmoadd (a : WindowAmo) : Acts.Statement (.windowAmoadd a) := fun _ => ⟨_, rfl⟩
theorem Acts.invalidation (c : CtxId) (value : W64) : Acts.Statement (.invalidation c value) := fun _ => ⟨_, rfl⟩
theorem Acts.latchRelease (die : DieId) (latch : Fin 8) : Acts.Statement (.latchRelease die latch) := fun _ => ⟨_, rfl⟩
theorem Acts.sramScrub (line : Nat) (found : EccFinding) : Acts.Statement (.sramScrub line found) := fun _ => ⟨_, rfl⟩
theorem Acts.patrolScrub (line : Nat) (found : EccFinding) : Acts.Statement (.patrolScrub line found) := fun _ => ⟨_, rfl⟩
theorem Acts.backgroundFill (unit : Nat) : Acts.Statement (.backgroundFill unit) := fun _ => ⟨_, rfl⟩
theorem Acts.prgSramEccClr (die : DieId) : Acts.Statement (.prgSramEccClr die) := fun _ => ⟨_, rfl⟩
theorem Acts.strErrClr (die : DieId) : Acts.Statement (.strErrClr die) := fun _ => ⟨_, rfl⟩
theorem Acts.strBramClr (die : DieId) : Acts.Statement (.strBramClr die) := fun _ => ⟨_, rfl⟩
theorem Acts.synStatClr (die : DieId) : Acts.Statement (.synStatClr die) := fun _ => ⟨_, rfl⟩
theorem Acts.memEccClr (die : DieId) : Acts.Statement (.memEccClr die) := fun _ => ⟨_, rfl⟩
theorem Acts.lnkQuadClr (quad : QuadId) : Acts.Statement (.lnkQuadClr quad) := fun _ => ⟨_, rfl⟩
theorem Acts.lnkErrClr : Acts.Statement (.lnkErrClr) := fun _ => ⟨_, rfl⟩
theorem Acts.rteErrClr : Acts.Statement (.rteErrClr) := fun _ => ⟨_, rfl⟩
theorem Acts.rteRelClr : Acts.Statement (.rteRelClr) := fun _ => ⟨_, rfl⟩
theorem Acts.rtePviolClr (k : Fin 13) : Acts.Statement (.rtePviolClr k) := fun _ => ⟨_, rfl⟩
theorem Acts.bryLsStatClr : Acts.Statement (.bryLsStatClr) := fun _ => ⟨_, rfl⟩
theorem Acts.bryOvrCntClr (c : Fin 9) : Acts.Statement (.bryOvrCntClr c) := fun _ => ⟨_, rfl⟩
theorem Acts.ethRxErrClr (port : Fin 2) : Acts.Statement (.ethRxErrClr port) := fun _ => ⟨_, rfl⟩
theorem Acts.ethRxDropClr (port : Fin 2) : Acts.Statement (.ethRxDropClr port) := fun _ => ⟨_, rfl⟩
theorem Acts.ethTxErrClr (port : Fin 2) : Acts.Statement (.ethTxErrClr port) := fun _ => ⟨_, rfl⟩
theorem Acts.ethPauseClr (port : Fin 2) : Acts.Statement (.ethPauseClr port) := fun _ => ⟨_, rfl⟩
theorem Acts.mmcCfgRejClr : Acts.Statement (.mmcCfgRejClr) := fun _ => ⟨_, rfl⟩
theorem Acts.shortWriteAcknowledgement (u : CoreRef) (id : Nat) : Acts.Statement (.shortWriteAcknowledgement u id) := fun _ => ⟨_, rfl⟩
theorem Acts.hostCommandComplete (c : Option CtxId) (tag : W64) : Acts.Statement (.hostCommandComplete c tag) := fun _ => ⟨_, rfl⟩
theorem Acts.vfEnable (numVfs : FnId) : Acts.Statement (.vfEnable numVfs) := fun _ => ⟨_, rfl⟩
theorem Acts.alarmSensorRelease (sensor : Fin 5) : Acts.Statement (.alarmSensorRelease sensor) := fun _ => ⟨_, rfl⟩
theorem Acts.thermalLimitRelease (die : DieId) : Acts.Statement (.thermalLimitRelease die) := fun _ => ⟨_, rfl⟩

end Sys2Proof.Laws
end

