-- ==== Sys2Proof/WellFormed.lean ====
section
/-! DEFINITION. Which commands can reach the module: the lengths and ranges of operands that the spec fixes and that the
operand types leave open.  The meanings are total; a command that is not well formed never happens. -/

namespace Sys2Proof

/-- A packet has a control body of 32 bytes (R362), or a SPEC of 14 bytes with a payload that PLEN can count (R358). -/
def Pkt.formed (p : Pkt) : Bool :=
  if p.ty = 0x10 || p.ty = 0x11 || p.ty = 0x12 then p.body.length = 14 && p.payload.length < 65536
  else p.body.length = 32 && p.payload.isEmpty

/-- A link-control flit has 128 bytes (R334, R337). -/
def flitFormed (f : Bytes) : Bool := f.length = 128

/-- The descriptors of an Ethernet queue have 32 bytes (R472). -/
def descsFormed (ds : List Bytes) : Bool := ds.all (fun b => b.length = 32)

/-- A host access has 1, 2, 4 or 8 bytes (R16). -/
def sizeFormed (n : Nat) : Bool := n = 1 || n = 2 || n = 4 || n = 8

/-- A submission entry has 64 bytes (R431). -/
def HostCmd.formed (h : HostCmd) : Bool := h.entry.length = 64

/-- A management request of the fabric is a packet; any other has the size of an access. -/
def MgmtRequest.formed (r : MgmtRequest) : Bool :=
  match r.via with
  | .bar4 => sizeFormed r.size
  | .sideBand => r.size = 8
  | .fabric a => a.pkt.formed

/-- Whether a command is well formed. -/
def Instr.wf : Instr → Bool
  | .assign h | .release h | .kill h | .grantImage h | .revokeImage h | .hostMemRelease h | .hostMemReclaim h
  | .hostCopy h | .stats h | .ctxSetup h | .memAlloc h | .memFree h | .load h | .start h | .haltAtBeat h | .haltNow h
  | .copy h | .importStream h => h.formed
  | .commandFetch entry _ => entry.length = 64
  | .registerWrite a => sizeFormed a.size && descsFormed a.descs
  | .ethDoorbell _ _ _ descs => descsFormed descs
  | .mgmtRead r | .mgmtWrite r => r.formed
  | .lcf _ f | .removeQuad _ f | .addQuad _ f | .substituteSpare _ f | .quadAcknowledge _ f | .quadRefuse _ f => flitFormed f
  | .hello a | .timeReq a | .timeResp a | .timeInfo a | .packetForward a | .write a | .getData a | .shard a | .ack a
  | .nack a | .reset a | .refuse a | .shortPacket a | .shortCont a | .amoResp a | .getReq a | .ringHalt a | .poisonMap a
  | .lockstep a => a.pkt.formed
  | .uncorrectableSet _ vcs => vcs.length ≤ 20
  | .startupComplete failed => decide (failed.map (·.1)).Nodup
  | .sramScrub line _ | .patrolScrub line _ => line < 2 ^ 42
  | .backgroundFill unit => unit < 1310720
  | .threadLoad _ op => !op.compressed || 2 ≤ op.size.val
  | .threadStore _ op => !op.compressed || 2 ≤ op.size.val
  | _ => true

end Sys2Proof
end

