-- ==== Sys2Proof/Tests/Slice0.lean ====
section
/-! SUPPORT. Tests: what well-formedness refuses, and for each statement a small state and operands that meet its
hypotheses together. -/

set_option Elab.async false

namespace Sys2Proof.Tests

open Sys2Proof Sys2Proof.Machine

/-! ### Small states -/

/-- `n` bytes, zero but for fields given as offset, length and value. -/
def rec (n : Nat) (fs : List (Nat × Nat × Nat)) : Bytes :=
  (List.range n).map (fun i => match fs.find? (fun f => f.1 ≤ i && i < f.1 + f.2.1) with
    | some f => (leBytes f.2.1 f.2.2).getD (i - f.1) 0
    | none => 0)

/-- A submission entry with an opcode. -/
def entry (op : Nat) (fs : List (Nat × Nat × Nat)) : Bytes := rec 64 ((0, 1, op) :: (8, 8, 7) :: fs)

/-- A module that serves its host. -/
def up : Dev := { Dev.init with mmc := { Mmc.init with state := .running } }

/-- A command that stands fetched. -/
def fetched (r : HostRing) (e : Bytes) : Fetched := ⟨r, e, 0, false, none⟩

/-- Context 1 with a state, owned by VF1. -/
def ctx1 (st : CtxState) : Ctx := { Ctx.init with state := st, owner := 1, pkey := 9, coreQuota := 4, hbmQuota := 4, capQuota := 4, shmQuota := 4 }

/-- The module with context 1 and a fetched command. -/
def hostDev (x : Fetched) (c : Ctx) : Dev :=
  { up with host := { HostIf.init with fetched := [x], numVfs := 3 }, ctx := tblSet Ctx.init [] 1 c }

/-- The host command that stands fetched. -/
def cmdOf (x : Fetched) (data : Bytes) : HostCmd := ⟨x.ring, x.entry, data, 0, none⟩

/-- A device whose unit groups of a list are ADMITTED. -/
def putIn (gs : List Nat) (d : Dev) : Dev := gs.foldl (fun d g => d.putUnit g .admitted) d

/-- A state with a device. -/
def st (d : Dev) : State := { State.reset with dev := d }

/-- Memory that holds page tables of context 1: 2 MiB pages at 0, 200000H and 400000H lead to the context's first HBM unit, the own
core's memory and module 5. -/
def pt : Mem :=
  let m := Mem.init.write 0x1000 (leBytes 8 (0xFFFF * 2 ^ 48 + 0x2001)) false
  let m := m.write 0x2000 (leBytes 8 (0xFFFF * 2 ^ 48 + 0x3001)) false
  m.write 0x3000 (leBytes 8 (0xFFFF * 2 ^ 48 + 63) ++ leBytes 8 (0xFFFF * 2 ^ 48 + 3 * 2 ^ 45 + 0x01000000 + 47)
    ++ leBytes 8 (5 * 2 ^ 48 + 47)) false

/-- Context 1 in a state on core 0 of CD0, with its first HBM unit at 0, its core's memory at 200000H, module 5 at 400000H. -/
def coreDev (s : CtxState) : Dev :=
  putIn [0, 1, csGroup 0, hbmGroup 0, aonGroup 0]
    { up with
      host := { HostIf.init with numVfs := 3 }
      ctx := [(1, { ctx1 s with cores := [0], root := some (0xFFFF * 2 ^ 48 + 0x1000) })]
      own := { Own.init with map := [(0, .context 1 false)] }
      keep := { Keeper.init with slots := [(0, true), (2, true)] } }

/-- The same with a fetched command. -/
def coreHost (x : Fetched) (s : CtxState) : Dev := { coreDev s with host := { HostIf.init with fetched := [x], numVfs := 3 } }

/-- A write of a register with its fields at values. -/
def wrOf (fs : List (Fld × Nat)) : RegWr := ⟨BitVec.ofNat 64 (fs.foldl (fun n f => n + f.2 <<< f.1.lo) 0), .full⟩

/-! ### Host commands -/

def xAssign : Fetched := fetched .adm (entry 1 [(2, 1, 1), (0x10, 1, 2), (0x12, 2, 5), (0x14, 2, 96)])
def dAssign : Dev := hostDev xAssign Ctx.init
/-- Context 2 holds the PKEY already. -/
def dTaken : Dev := { dAssign with ctx := [(2, { Ctx.init with state := .running, pkey := 5 })] }

theorem witness_Assign :
    (dAssign.StartsOn (cmdOf xAssign []) 0x01 xAssign 1 [.free] [(0x10, 1), (0x12, 2), (0x14, 2), (0x18, 4), (0x1C, 4), (0x20, 2)]
      ∧ 1 ≤ rdb xAssign.entry 0x10 ∧ rdb xAssign.entry 0x10 ≤ 63 ∧ rd xAssign.entry 0x12 2 ≠ 0 ∧ rd xAssign.entry 0x12 2 ≠ 0xFFFF
      ∧ rd xAssign.entry 0x14 2 ≤ 96 ∧ ∀ o, (dAssign.ctxAt o).state ≠ .free → (dAssign.ctxAt o).pkey ≠ rd xAssign.entry 0x12 2)
    ∧ (dTaken.StartsOn (cmdOf xAssign []) 0x01 xAssign 1 [.free] [(0x10, 1), (0x12, 2), (0x14, 2), (0x18, 4), (0x1C, 4), (0x20, 2)]
      ∧ (dTaken.ctxAt 2).state ≠ .free ∧ (dTaken.ctxAt 2).pkey = rd xAssign.entry 0x12 2) := by
  repeat' (first | decide +kernel | constructor)

/-- A command of context 1's own ring. -/
def xOf (op : Nat) (fs : List (Nat × Nat × Nat)) : Fetched := fetched (.sq 1 0) (entry op fs)

/-- RELEASE and KILL by the PF, of context 1. -/
def xEnd (op : Nat) : Fetched := fetched .adm (entry op [(2, 1, 1)])

theorem witness_KillEndsContext :
    (hostDev (xEnd 2) (ctx1 .halted)).StartsOn (cmdOf (xEnd 2) []) 0x02 (xEnd 2) 1 [.assigned, .halted] []
    ∧ (hostDev (xEnd 3) (ctx1 .running)).StartsOn (cmdOf (xEnd 3) []) 0x03 (xEnd 3) 1 [.assigned, .running, .halted] []
    ∧ ((hostDev (xEnd 2) (ctx1 .killing)).ctxAt 1).state = .killing := by
  repeat' (first | decide +kernel | constructor)

def xImage (op : Nat) : Fetched := fetched .adm (entry op [(2, 1, 1), (0x10, 1, 62)])
/-- Image 62 with two units, granted to context 1. -/
def dImage (op : Nat) : Dev :=
  { hostDev (xImage op) (ctx1 .running) with own := { Own.init with map := [(3, .image 62), (4, .image 62)], images := [(62, some ([3, 4], [1]))] } }

theorem witness_ImageGrants :
    ((dImage 4).StartsOn (cmdOf (xImage 4) []) 0x04 (xImage 4) 1 [.assigned, .running, .halted] [(0x10, 1)]
      ∧ (dImage 4).own.image (rdb (xImage 4).entry 0x10) = some ([3, 4], [1]))
    ∧ ((dImage 5).StartsOn (cmdOf (xImage 5) []) 0x05 (xImage 5) 1 [.assigned, .running, .halted] [(0x10, 1)]
      ∧ (dImage 5).own.image (rdb (xImage 5).entry 0x10) = some ([3, 4], [1]))
    ∧ ((hostDev (xImage 4) (ctx1 .running)).own.image (rdb (xImage 4).entry 0x10) = none
      ∧ (hostDev (xImage 4) (ctx1 .running)).StartsOn (cmdOf (xImage 4) []) 0x04 (xImage 4) 1 [.assigned, .running, .halted] [(0x10, 1)])
    ∧ ((hostDev (xImage 5) (ctx1 .running)).own.image (rdb (xImage 5).entry 0x10) = none
      ∧ (hostDev (xImage 5) (ctx1 .running)).StartsOn (cmdOf (xImage 5) []) 0x05 (xImage 5) 1 [.assigned, .running, .halted] [(0x10, 1)]) := by
  repeat' (first | decide +kernel | constructor)

def xAlloc (dev n : Nat) : Fetched := xOf 0x21 [(0x10, 1, dev), (0x14, 4, n), (0x18, 8, 0x1000)]
/-- HBM stack 0 is in service, its first unit taken, its second dirty. -/
def dAlloc (dev n : Nat) : Dev :=
  putIn [hbmGroup 0] { hostDev (xAlloc dev n) (ctx1 .assigned) with own := { Own.init with map := [(0, .context 1 false), (1, .freeDirty)] } }

def xFree (n : Nat) : Fetched := xOf 0x22 [(0x14, 4, n), (0x18, 8, 0x1000)]
def dFree (n : Nat) : Dev := { hostDev (xFree n) (ctx1 .halted) with own := { Own.init with map := [(0, .context 1 false)] } }
def freeCmd (n : Nat) (a : Nat) : HostCmd := cmdOf (xFree n) (leBytes 8 a)

def xHostMem (op n : Nat) : Fetched := fetched .adm (entry 6 [(0x10, 1, op), (0x14, 4, 1048576 - n), (0x18, 4, n)])
/-- The last granule is released, and device 15 has free units where `have'`. -/
def dReclaim (have' : Bool) : Dev :=
  putIn (if have' then [capGroup 15] else [])
    { hostDev (xHostMem 2 1) Ctx.init with own := { Own.init with capFree := 0x8000, dpa := [(1048575, some none)] } }

/-- Where no unit is free, none is taken. -/
theorem takeUnits_none (p : Nat → Bool) (h : ∀ u, p u = false) (fuel need u : Nat) : takeUnits p fuel need u = [] := by
  induction fuel generalizing need u with
  | zero => rfl
  | succ n ih => cases need with
    | zero => rfl
    | succ k => rw [takeUnits, h, if_neg (by decide), ih]

theorem witness_MemoryOwnership_alloc :
    ((dAlloc 0 3).StartsOn (cmdOf (xAlloc 0 3) []) 0x21 (xAlloc 0 3) 1 [.assigned, .halted] [(0x10, 1), (0x11, 1), (0x14, 4), (0x18, 8)]
      ∧ rdb (xAlloc 0 3).entry 0x11 ≤ 1 ∧ rdb (xAlloc 0 3).entry 0x10 < 0x20
      ∧ (dAlloc 0 3).allocation 1 (rdb (xAlloc 0 3).entry 0x10) (rd (xAlloc 0 3).entry 0x14 4) = some [2, 3, 4]
      ∧ [2, 3, 4].any (dAlloc 0 3).traced = false)
    ∧ ((dAlloc 0 4).StartsOn (cmdOf (xAlloc 0 4) []) 0x21 (xAlloc 0 4) 1 [.assigned, .halted] [(0x10, 1), (0x11, 1), (0x14, 4), (0x18, 8)]
      ∧ rdb (xAlloc 0 4).entry 0x11 ≤ 1 ∧ rdb (xAlloc 0 4).entry 0x10 < 0x20 ∧ (deviceUnits (rdb (xAlloc 0 4).entry 0x10)).isSome
      ∧ (dAlloc 0 4).allocation 1 (rdb (xAlloc 0 4).entry 0x10) (rd (xAlloc 0 4).entry 0x14 4) = none)
    ∧ ((dAlloc 0x20 1).flat (rdb (xAlloc 0x20 1).entry 0x10 - 0x20) = false)
    ∧ ((dFree 1).StartsOn (freeCmd 1 (0xFFFF * 2 ^ 48)) 0x22 (xFree 1) 1 [.assigned, .halted] [(0x14, 4), (0x18, 8)]
      ∧ (List.range (rd (xFree 1).entry 0x14 4)).map (fun i => (dFree 1).ownedUnit 1 (rd (freeCmd 1 (0xFFFF * 2 ^ 48)).data (8 * i) 8)) = [0].map some)
    ∧ ((dFree 2).StartsOn (freeCmd 2 (0xFFFF * 2 ^ 48)) 0x22 (xFree 2) 1 [.assigned, .halted] [(0x14, 4), (0x18, 8)]
      ∧ 1 < rd (xFree 2).entry 0x14 4 ∧ (dFree 2).ownedUnit 1 (rd (freeCmd 2 (0xFFFF * 2 ^ 48)).data (8 * 1) 8) = none) := by
  repeat' (first | decide +kernel | constructor)

theorem witness_MemoryOwnership_host :
    ((hostDev (xHostMem 1 2) Ctx.init).StartsHostMem (cmdOf (xHostMem 1 2) []) (xHostMem 1 2) 1
      ∧ ∀ k ∈ (xHostMem 1 2).granules, ((hostDev (xHostMem 1 2) Ctx.init).dpaUnit k).isSome)
    ∧ ((({ dReclaim true with host := { HostIf.init with fetched := [xHostMem 1 1] } }) : Dev).StartsHostMem (cmdOf (xHostMem 1 1) [])
        (xHostMem 1 1) 1 ∧ 1048575 ∈ (xHostMem 1 1).granules ∧ (dReclaim true).dpaUnit 1048575 = none)
    ∧ ((dReclaim true).StartsHostMem (cmdOf (xHostMem 2 1) []) (xHostMem 2 1) 2
      ∧ (∀ k ∈ (xHostMem 2 1).granules, (dReclaim true).dpaUnit k = none)
      ∧ (List.range 16).map (fun m => (dReclaim true).pickUnits (capUnit0 + m * 65536) 65536 (onDevice (xHostMem 2 1).granules m).length)
        = (List.replicate 15 [] ++ [[capUnit0 + 15 * 65536]]).map some)
    ∧ ((dReclaim false).StartsHostMem (cmdOf (xHostMem 2 1) []) (xHostMem 2 1) 2
      ∧ ∀ k ∈ (xHostMem 2 1).granules, (dReclaim false).dpaUnit k = none) := by
  repeat' (first | decide +kernel | constructor)

theorem witness_MemoryOwnership_full :
    (15 : Nat) < 16 ∧ (dReclaim false).pickUnits (capUnit0 + 15 * 65536) 65536 (onDevice (xHostMem 2 1).granules 15).length = none := by
  have h : ∀ w u, (dReclaim false).freeUnit w u = false := fun w u => rfl
  refine ⟨by decide, ?_⟩
  simp only [Dev.pickUnits, takeUnits_none _ (h _)]
  decide +kernel

/-- A program that is beat-locked or not. -/
def prog (locked : Bool) : Container :=
  { beatLocked := locked, det := false, lockstep := 0, memMode := 0, period := 0, guard := 0, pm1 := 0, iter := 0, rank := 0, partner := 0,
    diePairs := 0, rings := [], laps := [], regions := [], cores := [], restarts := [], digest := [] }

def xHaltAt (b : Nat) : Fetched := xOf 0x25 [(0x10, 8, b)]
def xStats : Fetched := xOf 0x08 [(0x10, 8, 0x2000)]
/-- Context 1 runs; the period is 1 ms. -/
def dHaltAt (b : Nat) (locked : Bool) (halt : Option Nat) : Dev :=
  (hostDev (xHaltAt b) { ctx1 .running with loaded := some (prog locked), haltAt := halt }).put BRY_PERIOD.PERIOD 1000000

theorem witness_HaltAndStats :
    ((dHaltAt 5 true (some 9)).StartsOn (cmdOf (xHaltAt 5) []) 0x25 (xHaltAt 5) 1 [.running] [(0x10, 8)]
      ∧ ((dHaltAt 5 true (some 9)).ctxAt 1).haltAt ≠ none)
    ∧ ((dHaltAt 5 false none).StartsOn (cmdOf (xHaltAt 5) []) 0x25 (xHaltAt 5) 1 [.running] [(0x10, 8)]
      ∧ ((dHaltAt 5 false none).ctxAt 1).haltAt = none ∧ (dHaltAt 5 false none).locked 1 = false)
    ∧ ((dHaltAt 0 true none).StartsOn (cmdOf (xHaltAt 0) []) 0x25 (xHaltAt 0) 1 [.running] [(0x10, 8)]
      ∧ (dHaltAt 0 true none).locked 1 = true ∧ (dHaltAt 0 true none).tooLate (rd (xHaltAt 0).entry 0x10 8) 0 = true)
    ∧ ((dHaltAt 5 true none).StartsOn (cmdOf (xHaltAt 5) []) 0x25 (xHaltAt 5) 1 [.running] [(0x10, 8)]
      ∧ (dHaltAt 5 true none).locked 1 = true ∧ (dHaltAt 5 true none).tooLate (rd (xHaltAt 5).entry 0x10 8) 0 = false)
    ∧ (hostDev (xOf 0x26 []) (ctx1 .running)).StartsOn (cmdOf (xOf 0x26 []) []) 0x26 (xOf 0x26 []) 1 [.running] []
    ∧ ((hostDev xStats (ctx1 .running)).Starts (cmdOf xStats []) 0x08 xStats ∧ argsClean xStats.entry [(0x10, 8)] = true) := by
  repeat' (first | decide +kernel | constructor)

/-- CTX_SETUP of one unit of stack 0 and core 0, with an event object. -/
def xSetup : Fetched := xOf 0x20 [(0x14, 4, 2), (0x18, 8, 0x3000), (0x20, 1, 1), (0x2C, 4, 0x1000), (0x38, 2, 1)]
def dSetup : Dev := putIn [csGroup 0, hbmGroup 0] (hostDev xSetup (ctx1 .assigned))
def hSetup : HostCmd := cmdOf xSetup (rec 16 [(3, 1, kEvent), (8, 8, 10)])

theorem witness_CtxSetupBinds : dSetup.StartsSetup hSetup xSetup 1 [0, 1] ∧ dSetup.untraced xSetup.setupDies
    ∧ (dSetup.put MMC_TRACE.EN 1 0).StartsSetup hSetup xSetup 1 [0, 1] := by
  unfold Dev.untraced
  repeat' (first | decide +kernel | constructor)

/-- COPY in, COPY out and HOST_COPY of 65 bytes. -/
def xCopy (dir src dst : Nat) : Fetched := xOf 0x27 [(0x10, 8, src), (0x18, 8, dst), (0x20, 8, 65), (0x28, 1, dir)]
def xHostCopy (dir : Nat) : Fetched := fetched .adm (entry 7 [(0x10, 8, 64), (0x18, 8, 4096), (0x20, 8, 65), (0x28, 1, dir)])

theorem witness_Copies :
    ((coreHost (xCopy 0 0 63) .running).StartsOn (cmdOf (xCopy 0 0 63) []) 0x27 (xCopy 0 0 63) 1 [.assigned, .running, .halted]
        [(0x10, 8), (0x18, 8), (0x20, 8), (0x28, 1)]
      ∧ 1 ≤ rd (xCopy 0 0 63).entry 0x20 8 ∧ rd (xCopy 0 0 63).entry 0x20 8 ≤ 2 ^ 40 ∧ rdb (xCopy 0 0 63).entry 0x28 = 0
      ∧ (walkList (copyIn 1 [] 63) (pieces 63 65) pt ((coreHost (xCopy 0 0 63) .running).begin (xCopy 0 0 63))).1 = none
      ∧ (walkList (copyIn 1 [] 0x600000) (pieces 0x600000 65) pt ((coreHost (xCopy 0 0 63) .running).begin (xCopy 0 0 63))).1.isSome)
    ∧ ((coreHost (xCopy 1 63 0) .running).StartsOn (cmdOf (xCopy 1 63 0) []) 0x27 (xCopy 1 63 0) 1 [.assigned, .running, .halted]
        [(0x10, 8), (0x18, 8), (0x20, 8), (0x28, 1)] ∧ rdb (xCopy 1 63 0).entry 0x28 = 1
      ∧ (walkList (copyOut 1 0 63) (pieces 63 65) pt ((coreHost (xCopy 1 63 0) .running).begin (xCopy 1 63 0))).1 = none)
    ∧ (∀ k < 3, (coreHost (xHostCopy k) .running).hostUp = true
      ∧ (coreHost (xHostCopy k) .running).hostNext (cmdOf (xHostCopy k) []) = some (xHostCopy k) ∧ rdb (xHostCopy k).entry 0 = 7
      ∧ argsClean (xHostCopy k).entry [(0x10, 8), (0x18, 8), (0x20, 8), (0x28, 1)] = true ∧ rdb (xHostCopy k).entry 0x28 = k
      ∧ (coreHost (xHostCopy k) .running).dpaReady 64 65 = true ∧ (coreHost (xHostCopy k) .running).dpaReady 4096 65 = true
      ∧ (hostDev (xHostCopy k) (ctx1 .running)).dpaReady 64 65 = false) := by
  repeat' (first | decide +kernel | constructor)

/-- A container of 160 bytes without entries, and the LOAD and START of it. -/
def blob : Bytes := rec 160 [(0, 4, 0x51504D42), (4, 2, 1), (8, 8, 160), (0x28, 4, 3072522962)]
def xLoad : Fetched := xOf 0x23 [(0x10, 8, 0x4000), (0x18, 8, 160)]
def xStart : Fetched := xOf 0x24 []

theorem witness_LoadBindsProgram : (coreHost xLoad .assigned).StartsLoad (cmdOf xLoad blob) xLoad 1
    ∧ (coreHost xLoad .assigned).Loadable 1 (sub blob 0 (rd xLoad.entry 0x18 8)) (rd xLoad.entry 0x18 8) := by
  repeat' (first | decide +kernel | constructor)

/-- Context 1 has a program; a LOCKED module with a period of 1 ms. -/
def dStart (locked : Bool) (x : Fetched) : Dev :=
  (((coreHost x .assigned).modCtx 1 (fun y => { y with loaded := some { prog locked with period := if locked then 1000000 else 0 } })).put
    BRY_PERIOD.PERIOD 1000000).put BRY_TIME_STAT.STATE 2
def xStartAt : Fetched := xOf 0x24 [(0x10, 8, 9)]

theorem witness_StartRuns :
    (∃ p, (dStart false xStart).StartsRun (cmdOf xStart []) xStart 1 p ∧ p.beatLocked = false)
    ∧ (∃ p, (dStart true xStartAt).StartsRun (cmdOf xStartAt []) xStartAt 1 p ∧ p.beatLocked = true) := by
  refine ⟨⟨{ prog false with period := 0 }, ?_⟩, ⟨{ prog true with period := 1000000 }, ?_⟩⟩ <;>
    repeat' (first | decide +kernel | constructor)

/-- IMPORT of one record of 16 bytes, into context memory or an image on stack 0. -/
def xImport (dst : Nat) : Fetched :=
  xOf 0x28 [(0x11, 1, dst), (0x14, 4, 1), (0x28, 8, 16)]
def dImport (dst : Nat) (dev : List Nat) : Dev :=
  putIn dev { hostDev (xImport dst) (ctx1 .halted) with keep := { Keeper.init with ctx := [(1, { CtxKeys.init with model := [(0, [1])] })] } }
/-- Every image number is taken. -/
def dNoImage : Dev := { dImport 1 [hbmGroup 0] with own := { Own.init with images := (List.range 63).map (fun i => (i, some ([i], [1]))) } }

/-- An import that runs, and a record for it with a right and a wrong header. -/
def runImport : ImportRun := { entry := (xImport 0).entry, ring := .sq 1 0, key := [1], next := 0, offset := 0, pos := 0, buf := [], image := none }
def record (magic : Nat) : Bytes := rec 64 [(0, 2, magic), (2, 1, 1), (8, 8, 16)]
def dRecord : Dev := (coreDev .halted).modCtx 1 (fun y => { y with imports := [runImport] })

theorem witness_Imports :
    (dImport 0 []).StartsImport (cmdOf (xImport 0) []) (xImport 0) 1 0
    ∧ ((dImport 1 [hbmGroup 0]).StartsImport (cmdOf (xImport 1) []) (xImport 1) 1 1 ∧ rdb (xImport 1).entry 0x30 < 8
      ∧ (dImport 1 [hbmGroup 0]).freeImage = some 0
      ∧ (dImport 1 [hbmGroup 0]).imageUnits (rdb (xImport 1).entry 0x30) (ceilDiv (rd (xImport 1).entry 0x28 8) granule) = some [0])
    ∧ (dNoImage.StartsImport (cmdOf (xImport 1) []) (xImport 1) 1 1 ∧ dNoImage.freeImage = none)
    ∧ (dRecord.ImportNext pt 1 (record 0x4957) runImport (record 0x4957) ∧ recordOk runImport (record 0x4957) = true)
    ∧ (dRecord.ImportNext pt 1 (record 0) runImport (record 0) ∧ importPlain runImport (record 0) = none) := by
  repeat' (first | decide +kernel | constructor)

/-- SQ 0 of context 1 with 16 entries, one of them waiting. -/
def dRing : Dev :=
  (((hostDev xStats (ctx1 .running)).put HOST_SQ_CFG.EN 1 8).put HOST_SQ_CFG.SIZE 4 8).putSq (.sq 1 0) ⟨15, 0⟩
def xOwes : Fetched := { xOf 0x23 [] with begun := true, owes := some (0, 0, 0) }

theorem witness_FetchAndComplete : (dRing.hostUp = true ∧ dRing.nextRing = some (.sq 1 0))
    ∧ (hostDev xOwes (ctx1 .running)).host.fetched.find? (fun f => ringCtx f.ring = some 1 && rd f.entry 8 8 = (7 : W64).toNat && f.owes.isSome) = some xOwes
    ∧ (hostDev xOwes (ctx1 .running)).host.fetched.find? (fun f => ringCtx f.ring = none && rd f.entry 8 8 = (7 : W64).toNat && f.owes.isSome) = none := by
  decide +kernel

theorem witness_DoorbellsMoveRings : dRing.hostUp = true ∧ dRing.owns 1 1 = true ∧ dRing.owns 2 1 = false
    ∧ (dRing.sqEn (.sq 1 0) ∧ 14 < dRing.sqSize (.sq 1 0) ∧ (14 + dRing.sqSize (.sq 1 0) - (dRing.sqAt (.sq 1 0)).tail) % dRing.sqSize (.sq 1 0)
      ≤ dRing.sqSize (.sq 1 0) - 1 - dRing.sqHolds (.sq 1 0)) := by
  decide +kernel

/-- Writes of a ring's register: EN with SIZE 4, the same again, EN with SIZE 5, EN clear. -/
def ringWr (en size : Nat) : RegWr := ⟨BitVec.ofNat 64 (en <<< HOST_SQ_CFG.EN.lo + size <<< HOST_SQ_CFG.SIZE.lo), .full⟩

theorem witness_RingRegisterWrites :
    (((hostDev xStats (ctx1 .running)).hostUp = true ∧ (hostDev xStats (ctx1 .running)).owns 1 1 = true)
      ∧ (hostDev xStats (ctx1 .running)).ringOn (.sub (.sq 1 0)) = false
      ∧ ((hostDev xStats (ctx1 .running)).ringWritten (.sub (.sq 1 0)) (ringWr 1 4)).ringOn (.sub (.sq 1 0)) = true)
    ∧ (dRing.owns 1 1 = true ∧ (dRing.ringWritten (.sub (.sq 1 0)) (ringWr 0 4)).ringOn (.sub (.sq 1 0)) = false
      ∧ dRing.ringOn (.sub (.sq 1 0)) = true
      ∧ (dRing.ringWritten (.sub (.sq 1 0)) (ringWr 0 4)).ringSize (.sub (.sq 1 0)) = dRing.ringSize (.sub (.sq 1 0)))
    ∧ (dRing.ringWritten (.sub (.sq 1 0)) (ringWr 1 5)).ringSize (.sub (.sq 1 0)) ≠ dRing.ringSize (.sub (.sq 1 0))
    ∧ (selCtx (.sub (.sq 1 0)) = some 1 ∧ dRing.owns 2 1 = false) := by
  decide +kernel

/-- CXL.mem is negotiated; the system key is loaded; granule 1 is released. -/
def dCxl (key : Bool) : Dev :=
  { up with
    host := { HostIf.init with cxl := true, numVfs := 3 }
    own := { Own.init with dpa := [(1, some none)] }
    keep := { Keeper.init with slots := if key then [(0, true)] else [] } }

theorem witness_FunctionsAndCxl :
    (dRing.hostUp = true ∧ (3 : FnId) ≠ 0 ∧ (3 : FnId).val ≤ dRing.host.numVfs ∧ (2 : FnId).val < dRing.host.numVfs
      ∧ dRing.host.numVfs < (4 : FnId).val)
    ∧ ((dCxl true).cxlUp = true ∧ (dCxl true).dpaLocal (64 * (32767 : BitVec 35).toNat) = some (2 ^ 45 + 64 * 32767) ∧ (dCxl true).slotLoaded 0 = true)
    ∧ (dCxl true).dpaLocal (64 * (32768 : BitVec 35).toNat) = none
    ∧ ((dCxl false).cxlUp = true ∧ (dCxl false).dpaLocal (64 * (32767 : BitVec 35).toNat) = some (2 ^ 45 + 64 * 32767)
      ∧ (dCxl false).slotLoaded 0 = false) := by
  decide +kernel

/-! ### The Keeper -/

/-- VF1's exchange at a stage; session 127 of VF1. -/
def dKeep (stage : SpdmStage) (x : Session) : Dev :=
  { coreDev .assigned with keep := { Keeper.init with spdm := [(1, stage)], sessions := [(127, some x)] } }
def msg (n : Option (Fin 128)) (body : Bytes) : SpdmMsg := ⟨1, n, body, true⟩

theorem witness_SpdmMessages :
    (dKeep .version ⟨1, true, 0⟩).Asks (msg none []) ∧ (dKeep .version ⟨1, true, 0⟩).spdmAt 1 = .version
    ∧ ((dKeep .capabilities ⟨1, true, 0⟩).Asks (msg none []) ∧ (dKeep .capabilities ⟨1, true, 0⟩).spdmAt 1 = .capabilities)
    ∧ ((dKeep .algorithms ⟨1, true, 0⟩).Asks (msg none []) ∧ (dKeep .algorithms ⟨1, true, 0⟩).spdmAt 1 = .algorithms)
    ∧ (dKeep .start ⟨1, true, 0⟩).Asks (msg (some 127) [])
    ∧ ((dKeep .start ⟨1, true, 0⟩).Asks (msg none []) ∧ (dKeep .start ⟨1, true, 0⟩).spdmAt 1 ≠ .algorithms ∧ (dKeep .start ⟨1, true, 0⟩).spdmAt 1 ≠ .version)
    ∧ ((dKeep .start ⟨1, true, 0⟩).block Fuses.init (msg (some 127) []) (0x40 + (1 : CtxId).val)).isSome := by
  unfold Dev.Asks
  refine ⟨⟨?_, ?_, ?_⟩, ?_, ⟨⟨?_, ?_, ?_⟩, ?_⟩, ⟨⟨?_, ?_, ?_⟩, ?_⟩, ⟨?_, ?_, ?_⟩, ⟨⟨?_, ?_, ?_⟩, ?_⟩, ?_⟩ <;>
    decide +kernel

theorem asks_session (st : SpdmStage) (x : Session) (b : Bytes) (h : x.fn = 1) : (dKeep st x).Asks (msg (some 127) b) := by
  refine ⟨rfl, nofun, ?_⟩
  intro n hn; cases hn
  exact ⟨rfl, x, rfl, h⟩

/-- VF1 has two sessions. -/
def dFull : Dev := { dKeep .algorithms ⟨1, true, 0⟩ with keep := { (dKeep .algorithms ⟨1, true, 0⟩).keep with
  sessions := [(0, some ⟨1, true, 0⟩), (127, some ⟨1, true, 0⟩)] } }

theorem witness_SpdmSessions :
    ((dKeep .algorithms ⟨1, true, 0⟩).spdmAt 1 = .algorithms ∧ (dKeep .algorithms ⟨1, true, 0⟩).freeSession 1 = some 0
      ∧ (dKeep .algorithms ⟨1, true, 0⟩).Asks (msg (some 127) []))
    ∧ dFull.freeSession 1 = none
    ∧ ((dKeep .start ⟨1, true, 0⟩).Asks (msg (some 127) []) ∧ (dKeep .start ⟨1, true, 0⟩).sessionAt 127 = some ⟨1, true, 0⟩)
    ∧ ((dKeep .start ⟨1, false, 0⟩).Asks (msg (some 127) []) ∧ (dKeep .start ⟨1, false, 0⟩).sessionAt 127 = some ⟨1, false, 0⟩) := by
  refine ⟨⟨?_, ?_, asks_session _ _ _ rfl⟩, ?_, ⟨asks_session _ _ _ rfl, ?_⟩, ⟨asks_session _ _ _ rfl, ?_⟩⟩ <;> decide +kernel

def keyBody : Bytes := rec 100 [(1, 1, 1), (2, 1, 9)]

theorem commands_keys : (dKeep .start ⟨1, true, 0⟩).CommandsKeys (msg (some 127) keyBody) 127 1 :=
  ⟨asks_session _ _ _ rfl, rfl, by decide +kernel, by decide +kernel, by decide +kernel, by decide +kernel, by decide +kernel⟩

/-- The keys that unwrap and the points on the curve are opaque: what else BIND_MODEL_KEY, SET_LINK_KEY and SET_DEBUG_KEY ask holds
together. -/
theorem witness_KeyCommands :
    (dKeep .start ⟨1, true, 0⟩).CommandsKeys (msg (some 127) keyBody) 127 1
    ∧ (((dKeep .start ⟨1, true, 0⟩).ctxAt 1).keyState = true ∧ rdb keyBody 2 ≤ 15
      ∧ tblGet [] ((dKeep .start ⟨1, true, 0⟩).keysAt 1).model (rdb keyBody 2) = []
      ∧ (((dKeep .start ⟨1, true, 0⟩).ctxAt 1).imports.any (fun i => rdb i.entry 0x12 = rdb keyBody 2)) = false
      ∧ ((dKeep .start ⟨1, true, 0⟩).ctxAt 1).state = .assigned ∧ ((dKeep .start ⟨1, true, 0⟩).ctxAt 1).started = false
      ∧ ((dKeep .start ⟨1, true, 0⟩).keysAt 1).link = none ∧ rd keyBody 2 2 = ((dKeep .start ⟨1, true, 0⟩).ctxAt 1).pkey
      ∧ ((dKeep .start ⟨1, true, 0⟩).keysAt 1).debug = none)
    ∧ ((dKeep .start ⟨1, true, 0⟩).Asks (msg (some 127) (rec 2 [(1, 1, 2)])) ∧ (dKeep .start ⟨1, true, 0⟩).inSession (msg (some 127) []) = true
      ∧ rdb (rec 2 [(1, 1, 2)]) 1 = (2 : CtxId).val ∧ ((dKeep .start ⟨1, true, 0⟩).ctxAt 2).state = .free) := by
  refine ⟨commands_keys, ⟨?_, ?_, ?_, ?_, ?_, ?_, ?_, ?_, ?_⟩, asks_session _ _ _ rfl, ?_, ?_, ?_⟩ <;> decide +kernel

/-- The module with glitches in the last second, a sensor active and a level shown. -/
def dAlarm (trips : List (Nat × Nat)) (active level : Nat) (m : ModState) : Dev :=
  ({ up with mmc := { up.mmc with state := m }, keep := { Keeper.init with trips := trips } }.put KEEP_ALARM.ACTIVE active).put KEEP_ALARM.LEVEL level

theorem witness_Alarm :
    ((dAlarm [] 0 0 .running).put KEEP_ALARM_CFG.LEVEL 0 0).tripLevel 4 0 = 0 ∧ (dAlarm [] 0 0 .running).tripLevel 4 0 = 1
    ∧ (dAlarm [] 0 0 .running).tripLevel 3 0 = 2
    ∧ (dAlarm [(1, 0), (2, 0), (1, 0)] 0 0 .running).tripLevel 1 oneSecond = 2
    ∧ ((dAlarm [] 0 1 .alarm).Manages .KEEP_ALARM ∧ wrSets (wrOf [(KEEP_ALARM.CLEAR, 1)]) KEEP_ALARM.CLEAR = true
      ∧ (dAlarm [] 0 1 .alarm).clampHeld = false ∧ (dAlarm [] 0 1 .alarm).mmc.state = .alarm ∧ (dAlarm [] 0 1 .alarm).get KEEP_ALARM.LEVEL 0 = 1)
    ∧ (dAlarm [] 31 1 .alarm).clampHeld = true
    ∧ ((dAlarm [] 0 0 .running).Manages .KEEP_ALARM_CFG ∧ wrSets (wrOf [(KEEP_ALARM_CFG.COMMIT, 1)]) KEEP_ALARM_CFG.COMMIT = true
      ∧ levelsLegal ((dAlarm [] 0 0 .running).get KEEP_ALARM_CFG.LEVEL 0) = true) := by
  unfold Dev.Manages
  decide +kernel

/-- A module whose serial number is 3, with a nonce of zeros and a token in its registers. -/
def dToken (tok : Tbl W64) : Dev :=
  { coreDev .running with keep := { Keeper.init with nonce := zeros 16, nonceValid := true, token := tok,
                                                     ctx := [(1, { CtxKeys.init with debug := some (zeros 96) })] } }

/-- What a token of level 1 and 2 asks holds but for the signature, which is opaque. -/
theorem witness_DebugUnlock :
    (coreDev .running).Manages .KEEP_DBG_NONCE ∧ (coreDev .running).keep.lockout = false
    ∧ ((coreDev .running).Manages .KEEP_DBG_CTL ∧ wrSets (wrOf [(KEEP_DBG_CTL.SUBMIT, 1)]) KEEP_DBG_CTL.SUBMIT = true
      ∧ wrSets (wrOf [(KEEP_DBG_CTL.SUBMIT, 1)]) KEEP_DBG_CTL.LOCK = false)
    ∧ ((dToken [(0, 0x01014454)]).tokenCheck (dToken [(0, 0x01014454)]).token
        = if Config.ecdsaOk (zeros 96) (sub (dToken [(0, 0x01014454)]).token 0 32) (sub (dToken [(0, 0x01014454)]).token 0x20 96) then 1 else 2)
    ∧ (rdb (dToken [(0, 0x01014454)]).token 2 = 1 ∧ (dToken [(0, 0x01014454)]).keep.debug ≠ .module)
    ∧ ((dToken [(0, 0x00024454)]).tokenCheck (dToken [(0, 0x00024454)]).token
        = if Config.ecdsaOk Config.moagenDebugKey (sub (dToken [(0, 0x00024454)]).token 0 32) (sub (dToken [(0, 0x00024454)]).token 0x20 96) then 1 else 2)
    ∧ rdb (dToken [(0, 0x00024454)]).token 2 = 2
    ∧ (dToken []).tokenCheck (dToken []).token ≠ 1
    ∧ (wrSets (wrOf [(KEEP_DBG_CTL.LOCK, 1)]) KEEP_DBG_CTL.LOCK = true ∧ wrSets (wrOf [(KEEP_DBG_CTL.LOCK, 1)]) KEEP_DBG_CTL.SUBMIT = false)
    ∧ (coreDev .running).Manages .KEEP_BOOT := by
  unfold Dev.Manages
  repeat' (first | rfl | decide +kernel | constructor)

/-! ### Rails, starts and resets -/

/-- A module with its rails in a state. -/
def dRail (m : ModState) (vin : Bool) (auto fails : Nat) (start : Option StartRun) (flash : Tbl FlashSlot) : Dev :=
  ({ Dev.init with
    pwr := { Power.init with vsb12 := true, vin48 := vin, seat := vin, vinOn := vin }
    mmc := { Mmc.init with state := m, start := start, retry := m = ModState.standby && fails ≠ 0, flash := flash } }.put MMC_RESET.AUTO auto).put
    KEEP_BOOT.FAILS fails
/-- Both slots of an image kind fail the check. -/
def badImage (kind : Nat) : Tbl FlashSlot := [(kind * 2, ⟨[], 0, false⟩), (kind * 2 + 1, ⟨[], 0, false⟩)]

theorem witness_PowerBringsUp :
    (Dev.init.mmc.state = .off ∧ (Dev.init.bootSlot Fuses.init imgKeeper).isSome ∧ (Dev.init.bootSlot Fuses.init imgMmc).isSome
      ∧ (Dev.init.pwr.vin48 && Dev.init.pwr.seat) = false)
    ∧ ((dRail .off false 1 0 none (badImage imgKeeper)).mmc.state = .off
      ∧ (dRail .off false 1 0 none (badImage imgKeeper)).bootSlot Fuses.init imgKeeper = none)
    ∧ ((dRail .standby false 1 0 none []).mmc.state = .standby ∧ (dRail .standby false 1 0 none []).pwr.vinOn = false
      ∧ (dRail .standby false 1 0 none []).mmc.retry = false ∧ (dRail .standby false 1 0 none []).flag MMC_RESET.AUTO 0 = true)
    ∧ (dRail .standby false 0 0 none []).flag MMC_RESET.AUTO 0 = false
    ∧ ((dRail .standby true 1 1 none []).mmc.retry = true ∧ (dRail .standby true 1 1 none []).pwr.vinOn = true) := by
  decide +kernel

theorem witness_PowerTakesDown : up.mmc.state ≠ .off ∧ up.mmc.state ≠ .standby ∧ (dRail .standby true 1 0 none []).mmc.state = .standby := by
  decide +kernel

theorem witness_StartEnds :
    ((dRail .training true 1 0 (some ⟨true, false⟩) []).mmc.start = some ⟨true, false⟩
      ∧ (dRail .training true 1 0 (some ⟨true, false⟩) []).pwr.vinOn = true
      ∧ (dRail .training true 1 0 (some ⟨true, false⟩) []).startImages Fuses.init true = true
      ∧ (dRail .training true 1 1 (some ⟨true, false⟩) []).get KEEP_BOOT.FAILS 0 < 2)
    ∧ ((dRail .training true 1 0 (some ⟨false, false⟩) []).startImages Fuses.init false = true
      ∧ ∀ c, ((dRail .training true 1 0 (some ⟨false, false⟩) []).ctxAt c).state = .free)
    ∧ ((4 : Fin 6).val < 5 ∧ (dRail .training true 1 1 (some ⟨true, false⟩) (badImage 4)).bootSlot Fuses.init (4 : Fin 6).val = none)
    ∧ (∀ k : Fin 6, ((dRail .training true 1 1 (some ⟨true, false⟩) []).bootSlot Fuses.init k.val).isSome)
    ∧ ((0x8D00 : W16).toNat / 0x1000 = 8 ∧ validUnit (0x8D00 : W16).toNat = true ∧ field (0x8D00 : W16).toNat 8 4 ≠ 0xA
      ∧ field (0x8D00 : W16).toNat 8 4 ≠ 0xC)
    ∧ 2 ≤ (dRail .training true 1 2 (some ⟨true, false⟩) []).get KEEP_BOOT.FAILS 0 := by
  decide +kernel

/-- A reset order. -/
def resetWr (scope : Nat) : RegWr := wrOf [(MMC_RESET.SCOPE, scope), (MMC_RESET.GO, 1), (MMC_RESET.DIE, 7)]

theorem witness_ModuleResets :
    ((coreDev .running).OrdersReset (resetWr 4) 4 ∧ (coreDev .running).mmc.state ≠ .recovery ∧ (coreDev .running).resetBusy = false)
    ∧ ((coreDev .running).OrdersReset (resetWr 2) 2 ∧ (coreDev .running).inService = true ∧ (coreDev .running).keep.erased = false)
    ∧ (coreDev .running).OrdersReset (resetWr 3) 3
    ∧ ({ coreDev .running with keep := { Keeper.init with erased := true } } : Dev).OrdersReset (resetWr 3) 3
    ∧ ((dRail .training true 1 0 (some ⟨true, false⟩) []).Manages .MMC_RESET ∧ wrSets (resetWr 2) MMC_RESET.GO = true
      ∧ (dRail .training true 1 0 (some ⟨true, false⟩) []).resetBusy = true) := by
  unfold Dev.Manages
  repeat' (first | decide +kernel | constructor)

theorem witness_DieResetAndRemoval :
    ((coreDev .running).OrdersReset (resetWr 1) 1
      ∧ ∀ g ∈ dieGroups (((coreDev .running).writeFields .MMC_RESET 0 false (resetWr 1)).get MMC_RESET.DIE 0),
        ((coreDev .running).writeFields .MMC_RESET 0 false (resetWr 1)).usersOf g = [])
    ∧ ((wrOf [(MMC_RESET.SCOPE, 1), (MMC_RESET.GO, 1), (MMC_RESET.FORCE, 1)]) = (wrOf [(MMC_RESET.SCOPE, 1), (MMC_RESET.FORCE, 1), (MMC_RESET.GO, 1)])
      ∧ ((coreDev .running).writeFields .MMC_RESET 0 false (wrOf [(MMC_RESET.SCOPE, 1), (MMC_RESET.GO, 1), (MMC_RESET.FORCE, 1)])).flag MMC_RESET.FORCE 0 = true)
    ∧ (up.OrdersReset (resetWr 5) 5 ∧ ∀ c, (up.ctxAt c).state = .free)
    ∧ ((coreDev .running).OrdersReset (resetWr 5) 5 ∧ ((coreDev .running).ctxAt 1).state ≠ .free)
    ∧ (up.mmc.state ≠ .off ∧ up.mmc.state ≠ .standby ∧ up.flag MMC_RESET.AUTO 0 = true ∧ (up.put MMC_RESET.AUTO 0 0).flag MMC_RESET.AUTO 0 = false) := by
  repeat' (first | decide +kernel | constructor)

/-! ### Units, firmware and power -/

/-- An order of MMC_UNIT_CMD. -/
def unitWr (op unit force : Nat) : RegWr :=
  wrOf [(MMC_UNIT_CMD.OP, op), (MMC_UNIT_CMD.UNIT, unit), (MMC_UNIT_CMD.FORCE, force), (MMC_UNIT_CMD.GO, 1)]

/-- Unit group 2 in a state, its domain on. -/
def dUnit (us : UnitState) (period : Nat) : Dev :=
  ({ coreDev .running with pwr := { Power.init with doms := [(2, ⟨.on, 1⟩)] } }.putUnit 2 us).put BRY_PERIOD.PERIOD period

theorem witness_UnitService :
    ((coreDev .running).OrdersUnit (unitWr 1 0x0600 0) none 1 0x0600 43 ∧ ((coreDev .running).unitAt 43).state ≠ .out
      ∧ (coreDev .running).neighbourOut 43 = false ∧ (coreDev .running).flatQuadrant 43 = false
      ∧ ((coreDev .running).writeFields .MMC_UNIT_CMD 0 false (unitWr 1 0x0600 0)).flag MMC_UNIT_CMD.FORCE 0 = false
      ∧ 43 ∈ orderGroups 0x0600 ∧ (coreDev .running).usersOf 43 ≠ [])
    ∧ (putIn [36] up).OrdersUnit (unitWr 1 0x0500 0) none 1 0x0500 36 ∧ (∀ h ∈ orderGroups 0x0500, (putIn [36] up).usersOf h = [])
    ∧ ((coreDev .running).OrdersUnit (unitWr 2 0x7900 0) none 2 0x7900 375 ∧ ((coreDev .running).unitAt 375).state = .out)
    ∧ (groupOf (0x0000 : W16).toNat = some 2 ∧ ((dUnit .scrub 0).unitAt 2).state = .scrub ∧ (dUnit .scrub 0).domOn 2 = true)
    ∧ (((dUnit .test 1000000).unitAt 2).state = .test ∧ (dUnit .test 1000000).ticking = true ∧ (dUnit .test 0).ticking = false) := by
  repeat' (first | decide +kernel | constructor)

/-- An order of MMC_FW on a kind. -/
def fwWr (op kind : Nat) : RegWr := wrOf [(MMC_FW.OP, op), (MMC_FW.KIND, kind), (MMC_FW.GO, 1)]

theorem witness_FirmwareSteps :
    up.OrdersFw (fwWr 1 5) 1 5 ∧ up.OrdersFw (fwWr 2 0) 2 0 ∧ up.OrdersFw (fwWr 3 4) 3 4 ∧ 4 ≠ imgRecovery
    ∧ ({ up with mmc := { up.mmc with begun := some (5, [1]) } } : Dev).Manages .MMC_FW_DATA
    ∧ up.slotRuns Fuses.init 4 (up.idleSlot 4) = true
    ∧ ({ up with mmc := { up.mmc with flash := badImage 4 } } : Dev).slotRuns Fuses.init 4 (up.idleSlot 4) = false
    ∧ (({ up with mmc := { up.mmc with switching := some 3 } } : Dev).mmc.switching = some 3
      ∧ ({ up with mmc := { up.mmc with switching := some 3 } } : Dev).switchReady 3 = true)
    ∧ (up.Manages .MMC_TRACE ∧ wrCarries (wrOf [(MMC_TRACE.EN, 0x80)]) MMC_TRACE.EN = true ∧ up.traceAllowed 7 = true) := by
  unfold Dev.Manages
  repeat' (first | decide +kernel | constructor)

theorem witness_PowerControl :
    up.mmc.state ≠ .off ∧ (2350 < (2351 : W16).toNat ∧ (2350 : W16).toNat ≤ 2350 ∧ (2200 : W16).toNat ≤ 2200 ∧ 2200 < (2201 : W16).toNat)
    ∧ (up.Manages .PWR_CAP ∧ mmcLoses none = false
      ∧ field (up.merged .PWR_CAP (wrOf [(PWR_CAP.CAP, 1950), (PWR_CAP.FIXED_DUTY, 64)])) 0 12 = 1950
      ∧ field (up.merged .PWR_CAP (wrOf [(PWR_CAP.CAP, 1950), (PWR_CAP.FIXED_DUTY, 64)])) 12 7 = 64)
    ∧ (dieDoms 7).find? (fun x => (({ up with pwr := { Power.init with doms := [(442, ⟨.raising, 0⟩)] } } : Dev).domAt x).state = .raising) = some 442
    ∧ (({ up with pwr := { Power.init with doms := [(442, ⟨.on, 0⟩)] } } : Dev).domIdle 442 = true
      ∧ (({ up with pwr := { Power.init with doms := [(442, ⟨.on, 0⟩)] } } : Dev).domAt 442).state ≠ .off)
    ∧ (up.domIdle 418 = false ∧ up.domIdle 0 = true) := by
  unfold Dev.Manages
  decide +kernel

/-! ### Links -/

/-- A module with a committed HALF profile: port 0 has quads 0 to 5, in a state, with a record; quad `q` in a state. -/
def dLink (ps : Nat) (p : LnkPort) (qs : List (Nat × Nat)) : Dev :=
  qs.foldl (fun d e => d.put LNK_QUAD.STATE e.2 e.1)
    (((((((({ up with lnk := tblSet LnkPort.init [] 0 p }.put LNK_PROFILE.COMMITTED 1).put LNK_PORT_MAP.COUNT 5 0).put LNK_PORT_MAP.SPARES 1 0).put
      LNK_PORT_STAT.STATE ps 0).put LNK_QUAD.PORT 0 0).put LNK_QUAD.PORT 0 1).put LNK_QUAD.PORT 0 4).put LNK_QUAD.PORT 0 5)

def commitWr (prof : Nat) : RegWr := wrOf [(LNK_PROFILE.PROFILE, prof), (LNK_PROFILE.COMMIT, 1)]
def enWr (en : Nat) : RegWr := wrOf [(LNK_PORT_CFG.EN, en)]

theorem witness_LinkStart :
    (up.Manages .LNK_PROFILE ∧ wrSets (commitWr 3) LNK_PROFILE.COMMIT = true ∧ up.flag LNK_PROFILE.COMMITTED 0 = false
      ∧ (up.writeFields .LNK_PROFILE 0 false (commitWr 3)).get LNK_PROFILE.PROFILE 0 < 4
      ∧ up.pool 0 + up.pool 1 + up.pool 2 + up.pool 3 = 1792)
    ∧ ((up.put LNK_CREDIT.TC0 65 0).pool 0 + up.pool 1 + up.pool 2 + up.pool 3 = 1793)
    ∧ (dLink 0 LnkPort.init []).flag LNK_PROFILE.COMMITTED 0 = true
    ∧ ((dLink 0 LnkPort.init []).Manages .LNK_PORT_CFG ∧ wrCarries (enWr 1) LNK_PORT_CFG.EN = true ∧ wrSets (enWr 1) LNK_PORT_CFG.EN = true
      ∧ (dLink 0 LnkPort.init []).linksLive = true ∧ (dLink 0 LnkPort.init []).portCount 0 ≠ 0 ∧ (dLink 0 LnkPort.init []).portState 0 = psDown)
    ∧ (wrSets (enWr 0) LNK_PORT_CFG.EN = false ∧ (dLink 1 LnkPort.init []).portState 0 ≠ psDown)
    ∧ ((dLink 1 LnkPort.init [(4, 1)]).quadState 4 = qsTraining ∧ 4 ∈ (dLink 1 LnkPort.init [(4, 1)]).activePlaces 0
      ∧ (dLink 1 LnkPort.init [(4, 1)]).get LNK_QUAD.PORT 4 = 0 ∧ ((dLink 1 LnkPort.init [(4, 1)]).portAt 0).peer = none)
    ∧ ((dLink 1 LnkPort.init []).activePlaces 0).any (fun q => (dLink 1 LnkPort.init []).quadState q = qsActive) = false
    ∧ (((dLink 0 { LnkPort.init with retry := true } []).portAt 0).retry = true
      ∧ (dLink 0 { LnkPort.init with retry := true } []).flag LNK_PORT_CFG.EN 0 = true) := by
  unfold Dev.Manages
  decide +kernel

/-- A link-control flit with its CHK. -/
def flit (fs : List (Nat × Nat × Nat)) : Bytes := rec 124 fs ++ leBytes 4 (crc32c (rec 124 fs))
/-- Port 0 carries flits on quads 0 and 1, quad 5 is a trained spare. -/
def carries (c : Option QuadChange) : Dev := dLink 4 { LnkPort.init with order := [0, 1], change := c } [(0, 2), (1, 2), (5, 3)]
def asked (req : Nat) (agreed : Bool) : QuadChange := ⟨true, req, 1, 0, 9, 77, agreed, false⟩
def recalWr : RegWr := wrOf [(LNK_QUAD.RECAL, 1)]

theorem witness_QuadChanges_flits :
    (lcfGood (flit []) = true ∧ psDiscover ≤ (carries none).portState 0 ∧ rdb (flit []) 0x1C = 0)
    ∧ (lcfGood (flit [(0x1C, 1, 1), (0x1D, 1, 1)]) = true
      ∧ (carries none).changeOk 0 1 ((carries none).lcfQuad 0 (flit [(0x1C, 1, 1), (0x1D, 1, 1)])) 0 = true ∧ ((carries none).portAt 0).change = none)
    ∧ (carries none).changeOk 0 2 ((carries none).lcfQuad 0 (flit [(0x1C, 1, 2), (0x1D, 1, 4)])) 0 = true
    ∧ (carries none).changeOk 0 3 ((carries none).lcfQuad 0 (flit [(0x1C, 1, 3), (0x1D, 1, 0x51)]))
        ((carries none).lcfSpare 0 (flit [(0x1C, 1, 3), (0x1D, 1, 0x51)])) = true
    ∧ (lcfGood (flit [(0x1C, 1, 4), (0x1E, 1, 9), (0x20, 4, 77)]) = true ∧ (asked 1 false).id = rdb (flit [(0x1C, 1, 4), (0x1E, 1, 9), (0x20, 4, 77)]) 0x1E
      ∧ ((carries (some (asked 1 false))).portAt 0).change = some (asked 1 false)
      ∧ (asked 1 false).switchAt = rd (flit [(0x1C, 1, 4), (0x1E, 1, 9), (0x20, 4, 77)]) 0x20 4)
    ∧ (lcfGood (flit [(0x1C, 1, 5), (0x1E, 1, 9)]) = true ∧ (asked 1 false).id = rdb (flit [(0x1C, 1, 5), (0x1E, 1, 9)]) 0x1E) := by
  decide +kernel

theorem witness_QuadChanges_quads :
    (((carries (some (asked 1 true))).portAt 0).change = some (asked 1 true) ∧ ((carries (some (asked 1 true))).portAt 0).todo = []
      ∧ ((carries (some (asked 1 true))).portAt 0).order.any (· ≠ 1) = true)
    ∧ ((carries none).get LNK_QUAD.PORT 0 = 0 ∧ (carries none).quadState 0 = qsActive ∧ ((carries none).portAt 0).order.contains 0 = true
      ∧ ((carries none).portAt 0).order.any (· ≠ 0) = true ∧ psDiscover ≤ (carries none).portState 0)
    ∧ ((carries none).Manages .LNK_QUAD ∧ wrSets recalWr LNK_QUAD.RECAL = true ∧ (carries none).recalCheck 0 1 = none
      ∧ (carries none).recalCheck 0 4 = some 5 ∧ (carries (some (asked 1 false))).recalCheck 0 0 = some 2) := by
  unfold Dev.Manages
  decide +kernel

/-! ### Discovery, domain time, beats -/

/-- A packet with its trailer: a CRC in the clear classes, a tag under the key [7] in the others. -/
def pkt (tc : Fin 4) (ty flags pkey seq : Nat) (body payload : Bytes) : Pkt :=
  let p : Pkt := ⟨tc, BitVec.ofNat 8 ty, BitVec.ofNat 8 flags, BitVec.ofNat 16 pkey, 3, 5, BitVec.ofNat 16 seq, 0, body, payload, 0⟩
  { p with trailer := if p.secret then p.tag [7] else p.crc }
/-- It arrives at port 0. -/
def arr (flits : Nat) (p : Pkt) : Arrival := ⟨0, false, flits, false, p, 0⟩
/-- A link-local packet. -/
def local0 (ty : Nat) (fs : List (Nat × Nat × Nat)) : Arrival := arr 1 (pkt 0 ty 0 0 0 (rec 32 fs) [])

/-- Port 0 in a state, with a HELLO heard; the module has serial number 1 and its neighbour 2. -/
def dNbr (ps : Nat) (h : Option Bytes) (echoed : Bool) : Dev :=
  ((dLink ps { LnkPort.init with order := [0], hello := h, echoed := echoed } [(0, 2)]).put BRY_SERIAL.SERIAL 1 0).put BRY_NBR_SERIAL.SERIAL 2 0

theorem witness_Discovery :
    ((dNbr 2 (some (rec 32 [(0, 8, 2)])) true).portState 0 = psDiscover ∧ ((dNbr 2 (some (rec 32 [(0, 8, 2)])) true).portAt 0).hello = some (rec 32 [(0, 8, 2)])
      ∧ ((dNbr 2 (some (rec 32 [(0, 8, 2)])) true).portAt 0).echoed = true)
    ∧ ((dNbr 2 none false).Hears (local0 0x60 [(0, 8, 1)]) 0x60 ∧ rd (rec 32 [(0, 8, 1)]) 0 8 = (dNbr 2 none false).get BRY_SERIAL.SERIAL 0)
    ∧ ((dNbr 2 none false).Hears (local0 0x60 [(0, 8, 2), (0x10, 8, 1)]) 0x60 ∧ rd (rec 32 [(0, 8, 2), (0x10, 8, 1)]) 0 8 ≠ (dNbr 2 none false).get BRY_SERIAL.SERIAL 0)
    ∧ ((dNbr 3 none false).Hears (local0 0x60 [(0, 8, 4)]) 0x60 ∧ psArmed ≤ (dNbr 3 none false).portState 0
      ∧ rd (rec 32 [(0, 8, 4)]) 0 8 ≠ (dNbr 3 none false).get BRY_NBR_SERIAL.SERIAL 0)
    ∧ (up.Manages .BRY_MODULE_ID ∧ up.idCommitted = false ∧ wrSets (wrOf [(BRY_MODULE_ID.COMMIT, 1)]) BRY_MODULE_ID.COMMIT = true
      ∧ (up.put BRY_MODULE_ID.COMMITTED 1 0).idCommitted = true) := by
  unfold Dev.Manages
  repeat' (first | decide +kernel | constructor)

/-- A child of port 0, or a root, in a state of the exchange. -/
def dTime (root st : Nat) (t : Time) : Dev :=
  (({ dNbr 3 none false with time := t }.put BRY_TIME_CFG.ROOT root 0).put BRY_TIME_CFG.PARENT (if root = 1 then 15 else 0) 0).put BRY_TIME_STAT.STATE st 0
def open0 : Time := { Time.init with exchange := some (9, 0), good := 7, parent := (tsLocked, 0) }

theorem witness_DomainTime :
    (up.Manages .BRY_TIME_CFG ∧ (up.writeFields .BRY_TIME_CFG 0 false (wrOf [(BRY_TIME_CFG.ROOT, 1)])).flag BRY_TIME_CFG.ROOT 0 = true
      ∧ (up.writeFields .BRY_TIME_CFG 0 false (wrOf [(BRY_TIME_CFG.PARENT, 11)])).timeParent = some 11 ∧ up.timeState = tsFree
      ∧ (up.writeFields .BRY_TIME_CFG 0 false (wrOf [(BRY_TIME_CFG.PARENT, 15)])).timeParent = none
      ∧ (up.writeFields .BRY_TIME_CFG 0 false (wrOf [(BRY_TIME_CFG.PARENT, 15)])).flag BRY_TIME_CFG.ROOT 0 = false)
    ∧ ((dTime 0 1 Time.init).timeParent = some 0 ∧ psArmed ≤ (dTime 0 1 Time.init).portState 0)
    ∧ (dTime 1 2 Time.init).Hears (local0 0x61 []) 0x61
    ∧ ((dTime 0 1 open0).Answered (local0 0x62 [(0, 2, 9), (2, 1, tsLocked)]) 0 ∧ (dTime 0 1 open0).timeState = tsAcquiring
      ∧ (dTime 0 1 open0).theta (rec 32 [(0, 2, 9), (2, 1, tsLocked)]) 0 0 = 0)
    ∧ ((dTime 0 2 open0).Answered (local0 0x62 [(0, 2, 9), (2, 1, tsLocked)]) 0 ∧ (dTime 0 2 open0).timeState = tsLocked)
    ∧ ((dTime 0 2 open0).Answered (local0 0x62 [(0, 2, 9)]) 0 ∧ rdb (rec 32 [(0, 2, 9)]) 2 ≠ tsLocked)
    ∧ ((dTime 0 1 Time.init).Hears (local0 0x62 []) 0x62 ∧ (dTime 0 1 Time.init).time.exchange = none)
    ∧ ((dTime 0 1 open0).Hears (local0 0x63 []) 0x63 ∧ (dTime 0 1 open0).time.parent.1 = tsLocked)
    ∧ ((dTime 0 2 open0).Hears (local0 0x63 [(0, 8, 5)]) 0x63 ∧ (dTime 0 2 open0).agrees 5 0 0 = false) := by
  unfold Dev.Manages
  repeat' (first | decide +kernel | constructor)

/-- A root or not, with a period in force, and a beat announced for. -/
def dBeat (root period at' : Nat) : Dev :=
  ((up.put BRY_TIME_CFG.ROOT root 0).put BRY_PERIOD.PERIOD period 0).setReg .BRY_PERIOD_AT 0 at'
def periodWr (next : Nat) : RegWr := wrOf [(BRY_PERIOD.NEXT, next), (BRY_PERIOD.APPLY, 1)]
/-- A beat-locked context that runs, with a fill due at beat 1. -/
def dFill (fills : List Fill) : Dev :=
  (coreDev .running).modCtx 1 (fun x => { x with loaded := some { prog true with rings := [⟨rec 64 [(0x08, 1, 1)]⟩] }, fills := fills })

theorem witness_BeatAndPeriod :
    ((dBeat 1 0 0).AppliesPeriod (periodWr 1999) 1999 ∧ (dBeat 1 0 0).AppliesPeriod (periodWr 1000000001) 1000000001)
    ∧ ((dBeat 0 0 0).AppliesPeriod (periodWr 2000) 2000 ∧ (dBeat 0 0 0).flag BRY_TIME_CFG.ROOT 0 = false)
    ∧ ((dBeat 1 0 0).AppliesPeriod (periodWr 1000000000) 1000000000 ∧ (dBeat 1 0 0).flag BRY_TIME_CFG.ROOT 0 = true
      ∧ (dBeat 1 0 0).get BRY_PERIOD.PERIOD 0 = 0)
    ∧ ((dBeat 1 1000000 1).AppliesPeriod (periodWr 2000) 2000 ∧ (dBeat 1 1000000 1).get BRY_PERIOD.PERIOD 0 ≠ 0
      ∧ (dBeat 1 1000000 1).time.announced = none ∧ (dBeat 1 1000000 1).time.beat < (dBeat 1 1000000 1).reg .BRY_PERIOD_AT 0
      ∧ (dBeat 1 1000000 1).domainTime 0 + oneMilli ≤ (dBeat 1 1000000 1).time.tickT
        + 16 * ((dBeat 1 1000000 1).reg .BRY_PERIOD_AT 0 - (dBeat 1 1000000 1).time.beat) * (dBeat 1 1000000 1).get BRY_PERIOD.PERIOD 0)
    ∧ ((dFill []).locked 1 = true ∧ ((dFill []).ctxAt 1).state = .running ∧ ((dFill []).ctxAt 1).overrun = false
      ∧ ((dFill []).ctxAt 1).endsAt ((dFill []).time.beat + 1) = false ∧ (dFill []).dueLate 1 ((dFill []).time.beat + 1) false = [])
    ∧ (dFill [⟨0, false, 0, 0, 0, 1, [(0, 0)], false, false, 0⟩]).dueLate 1 1 false ≠ [] := by
  unfold dFill
  repeat' (first | decide +kernel | constructor)

/-! ### Flows and packets -/

/-- Module 7 with port 0 UP; job 9 is context 1's, its link key [7], its PKEY allowed at port 0 and at the local table. -/
def dNet : Dev :=
  let d := ((((coreDev .running).put LNK_PORT_STAT.STATE 4 0).put BRY_MODULE_ID.ID 7 0).put BRY_MODULE_ID.COMMITTED 1 0)
  let key := 9 + 0xFFFF * 2 ^ 16 + 31 * 2 ^ 32
  { d with
    keep := { d.keep with ctx := [(1, { CtxKeys.init with link := some ⟨[7], 0, none⟩ })] }
    rte := { Rte.init with tbl := [(rteKey 2 0 0 0, key), (rteKey 2 0 12 0, key)] } }

/-- A packet for module 7 with SYN. -/
def toUs (tc : Fin 4) (ty : Nat) (body payload : Bytes) (flags : Nat := 2) : Arrival :=
  let p : Pkt := { pkt tc ty flags 9 100 body payload with dst := 7 }
  arr (if p.isData then p.flitCount else 1) { p with trailer := if p.secret then p.tag [7] else p.crc }

/-- A packet that is sealed under the job's key passes the check of its trailer. -/
theorem sealed_opens (d : Dev) (p : Pkt) (c : CtxId) (k : Bytes) (hs : p.secret = true)
    (hk : d.jobLinks p.pkey.toNat = [(some c, ⟨k, 0, none⟩)]) (ht : p.trailer = p.tag k) : d.openPkt p = (.good false, d) := by
  have hf : p.fits (p.tag k) = some false := by rw [Pkt.fits, if_pos ht]
  have hu : pktUnder p ⟨k, 0, none⟩ = some (false, 0) := by simp only [pktUnder, hf]
  simp only [Dev.openPkt, hs, hk]
  simp [hu]

/-- A packet of a clear class passes by its CRC. -/
theorem clear_opens (d : Dev) (p : Pkt) (hs : p.secret = false) (ht : p.trailer = p.crc) : d.openPkt p = (.good false, d) := by
  simp [Dev.openPkt, hs, ht]

/-- The first packet of a flow, as its receiver takes it. -/
def first (a : Arrival) : RecvFlow := ⟨a.pkt.seq.toNat, a.pkt.tumbler, 0, 0, a.pkt.pkey.toNat, none, none, none⟩

theorem in_order (d : Dev) (a : Arrival) (ty : Nat) (r : RecvFlow) (z : Bool) (ho : d.openPkt a.pkt = (.good false, d))
    (h : a.pkt.type = ty ∧ d.idCommitted = true ∧ d.route a.port.val a.pkt = .here ∧ d.portTakes a.port.val a.pkt = true ∧ d.clamps a.pkt = false
      ∧ a.pkt.wellFormed a.flits = true ∧ d.keyPasses a.port.val a.pkt = true ∧ d.keyPasses localPort a.pkt = true)
    (hp : d.place7 (arrivalFlow a) a.pkt = .accept r z ∧ r.mapped = none ∧ a.pkt.pmap = false) :
    d.InOrder a ty false d r z :=
  ⟨⟨h.1, h.2.1, h.2.2.1, h.2.2.2.1, h.2.2.2.2.1, h.2.2.2.2.2.1, h.2.2.2.2.2.2.1, h.2.2.2.2.2.2.2, ho⟩, hp.1, fun _ => hp.2.1, hp.2.2⟩

/-- Packets 98 and 99 of the flow to module 5 on TC3 wait for their acknowledgement; a far store of core 0 waits for packet 99. -/
def outTo5 (who : Sender) : OutPkt := { plainOut { pkt 3 0x10 0 9 0 [] (zeros 64) with dst := 5 } with who := who }
def dSend : Dev :=
  { dNet with
    rte := { dNet.rte with send := [(flowKey 5 3, { SendFlow.init with next := some 100, unacked := [⟨98, 8, outTo5 .none⟩, ⟨99, 8, outTo5 (.far 0 4)⟩] })],
                           recv := [(flowKey 5 0, some { first (toUs 0 0x43 [] []) with owed := 1 })], rate := [(flowKey 5 2, 20000)] }
    thr := [(1, { Thread.init with state := .ready, far := [(4, 64, 0x1000, 0x400040)] })] }
def ackOf : Arrival := toUs 3 0x40 (rec 32 [(0, 2, 99), (4, 1, 3)]) []
def nackOf : Arrival := toUs 3 0x41 (rec 32 [(0, 2, 99), (2, 1, 1), (4, 1, 3)]) []
def resetOf : Arrival := toUs 3 0x42 (rec 32 [(4, 1, 3)]) []
def refuseOf : Arrival := toUs 3 0x43 (rec 32 [(0, 2, 99), (2, 1, 1), (3, 1, 3)]) []

theorem witness_FlowControl_packets :
    (dSend.Delivered ackOf 0x40 false dSend ∧ ackOf.pkt.at' 0x14 1 = ackOf.pkt.tc.val ∧ (dSend.sendFlow (arrivalFlow ackOf)).covers (ackOf.pkt.at' 0x10 2) = true
      ∧ ∃ x ∈ (dSend.sendFlow (arrivalFlow ackOf)).unacked, x.before (ackOf.pkt.at' 0x10 2) = true)
    ∧ (dSend.Delivered nackOf 0x41 false dSend ∧ (dSend.sendFlow (flowKey 5 3)).covers (nackOf.pkt.at' 0x10 2) = true)
    ∧ dSend.Delivered resetOf 0x42 false dSend
    ∧ (dSend.InOrder refuseOf 0x43 false dSend (first refuseOf) false ∧ refuseOf.pkt.at' 0x12 1 ≠ 0
      ∧ (dSend.sendFlow (flowKey 5 3)).unacked.find? (fun x => x.seq = refuseOf.pkt.at' 0x10 2) = some ⟨99, 8, outTo5 (.far 0 4)⟩
      ∧ (∀ j < 1, ∀ y ∈ (dSend.thrAt (0 * 8 + j)).far, y.1 ≠ 4)
      ∧ (dSend.thrAt (0 * 8 + 1)).far.find? (fun y => y.1 = 4) = some (4, 64, 0x1000, 0x400040) ∧ (dSend.thrAt (0 * 8 + 1)).state.faults = true) := by
  refine ⟨⟨⟨?_, ?_, ?_, ?_, ?_, ?_, ?_, ?_, clear_opens _ _ ?_ ?_⟩, ?_, ?_, ?_⟩, ⟨⟨?_, ?_, ?_, ?_, ?_, ?_, ?_, ?_, clear_opens _ _ ?_ ?_⟩, ?_⟩, ⟨?_, ?_, ?_, ?_, ?_, ?_, ?_, ?_, clear_opens _ _ ?_ ?_⟩,
    in_order _ _ _ _ _ (clear_opens _ _ ?_ ?_) ?_ ?_, ?_, ?_, ?_, ?_, ?_⟩ <;> decide +kernel

theorem witness_FlowControl_timers :
    ((dSend.recvFlow (flowKey 5 0)).map (·.owed) = some 1) ∧ (dSend.sendFlow (flowKey 5 3)).unacked.head? = some ⟨98, 8, outTo5 .none⟩
    ∧ (tblGet 0 dSend.rte.rate (flowKey 5 2) ≠ 0 ∧ dSend.flag RTE_CC.EN 0 = true) := by
  decide +kernel

/-- WRITE to HBM, to a hole, GET_DATA, SHORT, SHORT_CONT, POISON_MAP, GET_REQ and AMO_RESP of the job. -/
def writeOf (addr : Nat) : Arrival := toUs 3 0x10 (rec 14 [(0, 6, addr)]) (zeros 64)
def getDataOf : Arrival := toUs 2 0x11 (rec 14 [(0, 6, 64), (6, 2, 70)]) (zeros 64)
def shortOf : Arrival := toUs 2 0x50 (rec 32 [(0, 6, 64), (6, 1, 23)]) []
def contOf : Arrival := toUs 2 0x51 (rec 32 []) [] 0
def mapOf : Arrival := toUs 3 0x59 (rec 32 [(0, 8, 1)]) [] 0
def getOf : Arrival := toUs 2 0x53 (rec 32 [(0, 6, 64), (16, 4, 256)]) []
def amoOf : Arrival := toUs 2 0x52 (rec 32 [(0, 2, 71), (8, 8, 5)]) []
/-- A get and an AMO of the core wait for their answers; a SHORT of 40 bytes waits for its second piece. -/
def dWait : Dev :=
  { dNet with
    rte := { dNet.rte with send := [(flowKey 5 2, { SendFlow.init with await := [(70, .get 0 0 0 64 64 64), (71, .amo 0 3)] })] }
    thr := [(0, { Thread.init with state := .stall, stall := some (.amo ⟨3, 5, 8, 0x400000⟩) })] }
/-- A SHORT of 40 bytes, as the receiver keeps it. -/
def short40 : Pkt := { pkt 3 0x50 0 9 0 (rec 32 [(0, 6, 64), (6, 1, 39)]) [] with tc := 2 }
def dCont : Dev :=
  { dNet with rte := { dNet.rte with recv := [(flowKey 5 2, some { first contOf with
    short := some (short40, zeros 24, false) })] } }
def dMap : Dev := { dNet with rte := { dNet.rte with recv := [(flowKey 5 3, some { first mapOf with mapped := some (writeOf 64).pkt })] } }

theorem witness_PacketsMoveData_write :
    (dNet.InOrder (writeOf 64) 0x10 false dNet (first (writeOf 64)) false
      ∧ (dNet.taking (writeOf 64) (first (writeOf 64)) false).jobCtx 9 = some 1
      ∧ (dNet.taking (writeOf 64) (first (writeOf 64)) false).pktPlace ((writeOf 64).pkt.spec 0x12 6) = some (.mem 64) ∧ dNet.coreOf 64 = none
      ∧ (dNet.taking (writeOf 64) (first (writeOf 64)) false).homeCheck 1 (.mem 64) (writeOf 64).pkt.payload.length true = none)
    ∧ (dNet.InOrder (writeOf granule) 0x10 false dNet (first (writeOf granule)) false
      ∧ (dNet.taking (writeOf granule) (first (writeOf granule)) false).pktPlace ((writeOf granule).pkt.spec 0x12 6) = some (.mem granule)
      ∧ (dNet.taking (writeOf granule) (first (writeOf granule)) false).homeCheck 1 (.mem granule) (writeOf granule).pkt.payload.length true
        = some refAccess) := by
  refine ⟨⟨in_order _ _ _ _ _ (clear_opens _ _ ?_ ?_) ?_ ?_, ?_, ?_, ?_, ?_⟩, in_order _ _ _ _ _ (clear_opens _ _ ?_ ?_) ?_ ?_, ?_, ?_⟩ <;> decide +kernel

theorem witness_PacketsMoveData_gets :
    (dWait.InOrder getDataOf 0x11 false dWait (first getDataOf) false
      ∧ (dWait.taking getDataOf (first getDataOf) false).getOf 5 (some (getDataOf.pkt.spec 0x18 2)) (getDataOf.pkt.spec 0x12 6) = some (70, .get 0 0 0 64 64 64)
      ∧ bit (getDataOf.pkt.spec 0x1A 1) 0 = false ∧ (dWait.taking getDataOf (first getDataOf) false).jobCtx 9 = some 1
      ∧ (dWait.taking getDataOf (first getDataOf) false).pktPlace (getDataOf.pkt.spec 0x12 6) = some (.mem 64)
      ∧ ∃ old x es, (dWait.taking getDataOf (first getDataOf) false).homeWrite pt 1 (.mem 64) getDataOf.pkt.payload false
        (getCore (some (70, .get 0 0 0 64 64 64))) = (.done old false false, x, es))
    ∧ (dNet.InOrder getOf 0x53 false dNet (first getOf) false ∧ getOf.pkt.at' 0x20 4 ≤ 256
      ∧ (dNet.taking getOf (first getOf) false).pktPlace (getOf.pkt.at' 0x10 6) = some (.mem 64)
      ∧ (dNet.taking getOf (first getOf) false).homeRead pt 1 (.mem 64) (getOf.pkt.at' 0x20 4) = .data (zeros 256) false true)
    ∧ (dWait.InOrder amoOf 0x52 false dWait (first amoOf) false
      ∧ (dWait.sendFlow (flowKey 5 2)).await.find? (fun x => x.1 = amoOf.pkt.at' 0x10 2) = some (amoOf.pkt.at' 0x10 2, .amo 0 3)
      ∧ (dWait.thrAt 0).stall = some (.amo ⟨3, 5, 8, 0x400000⟩) ∧ bit (amoOf.pkt.at' 0x12 1) 1 = false) := by
  refine ⟨⟨in_order _ _ _ _ _ (sealed_opens _ _ 1 [7] ?_ ?_ rfl) ?_ ?_, ?_, ?_, ?_, ?_, ⟨0, _, _, rfl⟩⟩,
    ⟨in_order _ _ _ _ _ (sealed_opens _ _ 1 [7] ?_ ?_ rfl) ?_ ?_, ?_, ?_, ?_⟩,
    in_order _ _ _ _ _ (sealed_opens _ _ 1 [7] ?_ ?_ rfl) ?_ ?_, ?_, ?_, ?_⟩ <;> decide +kernel

theorem witness_PacketsMoveData_shorts :
    (dNet.InOrder shortOf 0x50 false dNet (first shortOf) false ∧ shortOf.pkt.at' 0x17 1 = 0 ∧ shortOf.pkt.at' 0x16 1 < 24
      ∧ dNet.getOf 5 none (shortOf.pkt.at' 0x10 6) = none ∧ dNet.jobCtx 9 = some 1 ∧ dNet.pktPlace (shortOf.pkt.at' 0x10 6) = some (.mem 64)
      ∧ dNet.coreOf 64 = none ∧ dNet.homeCheck 1 (.mem 64) (shortOf.pkt.at' 0x16 1 + 1) true = none)
    ∧ dCont.InOrder contOf 0x51 false dCont { first contOf with
        short := some (short40, zeros 24, false) } false
    ∧ (dCont.homeCheck 1 (.mem 64) 40 true = none ∧ (zeros 24).length < 40 ∧ 40 ≤ (zeros 24).length + 32)
    ∧ (dMap.Delivered mapOf 0x59 false dMap
      ∧ dMap.place7 (arrivalFlow mapOf) mapOf.pkt = .accept { first mapOf with mapped := some (writeOf 64).pkt } false) := by
  refine ⟨⟨in_order _ _ _ _ _ (sealed_opens _ _ 1 [7] ?_ ?_ rfl) ?_ ?_, ?_, ?_, ?_, ?_, ?_, ?_, ?_⟩,
    in_order _ _ _ _ _ (sealed_opens _ _ 1 [7] ?_ ?_ rfl) ?_ ⟨?_, ?_, ?_⟩, ⟨?_, ?_, ?_⟩,
    ⟨⟨?_, ?_, ?_, ?_, ?_, ?_, ?_, ?_, clear_opens _ _ ?_ ?_⟩, ?_⟩⟩
  all_goals decide +kernel

/-! ### Ring packets, the router, register accesses -/

/-- A ring of slices of 128 bytes in two shards from module 5, its blocks in region 0 of core 0 of CD0; one fill is awaited. -/
def ring0 : RingDesc := ⟨rec 64 [(0, 2, 77), (8, 2, 5), (0x10, 4, 128), (0x1A, 2, 64), (0x1E, 1, 1), (0x20, 1, 2), (0x24, 2, 1)]⟩
def fill0 : Fill := ⟨0, false, 0, 4, 6, 1, [(0, 0)], false, false, 0⟩
def dShard (f : Nat) : Dev :=
  { dNet.modCtx 1 (fun x => { x with loaded := some { prog true with rings := [ring0] }, fills := [fill0], lock := { x.lock with form := f } }) with
    regn := [(regionKey 0 0, { Region.init with slotBytes := 128, slots := 2, valid := true, ring := true })] }
def shardOf : Arrival := toUs 1 0x12 (rec 14 [(0, 2, 77), (2, 4, 4), (6, 2, 6), (11, 3, 2)]) (zeros 64)
def haltOf : Arrival := toUs 0 0x58 (rec 32 []) []
def lockOf (mis : Nat) : Arrival := local0 0x64 [(0x18, 2, 40), (0x1A, 1, mis)]
def dAux : Dev := ((dShard 1).put LNK_PORT_STAT.STATE 4 0).put LNK_PORT_MAP.AUX 1 0

theorem witness_RingPackets :
    ((dShard 0).InOrder shardOf 0x12 false (dShard 0) (first shardOf) false
      ∧ ((dShard 0).taking shardOf (first shardOf) false).shardFill shardOf.pkt = some (1, ring0, fill0)
      ∧ shardOffset ring0 fill0 0 (((dShard 0).taking shardOf (first shardOf) false).shardCount ring0 fill0 2) 64 = 0
      ∧ field (shardOf.pkt.spec 0x1D 3) 0 20 = ((dShard 0).taking shardOf (first shardOf) false).shardCount ring0 fill0 2
      ∧ field (shardOf.pkt.spec 0x1A 3) 0 19 < field (shardOf.pkt.spec 0x1D 3) 0 20 ∧ shardOf.pkt.payload.length ≤ ring0.slotBytes false
      ∧ ∀ p ∈ fill0.slots, ((dShard 0).regionAt (ring0.slotCore false p.1) (ring0.regionNo false)).fill < ((dShard 0).regionAt (ring0.slotCore false p.1) (ring0.regionNo false)).slots
        ∧ (dShard 0).isFull (ring0.slotCore false p.1) (ring0.regionNo false) p.2 = false)
    ∧ (dShard 0).InOrder haltOf 0x58 false (dShard 0) (first haltOf) false
    ∧ (dAux.Hears (lockOf 1) 0x64 ∧ psUp ≤ dAux.portState 0 ∧ dAux.portAux 0 = true ∧ dAux.locked 1 = true
      ∧ allCtx.find? (fun c => (dAux.ctxAt c).state = .running && (dAux.ctxAt c).lock.form = 1) = some 1
      ∧ bit ((lockOf 1).pkt.at' 0x2A 1) 0 = true)
    ∧ (dAux.Hears (lockOf 0) 0x64 ∧ bit ((lockOf 0).pkt.at' 0x2A 1) 0 = false) := by
  refine ⟨⟨in_order _ _ _ _ _ (sealed_opens _ _ 1 [7] ?_ ?_ rfl) ?_ ?_, ?_, ?_, ?_, ?_, ?_, ?_⟩, in_order _ _ _ _ _ (clear_opens _ _ ?_ ?_) ?_ ?_,
    ?_, ?_⟩
  all_goals repeat' (first | decide +kernel | constructor)

def selWr (kind version index : Nat) (d : Dev) : Dev :=
  ((d.put RTE_TBL_SEL.KIND kind 0).put RTE_TBL_SEL.VERSION version 0).put RTE_TBL_SEL.INDEX index 0
def flipWr : RegWr := wrOf [(RTE_FLIP.FLIP, 1)]
/-- A circuit of the other version that reserves more than port 0 has. -/
def dBooked : Dev := { dNet with rte := { dNet.rte with tbl := [(rteKey 1 1 1 0, 1 + 2 ^ 6 * 127)] } }
def dFlip (f : Option (Nat × Nat)) (draining : Bool) : Dev := { dNet with rte := { dNet.rte with flip := f, draining := draining } }
/-- A packet for module 5 waits at the local attachment; its flow is open. -/
def wait5 : OutPkt := outTo5 .none
def dOut : Dev := { dNet with outq := [(10, [wait5])], rte := { dNet.rte with send := [(flowKey 5 3, { SendFlow.init with next := some 100, opening := false })] } }
/-- A packet of the key for module 5. -/
def toOther : Arrival := arr 1 { pkt 3 0x10 0 9 0 (rec 14 []) (zeros 64) with dst := 5 }
/-- The same with a route from port 0 to port 1, which is UP. -/
def dRoute : Dev := { dNet.put LNK_PORT_STAT.STATE 4 1 with
  rte := { dNet.rte with tbl := (rteKey 0 0 0 5, 1 + 1 * 2 ^ 3) :: (rteKey 2 0 1 0, 9 + 0xFFFF * 2 ^ 16 + 31 * 2 ^ 32) :: dNet.rte.tbl } }

theorem witness_RouterRows_tables :
    ((selWr 0 1 5 dNet).Manages .RTE_TBL_DATA ∧ selValid (selWr 0 1 5 dNet).tblSel = true ∧ (selWr 0 1 5 dNet).tblSel.2.1 ≠ (selWr 0 1 5 dNet).inforce
      ∧ (selWr 0 1 5 dNet).flag RTE_FLIP.PENDING 0 = false ∧ (selWr 0 1 5 dNet).tblEntry < 2 ^ 64)
    ∧ ((selWr 2 0 5 dNet).Manages .RTE_TBL_DATA ∧ selValid (selWr 2 0 5 dNet).tblSel = true ∧ (selWr 2 0 5 dNet).tblEntry < 2 ^ 64)
    ∧ ((selWr 0 0 5 dNet).Manages .RTE_TBL_DATA ∧ (selWr 0 0 5 dNet).tblSel.1 ≠ 2 ∧ (selWr 0 0 5 dNet).tblSel.2.1 = (selWr 0 0 5 dNet).inforce)
    ∧ (dNet.AsksFlip flipWr 0 ∧ dNet.circuitsFit) ∧ (dBooked.AsksFlip flipWr 0 ∧ ¬ dBooked.circuitsFit)
    ∧ ({ (dNet.setReg .RTE_FLIP_BEAT 0 4) with time := { Time.init with beat := 4 } }.AsksFlip flipWr 4) ∧ (dNet.setReg .RTE_FLIP_BEAT 0 4).AsksFlip flipWr 4 ∧ dNet.time.beat < 4
    ∧ ((dFlip (some (0, 3)) false).rte.flip = some (0, 3) ∧ (dFlip (some (0, 3)) false).circuitsFit)
    ∧ ((dFlip none true).rte.draining = true ∧ ∀ p ∈ (dFlip none true).lnk, ∀ v ∈ p.2.queue, b2n v.pkt.tumbler = (dFlip none true).inforce) := by
  unfold Dev.Manages Dev.circuitsFit
  repeat' (first | decide +kernel | constructor)

theorem witness_RouterRows_packets :
    (dOut.hostUp = true ∧ dOut.idCommitted = true ∧ dOut.firstReady 10 (tblGet [] dOut.outq 10) 0 [] = some (0, wait5)
      ∧ (({ dOut with outq := tblSet [] dOut.outq 10 ((tblGet [] dOut.outq 10).eraseIdx 0) }).sendNew 10 wait5).rte.loop = []
      ∧ wait5.pkt.sequenced = true ∧ (dOut.sendFlow wait5.flow).next = some 100)
    ∧ (toOther.pkt.linkLocal = false ∧ dRoute.hostUp = true ∧ dRoute.idCommitted = true ∧ dRoute.clamps toOther.pkt = false
      ∧ dRoute.keyPasses 0 toOther.pkt = true ∧ dRoute.portTakes 0 toOther.pkt = true ∧ dRoute.route 0 toOther.pkt = .out 1
      ∧ psUp ≤ dRoute.portState 0 ∧ dRoute.carries 1 false toOther.pkt = true ∧ dRoute.keyPasses 1 toOther.pkt = true)
    ∧ (dNet.keyPasses 0 toOther.pkt = true ∧ dNet.portTakes 0 toOther.pkt = true ∧ dNet.route 0 toOther.pkt = .none) := by
  decide +kernel

def mreq (via : MgmtVia) (off : Nat) : MgmtRequest := ⟨via, 5, 8, BitVec.ofNat 32 off, 8, 77, 0⟩
def acc (p : RegPath) (off : Nat) : RegAccess := ⟨p, off, 8, 77, [], 0⟩
/-- A read is a write of no value. -/
def rd8 : RegWr := ⟨0, .full⟩

theorem witness_RegisterAccesses :
    (up.ReadsReg (mreq .bar4 0x2428) rd8 .RTE_CC 0 ∧ up.bar4In = true)
    ∧ (up.ReadsReg (mreq .sideBand 0x2428) rd8 .RTE_CC 0 ∧ up.mmc.state ≠ .off)
    ∧ up.regAt 8 0xFF8 = none
    ∧ (RegName.RTE_CC ∈ storedRegs ∧ up.mmc.switching ≠ some 1 ∧ up.regAt (mreq .sideBand 0x2428).space.toNat (mreq .sideBand 0x2428).offset.toNat = some (.RTE_CC, 0))
    ∧ (bar4Space (acc .bar4 0x802428).offset = (8, 0x2428) ∧ up.regAt 8 0x2428 = some (.RTE_CC, 0))
    ∧ ((coreDev .running).hostUp = true ∧ (coreDev .running).fnPresent 2 = true ∧ accessLanes (acc (.bar0 2) 0x400).offset 8 77 = some ⟨77, .full⟩
      ∧ (coreDev .running).owns 2 (Fin.ofNat 64 ((acc (.bar0 2) 0x400).offset / 0x400)) = false) := by
  repeat' (first | decide +kernel | constructor)

/-! ### Ethernet -/

def sub0 : SubPort := ⟨0, 0⟩
/-- Port 0 in service with flow control `fc` and its link up; queue 0 and queue 16 enabled with 64 descriptors, the PF's; descriptors posted. -/
def dEth (fc : Nat) (rx tx : List Bytes) : Dev :=
  { ((((((((up.put ETH_PORT_CFG.EN 1 0).put ETH_PORT_CFG.LINK 1 0).put ETH_PORT_CFG.FC fc 0).put ETH_PORT_CFG.PFC_EN 255 0).modDom 416 (fun r => { r with state := .on })).put ETH_QCFG.EN 1 0).put
      ETH_QCFG.SIZE 6 0).put ETH_QCFG.EN 1 16).put ETH_QCFG.SIZE 6 16 with eth := { Eth.init with posted := [(0, rx), (16, tx)] } }
def frame (n : Nat) (fs : List (Nat × Nat × Nat)) : EthFrame := ⟨sub0, rec n fs, true⟩
def bcast : EthFrame := frame 64 [(0, 6, 2 ^ 48 - 1)]
def buf : Bytes := rec 32 [(0, 8, 0x4000), (8, 4, 256)]

theorem witness_EthernetReceive_frames :
    ((dEth 0 [] []).subUp sub0 = true ∧ (dEth 0 [] []).noneHeld 0 ∧ (frame 20 []).bytes.length < 60)
    ∧ ((dEth 0 [] []).FrameComes (frame 64 []) ∧ (dEth 0 [] []).takesAddr 0 (frame 64 []).bytes = false)
    ∧ ((dEth 0 [buf] []).Steered bcast ∧ ((dEth 0 [buf] []).queueDescs ((dEth 0 [buf] []).steer bcast).dest).head? = some buf ∧ sizeOk buf = true
      ∧ bcast.bytes.length ≤ rd buf 8 4)
    ∧ ((dEth 2 [] []).Steered bcast ∧ (dEth 2 [] []).queueDescs ((dEth 2 [] []).steer bcast).dest = []
      ∧ (dEth 2 [] []).pfcOn 0 ((dEth 2 [] []).steer bcast).pri = true)
    ∧ ((dEth 0 [] []).Steered bcast ∧ (dEth 0 [] []).queueDescs ((dEth 0 [] []).steer bcast).dest = []
      ∧ (dEth 0 [] []).pfcOn 0 ((dEth 0 [] []).steer bcast).pri = false) := by
  unfold Dev.noneHeld
  refine ⟨⟨?_, ?_, ?_⟩, ⟨⟨?_, ?_, ?_, ?_⟩, ?_⟩, ⟨⟨⟨?_, ?_, ?_, ?_⟩, ?_, ?_, ?_, ?_, ?_, ?_, ?_⟩, ?_, ?_, ?_⟩, ⟨⟨⟨?_, ?_, ?_, ?_⟩, ?_, ?_, ?_, ?_, ?_, ?_, ?_⟩, ?_, ?_⟩,
    ⟨⟨?_, ?_, ?_, ?_⟩, ?_, ?_, ?_, ?_, ?_, ?_, ?_⟩, ?_, ?_⟩ <;> (try unfold Dev.noneHeld) <;> decide +kernel

def armWr (wm : Nat) : RegWr := wrOf [(ETH_QWM.WM, wm), (ETH_QWM.ARMED, 1)]

theorem witness_EthernetReceive_queues :
    ((dEth 0 [] []).hostUp = true ∧ (dEth 0 [] []).reachesQueue 0 0 = true ∧ (dEth 0 [] []).noneHeld (Fin.ofNat 2 (0 / 32)) ∧ (dEth 0 [] []).flag ETH_QCFG.EN 0 = true
      ∧ 2 < (dEth 0 [] []).queueSize 0 ∧ (dEth 0 [] []).get ETH_QSTAT.LEVEL 0 + (dEth 0 [] []).bellMore 0 2 < (dEth 0 [] []).queueSize 0
      ∧ (dEth 0 [] []).queueSize 0 ≤ 65536)
    ∧ (wrSets (armWr 5) ETH_QWM.ARMED = true
      ∧ (dEth 0 [] []).get ETH_QSTAT.LEVEL 0 ≤ ((dEth 0 [] []).writeFields .ETH_QWM 0 false (armWr 5)).get ETH_QWM.WM 0)
    ∧ (((dEth 0 [] []).put ETH_QSTAT.LEVEL 6 0).writeFields .ETH_QWM 0 false (armWr 5)).get ETH_QWM.WM 0 < ((dEth 0 [] []).put ETH_QSTAT.LEVEL 6 0).get ETH_QSTAT.LEVEL 0 := by
  unfold Dev.noneHeld
  decide +kernel

/-- A descriptor of a whole frame of 64 bytes, and one of 20. -/
def txDesc (n : Nat) : Bytes := rec 32 [(0, 8, 0x4000), (8, 4, n), (0xC, 1, 1)]
def pauseOf (time : Nat) : EthFrame := frame 64 [(0, 6, 0x010000C28001), (12, 2, 0x0888), (14, 2, 0x0100), (16, 2, time)]
/-- A share of the sub-port stands above XON. -/
def dXoff : Dev := { dEth 1 [] [] with eth := { Eth.init with subs := [(subKey sub0, { EthSub.init with xoff := 1 })] } }

theorem witness_EthernetSend :
    ((dEth 1 [] []).subUp sub0 = true ∧ isPause (pauseOf 0).bytes = true ∧ (pauseOf 7).bytes.length ≥ 60 ∧ (dEth 1 [] []).get ETH_PORT_CFG.FC 0 = 1
      ∧ beNat (sub (pauseOf 7).bytes 14 2) = 1)
    ∧ (dXoff.subUp sub0 = true ∧ dXoff.get ETH_PORT_CFG.FC 0 = 1 ∧ (dXoff.ethSub sub0).xoff ≠ 0)
    ∧ ((dEth 0 [] [txDesc 64]).txNext sub0 = some 0 ∧ txFrame ((dEth 0 [] [txDesc 64]).queueDescs 16) = some [txDesc 64] ∧ txCheck [txDesc 64] = txOk
      ∧ ((dEth 0 [] [txDesc 64]).modSub sub0 (fun y => { y with next := (0 + 1) % 16 })).txBytes pt 16 [txDesc 64] (zeros 64) = .ok (zeros 64))
    ∧ ((dEth 0 [] [txDesc 99999]).txNext sub0 = some 0 ∧ txFrame ((dEth 0 [] [txDesc 99999]).queueDescs 16) = some [txDesc 99999] ∧ txCheck [txDesc 99999] ≠ txOk)
    ∧ ((dEth 0 [] []).ethUp 0 = true ∧ sub0.sub.val < (dEth 0 [] []).subCount 0) := by
  repeat' (first | decide +kernel | rfl | apply And.intro)

def portWr (en fc : Nat) : RegWr := wrOf [(ETH_PORT_CFG.EN, en), (ETH_PORT_CFG.FC, fc)]
def dPort (en : Nat) : Dev := up.put ETH_PORT_CFG.EN en 0
def queueWr (owner : Nat) : RegWr := wrOf [(ETH_QCFG.EN, 1), (ETH_QCFG.SIZE, 6), (ETH_QCFG.OWNER, owner)]
def ruleWr (q span : Nat) : RegWr := wrOf [(ETH_RULE_DATA.V, 1), (ETH_RULE_DATA.QUEUE, q), (ETH_RULE_DATA.SPAN, span)]

theorem witness_EthernetSetUp :
    ((dPort 0).Manages .ETH_PORT_CFG ∧ (dPort 0).flag ETH_PORT_CFG.EN 0 = false ∧ ((dPort 0).writeFields .ETH_PORT_CFG 0 false (portWr 1 2)).flag ETH_PORT_CFG.EN 0 = true
      ∧ ((dPort 0).writeFields .ETH_PORT_CFG 0 false (portWr 1 2)).portOk 0 = true)
    ∧ (((dPort 0).writeFields .ETH_PORT_CFG 0 false (portWr 1 3)).flag ETH_PORT_CFG.EN 0 = true
      ∧ ((dPort 0).writeFields .ETH_PORT_CFG 0 false (portWr 1 3)).portOk 0 = false)
    ∧ ((dPort 1).Manages .ETH_PORT_CFG ∧ (dPort 1).flag ETH_PORT_CFG.EN 0 = true ∧ ((dPort 1).writeFields .ETH_PORT_CFG 0 false (portWr 0 0)).flag ETH_PORT_CFG.EN 0 = false)
    ∧ (up.hostUp = true ∧ up.noneHeld (Fin.ofNat 2 (0 / 32)) ∧ up.flag ETH_QCFG.EN 0 = false ∧ 64 ≤ up.get ETH_QCFG.OWNER 0
      ∧ (up.queueWritten 0 (queueWr 64)).ownerOk 0 = true ∧ (up.queueWritten 0 (queueWr 64)).flag ETH_QCFG.BUFKIND 0 = false
      ∧ 6 ≤ (up.queueWritten 0 (queueWr 64)).get ETH_QCFG.SIZE 0 ∧ (up.queueWritten 0 (queueWr 64)).get ETH_QCFG.SIZE 0 ≤ 16
      ∧ (up.queueWritten 0 (queueWr 64)).flag ETH_QCFG.EN 0 = true)
    ∧ (ownerChanged up (up.queueWritten 0 (queueWr 65)) 0 = true ∧ (up.queueWritten 0 (queueWr 65)).ownerOk 0 = false)
    ∧ (up.Manages .ETH_RULE_DATA ∧ ruleField ((ruleWr 13 1).value.toNat % 2 ^ 45) ETH_RULE_DATA.QUEUE + 2 ^ ruleField ((ruleWr 13 1).value.toNat % 2 ^ 45) ETH_RULE_DATA.SPAN ≤ 16
      ∧ up.ethRule (up.get ETH_RULE_SEL.PORT 0) (up.get ETH_RULE_SEL.INDEX 0) < 2 ^ 64)
    ∧ 16 < ruleField ((ruleWr 15 1).value.toNat % 2 ^ 45) ETH_RULE_DATA.QUEUE + 2 ^ ruleField ((ruleWr 15 1).value.toNat % 2 ^ 45) ETH_RULE_DATA.SPAN := by
  unfold Dev.Manages Dev.noneHeld
  decide +kernel

/-! ### Threads -/

def th0 : ThreadRef := ⟨0, 0, 0⟩
/-- Where the own core's memory at context address 200008H lies. -/
def own8 : Nat := 70369029390344
/-- Context 1 runs; thread 0 of its core is as given. -/
def dThr (t : Thread) : Dev := { coreDev .running with thr := [(0, t)] }
/-- Memory in which one line of the core's own memory has been written. -/
def m0 : Mem := pt.write own8 (zeros 8) false
/-- It is READY at 0 with registers. -/
def dT (xs : Tbl W64) : Dev := dThr { Thread.init with state := .ready, x := xs }
def insn (n b : Nat) : Insn := ⟨0, 1, 0, n, b⟩
/-- The device with a fetch of the thread translated. -/
def fetchOf (d : Dev) : Dev := d.cache 1 0 (d.translate m0 1 (some 0) .fetch false 0)

theorem issues (d : Dev) (n b : Nat)
    (h : d.holder 0 = some 1 ∧ (d.thrAt 0).pc = 0 ∧ (d.ctxAt 1).state = .running ∧ (d.thrAt 0).state = .ready ∧ d.fetchFault m0 (insn n 0) = none) :
    d.Issues m0 th0 n b (insn n b) (fetchOf d) :=
  ⟨rfl, h.1, h.2.1.symm, rfl, rfl, h.2.2.1, h.2.2.2.1, h.2.2.2.2, by simp [fetchOf, insn, Insn.core]⟩

theorem issues4 (b : Nat) : (dT []).Issues m0 th0 4 b (insn 4 b) (fetchOf (dT [])) := issues _ _ _ (by decide +kernel)
theorem issues2 (b : Nat) : (dT []).Issues m0 th0 2 b (insn 2 b) (fetchOf (dT [])) := issues _ _ _ (by decide +kernel)

/-- ADD, ADDI, BEQ, JAL, FLW. -/
theorem witness_ThreadInstructions :
    (0x33 % 4 = 3 ∧ 0x33 % 128 = 0x33 ∧ (0, 0, fun a b => (a + b) % 2 ^ 64) ∈ regOps ∧ wF7 0x33 = 0 ∧ wF3 0x33 = 0 ∧ (dT []).Issues m0 th0 4 0x33 (insn 4 0x33) (fetchOf (dT [])))
    ∧ (0x13 % 4 = 3 ∧ wF3 0x13 = 0 ∧ (dT []).Issues m0 th0 4 0x13 (insn 4 0x13) (fetchOf (dT [])))
    ∧ (0x63 % 4 = 3 ∧ wF3 0x63 = 0 ∧ (dT []).Issues m0 th0 4 0x63 (insn 4 0x63) (fetchOf (dT [])))
    ∧ (0x6F % 4 = 3 ∧ (dT []).Issues m0 th0 4 0x6F (insn 4 0x6F) (fetchOf (dT [])))
    ∧ (0x07 % 4 = 3 ∧ (dT []).Issues m0 th0 4 0x07 (insn 4 0x07) (fetchOf (dT [])))
    ∧ (dT []).Issues m0 th0 4 0x0FF0000F (insn 4 0x0FF0000F) (fetchOf (dT []))
    ∧ (dT []).Issues m0 th0 4 0x73 (insn 4 0x73) (fetchOf (dT []))
    ∧ ((dT []).Issues m0 th0 2 0x9002 (insn 2 0x9002) (fetchOf (dT [])) ∧ (dT []).keep.debug ≠ .context 1)
    ∧ ({ dT [] with keep := { (dT []).keep with debug := .context 1 } }.Issues m0 th0 4 0x100073 (insn 4 0x100073)
        (fetchOf { dT [] with keep := { (dT []).keep with debug := .context 1 } })) :=
  ⟨⟨rfl, rfl, by simp [regOps], by decide, by decide, issues4 _⟩, ⟨rfl, by decide, issues4 _⟩, ⟨rfl, by decide, issues4 _⟩, ⟨rfl, issues4 _⟩, ⟨rfl, issues4 _⟩, issues4 _, issues4 _,
    ⟨issues2 _, by decide +kernel⟩, issues _ _ _ (by decide +kernel)⟩

def csr (n : Nat) (k : CsrKind) : CsrOp := { csr := BitVec.ofNat 12 n, kind := k, rd := 1, src := 0 }
theorem witness_ThreadInstructions_csr :
    ((dT []).Issues m0 th0 4 (csrBits (csr 0x801 .rs)) (insn 4 (csrBits (csr 0x801 .rs))) (fetchOf (dT [])) ∧ (csrOf 0x801).isSome = true)
    ∧ (dT []).Issues m0 th0 4 (csrBits (csr 0x801 .rw)) (insn 4 (csrBits (csr 0x801 .rw))) (fetchOf (dT []))
    ∧ ((dT []).Issues m0 th0 4 (csrBits (csr 0x300 .rs)) (insn 4 (csrBits (csr 0x300 .rs))) (fetchOf (dT [])) ∧ csrOf 0x300 = none) :=
  ⟨⟨issues4 _, by decide +kernel⟩, issues4 _, issues4 _, by decide +kernel⟩

/-- Thread 0 READY with an address in x5 and a value in x6. -/
def dA (va : Nat) : Dev := dT [(5, BitVec.ofNat 64 va), (6, 7)]
def eA (va : Nat) : Dev := fetchOf (dA va)
/-- The device after an access of the thread has been translated. -/
def seen (va : Nat) (acc : Access) : Dev := ((eA va).reach m0 (insn 4 0) acc va).2

theorem reaches (va b : Nat) (acc : Access) (h : ((eA va).reach m0 (insn 4 0) acc va).1 = .near (.mem own8) false) :
    (eA va).ReachesMem m0 (insn 4 b) acc va own8 false (seen va acc) := Prod.ext h rfl

theorem issuesA (b : Nat) : (dA 0x200008).Issues m0 th0 4 b (insn 4 b) (eA 0x200008) := issues _ _ _ (by decide +kernel)
theorem issuesB (b : Nat) : (dA 0x200001).Issues m0 th0 4 b (insn 4 b) (eA 0x200001) := issues _ _ _ (by decide +kernel)

def load8 : LoadOp := ⟨1, 5, 0, 3, false, false⟩
def store8 : StoreOp := ⟨5, 6, 0, 3, false⟩
def amo8 : AmoOp := ⟨.add, 1, 5, 6, true, false, false⟩
def lr8 : LrScOp := ⟨1, 5, 0, true, false, false⟩
def sc8 : LrScOp := ⟨1, 5, 6, true, false, false⟩

theorem witness_ThreadMemory_near :
    ((dA 0x200001).Issues m0 th0 4 0 (insn 4 0) (eA 0x200001) ∧ (eA 0x200001).loadAddr (insn 4 0) load8 % 2 ^ 3 ≠ 0)
    ∧ ((dA 0x200008).Issues m0 th0 4 0 (insn 4 0) (eA 0x200008) ∧ (eA 0x200008).loadAddr (insn 4 0) load8 = 0x200008
      ∧ (eA 0x200008).ReachesMem m0 (insn 4 0) .read 0x200008 own8 false (seen 0x200008 .read) ∧ (seen 0x200008 .read).nearBlock own8 8 false = none)
    ∧ ((eA 0x200008).storeAddr (insn 4 0) store8 = 0x200008 ∧ (eA 0x200008).ReachesMem m0 (insn 4 0) .write 0x200008 own8 false (seen 0x200008 .write)
      ∧ (seen 0x200008 .write).freeToWrite own8 8)
    ∧ ((eA 0x200008).xreg 0 amo8.rs1.val = 0x200008 ∧ ∃ x es, (seen 0x200008 .write).homeAmo m0 1 (.mem own8) .add 8 7
        ⟨(seen 0x200008 .write).moduleId, (insn 4 0).unit, some 0, 3⟩ false = (.done 0 false false, x, es))
    ∧ ((dA 0x200008).Issues m0 th0 4 (lrScBits lr8 2) (insn 4 (lrScBits lr8 2)) (eA 0x200008)
      ∧ ∃ x, (seen 0x200008 .read).threadRead m0 (insn 4 (lrScBits lr8 2)) (.mem own8) 0x200008 8 = (.value 0, x))
    ∧ ((dA 0x200008).Issues m0 th0 4 (lrScBits sc8 3) (insn 4 (lrScBits sc8 3)) (eA 0x200008)
      ∧ ((seen 0x200008 .write).thrAt 0).resv ≠ some (lineOf own8)) := by
  refine ⟨⟨issuesB 0, ?_⟩, ⟨issuesA 0, ?_, reaches _ _ _ ?_, ?_⟩, ⟨?_, reaches _ _ _ ?_, ?_, ?_⟩, ⟨?_, _, _, Prod.ext ?_ rfl⟩, ⟨issuesA _, _, Prod.ext ?_ rfl⟩, issuesA _, ?_⟩
  all_goals decide +kernel

/-- Thread 0 with its reservation. -/
def dResv : Dev := dThr { Thread.init with state := .ready, x := [(5, 0x200008), (6, 7)], resv := some (lineOf own8) }
/-- A load stands open; a far write flies to HBM; a far store of the core has been performed. -/
def pend8 : PendLoad := ⟨1, 0x200008, own8, 8, false, false, false⟩
def dLoad : Dev := dThr { Thread.init with state := .stall, stall := some (.load pend8) }
def fly (w : Sender) (ans : Option (Nat × Nat × Bool)) : Flight := ⟨4, 1, 0, none, none, 64, zeros 64, 0, w, true, ans⟩
def dFly (w : Sender) (ans : Option (Nat × Nat × Bool)) : Dev :=
  { coreDev .running with flight := [fly w ans], core := [(0, { Core.init with shorts := [4] })] }

theorem witness_ThreadMemory_rest :
    (dResv.Issues m0 th0 4 (lrScBits sc8 3) (insn 4 (lrScBits sc8 3)) (fetchOf dResv) ∧ (fetchOf dResv).xreg 0 5 = 0x200008
      ∧ (fetchOf dResv).ReachesMem m0 (insn 4 (lrScBits sc8 3)) .write 0x200008 own8 false ((fetchOf dResv).reach m0 (insn 4 0) .write 0x200008).2
      ∧ ((((fetchOf dResv).reach m0 (insn 4 0) .write 0x200008).2).thrAt 0).resv = some (lineOf own8)
      ∧ (((fetchOf dResv).reach m0 (insn 4 0) .write 0x200008).2).freeToWrite own8 8)
    ∧ ((dLoad.thrAt (thrNo th0)).stall = some (.load pend8) ∧ dLoad.holder (thrNo th0 / 8) = some 1 ∧ dLoad.decodeAt (some 0) (field own8 45 3) (own8 % 2 ^ 45) = some (.mem own8)
      ∧ ∃ f, dLoad.threadRead m0 (insn 4 0) (.mem own8) 0x200008 8 = (.value 0, f))
    ∧ ((dFly .none none).flight.find? (fun x => x.id = 4 && x.answer.isNone) = some (fly .none none) ∧ (dFly .none none).inOrder (fly .none none) = true
      ∧ (dFly .none none).pktPlace 64 = some (.mem 64) ∧ (dFly .none none).coreOf 64 = none ∧ (dFly .none none).homeCheck 1 (.mem 64) 64 true = none)
    ∧ (dFly (.far 0 4) (some (0, 0, false))).flight.find? (fun x => x.id = 4 && x.short && x.answer.isSome
        && ((dFly (.far 0 4) (some (0, 0, false))).coreAt (coreNo 0 0)).shorts.contains 4) = some (fly (.far 0 4) (some (0, 0, false))) := by
  refine ⟨⟨issues _ _ _ ?_, ?_, Prod.ext ?_ rfl, ?_, ?_, ?_⟩, ⟨?_, ?_, ?_, _, Prod.ext ?_ rfl⟩, ⟨?_, ?_, ?_, ?_, ?_⟩, ?_⟩
  all_goals decide +kernel

/-- A custom instruction with its addresses in x5 and x6. -/
def cust (f7 : Nat) : CustOp := ⟨1, 5, 6, BitVec.ofNat 7 f7⟩
def cust1 (f7 : Nat) : CustOp := ⟨1, 5, 0, BitVec.ofNat 7 f7⟩
/-- Thread 0 READY with x5 and x6; event object 4 of the context is physical object 9 of CD0, at 3 of at most 10; queue 0 with commands. -/
def dC (x5 x6 : W64) (cmds : List QCmd) : Dev :=
  { dT [(5, x5), (6, x6)] with
    sync := { objs := [(syncKey 0 9, { SyncObj.init with kind := kEvent, value := 3, limit := 10 })], vids := [(vidKey 1 0 4, some 9)] },
    que := [(0, { Queue.init with cmds := cmds })] }
def cmd0 : QCmd := ⟨zeros 32, 0, 0, 0, none, 0, []⟩
def full : List QCmd := List.replicate 64 cmd0
def eC (x5 x6 : W64) (cmds : List QCmd) : Dev := fetchOf (dC x5 x6 cmds)

/-- A MISSUE of thread 0 reads its command. -/
theorem issuing (d : Dev) (a v : Nat) (b : Nat) (h : (d.xreg 0 6 = 0 ∧ d.mayIssue (insn 4 b) 0 = true ∧ d.xreg 0 5 = 0x200000)
    ∧ (d.reach m0 (insn 4 0) .read 0x200000).1 = .near (.mem a) false
    ∧ (let f := (d.reach m0 (insn 4 0) .read 0x200000).2
       (f.coreOf a = some 0 ∧ 0x01000000 ≤ f.toCoreLocal a ∧ f.toCoreLocal a < 0x02200000) ∧ (f.threadRead m0 (insn 4 0) (.mem a) 0x200000 32).1 = .value v)) :
    d.Issuing m0 (insn 4 b) (cust 0) 0 v ((d.reach m0 (insn 4 0) .read 0x200000).2.threadRead m0 (insn 4 0) (.mem a) 0x200000 32).2 := by
  obtain ⟨⟨h1, h2, h3⟩, h4, ⟨h5, h6, h7⟩, h8⟩ := h
  refine ⟨rfl, h1, by decide, h2, ?_, a, false, (d.reach m0 (insn 4 0) .read 0x200000).2, ?_, by simpa [insn, Insn.core] using h5, h6, h7, ?_⟩
  · show d.xreg 0 5 % 32 = 0
    rw [h3]
  · show d.ReachesMem m0 (insn 4 b) .read (d.xreg 0 5) a false _
    rw [h3]; exact Prod.ext h4 rfl
  · show Dev.threadRead _ m0 (insn 4 b) (.mem a) (d.xreg 0 5) 32 = _
    rw [h3]; exact Prod.ext h8 rfl

def own0 : Nat := own8 - 8

theorem witness_MISSUE (cmds : List QCmd) (h : cmds = [] ∨ cmds = full) :
    (dC 0x200000 0 cmds).Issues m0 th0 4 (custBits (cust 0) 0x0B 0) (insn 4 (custBits (cust 0) 0x0B 0)) (eC 0x200000 0 cmds)
    ∧ ∃ f, (eC 0x200000 0 cmds).Issuing m0 (insn 4 (custBits (cust 0) 0x0B 0)) (cust 0) 0 0 f ∧ (f.queAt 0 0).cmds = cmds := by
  rcases h with rfl | rfl <;> refine ⟨issues _ _ _ ?_, _, issuing _ own0 0 _ ?_, ?_⟩ <;> decide +kernel

/-- Threads that wait: for room in queue 0, for object 4, for a tick. -/
def dW (t : Thread) : Dev := { dC 0 0 [] with thr := [(0, t)] }
def wait4 (hit : Option Nat) : WaitOn := ⟨0, 4, 0, 8, 1, hit⟩
def dTo : Dev := dW { Thread.init with state := .wait, wait := some (wait4 none), mwtmo := 5 }

theorem witness_ThreadQueuesAndWaits :
    (((dW { Thread.init with state := .stall, stall := some (.queue 0 1 (zeros 32)) }).queAt 0 0).cmds.length < 64
      ∧ (dW { Thread.init with state := .stall, stall := some (.queue 0 1 (zeros 32)) }).granted 0 0 = some (0, 1, zeros 32) ∧ (dW Thread.init).holder 0 = some 1)
    ∧ ((dC 4 3 []).Issues m0 th0 4 (custBits (cust 0) 0x0B 1) (insn 4 (custBits (cust 0) 0x0B 1)) (eC 4 3 [])
      ∧ (eC 4 3 []).WaitsOn (insn 4 (custBits (cust 0) 0x0B 1)) (cust 0) 0 0 4 3 ∧ waitHolds 0 3 ((eC 4 3 []).xreg 0 6) = true)
    ∧ ((dC 4 8 []).Issues m0 th0 4 (custBits (cust 0) 0x0B 1) (insn 4 (custBits (cust 0) 0x0B 1)) (eC 4 8 [])
      ∧ (eC 4 8 []).WaitsOn (insn 4 (custBits (cust 0) 0x0B 1)) (cust 0) 0 0 4 3 ∧ waitHolds 0 3 ((eC 4 8 []).xreg 0 6) = false)
    ∧ (((dW { Thread.init with state := .wait, wait := some (wait4 (some 8)) }).thrAt 0).wait = some (wait4 (some 8)) ∧ (wait4 (some 8)).hit = some 8
      ∧ (dW Thread.init).holder (thrNo th0 / 8) = some 1)
    ∧ ((dTo.thrAt 0).wait = some (wait4 none) ∧ dTo.locked 1 = false ∧ (dTo.thrAt 0).mwtmo ≠ 0 ∧ (dTo.thrAt 0).state = .wait ∧ dTo.objectValue 1 0 0 4 = some 3)
    ∧ ((dC 4 0 []).Issues m0 th0 4 (custBits (cust1 0) 0x0B 2) (insn 4 (custBits (cust1 0) 0x0B 2)) (eC 4 0 [])
      ∧ objectOf 0 ((eC 4 0 []).xreg 0 5) = some 4 ∧ (eC 4 0 []).objectValue 1 0 0 4 = some 3)
    ∧ ((dC 4 7 []).Issues m0 th0 4 (custBits (cust 0) 0x0B 3) (insn 4 (custBits (cust 0) 0x0B 3)) (eC 4 7 []) ∧ (eC 4 7 []).xreg 0 5 < 4096
      ∧ (eC 4 7 []).physOf 1 0 4 = some 9 ∧ ((eC 4 7 []).syncAt 0 9).kind = kEvent ∧ toSigned ((eC 4 7 []).xreg 0 6) 64 = 7
      ∧ (((eC 4 7 []).syncAt 0 9).value : Int) + 7 ≤ (((eC 4 7 []).syncAt 0 9).limit : Int))
    ∧ ((dC 4 (-4) []).Issues m0 th0 4 (custBits (cust 0) 0x0B 3) (insn 4 (custBits (cust 0) 0x0B 3)) (eC 4 (-4) [])
      ∧ toSigned ((eC 4 (-4) []).xreg 0 6) 64 = -4 ∧ (((eC 4 (-4) []).syncAt 0 9).value : Int) + (-4) < 0) := by
  refine ⟨?_, ⟨issues _ _ _ ?_, ⟨?_, ?_, ?_, ?_, ?_⟩, ?_⟩, ⟨issues _ _ _ ?_, ⟨?_, ?_, ?_, ?_, ?_⟩, ?_⟩, ?_, ?_, ⟨issues _ _ _ ?_, ?_⟩, ⟨issues _ _ _ ?_, ?_⟩, issues _ _ _ ?_, ?_⟩
  all_goals decide +kernel

/-- A custom instruction whose registers are x0; RDBEAT of a selection. -/
def bare : CustOp := ⟨0, 0, 0, 0⟩
def rdbeatOp (sel : Fin 32) : CustOp := ⟨1, sel, 0, 0⟩
def fence0 : CustOp := ⟨0, 5, 0, 0⟩
def dStall : Dev := dW { Thread.init with state := .stall, stall := some .fenceR }
def dTick : Dev := { dW { Thread.init with state := .beat, beatIn := 4 } with time := { Time.init with beat := 5 } }

theorem issuesC (b : Nat) : (dC 5 0 []).Issues m0 th0 4 b (insn 4 b) (eC 5 0 []) := issues _ _ _ (by decide +kernel)

theorem witness_ThreadFencesAndBeats :
    ((dC 5 0 []).Issues m0 th0 4 (custBits fence0 0x2B 0) (insn 4 (custBits fence0 0x2B 0)) (eC 5 0 []) ∧ (eC 5 0 []).xreg 0 5 < 128)
    ∧ ((dC 200 0 []).Issues m0 th0 4 (custBits fence0 0x2B 0) (insn 4 (custBits fence0 0x2B 0)) (eC 200 0 []) ∧ 128 ≤ (eC 200 0 []).xreg 0 5)
    ∧ (∀ f ∈ [1, 2, 5], (dC 5 0 []).Issues m0 th0 4 (custBits bare 0x2B f) (insn 4 (custBits bare 0x2B f)) (eC 5 0 [])) ∧ bareOp bare
    ∧ ((dStall.thrAt 0).stall = some .fenceR ∧ dStall.holder 0 = some 1 ∧ dStall.fenceDone 0 .fenceR = true)
    ∧ (∀ sel : Fin 32, (dC 5 0 []).Issues m0 th0 4 (custBits (rdbeatOp sel) 0x2B 3) (insn 4 (custBits (rdbeatOp sel) 0x2B 3)) (eC 5 0 []))
    ∧ (dC 5 0 []).Issues m0 th0 4 (custBits (rdbeatOp 0) 0x2B 4) (insn 4 (custBits (rdbeatOp 0) 0x2B 4)) (eC 5 0 [])
    ∧ (dTick.holder 0 = some 1 ∧ (dTick.thrAt 0).state = .beat ∧ (dTick.thrAt 0).beatIn ≠ dTick.time.beat) := by
  refine ⟨⟨issuesC _, ?_⟩, ⟨issues _ _ _ ?_, ?_⟩, fun _ _ => issuesC _, ?_, ?_, fun _ => issuesC _, issuesC _, ?_⟩
  case refine_4 => exact ⟨rfl, rfl, rfl, rfl⟩
  all_goals decide +kernel

/-! ### Engines and vector units -/

/-- The core's memory with a line of E0's operand buffer and one of its scratchpad written: where those lie. -/
def obLine : Nat := 70369048264704
def padLine : Nat := 70369029390336
def mE : Mem := (pt.write obLine (zeros 64) false).write padLine (zeros 64) false
/-- A command with an opcode. -/
def qcmd (op : Nat) (fs : List (Nat × Nat × Nat)) : QCmd := { cmd0 with bytes := rec 32 ((0, 1, op) :: fs) }
/-- Context 1 runs; E0 and E1 of its core are in; a queue holds one command. -/
def dQ (q : Nat) (x : QCmd) : Dev := { coreDev .running with que := [(q, { Queue.init with cmds := [x] })] }
/-- A command ends done, or waits. -/
def CmdEnd.ends : CmdEnd → Nat
  | .wait => 0
  | .fail _ _ => 1
  | .done .. => 2
theorem is_wait (e : CmdEnd) (h : CmdEnd.ends e = 0) : e = .wait := by cases e <;> simp_all [CmdEnd.ends]
theorem is_fail (e : CmdEnd) (h : CmdEnd.ends e = 1) : ∃ st f, e = .fail st f := by cases e <;> simp_all [CmdEnd.ends]
theorem is_done (e : CmdEnd) (h : CmdEnd.ends e = 2) : ∃ fp po un f es, e = .done fp po un f es := by cases e <;> simp_all [CmdEnd.ends]

def xZero (n : Nat) : QCmd := qcmd 6 [(0xA, 2, n)]
def xLoadb : QCmd := qcmd 1 [(0x14, 2, 1), (0x16, 1, 1)]
/-- E0's operand buffer begins with a slot that is EMPTY. -/
def dTag : Dev := { dQ 0 xLoadb with regn := [(regionKey 0 0, { Region.init with base := 0x02200000, slotBytes := 64, slots := 1, valid := true, tags := true })] }
def xMask (n : Nat) : QCmd := qcmd 0x13 [(8, 4, 0x01000000), (0xC, 4, n)]
def xMax : QCmd := qcmd 0x11 [(6, 2, 3), (8, 4, 0x01000000), (0xC, 4, 0x01000010), (0x10, 4, 1), (0x14, 4, 1)]
def dVtag : Dev := { dQ 4 xMax with regn := [(regionKey 0 0, { Region.init with base := 0x01000000, slotBytes := 64, slots := 1, valid := true, tags := true })] }

theorem witness_UnitCommands_engines :
    (coreDev .running).frontCmd 0 0 = none
    ∧ ((dQ 0 (xZero 1)).frontCmd 0 0 = some (1, xZero 1) ∧ (xZero 1).op = 6)
    ∧ (dQ 0 xLoadb).frontCmd 0 0 = some (1, xLoadb)
    ∧ (((dQ 0 (xZero 1)).putUnit (engGroup 0 0) .out).frontCmd 0 0 = some (1, xZero 1)
      ∧ ((dQ 0 (xZero 1)).putUnit (engGroup 0 0) .out).admitted (engGroup 0 0) = false)
    ∧ (dTag.Front 0 0 1 1 xLoadb ∧ dTag.loadb 0 0 1 xLoadb mE = .wait)
    ∧ ((dQ 0 (xZero 0)).Front 0 0 6 1 (xZero 0) ∧ ∃ st f, (dQ 0 (xZero 0)).zeroRows 0 0 1 (xZero 0) mE = .fail st f)
    ∧ ((dQ 0 (xZero 1)).Front 0 0 6 1 (xZero 1) ∧ ∃ fp po un f es, (dQ 0 (xZero 1)).zeroRows 0 0 1 (xZero 1) mE = .done fp po un f es) := by
  refine ⟨?_, ?_, ?_, ?_, ⟨⟨⟨?_, ?_, ?_⟩, ?_⟩, is_wait _ ?_⟩, ⟨⟨⟨?_, ?_, ?_⟩, ?_⟩, is_fail _ ?_⟩, ⟨⟨?_, ?_, ?_⟩, ?_⟩, is_done _ ?_⟩ <;> decide +kernel

/-- A VRED that was accepted while a VEW of its queue had not completed races with the line that the VEW wrote, but not with FENCE,
nor where it was accepted after the completion; and a command that races with nothing reads memory as it is (R121). -/
def dRace (until' : Option Nat) : Dev := { dQ 4 xMax with past := [(4, [{ pt.past 7 (lineOf padLine) with until' := until' }])] }
theorem test_race :
    ((dRace none).racing 0 4 { xMax with accept := 8 }).length = 1 ∧ ((dRace (some 8)).racing 0 4 { xMax with accept := 8 }).length = 1
    ∧ (dRace (some 8)).racing 0 4 { xMax with accept := 9 } = []
    ∧ (dRace none).racing 0 4 { xMax with accept := 8, bytes := wr xMax.bytes 1 [2] } = []
    ∧ ((dQ 4 xMax).raced mE 0 4 xMax).2.free = 0 := by
  decide +kernel

/-- A translation that stays cached after its entry has changed may still be used, until it is invalidated (R305, R306). -/
def dStale : Dev := { coreDev .running with own := { (coreDev .running).own with tlb := [(1, 0x200000, 2, 0xFFFF * 2 ^ 48 + 63)] } }
theorem test_stale :
    (dStale.stale 1 0x200008 (dStale.rootWalk pt 1 0x200008)).length = 1
    ∧ ((dStale.invalidate 1 (some 0x200000)).translate pt 1 (some 0) .read false 0x200008).2.2 = false := by
  decide +kernel

theorem witness_UnitCommands_vector :
    (coreDev .running).frontCmd 0 4 = none
    ∧ ((dQ 4 xMax).frontCmd 0 4 = some (1, xMax) ∧ xMax.op ≠ 0x13)
    ∧ ((dQ 4 xMax).putUnit (csGroup 0) .out).admitted (csGroup 0) = false
    ∧ (dVtag.Front 0 4 0x11 1 xMax ∧ dVtag.vred 0 1 xMax mE = .wait)
    ∧ ((dQ 4 (xMask 0)).Front 0 4 0x13 1 (xMask 0) ∧ ∃ st f, (dQ 4 (xMask 0)).vrand 0 1 (xMask 0) mE = .fail st f)
    ∧ ((dQ 4 (qcmd 0x14 [(0x10, 1, 16), (0x12, 1, 1)])).Front 0 4 0x14 1 (qcmd 0x14 [(0x10, 1, 16), (0x12, 1, 1)])
      ∧ ∃ fp po un f es, (dQ 4 (qcmd 0x14 [(0x10, 1, 16), (0x12, 1, 1)])).vseed 0 1 (qcmd 0x14 [(0x10, 1, 16), (0x12, 1, 1)]) mE = .done fp po un f es) := by
  refine ⟨?_, ?_, ?_, ⟨⟨⟨?_, ?_, ?_⟩, ?_⟩, is_wait _ ?_⟩, ⟨⟨⟨?_, ?_, ?_⟩, ?_⟩, is_fail _ ?_⟩, ⟨⟨?_, ?_, ?_⟩, ?_⟩, is_done _ ?_⟩ <;> decide +kernel

/-- A command that has been executed with a word; with SIG, for event object 4. -/
def xDone (w sig : Nat) : QCmd := { qcmd 6 [(1, 1, sig), (2, 2, 4)] with result := some w }
def dSig : Dev := { dQ 0 (xDone 0 1) with
  sync := { objs := [(syncKey 0 9, { SyncObj.init with kind := kEvent, value := 3, limit := 10 })], vids := [(vidKey 1 0 4, some 9)] } }

theorem witness_UnitCommands_completion :
    (dSig.holder 0 = some 1 ∧ (dSig.ctxAt 1).state = .running ∧ (dSig.queAt 0 0).cmds = [xDone 0 1])
    ∧ (xDone 3 0).result = some 3 ∧ (xDone 0 1).result = some 0
    ∧ ((xDone 0 0).sig = false ∧ (xDone 0 1).sig = true ∧ dSig.physOf 1 0 (xDone 0 1).sync = some 9 ∧ (dSig.syncAt 0 9).kind = kEvent
      ∧ (dSig.syncAt 0 9).value < (dSig.syncAt 0 9).limit)
    ∧ ((dQ 0 (qcmd 9 [])).frontCmd 0 0 = some (1, qcmd 9 []) ∧ (qcmd 9 []).result = none ∧ queueOp 0 (qcmd 9 []).op = false
      ∧ (dQ 0 (qcmd 9 [])).admitted (queueGroup 0 0) = true) := by
  decide +kernel

def xMma : QCmd := qcmd 2 [(0x16, 2, 1)]
def xMmat : QCmd := qcmd 3 [(0x16, 2, 1), (0x1A, 1, 8)]
def tileF : Tile := ⟨0, 1, 1, zeros 4, [], false⟩
def tileT : Tile := ⟨9, 64, 1, zeros 16, zeros 2, false⟩
/-- E0 with a tile in slot 0, row 0 written. -/
def dEng (x : QCmd) (tl : Tile) : Dev :=
  { dQ 0 x with eng := [(0, { Engine.init with tiles := [(0, some tl)], acc := [(0, { AccRow.init with written := true })], epi := [(1, zeros 32)] })] }
def xDrain (v : Nat) : QCmd := qcmd 5 [(0xA, 2, 1), (0x1A, 1, v), (0x1B, 1, 1)]
def dst0 : Span := (0x02200000, 4)

theorem witness_EngineResults :
    ((dQ 0 xLoadb).Front 0 0 1 1 xLoadb ∧ obOk 0 0 1 (elemBytes 0 1) 4 = true ∧ scalesBytes 0 1 = 0 ∧ (dQ 0 xLoadb).SpansFree mE 0 (obRows 0 0 0 1 (elemBytes 0 1) ++ []) [])
    ∧ ((dEng xMma tileF).Front 0 0 2 1 xMma ∧ (dEng xMma tileF).Multiplies mE 0 0 false xMma tileF ⟨1, 128, false⟩)
    ∧ ((dEng xMmat tileT).Front 0 0 3 1 xMmat ∧ (dEng xMmat tileT).Multiplies mE 0 0 true xMmat tileT ⟨64, 512, false⟩)
    ∧ ((dQ 0 (xZero 1)).Front 0 0 6 1 (xZero 1) ∧ (dQ 0 (xZero 0)).Front 0 0 6 1 (xZero 0)) ∧ (dQ 0 (qcmd 4 [])).Front 0 0 4 1 (qcmd 4 [])
    ∧ ((dEng (xDrain 8) tileF).Front 0 0 5 1 (xDrain 8) ∧ (dEng (xDrain 8) tileF).DrainsRow mE 0 0 (xDrain 8) 0 dst0)
    ∧ ((dEng (xDrain 1) tileF).Front 0 0 5 1 (xDrain 1) ∧ (dEng (xDrain 1) tileF).DrainsRow mE 0 0 (xDrain 1) 0 dst0
      ∧ epiConv (tblGet epiReset ((dEng (xDrain 1) tileF).engAt 0 0).epi 1) = some ⟨0, false, false⟩) := by
  have h : pairing tileF.wfmt 0 = some ⟨1, 128, false⟩ ∧ pairing tileT.wfmt 8 = some ⟨64, 512, false⟩ := ⟨rfl, rfl⟩
  refine ⟨⟨⟨⟨?_, ?_, ?_⟩, ?_⟩, ?_, ?_, ?_, ?_, ?_⟩, ⟨⟨⟨?_, ?_, ?_⟩, ?_⟩, ?_, ?_, ?_, h.1, ?_, ?_, ?_, ?_, ?_, ?_, ?_⟩, ⟨⟨⟨?_, ?_, ?_⟩, ?_⟩, ?_, ?_, ?_, h.2, ?_, ?_, ?_, ?_, ?_, ?_, ?_⟩,
    ⟨⟨⟨?_, ?_, ?_⟩, ?_⟩, ⟨⟨?_, ?_, ?_⟩, ?_⟩⟩, ⟨⟨?_, ?_, ?_⟩, ?_⟩, ⟨⟨⟨?_, ?_, ?_⟩, ?_⟩, ?_, ?_, ?_, ?_, ?_, ?_, ?_, ?_, ?_⟩, ⟨⟨?_, ?_, ?_⟩, ?_⟩, ⟨?_, ?_, ?_, ?_, ?_, ?_, ?_, ?_, ?_⟩, ?_⟩ <;> decide +kernel

def CvtUse.fields (u : CvtUse) : List Nat × List Bool × List (List (Nat × Nat)) := ([u.sf, u.df, u.cv.mode, u.count], [u.cv.nonsat, u.cv.ftz], [u.src, u.dst])
def useFields : Except Nat CvtUse → Option (List Nat × List Bool × List (List (Nat × Nat)))
  | .ok u => some (CvtUse.fields u)
  | .error _ => none
theorem cvt_ok (r : Except Nat CvtUse) (u : CvtUse) (h : useFields r = some (CvtUse.fields u)) : r = .ok u := by
  cases r with
  | error e => simp [useFields] at h
  | ok v => obtain ⟨_, _, ⟨_, _, _⟩, _, _, _⟩ := u; obtain ⟨_, _, ⟨_, _, _⟩, _, _, _⟩ := v; simp_all [useFields, CvtUse.fields]

/-- One FP32 element to BF16. -/
def xCvt (op a b : Nat) : QCmd := qcmd op [(8, 4, a), (0x10, 4, b), (0x18, 4, 1), (0x1C, 1, 0x10)]
def useOf (a b : Nat) : CvtUse := ⟨0, 1, ⟨0, false, false⟩, 1, [(a, 4)], [(b, 2)]⟩
def xVew : QCmd := qcmd 0x10 [(8, 4, 0x01000000), (0xC, 4, 0x01000004), (0x14, 4, 0x01000008), (0x18, 4, 1)]
def dDet (x : QCmd) : Dev := (dQ 4 x).modCtx 1 (fun y => { y with loaded := some { prog false with det := true } })
def xSeed : QCmd := { qcmd 0x14 [(0x10, 1, 1), (0x12, 1, 1)] with after := [0, 0, 0, 0] }

theorem witness_VectorResults :
    ((dQ 0 (xCvt 7 0 16)).Front 0 0 7 1 (xCvt 7 0 16) ∧ cvtUse (xCvt 7 0 16) (fun a n al => obOk a 0 1 n al) (obLocal 0) = .ok (useOf 0x02200000 0x02200010)
      ∧ (useOf 0x02200000 0x02200010).One (0x02200000, 4) (0x02200010, 2) ∧ (dQ 0 (xCvt 7 0 16)).SpansFree mE 0 [(0x02200000, 4)] [(0x02200010, 2)])
    ∧ ((dQ 4 xVew).Front 0 4 0x10 1 xVew ∧ vewUses 0 = some (true, true, false) ∧ (∀ i ∈ [0x1C, 0x1D, 0x1E, 0x1F], rdb xVew.bytes i = 0)
      ∧ (∀ r ∈ (0x01000008, 4) :: vewRuns (true, true, false) xVew.bytes, (dQ 4 xVew).vecOk 0 r.1 r.2 4 = true)
      ∧ (dQ 4 xVew).SpansFree mE 0 (vewRuns (true, true, false) xVew.bytes) [(0x01000008, 4)])
    ∧ ((dQ 4 xMax).Front 0 4 0x11 1 xMax ∧ (dQ 4 xMax).vecOk 0 0x01000000 4 4 = true ∧ (dQ 4 xMax).vecOk 0 0x01000010 4 4 = true
      ∧ rd xMax.bytes 0x14 4 = 1 ∧ rdb xMax.bytes 0x1C = 0 ∧ (dQ 4 xMax).SpansFree mE 0 [(0x01000000, 4)] [(0x01000010, 4)])
    ∧ ((dQ 4 (xCvt 0x12 0x01000000 0x01000010)).Front 0 4 0x12 1 (xCvt 0x12 0x01000000 0x01000010)
      ∧ cvtUse (xCvt 0x12 0x01000000 0x01000010) ((dQ 4 (xCvt 0x12 0x01000000 0x01000010)).vecOk 0) id = .ok (useOf 0x01000000 0x01000010)
      ∧ (useOf 0x01000000 0x01000010).One (0x01000000, 4) (0x01000010, 2)
      ∧ (dQ 4 (xCvt 0x12 0x01000000 0x01000010)).SpansFree mE 0 [(0x01000000, 4)] [(0x01000010, 2)])
    ∧ ((dDet (xMask 1)).Front 0 4 0x13 1 (xMask 1) ∧ (dDet (xMask 1)).det 1 = true ∧ (dDet (xMask 1)).vecOk 0 0x01000000 4 4 = true
      ∧ (dDet (xMask 1)).SpansFree mE 0 [] [(0x01000000, 4)])
    ∧ ((dQ 4 xSeed).Front 0 4 0x14 1 xSeed ∧ ∀ k < 4, bit 1 k = true → (dQ 4 xSeed).admitted (engGroup 0 k) = true
        ∧ ∀ y ∈ ((dQ 4 xSeed).queAt 0 k).cmds, notAfter y.accept (xSeed.after.getD k 0) = false)
    ∧ (((dQ 4 xSeed).putUnit 0 .out).Front 0 4 0x14 1 xSeed ∧ bit 1 0 = true ∧ ((dQ 4 xSeed).putUnit 0 .out).admitted (engGroup 0 0) = false) := by
  refine ⟨⟨⟨⟨?_, ?_, ?_⟩, ?_⟩, cvt_ok _ _ ?_, ⟨?_, ?_, ?_, ?_, ?_⟩, ?_, ?_, ?_⟩, ⟨⟨⟨?_, ?_, ?_⟩, ?_⟩, ?_, ?_, ?_, ?_, ?_, ?_⟩, ⟨⟨⟨?_, ?_, ?_⟩, ?_⟩, ?_, ?_, ?_, ?_, ?_, ?_, ?_⟩,
    ⟨⟨⟨?_, ?_, ?_⟩, ?_⟩, cvt_ok _ _ ?_, ⟨?_, ?_, ?_, ?_, ?_⟩, ?_, ?_, ?_⟩, ⟨⟨⟨?_, ?_, ?_⟩, ?_⟩, ?_, ?_, ?_, ?_, ?_⟩, ⟨⟨⟨?_, ?_, ?_⟩, ?_⟩, ?_⟩, ⟨⟨?_, ?_, ?_⟩, ?_⟩, ?_, ?_⟩ <;> decide +kernel

/-! ### Stream engines and regions -/

/-- A linear descriptor from the core's memory. -/
def lin (dst kd n : Nat) : Bytes := linearDesc 0x01000000 dst 0 kd n 0 false 0
/-- Context 1 runs; S0 of its core with commands. -/
def dS (x : List QCmd) (y : Stream) : Dev := { coreDev .running with que := [(5, { Queue.init with cmds := x })], str := [(0, y)] }
/-- 512 written bytes of the core's memory. -/
def mS : Mem := pt.write padLine (zeros 512) false
/-- The core's memory with a descriptor. -/
def mD (b : Bytes) : Mem := pt.write padLine b false
def okParts : Except (Nat × Nat) (List Part) → Option (List Part)
  | .ok ps => some ps
  | .error _ => none
theorem aims (r : Except (Nat × Nat) (List Part) × Dev) (ps : List Part) (h : okParts r.1 = some ps) : r = (.ok ps, r.2) := by
  obtain ⟨x, d⟩ := r
  cases x <;> simp_all [okParts]

/-- The device after the two addresses of a transfer have been translated. -/
def aimed (d : Dev) (tr : Transfer) (n : Nat) : Dev :=
  let e := (d.aimAll mS 1 0 (dsSrcKind tr.desc) (addr64 (dsSrc tr.desc) 0) n false).2
  ((e.afterRead 0 tr).aimAll mS 1 0 (dsDstKind tr.desc) (addr64 (dsDst tr.desc) 0) n true).2

theorem moves (d : Dev) (tr : Transfer) (b n : Nat) (ho : tr.off = 0)
    (hs : okParts (d.aimAll mS 1 0 (dsSrcKind tr.desc) (addr64 (dsSrc tr.desc) 0) n false).1 = some [⟨.here (.mem padLine), addr64 (dsSrc tr.desc) 0, n⟩])
    (hc : let e := (d.aimAll mS 1 0 (dsSrcKind tr.desc) (addr64 (dsSrc tr.desc) 0) n false).2
      (e.homeCheck 1 (.mem padLine) n false = none ∧ (e.coreOf padLine).any (fun k => (e.tagBlock k (e.toCoreLocal padLine) n false).isSome) = false)
      ∧ okParts ((e.afterRead 0 tr).aimAll mS 1 0 (dsDstKind tr.desc) (addr64 (dsDst tr.desc) 0) n true).1
        = some [⟨.here (.mem b), addr64 (dsDst tr.desc) 0, n⟩])
    (hm : mS.uninit padLine n = false ∧ mS.poisoned padLine n = false)
    (hp : (dsKind tr.desc = 1 ∧ dsSfmt tr.desc = dsDfmt tr.desc ∧ dsBram tr.desc = 0 ∧ dsMcast tr.desc = false ∧ tr.pops = false) ∧ tr.own = none) :
    d.MovesPiece mS 0 1 tr padLine b n (aimed d tr n) := by
  have h0 : ((tr.off : Nat) : Int) = 0 := by rw [ho]; rfl
  refine ⟨⟨_, ?_, ⟨hc.1.1, hc.1.2, hm.1, hm.2⟩, ?_⟩, hp.1, hp.2⟩
  · rw [h0]; exact aims _ _ hs
  · rw [h0]; exact aims _ _ hc.2

def xXfer (n : Nat) : QCmd := qcmd 0x20 [(8, 8, 0x01000000), (0x10, 8, 0x01000200), (0x18, 4, n)]
def xChain : QCmd := qcmd 0x21 [(8, 4, 0x01000000), (0xC, 2, 2)]
def xSdep (k obj : Nat) : QCmd := qcmd 0x23 [(8, 1, k), (0xA, 2, obj)]
def xHpush : QCmd := qcmd 0x24 [(0x11, 1, 0xFF)]
def xSsave (a : Nat) : QCmd := qcmd 0x25 [(8, 4, a), (0xC, 2, 0xFFFF)]
def dObj (x : QCmd) : Dev := { dS [x] Stream.init with sync := { objs := [], vids := [(vidKey 1 0 4, some 9)] } }
def dHand (n : Nat) : Dev := { dS [xHpush] Stream.init with core := [(0, { Core.init with handles := [(0, List.replicate n 7)] })] }

theorem witness_StreamCommands_queue :
    ((dS [xXfer 64] Stream.init).NextStream 0 0x20 1 (xXfer 64) ∧ ((dS [xXfer 64] Stream.init).strAt 0).hasSlot = true ∧ rd (xXfer 64).bytes 0x18 4 = 64
      ∧ rdb (xXfer 64).bytes 0x1D = 0 ∧ field (rdb (xXfer 64).bytes 0x1C) 0 2 ≠ 3 ∧ bit (rdb (xXfer 64).bytes 0x1C) 4 = false)
    ∧ ((dS [xXfer 0] Stream.init).NextStream 0 0x20 1 (xXfer 0) ∧ rd (xXfer 0).bytes 0x18 4 = 0)
    ∧ ((dS [xChain] Stream.init).NextStream 0 0x21 1 xChain ∧ rd xChain.bytes 0xC 2 ≠ 0 ∧ (dS [xChain] Stream.init).inCoreMem 0 0x01000000 128 = true)
    ∧ ((dS [xSdep 0 0] Stream.init).NextStream 0 0x23 1 (xSdep 0 0) ∧ rdb (xSdep 0 0).bytes 8 = 0)
    ∧ ((dObj (xSdep 1 4)).NextStream 0 0x23 1 (xSdep 1 4) ∧ (dObj (xSdep 1 4)).physOf 1 0 4 = some 9)
    ∧ ((dS [xSdep 3 0] Stream.init).NextStream 0 0x23 1 (xSdep 3 0) ∧ 2 < rdb (xSdep 3 0).bytes 8)
    ∧ ((dHand 0).NextStream 0 0x24 1 xHpush ∧ rdb xHpush.bytes 0x11 = 0xFF ∧ ((dHand 0).ctxAt 1).cores.contains 0 = true
      ∧ ((dHand 0).handleQueue 0 0).length < 32)
    ∧ ((dHand 32).NextStream 0 0x24 1 xHpush ∧ 32 ≤ ((dHand 32).handleQueue 0 0).length)
    ∧ ((dS [xSsave 0x01000000] Stream.init).NextStream 0 0x25 1 (xSsave 0x01000000) ∧ (dS [] Stream.init).inCoreMem 0 0x01000000 256 = true)
    ∧ ((dS [xSsave 5] Stream.init).NextStream 0 0x25 1 (xSsave 5) ∧ rd (xSsave 5).bytes 8 4 % 256 ≠ 0) := by
  repeat' (first | decide +kernel | constructor)

/-- A chain stands at its first descriptor. -/
def dCh : Dev := dS [xChain] { Stream.init with chain := some ⟨0, xChain.bytes, 0, none⟩ }
/-- A descriptor of a kind, with the flags DEP and ORDER, of a length. -/
def desc (kind flags n : Nat) : Bytes := rec 64 [(0, 1, kind), (1, 1, flags), (8, 8, 0x01000000), (0x10, 8, 0x01000200), (0x18, 4, n), (0x1C, 4, 1),
  (0x38, 2, 0xFFFF)]

theorem chain_next (b : Bytes) (h : (b = (mD b).read padLine 64 ∧ (mD b).uninit padLine 64 = false) ∧ (mD b).poisoned padLine 64 = false) :
    dCh.ChainNext (mD b) 0 1 ⟨0, xChain.bytes, 0, none⟩ b := by
  have hl : (dCh.coreLocal (strCore 0) (rd xChain.bytes 8 4 + 64 * 0)).getD 0 = padLine := by decide +kernel
  refine ⟨?_, ?_, rfl, ?_, ?_, ?_, ?_, ?_, ?_⟩
  · decide +kernel
  · decide +kernel
  · decide +kernel
  · decide +kernel
  · rw [hl]; exact h.1.1
  · rfl
  · rw [hl]; exact h.1.2
  · rw [hl]; exact h.2

theorem witness_StreamCommands_chain :
    (∀ n ∈ [0, 64], dCh.ChainNext (mD (desc 1 0 n)) 0 1 ⟨0, xChain.bytes, 0, none⟩ (desc 1 0 n)) ∧ (dsFlag (desc 1 0 64) 1 = false ∧ dsFlag (desc 1 0 64) 2 = false)
    ∧ ((dCh.strAt 0).hasSlot = true ∧ dCh.dsCheck (mD (desc 1 0 64)) 1 0 (desc 1 0 64) = 0 ∧ dCh.dsCheck (mD (desc 1 0 0)) 1 0 (desc 1 0 0) ≠ 0)
    ∧ (dCh.ChainNext (mD (desc 1 2 64)) 0 1 ⟨0, xChain.bytes, 0, none⟩ (desc 1 2 64) ∧ dsFlag (desc 1 2 64) 1 = true ∧ dsFlag (desc 1 2 64) 2 = false)
    ∧ (∀ kind ∈ [2, 3, 4, 5], dCh.ChainNext (mD (desc kind 0 64)) 0 1 ⟨0, xChain.bytes, 0, none⟩ (desc kind 0 64) ∧ dsKind (desc kind 0 64) = kind) := by
  refine ⟨?_, ?_, ?_, ⟨chain_next _ ?_, ?_⟩, ?_⟩
  case refine_1 => intro n hn; simp only [List.mem_cons, List.not_mem_nil, or_false] at hn; rcases hn with rfl | rfl <;> exact chain_next _ (by decide +kernel)
  case refine_6 => intro n hn; simp only [List.mem_cons, List.not_mem_nil, or_false] at hn; rcases hn with rfl | rfl | rfl | rfl <;> exact ⟨chain_next _ (by decide +kernel), by decide +kernel⟩
  all_goals decide +kernel

def xShort : QCmd := qcmd 0x22 [(8, 8, 0x01000200), (0x10, 4, 0x01000000), (0x14, 2, 64)]
/-- A transfer of a command to a place; one that stands issued and acknowledged. -/
def trOf (x : QCmd) (dst kd n : Nat) : Transfer := { Transfer.init with cmd := x.bytes, desc := lin dst kd n }
def dShort : Dev := (dS [xShort] Stream.init).addTransfer 0 (trOf xShort 0x01000200 0 64)

theorem witness_StreamCommands_short :
    (dS [xShort] Stream.init).NextStream 0 0x22 1 xShort ∧ (dS [xShort] Stream.init).inCoreMem 0 0x01000000 64 = true ∧ rd xShort.bytes 8 8 % 4096 + 64 ≤ 4096
    ∧ field (rdb xShort.bytes 0x16) 2 2 ≠ 3
    ∧ dShort.MovesPiece mS 0 1 (trOf xShort 0x01000200 0 64) padLine (padLine + 512) 64 (aimed dShort (trOf xShort 0x01000200 0 64) 64)
    ∧ (aimed dShort (trOf xShort 0x01000200 0 64) 64).WritesOwn 1 0 (padLine + 512) 64 := by
  refine ⟨⟨?_, ?_, ?_⟩, ?_, ?_, ?_, moves _ _ _ _ rfl ?_ ?_ ?_ ?_, ⟨?_, ?_, ?_, ?_⟩⟩ <;> decide +kernel

def dMark (mark : Marker) : Dev := dS [qcmd 0x23 []] { Stream.init with marker := some mark }
def xBig : QCmd := xXfer 512
def trHere : Transfer := trOf xBig 0x01000200 0 512
/-- To the context's HBM unit. -/
def trOut : Transfer := trOf xBig 0x40 2 512
def dTr (t : Transfer) : Dev := dS [xBig] { Stream.init with transfers := [t] }
def trDone : Transfer := { trHere with issued := true }
def trBad : Transfer := { trHere with status := 4 }

theorem witness_StreamTransfers :
    ((dMark ⟨0, 0, 0, false⟩).strCtx 0 = some 1 ∧ ((dMark ⟨0, 0, 0, false⟩).strAt 0).mine = [] ∧ (dMark ⟨0, 0, 0, false⟩).markerHolds 1 0 ⟨0, 0, 0, false⟩ = true)
    ∧ (dMark ⟨2, 0, 5, false⟩).markerHolds 1 0 ⟨2, 0, 5, false⟩ = false
    ∧ ((((dTr trHere).strAt 0).transfers.filter (fun y => y.slotted))[0]? = some trHere ∧ (dTr trHere).strCtx 0 = some 1 ∧ ((dTr trHere).strAt 0).stopper = none
      ∧ 256 < dsLen trHere.desc ∧ segLeft (segments (dsLen trHere.desc) (dsSeg trHere.desc)) 0 = 512
      ∧ (dTr trHere).MovesPiece mS 0 1 trHere padLine (padLine + 512) 512 (aimed (dTr trHere) trHere 512)
      ∧ (aimed (dTr trHere) trHere 512).WritesOwn 1 0 (padLine + 512) 512)
    ∧ ((((dTr trOut).strAt 0).transfers.filter (fun y => y.slotted))[0]? = some trOut ∧ segLeft (segments (dsLen trOut.desc) (dsSeg trOut.desc)) 0 = 512
      ∧ (dTr trOut).MovesPiece mS 0 1 trOut padLine 0x40 512 (aimed (dTr trOut) trOut 512) ∧ (aimed (dTr trOut) trOut 512).coreOf 0x40 ≠ some 0)
    ∧ (((dTr trDone).strAt 0).mine = [trDone] ∧ trDone.performed = true ∧ ((dTr trDone).queAt 0 5).cmds = [xBig] ∧ trDone.cmd.head? = some 0x20
      ∧ dsHret trDone.desc = 15 ∧ dsHout trDone.desc = 15 ∧ trDone.desc.length = 64 ∧ (xBig.flags ||| trDone.flags) % 256 = 0 ∧ xBig.sig = false)
    ∧ (((dTr trBad).strAt 0).stopper = some trBad ∧ (∀ y ∈ ((dTr trBad).strAt 0).mine, y.unacked = 0) ∧ ((dTr trBad).strAt 0).leading trBad = []
      ∧ ((dTr trBad).strAt 0).save = none)
    ∧ ((dS [qcmd 9 []] Stream.init).nextCmd 0 = some (1, qcmd 9 []) ∧ (dS [qcmd 9 []] Stream.init).admitted (csGroup 0) = true) := by
  refine ⟨?_, ?_, ⟨?_, ?_, ?_, ?_, ?_, moves _ _ _ _ rfl ?_ ?_ ?_ ?_, ⟨?_, ?_, ?_, ?_⟩⟩, ⟨?_, ?_, moves _ _ _ _ rfl ?_ ?_ ?_ ?_, ?_⟩, ?_, ?_, ?_⟩ <;> decide +kernel

/-- Thread 0 READY; region 0 of its core as given. -/
def dR (g : Region) : Dev := { dT [] with regn := [(regionKey 0 0, g)] }
def eR (g : Region) : Dev := fetchOf (dR g)
def region0 : Region := { Region.init with base := 0x01000000, slotBytes := 64, slots := 2 }
def valid0 : Region := { region0 with valid := true }
def rstore (w : Nat) : RegionStore := ⟨0, BitVec.ofNat 64 w⟩
/-- Two slots, VALID; no slots, VALID; two slots. -/
def wOn : Nat := 258
def wNone : Nat := 256
def wOff : Nat := 2

theorem witness_Regions_set :
    ((dR region0).Issues m0 th0 4 0 (insn 4 0) (eR region0) ∧ bit wOn 12 = false ∧ field wOn 13 3 = 0 ∧ bit wOn 8 = true ∧ ((eR region0).regionAt 0 0) = region0
      ∧ ((eR region0).modRegion 0 0 (fun x => x.word1 wOn)).regionCheck 0 0 (region0.word1 wOn) = 0)
    ∧ ((rstore wNone).value.toNat = wNone ∧ ((eR region0).modRegion 0 0 (fun x => x.word1 wNone)).regionCheck 0 0 (region0.word1 wNone) ≠ 0)
    ∧ ((dR valid0).Issues m0 th0 4 0 (insn 4 0) (eR valid0) ∧ bit wOff 8 = false ∧ (eR valid0).regionAt 0 0 = valid0)
    ∧ ((dR { valid0 with ring := true }).Issues m0 th0 4 0 (insn 4 0) (eR { valid0 with ring := true }) ∧ (eR { valid0 with ring := true }).regionAt 0 0 = { valid0 with ring := true }) := by
  refine ⟨⟨issues _ _ _ ?_, ?_⟩, ?_, ⟨issues _ _ _ ?_, ?_⟩, issues _ _ _ ?_, ?_⟩ <;> decide +kernel

/-- What PUSH and POP find: room; a full region with tags, and without; with COMMIT; filled; empty with tags, and without; not valid; a ring region. -/
theorem witness_Regions_pushPop :
    ∀ g ∈ [valid0, { valid0 with head := 2, tags := true }, { valid0 with head := 2 }, { valid0 with commit := true }, { valid0 with head := 1 },
        { valid0 with tags := true }, region0, { valid0 with ring := true }],
      (dR g).Issues m0 th0 4 0 (insn 4 0) (eR g) ∧ (eR g).regionAt 0 0 = g := by
  intro g hg
  simp only [List.mem_cons, List.not_mem_nil, or_false] at hg
  rcases hg with rfl | rfl | rfl | rfl | rfl | rfl | rfl | rfl <;> exact ⟨issues _ _ _ (by decide +kernel), by decide +kernel⟩

/-- A thread that waits until slot 0 of region 0 is FULL. -/
def dTagged (g : Region) : Dev := { dW { Thread.init with state := .stall, stall := some (.tag 0 0 true) } with regn := [(regionKey 0 0, g)] }
/-- The UNINIT word of core 0 with SEEN and MULTI. -/
def dUn : Dev := { up with core := [(0, { Core.init with uninit := 3 })] }
def filling : Region := { valid0 with commit := true, expect := 1 }
def dSlot (n : Nat) : Dev := { up with regn := [(regionKey 0 0, filling)], slotCnt := [(slotKey 0 0 0, n)] }

theorem witness_Regions_tags :
    (((dTagged valid0).thrAt (thrNo th0)).stall = some (.tag 0 0 true) ∧ (valid0.tags = false ∧ (dTagged valid0).regionAt 0 0 = valid0)
      ∧ (dTagged { valid0 with tags := true }).regionAt 0 0 = { valid0 with tags := true } ∧ (dTagged { valid0 with tags := true }).isFull 0 0 0 ≠ true)
    ∧ (bit 1 0 = true ∧ bit 2 0 = false ∧ bit 2 1 = true ∧ bit (dUn.coreAt 0).uninit.toNat 0 = true)
    ∧ ((dSlot 1).regionAt 0 0 = filling ∧ filling.fill < filling.slots ∧ filling.expect ≤ (dSlot 1).slotCount 0 0 (filling.head % filling.slots))
    ∧ (dSlot 0).slotCount 0 0 (filling.head % filling.slots) < filling.expect := by
  decide +kernel

/-- The window of CD0, at object 4. -/
def windowAt : Nat := 2 * 2 ^ 45 + 0x60000000 + 32
def wamo : WindowAmo := ⟨th0, 1, BitVec.ofNat 64 windowAt, 7⟩
/-- Object 4 of a kind. -/
def dK (k : Nat) : Dev :=
  { dT [] with sync := { objs := [(syncKey 0 9, { SyncObj.init with kind := k, value := 3, limit := 10 })], vids := [(vidKey 1 0 4, some 9)] } }
def latch0 : SyncObj := { SyncObj.init with kind := kLatch, participants := 2, release := true }
def dLatch : Dev := { coreDev .running with sync := { objs := [(syncKey 0 9, latch0)], vids := [] } }

theorem witness_SyncAndUpkeep :
    (∀ k ∈ [kEvent, 2], (dK k).Issues m0 th0 4 0 (insn 4 0) (fetchOf (dK k)) ∧ (fetchOf (dK k)).pktPlace (windowAt % 2 ^ 48) = some (.window 0 0x60000020)
      ∧ (fetchOf (dK k)).homeCheck 1 (.window 0 0x60000020) 8 true = none ∧ (fetchOf (dK k)).physOf 1 0 4 = some 9 ∧ ((fetchOf (dK k)).syncAt 0 9).kind = k)
    ∧ (toSigned wamo.value.toNat 64 = 7 ∧ (((fetchOf (dK kEvent)).syncAt 0 9).value : Int) + 7 ≤ (((fetchOf (dK kEvent)).syncAt 0 9).limit : Int))
    ∧ (((coreDev .running).ctxAt 1).state = .running ∧ field 1 0 2 = 1 ∧ field 1 2 10 = 0 ∧ field 0 0 2 = 0 ∧ 1 < field 2 0 2)
    ∧ (dLatch.syncAt 0 9 = latch0 ∧ (dLatch.latchObjs 0).filter (fun y => y.1 / 65536 = 0 && y.2.release) = [(syncKey 0 9, latch0)]
      ∧ dLatch.admitted (aonGroup 0) = true)
    ∧ (sramUnit (64 * (padLine / 64))).isSome = true ∧ unitOf (64 * 1) = some 0
    ∧ ({ (coreDev .running).withOwn ((coreDev .running).own.setOwner 5 .freeDirty) with free := 0 }.own.ownerOf 5 = .freeDirty
      ∧ (coreDev .running).admitted (unitGroup 5) = true)
    ∧ (coreDev .running).own.ownerOf 0 ≠ .freeDirty := by
  refine ⟨?_, ?_⟩
  · intro k hk
    simp only [List.mem_cons, List.not_mem_nil, or_false] at hk
    rcases hk with rfl | rfl <;> exact ⟨issues _ _ _ (by decide +kernel), by decide +kernel⟩
  · decide +kernel

/-- A module that serves its host, with the always-on domain of CD0 off, and on. -/
def dAon (v : DomState) : Dev := up.modDom (aonGroup 0) (fun r => { r with state := v })
theorem witness_CounterClears :
    (∀ r ∈ [RegName.PRG_SRAM_ECC, .STR_ERR, .STR_BRAM, .SYN_STAT, .MEM_ECC, .LNK_QUAD, .LNK_ERR, .RTE_ERR, .RTE_REL, .RTE_PVIOL, .BRY_LS_STAT, .BRY_OVR_CNT,
      .ETH_RX_ERR, .ETH_RX_DROP, .ETH_TX_ERR, .ETH_PAUSE, .MMC_CFG_REJ], (dAon .on).Manages r)
    ∧ (dAon .on).domOn (aonGroup 0) = true ∧ (dAon .off).domOn (aonGroup 0) = false ∧ ∀ r ∈ [RegName.STR_ERR, .MEM_ECC], (dAon .off).Manages r := by
  unfold Dev.Manages
  decide +kernel

/-! ### The machine as a whole -/

/-- Memory with two lines written is in its canonical form. -/
theorem witness_StepsKeepMemoryForm : ({ State.reset with mem := mE }.memWf) ∧ step { State.reset with mem := mE } = .next { State.reset with
    mem := mE
    dev := { State.reset.dev with cclk := State.reset.dev.cclk + 1 } } := ⟨by unfold State.memWf; decide +kernel, rfl⟩

theorem witness_WrittenBits : mE.wf = true ∧ (zeros 3 ≠ []) ∧ mE.isWritten (lineOf 100) = false := by
  decide +kernel

theorem witness_FusesOnlyRise : State.reset.fuse.inRange := by unfold Fuses.inRange; decide

theorem witness_FusesChangeByFew : ∃ t, exec .lnkErrClr State.reset = .next t := ⟨_, rfl⟩

/-! ### What well-formedness refuses: one ill-formed command for each check, beside a well-formed one -/

/-- A control packet with a body of 31 bytes, and of 32; a data packet with a SPEC of 13 bytes. -/
theorem test_wf_packet : Instr.wf (.ack (arr 1 (pkt 3 0x40 0 9 0 (rec 31 []) []))) = false
    ∧ Instr.wf (.write (arr 2 (pkt 3 0x10 0 9 0 (rec 13 []) (zeros 64)))) = false ∧ Instr.wf (.ack ackOf) = true ∧ Instr.wf (.write (writeOf 64)) = true := by
  decide +kernel

/-- A flit of 127 bytes. -/
theorem test_wf_flit : Instr.wf (.lcf 0 (rec 127 [])) = false ∧ Instr.wf (.lcf 0 (flit [])) = true := by decide +kernel

/-- A descriptor of 31 bytes; an access of 3 bytes. -/
theorem test_wf_access : Instr.wf (.ethDoorbell 0 0 1 [rec 31 []]) = false ∧ Instr.wf (.ethDoorbell 0 0 1 [buf]) = true
    ∧ Instr.wf (.registerWrite { acc .bar4 0 with size := 3 }) = false ∧ Instr.wf (.registerWrite (acc .bar4 0)) = true := by decide +kernel

/-- A submission entry of 63 bytes. -/
theorem test_wf_entry : Instr.wf (.assign (cmdOf (fetched .adm (rec 63 [])) [])) = false ∧ Instr.wf (.assign (cmdOf xAssign [])) = true
    ∧ Instr.wf (.commandFetch (rec 63 []) true) = false := by decide +kernel

/-- A side-band request of 4 bytes. -/
theorem test_wf_request : Instr.wf (.mgmtRead { mreq .sideBand 0 with size := 4 }) = false ∧ Instr.wf (.mgmtRead (mreq .sideBand 0)) = true := by decide +kernel

/-- Twenty-one virtual channels; a unit that fails twice; lines and a unit beyond the address space. -/
theorem test_wf_rest : Instr.wf (.uncorrectableSet 0 (List.replicate 21 0)) = false ∧ Instr.wf (.startupComplete [(3, true), (3, false)]) = false
    ∧ Instr.wf (.sramScrub (2 ^ 42) .clean) = false ∧ Instr.wf (.patrolScrub (2 ^ 42) .clean) = false ∧ Instr.wf (.backgroundFill 1310720) = false := by decide +kernel

/-- A compressed load or store of a byte. -/
theorem test_wf_compressed : Instr.wf (.threadLoad th0 { load8 with compressed := true, size := 0 }) = false
    ∧ Instr.wf (.threadStore th0 { store8 with compressed := true, size := 0 }) = false ∧ Instr.wf (.threadLoad th0 load8) = true := by decide +kernel

/-! ### Steps -/

/-- The front command runs; the other waits on. -/
theorem test_step_front : (match step { State.reset with pending := [.lnkErrClr, .mmcCfgRejClr] } with
    | .next t => t.pending = [.mmcCfgRejClr]
    | _ => False) := rfl

/-- With nothing to do a cycle passes. -/
theorem test_step_idle : (match step State.reset with
    | .next t => t.dev.cclk = State.reset.dev.cclk + 1
    | _ => False) := rfl

end Sys2Proof.Tests
end

section
/-! What a DRAIN does to a thread table that lists a thread twice.  A write breaks the reservations on its lines (R149) through
`tblMap`, which drops an entry that has become the default: where another entry of the same key stands behind it, a read of the
table then finds that one. -/

namespace Sys2Proof.Proofs

open Sys2Proof.Machine

/-- A table whose first entry becomes the default under a map reads, at that entry's key, as the map of the entries behind it. -/
theorem tblGet_tblMap_cons_default {V : Type} [DecidableEq V] {d : V} {f : Nat → V → V} {k : Nat} {v : V} (t : Tbl V) (h : f k v = d) :
    tblGet d (tblMap d f ((k, v) :: t)) k = tblGet d (tblMap d f t) k := by
  simp [tblMap, h]

/-- The line that a DRAIN to offset 0 of the first operand buffer of core 0 writes (R172). -/
def drainedLine : Nat := lineOf (dieAddr 0 0x12200000)

/-- Thread 0 twice: with nothing but a reservation on that line, and behind it with a PC. -/
def shadowedThreads : Tbl Thread :=
  [(0, { Thread.init with resv := some drainedLine }), (0, { Thread.init with pc := 4 })]

/-- A DRAIN of one raw column of row 0 to offset 0 of the operand buffer (R133). -/
def drainCmd : QCmd :=
  { bytes := wr (wr (wr (wr (zeros 32) 0 [5]) 0xA [1]) 0x1A [8]) 0x1B [1]
    accept := 0, thread := 0, beat := 0, result := none, flags := 0, after := [] }

/-- Context 1 runs on core 0; E0 is ADMITTED, its row 0 is written, and the DRAIN is at the front of its queue. -/
def drainDev : Dev :=
  { Dev.init with
    mmc := { Mmc.init with state := .running, units := [(engGroup 0 0, ⟨.admitted, false⟩)] }
    ctx := [(1, { Ctx.init with state := .running, cores := [0] })]
    que := [(0, { Queue.init with cmds := [drainCmd] })]
    eng := [(0, { Engine.init with acc := [(0, { AccRow.init with written := true })] })]
    thr := shadowedThreads }

def drainState : State := { State.reset with dev := drainDev }

theorem drainCmd_front : drainDev.Front 0 0 5 1 drainCmd where
  front := by decide +kernel
  op := by decide
  admitted := by decide +kernel
  settled := by decide +kernel

theorem drainCmd_drainsRow : drainDev.DrainsRow drainState.mem 0 0 drainCmd fFP32 (0x02200000, 4) where
  one := by decide
  row := by decide
  cols := by decide
  plain := by decide
  written := by decide
  place := by decide +kernel
  free := ⟨by decide +kernel, by decide +kernel, by decide +kernel⟩

/-- The DRAIN breaks the reservation (R149): it leaves the threads that breaking it leaves. -/
theorem drain_breaks_reservation {t : State} (h : exec (.drain ⟨0, 0, 0⟩) drainState = .next t) :
    t.dev.thr = (drainDev.breakLine drainedLine).thr := by
  cases h
  decide +kernel

/-- Without its reservation the first entry is the default and goes; the second one is thread 0 from then on. -/
theorem breakLine_uncovers_thread : tblGet Thread.init (drainDev.breakLine drainedLine).thr 0 = { Thread.init with pc := 4 } := by
  have hmap : (drainDev.breakLine drainedLine).thr
      = tblMap Thread.init (fun _ t => if t.resv = some drainedLine then { t with resv := none } else t) shadowedThreads := rfl
  rw [hmap, shadowedThreads, tblGet_tblMap_cons_default _ (by decide)]
  rfl

/-- A device that only wrote memory leaves every thread's PC. -/
theorem pc_of_wroteOnly {a b : Dev} (h : a.WroteOnly b) (k : Nat) : (b.thrAt k).pc = (a.thrAt k).pc :=
  (Thread.mk.inj (h.thr k)).2.1

/-- Refutes O46: its clause on a DRAIN of a raw row says that of the threads only reservations change, and says it of every state,
also of one whose thread table is not in canonical form.  Where that table lists thread 0 twice, first with nothing but a reservation
on the line that the DRAIN writes and then with PC 4, the write drops the first entry, and thread 0's PC goes from 0 to 4. -/
theorem not_engineResults : ¬ Obligations.EngineResults := by
  unfold Obligations.EngineResults
  rintro ⟨-, -, -, -, hdrain, -⟩
  obtain ⟨hraw, -⟩ := hdrain ⟨0, 0, 0⟩ 0 0 fFP32 (0x02200000, 4) _ _ 1 drainCmd drainState rfl rfl drainCmd_front drainCmd_drainsRow rfl rfl
  obtain ⟨t, hexec, -, -, -, -, -, -, hwrote, -⟩ := hraw (by decide) rfl
  have hbefore : (drainState.dev.thrAt 0).pc = 0 := by decide
  have hafter : (t.dev.thrAt 0).pc = 4 := by
    rw [Dev.thrAt, drain_breaks_reservation hexec, breakLine_uncovers_thread]
  have hsame : (t.dev.thrAt 0).pc = (drainState.dev.thrAt 0).pc := pc_of_wroteOnly hwrote 0
  omega

end Sys2Proof.Proofs
end

section
/-! The rules that the instructions of threads share (R148, R152, R153): what a thread's record reads as after a change, what the
fetch leaves unchanged, and what an instruction that is issued comes to. -/

namespace Sys2Proof.Machine

open Sys2Proof.Laws

/-- Caching a translation changes the translations held and the number of free values used, and nothing else. -/
theorem Dev.cache_frame (d : Dev) (c : CtxId) (va : Nat) (t : Xlat × Option (Nat × Pte) × Bool) :
    ∃ o n, d.cache c va t = { d with own := o, free := n } := by
  have hdrawn : ∃ n, (if t.2.2 then { d with free := d.free + 1 } else d) = { d with free := n } := by
    split
    · exact ⟨_, rfl⟩
    · exact ⟨_, rfl⟩
  obtain ⟨n, hn⟩ := hdrawn
  simp only [Dev.cache, hn]
  split
  · split
    · exact ⟨_, _, rfl⟩
    · exact ⟨_, _, rfl⟩
  · exact ⟨_, _, rfl⟩

theorem Dev.cache_thr (d : Dev) (c : CtxId) (va : Nat) (t : Xlat × Option (Nat × Pte) × Bool) : (d.cache c va t).thr = d.thr := by
  obtain ⟨o, n, h⟩ := d.cache_frame c va t
  rw [h]

theorem Dev.cache_time (d : Dev) (c : CtxId) (va : Nat) (t : Xlat × Option (Nat × Pte) × Bool) : (d.cache c va t).time = d.time := by
  obtain ⟨o, n, h⟩ := d.cache_frame c va t
  rw [h]

@[simp] theorem Dev.modThr_thrAt_self (d : Dev) (k : Nat) (f : Thread → Thread) : (d.modThr k f).thrAt k = f (d.thrAt k) :=
  tblGet_mod_self

/-- The record of a thread whose instruction has ended. -/
@[simp] theorem Dev.retire_thrAt_self (d : Dev) (i : Insn) (rd v : Nat) :
    (d.retire i rd v).thrAt i.k = { d.thrAt i.k with
      state := .ready, stall := none, wait := none, pc := (i.pc + i.len) % 2 ^ 64, x := setX (d.thrAt i.k).x rd v } :=
  d.modThr_thrAt_self i.k _

theorem State.onlyDev_withDev (s : State) (d : Dev) : s.onlyDev (s.withDev d) := ⟨rfl, rfl, rfl⟩

section
variable {s : State} {th : ThreadRef} {n b : Nat} {i : Insn} {e : Dev}

theorem Dev.Issues.thrAt (H : s.dev.Issues s.mem th n b i e) : e.thrAt i.k = s.dev.thrAt i.k := by
  rw [H.cached, Dev.thrAt, Dev.cache_thr, Dev.thrAt]

theorem Dev.Issues.time (H : s.dev.Issues s.mem th n b i e) : e.time = s.dev.time := by
  rw [H.cached, Dev.cache_time]

/-- The PC of the instruction is that of its thread. -/
theorem Dev.Issues.pc_thrAt (H : s.dev.Issues s.mem th n b i e) : (e.thrAt i.k).pc = i.pc := by
  rw [H.thrAt, H.pc, H.thread]

/-- An instruction that its thread issues and that acts on the device alone does so on the device that holds the fetch's translation. -/
theorem Dev.Issues.run (H : s.dev.Issues s.mem th n b i e) {f : Insn → Act} {g : Dev → Dev} (hf : f i = Act.dev g) :
    s.run (threadAct th n b f) = s.withDev (g e) := by
  have hi : (⟨thrNo th, i.c, (s.dev.thrAt (thrNo th)).pc, n, b⟩ : Insn) = i := by
    obtain ⟨k, c, pc, len, bits⟩ := i
    obtain ⟨rfl, -, rfl, rfl, rfl, -⟩ := H
    rfl
  have hact : threadAct th n b f s.fuse s.mem s.dev = { dev := g e } := by
    simp [threadAct, H.holder, hi, H.running, H.ready, H.fetch, hf, Act.dev, H.cached, H.pc]
  rw [State.run, hact]
  rfl

end

end Sys2Proof.Machine
end

section
/-! The fences, the beats and the end of a thread (R153, R162 to R164): what each instruction and each release makes of the device,
and O44 from those. -/

namespace Sys2Proof.Proofs

open Sys2Proof.Machine

/-! ### The instructions, where no reserved field is set -/

section
variable {op : CustOp}

theorem mfenceUAct_eq (i : Insn) (hrd : op.rd.val = 0) (hrs2 : op.rs2.val = 0) (hf7 : op.funct7.toNat = 0) :
    mfenceUAct op i = Act.dev (fun d =>
      if 128 ≤ d.xreg i.k op.rs1.val then d.illegal i else d.fenceOn i (.fenceU (d.xreg i.k op.rs1.val))) := by
  simp [mfenceUAct, hrd, hrs2, hf7]

theorem mfenceAct_eq (i : Insn) (x : Stall) (h : bareOp op) : mfenceAct x op i = Act.dev (fun d => d.fenceOn i x) := by
  obtain ⟨hrd, hrs1, hrs2, hf7⟩ := h
  simp [mfenceAct, hrd, hrs1, hrs2, hf7]

theorem beatWaitAct_eq (i : Insn) (hrs1 : op.rs1.val = 0) (hrs2 : op.rs2.val = 0) (hf7 : op.funct7.toNat = 0) :
    beatWaitAct op i = Act.dev (fun d => d.modThr i.k (fun t => { t with state := .beat, beatRd := op.rd.val, beatIn := d.time.beat })) := by
  simp [beatWaitAct, hrs1, hrs2, hf7]

theorem mexitAct_eq (i : Insn) (h : bareOp op) : mexitAct op i = Act.dev (fun d =>
    (d.modThr i.k (fun t => { t with state := .done, pc := (t.pc + 4) % 2 ^ 64 })).endThreads i.c) := by
  obtain ⟨hrd, hrs1, hrs2, hf7⟩ := h
  simp [mexitAct, hrd, hrs1, hrs2, hf7]

/-- What RDBEAT reads by its selection, and nothing for a reserved one (R163). -/
def beatRead (d : Dev) (c : CtxId) (sel : Nat) : Option Nat :=
  match sel with
  | 0 => some d.time.beat
  | 1 => some (if d.locked c then (d.ctxAt c).relBeat d.time.beat else 0)
  | 2 => some (d.cclk - d.time.tickCycle)
  | _ => none

theorem beatRead_reserved (d : Dev) (c : CtxId) {sel : Nat} (h : 2 < sel) : beatRead d c sel = none := by
  obtain ⟨n, rfl⟩ := Nat.exists_eq_add_of_le' h
  rfl

theorem rdbeatAct_eq (i : Insn) (hrs2 : op.rs2.val = 0) (hf7 : op.funct7.toNat = 0) :
    rdbeatAct op i = Act.dev (fun d =>
      (beatRead d i.c op.rs1.val).elim (d.illegal i) (d.retire i op.rd.val)) := by
  funext f m d
  simp only [rdbeatAct, Act.dev, hrs2, hf7, ne_eq, not_true_eq_false, decide_false, Bool.or_self, Bool.false_eq_true, if_false]
  rcases op.rs1.val with _ | _ | _ | sel <;> rfl

end

/-! ### The releases of a thread that is held -/

section
variable {d : Dev} {k : Nat} {c : CtxId}

theorem fenceEnd_done {x : Stall} (hstall : (d.thrAt k).stall = some x) (hc : d.holder (k / 8) = some c) (hdone : d.fenceDone k x = true) :
    d.fenceEnd k = d.retire (d.insnOf k c) 0 0 := by
  simp [Dev.fenceEnd, hstall, hc, hdone]

theorem beatRelease_ticked (hc : d.holder (k / 8) = some c) (hbeat : (d.thrAt k).state = .beat) (htick : (d.thrAt k).beatIn ≠ d.time.beat) :
    d.beatRelease k
      = (d.retire (d.insnOf k c) (d.thrAt k).beatRd d.time.beat).modThr k (fun t => { t with tmo := false }) := by
  simp [Dev.beatRelease, hc, hbeat, htick]

/-- The record of a held thread whose instruction ends. -/
theorem retire_insnOf_thrAt (d : Dev) (k : Nat) (c : CtxId) (rd v : Nat) :
    (d.retire (d.insnOf k c) rd v).thrAt k = { d.thrAt k with
      state := .ready, stall := none, wait := none, pc := ((d.thrAt k).pc + 4) % 2 ^ 64, x := setX (d.thrAt k).x rd v } :=
  d.retire_thrAt_self (d.insnOf k c) rd v

end

/-! ### The clauses of O44 -/

section
variable {th : ThreadRef} {op : CustOp} {i : Insn} {e : Dev} {s : State}

theorem mfenceU_answers (H : s.dev.Issues s.mem th 4 (custBits op 0x2B 0) i e) (hrd : op.rd.val = 0) (hrs2 : op.rs2.val = 0)
    (hf7 : op.funct7.toNat = 0) : Answers (.mfenceU th op) s (fun t => t = s.withDev
      (if 128 ≤ e.xreg i.k op.rs1.val then e.illegal i else e.fenceOn i (.fenceU (e.xreg i.k op.rs1.val)))) :=
  ⟨_, rfl, H.run (mfenceUAct_eq i hrd hrs2 hf7)⟩

theorem mfenceR_answers (H : s.dev.Issues s.mem th 4 (custBits op 0x2B 1) i e) (h : bareOp op) :
    Answers (.mfenceR th op) s (fun t => t = s.withDev (e.fenceOn i .fenceR)) :=
  ⟨_, rfl, H.run (mfenceAct_eq i .fenceR h)⟩

theorem mfenceG_answers (H : s.dev.Issues s.mem th 4 (custBits op 0x2B 2) i e) (h : bareOp op) :
    Answers (.mfenceG th op) s (fun t => t = s.withDev (e.fenceOn i .fenceG)) :=
  ⟨_, rfl, H.run (mfenceAct_eq i .fenceG h)⟩

theorem rdbeat_answers (H : s.dev.Issues s.mem th 4 (custBits op 0x2B 3) i e) (hrs2 : op.rs2.val = 0) (hf7 : op.funct7.toNat = 0) :
    Answers (.rdbeat th op) s (fun t => t = s.withDev
      ((beatRead e i.c op.rs1.val).elim (e.illegal i) (e.retire i op.rd.val))) :=
  ⟨_, rfl, H.run (rdbeatAct_eq i hrs2 hf7)⟩

theorem mexit_answers (H : s.dev.Issues s.mem th 4 (custBits op 0x2B 5) i e) (h : bareOp op) :
    Answers (.mexit th op) s (fun t => t = s.withDev
      ((e.modThr i.k (fun x => { x with state := .done, pc := (x.pc + 4) % 2 ^ 64 })).endThreads i.c)) :=
  ⟨_, rfl, H.run (mexitAct_eq i h)⟩

theorem beatWait_answers (H : s.dev.Issues s.mem th 4 (custBits op 0x2B 4) i e) (hrs1 : op.rs1.val = 0) (hrs2 : op.rs2.val = 0)
    (hf7 : op.funct7.toNat = 0) : Answers (.beatWait th op) s (fun t => s.onlyDev t ∧ (t.dev.thrAt i.k).state = .beat
      ∧ (t.dev.thrAt i.k).beatRd = op.rd.val ∧ (t.dev.thrAt i.k).beatIn = s.dev.time.beat ∧ (t.dev.thrAt i.k).pc = i.pc) := by
  refine ⟨_, congrArg Host.Outcome.next (H.run (beatWaitAct_eq i hrs1 hrs2 hf7)), s.onlyDev_withDev _, ?_⟩
  simp [State.withDev, H.time, H.pc_thrAt]

theorem fenceComplete_answers {x : Stall} {c : CtxId} (hstall : (s.dev.thrAt (thrNo th)).stall = some x)
    (hc : s.dev.holder (thrNo th / 8) = some c) (hdone : s.dev.fenceDone (thrNo th) x = true) :
    Answers (.fenceComplete th) s (fun t => s.onlyDev t ∧ (t.dev.thrAt (thrNo th)).state = .ready ∧ (t.dev.thrAt (thrNo th)).stall = none
      ∧ (t.dev.thrAt (thrNo th)).pc = ((s.dev.thrAt (thrNo th)).pc + 4) % 2 ^ 64 ∧ (t.dev.thrAt (thrNo th)).x = (s.dev.thrAt (thrNo th)).x) := by
  refine ⟨s.withDev (s.dev.fenceEnd (thrNo th)), rfl, s.onlyDev_withDev _, ?_⟩
  simp [State.withDev, fenceEnd_done hstall hc hdone, retire_insnOf_thrAt, setX]

theorem beatWaitRelease_answers {c : CtxId} (hc : s.dev.holder (thrNo th / 8) = some c) (hbeat : (s.dev.thrAt (thrNo th)).state = .beat)
    (htick : (s.dev.thrAt (thrNo th)).beatIn ≠ s.dev.time.beat) :
    Answers (.beatWaitRelease th) s (fun t => s.onlyDev t ∧ (t.dev.thrAt (thrNo th)).state = .ready ∧ (t.dev.thrAt (thrNo th)).tmo = false
      ∧ (t.dev.thrAt (thrNo th)).x = setX (s.dev.thrAt (thrNo th)).x (s.dev.thrAt (thrNo th)).beatRd s.dev.time.beat) := by
  refine ⟨s.withDev (s.dev.beatRelease (thrNo th)), rfl, s.onlyDev_withDev _, ?_⟩
  simp [State.withDev, beatRelease_ticked hc hbeat htick, retire_insnOf_thrAt]

end

/-- Settles O44: what each of the eight rows answers, by the equation of its action where no reserved field is set; RDBEAT's clauses
by the selection. -/
theorem threadFencesAndBeats : Obligations.ThreadFencesAndBeats := by
  unfold Obligations.ThreadFencesAndBeats
  refine ⟨fun th op i e s H hrd hrs2 hf7 => ⟨fun hmask => ?_, fun hmask => ?_⟩, fun _ _ _ _ _ => mfenceR_answers,
    fun _ _ _ _ _ => mfenceG_answers, fun _ _ _ _ => fenceComplete_answers,
    fun th op i e s H hrs2 hf7 => ⟨fun hsel => ?_, fun hsel => ?_, fun hsel => ?_, fun hsel => ?_⟩, fun _ _ _ _ _ => beatWait_answers,
    fun _ _ _ => beatWaitRelease_answers, fun _ _ _ _ _ => mexit_answers⟩
  · simpa [Nat.not_le.mpr hmask, Dev.fenceOn] using mfenceU_answers H hrd hrs2 hf7
  · simpa [hmask] using mfenceU_answers H hrd hrs2 hf7
  · simpa [hsel, beatRead] using rdbeat_answers H hrs2 hf7
  · simpa [hsel, beatRead] using rdbeat_answers H hrs2 hf7
  · simpa [hsel, beatRead] using rdbeat_answers H hrs2 hf7
  · simpa [beatRead_reserved e i.c hsel] using rdbeat_answers H hrs2 hf7

end Sys2Proof.Proofs
end

section
/-! The written bits of memory lines (R198): what each part of a write makes of the written bits and of the bytes that a read sees, and
O60 from those.  The idea is that opening a line changes no byte that a read sees, since a byte of an unwritten line reads as zero before
and is zero after. -/

namespace Sys2Proof.Machine

open Sys2Proof.Laws

/-! ### A run of keys of a table -/

section
variable {V : Type} [DecidableEq V] {d e : V}

/-- A run of writes leaves every key before it and behind it alone. -/
theorem tblGet_setList_of_outside {x : Nat} : ∀ {vs : List V} {t : Tbl V} {k : Nat}, x < k ∨ k + vs.length ≤ x →
    tblGet e (tblSetList d t k vs) x = tblGet e t x
  | [], _, _, _ => rfl
  | v :: vs, t, k, hx => by
    rw [List.length_cons] at hx
    calc tblGet e (tblSetList d (tblSet d t k v) (k + 1) vs) x
      _ = tblGet e (tblSet d t k v) x := tblGet_setList_of_outside (by omega)
      _ = tblGet e t x := tblGet_set_ne (by omega)

/-- Each key of a run reads as its value in the list. -/
theorem tblGet_setList_add : ∀ {vs : List V} {t : Tbl V} {k i : Nat} (hi : i < vs.length),
    tblGet d (tblSetList d t k vs) (k + i) = vs[i]
  | v :: vs, t, k, 0, _ => by
    calc tblGet d (tblSetList d (tblSet d t k v) (k + 1) vs) k
      _ = tblGet d (tblSet d t k v) k := tblGet_setList_of_outside (by omega)
      _ = v := tblGet_set_self
  | v :: vs, t, k, i + 1, hi => by
    simpa [tblSetList, Nat.add_right_comm, Nat.add_assoc] using
      tblGet_setList_add (t := tblSet d t k v) (k := k + 1) (Nat.lt_of_succ_lt_succ hi)

end

/-! ### Lines, written bits and bytes -/

theorem lineOf_mono {a b : Nat} (h : a ≤ b) : lineOf a ≤ lineOf b := Nat.div_le_div_right h

theorem mem_linesOf {a n l : Nat} : l ∈ linesOf a n ↔ n ≠ 0 ∧ lineOf a ≤ l ∧ l ≤ lineOf (a + n - 1) := by
  unfold linesOf
  split
  · simp [*]
  · simp only [List.mem_map, List.mem_range]
    constructor
    · rintro ⟨i, hi, rfl⟩
      have : lineOf a ≤ lineOf (a + n - 1) := lineOf_mono (by omega)
      exact ⟨‹_›, by omega, by omega⟩
    · rintro ⟨-, hlo, hhi⟩
      exact ⟨l - lineOf a, by omega, by omega⟩

/-- The line of each byte of a range is among the lines of the range. -/
theorem lineOf_mem_linesOf {a n i : Nat} (hi : i < n) : lineOf (a + i) ∈ linesOf a n :=
  mem_linesOf.mpr ⟨by omega, lineOf_mono (by omega), lineOf_mono (by omega)⟩

namespace Mem

variable {m m' : Mem}

theorem byte_of_unwritten {x : Nat} (h : m.isWritten (lineOf x) = false) : m.byte x = 0 := by simp [byte, h]

theorem byte_of_written {x : Nat} (h : m.isWritten (lineOf x) = true) : m.byte x = tblGet 0 m.bytes x := by simp [byte, h]

theorem isWritten_congr (h : m'.written = m.written) (l : Nat) : m'.isWritten l = m.isWritten l := by rw [isWritten, h, isWritten]

/-- A byte reads alike where its written bit and its entry are alike. -/
theorem byte_congr {x : Nat} (hw : m'.written = m.written) (hb : tblGet 0 m'.bytes x = tblGet 0 m.bytes x) : m'.byte x = m.byte x := by
  rw [byte, byte, isWritten_congr hw, hb]

/-- A read is a list of bytes exactly where each byte of the range is its byte. -/
theorem read_eq_iff {a : Nat} {bs : Bytes} : m.read a bs.length = bs ↔ ∀ i (hi : i < bs.length), m.byte (a + i) = bs[i] := by
  simp [read, List.ext_getElem_iff]

/-! ### Opening lines -/

theorem openLine_of_written {l : Nat} (h : m.isWritten l = true) : m.openLine l = m := if_pos h

theorem isWritten_openLine (m : Mem) (l j : Nat) : (m.openLine l).isWritten j = (decide (j = l) || m.isWritten j) := by
  by_cases hl : m.isWritten l = true
  · by_cases hj : j = l <;> simp [openLine_of_written hl, hj, hl]
  · rw [openLine, if_neg hl]
    by_cases hj : j = l
    · simp [hj, isWritten]
    · simp [hj, isWritten, tblGet_set_ne hj]

/-- A line that is opened loses its entries and every other line keeps its own. -/
theorem bytes_openLine_of_unwritten {l : Nat} (hl : m.isWritten l = false) (x : Nat) :
    tblGet 0 (m.openLine l).bytes x = if lineOf x = l then 0 else tblGet 0 m.bytes x := by
  rw [openLine, if_neg (by simp [hl])]
  split
  · exact tblGet_drop_of (p := fun k => decide (lineOf k = l)) (by simpa)
  · exact tblGet_drop_of_not (p := fun k => decide (lineOf k = l)) (by simpa)

/-- The bytes of a line that is opened are zero, as they read before (R198). -/
theorem byte_openLine (m : Mem) (l x : Nat) : (m.openLine l).byte x = m.byte x := by
  cases hl : m.isWritten l with
  | true => rw [openLine_of_written hl]
  | false =>
    rw [byte, byte, isWritten_openLine, bytes_openLine_of_unwritten hl]
    by_cases hx : lineOf x = l
    · simp [hx, hl]
    · simp [hx]

theorem isWritten_openLines (j : Nat) : ∀ (ls : List Nat) (m : Mem),
    (ls.foldl openLine m).isWritten j = (decide (j ∈ ls) || m.isWritten j)
  | [], _ => by simp
  | l :: ls, m => by simp [isWritten_openLines j ls, isWritten_openLine, Bool.or_left_comm, Bool.or_assoc]

theorem byte_openLines (x : Nat) (ls : List Nat) (m : Mem) : (ls.foldl openLine m).byte x = m.byte x :=
  foldl_keeps (P := fun b : Mem => b.byte x = m.byte x) (fun b l hb => (byte_openLine b l x).trans hb) ls m rfl

/-! ### Poison marks -/

theorem markLine_frame (m : Mem) (a n : Nat) (p : Bool) (l : Nat) :
    (m.markLine a n p l).bytes = m.bytes ∧ (m.markLine a n p l).written = m.written := by
  unfold markLine
  split
  · exact ⟨rfl, rfl⟩
  · split <;> exact ⟨rfl, rfl⟩

/-- Poison marks are apart from bytes and written bits. -/
theorem markLines_frame (m : Mem) (a n : Nat) (p : Bool) (ls : List Nat) :
    (ls.foldl (fun m l => m.markLine a n p l) m).bytes = m.bytes ∧ (ls.foldl (fun m l => m.markLine a n p l) m).written = m.written :=
  foldl_keeps (P := fun b : Mem => b.bytes = m.bytes ∧ b.written = m.written)
    (fun b l ⟨hb, hw⟩ => ⟨(markLine_frame b a n p l).1.trans hb, (markLine_frame b a n p l).2.trans hw⟩) ls m ⟨rfl, rfl⟩

/-! ### Writes -/

/-- A write opens its lines and then lists its bytes; the rest of it is poison marks. -/
theorem write_tables (m : Mem) (a : Nat) (bs : Bytes) (p : Bool) :
    (m.write a bs p).bytes = tblSetList 0 ((linesOf a bs.length).foldl openLine m).bytes a bs
    ∧ (m.write a bs p).written = ((linesOf a bs.length).foldl openLine m).written :=
  markLines_frame _ a bs.length p _

/-- A write sets the written bits of its lines and no other (R198). -/
theorem isWritten_write (m : Mem) (a : Nat) (bs : Bytes) (p : Bool) (l : Nat) :
    (m.write a bs p).isWritten l = (decide (l ∈ linesOf a bs.length) || m.isWritten l) := by
  rw [isWritten_congr (write_tables m a bs p).2, isWritten_openLines]

/-- What a read sees outside a write stays, also within the lines that the write opens. -/
theorem byte_write_of_outside (m : Mem) {a x : Nat} {bs : Bytes} (p : Bool) (hx : x < a ∨ a + bs.length ≤ x) :
    (m.write a bs p).byte x = m.byte x := by
  obtain ⟨hbytes, hwritten⟩ := write_tables m a bs p
  rw [byte_congr hwritten (by rw [hbytes, tblGet_setList_of_outside hx]), byte_openLines]

theorem byte_write_add (m : Mem) (a : Nat) {bs : Bytes} (p : Bool) {i : Nat} (hi : i < bs.length) :
    (m.write a bs p).byte (a + i) = bs[i] := by
  rw [byte_of_written (by simp [isWritten_write, lineOf_mem_linesOf hi]), (write_tables m a bs p).1, tblGet_setList_add hi]

/-- A read of what a write wrote. -/
theorem read_write_self (m : Mem) (a : Nat) (bs : Bytes) (p : Bool) : (m.write a bs p).read a bs.length = bs :=
  read_eq_iff.mpr fun _ hi => byte_write_add m a p hi

/-- A read of unwritten lines is zeros (R198). -/
theorem read_of_unwritten {a n : Nat} (h : ∀ i < n, m.isWritten (lineOf (a + i)) = false) : m.read a n = List.replicate n 0 := by
  have hbyte : ∀ i < n, m.byte (a + i) = 0 := fun i hi => byte_of_unwritten (h i hi)
  exact List.eq_replicate_iff.mpr ⟨by simp [read], by simpa [read] using hbyte⟩

end Mem

end Sys2Proof.Machine

namespace Sys2Proof.Proofs

open Sys2Proof.Machine

/-- Settles O60: the bits by what a write makes of each line's bit; the bytes within the write as listed; the bytes outside it as they
read before, which is zero in a line whose bit was clear. -/
theorem writtenBits : Obligations.WrittenBits := by
  unfold Obligations.WrittenBits
  refine ⟨fun m a bs p _ hbs => ⟨fun l hlo hhi => ?_, fun l hl => ?_, m.read_write_self a bs p, fun x => m.byte_write_of_outside p,
    fun x _ _ hclear hx => ?_⟩, fun m a n => Mem.read_of_unwritten⟩
  · have hmem : l ∈ linesOf a bs.length := mem_linesOf.mpr ⟨by simpa using hbs, hlo, hhi⟩
    simp [Mem.isWritten_write, hmem]
  · have hmem : l ∉ linesOf a bs.length := fun h => by have := mem_linesOf.mp h; omega
    simp [Mem.isWritten_write, hmem]
  · rw [m.byte_write_of_outside p hx, Mem.byte_of_unwritten hclear]

end Sys2Proof.Proofs
end


section
/-! The machine as a whole: a step is one action of the command at the front of the queue, and an action's effects keep the canonical
form of memory and only blow fuses (R198, R488, R500). -/

namespace Sys2Proof.Machine

open Sys2Proof.Laws

/-! ### Steps -/

/-- Every command is one action on the state, whatever the state. -/
theorem exec_runs (i : Instr) : Acts.Statement i := by
  cases i <;> exact fun _ => ⟨_, rfl⟩

/-- What a step can do: idle on an empty queue, or run one action on the state with the queue's rest. -/
theorem step_cases {s t : State} (h : step s = .next t) :
    (s.pending = [] ∧ t = s.withDev { s.dev with cclk := s.dev.cclk + 1 })
    ∨ ∃ i rest a, s.pending = i :: rest ∧ t = ({ s with pending := rest } : State).run a := by
  unfold step at h
  split at h
  next hnil => exact .inl ⟨hnil, (Host.Outcome.next.inj h).symm⟩
  next i rest hcons =>
    obtain ⟨a, ha⟩ := exec_runs i { s with pending := rest }
    rw [ha] at h
    exact .inr ⟨i, rest, a, hcons, (Host.Outcome.next.inj h).symm⟩

end Sys2Proof.Machine

namespace Sys2Proof.Proofs

open Sys2Proof.Machine Sys2Proof.Laws

/-- Settles O53: both forms are the step's equation on a queue with a front. -/
theorem stepRunsTheFront : Obligations.StepRunsTheFront := by
  unfold Obligations.StepRunsTheFront
  refine ⟨fun i s => rfl, fun i rest s hs => ?_⟩
  rw [step, hs]

/-- Settles O54. -/
theorem emptyQueueIdles : Obligations.EmptyQueueIdles := by
  unfold Obligations.EmptyQueueIdles
  intro s hs
  exact ⟨s.withDev { s.dev with cclk := s.dev.cclk + 1 }, by simp [step, hs, State.withDev], rfl⟩

/-- Settles O55: every command is one action, and an action leaves the queue. -/
theorem everyCommandAnswers : Obligations.EveryCommandAnswers := by
  unfold Obligations.EveryCommandAnswers
  intro i s
  obtain ⟨a, ha⟩ := exec_runs i s
  exact ⟨s.run a, ha, run_pending s a⟩

/-- Settles O56: an idle step leaves memory, and every other step is one action, whose effects keep the canonical form. -/
theorem stepsKeepMemoryForm : Obligations.StepsKeepMemoryForm := by
  unfold Obligations.StepsKeepMemoryForm
  intro s t hwf hstep
  obtain ⟨-, rfl⟩ | ⟨i, rest, a, -, rfl⟩ := step_cases hstep
  · exact hwf
  · exact run_memWf _ a hwf

/-- Settles O59. -/
theorem resetState : Obligations.ResetState := by
  unfold Obligations.ResetState
  refine ⟨rfl, Nat.zero_le 31, rfl, fun a n => ?_, rfl, fun c => rfl, rfl⟩
  exact Mem.read_of_unwritten fun i _ => rfl

end Sys2Proof.Proofs
end

section
/-! Which actions leave the fuses (R488, R500).  Every combinator that the commands are made of hands on what its parts do, so only the
actions that raise an SVN or count an ERASE change a fuse; a packet's management request reaches no register of the Keeper (R529). -/

namespace Sys2Proof.Machine

/-- An action that changes no fuse. -/
def Act.SparesFuses (a : Act) : Prop := ∀ f m d, (a f m d).fuse = []

/-- A packet's action that changes no fuse. -/
def Perf.SparesFuses (g : Perf) : Prop := ∀ p map now f m d, (g p map now f m d).2.fuse = []

/-! ### Sequences and the ways to a command -/

namespace Act.SparesFuses

theorem dev (g : Dev → Dev) : (Act.dev g).SparesFuses := fun _ _ _ => rfl

theorem andThen {a b : Act} (ha : a.SparesFuses) (hb : b.SparesFuses) : (a.andThen b).SparesFuses := fun f m d => by
  simp only [Act.andThen, ha f m d, hb _ _ _, List.append_nil]

theorem each {A : Type} {g : A → Act} (hg : ∀ x, (g x).SparesFuses) : ∀ l : List A, (Act.each g l).SparesFuses
  | [] => fun _ _ _ => rfl
  | x :: xs => andThen (hg x) (each hg xs)

theorem mgmtAct {r : RegName} {i : Nat} {a : Act} (ha : a.SparesFuses) : (mgmtAct r i a).SparesFuses := by
  intro f m d
  simp only [Machine.mgmtAct]
  repeat' split
  · rfl
  · rfl
  · exact ha f m d

theorem mgmtDev (r : RegName) (i : Nat) (g : Dev → Dev) : (mgmtDev r i g).SparesFuses := mgmtAct (dev g)

theorem spdm (x : SpdmMsg) (g : Fuses → Dev → Dev) : (spdm x g).SparesFuses := by
  intro f m d
  simp only [Machine.spdm]
  repeat' split
  all_goals rfl

theorem hostRow {ops : List Nat} {h : HostCmd} {body : Fetched → Act} (hbody : ∀ x, (body x).SparesFuses) :
    (hostRow ops h body).SparesFuses := by
  intro f m d
  simp only [Machine.hostRow]
  split
  · rfl
  · split
    · rfl
    · next x _ =>
      split
      · rfl
      · split
        · split
          · rfl
          · exact hbody _ _ _ _
        · exact hbody _ _ _ _

theorem ctxCommand {st : List CtxState} {us : List (Nat × Nat)} {x : Fetched} {body : CtxId → Ctx → Act}
    (hbody : ∀ c y, (body c y).SparesFuses) : (ctxCommand st us x body).SparesFuses := by
  intro f m d
  simp only [Machine.ctxCommand]
  repeat' split
  · rfl
  · rfl
  · rfl
  · exact hbody _ _ f m d

theorem runFront {core q op : Nat} (body : CtxId → QCmd → Mem → Dev → CmdEnd) : (runFront core q op body).SparesFuses := by
  intro f m d
  simp only [Machine.runFront]
  repeat' split
  all_goals rfl

theorem startCmd (u : StreamRef) (op : Nat) (body : Nat → CtxId → QCmd → Mem → Dev → StartEnd) : (startCmd u op body).SparesFuses := by
  intro f m d
  simp only [Machine.startCmd]
  repeat' split
  all_goals rfl

theorem chainAct (u : StreamRef) (kinds : Nat → Bool) : (chainAct u kinds).SparesFuses := by
  intro f m d
  simp only [Machine.chainAct]
  repeat' split
  all_goals rfl

theorem threadAct {th : ThreadRef} {len bits : Nat} {g : Insn → Act} (hg : ∀ i, (g i).SparesFuses) : (threadAct th len bits g).SparesFuses := by
  intro f m d
  simp only [Machine.threadAct]
  repeat' split
  · rfl
  · rfl
  · rfl
  · exact hg _ _ _ _

end Act.SparesFuses

/-! ### Packets -/

/-- What an accepted packet's action answers. -/
theorem Perf.SparesFuses.of_eq {g : Perf} (hg : g.SparesFuses) {p : Pkt} {map now : Nat} {f : Fuses} {m : Mem} {d : Dev} {e : PerfEnd}
    {r : Res} (h : g p map now f m d = (e, r)) : r.fuse = [] := by
  have := hg p map now f m d
  rwa [h] at this

namespace Act.SparesFuses

theorem acceptAct {g : Perf} (hg : g.SparesFuses) (k : Nat) (p : Pkt) (r : RecvFlow) (resync marked : Bool) (now : Nat) :
    (acceptAct g k p r resync marked now).SparesFuses := by
  intro f m d
  unfold Machine.acceptAct
  extract_lets fin run
  have hrun : ∀ q map n, ((run q map n).getD { dev := d }).fuse = [] := by
    intro q map n
    simp only [run]
    split
    · rfl
    · next heq => simpa using hg.of_eq heq
    · next heq => simpa using hg.of_eq heq
  split
  · split
    · exact hrun _ _ _
    · rfl
  · split
    · rfl
    · split
      · rfl
      · exact hrun _ _ _

theorem receiveAct {g : Perf} (hg : g.SparesFuses) (port flits : Nat) (p : Pkt) (now : Nat) : (receiveAct g port flits p now).SparesFuses := by
  intro f m d
  simp only [Machine.receiveAct]
  repeat' split
  all_goals first | rfl | exact hg _ _ _ _ _ _ | exact acceptAct hg _ _ _ _ _ _ _ _ _

theorem arriveAct (a : Arrival) {g : Act} (hg : g.SparesFuses) : (arriveAct a g).SparesFuses := by
  intro f m d
  simp only [Machine.arriveAct]
  split
  · rfl
  · exact hg f m d

theorem deliverAct {g : Perf} (hg : g.SparesFuses) (types : List Nat) (a : Arrival) : (deliverAct g types a).SparesFuses := by
  intro f m d
  simp only [Machine.deliverAct]
  split
  · rfl
  · exact arriveAct a (receiveAct hg _ _ _ _) f m d

theorem linkLocalAct {ty : Nat} {states : Nat → Dev → Bool} {g : Nat → Pkt → Nat → Act} (hg : ∀ k p n, (g k p n).SparesFuses) (a : Arrival) :
    (linkLocalAct ty states g a).SparesFuses := by
  intro f m d
  simp only [Machine.linkLocalAct]
  split
  · rfl
  · refine arriveAct a (fun f m d => ?_) f m d
    repeat' split
    · rfl
    · rfl
    · rfl
    · exact hg _ _ _ f m d

end Act.SparesFuses

namespace Perf.SparesFuses

theorem putAt (p : Pkt) (own : Option Nat) (a : Nat) (bs : Bytes) (map : Nat) (all : Bool) (m : Mem) (d : Dev) :
    (putAt p own a bs map all m d).2.fuse = [] := by
  simp only [Machine.putAt]
  repeat' split
  all_goals rfl

theorem amoAt (p q : Pkt) (map : Nat) (m : Mem) (d : Dev) : (amoAt p q map m d).2.fuse = [] := by
  simp only [Machine.amoAt]
  repeat' split
  all_goals rfl

theorem gather (first : Pkt) (bs : Bytes) (poison : Bool) (p : Pkt) (map : Nat) (m : Mem) (d : Dev) :
    (gather first bs poison p map m d).2.fuse = [] := by
  simp only [Machine.gather]
  split
  · rfl
  · split
    · split <;> exact putAt _ _ _ _ _ _ _ _
    · exact amoAt _ _ _ _ _

theorem dev (g : Pkt → Nat → Dev → Dev) : (Perf.dev g).SparesFuses := fun _ _ _ _ _ _ => rfl

theorem perfWrite : perfWrite.SparesFuses := fun _ _ _ _ _ _ => putAt _ _ _ _ _ _ _ _

theorem perfGetData : perfGetData.SparesFuses := by
  intro p map now f m d
  simp only [Machine.perfGetData]
  split
  · rfl
  · split
    · rfl
    · split <;> exact putAt _ _ _ _ _ _ _ _

theorem perfShort : perfShort.SparesFuses := fun _ _ _ _ _ _ => gather _ _ _ _ _ _ _

theorem perfShortCont : perfShortCont.SparesFuses := by
  intro p map now f m d
  simp only [Machine.perfShortCont]
  split
  · exact gather _ _ _ _ _ _ _
  · rfl

theorem perfGetReq : perfGetReq.SparesFuses := by
  intro p map now f m d
  simp only [Machine.perfGetReq]
  repeat' split
  all_goals rfl

theorem perfShard : perfShard.SparesFuses := by
  intro p map now f m d
  simp only [Machine.perfShard]
  repeat' split
  all_goals rfl

theorem perfNack : perfNack.SparesFuses := fun _ _ _ _ _ _ => rfl

theorem perfOf : perfOf.SparesFuses := by
  intro p map now f m d
  simp only [Machine.perfOf]
  split
  · exact perfWrite _ _ _ _ _ _
  · exact perfGetData _ _ _ _ _ _
  · exact perfShard _ _ _ _ _ _
  · exact dev _ _ _ _ _ _ _
  · exact perfNack _ _ _ _ _ _
  · exact dev _ _ _ _ _ _ _
  · exact dev _ _ _ _ _ _ _
  · exact perfShort _ _ _ _ _ _
  · exact perfShortCont _ _ _ _ _ _
  · exact dev _ _ _ _ _ _ _
  · exact perfGetReq _ _ _ _ _ _
  · exact dev _ _ _ _ _ _ _
  · rfl

end Perf.SparesFuses

namespace Act.SparesFuses

/-! ### Contexts, resets and registers -/

theorem killAct (c : CtxId) (n : Nat) (x : Option Fetched) : (killAct c n x).SparesFuses := fun _ _ _ => rfl

theorem killAll (cs : List CtxId) (n : Nat) : (killAll cs n).SparesFuses := each (fun _ => killAct _ _ _) cs

theorem killOff (cs : List CtxId) (n : Nat) : (killOff cs n).SparesFuses := andThen (killAll cs n) (dev _)

theorem vfGone (fn : FnId) : (vfGone fn).SparesFuses := fun f m d => andThen (killAll _ _) (dev _) f m d

theorem pfReset : pfReset.SparesFuses := andThen (killAll _ _) (dev _)

theorem warmReset (brynoa : Bool) : (warmReset brynoa).SparesFuses := andThen (killOff _ _) (dev _)

theorem resetScope (n : Nat) : (resetScope n).SparesFuses := by
  intro f m d
  unfold Machine.resetScope
  split
  · rfl
  · split
    · extract_lets die
      split
      · rfl
      · split <;> rfl
    · split
      · exact warmReset _ f m _
      · rfl
    · split
      · exact warmReset _ f m _
      · rfl
    · extract_lets clr
      split <;> rfl
    · split <;> rfl
    · rfl

theorem resetWrite (w : RegWr) : (resetWrite w).SparesFuses := mgmtAct fun f m d => by
  simp only
  split
  · exact resetScope _ _ _ _
  · rfl

theorem debugWrite (w : RegWr) : (debugWrite w).SparesFuses := mgmtAct fun f m d => by
  extract_lets written locked token result shown used named
  split
  · rfl
  · split
    · rfl
    · split
      · split <;> rfl
      · exact andThen (killAll _ _) (dev _) _ _ _

theorem fwStep (w : RegWr) (op : Fuses → Dev → Nat → Nat × Dev) : (fwStep w op).SparesFuses := mgmtAct fun f m d => by
  simp only
  repeat' split
  all_goals rfl

theorem traceBit (want n : Nat) : (traceBit want n).SparesFuses := by
  intro f m d
  simp only [Machine.traceBit, traceStop]
  repeat' split
  all_goals rfl

theorem traceWrite (w : RegWr) : (traceWrite w).SparesFuses := mgmtAct (by
  split
  · exact each (traceBit _) _
  · exact fun _ _ _ => rfl)

/-- A write of a register of the configuration spaces changes fuses in KEEP_BOOT alone. -/
theorem planeWrite {r : RegName} (hr : r ≠ .KEEP_BOOT) (i : Nat) (w : RegWr) (now : Nat) : (planeWrite r i w now).SparesFuses := by
  unfold Machine.planeWrite
  split
  · exact mgmtDev _ _ _
  · exact mgmtDev _ _ _
  · exact mgmtDev _ _ _
  · exact mgmtDev _ _ _
  · exact mgmtDev _ _ _
  · exact mgmtDev _ _ _
  · exact mgmtDev _ _ _
  · exact mgmtDev _ _ _
  · exact mgmtDev _ _ _
  · exact mgmtDev _ _ _
  · exact mgmtDev _ _ _
  · exact mgmtDev _ _ _
  · exact mgmtDev _ _ _
  · exact absurd rfl hr
  · exact mgmtDev _ _ _
  · exact mgmtDev _ _ _
  · exact mgmtDev _ _ _
  · exact debugWrite w
  · exact resetWrite w
  · exact mgmtDev _ _ _
  · exact fwStep w _
  · exact mgmtDev _ _ _
  · exact traceWrite w
  · exact mgmtDev _ _ _
  · exact mgmtDev _ _ _

/-! ### Ethernet -/

theorem of_deliver {d : Dev} {m : Mem} {h : HeldFrame} {r : Res} (hr : d.deliver m h = some r) : r.fuse = [] := by
  simp only [Dev.deliver] at hr
  split at hr
  · rw [← Option.some.inj hr]
  · split at hr
    · rw [← Option.some.inj hr]
    · split at hr
      · exact absurd hr (by simp)
      · rw [← Option.some.inj hr]
        rfl

theorem releaseHeld (x : SubPort) : ∀ n, (releaseHeld x n).SparesFuses
  | 0 => fun _ _ _ => rfl
  | n + 1 => fun f m d => by
    simp only [Machine.releaseHeld]
    split
    · rfl
    · split
      · rfl
      · next heq => exact andThen (fun _ _ _ => of_deliver heq) (releaseHeld x n) f m d

theorem releasePort (p : Fin 2) : (releasePort p).SparesFuses := fun f m d => each (fun _ => releaseHeld _ _) _ f m d

theorem rxFrame (x : EthFrame) : (rxFrame x).SparesFuses := by
  intro f m d
  simp only [Machine.rxFrame, Dev.rxSteered]
  split
  · rfl
  · split
    · rfl
    · split
      · rfl
      · split
        · rfl
        · split
          · rfl
          · split
            · rfl
            · split
              · next heq => exact of_deliver heq
              · split <;> rfl

theorem ethBell (fn : FnId) (j v : Nat) (ds : List Bytes) : (ethBell fn j v ds).SparesFuses := by
  intro f m d
  simp only [Machine.ethBell]
  split
  · rfl
  · split
    · rfl
    · exact andThen (dev _) (releasePort _) f m d

theorem ethConfig (fn : FnId) (j : Nat) (w : RegWr) : (ethConfig fn j w).SparesFuses := by
  intro f m d
  simp only [Machine.ethConfig]
  split
  · rfl
  · split
    · rfl
    · exact andThen (dev _) (releasePort _) f m d

/-! ### Instructions -/

theorem loadAct (op : LoadOp) (i : Insn) : (loadAct op i).SparesFuses := by
  intro f m d
  simp only [Machine.loadAct]
  repeat' split
  all_goals rfl

theorem loadReturn (th : ThreadRef) (ret : LoadReturn) : (loadReturn th ret).SparesFuses := by
  intro f m d
  simp only [Machine.loadReturn]
  repeat' split
  all_goals rfl

theorem ctrlStoreAct (off v va : Nat) (i : Insn) : (ctrlStoreAct off v va i).SparesFuses := by
  intro f m d
  simp only [Machine.ctrlStoreAct]
  repeat' split
  all_goals rfl

theorem nearWrite (a : Nat) (ro : Bool) (bs : Bytes) (va : Nat) (done : Dev → Dev) (i : Insn) : (nearWrite a ro bs va done i).SparesFuses := by
  intro f m d
  simp only [Machine.nearWrite]
  repeat' split
  all_goals rfl

theorem farWrite (r : Reach) (va op : Nat) (amo : Option (AmoKind × Nat)) (bs : Bytes) (hold : Option (Nat → Stall)) (i : Insn) :
    (farWrite r va op amo bs hold i).SparesFuses := by
  intro f m d
  simp only [Machine.farWrite]
  repeat' split
  all_goals rfl

theorem storeAct (va n v : Nat) (i : Insn) : (storeAct va n v i).SparesFuses := by
  intro f m d
  simp only [Machine.storeAct]
  repeat' split
  all_goals first | exact ctrlStoreAct _ _ _ _ _ _ _ | exact nearWrite _ _ _ _ _ _ _ _ _ | exact farWrite _ _ _ _ _ _ _ _ _ _ | rfl

theorem storeOpAct (op : StoreOp) (i : Insn) : (storeOpAct op i).SparesFuses := fun f m d => storeAct _ _ _ i f m d

theorem amoAct (op : AmoOp) (i : Insn) : (amoAct op i).SparesFuses := by
  intro f m d
  simp only [Machine.amoAct]
  repeat' split
  all_goals first | exact farWrite _ _ _ _ _ _ _ _ _ _ | rfl

theorem lrAct (op : LrScOp) (i : Insn) : (lrAct op i).SparesFuses := by
  intro f m d
  simp only [Machine.lrAct]
  repeat' split
  all_goals rfl

theorem scAct (op : LrScOp) (i : Insn) : (scAct op i).SparesFuses := by
  intro f m d
  simp only [Machine.scAct]
  repeat' split
  all_goals first | exact nearWrite _ _ _ _ _ _ _ _ _ | rfl

theorem missueAct (op : CustOp) (i : Insn) : (missueAct op i).SparesFuses := by
  intro f m d
  simp only [Machine.missueAct]
  repeat' split
  all_goals rfl

theorem descAct (r : Nat) (w : W64) (valid : Bool) (i : Insn) : (descAct r w valid i).SparesFuses := by
  intro f m d
  simp only [Machine.descAct]
  split
  · exact ctrlStoreAct _ _ _ _ _ _ _
  · rfl

theorem ctrlAct (r op : Nat) (i : Insn) : (ctrlAct r op i).SparesFuses := fun f m _ => ctrlStoreAct _ _ _ i f m _

theorem windowAct (a : WindowAmo) (i : Insn) : (windowAct a i).SparesFuses := by
  intro f m d
  simp only [Machine.windowAct]
  repeat' split
  all_goals rfl

theorem fenceSetAct (op : FenceOp) (i : Insn) : (fenceSetAct op i).SparesFuses := by
  unfold Machine.fenceSetAct
  split <;> exact dev _

/-! ### Streams and flights -/

theorem stopAct (u : StreamRef) : (stopAct u).SparesFuses := by
  intro f m d
  simp only [Machine.stopAct]
  repeat' split
  all_goals rfl

theorem arrivalAct (id : Nat) : (arrivalAct id).SparesFuses := by
  intro f m d
  simp only [Machine.arrivalAct]
  repeat' split
  all_goals rfl

end Act.SparesFuses

/-! ### Instruction words -/

/-- An instruction that changes no fuse. -/
def InsnSparesFuses (g : Insn → Act) : Prop := ∀ i, (g i).SparesFuses

namespace InsnSparesFuses

theorem dev (g : Insn → Dev → Dev) : InsnSparesFuses (fun i => Act.dev (g i)) := fun _ => Act.SparesFuses.dev _

theorem wLoad (w : Nat) (compressed : Bool) : InsnSparesFuses (wLoad w compressed) := by
  unfold Machine.wLoad
  split
  · exact dev _
  · exact Act.SparesFuses.loadAct _

theorem wStore (w : Nat) (compressed : Bool) : InsnSparesFuses (wStore w compressed) := by
  unfold Machine.wStore
  split
  · exact dev _
  · exact Act.SparesFuses.storeOpAct _

theorem wAtomic (w : Nat) : InsnSparesFuses (wAtomic w) := by
  simp only [Machine.wAtomic]
  split
  · exact dev _
  · split
    · exact Act.SparesFuses.lrAct _
    · split
      · exact Act.SparesFuses.scAct _
      · split
        · exact Act.SparesFuses.amoAct _
        · exact dev _

theorem wSystem (w : Nat) : InsnSparesFuses (wSystem w) := by
  unfold Machine.wSystem
  repeat' split
  all_goals exact dev _

theorem wCustom0 (w : Nat) : InsnSparesFuses (wCustom0 w) := by
  unfold Machine.wCustom0
  split
  · exact Act.SparesFuses.missueAct _
  all_goals exact dev _

theorem wCustom1 (w : Nat) : InsnSparesFuses (wCustom1 w) := by
  unfold Machine.wCustom1
  split
  all_goals exact dev _

theorem wordAct (w : Nat) (compressed : Bool) : InsnSparesFuses (wordAct w compressed) := by
  simp only [Machine.wordAct]
  split
  case h_6 => exact wLoad _ _
  case h_7 => exact wStore _ _
  case h_13 => exact wAtomic _
  case h_14 => exact wSystem _
  case h_15 => exact wCustom0 _
  case h_16 => exact wCustom1 _
  case h_4 => split <;> exact dev _
  case h_12 => split <;> exact dev _
  all_goals exact dev _

end InsnSparesFuses

/-! ### Management requests and what the router delivers -/

theorem placeAt_reg_mem {ps : List RegPlace} {off i : Nat} {r : RegName} (h : placeAt ps off = some (r, i)) : r ∈ ps.map (·.reg) := by
  obtain ⟨p, hp, hr⟩ := List.exists_of_findSome?_eq_some h
  refine List.mem_map.mpr ⟨p, hp, ?_⟩
  split at hr
  · split at hr
    · cases hr; rfl
    · cases hr
  · split at hr
    · cases hr; rfl
    · cases hr

/-- A packet's management request that is OK does not name KEEP_BOOT, a register of the Keeper in the Brynoa die's space (R529). -/
theorem mgmtStatus_keeps_boot {d : Dev} {src sp off i : Nat} (hok : d.mgmtStatus (some src) sp off = 0) :
    d.regAt sp off ≠ some (.KEEP_BOOT, i) := by
  intro hreg
  obtain ⟨hplace, -⟩ := Option.filter_eq_some_iff.mp hreg
  split at hplace
  · split at hplace
    · obtain ⟨⟨r, j⟩, hp, he⟩ := Option.map_eq_some_iff.mp hplace
      cases he
      exact absurd (placeAt_reg_mem hp) (by decide)
    · cases hplace
  · split at hplace
    · next hsp =>
      have hkeeper : RegName.KEEP_STAT.ctorIdx ≤ RegName.KEEP_BOOT.ctorIdx ∧ RegName.KEEP_BOOT.ctorIdx < RegName.MMC_RESET.ctorIdx := by
        decide
      simp [Dev.mgmtStatus, hplace, hsp, hkeeper] at hok
    · cases hplace

theorem mgmtAccess_read_sparesFuses (src : Option Nat) (tag sp off v now : Nat) (f : Fuses) (m : Mem) (d : Dev) :
    (mgmtAccess src false tag sp off v now f m d).2.fuse = [] := by
  unfold mgmtAccess
  split <;> rfl

theorem mgmtAccess_sparesFuses {src : Nat} (write : Bool) (tag sp off v now : Nat) (f : Fuses) (m : Mem) (d : Dev) :
    (mgmtAccess (some src) write tag sp off v now f m d).2.fuse = [] := by
  unfold mgmtAccess
  split
  · next hok =>
    split
    · show (spaceWrite sp off 8 v now f m d).fuse = []
      unfold spaceWrite
      split
      · next w r i _ hreg =>
        exact Act.SparesFuses.planeWrite (fun hr => mgmtStatus_keeps_boot hok (hr ▸ hreg)) i w now f m d
      · rfl
    · rfl
  · rfl
  · rfl

namespace Perf.SparesFuses

theorem perfMgmt : perfMgmt.SparesFuses := fun _ _ _ f m d => mgmtAccess_sparesFuses _ _ _ _ _ _ f m d

theorem perfAll : perfAll.SparesFuses := by
  intro p map now f m d
  unfold Machine.perfAll
  split
  · exact perfMgmt _ _ _ _ _ _
  · exact perfOf _ _ _ _ _ _

end Perf.SparesFuses

namespace Act.SparesFuses

theorem loopAct : loopAct.SparesFuses := fun f m _ => each (fun _ => receiveAct Perf.SparesFuses.perfAll _ _ _ _) _ f m _

theorem forwardAct (a : Arrival) : (forwardAct a).SparesFuses := by
  intro f m d
  have hdrop : ∀ g, (Machine.arriveAct a (Act.dev g) f m d).fuse = [] := fun g => arriveAct a (dev g) f m d
  simp only [Machine.forwardAct]
  split
  · exact arriveAct a (receiveAct Perf.SparesFuses.perfAll _ _ _ _) f m d
  · split
    · exact hdrop _
    · split
      · exact hdrop _
      · split
        · split <;> rfl
        · exact hdrop _
        · exact hdrop _

/-- A read over the side band. -/
theorem sideBandRead (r : MgmtRequest) : (sideBand false r).SparesFuses := by
  intro f m d
  unfold Machine.sideBand
  split
  · rfl
  · exact mgmtAccess_read_sparesFuses _ _ _ _ _ _ f m d

/-! ### Host commands -/

theorem traceStop (n : Nat) : (traceStop n).SparesFuses := by
  intro f m d
  unfold Machine.traceStop
  split <;> rfl

theorem hostMem (x : Fetched) : (hostMem x).SparesFuses := by
  intro f m d
  dsimp only [Machine.hostMem]
  split
  · rfl
  · split
    · rfl
    · split
      · exact dev _ f m d
      · split
        · dsimp only [hostReclaim]
          repeat' split
          all_goals rfl
        · rfl

end Act.SparesFuses

theorem IssueEnd.res_sparesFuses (e : IssueEnd) (k accept index : Nat) : (e.res k accept index).fuse = [] := by
  cases e <;> rfl

theorem issueMove_sparesFuses (d : Dev) (m : Mem) (k : Nat) (mv : RingMove) (t : Transfer) : (d.issueMove m k mv t).fuse = [] := by
  simp only [Dev.issueMove, Dev.fillShard, Dev.relayGradient, Dev.relayShard]
  repeat' split
  all_goals rfl

/-! ### The commands -/

/-- Every command but the writes of registers, SVN_COMMIT and ALARM_TRIP is an action that changes no fuse. -/
theorem exec_sparesFuses (i : Instr) (s : State) (hsvn : ∀ w, i ≠ .svnCommit w) (htrip : ∀ sensor now, i ≠ .alarmTrip sensor now)
    (hreg : ∀ a, i ≠ .registerWrite a) (hmgmt : ∀ r, i ≠ .mgmtWrite r) : ∃ a : Act, exec i s = .next (s.run a) ∧ a.SparesFuses := by
  cases i with
  | killComplete _ | commandFetch _ _ | sqDoorbell _ _ _ | cqDoorbell _ _ _ | ringEnable _ _ _ | ringDisable _ _ _
  | retiredKeyDestroy _ | lockoutExpiry | vsb12Lost | vin48Present | vin48Lost | vin48Overvoltage | seatOpen | resetPin
  | startRetry | testComplete _ _ | unitFault _ | switchComplete | dutyStep _ | peakLimit _ | peakRecovery _ | thermalLimit _
  | domainRaise _ | domainLower _ | coolantStatus _ | quadTrainingDone _ _ | trainingTimeout _ | trainingRetry _ | lcf _ _
  | lcfTimeout _ | switchAtReached _ | quadFail _ | uncorrectableSet _ _ | helloTimer _ | timeExchangeTimer _ | holdoverTimeout
  | beatTick | arrivalDeadline _ | tumblerFlip | pendingClear | ackTimer _ | flowTimeout _ | congestionStep _ | pauseExpiry _ _
  | pfcRefresh _ | subPortLink _ _ | watermarkArm _ _ _ | mwaitWake _ | mwtmoExpiry _ | fenceComplete _ | beatWaitRelease _
  | commandCompletion _ | transferCompletion _ | slotFull _ _ | tagWake _ | uninitClear _ _ | invalidation _ _ | latchRelease _ _
  | shortWriteAcknowledgement _ _ | hostCommandComplete _ _ | vfEnable _ | alarmSensorRelease _ | thermalLimitRelease _
  | removeQuad _ _ | addQuad _ _ | substituteSpare _ _ | quadAcknowledge _ _ | quadRefuse _ _ =>
    exact ⟨_, rfl, .dev _⟩
  | alarmClear _ | alarmCfgCommit _ | nonceRead | takeOut _ _ | bringIn _ _ | fwData _ | pwrCapWrite _ _ | linkProfileCommit _
  | portEnable _ _ | recal _ _ | moduleIdCommit _ | timeCfgWrite _ | periodApply _ _ | flipRequest _ | tableEntryWrite _
  | tableEntryRead | ethPortEnable _ _ | ethRuleWrite _ | lnkQuadClr _ | lnkErrClr | rteErrClr | rteRelClr | rtePviolClr _
  | bryLsStatClr | bryOvrCntClr _ | ethRxErrClr _ | ethRxDropClr _ | ethTxErrClr _ | ethPauseClr _ | mmcCfgRejClr
  | prgSramEccClr _ | strErrClr _ | strBramClr _ | synStatClr _ | memEccClr _ =>
    exact ⟨_, rfl, .mgmtDev _ _ _⟩
  | getVersion _ | getCapabilities _ | negotiateAlgorithms _ | getDigests _ | getCertificate _ | challenge _ | getMeasurements _
  | keyExchange _ | finish _ | heartbeat _ | keyUpdate _ | endSession _ | bindModelKey _ | dropModelKey _ | setLinkKey _
  | setDebugKey _ =>
    exact ⟨_, rfl, .spdm _ _⟩
  | tokenSubmit _ | debugLock _ =>
    exact ⟨_, rfl, .debugWrite _⟩
  | computeDieReset _ | warmModuleReset _ | brynoaDieReset _ | coldModuleReset _ | prepareRemove _ =>
    exact ⟨_, rfl, .resetWrite _⟩
  | fwBegin _ | fwCheck _ | fwSwitch _ =>
    exact ⟨_, rfl, .fwStep _ _⟩
  | traceEnable _ =>
    exact ⟨_, rfl, .traceWrite _⟩
  | loadb _ | mma _ | mmat _ | epi _ | drain _ | zero _ | cvt _ | vew _ | vred _ | vcvt _ | vrand _ | vseed _ =>
    exact ⟨_, rfl, .runFront _⟩
  | xfer _ | chain _ | short _ | sdep _ | hpush _ | ssave _ =>
    exact ⟨_, rfl, .startCmd _ _ _⟩
  | linear _ | strided _ | gather _ | scatter _ | transpose _ =>
    exact ⟨_, rfl, .chainAct _ _⟩
  | ethDoorbell _ _ _ _ =>
    exact ⟨_, rfl, .ethBell _ _ _ _⟩
  | ethQueueConfig _ _ _ =>
    exact ⟨_, rfl, .ethConfig _ _ _⟩
  | frameReceive _ =>
    exact ⟨_, rfl, .andThen (.releasePort _) (.rxFrame _)⟩
  | loadDataReturn _ _ =>
    exact ⟨_, rfl, .loadReturn _ _⟩
  | write _ =>
    exact ⟨_, rfl, .deliverAct .perfWrite _ _⟩
  | getData _ =>
    exact ⟨_, rfl, .deliverAct .perfGetData _ _⟩
  | shard _ =>
    exact ⟨_, rfl, .deliverAct .perfShard _ _⟩
  | nack _ =>
    exact ⟨_, rfl, .deliverAct .perfNack _ _⟩
  | shortPacket _ =>
    exact ⟨_, rfl, .deliverAct .perfShort _ _⟩
  | shortCont _ =>
    exact ⟨_, rfl, .deliverAct .perfShortCont _ _⟩
  | getReq _ =>
    exact ⟨_, rfl, .deliverAct .perfGetReq _ _⟩
  | poisonMap _ =>
    exact ⟨_, rfl, .deliverAct .perfOf _ _⟩
  | ack _ | reset _ | refuse _ | amoResp _ | ringHalt _ =>
    exact ⟨_, rfl, .deliverAct (.dev _) _ _⟩
  | threadLoad _ _ =>
    exact ⟨_, rfl, .threadAct (.loadAct _)⟩
  | threadStore _ _ =>
    exact ⟨_, rfl, .threadAct (.storeOpAct _)⟩
  | amo _ _ =>
    exact ⟨_, rfl, .threadAct (.amoAct _)⟩
  | lr _ _ =>
    exact ⟨_, rfl, .threadAct (.lrAct _)⟩
  | sc _ _ =>
    exact ⟨_, rfl, .threadAct (.scAct _)⟩
  | fence _ _ =>
    exact ⟨_, rfl, .threadAct (.fenceSetAct _)⟩
  | missue _ _ =>
    exact ⟨_, rfl, .threadAct (.missueAct _)⟩
  | regionEnable _ _ =>
    exact ⟨_, rfl, .threadAct (.descAct _ _ _)⟩
  | regionDisable _ _ =>
    exact ⟨_, rfl, .threadAct (.descAct _ _ _)⟩
  | push _ _ =>
    exact ⟨_, rfl, .threadAct (.ctrlAct _ _)⟩
  | pop _ _ =>
    exact ⟨_, rfl, .threadAct (.ctrlAct _ _)⟩
  | windowAmoadd _ =>
    exact ⟨_, rfl, .threadAct (.windowAct _)⟩
  | fenceI _ | ecall _ | ebreak _ _ | csrInstruction _ _ | mqctlRestart _ _ | mqctlClear _ _ | mwait _ _ | mpoll _ _ | msig _ _
  | mfenceU _ _ | mfenceR _ _ | mfenceG _ _ | rdbeat _ _ | beatWait _ _ | mexit _ _ =>
    exact ⟨_, rfl, .threadAct fun _ => .dev _⟩
  | packetSend _ =>
    refine ⟨_, rfl, fun f m d => ?_⟩
    split
    · rfl
    · exact Act.SparesFuses.andThen (.dev _) .loopAct f m d
  | packetForward a =>
    refine ⟨_, rfl, fun f m d => ?_⟩
    split
    · split
      · exact Act.SparesFuses.arriveAct a (.dev _) f m d
      · rfl
    · split
      · rfl
      · exact Act.SparesFuses.forwardAct a f m d
  | kill _ | release _ | haltNow _ =>
    exact ⟨_, rfl, .hostRow fun _ => .ctxCommand fun _ _ _ _ _ => rfl⟩
  | assign _ | grantImage _ | revokeImage _ | memAlloc _ | memFree _ | load _ | start _ | haltAtBeat _ | copy _
  | importStream _ =>
    refine ⟨_, rfl, .hostRow fun x => .ctxCommand fun c y f m d => ?_⟩
    dsimp only
    repeat' split
    all_goals rfl
  | ctxSetup _ =>
    refine ⟨_, rfl, .hostRow fun x => .ctxCommand fun c y f m d => ?_⟩
    dsimp only
    repeat' split
    all_goals first | exact Act.SparesFuses.andThen (.each .traceStop _) (fun _ _ _ => rfl) f m d | rfl
  | hostMemRelease _ | hostMemReclaim _ =>
    exact ⟨_, rfl, .hostRow .hostMem⟩
  | hostCopy _ | stats _ =>
    refine ⟨_, rfl, .hostRow fun x f m d => ?_⟩
    dsimp only
    repeat' split
    all_goals rfl
  | startDeadline | queueAccept _ | markerRelease _ =>
    exact ⟨_, rfl, fun _ _ _ => rfl⟩
  | streamStop _ =>
    exact ⟨_, rfl, .stopAct _⟩
  | writeUnitArrival _ =>
    exact ⟨_, rfl, .arrivalAct _⟩
  | segmentIssue _ _ =>
    refine ⟨_, rfl, fun f m d => ?_⟩
    dsimp only
    split
    · rfl
    · split
      · exact issueMove_sparesFuses _ _ _ _ _
      · split
        · rfl
        · split
          · rfl
          · exact IssueEnd.res_sparesFuses _ _ _ _
  | cxlMemRead _ | cxlMemWrite _ _ | startupComplete _ | scrubComplete _ | frameTransmit _ _ | backgroundFill _ =>
    refine ⟨_, rfl, fun f m d => ?_⟩
    repeat' split
    all_goals rfl
  | importRecord _ _ | vsb12Present | startFail _ | rtoExpiry _ | sramScrub _ _ | patrolScrub _ _ =>
    refine ⟨_, rfl, fun f m d => ?_⟩
    dsimp only
    repeat' split
    all_goals rfl
  | functionLevelReset _ =>
    refine ⟨_, rfl, fun f m d => ?_⟩
    split
    · rfl
    · split
      · exact Act.SparesFuses.pfReset f m d
      · split
        · exact Act.SparesFuses.vfGone _ f m d
        · rfl
  | hostLinkReset =>
    refine ⟨_, rfl, fun f m d => ?_⟩
    split
    · exact Act.SparesFuses.pfReset f m d
    · rfl
  | vfRemoval _ =>
    refine ⟨_, rfl, fun f m d => ?_⟩
    dsimp only
    split
    · exact Act.SparesFuses.andThen (.each .vfGone _) (.dev _) f m d
    · rfl
  | moduleError _ _ =>
    refine ⟨_, rfl, fun f m d => ?_⟩
    split
    · rfl
    · exact Act.SparesFuses.andThen (.dev _) (.andThen (.killOff _ _) (.dev _)) f m d
  | hello _ =>
    refine ⟨_, rfl, .linkLocalAct (fun _ _ _ => ?_) _⟩
    exact .dev _
  | timeReq _ | timeResp _ | timeInfo _ | lockstep _ =>
    exact ⟨_, rfl, .linkLocalAct (fun _ _ _ => .dev _) _⟩
  | mgmtRead r =>
    refine ⟨_, rfl, fun f m d => ?_⟩
    split
    · split <;> rfl
    · exact Act.SparesFuses.sideBandRead r f m d
    · exact Act.SparesFuses.deliverAct .perfMgmt _ _ f m d
  | pauseFrameReceive _ =>
    refine ⟨_, rfl, fun f m d => ?_⟩
    split
    · exact Act.SparesFuses.rxFrame _ f m d
    · rfl
  | baseInstruction th w =>
    refine ⟨_, rfl, ?_⟩
    split
    · exact .threadAct (InsnSparesFuses.wordAct _ _)
    · split
      · exact .threadAct (InsnSparesFuses.wordAct _ _)
      · exact .threadAct fun _ => .dev _
  | registerWrite a => exact absurd rfl (hreg a)
  | mgmtWrite r => exact absurd rfl (hmgmt r)
  | alarmTrip sensor now => exact absurd rfl (htrip sensor now)
  | svnCommit w => exact absurd rfl (hsvn w)

end Sys2Proof.Machine

namespace Sys2Proof.Proofs

open Sys2Proof.Machine

/-- Settles O58: every other command is an action that changes no fuse. -/
theorem fusesChangeByFew : Obligations.FusesChangeByFew := by
  unfold Obligations.FusesChangeByFew
  intro i s t hexec hsvn htrip hreg hmgmt
  obtain ⟨a, ha, hspares⟩ := exec_sparesFuses i s hsvn htrip hreg hmgmt
  obtain rfl : s.run a = t := Host.Outcome.next.inj (ha.symm.trans hexec)
  show s.fuse.apply (a s.fuse s.mem s.dev).fuse = s.fuse
  rw [hspares]
  rfl

end Sys2Proof.Proofs
end

section
/-! What a host command that starts comes to (R432, R434, R440): its row runs its body on the device in which it has begun.  The
commands on contexts, images and statistics (R441 to R449). -/

namespace Sys2Proof.Machine

open Sys2Proof.Laws

/-! ### Answers of one action -/

/-- A command that runs one action answers the state that the action's result gives. -/
theorem answers_of_act {i : Instr} {s : State} {a : Act} {r : Res} {P : State → Prop} (he : exec i s = .next (s.run a))
    (ha : a s.fuse s.mem s.dev = r)
    (hP : P { s with fuse := s.fuse.apply r.fuse, mem := s.mem.apply r.mem, dev := r.dev }) : Answers i s P := by
  subst ha
  exact ⟨_, he, hP⟩

/-- A command that runs an action on the device alone answers the state with the changed device. -/
theorem answers_of_dev {i : Instr} {s : State} {a : Act} {d : Dev} {P : State → Prop} (he : exec i s = .next (s.run a))
    (ha : a s.fuse s.mem s.dev = { dev := d }) (hP : P (s.withDev d)) : Answers i s P := answers_of_act he ha hP

theorem Dev.completes_finish (a : Dev) (x : Fetched) (code r0 r1 : Nat) : Dev.Completes a (a.finish x.begin code r0 r1) x code r0 r1 :=
  ⟨a, Dev.Reports.refl a, rfl⟩

/-- A command that only changes the device, to `b`, and completes. -/
theorem answers_completes {i : Instr} {s : State} {a : Act} {b : Dev} {x : Fetched} {code r0 r1 : Nat}
    (he : exec i s = .next (s.run a)) (ha : a s.fuse s.mem s.dev = { dev := b.finish x.begin code r0 r1 }) :
    Answers i s (fun t => s.onlyDev t ∧ Dev.Completes b t.dev x code r0 r1) :=
  answers_of_dev he ha ⟨⟨rfl, rfl, rfl⟩, Dev.completes_finish b x code r0 r1⟩

theorem Dev.completesAfter_finish (a : Dev) (x : Fetched) (fill : Bool) (code r0 r1 : Nat) :
    Dev.CompletesAfter a (a.finishAfterFill x.begin fill code r0 r1) x fill code r0 r1 :=
  ⟨a, Dev.Reports.refl a, rfl⟩

/-! ### Contexts -/

/-- What ASSIGN does with a free context, its fields in range (R441, R443). -/
theorem assign_act {s : State} {h : HostCmd} {x : Fetched} {c : CtxId}
    (hs : s.dev.StartsOn h 0x01 x c [.free] [(0x10, 1), (0x12, 2), (0x14, 2), (0x18, 4), (0x1C, 4), (0x20, 2)])
    (h1 : 1 ≤ rdb x.entry 0x10) (h2 : rdb x.entry 0x10 ≤ 63) (h3 : rd x.entry 0x12 2 ≠ 0) (h4 : rd x.entry 0x12 2 ≠ 0xFFFF)
    (h5 : rd x.entry 0x14 2 ≤ 96) {P : State → Prop}
    (hP : P (s.withDev (if allCtx.any (fun o => (s.dev.ctxAt o).state ≠ .free && (s.dev.ctxAt o).pkey = rd x.entry 0x12 2) then
        (s.dev.begin x).finish x.begin hConflict 0 0
      else (((s.dev.begin x).modCtx c (fun _ => { Ctx.init with
          state := .assigned, owner := Fin.ofNat 64 (rdb x.entry 0x10), pkey := rd x.entry 0x12 2, coreQuota := rd x.entry 0x14 2,
          hbmQuota := rd x.entry 0x18 4, capQuota := rd x.entry 0x1C 4, shmQuota := rd x.entry 0x20 2 })).putSlot (c.val + 1) true).finish
        x.begin hOk 0 0))) : Answers (.assign h) s P := by
  refine answers_of_dev rfl ((ctxRow_starts hs _ _ _).trans ?_) hP
  have hfields : (rdb x.begin.entry 0x10 = 0 || 63 < rdb x.begin.entry 0x10 || rd x.begin.entry 0x12 2 = 0
      || rd x.begin.entry 0x12 2 = 0xFFFF || 96 < rd x.begin.entry 0x14 2) = false := by
    simp only [Fetched.begin, Bool.or_eq_false_iff]
    exact ⟨⟨⟨⟨decide_eq_false (by omega), decide_eq_false (by omega)⟩, decide_eq_false h3⟩, decide_eq_false h4⟩,
      decide_eq_false (by omega)⟩
  simp only [Act.dev, hfields, Bool.false_eq_true, if_false]
  rfl

/-- HALT_AT_BEAT by its checks (R445). -/
theorem haltAtBeat_act {s : State} {h : HostCmd} {x : Fetched} {c : CtxId} (hs : s.dev.StartsOn h 0x25 x c [.running] [(0x10, 8)])
    {P : State → Prop}
    (hP : P (s.withDev (if (s.dev.ctxAt c).haltAt.isSome then (s.dev.begin x).finish x.begin hBadState 0 0
      else if !s.dev.locked c then (s.dev.begin x).finish x.begin hBadMode 0 0
      else if s.dev.tooLate (rd x.entry 0x10 8) h.now.toNat then (s.dev.begin x).finish x.begin hLate 0 0
      else (s.dev.begin x).modCtx c (fun y => { y with haltAt := some (rd x.entry 0x10 8) })))) : Answers (.haltAtBeat h) s P :=
  answers_of_dev rfl (ctxRow_starts hs _ _ _) hP

/-- A context that halts and whose command then completes (R445, R449). -/
theorem Dev.haltCtx_finish (d : Dev) (c : CtxId) (x : Fetched) (code r0 r1 : Nat) :
    let e := (d.haltCtx c haltNowReason).finish x code r0 r1
    (e.ctxAt c).state = .halted ∧ (e.ctxAt c).haltAt = none ∧ (e.ctxAt c).haltRbeat = none := by
  intro e
  obtain ⟨hstate, -, hat, hrbeat⟩ := d.haltCtx_does c haltNowReason
  have hsame := (d.haltCtx c haltNowReason).finish_ctxAt x code r0 r1 c
  refine ⟨(uncounted_state hsame).trans hstate, ?_, ?_⟩
  · exact (congrArg Ctx.haltAt hsame).trans hat
  · exact (congrArg Ctx.haltRbeat hsame).trans hrbeat

/-- A state of a list of three. -/
theorem CtxState.of_contains {st : CtxState} {states : List CtxState} (h : states.contains st = true) (hf : CtxState.free ∉ states)
    (hk : CtxState.killing ∉ states) : st ≠ .free ∧ st ≠ .killing := by
  have hmem : st ∈ states := by simpa using h
  exact ⟨fun e => hf (e ▸ hmem), fun e => hk (e ▸ hmem)⟩

/-- RELEASE and KILL bring their context into KILLING (R449). -/
theorem kill_answers {s : State} {h : HostCmd} {x : Fetched} {c : CtxId} {op : Nat} {states : List CtxState} {i : Instr}
    (he : exec i s = .next (s.run (hostRow [op] h (fun x =>
      ctxCommand states [] x (fun c _ => fun f m d => killAct c (d.ringCode x.ring) (some x) f m d)))))
    (hs : s.dev.StartsOn h op x c states []) (hf : CtxState.free ∉ states) (hk : CtxState.killing ∉ states) :
    Answers i s (fun t => (t.dev.ctxAt c).state = .killing ∧ (t.dev.ctxAt c).killCmd = some x.begin
      ∧ (t.dev.ctxAt c).issuer = s.dev.ringCode x.ring ∧ t.fuse = s.fuse
      ∧ t.mem = s.mem.apply ((s.dev.ctxAt c).cores.flatMap s.dev.coreSram
          ++ ((s.dev.own.unitsOf c).filter (shmUnit0 ≤ ·)).map (fun u => MemEff.clear (unitAddr u) (unitBytes u)))) := by
  obtain ⟨hfree, hkilling⟩ := CtxState.of_contains hs.state hf hk
  obtain ⟨hstate, hissuer, hcmd, hfuse, hmem⟩ :=
    killAct_does (s.dev.begin x) s.mem s.fuse c (s.dev.ringCode x.ring) (some x.begin) hfree hkilling
  refine answers_of_act he (ctxRow_starts hs _ _ _) ⟨hstate, hcmd, hissuer, ?_, ?_⟩
  · exact congrArg s.fuse.apply hfuse
  · exact congrArg s.mem.apply hmem

/-! ### Images -/

/-- REVOKE_IMAGE of an image that exists (R75, R459): what becomes of it. -/
theorem Dev.revoke_of_image (d : Dev) {i : Nat} {us : List Nat} {gs : List CtxId} (c : CtxId) (h : d.own.image i = some (us, gs)) :
    (if d.own.granted i c then d.revoke i c else d) = if !gs.contains c then d
      else if (gs.filter (· ≠ c)).isEmpty then
        (d.withOwn { (d.own.setOwners us .freeDirty) with images := tblSet none d.own.images i none }).putSlot (65 + i) false
      else d.withOwn { d.own with images := tblSet none d.own.images i (some (us, gs.filter (· ≠ c))) } := by
  have hgranted : d.own.granted i c = gs.contains c := by simp [Own.granted, h]
  rw [hgranted]
  cases hc : gs.contains c with
  | false => rfl
  | true => simp only [Dev.revoke, h, Own.dropImage]; rfl

end Sys2Proof.Machine

namespace Sys2Proof.Proofs

open Sys2Proof.Machine Sys2Proof.Laws

/-- Settles O1: ASSIGN runs its body on the device in which it has begun, and the two parts are the two ways that its look for
another holder of the PKEY can end. -/
theorem assign : Obligations.Assign := by
  unfold Obligations.Assign
  refine ⟨fun h x c s hs h1 h2 h3 h4 h5 hfree => ?_, fun h x c o s hs h1 h2 h3 h4 h5 ho hp => ?_⟩
  · refine assign_act hs h1 h2 h3 h4 h5 ⟨⟨rfl, rfl, rfl⟩, ?_⟩
    have hnone : allCtx.any (fun o => (s.dev.ctxAt o).state ≠ .free && (s.dev.ctxAt o).pkey = rd x.entry 0x12 2) = false := by
      simp only [List.any_eq_false, Bool.and_eq_true, decide_eq_true_eq, not_and]
      exact fun o _ => hfree o
    rw [hnone]
    exact Dev.completes_finish _ x _ _ _
  · refine assign_act hs h1 h2 h3 h4 h5 ⟨⟨rfl, rfl, rfl⟩, ?_⟩
    have hsome : allCtx.any (fun o => (s.dev.ctxAt o).state ≠ .free && (s.dev.ctxAt o).pkey = rd x.entry 0x12 2) = true :=
      List.any_eq_true.mpr ⟨o, List.mem_finRange o, by simp [ho, hp]⟩
    rw [hsome]
    exact Dev.completes_finish _ x _ _ _

/-- Settles O2: RELEASE and KILL are one action, which `killAct_does` describes, and the end of a kill is `killDone_does`. -/
theorem killEndsContext : Obligations.KillEndsContext := by
  unfold Obligations.KillEndsContext
  refine ⟨fun h x c s hs => kill_answers rfl hs (by decide) (by decide), fun h x c s hs => kill_answers rfl hs (by decide) (by decide),
    fun c s hk => ?_⟩
  obtain ⟨hfree, hown⟩ := s.dev.killDone_does c
  refine answers_of_dev (d := s.dev.killDone c) rfl ?_ ⟨hfree, hown, rfl, rfl, rfl⟩
  simp [hk]

/-- Settles O3: a grant and a revocation by whether the image exists. -/
theorem imageGrants : Obligations.ImageGrants := by
  unfold Obligations.ImageGrants
  refine ⟨fun h x c us gs s hs hi => ?_, fun h x c us gs s hs hi => ?_, fun h x c s hi => ⟨fun hs => ?_, fun hs => ?_⟩⟩
  · refine answers_completes rfl ((ctxRow_starts hs _ _ _).trans ?_)
    have hi' : (s.dev.begin x).own.image (rdb x.begin.entry 0x10) = some (us, gs) := hi
    simp only [Act.dev, hi']
    rfl
  · have hi' : (s.dev.begin x).own.image (rdb x.begin.entry 0x10) = some (us, gs) := hi
    refine answers_completes rfl ((ctxRow_starts hs _ _ _).trans ?_)
    simp only [Act.dev, hi', Option.isNone_some, Bool.false_eq_true, if_false, Dev.revoke_of_image _ c hi']
    rfl
  · have hi' : (s.dev.begin x).own.image (rdb x.begin.entry 0x10) = none := hi
    refine answers_completes rfl ((ctxRow_starts hs _ _ _).trans ?_)
    simp only [Act.dev, hi']
    rfl
  · have hi' : (s.dev.begin x).own.image (rdb x.begin.entry 0x10) = none := hi
    refine answers_completes rfl ((ctxRow_starts hs _ _ _).trans ?_)
    simp only [Act.dev, hi', Option.isNone_none, if_true]
    rfl

/-- Settles O5: HALT_AT_BEAT by its checks in their order, HALT_NOW by what halting leaves, STATS by the ring that asks. -/
theorem haltAndStats : Obligations.HaltAndStats := by
  unfold Obligations.HaltAndStats
  refine ⟨⟨fun h x c s hs => haltAtBeat_act hs ⟨⟨rfl, rfl, rfl⟩, fun h1 => ?_, fun h1 h2 => ?_, fun h1 h2 h3 => ?_, fun h1 h2 h3 => ?_⟩,
    fun h x c s hs => ?_⟩, fun h x s hs hc => ?_⟩
  · have hpending : (s.dev.ctxAt c).haltAt.isSome = true := Option.isSome_iff_ne_none.mpr h1
    rw [if_pos hpending]
    exact Dev.completes_finish _ x _ _ _
  · simp only [h1, h2, Option.isSome_none, Bool.not_false, Bool.false_eq_true, if_false, if_true]
    exact Dev.completes_finish _ x _ _ _
  · simp only [h1, h2, h3, Option.isSome_none, Bool.not_true, Bool.false_eq_true, if_false, if_true]
    exact Dev.completes_finish _ x _ _ _
  · simp only [h1, h2, h3, Option.isSome_none, Bool.not_true, Bool.false_eq_true, if_false]
    rfl
  · obtain ⟨hstate, hat, hrbeat⟩ := (s.dev.begin x).haltCtx_finish c x.begin hOk 0 0
    exact answers_of_dev rfl (ctxRow_starts hs _ _ _) ⟨⟨rfl, rfl, rfl⟩, hstate, hat, hrbeat, Dev.completes_finish _ x _ _ _⟩
  · refine answers_completes rfl ((hostRow_starts hs _ _ _).trans ?_)
    have hc' : argsClean x.begin.entry [(0x10, 8)] = true := hc
    have hring : x.begin.ring = x.ring := rfl
    simp only [Act.dev, hc', hring, Bool.not_true, Bool.false_eq_true, if_false]
    cases x.ring <;> rfl

end Sys2Proof.Proofs
end

section
/-! The host's commands on memory units: MEM_ALLOC and MEM_FREE (R299, R442) and the host memory region (R447). -/

namespace Sys2Proof.Machine

open Sys2Proof.Laws

/-! ### MEM_ALLOC and MEM_FREE -/

theorem Dev.allocation_device {d : Dev} {c : CtxId} {dev n : Nat} {us : List Nat} (h : d.allocation c dev n = some us) :
    (deviceUnits dev).isSome = true := by
  unfold Dev.allocation at h
  cases hd : deviceUnits dev with
  | none => simp [hd] at h
  | some _ => rfl

/-- What MEM_ALLOC does with the units that the allocation finds, its fields in order (R442). -/
def Dev.allocRes (d : Dev) (x : Fetched) (c : CtxId) : Option (List Nat) → Res
  | none => { dev := (d.begin x).finish x.begin hNoMem 0 0 }
  | some us =>
    if us.any d.traced then { dev := (d.begin x).finish x.begin hConflict 0 0 }
    else
      { dev := ((((d.begin x).hostWrite (rd x.entry 0x18 8) (us.flatMap (fun u => leBytes 8 (d.unitGlobal u)))).withOwn
          (d.own.setOwners us (.context c (rdb x.entry 0x11 = 1)))).modCtx c
            (fun y => { y with given := y.given ++ us })).finishAfterFill x.begin (d.anyDirty us) hOk (rd x.entry 0x14 4) 0
        mem := d.fillEffs us }

theorem memAlloc_answers {s : State} {h : HostCmd} {x : Fetched} {c : CtxId} {us : Option (List Nat)} {r : Res} {P : State → Prop}
    (hs : s.dev.StartsOn h 0x21 x c [.assigned, .halted] [(0x10, 1), (0x11, 1), (0x14, 4), (0x18, 8)])
    (h1 : rdb x.entry 0x11 ≤ 1) (h2 : rdb x.entry 0x10 < 0x20 ∨ s.dev.flat (rdb x.entry 0x10 - 0x20) = false)
    (h3 : (deviceUnits (rdb x.entry 0x10)).isSome = true) (h4 : s.dev.allocation c (rdb x.entry 0x10) (rd x.entry 0x14 4) = us)
    (hr : s.dev.allocRes x c us = r) (hP : P { s with fuse := s.fuse.apply r.fuse, mem := s.mem.apply r.mem, dev := r.dev }) :
    Answers (.memAlloc h) s P := by
  refine answers_of_act rfl ((ctxRow_starts hs _ _ _).trans (Eq.trans ?_ hr)) hP
  have hfields : ((deviceUnits (rdb x.begin.entry 0x10)).isNone || decide (1 < rdb x.begin.entry 0x11)) = false := by
    rw [Bool.or_eq_false_iff]
    exact ⟨by rw [← Option.not_isSome]; exact congrArg not h3, decide_eq_false (Nat.not_lt.mpr h1)⟩
  have hmode : (decide (0x20 ≤ rdb x.begin.entry 0x10) && (s.dev.begin x).flat (rdb x.begin.entry 0x10 - 0x20)) = false := by
    rw [Bool.and_eq_false_iff]
    exact h2.imp (fun hlt => decide_eq_false (Nat.not_le.mpr hlt)) id
  have hallocation : (s.dev.begin x).allocation c (rdb x.begin.entry 0x10) (rd x.begin.entry 0x14 4) = us := h4
  simp only [hfields, hmode, hallocation, Bool.false_eq_true, if_false]
  cases us with
  | none => rfl
  | some us => rfl

/-- MEM_FREE by the units that its addresses name (R442). -/
theorem memFree_answers {s : State} {h : HostCmd} {x : Fetched} {c : CtxId} {us : List (Option Nat)} {P : State → Prop}
    (hs : s.dev.StartsOn h 0x22 x c [.assigned, .halted] [(0x14, 4), (0x18, 8)])
    (hus : (List.range (rd x.entry 0x14 4)).map (fun i => s.dev.ownedUnit c (rd h.data (8 * i) 8)) = us)
    (hP : P (s.withDev (if us.any Option.isNone then (s.dev.begin x).finish x.begin hAccess 0 0
      else (((s.dev.begin x).withOwn (s.dev.own.setOwners (us.filterMap id) .freeDirty)).invalidate c none).finish x.begin hOk 0 0))) :
    Answers (.memFree h) s P := by
  subst hus
  exact answers_of_dev rfl (ctxRow_starts hs _ _ _) hP

/-! ### The host memory region -/

/-- HOST_MEM with its range and its reserved bytes in order, by its OP (R441, R447). -/
theorem hostMem_row {s : State} {h : HostCmd} {x : Fetched} {k : Nat} (hs : s.dev.StartsHostMem h x k) :
    hostRow [0x06] h hostMem s.fuse s.mem s.dev =
      if k = 1 then hostRelease x.begin x.granules s.fuse s.mem (s.dev.begin x)
      else if k = 2 then hostReclaim x.begin x.granules s.fuse s.mem (s.dev.begin x)
      else refuse x.begin hBadField s.fuse s.mem (s.dev.begin x) := by
  refine (hostRow_starts hs.toStarts _ _ _).trans ?_
  have hrange : hostMemRange x.begin.entry = some x.granules := if_pos hs.range
  have hclean : argsClean x.begin.entry [(0x10, 1), (0x14, 4), (0x18, 4)] = true := hs.clean
  have hop : rdb x.begin.entry 0x10 = k := hs.oper
  simp only [hostMem, hrange, hclean, hop, Bool.not_true, Bool.false_eq_true, if_false]

/-- What reclaiming pairs up, where each device has units enough. -/
theorem reclaimPairs_of_picks {ks : List Nat} {pick : Nat → Option (List Nat)} : ∀ {ms : List Nat} {picks : List (List Nat)},
    ms.map pick = picks.map some →
    (ms.map (fun m => (m, pick m))).flatMap (fun p => (onDevice ks p.1).zip (p.2.getD []))
      = (ms.zip picks).flatMap (fun p => (onDevice ks p.1).zip p.2)
  | [], [], _ => rfl
  | [], _ :: _, h => by simp at h
  | _ :: _, [], h => by simp at h
  | m :: ms, us :: picks, h => by
    simp only [List.map_cons, List.cons.injEq] at h
    simp only [List.map_cons, List.flatMap_cons, List.zip_cons_cons, h.1, Option.getD_some, reclaimPairs_of_picks h.2]

/-- Units were found for every device: no pick is missing. -/
theorem picks_all_found {pick : Nat → Option (List Nat)} {ms : List Nat} {picks : List (List Nat)} (h : ms.map pick = picks.map some) :
    (ms.map (fun m => (m, pick m))).any (fun p => p.2.isNone) = false := by
  have hall : (ms.map pick).any Option.isNone = false := by simp [h]
  simpa [List.any_map, Function.comp_def] using hall

/-- No granule of a list of released ones is backed. -/
theorem released_none_backed {d : Dev} {x : Fetched} {ks : List Nat} (h : ∀ k ∈ ks, d.dpaUnit k = none) :
    ks.any (fun k => ((d.begin x).dpaUnit k).isSome) = false := by
  rw [List.any_eq_false]
  intro k hk
  have hnone : (d.begin x).dpaUnit k = none := h k hk
  simp [hnone]

/-- A reclaim of released granules for which every device has units enough (R447). -/
theorem hostReclaim_of_picks {d : Dev} {x : Fetched} {picks : List (List Nat)} {f : Fuses} {m : Mem}
    (hnone : ∀ k ∈ x.granules, d.dpaUnit k = none)
    (hpicks : (List.range 16).map (fun m => d.pickUnits (capUnit0 + m * 65536) 65536 (onDevice x.granules m).length) = picks.map some) :
    hostReclaim x.begin x.granules f m (d.begin x) =
      { dev := ((d.begin x).withOwn (d.own.backed (reclaimPairs x.granules picks))).finishAfterFill x.begin
          (d.anyDirty ((reclaimPairs x.granules picks).map (·.2))) 0 0 0
        mem := d.fillEffs ((reclaimPairs x.granules picks).map (·.2)) } := by
  have hpairs := reclaimPairs_of_picks (ks := x.granules) hpicks
  have hfound := picks_all_found hpicks
  have hpick : (d.begin x).pickUnits = d.pickUnits := rfl
  rw [hostReclaim, if_neg (by rw [released_none_backed hnone]; decide)]
  simp only [hpick, hfound, hpairs, Bool.false_eq_true, if_false]
  rfl

/-- A reclaim of released granules for which one device has too few free units (R447). -/
theorem hostReclaim_of_missing {d : Dev} {x : Fetched} {k : Nat} {f : Fuses} {m : Mem} (hnone : ∀ k ∈ x.granules, d.dpaUnit k = none)
    (hk : k < 16) (hpick : d.pickUnits (capUnit0 + k * 65536) 65536 (onDevice x.granules k).length = none) :
    hostReclaim x.begin x.granules f m (d.begin x) = { dev := (d.begin x).finish x.begin hNoMem 0 0 } := by
  have hsame : (d.begin x).pickUnits = d.pickUnits := rfl
  have hmissing : ((List.range 16).map (fun m => (m, d.pickUnits (capUnit0 + m * 65536) 65536 (onDevice x.granules m).length))).any
      (fun p => p.2.isNone) = true := by
    rw [List.any_eq_true]
    exact ⟨(k, none), List.mem_map.mpr ⟨k, List.mem_range.mpr hk, by rw [hpick]⟩, rfl⟩
  rw [hostReclaim, if_neg (by rw [released_none_backed hnone]; decide)]
  simp only [hsame, hmissing, if_true]

end Sys2Proof.Machine

namespace Sys2Proof.Proofs

open Sys2Proof.Machine Sys2Proof.Laws

/-- Settles O4: each command by what it finds - the units of an allocation, the owners of those that are freed, what backs the
granules. -/
theorem memoryOwnership : Obligations.MemoryOwnership := by
  unfold Obligations.MemoryOwnership
  refine ⟨⟨fun h x c us s hs h1 h2 h3 h4 => ?_, fun h x c s hs h1 h2 h3 h4 => ?_, fun h x c us s hs hus => ?_,
    fun h x c i s hs hi hnone => ?_⟩, fun h x s hs hback => ?_, fun h x k s hs hk hnone => ?_, fun h x picks s hs hnone hpicks => ?_,
    fun h x m s hs hnone hm hpick => ?_⟩
  · have huntraced : ¬ us.any s.dev.traced = true := by simp only [h4, Bool.false_eq_true, not_false_eq_true]
    exact memAlloc_answers hs h1 h2 (Dev.allocation_device h3) h3 (if_neg huntraced)
      ⟨rfl, rfl, rfl, Dev.completesAfter_finish _ x _ _ _ _⟩
  · exact memAlloc_answers hs h1 h2 h3 h4 rfl ⟨⟨rfl, rfl, rfl⟩, Dev.completes_finish _ x _ _ _⟩
  · refine memFree_answers hs hus ⟨⟨rfl, rfl, rfl⟩, ?_⟩
    have hall : (us.map some).any Option.isNone = false := by simp
    have hfilter : (us.map some).filterMap id = us := by simp [List.filterMap_map]
    rw [hall, hfilter]
    exact Dev.completes_finish _ x _ _ _
  · refine memFree_answers hs rfl ⟨⟨rfl, rfl, rfl⟩, ?_⟩
    rw [if_pos (List.any_eq_true.mpr ⟨none, List.mem_map.mpr ⟨i, List.mem_range.mpr hi, hnone⟩, rfl⟩)]
    exact Dev.completes_finish _ x _ _ _
  · refine answers_completes rfl ((hostMem_row hs).trans ?_)
    have hall : x.granules.any (fun k => ((s.dev.begin x).dpaUnit k).isNone) = false := by
      rw [List.any_eq_false]
      intro k hk
      have hsome : ((s.dev.begin x).dpaUnit k).isSome = true := hback k hk
      rw [← Option.not_isSome, hsome]
      decide
    rw [if_pos rfl, hostRelease, Act.dev, if_neg (by simp only [hall, Bool.false_eq_true, not_false_eq_true])]
    refine congrArg (fun o => ({ dev := ((s.dev.begin x).withOwn o).finish x.begin hOk 0 0 } : Res)) (List.foldl_ext _ _ _ fun o k hk => ?_)
    obtain ⟨u, hu⟩ := Option.isSome_iff_exists.mp (hback k hk)
    have hu' : (s.dev.begin x).dpaUnit k = some u := hu
    simp only [hu, hu', Option.getD_some]
  · refine answers_completes rfl ((hostMem_row hs).trans ?_)
    have hany : x.granules.any (fun k => ((s.dev.begin x).dpaUnit k).isNone) = true :=
      List.any_eq_true.mpr ⟨k, hk, Option.isNone_iff_eq_none.mpr hnone⟩
    rw [if_pos rfl, hostRelease, Act.dev, if_pos hany]
    rfl
  · have hact := hostMem_row hs
    rw [if_neg (by decide), if_pos rfl, hostReclaim_of_picks hnone hpicks] at hact
    refine answers_of_act rfl hact ⟨rfl, rfl, rfl, ?_⟩
    exact Dev.completesAfter_finish _ x _ _ _ _
  · refine answers_completes rfl ((hostMem_row hs).trans ?_)
    rw [if_neg (by decide), if_pos rfl, hostReclaim_of_missing hnone hm hpick]
    rfl

end Sys2Proof.Proofs
end

section
/-! CTX_SETUP (R266, R302, R442, R443) and the trace captures that it stops (R531). -/

namespace Sys2Proof.Machine

open Sys2Proof.Laws

/-! ### Capture that stops -/

/-- An action that does nothing before another. -/
theorem andThen_of_idle {a b : Act} {f : Fuses} {m : Mem} {d : Dev} (h : a f m d = { dev := d }) : (a.andThen b) f m d = b f m d := by
  have hm : m.apply [] = m := rfl
  have hf : f.apply [] = f := rfl
  simp only [Act.andThen, h, hm, hf, List.nil_append]

/-- The memory that a capture on a die used is cleared as it stops (R531). -/
def traceClear (n : Nat) : MemEff := .clear (dieAddr n (quadrantBase 3)) 0x01800000

theorem traceStop_mem (n : Nat) (f : Fuses) (m : Mem) (d : Dev) :
    (traceStop n f m d).mem = if bit (d.get MMC_TRACE.EN) n then [traceClear n] else [] := by
  unfold traceStop
  split <;> rfl

/-- Stopping a capture changes registers alone. -/
theorem traceStop_rest (n : Nat) (f : Fuses) (m : Mem) (d : Dev) : ∃ r, (traceStop n f m d).dev = { d with regs := r } := by
  unfold traceStop
  split
  · exact ⟨_, rfl⟩
  · exact ⟨d.regs, rfl⟩

/-- Stopping the capture of a die clears its EN bit and no other. -/
theorem traceStop_bit (n : Nat) (f : Fuses) (m : Mem) (d : Dev) {k : Nat} (hk : k < 8) :
    bit ((traceStop n f m d).dev.get MMC_TRACE.EN) k = (bit (d.get MMC_TRACE.EN) k && k ≠ n) := by
  unfold traceStop
  split
  · rw [get_put_self _ _ _ _ (by decide), bit, bit, Nat.testBit_mod_two_pow, testBit_setField]
    have hwidth : k < MMC_TRACE.EN.width := hk
    by_cases hn : k = n
    · simp [hn]
    · have hout : k < n ∨ ¬ k < n + 1 := by omega
      rcases hout with hlt | hge
      · simp [hwidth, hlt, hn]
      · simp [hwidth, hge, hn, show ¬ k < n by omega]
  · rename_i hoff
    by_cases hn : k = n
    · simp [hn, Bool.eq_false_iff.mpr hoff]
    · simp [hn]

/-- Captures on several dies stop: what is cleared, and what of the device changes. -/
theorem each_traceStop (f : Fuses) : ∀ (ns : List Nat) (m : Mem) (d : Dev), ns.Nodup → (∀ n ∈ ns, n < 8) →
    (Act.each traceStop ns f m d).mem = (ns.filter (fun n => bit (d.get MMC_TRACE.EN) n)).map traceClear
    ∧ (∃ r, (Act.each traceStop ns f m d).dev = { d with regs := r })
    ∧ (∀ k < 8, bit ((Act.each traceStop ns f m d).dev.get MMC_TRACE.EN) k = (bit (d.get MMC_TRACE.EN) k && k ∉ ns))
    ∧ (Act.each traceStop ns f m d).fuse = []
  | [], _, d, _, _ => ⟨rfl, ⟨d.regs, rfl⟩, fun k _ => by simp [Act.each, Act.skip], rfl⟩
  | n :: ns, m, d, hnd, hlt => by
    obtain ⟨hn, hnd'⟩ := List.nodup_cons.mp hnd
    have hmem := traceStop_mem n f m d
    have hfuse : (traceStop n f m d).fuse = [] := Act.SparesFuses.traceStop n f m d
    obtain ⟨r, hrest⟩ := traceStop_rest n f m d
    have hbit := fun k (hk : k < 8) => traceStop_bit n f m d hk
    generalize hq : traceStop n f m d = q at hmem hrest hbit hfuse
    obtain ⟨imem, ⟨r', irest⟩, ibit, ifuse⟩ :=
      each_traceStop f ns (m.apply q.mem) q.dev hnd' (fun k hk => hlt k (List.mem_cons_of_mem _ hk))
    have happly : Act.each traceStop (n :: ns) f m d =
        { dev := (Act.each traceStop ns f (m.apply q.mem) q.dev).dev, mem := q.mem ++ (Act.each traceStop ns f (m.apply q.mem) q.dev).mem,
          fuse := q.fuse ++ (Act.each traceStop ns f (m.apply q.mem) q.dev).fuse } := by
      have hkeep : f.apply q.fuse = f := by rw [hfuse]; rfl
      simp only [Act.each, Act.andThen, hq, hkeep]
    rw [happly]
    refine ⟨?_, ⟨r', ?_⟩, fun k hk => ?_, ?_⟩
    · have hsame : ns.filter (fun k => bit (q.dev.get MMC_TRACE.EN) k) = ns.filter (fun k => bit (d.get MMC_TRACE.EN) k) :=
        List.filter_congr fun k hk => by
          have hne : k ≠ n := fun e => hn (e ▸ hk)
          simp [hbit k (hlt k (List.mem_cons_of_mem _ hk)), hne]
      change q.mem ++ (Act.each traceStop ns f (m.apply q.mem) q.dev).mem = _
      rw [imem, hsame, hmem, List.filter_cons]
      split <;> rfl
    · exact irest.trans (by rw [hrest])
    · simp only [ibit k hk, hbit k hk]
      by_cases hkn : k = n <;> simp [hkn]
    · simp only [hfuse, ifuse, List.append_nil]

/-- Where no capture runs, none stops. -/
theorem each_traceStop_untraced (f : Fuses) : ∀ (ns : List Nat) (m : Mem) (d : Dev), d.untraced ns →
    Act.each traceStop ns f m d = { dev := d }
  | [], _, _, _ => rfl
  | n :: ns, m, d, h => by
    have hstop : traceStop n f m d = { dev := d } := by
      rw [traceStop, if_neg (by rw [h n List.mem_cons_self]; decide)]
    exact (andThen_of_idle hstop).trans (each_traceStop_untraced f ns m d fun k hk => h k (List.mem_cons_of_mem _ hk))

/-! ### Binding -/

/-- Binding sync objects changes nothing but the sync units. -/
theorem Dev.bindSync_rest (c : CtxId) : ∀ (es : List SyncEntry) (d : Dev), ∃ y, d.bindSync c es = { d with sync := y }
  | [], d => ⟨d.sync, rfl⟩
  | e :: es, d => by
    obtain ⟨y, hy⟩ := Dev.bindSync_rest c es ((d.takeSync e.die (e.obj c)).2.putVid c e.die e.vid (some (d.takeSync e.die (e.obj c)).1))
    exact ⟨y, hy⟩

/-- What CTX_SETUP binds once its checks have passed: units, cores, root table, sync objects (R443). -/
def bindCtx (x : Fetched) (c : CtxId) (us : List Nat) (root : Nat) (es : List SyncEntry) : Act := fun _ _ d =>
  { dev := ((((d.hostWrite (rd x.entry 0x18 8) (d.unitList us)).withOwn
      (d.own.setOwners us (.context c (rdb x.entry 0x11 = 1)))).modCtx c (fun y => { y with
        cores := coresOf (rd x.entry 0x20 12), memMode := rdb x.entry 0x12, root := some root, given := y.given ++ us })).bindSync c
      es).finishAfterFill x (d.anyDirty us) hOk root 0
    mem := d.fillEffs us }

/-- What the binding leaves of the capture enables, and what it makes of the context. -/
theorem bindCtx_does (x : Fetched) (c : CtxId) (us : List Nat) (root : Nat) (es : List SyncEntry) (f : Fuses) (m : Mem) (d : Dev) :
    let e := (bindCtx x c us root es f m d).dev
    e.get MMC_TRACE.EN = d.get MMC_TRACE.EN ∧ (e.ctxAt c).cores = coresOf (rd x.entry 0x20 12) ∧ (e.ctxAt c).root = some root := by
  intro e
  let b := ((d.hostWrite (rd x.entry 0x18 8) (d.unitList us)).withOwn (d.own.setOwners us (.context c (rdb x.entry 0x11 = 1)))).modCtx c
    (fun y => { y with cores := coresOf (rd x.entry 0x20 12), memMode := rdb x.entry 0x12, root := some root, given := y.given ++ us })
  obtain ⟨y, hy⟩ := b.bindSync_rest c es
  have hreports : (b.bindSync c es).Reports e := Dev.Reports.finishAfterFill _ x _ _ _ _
  have hctx : (e.ctxAt c).uncounted = (b.ctxAt c).uncounted := by rw [hreports.ctx c, hy]; rfl
  have hb : b.ctxAt c = { d.ctxAt c with cores := coresOf (rd x.entry 0x20 12), memMode := rdb x.entry 0x12, root := some root,
                                         given := (d.ctxAt c).given ++ us } := Dev.modCtx_at _ _ _
  refine ⟨?_, ?_, ?_⟩
  · rw [hreports.regs _ _ (by decide) (by decide) (by decide), hy]
    rfl
  · exact (congrArg Ctx.cores hctx).trans (by rw [hb]; rfl)
  · exact (congrArg Ctx.root hctx).trans (by rw [hb]; rfl)

/-- A CTX_SETUP that passes its checks stops the captures on the dies of its cores and binds (R443, R531). -/
theorem ctxSetup_row {s : State} {h : HostCmd} {x : Fetched} {c : CtxId} {us : List Nat} (hs : s.dev.StartsSetup h x c us) :
    exec (.ctxSetup h) s = .next (s.run (fun f m _ => ((Act.each traceStop x.setupDies).andThen
      (bindCtx x.begin c us (s.dev.unitGlobal (us.headD 0) + rd x.entry 0x2C 4) (syncEntries (sub h.data 0 (16 * rd x.entry 0x38 2)))))
        f m (s.dev.begin x))) := by
  refine congrArg Host.Outcome.next (congrArg (fun r : Res =>
    { s with fuse := s.fuse.apply r.fuse, mem := s.mem.apply r.mem, dev := r.dev }) ((ctxRow_starts hs.toStartsOn _ _ _).trans ?_))
  have hfirst : ((s.dev.ctxAt c).root).isSome = false := by rw [hs.first]; rfl
  have hroot := hs.root
  have hfields : (7 < rdb x.begin.entry 0x10 || 1 < rdb x.begin.entry 0x11 || rd x.begin.entry 0x14 4 = 0
      || granule ≤ rd x.begin.entry 0x2C 4 || rd x.begin.entry 0x2C 4 % 4096 ≠ 0 || 4064 < rd x.begin.entry 0x38 2) = false := by
    simp only [Bool.or_eq_false_iff]
    exact ⟨⟨⟨⟨⟨decide_eq_false (Nat.not_lt.mpr hs.stack), decide_eq_false (Nat.not_lt.mpr hs.weight)⟩, decide_eq_false hs.some⟩,
      decide_eq_false (Nat.not_le.mpr hroot.1)⟩, decide_eq_false (not_not.mpr hroot.2)⟩, decide_eq_false (Nat.not_lt.mpr hs.objects)⟩
  have hcores : (s.dev.begin x).coreCheck c (coresOf (rd x.begin.entry 0x20 12)) (rdb x.begin.entry 0x12) = none := hs.cores
  have hunits : (s.dev.begin x).allocation c (rdb x.begin.entry 0x10) (rd x.begin.entry 0x14 4) = some us := hs.units
  have hsync : (s.dev.begin x).checkSync c (coresOf (rd x.begin.entry 0x20 12))
      (syncEntries (sub h.data 0 (16 * rd x.begin.entry 0x38 2))) (fun _ => 0) = none := hs.sync
  simp only [hfirst, hfields, hcores, hunits, hsync, Bool.false_eq_true, if_false]
  rfl

end Sys2Proof.Machine

namespace Sys2Proof.Proofs

open Sys2Proof.Machine Sys2Proof.Laws

theorem setupDies_nodup (x : Fetched) : x.setupDies.Nodup := List.nodup_range.filter _

theorem setupDies_lt (x : Fetched) : ∀ n ∈ x.setupDies, n < 8 := fun _ hn => List.mem_range.mp (List.mem_filter.mp hn).1

/-- Settles O6: captures stop, then everything is bound; where no capture runs, the first step does nothing. -/
theorem ctxSetupBinds : Obligations.CtxSetupBinds := by
  unfold Obligations.CtxSetupBinds
  refine ⟨fun h x c us s hs hu => ?_, fun h x c us s hs => ?_⟩
  · have hstop := each_traceStop_untraced s.fuse x.setupDies s.mem (s.dev.begin x) hu
    have hact := andThen_of_idle (b := bindCtx x.begin c us (s.dev.unitGlobal (us.headD 0) + rd x.entry 0x2C 4)
      (syncEntries (sub h.data 0 (16 * rd x.entry 0x38 2)))) hstop
    exact answers_of_act (ctxSetup_row hs) hact ⟨rfl, rfl, rfl, Dev.completesAfter_finish _ x _ _ _ _⟩
  · obtain ⟨hmem, ⟨r, hrest⟩, hbit, hfuse⟩ :=
      each_traceStop s.fuse x.setupDies s.mem (s.dev.begin x) (setupDies_nodup x) (setupDies_lt x)
    obtain ⟨htrace, hcores, hroot⟩ := bindCtx_does x.begin c us (s.dev.unitGlobal (us.headD 0) + rd x.entry 0x2C 4)
      (syncEntries (sub h.data 0 (16 * rd x.entry 0x38 2))) s.fuse (s.mem.apply (Act.each traceStop x.setupDies s.fuse s.mem
        (s.dev.begin x)).mem) (Act.each traceStop x.setupDies s.fuse s.mem (s.dev.begin x)).dev
    have hfill : (Act.each traceStop x.setupDies s.fuse s.mem (s.dev.begin x)).dev.fillEffs us = s.dev.fillEffs us := by
      rw [hrest]
      rfl
    have hkeep : s.fuse.apply (Act.each traceStop x.setupDies s.fuse s.mem (s.dev.begin x)).fuse = s.fuse := by rw [hfuse]; rfl
    refine answers_of_act (ctxSetup_row hs) rfl ⟨?_, rfl, fun n hn => ?_, ?_, ?_, ?_⟩
    · simp only [Act.andThen, hfuse]
      rfl
    · simp only [Act.andThen, hkeep, htrace, hbit n (setupDies_lt x n hn)]
      simp [hn]
    · simp only [Act.andThen, hmem, bindCtx, hfill]
      rfl
    · simp only [Act.andThen, hkeep]
      exact hcores
    · simp only [Act.andThen, hkeep]
      exact hroot

end Sys2Proof.Proofs
end

section
/-! COPY and HOST_COPY (R446, R447) and LOAD (R452, R456): each does its pieces in order on what the pieces before left, and owes
its completion. -/

namespace Sys2Proof.Machine

open Sys2Proof.Laws

/-! ### COPY and HOST_COPY -/

/-- What COPY does with its fields in order (R446): what moving the pieces left, counted, and the status of the piece that failed. -/
def Dev.copyRes (x : Fetched) (c : CtxId) (base : Nat) (poison : Option Nat) (r : Option (Nat × Nat) × Dev × List MemEff) : Res where
  dev := match r.1, poison with
    | some (st, a), _ => (r.2.1.counted c (a - base)).owe x st (failAddr st a) 0
    | none, some a => (r.2.1.counted c (rd x.entry 0x20 8)).owe x hPoison a 0
    | none, none => (r.2.1.counted c (rd x.entry 0x20 8)).owe x hOk 0 0
  mem := r.2.2

/-- Fields of a copy in order: its length in range, its direction known. -/
theorem copy_fields {len dir most : Nat} (h1 : 1 ≤ len) (h2 : len ≤ 2 ^ 40) (h3 : dir ≤ most) :
    (len = 0 || 2 ^ 40 < len || most < dir) = false := by
  simp only [Bool.or_eq_false_iff]
  exact ⟨⟨decide_eq_false (by omega), decide_eq_false (Nat.not_lt.mpr h2)⟩, decide_eq_false (Nat.not_lt.mpr h3)⟩

theorem copy_in_answers {s : State} {h : HostCmd} {x : Fetched} {c : CtxId} {r : Option (Nat × Nat) × Dev × List MemEff}
    {P : State → Prop} (hs : s.dev.StartsOn h 0x27 x c [.assigned, .running, .halted] [(0x10, 8), (0x18, 8), (0x20, 8), (0x28, 1)])
    (h1 : 1 ≤ rd x.entry 0x20 8) (h2 : rd x.entry 0x20 8 ≤ 2 ^ 40) (hdir : rdb x.entry 0x28 = 0)
    (hw : walkList (copyIn c h.data (rd x.entry 0x18 8)) (pieces (rd x.entry 0x18 8) (rd x.entry 0x20 8)) s.mem (s.dev.begin x) = r)
    (hP : P { s with mem := s.mem.apply r.2.2, dev := (Dev.copyRes x.begin c (rd x.entry 0x18 8) none r).dev }) :
    Answers (.copy h) s P := by
  have hfields := copy_fields (dir := 0) (most := 1) h1 h2 (by decide)
  refine answers_of_act (r := Dev.copyRes x.begin c (rd x.entry 0x18 8) none r) rfl ((ctxRow_starts hs _ _ _).trans ?_) hP
  have hbegin : x.begin.entry = x.entry := rfl
  simp only [hbegin, hfields, hdir, hw, Bool.false_eq_true, if_false, if_true]
  obtain ⟨e, d, es⟩ := r
  cases e with
  | none => rfl
  | some e => rfl

theorem copy_out_answers {s : State} {h : HostCmd} {x : Fetched} {c : CtxId} {r : Option (Nat × Nat) × Dev × List MemEff}
    {P : State → Prop} (hs : s.dev.StartsOn h 0x27 x c [.assigned, .running, .halted] [(0x10, 8), (0x18, 8), (0x20, 8), (0x28, 1)])
    (h1 : 1 ≤ rd x.entry 0x20 8) (h2 : rd x.entry 0x20 8 ≤ 2 ^ 40) (hdir : rdb x.entry 0x28 = 1)
    (hw : walkList (copyOut c (rd x.entry 0x18 8) (rd x.entry 0x10 8)) (pieces (rd x.entry 0x10 8) (rd x.entry 0x20 8)) s.mem
      (s.dev.begin x) = r)
    (hP : P { s with
      mem := s.mem.apply r.2.2
      dev := (Dev.copyRes x.begin c (rd x.entry 0x10 8) (s.dev.firstPoison s.mem c (rd x.entry 0x10 8) (rd x.entry 0x20 8)) r).dev }) :
    Answers (.copy h) s P := by
  have hfields := copy_fields (dir := 1) (most := 1) h1 h2 (by decide)
  have hpoison : (s.dev.begin x).firstPoison s.mem c = s.dev.firstPoison s.mem c := rfl
  refine answers_of_act (r := Dev.copyRes x.begin c (rd x.entry 0x10 8)
    (s.dev.firstPoison s.mem c (rd x.entry 0x10 8) (rd x.entry 0x20 8)) r) rfl ((ctxRow_starts hs _ _ _).trans ?_) hP
  have hbegin : x.begin.entry = x.entry := rfl
  have hnot : ¬ (1 : Nat) = 0 := by decide
  simp only [hbegin, hfields, hdir, hw, hnot, hpoison, Bool.false_eq_true, if_false]
  obtain ⟨e, d, es⟩ := r
  cases e with
  | none => cases s.dev.firstPoison s.mem c (rd x.entry 0x10 8) (rd x.entry 0x20 8) <;> rfl
  | some e => rfl

/-- What HOST_COPY owes (R437, R447): OK for what it writes, POISON with the first poisoned address that it reads. -/
theorem Dev.copyCode_owe (d e : Dev) (m : Mem) (x : Fetched) :
    (match ((pieces (rd x.entry 0x10 8) (rd x.entry 0x20 8)).find? (fun p => d.dpaPoison m p.1 p.2)).map (·.1) with
      | some a => e.owe x.begin hPoison a 0
      | none => e.owe x.begin hOk 0 0) = e.owe x.begin (d.copyCode m x).1 (d.copyCode m x).2 0 := by
  unfold Dev.copyCode
  cases (pieces (rd x.entry 0x10 8) (rd x.entry 0x20 8)).find? (fun p => d.dpaPoison m p.1 p.2) with
  | none => rfl
  | some p => rfl

/-- What HOST_COPY does by its direction, its fields in order and its ranges backed or not (R447). -/
def Dev.hostCopyRes (d : Dev) (m : Mem) (x : Fetched) (data : Bytes) : Res :=
  let src := rd x.entry 0x10 8
  let dst := rd x.entry 0x18 8
  let len := rd x.entry 0x20 8
  let dir := rdb x.entry 0x28
  if dir ≠ 1 ∧ d.dpaReady dst len = false ∨ dir ≠ 0 ∧ d.dpaReady src len = false then { dev := (d.begin x).finish x.begin hAccess 0 0 }
  else if dir = 0 then
    { dev := ((d.begin x).admCopy len).owe x.begin hOk 0 0, mem := d.dpaWrites dst len (fun o n => sub data o n) (fun _ _ => false) }
  else if dir = 1 then
    { dev := (((d.begin x).hostWrite dst (d.dpaRead m src len)).admCopy len).owe x.begin (d.copyCode m x).1 (d.copyCode m x).2 0 }
  else
    { dev := ((d.begin x).admCopy len).owe x.begin (d.copyCode m x).1 (d.copyCode m x).2 0
      mem := d.dpaWrites dst len (fun o n => d.dpaRead m (src + o) n) (fun o n => d.dpaPoison m (src + o) n) }

theorem hostCopy_answers {s : State} {h : HostCmd} {x : Fetched} {P : State → Prop} (hs : s.dev.Starts h 0x07 x)
    (hc : argsClean x.entry [(0x10, 8), (0x18, 8), (0x20, 8), (0x28, 1)] = true) (h1 : 1 ≤ rd x.entry 0x20 8)
    (h2 : rd x.entry 0x20 8 ≤ 2 ^ 40) (h3 : rdb x.entry 0x28 ≤ 2)
    (hP : P { s with mem := s.mem.apply (s.dev.hostCopyRes s.mem x h.data).mem, dev := (s.dev.hostCopyRes s.mem x h.data).dev }) :
    Answers (.hostCopy h) s P := by
  refine answers_of_act (r := s.dev.hostCopyRes s.mem x h.data) rfl ((hostRow_starts hs _ _ _).trans ?_) ?_
  · have hfields := copy_fields (most := 2) h1 h2 h3
    have hbegin : x.begin.entry = x.entry := rfl
    have hready : (s.dev.begin x).dpaReady = s.dev.dpaReady := rfl
    have hpoison : (s.dev.begin x).dpaPoison = s.dev.dpaPoison := rfl
    simp only [hbegin, hc, Bool.not_true, Bool.false_or, hfields, Bool.false_eq_true, if_false, hready, hpoison,
      Bool.or_eq_true, Bool.and_eq_true, decide_eq_true_eq, Bool.not_eq_true']
    simp only [Dev.hostCopyRes]
    refine if_congr Iff.rfl rfl ?_
    split
    · cases ((pieces (rd x.entry 0x10 8) (rd x.entry 0x20 8)).find? (fun p => s.dev.dpaPoison s.mem p.1 p.2)).map (·.1) <;> rfl
    · split
      · exact congrArg (fun e => ({ dev := e } : Res)) (Dev.copyCode_owe s.dev _ s.mem x)
      · exact congrArg (fun e => ({ dev := e, mem := _ } : Res)) (Dev.copyCode_owe s.dev _ s.mem x)
  · have hfuse : (s.dev.hostCopyRes s.mem x h.data).fuse = [] := by
      simp only [Dev.hostCopyRes]
      repeat' split
      all_goals rfl
    rw [hfuse]
    exact hP

/-! ### LOAD -/

/-- What LOAD does with a container that passes every check, by how the copying of its segments ends (R455, R456). -/
def Dev.loadRes (x : Fetched) (c : CtxId) (b : Bytes) (r : Option (Nat × Nat × Nat) × Dev × List MemEff) : Res where
  dev := match r.1 with
    | some (st, a, o) => (r.2.1.modCtx c (fun y => { y with loaded := none })).owe x st a o
    | none => ((((r.2.1.dropRingObjs c).reserveRings c (parseContainer b)).bindSync c
        ((secEntries b 4).map (fun e => ⟨e⟩))).modCtx c (fun y => { y with loaded := some (parseContainer b) })).owe x hOk 0 0
  mem := r.2.2

theorem load_answers {s : State} {h : HostCmd} {x : Fetched} {c : CtxId} {b : Bytes} {r : Option (Nat × Nat × Nat) × Dev × List MemEff}
    {P : State → Prop} (hs : s.dev.StartsLoad h x c) (hb : b = sub h.data 0 (rd x.entry 0x18 8))
    (hl : s.dev.Loadable c b (rd x.entry 0x18 8))
    (hw : walkList (copySegment c b) (List.range (secCount b 5)) s.mem (s.dev.begin x) = r)
    (hP : P { s with mem := s.mem.apply r.2.2, dev := (Dev.loadRes x.begin c b r).dev }) : Answers (.load h) s P := by
  refine answers_of_act (r := Dev.loadRes x.begin c b r) rfl ((ctxRow_starts hs.toStartsOn _ _ _).trans ?_) hP
  have hbegin : x.begin.entry = x.entry := rfl
  obtain ⟨hstarted, hstartAt⟩ := hs.fresh
  have hstate : ((s.dev.ctxAt c).root.isNone || (s.dev.ctxAt c).started || (s.dev.ctxAt c).startAt.isSome
      || decide ((s.dev.begin x).mmc.state = .alarm)) = false := by
    have hroot : (s.dev.ctxAt c).root.isNone = false := by rw [← Option.not_isSome, hs.setUp]; rfl
    have hcalm : decide ((s.dev.begin x).mmc.state = .alarm) = false := decide_eq_false hs.calm
    rw [hroot, hstarted, hstartAt, hcalm]
    rfl
  have hsize : ¬ rd x.entry 0x18 8 < 160 := Nat.not_lt.mpr hl.size
  have hmode : (decide ((parseContainer b).memMode ≠ (s.dev.ctxAt c).memMode)
      || (parseContainer b).det
        && decide (field (parseContainer b).memMode 2 2 = 0)) = false := by
    rw [Bool.or_eq_false_iff, Bool.and_eq_false_iff]
    refine ⟨decide_eq_false (not_not.mpr hl.mode), ?_⟩
    cases hdet : (parseContainer b).det with
    | false => exact .inl rfl
    | true => exact .inr (decide_eq_false (hl.det hdet))
  have hrings : (s.dev.begin x).badRing (s.dev.ctxAt c) (parseContainer b) = none := hl.rings
  have hcores : (s.dev.begin x).badCore c (parseContainer b) = none := hl.cores
  have hsync : ((s.dev.begin x).dropRingObjs c).checkSync c (s.dev.ctxAt c).cores
      ((secEntries b 4).map (fun e => ⟨e⟩))
      (ringObjects (parseContainer b)) = none := hl.sync
  simp only [hbegin, ← hb, hstate, hsize, hl.header, hl.entries, hmode, hrings, hcores, hsync, hw, Option.orElse_none, Bool.false_eq_true,
    if_false]
  obtain ⟨e, d, es⟩ := r
  cases e with
  | none => rfl
  | some e => rfl

end Sys2Proof.Machine

namespace Sys2Proof.Proofs

open Sys2Proof.Machine Sys2Proof.Laws

/-- Settles O7: COPY by its direction and by how its walk over the pieces ends, HOST_COPY by its direction and what backs its
ranges. -/
theorem copies : Obligations.Copies := by
  unfold Obligations.Copies
  refine ⟨⟨fun h x c e d es s hs h1 h2 hdir hw => ?_, fun h x c e d es s hs h1 h2 hdir hw => ?_⟩,
    fun h x s hs hc h1 h2 => ⟨fun hdir hready => ?_, fun hdir hready => ?_, fun hdir hsrc hdst => ?_, fun h3 hbad => ?_⟩⟩
  · refine copy_in_answers hs h1 h2 hdir hw ⟨rfl, rfl, rfl, ?_⟩
    cases e with
    | none => rfl
    | some e => rfl
  · refine copy_out_answers hs h1 h2 hdir hw ⟨rfl, rfl, rfl, ?_⟩
    cases e with
    | none => rfl
    | some e => rfl
  · refine hostCopy_answers hs hc h1 h2 (by rw [hdir]; decide) ?_
    simp [Dev.hostCopyRes, hdir, hready, hOk]
  · refine hostCopy_answers hs hc h1 h2 (by rw [hdir]; decide) ?_
    simp [Dev.hostCopyRes, hdir, hready, State.onlyDev, Mem.apply]
  · refine hostCopy_answers hs hc h1 h2 (by rw [hdir]) ?_
    simp [Dev.hostCopyRes, hdir, hsrc, hdst]
  · refine hostCopy_answers hs hc h1 h2 h3 ?_
    rw [Dev.hostCopyRes, if_pos hbad]
    exact ⟨⟨rfl, rfl, rfl⟩, Dev.completes_finish _ x _ _ _⟩

/-- Settles O8: a container that passes every check, by how the copying of its segments ends. -/
theorem loadBindsProgram : Obligations.LoadBindsProgram := by
  unfold Obligations.LoadBindsProgram
  intro h x c s b e d es hs hb hl hw
  refine load_answers hs hb hl hw ⟨rfl, rfl, rfl, ?_⟩
  cases e with
  | none => rfl
  | some e => rfl

end Sys2Proof.Proofs
end

section
/-! START (R42, R152, R444) and the imports of weights (R457 to R459). -/

namespace Sys2Proof.Machine

open Sys2Proof.Laws

/-! ### START -/

/-- What START does with a program that passes its checks (R444), once it is set up. -/
def Dev.startRes (x : Fetched) (c : CtxId) (p : Container) (r : Dev × List MemEff) : Res where
  dev := if p.beatLocked then (r.1.modCtx c (fun y => { y with startAt := some (rd x.entry 0x10 8) })).settleModule
    else (((r.1.modCtx c (fun y => { y with state := .running })).startThreads c (rd x.entry 0x18 4) r.1.time.beat).finish
      x hOk 0 0).settleModule
  mem := r.2

theorem start_answers {s : State} {h : HostCmd} {x : Fetched} {c : CtxId} {p : Container} {r : Dev × List MemEff} {P : State → Prop}
    (hs : s.dev.StartsRun h x c p)
    (hr : (s.dev.begin x).prepare c p (if p.beatLocked then rd x.entry 0x10 8 else s.dev.time.beat) (rd x.entry 0x18 4)
      (rd x.entry 0x20 8) = r)
    (hP : P { s with mem := s.mem.apply r.2, dev := (Dev.startRes x.begin c p r).dev }) : Answers (.start h) s P := by
  refine answers_of_act (r := Dev.startRes x.begin c p r) rfl ((ctxRow_starts hs.toStartsOn _ _ _).trans ?_) hP
  have hbegin : x.begin.entry = x.entry := rfl
  have hstate : ((s.dev.ctxAt c).startAt.isSome || decide ((s.dev.begin x).mmc.state = .alarm)) = false := by
    have hcalm : decide ((s.dev.begin x).mmc.state = .alarm) = false := decide_eq_false hs.calm
    rw [hs.idle, hcalm]
    rfl
  have hcheck : (s.dev.begin x).startCheck c p (rd x.entry 0x10 8) (rd x.entry 0x18 4) h.now.toNat = none := hs.checks
  have htime : (s.dev.begin x).time.beat = s.dev.time.beat := rfl
  simp only [hbegin, hs.loaded, hstate, hcheck, htime, hr, Bool.false_eq_true, if_false]
  cases hl : p.beatLocked with
  | true => simp only [Dev.startRes, hl, if_true, hbegin]
  | false => simp only [Dev.startRes, hl, Bool.false_eq_true, if_false, hbegin]; rfl

/-- A context whose threads have begun stands in RUNNING once its command has completed. -/
theorem Dev.started_state (d : Dev) (c : CtxId) (x : Fetched) (rel beat code r0 r1 : Nat) :
    ((((((d.modCtx c (fun y => { y with state := .running })).startThreads c rel beat).finish x code r0 r1).settleModule).ctxAt c).state)
      = .running := by
  rw [Dev.settleModule_ctxAt]
  refine (uncounted_state (Dev.finish_ctxAt _ x code r0 r1 c)).trans ?_
  rw [Dev.ctxAt, Dev.startThreads_ctx]
  exact congrArg Ctx.state (Dev.modCtx_at d c _)

/-! ### IMPORT -/

theorem deviceUnits_of_memory {dev : Nat} (h : dev = 0xFF ∨ dev < 8 ∨ 0x10 ≤ dev ∧ dev < 0x20) :
    (dev ≠ 0xFF && ((deviceUnits dev).isNone || 0x20 ≤ dev)) = false := by
  rcases h with h | h | ⟨h1, h2⟩
  · simp [h]
  · simp [deviceUnits, h]; omega
  · simp [deviceUnits, h1, h2, show ¬ dev < 8 by omega]

/-- What an IMPORT with legal fields and a key does, by its destination and by the units that it finds (R457, R459). -/
def Dev.importRes (d : Dev) (x : Fetched) (c : CtxId) : Option Nat → Option (List Nat) → Res
  | some i, some us =>
    { dev := ((((d.begin x).hostWrite (rd x.entry 0x20 8) (us.flatMap (fun u => leBytes 8 (d.unitGlobal u)))).withOwn
        { (d.own.setOwners us (.image i)) with
          images := tblSet none (d.own.setOwners us (.image i)).images i (some (us, [c])) }).putSlot (65 + i) true).modCtx c
        (fun y => { y with imports := y.imports ++ [d.importRun c x (some i)] })
      mem := d.fillEffs us }
  | _, _ => { dev := (d.begin x).finish x.begin hNoMem 0 0 }

/-- The checks that an IMPORT passes (R457, R459, R480, R500). -/
theorem import_passes {d : Dev} {h : HostCmd} {x : Fetched} {c : CtxId} {dst : Nat} (hs : d.StartsImport h x c dst)
    (hdst : dst = 0 ∨ dst = 1 ∧ (rdb x.entry 0x30 = 0xFF ∨ rdb x.entry 0x30 < 8 ∨ 0x10 ≤ rdb x.entry 0x30 ∧ rdb x.entry 0x30 < 0x20)) :
    (2 < rdb x.entry 0x10 || 1 < rdb x.entry 0x11 || 15 < rdb x.entry 0x12 || rd x.entry 0x14 4 = 0
      || (rdb x.entry 0x11 = 1 && rdb x.entry 0x30 ≠ 0xFF && ((deviceUnits (rdb x.entry 0x30)).isNone || 0x20 ≤ rdb x.entry 0x30)))
        = false
    ∧ (rdb x.entry 0x10 = 2 && !d.importQueue c (rdb x.entry 0x13)) = false := by
  have hdest := hs.dest
  refine ⟨?_, ?_⟩
  · simp only [Bool.or_eq_false_iff]
    refine ⟨⟨⟨⟨decide_eq_false (Nat.not_lt.mpr hs.source), decide_eq_false (by omega)⟩, decide_eq_false (Nat.not_lt.mpr hs.handle)⟩,
      decide_eq_false hs.records⟩, ?_⟩
    rcases hdst with h0 | ⟨-, hdev⟩
    · simp [hdest, h0]
    · rw [Bool.and_assoc, deviceUnits_of_memory hdev, Bool.and_false]
  · rw [Bool.and_eq_false_iff]
    by_cases hq : rdb x.entry 0x10 = 2
    · exact .inr (by rw [hs.queue hq]; rfl)
    · exact .inl (decide_eq_false hq)

theorem import_image_answers {s : State} {h : HostCmd} {x : Fetched} {c : CtxId} {i : Option Nat} {us : Option (List Nat)} {r : Res}
    {P : State → Prop} (hs : s.dev.StartsImport h x c 1)
    (hdev : rdb x.entry 0x30 = 0xFF ∨ rdb x.entry 0x30 < 8 ∨ 0x10 ≤ rdb x.entry 0x30 ∧ rdb x.entry 0x30 < 0x20)
    (hi : s.dev.freeImage = i) (hus : s.dev.imageUnits (rdb x.entry 0x30) (ceilDiv (rd x.entry 0x28 8) granule) = us)
    (hr : s.dev.importRes x c i us = r)
    (hP : P { s with fuse := s.fuse.apply r.fuse, mem := s.mem.apply r.mem, dev := r.dev }) : Answers (.importStream h) s P := by
  refine answers_of_act rfl ((ctxRow_starts hs.toStartsOn _ _ _).trans (Eq.trans ?_ hr)) hP
  obtain ⟨hfields, hqueue⟩ := import_passes hs (.inr ⟨rfl, hdev⟩)
  have hbegin : x.begin.entry = x.entry := rfl
  have hcalm : ¬ (s.dev.begin x).mmc.state = .alarm := hs.calm
  have hkey : ¬ tblGet [] ((s.dev.begin x).keysAt c).model (rdb x.entry 0x12) = [] := hs.key
  have hqueue' : (decide (rdb x.entry 0x10 = 2) && !(s.dev.begin x).importQueue c (rdb x.entry 0x13)) = false := hqueue
  have hdst : ¬ rdb x.entry 0x11 = 0 := by rw [hs.dest]; decide
  have hi' : (s.dev.begin x).freeImage = i := hi
  have hus' : (s.dev.begin x).imageUnits (rdb x.entry 0x30) (ceilDiv (rd x.entry 0x28 8) granule) = us := hus
  simp only [hbegin, hcalm, hfields, hkey, hqueue', hdst, hi', hus', Bool.false_eq_true, if_false]
  cases i with
  | none => rfl
  | some i =>
    cases us with
    | none => rfl
    | some us => rfl

theorem import_context_answers {s : State} {h : HostCmd} {x : Fetched} {c : CtxId} {P : State → Prop} (hs : s.dev.StartsImport h x c 0)
    (hP : P (s.withDev ((s.dev.begin x).modCtx c (fun y => { y with imports := y.imports ++ [s.dev.importRun c x none] })))) :
    Answers (.importStream h) s P := by
  refine answers_of_dev rfl ((ctxRow_starts hs.toStartsOn _ _ _).trans ?_) hP
  obtain ⟨hfields, hqueue⟩ := import_passes hs (.inl rfl)
  have hbegin : x.begin.entry = x.entry := rfl
  have hcalm : ¬ (s.dev.begin x).mmc.state = .alarm := hs.calm
  have hkey : ¬ tblGet [] ((s.dev.begin x).keysAt c).model (rdb x.entry 0x12) = [] := hs.key
  have hqueue' : (decide (rdb x.entry 0x10 = 2) && !(s.dev.begin x).importQueue c (rdb x.entry 0x13)) = false := hqueue
  simp only [hbegin, hcalm, hfields, hkey, hqueue', Bool.false_eq_true, if_false, if_pos hs.dest]
  rfl

/-! ### IMPORT_RECORD -/

/-- What IMPORT_RECORD does with the record that stands ready, by whether it opens and by how writing it ends (R458). -/
def Dev.recordRes (d : Dev) (m : Mem) (c : CtxId) (r : ImportRun) (rec : Bytes) : Option Bytes → Res
  | none => { dev := d.importEnd c r hAuth 0 r.next
              mem := d.importRefill m c r (Nat.min (rd rec 8 4) (rd r.entry 0x28 8 - r.offset)) }
  | some plain =>
    let w := walkList (importWrite c r plain) (importPieces r (rd rec 8 4)) m d
    { dev := match w.1 with
        | some (code, a) => w.2.1.importEnd c r code (failAddr code a) r.next
        | none => if r.next + 1 < rd r.entry 0x14 4 then w.2.1.importOn c r (rd rec 8 4)
            else (w.2.1.importOn c r (rd rec 8 4)).importEnd c (r.after (rd rec 8 4))
              (if r.offset + rd rec 8 4 = rd r.entry 0x28 8 then hOk else hBadField) 0 0
      mem := w.2.2 }

theorem importRecord_answers {s : State} {c : CtxId} {given rec : Bytes} {r : ImportRun} {plain : Option Bytes} {q : Res}
    {P : State → Prop} (hn : s.dev.ImportNext s.mem c given r rec) (hp : importPlain r rec = plain)
    (hq : s.dev.recordRes s.mem c r rec plain = q)
    (hP : P { s with fuse := s.fuse.apply q.fuse, mem := s.mem.apply q.mem, dev := q.dev }) : Answers (.importRecord c given) s P := by
  refine answers_of_act rfl (Eq.trans ?_ hq) hP
  obtain ⟨rest, himports⟩ : ∃ rest, (s.dev.ctxAt c).imports = r :: rest := by
    have hold := hn.oldest
    cases hl : (s.dev.ctxAt c).imports with
    | nil => simp [hl] at hold
    | cons a rest => exact ⟨rest, by simp [hl] at hold; rw [hold]⟩
  have hopen : (if recordOk r rec then
      Config.gcmOpen r.key (sub rec 0x0C 12) (sub rec 0 32) (sub rec 32 (rd rec 8 4)) (sub rec (32 + rd rec 8 4) 16) else none) = plain := hp
  simp only [himports, hn.record, hopen]
  cases plain with
  | none => rfl
  | some plain =>
    simp only [Dev.recordRes]
    generalize walkList (importWrite c r plain) (importPieces r (rd rec 8 4)) s.mem s.dev = w
    obtain ⟨e, d, es⟩ := w
    cases e with
    | some e => rfl
    | none =>
      simp only [Dev.importOn, ImportRun.after]
      split <;> rfl

end Sys2Proof.Machine

namespace Sys2Proof.Proofs

open Sys2Proof.Machine Sys2Proof.Laws

/-- Settles O9: a START that passes its checks, by whether its program is beat-locked. -/
theorem startRuns : Obligations.StartRuns := by
  unfold Obligations.StartRuns
  refine ⟨fun h x c p d es s hs hl hp => ?_, fun h x c p d es s hs hl hp => ?_⟩
  · have hfree : ¬ p.beatLocked = true := by rw [hl]; decide
    have hdev : (Dev.startRes x.begin c p (d, es)).dev = (((d.modCtx c (fun y => { y with state := .running })).startThreads c
        (rd x.entry 0x18 4) d.time.beat).finish x.begin 0 0 0).settleModule := if_neg hfree
    refine start_answers hs (by rw [if_neg hfree]; exact hp) ⟨rfl, rfl, rfl, ?_, hdev⟩
    exact hdev ▸ Dev.started_state d c x.begin _ _ _ _ _
  · have hdev : (Dev.startRes x.begin c p (d, es)).dev
        = (d.modCtx c (fun y => { y with startAt := some (rd x.entry 0x10 8) })).settleModule := if_pos hl
    refine start_answers hs (by rw [if_pos hl]; exact hp) ⟨rfl, rfl, rfl, ?_, hdev⟩
    simp only [hdev, Dev.settleModule_ctxAt, Dev.modCtx_at]

/-- Settles O10: IMPORT by its destination and by the units that it finds, IMPORT_RECORD by whether its record opens. -/
theorem imports : Obligations.Imports := by
  unfold Obligations.Imports
  refine ⟨⟨fun h x c s hs => import_context_answers hs ⟨⟨rfl, rfl, rfl⟩, rfl⟩, fun h x c i us s hs hdev hi hus =>
    import_image_answers hs hdev hi hus rfl ⟨rfl, rfl, rfl, rfl⟩, fun h x c s hs hdev hnone => ?_⟩,
    fun c given rec plain r e d es s hn hp hw => ?_, fun c given rec r s hn hp => importRecord_answers hn hp rfl ⟨rfl, rfl, rfl, rfl⟩⟩
  · have hres : s.dev.importRes x c s.dev.freeImage (s.dev.imageUnits (rdb x.entry 0x30) (ceilDiv (rd x.entry 0x28 8) granule))
        = { dev := (s.dev.begin x).finish x.begin hNoMem 0 0 } := by
      rcases hnone with hnone | hnone
      · rw [hnone]; rfl
      · rw [hnone]; cases s.dev.freeImage <;> rfl
    exact import_image_answers hs hdev rfl rfl hres ⟨⟨rfl, rfl, rfl⟩, Dev.completes_finish _ x _ _ _⟩
  · refine importRecord_answers hn hp rfl ⟨?_, rfl, rfl, ?_⟩
    · simp only [Dev.recordRes, hw]
    · simp only [Dev.recordRes, hw]
      cases e with
      | none => rfl
      | some e => rfl

end Sys2Proof.Proofs
end

section
/-! The host's rings (R429 to R436, R462): fetching, completing, doorbells and the writes of their registers. -/

namespace Sys2Proof.Machine

open Sys2Proof.Laws

/-- A command that changes the device alone, to `d`. -/
theorem answers_withDev {i : Instr} {s : State} {a : Act} {d : Dev} (he : exec i s = .next (s.run a))
    (ha : a s.fuse s.mem s.dev = { dev := d }) : Answers i s (fun t => s.onlyDev t ∧ t.dev = d) :=
  answers_of_dev he ha ⟨⟨rfl, rfl, rfl⟩, rfl⟩

/-- A command that leaves the device as it is leaves the state. -/
theorem answers_same {i : Instr} {s : State} {a : Act} (he : exec i s = .next (s.run a))
    (ha : a s.fuse s.mem s.dev = { dev := s.dev }) : Answers i s (fun t => t = s) :=
  answers_of_dev he ha rfl

/-! ### Registers of rings -/

/-- SIZE and BASE of a ring lie in the register of its EN. -/
theorem ringFields_reg (r : RingSel) : (ringFields r).2.1.reg = (ringFields r).1.reg ∧ (ringFields r).2.2.1.reg = (ringFields r).1.reg := by
  cases r with
  | sub q => cases q <;> exact ⟨rfl, rfl⟩
  | comp q => cases q <;> exact ⟨rfl, rfl⟩

/-- A ring that stays as it was, or whose BASE and SIZE a write would change while it is enabled (R430). -/
theorem Dev.ringCfgWrite_of_on {d : Dev} {r : RingSel} {w : RegWr} (hon : d.ringOn r = true) : d.ringCfgWrite r w =
    if (d.ringWritten r w).ringSize r ≠ d.ringSize r ∨ (d.ringWritten r w).ringBase r ≠ d.ringBase r then
      (((d.ringWritten r w).put (ringFields r).2.1 (d.ringSize r) (ringFields r).2.2.2.1).put (ringFields r).2.2.1
        (d.ringBase r) (ringFields r).2.2.2.1).rejectAt (ringFields r).1.reg (ringFields r).2.2.2.1
    else d.ringWritten r w := by
  have hon' : d.flag (ringFields r).1 (ringFields r).2.2.2.1 = true := hon
  obtain ⟨hsize, hbase⟩ := ringFields_reg r
  simp only [Dev.ringCfgWrite, hon', Bool.true_and, Bool.not_true, Bool.false_and, Bool.false_eq_true, if_false, Bool.or_eq_true,
    decide_eq_true_eq]
  simp only [Dev.ringSize, Dev.ringBase, Dev.get, hsize, hbase]
  rfl

/-- A ring that is off and becomes enabled (R430). -/
theorem Dev.ringCfgWrite_of_rising {d : Dev} {r : RingSel} {w : RegWr} (hoff : d.ringOn r = false)
    (hon : (d.ringWritten r w).ringOn r = true) : d.ringCfgWrite r w =
    if (ringFields r).2.2.2.2 ≤ (d.ringWritten r w).ringSize r ∧ (d.ringWritten r w).ringSize r ≤ 16 then
      (d.ringWritten r w).ringStart r
    else match selCtx r with
      | some c => ((d.ringWritten r w).put (ringFields r).1 0 (ringFields r).2.2.2.1).put HOST_CTX_STAT.CFG_ERR 1 c.val
      | none => (d.ringWritten r w).put (ringFields r).1 0 (ringFields r).2.2.2.1 := by
  have hoff' : d.flag (ringFields r).1 (ringFields r).2.2.2.1 = false := hoff
  have hon' : (d.writeFields (ringFields r).1.reg (ringFields r).2.2.2.1 false w).flag (ringFields r).1 (ringFields r).2.2.2.1 = true := hon
  simp only [Dev.ringCfgWrite, hoff', hon', Bool.false_and, Bool.not_false, Bool.true_and, Bool.false_eq_true, if_false, if_true,
    Bool.and_eq_true, decide_eq_true_eq]
  rfl

/-- A ring that is off and stays off (R430). -/
theorem Dev.ringCfgWrite_of_off {d : Dev} {r : RingSel} {w : RegWr} (hoff : d.ringOn r = false)
    (hstays : (d.ringWritten r w).ringOn r = false) : d.ringCfgWrite r w = d.ringWritten r w := by
  have hoff' : d.flag (ringFields r).1 (ringFields r).2.2.2.1 = false := hoff
  have hstays' : (d.writeFields (ringFields r).1.reg (ringFields r).2.2.2.1 false w).flag (ringFields r).1 (ringFields r).2.2.2.1 = false :=
    hstays
  simp only [Dev.ringCfgWrite, hoff', hstays', Bool.false_and, Bool.and_false, Bool.false_eq_true, if_false]
  rfl

/-- The function that may write a ring's register writes it (R429). -/
theorem Dev.ringWrite_of_reaches {d : Dev} {fn : FnId} {r : RingSel} (h : d.reaches fn r) (w : RegWr) : d.ringWrite fn r w = d.ringCfgWrite r w := by
  obtain ⟨hup, howner⟩ := h
  simp only [Dev.ringWrite, hup, Bool.not_true, Bool.false_eq_true, if_false]
  cases hc : selCtx r with
  | none => rw [hc] at howner; exact if_pos howner
  | some c => rw [hc] at howner; exact if_pos howner

/-- Another function's write to a ring's register counts and does nothing else (R429). -/
theorem Dev.ringWrite_of_foreign {d : Dev} {fn : FnId} {r : RingSel} {c : CtxId} (hup : d.hostUp = true) (hc : selCtx r = some c)
    (hno : d.owns fn c = false) (w : RegWr) : d.ringWrite fn r w = d.reject 9 ((ringFields r).1.reg.place (ringFields r).2.2.2.1).2 := by
  simp only [Dev.ringWrite, hup, hc, hno, Bool.not_true, Bool.false_eq_true, if_false]
  rfl

end Sys2Proof.Machine

namespace Sys2Proof.Proofs

open Sys2Proof.Machine Sys2Proof.Laws

/-- Settles O11: a fetch by whether the link carried its read, a completion by whether a command owes one. -/
theorem fetchAndComplete : Obligations.FetchAndComplete := by
  unfold Obligations.FetchAndComplete
  refine ⟨fun entry r s hup hr => ?_, fun entry r s hup hr => ?_, fun c tag f code r0 r1 s hf ho => ?_, fun c tag s hf => ?_⟩
  · refine answers_withDev rfl ?_
    simp only [Act.dev, hup, hr, Bool.not_true, Bool.false_eq_true, if_false, if_true]
    rfl
  · refine answers_withDev rfl ?_
    simp only [Act.dev, hup, hr, Bool.not_true, Bool.false_eq_true, if_false]
    cases r <;> rfl
  · refine answers_withDev rfl ?_
    simp only [Act.dev, hf, ho]
  · refine answers_same rfl ?_
    simp only [Act.dev, hf]

/-- Settles O12: each doorbell by whether its function owns the ring's context and whether its value is in the ring's room. -/
theorem doorbellsMoveRings : Obligations.DoorbellsMoveRings := by
  unfold Obligations.DoorbellsMoveRings
  refine ⟨fun fn c i v s hup howns => ?_, fun fn c v s hup howns => ?_, fun fn c i v s hup hno => ⟨?_, ?_⟩, fun fn v s hfn => ⟨?_, ?_⟩⟩
  · refine answers_withDev rfl ?_
    simp only [Act.dev, Dev.sqBell, hup, howns, Bool.not_true, Bool.false_eq_true, if_false, if_true, Dev.sqTail, Bool.and_eq_true,
      decide_eq_true_eq, and_assoc]
  · refine answers_withDev rfl ?_
    simp only [Act.dev, Dev.cqBell, hup, howns, Bool.not_true, Bool.false_eq_true, if_false, if_true, Dev.cqHead, Bool.and_eq_true,
      decide_eq_true_eq, and_assoc]
  · refine answers_withDev rfl ?_
    simp only [Act.dev, Dev.sqBell, hup, hno, Bool.not_true, Bool.false_eq_true, if_false]
    rfl
  · refine answers_withDev rfl ?_
    simp only [Act.dev, Dev.cqBell, hup, hno, Bool.not_true, Bool.false_eq_true, if_false]
    rfl
  · refine answers_same rfl ?_
    simp only [Act.dev, Dev.sqBell, hfn, if_false, ite_self]
  · refine answers_same rfl ?_
    simp only [Act.dev, Dev.cqBell, hfn, if_false, ite_self]

/-- Settles O13: a write of a ring's register by who makes it, whether the ring is enabled, and whether it becomes so. -/
theorem ringRegisterWrites : Obligations.RingRegisterWrites := by
  unfold Obligations.RingRegisterWrites
  refine ⟨fun fn r w s hr hoff hon => ?_, fun fn r w s hr hstays hkeep => ?_, fun fn r w s hr hon hchange => ?_,
    fun fn r c w s hup hc hno => ⟨?_, ?_⟩⟩
  · refine answers_withDev rfl ?_
    rw [Act.dev, Dev.ringWrite_of_reaches hr, Dev.ringCfgWrite_of_rising hoff hon]
    cases r <;> rfl
  · refine answers_withDev rfl ?_
    rw [Act.dev, Dev.ringWrite_of_reaches hr]
    cases hon : s.dev.ringOn r with
    | true =>
      obtain ⟨hsize, hbase⟩ := hkeep hon
      rw [Dev.ringCfgWrite_of_on hon, if_neg (by simp [hsize, hbase])]
    | false => rw [Dev.ringCfgWrite_of_off hon hstays]
  · refine answers_withDev rfl ?_
    rw [Act.dev, Dev.ringWrite_of_reaches hr, Dev.ringCfgWrite_of_on hon, if_pos hchange]
  · exact answers_withDev rfl (by rw [Act.dev, Dev.ringWrite_of_foreign hup hc hno])
  · exact answers_withDev rfl (by rw [Act.dev, Dev.ringWrite_of_foreign hup hc hno])

end Sys2Proof.Proofs
end

section
/-! Functions of the host link (R425, R426, R460) and CXL.mem (R427, R447, R500). -/

namespace Sys2Proof.Machine

open Sys2Proof.Laws

/-! ### Registers that return to their reset values -/

theorem regKey_div {r : RegName} {i : Nat} (h : i < 1024) : regKey r i / 1024 = r.ctorIdx := by
  unfold regKey
  omega

theorem reg_resetRegs_of {d : Dev} {rs : List RegName} {r : RegName} {i : Nat} (hr : r ∈ rs) (hi : i < 1024) :
    (d.resetRegs rs).reg r i = (BitVec.ofNat 64 r.reset).toNat := by
  have hdropped : rs.any (fun q => q.ctorIdx = regKey r i / 1024) = true :=
    List.any_eq_true.mpr ⟨r, hr, by rw [regKey_div hi]; exact decide_eq_true rfl⟩
  exact congrArg BitVec.toNat (tblGet_drop_of (p := fun k => rs.any (fun q => q.ctorIdx = k / 1024)) hdropped)

/-- An action, then a change of the device. -/
theorem andThen_dev (a : Act) (g : Dev → Dev) (f : Fuses) (m : Mem) (d : Dev) : ((a.andThen (Act.dev g)) f m d).dev = g (a f m d).dev := rfl

/-! ### Functions that end -/

theorem mem_ctxsOf {d : Dev} {fn : FnId} {c : CtxId} : c ∈ d.ctxsOf fn ↔ (d.ctxAt c).state ≠ .free ∧ (d.ctxAt c).owner = fn := by
  simp [Dev.ctxsOf, allCtx]

/-- Ending sessions leaves the contexts and the host interface. -/
theorem Dev.SameHost.endSessions (d : Dev) (p : FnId → Bool) : d.SameHost (d.endSessions p) := ⟨rfl, rfl⟩

theorem uncounted_owner {a b : Ctx} (h : a.uncounted = b.uncounted) : a.owner = b.owner :=
  (congrArg Ctx.owner h : a.uncounted.owner = b.uncounted.owner)

/-- A VF that is gone has its contexts killed; the others stay, and the VFs (R426). -/
theorem vfGone_does (fn : FnId) (f : Fuses) (m : Mem) (d : Dev) :
    d.KillsOnly (vfGone fn f m d).dev (fun c => (d.ctxAt c).owner = fn)
    ∧ (vfGone fn f m d).dev.host.numVfs = d.host.numVfs ∧ (vfGone fn f m d).fuse = [] := by
  obtain ⟨hstate, hrest, hvfs, -⟩ := killAll_does fn.val (d.ctxsOf fn) f m d
  have hdev : (vfGone fn f m d).dev = (killAll (d.ctxsOf fn) fn.val f m d).dev.endSessions (fun g => g = fn) := rfl
  have hat : ∀ c, (vfGone fn f m d).dev.ctxAt c = (killAll (d.ctxsOf fn) fn.val f m d).dev.ctxAt c := fun c => by
    rw [hdev, Dev.ctxAt, (Dev.SameHost.endSessions _ _).1]
    rfl
  refine ⟨⟨fun c hc hlive => ?_, fun c hc => ?_⟩, by rw [hdev, (Dev.SameHost.endSessions _ _).2]; exact hvfs,
    Act.SparesFuses.vfGone fn f m d⟩
  · rw [hat]
    exact (hstate c).trans (if_pos ⟨mem_ctxsOf.mpr ⟨hlive, hc⟩, hlive⟩)
  · rw [hat]
    exact hrest c (hc.imp (fun hno hmem => hno (mem_ctxsOf.mp hmem).2) id)

/-- Several VFs that are gone, one after another. -/
theorem each_vfGone_does : ∀ (gone : List FnId) (f : Fuses) (m : Mem) (d : Dev),
    d.KillsOnly (Act.each vfGone gone f m d).dev (fun c => (d.ctxAt c).owner ∈ gone)
    ∧ (Act.each vfGone gone f m d).dev.host.numVfs = d.host.numVfs
  | [], _, _, d => ⟨⟨fun c hc => by simp at hc, fun c _ => rfl⟩, rfl⟩
  | fn :: gone, f, m, d => by
    obtain ⟨⟨hkilled, hkept⟩, hvfs, hfuse⟩ := vfGone_does fn f m d
    generalize hq : vfGone fn f m d = q at hkilled hkept hvfs hfuse
    obtain ⟨⟨ikilled, ikept⟩, ivfs⟩ := each_vfGone_does gone f (m.apply q.mem) q.dev
    have happly : (Act.each vfGone (fn :: gone) f m d).dev = (Act.each vfGone gone f (m.apply q.mem) q.dev).dev := by
      have hf : f.apply q.fuse = f := by rw [hfuse]; rfl
      simp only [Act.each, Act.andThen, hq, hf]
    rw [happly]
    refine ⟨⟨fun c hc hlive => ?_, fun c hc => ?_⟩, ivfs.trans hvfs⟩
    · by_cases hfn : (d.ctxAt c).owner = fn
      · have hkilling := hkilled c hfn hlive
        by_cases hagain : (q.dev.ctxAt c).owner ∈ gone
        · exact ikilled c hagain (by rw [hkilling]; decide)
        · exact (uncounted_state (ikept c (.inl hagain))).trans hkilling
      · have hsame := hkept c (.inl hfn)
        have hin : (d.ctxAt c).owner ∈ gone := (List.mem_cons.mp hc).resolve_left hfn
        exact ikilled c (by show _ ∈ gone; rw [uncounted_owner hsame]; exact hin) (by rw [uncounted_state hsame]; exact hlive)
    · have hsame := hkept c (hc.imp (fun hno he => hno (List.mem_cons.mpr (.inl he))) id)
      refine (ikept c ?_).trans hsame
      show ¬ (q.dev.ctxAt c).owner ∈ gone ∨ _
      rw [uncounted_owner hsame, uncounted_state hsame]
      exact hc.imp (fun hno hmem => hno (List.mem_cons_of_mem _ hmem)) id

/-! ### The reset of the PF -/

theorem Dev.get_of_regs {a b : Dev} (h : a.regs = b.regs) (f : Fld) (i : Nat) : a.get f i = b.get f i := by
  unfold Dev.get Dev.reg
  rw [h]

theorem Dev.put_of_regs {a b : Dev} (h : a.regs = b.regs) (f : Fld) (v i : Nat) : (a.put f v i).regs = (b.put f v i).regs := by
  unfold Dev.put Dev.setReg Dev.reg
  rw [h]

theorem Dev.resetPfRings_ctx (d : Dev) : d.resetPfRings.ctx = d.ctx := by
  simp only [Dev.resetPfRings, Dev.put_ctx, Dev.resetRegs]

theorem Dev.resetPfRings_numVfs (d : Dev) : d.resetPfRings.host.numVfs = d.host.numVfs := by
  simp only [Dev.resetPfRings, Dev.put_host, Dev.resetRegs]

theorem Dev.resetPfRings_fetched (d : Dev) : d.resetPfRings.host.fetched = d.host.fetched.filter (fun f => f.ring ≠ .adm) := by
  simp only [Dev.resetPfRings, Dev.put_host, Dev.resetRegs]

theorem Dev.resetPfRings_sqAt (d : Dev) : d.resetPfRings.sqAt .adm = SqRec.init := by
  simp only [Dev.sqAt, Dev.resetPfRings, sqKey, tblGet_set_self]

theorem Dev.resetPfRings_cqAt (d : Dev) : d.resetPfRings.cqAt .adm = CqRec.init := by
  simp only [Dev.cqAt, Dev.resetPfRings, cqKey, tblGet_set_self]

/-- The registers that a reset of the PF's rings resets. -/
def pfRingRegs : List RegName := [.HOST_ADM_SQ_CFG, .HOST_ADM_CQ_CFG, .ETH_QCFG, .ETH_QWM, .ETH_QSTAT]

theorem Dev.resetPfRings_regs (d : Dev) :
    d.resetPfRings.regs = ((d.resetRegs pfRingRegs).put HOST_MOD_STAT.ADM_DB_IGNORED 0).regs := by
  simp only [Dev.resetPfRings]
  exact Dev.put_of_regs rfl _ _ _

/-- A field of the PF's rings that is 0 at reset is 0 once they are reset. -/
theorem Dev.resetPfRings_flag (d : Dev) (f : Fld) (hf : f.reg ∈ pfRingRegs)
    (hne : regKey f.reg 0 ≠ regKey HOST_MOD_STAT.ADM_DB_IGNORED.reg 0)
    (hreset : field (BitVec.ofNat 64 f.reg.reset).toNat f.lo f.width = 0) : d.resetPfRings.flag f = false := by
  have hget : d.resetPfRings.get f = 0 := by
    rw [Dev.get_of_regs d.resetPfRings_regs, get_put_ne _ _ _ _ _ _ hne, Dev.get, reg_resetRegs_of hf (by decide)]
    exact hreset
  simp [Dev.flag, hget]

/-- A reset of the PF (R426). -/
theorem pfReset_does (f : Fuses) (m : Mem) (d : Dev) : d.PfReset (pfReset f m d).dev := by
  obtain ⟨hstate, hrest, -, -⟩ := killAll_does 0x8002 allCtx f m d
  have hdev : (pfReset f m d).dev = ({ (killAll allCtx 0x8002 f m d).dev with
      host := { (killAll allCtx 0x8002 f m d).dev.host with numVfs := 0 } }.endSessions (fun _ => true)).resetPfRings := by
    rw [pfReset, andThen_dev]
  generalize (killAll allCtx 0x8002 f m d).dev = k at hstate hrest hdev
  obtain ⟨hctx, hhost⟩ := Dev.SameHost.endSessions { k with host := { k.host with numVfs := 0 } } (fun _ => true)
  generalize { k with host := { k.host with numVfs := 0 } }.endSessions (fun _ => true) = e at hdev hctx hhost
  have hat : ∀ c, (pfReset f m d).dev.ctxAt c = k.ctxAt c := fun c => by
    simp only [hdev, Dev.ctxAt, Dev.resetPfRings_ctx, hctx]
  refine ⟨⟨fun c _ hlive => ?_, fun c hc => ?_⟩, ?_, ?_, ?_, ?_, ?_, fun x hx => ?_⟩
  · rw [hat, hstate c]
    exact if_pos ⟨List.mem_finRange c, hlive⟩
  · rw [hat]
    exact hrest c (hc.imp (fun h => absurd trivial h) id)
  · rw [hdev, Dev.resetPfRings_numVfs, hhost]
  · rw [hdev, Dev.resetPfRings_flag _ HOST_ADM_SQ_CFG.EN (by decide) (by decide) (by decide)]
  · rw [hdev, Dev.resetPfRings_flag _ HOST_ADM_CQ_CFG.EN (by decide) (by decide) (by decide)]
  · rw [hdev, Dev.resetPfRings_sqAt]
  · rw [hdev, Dev.resetPfRings_cqAt]
  · rw [hdev, Dev.resetPfRings_fetched] at hx
    simpa using (List.mem_filter.mp hx).2

end Sys2Proof.Machine

namespace Sys2Proof.Proofs

open Sys2Proof.Machine Sys2Proof.Laws

/-- Settles O14: resets and removals by what killing contexts leaves, CXL.mem by what backs the line. -/
theorem functionsAndCxl : Obligations.FunctionsAndCxl := by
  unfold Obligations.FunctionsAndCxl
  refine ⟨⟨fun fn s hup hfn hvf => ?_, fun n s hup hn => ?_, fun s hup => ⟨?_, ?_⟩, fun n s hup hn => ?_⟩,
    fun line data a s hup ha hslot => ⟨?_, ?_⟩, fun line data s hup ha => ⟨?_, ?_⟩, fun line data a s hup ha hslot => ⟨?_, ?_⟩⟩
  · obtain ⟨hkills, hvfs, hfuse⟩ := vfGone_does fn s.fuse s.mem s.dev
    refine answers_of_act (r := vfGone fn s.fuse s.mem s.dev) rfl ?_ ⟨?_, rfl, hvfs, hkills⟩
    · simp only [hup, hfn, hvf, Bool.not_true, Bool.false_eq_true, if_false, if_true]
    · rw [hfuse]; rfl
  · have hgo : (s.dev.hostUp && decide (n.val < s.dev.host.numVfs)) = true := by simp [hup, hn]
    let gone : List FnId := (List.finRange 64).filter (fun v => n.val < v.val && v.val ≤ s.dev.host.numVfs)
    obtain ⟨⟨hkilled, hkept⟩, -⟩ := each_vfGone_does gone s.fuse s.mem s.dev
    have hgone : ∀ v : FnId, v ∈ gone ↔ n.val < v.val ∧ v.val ≤ s.dev.host.numVfs := fun v => by
      simp [gone]
    let all : Act := (Act.each vfGone gone).andThen (Act.dev (fun d => { d with host := { d.host with numVfs := n.val } }))
    have hfuse : (all s.fuse s.mem s.dev).fuse = [] :=
      Act.SparesFuses.andThen (Act.SparesFuses.each Act.SparesFuses.vfGone gone) (Act.SparesFuses.dev _) s.fuse s.mem s.dev
    refine answers_of_act (r := all s.fuse s.mem s.dev) rfl (if_pos hgo) ⟨by rw [hfuse]; rfl, rfl, rfl, ⟨fun c hc hlive => ?_, fun c hc => ?_⟩⟩
    · exact hkilled c ((hgone _).mpr hc) hlive
    · exact hkept c (hc.imp (fun hno hin => hno ((hgone _).mp hin)) id)
  · refine answers_of_act (r := pfReset s.fuse s.mem s.dev) rfl ?_ ⟨?_, rfl, pfReset_does s.fuse s.mem s.dev⟩
    · simp only [hup, Bool.not_true, Bool.false_eq_true, if_false, if_true]
    · rw [Act.SparesFuses.pfReset s.fuse s.mem s.dev]; rfl
  · refine answers_of_act (r := pfReset s.fuse s.mem s.dev) rfl ?_ ⟨?_, rfl, pfReset_does s.fuse s.mem s.dev⟩
    · simp only [hup, if_true]
    · rw [Act.SparesFuses.pfReset s.fuse s.mem s.dev]; rfl
  · refine answers_of_dev rfl ?_ rfl
    simp only [Act.dev, hup, hn, Bool.true_and, decide_true, if_true]
  · refine answers_of_dev rfl ?_ rfl
    simp only [hup, ha, hslot, Bool.not_true, Bool.false_eq_true, if_false, if_true]
  · refine answers_of_act (r := { dev := s.dev, mem := [.write a (leBytes 64 data.toNat) false] }) rfl ?_ rfl
    simp only [hup, ha, hslot, Bool.not_true, Bool.false_eq_true, if_false, if_true]
  · refine answers_of_dev rfl ?_ rfl
    simp only [hup, ha, Bool.not_true, Bool.false_eq_true, if_false]
  · refine answers_of_dev rfl ?_ rfl
    simp only [hup, ha, Bool.not_true, Bool.false_eq_true, if_false]
  · refine answers_of_dev rfl ?_ rfl
    simp only [hup, ha, hslot, Bool.not_true, Bool.false_eq_true, if_false]
  · refine answers_same rfl ?_
    simp only [hup, ha, hslot, Bool.not_true, Bool.false_eq_true, if_false]

end Sys2Proof.Proofs
end

section
/-! The Keeper's answers (R489 to R496): requests outside and inside a session, and the commands on keys. -/

namespace Sys2Proof.Machine

open Sys2Proof.Laws

/-- A request that the Keeper takes answers the state that its change of the device gives. -/
theorem spdm_answers {i : Instr} {s : State} {m : SpdmMsg} {g : Fuses → Dev → Dev} {d : Dev} (hm : s.dev.Asks m)
    (he : exec i s = .next (s.run (spdm m g))) (hd : g s.fuse s.dev = d) : Answers i s (fun t => t = s.withDev d) :=
  answers_of_dev he ((spdm_asks hm g s.fuse s.mem).trans (congrArg (fun d => ({ dev := d } : Res)) hd)) rfl

/-- Once the algorithms are fixed, or in a session, the Keeper answers (R489). -/
theorem Dev.answerReady_of_ready {d : Dev} {m : SpdmMsg} (h : d.spdmAt m.fn = .algorithms ∨ m.session.isSome) (code : Nat) :
    d.answerReady m code = d.answer m code := by
  have hready : (decide (d.spdmAt m.fn = .algorithms) || m.session.isSome) = true := by simpa using h
  rw [Dev.answerReady, if_pos hready]

/-- Before that it answers with an error (R489). -/
theorem Dev.answerReady_of_early {d : Dev} {m : SpdmMsg} (h1 : d.spdmAt m.fn ≠ .algorithms) (h2 : m.session = none) (code : Nat) :
    d.answerReady m code = d.reply m spdmError := by
  rw [Dev.answerReady, if_neg (by simp [h1, h2])]

/-- A context's block is there in a session of the VF that owns it (R490). -/
theorem Dev.block_of_context {d : Dev} {f : Fuses} {m : SpdmMsg} {c : CtxId} (h : (d.block f m (0x40 + c.val)).isSome) :
    m.session.isSome ∧ (d.ctxAt c).state ≠ .free ∧ (d.ctxAt c).owner = m.fn := by
  have hc := c.isLt
  have hfin : (Fin.ofNat 64 (0x40 + c.val - 0x40) : CtxId) = c := Fin.ext (by simp)
  have h1 : (decide (1 ≤ 0x40 + c.val) && decide (0x40 + c.val ≤ 5)) = false := by simp; omega
  have h2 : ¬ 0x40 + c.val = 6 := by omega
  have h3 : ¬ 0x40 + c.val = 7 := by omega
  have h4 : (decide (0x40 ≤ 0x40 + c.val) && decide (0x40 + c.val < 0x80)) = true := by simp; omega
  simp only [Dev.block, h1, h2, h3, h4, hfin, Bool.false_eq_true, if_false, if_true] at h
  split at h
  · rename_i hall
    simp only [Bool.and_eq_true, decide_eq_true_eq] at hall
    exact ⟨hall.1.1.1, hall.1.1.2, hall.1.2⟩
  · simp at h

/-! ### Sessions -/

/-- A message comes in an established session where its session is one. -/
theorem Dev.inSession_of_session {d : Dev} {m : SpdmMsg} {n : Fin 128} {x : Session} (hn : m.session = some n)
    (hx : d.sessionAt n.val = some x) : d.inSession m = x.established := by
  simp [Dev.inSession, hn, hx]

/-! ### Key commands -/

/-- A key command of the owner answers with the status of its own checks (R491). -/
theorem keyCommand_answers {i : Instr} {s : State} {m : SpdmMsg} {n : Fin 128} {c : CtxId} {g : Dev → CtxId → Bytes → Nat × Dev} {d : Dev}
    (hm : s.dev.CommandsKeys m n c) (he : exec i s = .next (s.run (keyCommand m g))) (hd : g s.dev c (s.dev.wrapKey m n) = (kOk, d)) :
    Answers i s (fun t => t = s.withDev (d.emit (.spdm m.fn m.session [0x7E, 0]))) := by
  refine answers_of_dev he ((keyCommand_taken hm g s.fuse s.mem).trans ?_) rfl
  rw [hd]
  rfl

/-- A key command in a session of another VF than the context's is answered BAD_CONTEXT (R491). -/
theorem keyCommand_foreign {i : Instr} {s : State} {m : SpdmMsg} {c : CtxId} {g : Dev → CtxId → Bytes → Nat × Dev}
    (hm : s.dev.Asks m) (hin : s.dev.inSession m = true) (hc : rdb m.body 1 = c.val)
    (hno : m.fn = 0 ∨ (s.dev.ctxAt c).state = .free ∨ (s.dev.ctxAt c).owner ≠ m.fn)
    (he : exec i s = .next (s.run (keyCommand m g))) :
    Answers i s (fun t => t = s.withDev (s.dev.emit (.spdm m.fn m.session [0x7E, 1]))) := by
  refine spdm_answers hm he ?_
  have hfin : (Fin.ofNat 64 (rdb m.body 1) : CtxId) = c := by rw [hc]; exact Fin.ext (by simp)
  have hbad : (decide (64 ≤ rdb m.body 1) || decide (m.fn = 0) || decide ((s.dev.ctxAt c).state = .free)
      || decide ((s.dev.ctxAt c).owner ≠ m.fn)) = true := by
    simp only [Bool.or_eq_true, decide_eq_true_eq]
    tauto
  cases hn : m.session with
  | none => simp [Dev.inSession, hn] at hin
  | some n => simp only [hin, hfin, hbad, Bool.not_true, Bool.false_eq_true, if_false, if_true, Dev.reply, hn]; rfl

end Sys2Proof.Machine

namespace Sys2Proof.Proofs

open Sys2Proof.Machine Sys2Proof.Laws

/-- Settles O15: each request by the stage of its function's exchange. -/
theorem spdmMessages : Obligations.SpdmMessages := by
  unfold Obligations.SpdmMessages
  refine ⟨fun m s hm => ⟨spdm_answers hm rfl rfl, fun hv => spdm_answers hm rfl (if_pos hv), fun hc => spdm_answers hm rfl (if_pos hc),
    fun hv => spdm_answers hm rfl (if_neg hv), fun hc => spdm_answers hm rfl (if_neg hc)⟩, fun m s hm hr => ⟨?_, ?_, ?_, ?_⟩,
    fun m s hm h1 h2 i hi => ?_, fun m c s h => Dev.block_of_context h⟩
  · exact spdm_answers hm rfl (Dev.answerReady_of_ready hr _)
  · exact spdm_answers hm rfl (Dev.answerReady_of_ready hr _)
  · exact spdm_answers hm rfl (Dev.answerReady_of_ready hr _)
  · exact spdm_answers hm rfl (if_pos (by simpa using hr))
  · simp only [List.mem_cons, List.not_mem_nil, or_false] at hi
    rcases hi with rfl | rfl | rfl | rfl
    · exact spdm_answers hm rfl (Dev.answerReady_of_early h1 h2 _)
    · exact spdm_answers hm rfl (Dev.answerReady_of_early h1 h2 _)
    · exact spdm_answers hm rfl (Dev.answerReady_of_early h1 h2 _)
    · exact spdm_answers hm rfl (if_neg (by simp [h1, h2]))

/-- Settles O16: KEY_EXCHANGE by the session that is free, the others by whether their session is established. -/
theorem spdmSessions : Obligations.SpdmSessions := by
  unfold Obligations.SpdmSessions
  refine ⟨fun m n s hm ha hn => ?_, fun m s hm hno => ?_, fun m n x s hm hn hx => ⟨?_, fun he => ⟨?_, ?_, ?_⟩, fun he i hi => ?_⟩⟩
  · refine spdm_answers hm rfl ?_
    simp only [hn, ha, if_true]
    rfl
  · refine spdm_answers hm rfl ?_
    cases hf : s.dev.freeSession m.fn with
    | none => rfl
    | some n =>
      have ha : s.dev.spdmAt m.fn ≠ .algorithms := hno.resolve_right (by rw [hf]; simp)
      simp only [ha, if_false]
      rfl
  · refine spdm_answers hm rfl ?_
    simp only [hn, hx, Option.map_some]
    simp only [← hn]
    rfl
  · have hin : s.dev.inSession m = true := (Dev.inSession_of_session hn hx).trans he
    exact spdm_answers hm rfl (if_pos hin)
  · have hin : s.dev.inSession m = true := (Dev.inSession_of_session hn hx).trans he
    refine spdm_answers hm rfl ?_
    simp only [hn, hin, hx, if_true, Option.map_some]
    simp only [← hn]
    rfl
  · have hin : s.dev.inSession m = true := (Dev.inSession_of_session hn hx).trans he
    refine spdm_answers hm rfl ?_
    simp only [hn, hin, if_true]
    simp only [← hn]
    rfl
  · have hin : s.dev.inSession m = false := (Dev.inSession_of_session hn hx).trans he
    simp only [List.mem_cons, List.not_mem_nil, or_false] at hi
    rcases hi with rfl | rfl | rfl
    · exact spdm_answers hm rfl (if_neg (by rw [hin]; decide))
    · refine spdm_answers hm rfl ?_
      simp only [hn, hin, Bool.false_eq_true, if_false, Dev.reply]
    · refine spdm_answers hm rfl ?_
      simp only [hn, hin, Bool.false_eq_true, if_false, Dev.reply]

/-- Settles O17: a key command of the owner by its own checks, one of another VF by the check before them. -/
theorem keyCommands : Obligations.KeyCommands := by
  unfold Obligations.KeyCommands
  refine ⟨fun m n c key s hm hst hh hfree hu => ?_, fun m n c s hm hst hh hidle => ?_, fun m n c key s hm hst hfresh hl hp hu => ?_,
    fun m n c s hm hst hfresh hd hcurve => ?_, fun m c s hm hin hc hno i hi => ?_, fun pkey s => ?_⟩
  · refine keyCommand_answers hm rfl ?_
    simp only [hst, hfree, hu, Nat.not_lt.mpr hh, Bool.not_true, Bool.false_eq_true, if_false, ne_eq, not_true_eq_false]
  · refine keyCommand_answers hm rfl ?_
    simp only [hst, hidle, Nat.not_lt.mpr hh, Bool.not_true, Bool.false_eq_true, if_false]
  · refine keyCommand_answers hm rfl ?_
    simp [hst, hfresh, hl, hp, hu]
  · refine keyCommand_answers hm rfl ?_
    simp [hst, hfresh, hd, hcurve]
  · simp only [List.mem_cons, List.not_mem_nil, or_false] at hi
    rcases hi with rfl | rfl | rfl | rfl
    · exact keyCommand_foreign hm hin hc hno rfl
    · exact keyCommand_foreign hm hin hc hno rfl
    · exact keyCommand_foreign hm hin hc hno rfl
    · exact keyCommand_foreign hm hin hc hno rfl
  · exact answers_of_dev rfl rfl rfl

end Sys2Proof.Proofs
end

section
/-! What a write does to the fields of its register (R12 to R16), bit by bit. -/

namespace Sys2Proof.Machine

open Sys2Proof.Laws

/-! ### Bits -/

/-- Numbers without a common bit add without a carry. -/
theorem add_eq_or {a b : Nat} (h : a &&& b = 0) : a + b = a ||| b := by
  have hlt : a + b < 2 ^ (a + b) := Nat.lt_two_pow_self
  have ha : a % 2 ^ (a + b) = a := Nat.mod_eq_of_lt (by omega)
  have hb : b % 2 ^ (a + b) = b := Nat.mod_eq_of_lt (by omega)
  have hand : BitVec.ofNat (a + b) a &&& BitVec.ofNat (a + b) b = 0#(a + b) := by
    apply BitVec.eq_of_toNat_eq
    simp only [BitVec.toNat_and, BitVec.toNat_ofNat, ha, hb, h, Nat.zero_mod]
  have hor := congrArg BitVec.toNat (BitVec.add_eq_or_of_and_eq_zero _ _ hand)
  simpa only [BitVec.toNat_add, BitVec.toNat_or, BitVec.toNat_ofNat, ha, hb, Nat.mod_eq_of_lt hlt] using hor

theorem testBit_add {a b : Nat} (h : a &&& b = 0) (i : Nat) : (a + b).testBit i = (a.testBit i || b.testBit i) := by
  rw [add_eq_or h, Nat.testBit_or]

/-- Taking away the bits that a number shares with another. -/
theorem testBit_sub_and (a b i : Nat) : (a - (a &&& b)).testBit i = (a.testBit i && !b.testBit i) := by
  have hand : (a &&& b) &&& Nat.ldiff a b = 0 := by
    apply Nat.eq_of_testBit_eq
    intro i
    rw [Nat.testBit_and, Nat.testBit_and, Nat.testBit_ldiff, Nat.zero_testBit]
    cases b.testBit i <;> simp
  have hsum : (a &&& b) + Nat.ldiff a b = a := by
    apply Nat.eq_of_testBit_eq
    intro i
    rw [testBit_add hand, Nat.testBit_and, Nat.testBit_ldiff]
    cases a.testBit i <;> cases b.testBit i <;> rfl
  have hsub : a - (a &&& b) = Nat.ldiff a b := by omega
  rw [hsub, Nat.testBit_ldiff]

/-- Some bits of a number replaced by those of another. -/
theorem testBit_splice (a v k i : Nat) : ((a - (a &&& k)) + (v &&& k)).testBit i = if k.testBit i then v.testBit i else a.testBit i := by
  have hapart : (a - (a &&& k)) &&& (v &&& k) = 0 := by
    apply Nat.eq_of_testBit_eq
    intro j
    rw [Nat.testBit_and, testBit_sub_and, Nat.testBit_and, Nat.zero_testBit]
    cases k.testBit j <;> simp
  rw [testBit_add hapart, testBit_sub_and, Nat.testBit_and]
  cases k.testBit i <;> simp

theorem testBit_mask (f : Fld) (i : Nat) : f.mask.testBit i = (decide (f.lo ≤ i) && decide (i < f.lo + f.width)) := by
  unfold Fld.mask
  rw [Nat.testBit_shiftLeft, Nat.testBit_two_pow_sub_one]
  by_cases h : f.lo ≤ i
  · simp [h, show i - f.lo < f.width ↔ i < f.lo + f.width by omega]
  · simp [h]

/-- Two fields of a register that share no bit. -/
def Fld.apart (f g : Fld) : Bool := f.lo + f.width ≤ g.lo || g.lo + g.width ≤ f.lo

/-- A bit of a field lies in no field apart from it. -/
theorem mask_of_apart {f g : Fld} (h : f.apart g = true) {i : Nat} (hi : i < g.width) : f.mask.testBit (g.lo + i) = false := by
  simp only [Fld.apart, Bool.or_eq_true, decide_eq_true_eq] at h
  rw [testBit_mask, Bool.and_eq_false_iff, decide_eq_false_iff_not, decide_eq_false_iff_not]
  omega

theorem mask_self {g : Fld} {i : Nat} (hi : i < g.width) : g.mask.testBit (g.lo + i) = true := by
  rw [testBit_mask]
  simp [hi]

/-! ### Writing fields -/

/-- A field's write changes no bit that lies outside the field or that the write's lanes do not carry. -/
theorem fieldWrite_outside (f : Fld) (locked acts : Bool) (m v vis : Nat) (acc : Nat × Bool) {i : Nat}
    (hin : (f.mask &&& m).testBit i = false) : (fieldWrite f locked acts m v vis acc).1.testBit i = acc.1.testBit i := by
  have hwrite : ((acc.1 - (acc.1 &&& (f.mask &&& m))) + (v &&& (f.mask &&& m))).testBit i = acc.1.testBit i := by
    rw [testBit_splice, hin]
    simp only [Bool.false_eq_true, if_false]
  unfold fieldWrite
  cases f.type with
  | rw => exact hwrite
  | rwl => cases locked <;> simp only [Bool.false_eq_true, if_false, if_true, hwrite]
  | ro => rfl
  | rw1c =>
    show (acc.1 - (acc.1 &&& (v &&& (f.mask &&& m)))).testBit i = _
    rw [testBit_sub_and, Nat.testBit_and, hin]
    simp
  | wo => rfl

/-- Whether a write leaves a field as it is by its type (R12). -/
def Fld.keeps (f : Fld) (locked : Bool) : Bool := f.type = .ro || f.type = .wo || (f.type = .rwl && locked)

theorem fieldWrite_keeps {f : Fld} {locked acts : Bool} {m v vis : Nat} (acc : Nat × Bool) (h : f.keeps locked = true) :
    (fieldWrite f locked acts m v vis acc).1 = acc.1 := by
  unfold Fld.keeps at h
  unfold fieldWrite
  cases ht : f.type <;> simp_all

/-- Writing fields each of which a field is apart from, or which keep their values, leaves it. -/
theorem fieldWrites_outside (g : Fld) (locked acts : Bool) (m v vis : Nat) : ∀ (fs : List Fld) (acc : Nat × Bool),
    (∀ f ∈ fs, f.apart g = true ∨ f.keeps locked = true) →
    field (fs.foldl (fun acc f => fieldWrite f locked acts m v vis acc) acc).1 g.lo g.width = field acc.1 g.lo g.width
  | [], _, _ => rfl
  | f :: fs, acc, h => by
    rw [List.foldl_cons, fieldWrites_outside g locked acts m v vis fs _ (fun f hf => h f (List.mem_cons_of_mem _ hf))]
    rcases h f List.mem_cons_self with ha | hk
    · apply Nat.eq_of_testBit_eq
      intro i
      rw [testBit_field, testBit_field]
      by_cases hi : i < g.width
      · rw [fieldWrite_outside f locked acts m v vis acc (by rw [Nat.testBit_and, mask_of_apart ha hi, Bool.false_and])]
      · simp [hi]
    · rw [fieldWrite_keeps acc hk]

/-- A field that software may write takes the value of a write that carries all of it (R12, R16). -/
theorem fieldWrite_takes {g : Fld} {locked acts : Bool} {m v vis : Nat} (acc : Nat × Bool)
    (ht : g.type = .rw ∨ g.type = .rwl ∧ locked = false) (hm : ∀ i < g.width, m.testBit (g.lo + i) = true) :
    field (fieldWrite g locked acts m v vis acc).1 g.lo g.width = field v g.lo g.width := by
  have hwrite : (fieldWrite g locked acts m v vis acc).1 = (acc.1 - (acc.1 &&& (g.mask &&& m))) + (v &&& (g.mask &&& m)) := by
    unfold fieldWrite
    rcases ht with ht | ⟨ht, hl⟩
    · rw [ht]
    · rw [ht, hl]
      rfl
  apply Nat.eq_of_testBit_eq
  intro i
  rw [testBit_field, testBit_field, hwrite]
  by_cases hi : i < g.width
  · have hin : (g.mask &&& m).testBit (g.lo + i) = true := by rw [Nat.testBit_and, mask_self hi, hm i hi, Bool.true_and]
    rw [testBit_splice, hin, if_pos rfl]
  · simp [hi]

/-- Among fields that are apart from it, a field that software may write takes the value written. -/
theorem fieldWrites_takes {g : Fld} {locked acts : Bool} {m v vis : Nat} (ht : g.type = .rw ∨ g.type = .rwl ∧ locked = false)
    (hm : ∀ i < g.width, m.testBit (g.lo + i) = true) : ∀ (fs : List Fld) (acc : Nat × Bool), g ∈ fs → (∀ f ∈ fs, f = g ∨ f.apart g = true) →
    field (fs.foldl (fun acc f => fieldWrite f locked acts m v vis acc) acc).1 g.lo g.width = field v g.lo g.width
  | [], _, hg, _ => absurd hg (List.not_mem_nil)
  | f :: fs, acc, hg, h => by
    have hrest := fun k hk => h k (List.mem_cons_of_mem f hk)
    rw [List.foldl_cons]
    by_cases hin : g ∈ fs
    · exact fieldWrites_takes ht hm fs _ hin hrest
    · have hfg : g = f := (List.mem_cons.mp hg).resolve_right hin
      subst hfg
      rw [fieldWrites_outside g locked acts m v vis fs _ (fun k hk => .inl ((hrest k hk).resolve_left (fun e => hin (e ▸ hk))))]
      exact fieldWrite_takes acc ht hm

/-- A write that carries nothing of a field leaves it. -/
theorem fieldWrites_unmasked {g : Fld} {locked acts : Bool} {m v vis : Nat} (hm : ∀ i < g.width, m.testBit (g.lo + i) = false) :
    ∀ (fs : List Fld) (acc : Nat × Bool),
    field (fs.foldl (fun acc f => fieldWrite f locked acts m v vis acc) acc).1 g.lo g.width = field acc.1 g.lo g.width
  | [], _ => rfl
  | f :: fs, acc => by
    rw [List.foldl_cons, fieldWrites_unmasked hm fs]
    apply Nat.eq_of_testBit_eq
    intro i
    rw [testBit_field, testBit_field]
    by_cases hi : i < g.width
    · rw [fieldWrite_outside f locked acts m v vis acc (by rw [Nat.testBit_and, hm i hi, Bool.and_false])]
    · simp [hi]

/-- A field in one half of its register is carried whole or not at all (R16). -/
theorem lanesMask_half (l : Lanes) {g : Fld} (hg : g.lo + g.width ≤ 32 ∨ 32 ≤ g.lo ∧ g.lo + g.width ≤ 64) {i : Nat} (hi : i < g.width) :
    (lanesMask l).testBit (g.lo + i) = bit (lanesMask l) g.lo := by
  unfold bit
  cases l with
  | full =>
    simp only [lanesMask, Nat.testBit_two_pow_sub_one]
    simp [show g.lo + i < 64 by omega, show g.lo < 64 by omega]
  | low =>
    simp only [lanesMask, Nat.testBit_two_pow_sub_one]
    by_cases h : g.lo < 32
    · simp [h, show g.lo + i < 32 by omega]
    · simp [h, show ¬ g.lo + i < 32 by omega]
  | high =>
    simp only [lanesMask, Nat.testBit_shiftLeft, Nat.testBit_two_pow_sub_one]
    by_cases h : 32 ≤ g.lo
    · simp [h, show 32 ≤ g.lo + i by omega, show g.lo + i - 32 < 32 by omega, show g.lo - 32 < 32 by omega]
    · simp [h, show ¬ 32 ≤ g.lo + i by omega]

/-- What a write brings to a field that it carries. -/
theorem wrGet_of_carries {w : RegWr} {g : Fld} (hg : g.lo + g.width ≤ 32 ∨ 32 ≤ g.lo ∧ g.lo + g.width ≤ 64) (hc : wrCarries w g = true) :
    wrGet w g = field w.value.toNat g.lo g.width := by
  apply Nat.eq_of_testBit_eq
  intro i
  rw [wrGet, testBit_field, testBit_field, Nat.testBit_and]
  by_cases hi : i < g.width
  · have hbit : bit (lanesMask w.lanes) g.lo = true := hc
    rw [lanesMask_half w.lanes hg hi, hbit, Bool.and_true]
  · simp [hi]

/-! ### Registers outside a list -/

/-- From `a` to `b` the registers outside a list keep their values. -/
def Dev.RegsOutside (a b : Dev) (rs : List RegName) : Prop := ∀ (f : Fld) (i : Nat), i < 1024 → f.reg ∉ rs → b.get f i = a.get f i

namespace Dev.RegsOutside

theorem refl (d : Dev) (rs : List RegName) : d.RegsOutside d rs := fun _ _ _ _ => rfl

theorem trans {a b c : Dev} {rs : List RegName} (h : a.RegsOutside b rs) (g : b.RegsOutside c rs) : a.RegsOutside c rs :=
  fun f i hi hr => (g f i hi hr).trans (h f i hi hr)

theorem mono {a b : Dev} {rs qs : List RegName} (h : a.RegsOutside b rs) (hs : rs ⊆ qs) : a.RegsOutside b qs :=
  fun f i hi hr => h f i hi (fun hm => hr (hs hm))

theorem of_regs {a b : Dev} (h : b.regs = a.regs) (rs : List RegName) : a.RegsOutside b rs := fun f i _ _ => Dev.get_of_regs h f i

theorem put (d : Dev) (f : Fld) (v i : Nat) (hi : i < 1024) {rs : List RegName} (hf : f.reg ∈ rs) : d.RegsOutside (d.put f v i) rs :=
  fun g j hj hg => get_put_ne d f g v i j (regKey_ne hj hi (fun e => hg (e ▸ hf)))

theorem count (d : Dev) (f : Fld) (i n : Nat) (hi : i < 1024) {rs : List RegName} (hf : f.reg ∈ rs) : d.RegsOutside (d.count f i n) rs :=
  put d f _ i hi hf

theorem of_reports {a b : Dev} (h : a.Reports b) {rs : List RegName} (h1 : .HOST_CTX_STAT ∈ rs) (h2 : .MMC_LOG_SEL ∈ rs) : a.RegsOutside b rs :=
  fun f i hi hr => h.regs f i hi (fun e => hr (e ▸ h1)) (fun e => hr (e ▸ h2))

theorem rejectAt (d : Dev) (r : RegName) (i : Nat) {rs : List RegName} (h : .MMC_CFG_REJ ∈ rs) : d.RegsOutside (d.rejectAt r i) rs :=
by
  unfold Dev.rejectAt Dev.reject
  have h1 := count d MMC_CFG_REJ.COUNT 0 1 (by decide) h
  have h2 := put (d.count MMC_CFG_REJ.COUNT) MMC_CFG_REJ.LAST_SPACE (r.place i).1 0 (by decide) h
  have h3 := put ((d.count MMC_CFG_REJ.COUNT).put MMC_CFG_REJ.LAST_SPACE (r.place i).1) MMC_CFG_REJ.LAST_OFFSET (r.place i).2 0 (by decide) h
  exact (h1.trans h2).trans h3

theorem settleModule (d : Dev) {rs : List RegName} (h : .BRY_LS_STAT ∈ rs) : d.RegsOutside d.settleModule rs := by
  have hput := (put d BRY_LS_STAT.MODULE_PAIR (b2n (d.lockForm 1)) 0 (by decide) h).trans
    (put _ BRY_LS_STAT.DIE_PAIRS (b2n (d.lockForm 2)) 0 (by decide) h)
  unfold Dev.settleModule
  simp only
  generalize (d.put BRY_LS_STAT.MODULE_PAIR (b2n (d.lockForm 1))).put BRY_LS_STAT.DIE_PAIRS (b2n (d.lockForm 2)) = e at hput
  split
  · exact hput.trans (of_regs rfl rs)
  · exact hput

end Dev.RegsOutside

/-- A register's own value after it is set. -/
theorem get_setReg_self (d : Dev) (g : Fld) (i v : Nat) : (d.setReg g.reg i v).get g i = field (v % 2 ^ 64) g.lo g.width := by
  unfold Dev.get
  refine congrArg (fun n => field n g.lo g.width) ?_
  show (tblGet _ (tblSet _ d.regs _ _) _).toNat = _
  rw [tblGet_set_self, BitVec.toNat_ofNat]

theorem field_mod {v lo width : Nat} (h : lo + width ≤ 64) : field (v % 2 ^ 64) lo width = field v lo width := by
  apply Nat.eq_of_testBit_eq
  intro i
  rw [testBit_field, testBit_field, Nat.testBit_mod_two_pow]
  by_cases hi : i < width
  · simp [hi, show lo + i < 64 by omega]
  · simp [hi]

/-- A write of a register changes no other register but the count of rejected writes (R13, R14). -/
theorem Dev.writeFields_outside (d : Dev) (r : RegName) (i : Nat) (hi : i < 1024) (locked : Bool) (w : RegWr) :
    d.RegsOutside (d.writeFields r i locked w) [r, .MMC_CFG_REJ] := by
  unfold Dev.writeFields Dev.writeFieldsAs
  simp only
  generalize r.fields.foldl _ _ = p
  have hset : d.RegsOutside (d.setReg r i p.1) [r, .MMC_CFG_REJ] := fun f j hj hf => by
    unfold Dev.get
    rw [reg_setReg_ne _ _ _ _ _ _ (regKey_ne hj hi (fun e => hf (by simp [e])))]
  split
  · exact hset.trans (Dev.RegsOutside.rejectAt _ r i (by simp))
  · exact hset

/-- What a field of the written register reads as after the write. -/
theorem Dev.writeFields_get (d : Dev) (g : Fld) (i : Nat) (hi : i < 1024) (hrej : g.reg ≠ .MMC_CFG_REJ) (hg : g.lo + g.width ≤ 64)
    (locked : Bool) (w : RegWr) : ∃ acts, (d.writeFields g.reg i locked w).get g i = field (g.reg.fields.foldl (fun acc f =>
      fieldWrite f locked acts (lanesMask w.lanes) w.value.toNat (d.reg g.reg i) acc) (d.reg g.reg i, false)).1 g.lo g.width := by
  unfold Dev.writeFields Dev.writeFieldsAs
  simp only
  refine ⟨g.reg.fields.any (fun f => f.type = .wo && (w.value.toNat &&& f.mask &&& lanesMask w.lanes) ≠ 0), ?_⟩
  generalize g.reg.fields.foldl _ _ = p
  have hset : (d.setReg g.reg i p.1).get g i = field p.1 g.lo g.width := (get_setReg_self d g i p.1).trans (field_mod hg)
  split
  · exact (Dev.RegsOutside.rejectAt _ g.reg i (rs := [.MMC_CFG_REJ]) (by simp) g i hi (by simpa using hrej)).trans hset
  · exact hset

/-- A field that no field of its register overlaps but those that keep their values is left by a write. -/
theorem Dev.writeFields_keeps (d : Dev) (g : Fld) (i : Nat) (hi : i < 1024) (hrej : g.reg ≠ .MMC_CFG_REJ) (hg : g.lo + g.width ≤ 64)
    (locked : Bool) (w : RegWr) (h : g.reg.fields.all (fun f => f.apart g || f.keeps locked) = true) :
    (d.writeFields g.reg i locked w).get g i = d.get g i := by
  obtain ⟨acts, hget⟩ := d.writeFields_get g i hi hrej hg locked w
  rw [hget, fieldWrites_outside]
  · rfl
  · intro f hf
    have := List.all_eq_true.mp h f hf
    simpa using this

/-- A field that software may write, in one half of its register: a write that carries it sets it, another leaves it (R12, R16). -/
theorem Dev.writeFields_takes (d : Dev) (g : Fld) (i : Nat) (hi : i < 1024) (hrej : g.reg ≠ .MMC_CFG_REJ)
    (hg : g.lo + g.width ≤ 32 ∨ 32 ≤ g.lo ∧ g.lo + g.width ≤ 64) (locked : Bool) (w : RegWr)
    (ht : g.type = .rw ∨ g.type = .rwl ∧ locked = false) (hin : g ∈ g.reg.fields)
    (h : g.reg.fields.all (fun f => f = g || f.apart g) = true) :
    (d.writeFields g.reg i locked w).get g i = if wrCarries w g then wrGet w g else d.get g i := by
  obtain ⟨acts, hget⟩ := d.writeFields_get g i hi hrej (by omega) locked w
  rw [hget]
  cases hc : wrCarries w g with
  | true =>
    have hm : ∀ k < g.width, (lanesMask w.lanes).testBit (g.lo + k) = true := fun k hk => (lanesMask_half w.lanes hg hk).trans hc
    rw [fieldWrites_takes ht hm _ _ hin (fun f hf => by simpa using List.all_eq_true.mp h f hf), if_pos rfl, wrGet_of_carries hg hc]
  | false =>
    have hm : ∀ k < g.width, (lanesMask w.lanes).testBit (g.lo + k) = false := fun k hk => (lanesMask_half w.lanes hg hk).trans hc
    rw [fieldWrites_unmasked hm]
    rfl

/-! ### Registers alone -/

namespace Dev.onlyRegs

theorem refl (d : Dev) : d.onlyRegs d := rfl

theorem trans {a b c : Dev} (h : a.onlyRegs b) (g : b.onlyRegs c) : a.onlyRegs c := by
  unfold Dev.onlyRegs at *
  rw [g, h]

theorem mmc {a b : Dev} (h : a.onlyRegs b) : b.mmc = a.mmc := by rw [h]
theorem keep {a b : Dev} (h : a.onlyRegs b) : b.keep = a.keep := by rw [h]
theorem ctx {a b : Dev} (h : a.onlyRegs b) : b.ctx = a.ctx := by rw [h]
theorem pwr {a b : Dev} (h : a.onlyRegs b) : b.pwr = a.pwr := by rw [h]

theorem setReg (d : Dev) (r : RegName) (i v : Nat) : d.onlyRegs (d.setReg r i v) := rfl

theorem put (d : Dev) (f : Fld) (v i : Nat) : d.onlyRegs (d.put f v i) := setReg d _ _ _

theorem count (d : Dev) (f : Fld) (i n : Nat) : d.onlyRegs (d.count f i n) := put d f _ i

theorem rejectAt (d : Dev) (r : RegName) (i : Nat) : d.onlyRegs (d.rejectAt r i) := by
  unfold Dev.rejectAt Dev.reject
  exact ((count d _ _ _).trans (put _ _ _ _)).trans (put _ _ _ _)

theorem writeFields (d : Dev) (r : RegName) (i : Nat) (locked : Bool) (w : RegWr) : d.onlyRegs (d.writeFields r i locked w) := by
  unfold Dev.writeFields Dev.writeFieldsAs
  simp only
  generalize r.fields.foldl _ _ = p
  split
  · exact (setReg d r i p.1).trans (rejectAt _ r i)
  · exact setReg d r i p.1

end Dev.onlyRegs

end Sys2Proof.Machine
end

section
/-! Alarms (R499 to R501): what CLAMP and ERASE leave of the contexts, the key store and the registers of the Keeper. -/

namespace Sys2Proof.Machine

open Sys2Proof.Laws

/-! ### Contexts that halt -/

/-- Stopping cores changes threads and engines alone. -/
theorem Dev.stopCores_frame (d : Dev) (cores : List Nat) : ∃ t e, d.stopCores cores = { d with thr := t, eng := e } := by
  have hone : ∀ (core k : Nat) (d : Dev), ∃ e, d.dropLoadb core k = { d with eng := e } := fun core k d => by
    unfold Dev.dropLoadb
    split
    · split
      · exact ⟨_, rfl⟩
      · exact ⟨d.eng, rfl⟩
    · exact ⟨d.eng, rfl⟩
  have hcore : ∀ (core : Nat) (ks : List Nat) (d : Dev), ∃ e, ks.foldl (fun d k => d.dropLoadb core k) d = { d with eng := e } := by
    intro core ks
    induction ks with
    | nil => exact fun d => ⟨d.eng, rfl⟩
    | cons k ks ih =>
      intro d
      obtain ⟨e, he⟩ := hone core k d
      obtain ⟨e', he'⟩ := ih (d.dropLoadb core k)
      exact ⟨e', by rw [List.foldl_cons, he', he]⟩
  have hcores : ∀ (cs : List Nat) (d : Dev),
      ∃ e, cs.foldl (fun d core => (List.range 4).foldl (fun d k => d.dropLoadb core k) d) d = { d with eng := e } := by
    intro cs
    induction cs with
    | nil => exact fun d => ⟨d.eng, rfl⟩
    | cons core cs ih =>
      intro d
      obtain ⟨e, he⟩ := hcore core (List.range 4) d
      obtain ⟨e', he'⟩ := ih ((List.range 4).foldl (fun d k => d.dropLoadb core k) d)
      exact ⟨e', by rw [List.foldl_cons, he', he]⟩
  obtain ⟨e, he⟩ := hcores cores { d with thr := tblMap Thread.init (fun k t => if cores.contains (k / 8) then t.stop else t) d.thr }
  exact ⟨_, e, he⟩

/-- The registers that a context's halt or end may change beside those of its own rings. -/
def reportRegs : List RegName := [.HOST_CTX_STAT, .MMC_LOG_SEL, .BRY_LS_STAT]

/-- What a context's halt leaves: the other contexts but for their counts, and the registers but those of reports (R445, R449). -/
theorem Dev.haltCtx_leaves (d : Dev) (c : CtxId) (r : Nat) :
    (∀ k, k ≠ c → ((d.haltCtx c r).ctxAt k).uncounted = (d.ctxAt k).uncounted) ∧ d.RegsOutside (d.haltCtx c r) reportRegs := by
  obtain ⟨t, e, hstop⟩ := d.stopCores_frame (d.ctxAt c).cores
  let d1 := ((d.stopCores (d.ctxAt c).cores).dropMoves c)
  have hctx1 : d1.ctx = d.ctx := by simp only [d1, hstop]; rfl
  have hregs1 : d1.regs = d.regs := by simp only [d1, hstop]; rfl
  have h2 := Dev.Reports.finishOp d1 c opHaltAtBeat (if r = haltAtBeatReason then 0 else 0x14)
  generalize hd2 : d1.finishOp c opHaltAtBeat (if r = haltAtBeatReason then 0 else 0x14) = d2 at h2
  have hform : ∃ (g : Ctx → Ctx) (b : Bytes), d.haltCtx c r = ((d2.modCtx c g).event c 5 b).settleModule := by
    subst hd2
    exact ⟨_, _, rfl⟩
  obtain ⟨g, b, hform⟩ := hform
  have h3 := Dev.Reports.event (d2.modCtx c g) c 5 b
  refine ⟨fun k hk => ?_, ?_⟩
  · rw [hform, Dev.settleModule_ctxAt, h3.ctx k, Dev.modCtx_at_ne _ _ hk, h2.ctx k, Dev.ctxAt, hctx1]
    rfl
  · rw [hform]
    refine Dev.RegsOutside.trans (Dev.RegsOutside.of_regs hregs1 _) ?_
    refine Dev.RegsOutside.trans (Dev.RegsOutside.of_reports h2 (by decide) (by decide)) ?_
    refine Dev.RegsOutside.trans (Dev.RegsOutside.of_regs rfl _ : d2.RegsOutside (d2.modCtx c g) _) ?_
    exact (Dev.RegsOutside.of_reports h3 (by decide) (by decide)).trans (Dev.RegsOutside.settleModule _ (by decide))

/-- Several contexts halt, one after another. -/
theorem Dev.haltAll_does (r : Nat) : ∀ (cs : List CtxId) (d : Dev), let e := cs.foldl (fun d c => d.haltCtx c r) d
    (∀ c ∈ cs, (e.ctxAt c).state = .halted) ∧ (∀ c, c ∉ cs → (e.ctxAt c).uncounted = (d.ctxAt c).uncounted)
    ∧ d.RegsOutside e reportRegs
  | [], d => ⟨fun c hc => absurd hc (List.not_mem_nil), fun _ _ => rfl, Dev.RegsOutside.refl d _⟩
  | c :: cs, d => by
    intro e
    obtain ⟨hhalted, hsame, hregs⟩ := Dev.haltAll_does r cs (d.haltCtx c r)
    obtain ⟨hothers, hregs1⟩ := d.haltCtx_leaves c r
    refine ⟨fun k hk => ?_, fun k hk => ?_, hregs1.trans hregs⟩
    · by_cases hin : k ∈ cs
      · exact hhalted k hin
      · have hkc : k = c := (List.mem_cons.mp hk).resolve_right hin
        subst hkc
        exact (uncounted_state (hsame k hin)).trans (d.haltCtx_does k r).1
    · have hne : k ≠ c := fun h => hk (h ▸ List.mem_cons_self)
      exact (hsame k (fun h => hk (List.mem_cons_of_mem _ h))).trans (hothers k hne)

/-! ### CLAMP -/

theorem field_lt (n lo w : Nat) : field n lo w < 2 ^ w := Nat.mod_lt _ (Nat.two_pow_pos w)

/-- What CLAMP does (R500): no context runs, those that did not run keep their records but for their counts, and LEVEL is at least
1. -/
theorem Dev.clamp_does (d : Dev) :
    (∀ c, (d.clamp.ctxAt c).state ≠ .running)
    ∧ (∀ c, (d.ctxAt c).state ≠ .running → (d.clamp.ctxAt c).uncounted = (d.ctxAt c).uncounted)
    ∧ (d.mmc.state = .ready ∨ d.mmc.state = .running ∨ d.mmc.state = .halted → d.clamp.mmc.state = .alarm)
    ∧ d.clamp.get KEEP_ALARM.LEVEL 0 = Nat.max 1 (d.get KEEP_ALARM.LEVEL 0)
    ∧ d.clamp.get KEEP_ALARM.ACTIVE 0 = d.get KEEP_ALARM.ACTIVE 0 := by
  obtain ⟨hhalted, hsame, hregs⟩ := Dev.haltAll_does clampReason (allCtx.filter (fun c => (d.ctxAt c).state = .running)) d
  have hmem : ∀ c, c ∈ allCtx.filter (fun c => (d.ctxAt c).state = .running) ↔ (d.ctxAt c).state = .running := fun c => by
    simp [allCtx]
  generalize hx : (allCtx.filter (fun c => (d.ctxAt c).state = .running)).foldl (fun d c => d.haltCtx c clampReason) d = x
    at hhalted hsame hregs
  obtain ⟨y, hy⟩ : ∃ y, y = x.count KEEP_STAT.CLAMPS := ⟨_, rfl⟩
  obtain ⟨z, hz⟩ : ∃ z, z = y.put KEEP_ALARM.LEVEL (Nat.max 1 (x.get KEEP_ALARM.LEVEL)) := ⟨_, rfl⟩
  have hclamp : d.clamp = if d.mmc.state = .ready || d.mmc.state = .running || d.mmc.state = .halted then
      { z with mmc := { z.mmc with state := .alarm } } else z := by
    subst hz hy hx
    rfl
  have hyregs : d.RegsOutside y (reportRegs ++ [.KEEP_STAT]) := by
    rw [hy]
    exact (hregs.mono (by decide)).trans (Dev.RegsOutside.count x KEEP_STAT.CLAMPS 0 1 (by decide) (by decide))
  have hzctx : z.ctx = x.ctx := by rw [hz, Dev.put_ctx, hy, Dev.count_ctx]
  have hctx : ∀ c, d.clamp.ctxAt c = x.ctxAt c := fun c => by
    rw [Dev.ctxAt, Dev.ctxAt, ← hzctx, hclamp]
    split <;> rfl
  have hget : ∀ f i, d.clamp.get f i = z.get f i := fun f i => by
    rw [hclamp]
    split <;> rfl
  have hlevel : x.get KEEP_ALARM.LEVEL 0 = d.get KEEP_ALARM.LEVEL 0 := hregs _ _ (by decide) (by decide)
  refine ⟨fun c => ?_, fun c hc => ?_, fun hlive => ?_, ?_, ?_⟩
  · rw [hctx]
    by_cases hr : (d.ctxAt c).state = .running
    · rw [hhalted c ((hmem c).mpr hr)]
      decide
    · rw [uncounted_state (hsame c (fun h => hr ((hmem c).mp h)))]
      exact hr
  · rw [hctx]
    exact hsame c (fun h => hc ((hmem c).mp h))
  · rw [hclamp, if_pos (by simpa [or_assoc] using hlive)]
  · have hlt : d.get KEEP_ALARM.LEVEL 0 < 2 ^ KEEP_ALARM.LEVEL.width := field_lt _ _ _
    have hmax : Nat.max 1 (d.get KEEP_ALARM.LEVEL 0) < 2 ^ KEEP_ALARM.LEVEL.width := Nat.max_lt.mpr ⟨by decide, hlt⟩
    rw [hget, hz, get_put_self _ _ _ _ (by decide), hlevel, Nat.mod_eq_of_lt hmax]
  · rw [hget, hz, get_put_field _ KEEP_ALARM.LEVEL KEEP_ALARM.ACTIVE _ _ rfl (by decide) (by decide)]
    exact hyregs _ _ (by decide) (by decide)

/-! ### Trips -/

/-- The device with the time of a glitch remembered (R499). -/
def Dev.glitched (d : Dev) (sensor : Fin 5) (now : Nat) : Dev :=
  if sensor.val = 1 ∨ sensor.val = 2 then d.modKeep (fun k => { k with trips := (sensor.val, now) :: d.recentTrips now }) else d

theorem Dev.glitched_regs (d : Dev) (sensor : Fin 5) (now : Nat) : (d.glitched sensor now).regs = d.regs := by
  unfold Dev.glitched
  split <;> rfl

theorem Dev.glitched_rest (d : Dev) (sensor : Fin 5) (now : Nat) :
    (d.glitched sensor now).ctx = d.ctx ∧ (d.glitched sensor now).mmc = d.mmc := by
  unfold Dev.glitched
  split <;> exact ⟨rfl, rfl⟩

theorem Dev.tripped_eq (d : Dev) (sensor : Fin 5) (now : Nat) : d.tripped sensor now =
    ((((d.glitched sensor now).put KEEP_ALARM.ACTIVE ((d.glitched sensor now).get KEEP_ALARM.ACTIVE ||| 2 ^ sensor.val)).put KEEP_ALARM.SEEN
      (((d.glitched sensor now).put KEEP_ALARM.ACTIVE ((d.glitched sensor now).get KEEP_ALARM.ACTIVE ||| 2 ^ sensor.val)).get KEEP_ALARM.SEEN
        ||| 2 ^ sensor.val)).count KEEP_ALARM.LOGS) := rfl

/-- What a trip's record leaves: the contexts, the module's state, LEVEL. -/
theorem Dev.tripped_leaves (d : Dev) (sensor : Fin 5) (now : Nat) :
    (d.tripped sensor now).ctx = d.ctx ∧ (d.tripped sensor now).mmc = d.mmc
    ∧ (d.tripped sensor now).get KEEP_ALARM.LEVEL 0 = d.get KEEP_ALARM.LEVEL 0 := by
  obtain ⟨hctx, hmmc⟩ := d.glitched_rest sensor now
  have hregs := d.glitched_regs sensor now
  rw [Dev.tripped_eq]
  generalize d.glitched sensor now = e at hctx hmmc hregs
  refine ⟨?_, ?_, ?_⟩
  · rw [Dev.count_ctx, Dev.put_ctx, Dev.put_ctx, hctx]
  · rw [Dev.count_mmc, Dev.put_mmc, Dev.put_mmc, hmmc]
  · rw [Dev.count, get_put_field _ KEEP_ALARM.LOGS KEEP_ALARM.LEVEL _ _ rfl (by decide) (by decide),
      get_put_field _ KEEP_ALARM.SEEN KEEP_ALARM.LEVEL _ _ rfl (by decide) (by decide),
      get_put_field _ KEEP_ALARM.ACTIVE KEEP_ALARM.LEVEL _ _ rfl (by decide) (by decide), Dev.get_of_regs hregs]

/-- A trip adds its sensor to the active ones. -/
theorem Dev.tripped_active (d : Dev) (sensor : Fin 5) (now : Nat) :
    (d.tripped sensor now).get KEEP_ALARM.ACTIVE 0 = d.get KEEP_ALARM.ACTIVE 0 ||| 2 ^ sensor.val := by
  have hregs := d.glitched_regs sensor now
  rw [Dev.tripped_eq]
  generalize d.glitched sensor now = e at hregs
  have hlt : e.get KEEP_ALARM.ACTIVE ||| 2 ^ sensor.val < 2 ^ KEEP_ALARM.ACTIVE.width :=
    Nat.or_lt_two_pow (field_lt _ _ _) (Nat.pow_lt_pow_right (by decide) sensor.isLt)
  rw [Dev.count, get_put_field _ KEEP_ALARM.LOGS KEEP_ALARM.ACTIVE _ _ rfl (by decide) (by decide),
    get_put_field _ KEEP_ALARM.SEEN KEEP_ALARM.ACTIVE _ _ rfl (by decide) (by decide), get_put_self _ _ _ _ (by decide), Nat.mod_eq_of_lt hlt,
    Dev.get_of_regs hregs]

/-- The device once a trip is recorded and reported (R499, R527). -/
def Dev.tripLogged (d : Dev) (sensor : Fin 5) (now : Nat) : Dev := (d.tripped sensor now).logError 5 1 0x8F00 0x0050 4 3 sensor.val

/-- What a trip does by its level (R499, R500). -/
def Dev.tripRes (d : Dev) (f : Fuses) (m : Mem) (sensor : Fin 5) (now : Nat) : Res :=
  if d.tripLevel sensor now = 0 then { dev := d.tripLogged sensor now }
  else if d.tripLevel sensor now = 1 then { dev := (d.tripLogged sensor now).clamp }
  else eraseAct f m (d.tripLogged sensor now).clamp

theorem alarmTrip_answers {s : State} {sensor : Fin 5} {now : W64} {r : Res} {P : State → Prop} (hon : s.dev.mmc.state ≠ .off)
    (hr : s.dev.tripRes s.fuse s.mem sensor now.toNat = r)
    (hP : P { s with fuse := s.fuse.apply r.fuse, mem := s.mem.apply r.mem, dev := r.dev }) : Answers (.alarmTrip sensor now) s P := by
  refine answers_of_act rfl ((if_neg hon).trans (Eq.trans ?_ hr)) hP
  have hlevel : (if (decide (sensor.val = 1) || decide (sensor.val = 2)) && decide (3 ≤ (s.dev.recentTrips now.toNat).length) then 2
      else (s.dev.glitched sensor now.toNat).alarmLevel sensor.val) = s.dev.tripLevel sensor now.toNat := by
    simp only [Dev.tripLevel, Dev.alarmLevel, Dev.get_of_regs (s.dev.glitched_regs sensor now.toNat), Bool.and_eq_true, Bool.or_eq_true,
      decide_eq_true_eq]
  have hglitched : (if (decide (sensor.val = 1) || decide (sensor.val = 2)) = true then
      s.dev.modKeep (fun k => { k with trips := (sensor.val, now.toNat) :: s.dev.recentTrips now.toNat }) else s.dev)
        = s.dev.glitched sensor now.toNat := by
    simp only [Dev.glitched, Bool.or_eq_true, decide_eq_true_eq]
  have hrecent : s.dev.keep.trips.filter (fun t => now.toNat - t.2 ≤ oneSecond) = s.dev.recentTrips now.toNat := rfl
  simp only [hrecent, hglitched, hlevel, ← Dev.tripped_eq]
  rfl

/-! ### ERASE -/

/-- The end of a kill leaves the other contexts but for their counts (R449). -/
theorem Dev.killDone_leaves (d : Dev) (c : CtxId) {k : CtxId} (hk : k ≠ c) :
    ((d.killDone c).ctxAt k).uncounted = (d.ctxAt k).uncounted := by
  have hfree : (d.killFree c).ctx = d.ctx := rfl
  have hreport := (Dev.Reports.killReport (d.killFree c) c).ctx k
  have hclose : ∀ e : Dev, (e.closeRings c).ctx = e.ctx := fun e => by
    have hfold : ∀ (l : List Nat) (e : Dev), (l.foldl (fun d i => d.put HOST_SQ_CFG.EN 0 (c.val * 8 + i)) e).ctx = e.ctx := by
      intro l
      induction l with
      | nil => exact fun e => rfl
      | cons i l ih => exact fun e => by rw [List.foldl_cons, ih, Dev.put_ctx]
    unfold Dev.closeRings
    rw [Dev.modCq_ctx, Dev.put_ctx, hfold]
  rw [Dev.killDone, Dev.settleModule_ctxAt, Dev.modCtx_at_ne _ _ hk, Dev.ctxAt, hclose]
  refine hreport.trans ?_
  rw [Dev.ctxAt, hfree]
  rfl

/-- The kills of a list of contexts end, one after another. -/
theorem Dev.killDoneAll_does : ∀ (cs : List CtxId) (d : Dev),
    let e := cs.foldl (fun d c => if (d.ctxAt c).state = .killing then d.killDone c else d) d
    (∀ c ∈ cs, (d.ctxAt c).state = .killing ∨ (d.ctxAt c).state = .free → (e.ctxAt c).state = .free)
    ∧ (∀ c, c ∉ cs ∨ (d.ctxAt c).state = .free → (e.ctxAt c).state = (d.ctxAt c).state)
  | [], d => ⟨fun c hc => absurd hc (List.not_mem_nil), fun _ _ => rfl⟩
  | c :: cs, d => by
    intro e
    have hstep : ∃ b : Dev, (if (d.ctxAt c).state = .killing then d.killDone c else d) = b
        ∧ ((d.ctxAt c).state = .killing → (b.ctxAt c).state = .free) ∧ ((d.ctxAt c).state ≠ .killing → (b.ctxAt c).state = (d.ctxAt c).state)
        ∧ (∀ k, k ≠ c → (b.ctxAt k).state = (d.ctxAt k).state) := by
      split
      · rename_i hk
        exact ⟨_, rfl, fun _ => (d.killDone_does c).1, fun h => absurd hk h, fun k hkc => uncounted_state (d.killDone_leaves c hkc)⟩
      · rename_i hk
        exact ⟨_, rfl, fun h => absurd h hk, fun _ => rfl, fun _ _ => rfl⟩
    obtain ⟨b, hb, hdone, hstays, hothers⟩ := hstep
    obtain ⟨hfree, hsame⟩ := Dev.killDoneAll_does cs b
    have he : e = cs.foldl (fun d c => if (d.ctxAt c).state = .killing then d.killDone c else d) b := by rw [← hb]; rfl
    rw [← he] at hfree hsame
    refine ⟨fun k hk hst => ?_, fun k hk => ?_⟩
    · by_cases hkc : k = c
      · subst hkc
        have hbfree : (b.ctxAt k).state = .free := by
          rcases hst with h | h
          · exact hdone h
          · rw [hstays (by rw [h]; decide), h]
        exact (hsame k (.inr hbfree)).trans hbfree
      · exact hfree k ((List.mem_cons.mp hk).resolve_left hkc) (by rw [hothers k hkc]; exact hst)
    · by_cases hkc : k = c
      · subst hkc
        have hf : (d.ctxAt k).state = .free := hk.resolve_left (fun h => h List.mem_cons_self)
        have hbfree : (b.ctxAt k).state = .free := by rw [hstays (by rw [hf]; decide), hf]
        rw [hsame k (.inr hbfree), hbfree, hf]
      · have hbk := hothers k hkc
        rw [hsame k (hk.imp (fun h hin => h (List.mem_cons_of_mem _ hin)) (fun h => by rw [hbk]; exact h)), hbk]

/-- Every context is FREE once all are killed and the kills have ended (R500, R507). -/
theorem killOff_frees (n : Nat) (f : Fuses) (m : Mem) (d : Dev) (c : CtxId) : ((killOff allCtx n f m d).dev.ctxAt c).state = .free := by
  obtain ⟨hstate, -, -, -⟩ := killAll_does n allCtx f m d
  have hc : c ∈ allCtx := List.mem_finRange c
  rw [killOff, andThen_dev]
  generalize (killAll allCtx n f m d).dev = k at hstate
  refine (Dev.killDoneAll_does allCtx k).1 c hc ?_
  rw [hstate c]
  by_cases h : (d.ctxAt c).state = .free
  · exact .inr (by simp [h])
  · exact .inl (by simp [h, hc])

/-- The device once the contexts are gone: the key store zeroised, ERASE recorded (R485, R500). -/
def Dev.erase (d : Dev) (erases : Nat) : Dev :=
  ((d.zeroise.modKeep (fun k => { k with erased := true })).put KEEP_ALARM.LEVEL 2).put KEEP_STAT.ERASES (satAdd erases 1 31)

theorem Dev.zeroise_keep (d : Dev) : d.zeroise.keep = { d.keep with slots := [], ctx := [], retired := [], sessions := [], spdm := [] } :=
  Dev.put_keep _ _ _ _

theorem Dev.zeroise_ctx (d : Dev) : d.zeroise.ctx = d.ctx := Dev.put_ctx _ _ _ _

theorem Dev.erase_keep (d : Dev) (n : Nat) :
    (d.erase n).keep = { d.keep with slots := [], ctx := [], retired := [], sessions := [], spdm := [], erased := true } := by
  rw [Dev.erase, Dev.put_keep, Dev.put_keep, Dev.modKeep, Dev.zeroise_keep]

theorem Dev.erase_ctx (d : Dev) (n : Nat) : (d.erase n).ctx = d.ctx := by
  rw [Dev.erase, Dev.put_ctx, Dev.put_ctx, Dev.modKeep, Dev.zeroise_ctx]

theorem Dev.erase_level (d : Dev) (n : Nat) : (d.erase n).get KEEP_ALARM.LEVEL 0 = 2 := by
  rw [Dev.erase, get_put_ne _ _ _ _ _ _ (by decide), get_put_self _ _ _ _ (by decide)]
  decide

/-- What ERASE does (R485, R500): its contexts end, then the key store is zeroised and the fuse is blown. -/
theorem eraseAct_eq (f : Fuses) (m : Mem) (d : Dev) : ∃ es, eraseAct f m d =
    { dev := (killOff allCtx 0x8000 f m d).dev.erase f.erases, mem := es, fuse := [.erase] } := by
  have hfuse : (killOff allCtx 0x8000 f m d).fuse = [] := Act.SparesFuses.killOff _ _ f m d
  refine ⟨(killOff allCtx 0x8000 f m d).mem ++ [], ?_⟩
  unfold eraseAct
  simp only [Act.andThen, hfuse, List.nil_append]
  rfl

end Sys2Proof.Machine
end

section
/-! The alarms' statements (R499 to R501), and what they say of the fuses. -/

namespace Sys2Proof.Machine

open Sys2Proof.Laws

/-- A write that the MMC takes is performed (R524). -/
theorem mgmtAct_manages {d : Dev} {r : RegName} (h : d.Manages r) (i : Nat) (a : Act) (f : Fuses) (m : Mem) :
    mgmtAct r i a f m d = a f m d := by
  obtain ⟨hon, hswitch, hblock⟩ := h
  simp only [mgmtAct, hon, hswitch, hblock, decide_false, Bool.not_true, Bool.or_self, Bool.false_eq_true, if_false]

theorem mgmtDev_manages {d : Dev} {r : RegName} (h : d.Manages r) (i : Nat) (g : Dev → Dev) (f : Fuses) (m : Mem) :
    mgmtDev r i g f m d = { dev := g d } := mgmtAct_manages h i (Act.dev g) f m

/-- A command of the management plane that changes the device alone. -/
theorem mgmtDev_answers {i : Instr} {s : State} {r : RegName} {k : Nat} {g : Dev → Dev} {P : State → Prop} (hm : s.dev.Manages r)
    (he : exec i s = .next (s.run (mgmtDev r k g))) (hP : P (s.withDev (g s.dev))) : Answers i s P :=
  answers_of_dev he (mgmtDev_manages hm k g s.fuse s.mem) hP

/-- A write of KEEP_ALARM leaves the active sensors and LEVEL. -/
theorem Dev.alarm_fields (d : Dev) (w : RegWr) : (d.writeFields .KEEP_ALARM 0 false w).get KEEP_ALARM.ACTIVE 0 = d.get KEEP_ALARM.ACTIVE 0
    ∧ (d.writeFields .KEEP_ALARM 0 false w).get KEEP_ALARM.LEVEL 0 = d.get KEEP_ALARM.LEVEL 0 :=
  ⟨d.writeFields_keeps KEEP_ALARM.ACTIVE 0 (by decide) (by decide) (by decide) false w (by decide),
    d.writeFields_keeps KEEP_ALARM.LEVEL 0 (by decide) (by decide) (by decide) false w (by decide)⟩

theorem Dev.clampHeld_written (d : Dev) (w : RegWr) : (d.writeFields .KEEP_ALARM 0 false w).clampHeld = d.clampHeld := by
  have hcfg : (d.writeFields .KEEP_ALARM 0 false w).get KEEP_ALARM_CFG.LEVEL = d.get KEEP_ALARM_CFG.LEVEL :=
    d.writeFields_outside .KEEP_ALARM 0 (by decide) false w KEEP_ALARM_CFG.LEVEL 0 (by decide) (by decide)
  simp only [Dev.clampHeld, Dev.alarmLevel, hcfg, (d.alarm_fields w).1]
  rfl

/-- The write of KEEP_ALARM by whether a sensor still holds CLAMP (R501). -/
theorem Dev.alarmWrite_of_clear {d : Dev} {w : RegWr} (hclear : wrSets w KEEP_ALARM.CLEAR = true) :
    d.alarmWrite w = if d.clampHeld then (d.writeFields .KEEP_ALARM 0 false w).rejectAt .KEEP_ALARM 0
      else if d.mmc.state = .alarm ∧ d.get KEEP_ALARM.LEVEL = 1 then
        ({ d.writeFields .KEEP_ALARM 0 false w with
            mmc := { d.mmc with state := (d.writeFields .KEEP_ALARM 0 false w).impliedState } }).put KEEP_ALARM.LEVEL 0
      else d.writeFields .KEEP_ALARM 0 false w := by
  have hheld := d.clampHeld_written w
  have hlevel := (d.alarm_fields w).2
  have hmmc : (d.writeFields .KEEP_ALARM 0 false w).mmc = d.mmc := (Dev.onlyRegs.writeFields d .KEEP_ALARM 0 false w).mmc
  unfold Dev.alarmWrite
  generalize d.writeFields .KEEP_ALARM 0 false w = e at hheld hlevel hmmc
  rw [← hheld, ← hmmc, ← hlevel]
  simp only [hclear, Bool.not_true, Bool.false_eq_true, if_false, Bool.and_eq_true, decide_eq_true_eq]
  rfl

/-- The contexts alone say what the module's state follows. -/
theorem Dev.impliedState_of_ctx {a b : Dev} (h : a.ctx = b.ctx) : a.impliedState = b.impliedState := by
  simp only [Dev.impliedState, Dev.ctxAt, h]
  rfl

/-- CLEAR where no sensor holds CLAMP (R501). -/
theorem Dev.alarmWrite_ends {d : Dev} {w : RegWr} (hclear : wrSets w KEEP_ALARM.CLEAR = true) (hheld : d.clampHeld = false)
    (hstate : d.mmc.state = .alarm) (hlevel : d.get KEEP_ALARM.LEVEL 0 = 1) :
    (d.alarmWrite w).mmc.state = d.impliedState ∧ (d.alarmWrite w).get KEEP_ALARM.LEVEL 0 = 0 ∧ (d.alarmWrite w).ctx = d.ctx := by
  have hctx : (d.writeFields .KEEP_ALARM 0 false w).ctx = d.ctx := (Dev.onlyRegs.writeFields d .KEEP_ALARM 0 false w).ctx
  rw [Dev.alarmWrite_of_clear hclear, if_neg (by rw [hheld]; decide), if_pos ⟨hstate, hlevel⟩]
  generalize d.writeFields .KEEP_ALARM 0 false w = e at hctx
  refine ⟨?_, ?_, ?_⟩
  · rw [Dev.put_mmc]
    exact Dev.impliedState_of_ctx hctx
  · rw [get_put_self _ _ _ _ (by decide)]
    decide
  · rw [Dev.put_ctx]
    exact hctx

/-- The levels after a write of KEEP_ALARM_CFG (R499). -/
theorem Dev.alarmCfgWrite_level (d : Dev) (w : RegWr) : (d.alarmCfgWrite w).get KEEP_ALARM_CFG.LEVEL 0 =
    if wrCarries w KEEP_ALARM_CFG.LEVEL = true ∧ d.flag KEEP_ALARM_CFG.COMMITTED = false ∧ levelsLegal (wrGet w KEEP_ALARM_CFG.LEVEL) = true
    then wrGet w KEEP_ALARM_CFG.LEVEL else d.get KEEP_ALARM_CFG.LEVEL 0 := by
  have hput : ∀ e : Dev, (if wrSets w KEEP_ALARM_CFG.COMMIT then e.put KEEP_ALARM_CFG.COMMITTED 1 else e).get KEEP_ALARM_CFG.LEVEL 0
      = e.get KEEP_ALARM_CFG.LEVEL 0 := fun e => by
    split
    · exact get_put_field _ _ _ _ _ rfl (by decide) (by decide)
    · rfl
  have hreject : (d.rejectAt .KEEP_ALARM_CFG 0).get KEEP_ALARM_CFG.LEVEL 0 = d.get KEEP_ALARM_CFG.LEVEL 0 :=
    Dev.RegsOutside.rejectAt d _ 0 (rs := [.MMC_CFG_REJ]) (by decide) _ _ (by decide) (by decide)
  have hlocked : (d.writeFields .KEEP_ALARM_CFG 0 true w).get KEEP_ALARM_CFG.LEVEL 0 = d.get KEEP_ALARM_CFG.LEVEL 0 :=
    d.writeFields_keeps KEEP_ALARM_CFG.LEVEL 0 (by decide) (by decide) (by decide) true w (by decide)
  have hopen : (d.writeFields .KEEP_ALARM_CFG 0 false w).get KEEP_ALARM_CFG.LEVEL 0
      = if wrCarries w KEEP_ALARM_CFG.LEVEL then wrGet w KEEP_ALARM_CFG.LEVEL else d.get KEEP_ALARM_CFG.LEVEL 0 :=
    d.writeFields_takes KEEP_ALARM_CFG.LEVEL 0 (by decide) (by decide) (by decide) false w (by decide) (by decide) (by decide)
  unfold Dev.alarmCfgWrite
  simp only [hput]
  cases hc : wrCarries w KEEP_ALARM_CFG.LEVEL <;> cases hl : d.flag KEEP_ALARM_CFG.COMMITTED <;>
    cases hlegal : levelsLegal (wrGet w KEEP_ALARM_CFG.LEVEL) <;> simp [hreject, hlocked, hopen, hc]

end Sys2Proof.Machine

namespace Sys2Proof.Proofs

open Sys2Proof.Machine Sys2Proof.Laws

/-- Settles O18: a trip by its level - what its record, CLAMP and ERASE leave -, CLEAR by whether a sensor holds CLAMP, COMMIT by
whether the levels were locked. -/
theorem alarm : Obligations.Alarm := by
  unfold Obligations.Alarm
  refine ⟨⟨fun sensor now s hon h0 => ?_, fun sensor now s hon h1 => ?_, fun sensor s => answers_of_dev rfl rfl rfl,
    fun w s hm hclear => ⟨fun hheld hstate hlevel => ?_, fun hheld => ?_⟩, fun w s hm hcommit => ?_⟩, fun sensor now s hon h2 => ?_⟩
  · exact alarmTrip_answers hon (if_pos h0) ⟨⟨rfl, rfl, rfl⟩, Dev.Reports.logError _ _ _ _ _ _ _ _⟩
  · have hres : s.dev.tripRes s.fuse s.mem sensor now.toNat = { dev := (s.dev.tripLogged sensor now.toNat).clamp } := by
      rw [Dev.tripRes, if_neg (by rw [h1]; decide), if_pos h1]
    obtain ⟨hctx, hmmc, hlevel⟩ := s.dev.tripped_leaves sensor now.toNat
    have hactive := s.dev.tripped_active sensor now.toNat
    have hlogged : Dev.Reports (s.dev.tripped sensor now.toNat) (s.dev.tripLogged sensor now.toNat) := Dev.Reports.logError _ _ _ _ _ _ _ _
    obtain ⟨hnone, hrest, halarm, hclevel, hcactive⟩ := (s.dev.tripLogged sensor now.toNat).clamp_does
    have hat : ∀ c, ((s.dev.tripLogged sensor now.toNat).ctxAt c).uncounted = (s.dev.ctxAt c).uncounted := fun c => by
      rw [hlogged.ctx c, Dev.ctxAt, hctx]
      rfl
    have hstate : (s.dev.tripLogged sensor now.toNat).mmc.state = s.dev.mmc.state := by
      rw [← hmmc]
      have hsame := congrArg Mmc.state hlogged.mmc
      exact hsame
    refine alarmTrip_answers hon hres ⟨⟨rfl, rfl, rfl⟩, hnone, fun c hc => ?_, fun hlive => halarm (by rw [hstate]; exact hlive), ?_, ?_⟩
    · exact (hrest c (by rw [uncounted_state (hat c)]; exact hc)).trans (hat c)
    · exact hclevel.trans (by rw [hlogged.regs _ _ (by decide) (by decide) (by decide), hlevel])
    · exact hcactive.trans (by rw [hlogged.regs _ _ (by decide) (by decide) (by decide), hactive])
  · exact mgmtDev_answers hm rfl ⟨⟨rfl, rfl, rfl⟩, Dev.alarmWrite_ends hclear hheld hstate hlevel⟩
  · exact mgmtDev_answers hm rfl (congrArg s.withDev (by rw [Dev.alarmWrite_of_clear hclear, if_pos hheld]))
  · refine mgmtDev_answers hm rfl ⟨⟨rfl, rfl, rfl⟩, ?_, fun hlocked => ?_, fun hlegal => ?_⟩
    · show (s.dev.alarmCfgWrite w).flag KEEP_ALARM_CFG.COMMITTED 0 = true
      rw [Dev.alarmCfgWrite, if_pos hcommit, Dev.flag, get_put_self _ _ _ _ (by decide)]
      decide
    · show (s.dev.alarmCfgWrite w).get KEEP_ALARM_CFG.LEVEL 0 = _
      rw [Dev.alarmCfgWrite_level, if_neg (by simp [hlocked])]
    · show levelsLegal ((s.dev.alarmCfgWrite w).get KEEP_ALARM_CFG.LEVEL 0) = true
      rw [Dev.alarmCfgWrite_level]
      split
      · rename_i hnew
        exact hnew.2.2
      · exact hlegal
  · have hres : s.dev.tripRes s.fuse s.mem sensor now.toNat = eraseAct s.fuse s.mem (s.dev.tripLogged sensor now.toNat).clamp := by
      rw [Dev.tripRes, if_neg (by rw [h2]; decide), if_neg (by rw [h2]; decide)]
    obtain ⟨es, herase⟩ := eraseAct_eq s.fuse s.mem (s.dev.tripLogged sensor now.toNat).clamp
    have hfree := killOff_frees 0x8000 s.fuse s.mem (s.dev.tripLogged sensor now.toNat).clamp
    rw [herase] at hres
    generalize (killOff allCtx 0x8000 s.fuse s.mem (s.dev.tripLogged sensor now.toNat).clamp).dev = k at hres hfree
    refine alarmTrip_answers hon hres ⟨rfl, ?_, ?_, ?_, ?_, fun c => ?_, Dev.erase_level k _, ?_, rfl, rfl⟩
    · simp only [Dev.erase_keep]
    · simp only [Dev.erase_keep]
    · simp only [Dev.erase_keep]
    · simp only [Dev.erase_keep]
    · simp only [Dev.ctxAt, Dev.erase_ctx]
      exact hfree c
    · simp only [Dev.erase_keep]

/-! ### A fuse count out of range -/

/-- A module in STANDBY whose ERASE count stands at 40, beyond its range of 31, with a glitch of the first sensor waiting. -/
def overblownState : State :=
  { State.reset with
    fuse := { State.reset.fuse with erases := 40 }
    pending := [.alarmTrip 0 0]
    dev := { Dev.init with mmc := { Mmc.init with state := .standby } } }

theorem overblown_level : overblownState.dev.tripLevel 0 0 = 2 := by decide

/-- Refutes O57: it speaks of every state, also of one whose fused ERASE count stands beyond its 31.  There the trip of a sensor at
level 2 sets the count, which saturates at 31, from 40 to 31. -/
theorem not_fusesOnlyRise : ¬ Obligations.FusesOnlyRise := by
  unfold Obligations.FusesOnlyRise
  intro h
  obtain ⟨-, herase⟩ := alarm
  obtain ⟨t, hexec, -, -, -, -, -, -, -, -, herases, -⟩ :=
    herase 0 0 { overblownState with pending := [] } (by decide) overblown_level
  have hstep : step overblownState = .next t := hexec
  obtain ⟨⟨-, hle⟩, -⟩ := h overblownState t hstep
  have hbefore : overblownState.fuse.erases = 40 := rfl
  have hafter : t.fuse.erases = 31 := herases
  omega

end Sys2Proof.Proofs
end

section
/-! Debug unlock and the fused minimum SVNs (R488, R502, R503, R506). -/

namespace Sys2Proof.Machine

open Sys2Proof.Laws

/-- A command that changes the device alone, by what the device is afterwards. -/
theorem answers_device {i : Instr} {s : State} {a : Act} {d : Dev} {P : State → Prop} (he : exec i s = .next (s.run a))
    (ha : a s.fuse s.mem s.dev = { dev := d }) (hP : ∀ t, s.onlyDev t → t.dev = d → P t) : Answers i s P :=
  answers_of_dev he ha (hP _ ⟨rfl, rfl, rfl⟩ rfl)

/-! ### What killing contexts leaves of the Keeper -/

/-- A device whose nonce has the validity `v`. -/
def Dev.NonceIs (v : Bool) (d : Dev) : Prop := d.keep.nonceValid = v

theorem Dev.NonceIs.of_keep {v : Bool} {a b : Dev} (h : a.NonceIs v) (e : b.keep = a.keep) : b.NonceIs v := by
  unfold Dev.NonceIs at *
  rw [e]
  exact h

theorem Dev.NonceIs.revoke {v : Bool} {d : Dev} (h : d.NonceIs v) (i : Nat) (c : CtxId) : (d.revoke i c).NonceIs v := by
  unfold Dev.revoke
  split
  · exact h
  · simp only
    split
    · exact h
    · exact h

theorem Dev.NonceIs.dropKeys {v : Bool} {d : Dev} (h : d.NonceIs v) (c : CtxId) : (d.dropKeys c).NonceIs v := by
  unfold Dev.dropKeys
  simp only
  refine foldl_keeps (P := Dev.NonceIs v) (fun b i hb => ?_) _ _ ?_
  · split
    · exact hb.revoke i c
    · exact hb
  · split
    · exact h
    · exact h

theorem Dev.NonceIs.kill {v : Bool} {d : Dev} (h : d.NonceIs v) (c : CtxId) (n : Nat) (x : Option Fetched) : (d.kill c n x).1.NonceIs v := by
  unfold Dev.kill
  simp only
  split
  · exact h
  · have habort : ((match x with | some f => d.dropFetched f | none => d).abortAll c).NonceIs v := by
      cases x with
      | none => exact h.of_keep (Dev.Reports.abortAll d c).keep
      | some f => exact h.of_keep ((Dev.Reports.dropFetched d f).trans (Dev.Reports.abortAll _ c)).keep
    have hwipe : ∀ (b : Dev) (k : Nat), b.NonceIs v → (b.wipeCore k).NonceIs v := fun b k hb => hb.of_keep rfl
    have hqueue : ∀ (b : Dev), b.NonceIs v → (b.dropEthQueues c).NonceIs v := fun b hb => by
      unfold Dev.dropEthQueues
      refine foldl_keeps (P := Dev.NonceIs v) (fun b i hb => ?_) _ _ hb
      split
      · exact hb.of_keep rfl
      · exact hb
    have hwiped := foldl_keeps (P := Dev.NonceIs v) hwipe (d.ctxAt c).cores _ habort
    have hsettle : ∀ b : Dev, b.NonceIs v → b.settleModule.NonceIs v := fun b hb => by
      obtain ⟨r, st, e⟩ := b.settleModule_changes
      exact hb.of_keep (by rw [e])
    exact hsettle _ (hqueue _ (hwiped.dropKeys c))

theorem killAll_nonce {v : Bool} (n : Nat) : ∀ (cs : List CtxId) (f : Fuses) (m : Mem) (d : Dev), d.NonceIs v →
    (killAll cs n f m d).dev.NonceIs v
  | [], _, _, _, h => h
  | c :: cs, f, m, d, h => killAll_nonce n cs f (m.apply (d.kill c n none).2) (d.kill c n none).1 (h.kill c n none)

/-! ### Tokens -/

/-- A write of KEEP_DBG_CTL leaves what a token is checked against. -/
theorem Dev.token_written (d : Dev) (w : RegWr) : (d.writeFields .KEEP_DBG_CTL 0 false w).token = d.token
    ∧ (d.writeFields .KEEP_DBG_CTL 0 false w).tokenCheck d.token = d.tokenCheck d.token := by
  have hkeep : (d.writeFields .KEEP_DBG_CTL 0 false w).keep = d.keep := (Dev.onlyRegs.writeFields d .KEEP_DBG_CTL 0 false w).keep
  have hserial : (d.writeFields .KEEP_DBG_CTL 0 false w).get BRY_SERIAL.SERIAL = d.get BRY_SERIAL.SERIAL :=
    d.writeFields_outside .KEEP_DBG_CTL 0 (by decide) false w BRY_SERIAL.SERIAL 0 (by decide) (by decide)
  generalize d.writeFields .KEEP_DBG_CTL 0 false w = e at hkeep hserial
  refine ⟨?_, ?_⟩
  · simp only [Dev.token, hkeep]
  · simp only [Dev.tokenCheck, Dev.keysAt, hkeep, hserial]

theorem Dev.tokenCheck_lt (d : Dev) (t : Bytes) : d.tokenCheck t < 2 ^ KEEP_DBG_CTL.RESULT.width := by
  show _ < 8
  unfold Dev.tokenCheck
  simp only
  split <;> try omega
  split <;> try omega
  split <;> try omega
  split <;> try omega
  split
  · split <;> try omega
    split <;> omega
  · split <;> omega

/-- The answer to a SUBMIT without a LOCK (R502, R503). -/
def Dev.submitRes (f : Fuses) (m : Mem) (d e : Dev) : Res :=
  let r := d.tokenCheck d.token
  let e := e.put KEEP_DBG_CTL.RESULT r
  if r ≠ 1 then { dev := (e.count KEEP_DBG_CTL.FAILS).modKeep (fun k => { k with lockout := true }) }
  else
    let e := e.modKeep (fun k => { k with nonceValid := false })
    if rdb d.token 2 = 1 then
      if d.keep.debug = .module then { dev := e }
      else
        { dev := ((e.modKeep (fun k => { k with debug := .context (Fin.ofNat 64 (rdb d.token 3)) })).put KEEP_DBG_CTL.OPEN 1).put
            KEEP_DBG_CTL.CONTEXT (Fin.ofNat 64 (rdb d.token 3)).val }
    else
      ((killAll allCtx 0x8000).andThen (Act.dev (fun d =>
        ((d.modKeep (fun k => { k with debug := .module, moduleDebug := true })).put KEEP_DBG_CTL.OPEN 2).put
          KEEP_STAT.MODULE_DEBUG 1))) f m e

theorem debugWrite_submits {d : Dev} {w : RegWr} (hm : d.Manages .KEEP_DBG_CTL) (hs : wrSets w KEEP_DBG_CTL.SUBMIT = true)
    (hl : wrSets w KEEP_DBG_CTL.LOCK = false) (f : Fuses) (m : Mem) :
    debugWrite w f m d = d.submitRes f m (d.writeFields .KEEP_DBG_CTL 0 false w) := by
  obtain ⟨htoken, hcheck⟩ := d.token_written w
  have hkeep : (d.writeFields .KEEP_DBG_CTL 0 false w).keep = d.keep := (Dev.onlyRegs.writeFields d .KEEP_DBG_CTL 0 false w).keep
  rw [debugWrite, mgmtAct_manages hm]
  generalize d.writeFields .KEEP_DBG_CTL 0 false w = e at htoken hcheck hkeep
  simp only [hl, hs, Bool.false_and, Bool.false_eq_true, if_false, Bool.not_true, htoken, hcheck, Dev.submitRes, ← hkeep]
  rfl

theorem debugWrite_locks {d : Dev} {w : RegWr} (hm : d.Manages .KEEP_DBG_CTL) (hs : wrSets w KEEP_DBG_CTL.SUBMIT = false)
    (hl : wrSets w KEEP_DBG_CTL.LOCK = true) (hopen : d.keep.debug ≠ .module) (f : Fuses) (m : Mem) :
    debugWrite w f m d
      = { dev := ((d.writeFields .KEEP_DBG_CTL 0 false w).modKeep (fun k => { k with debug := .locked })).put KEEP_DBG_CTL.OPEN 0 } := by
  have hkeep : (d.writeFields .KEEP_DBG_CTL 0 false w).keep = d.keep := (Dev.onlyRegs.writeFields d .KEEP_DBG_CTL 0 false w).keep
  rw [debugWrite, mgmtAct_manages hm]
  generalize d.writeFields .KEEP_DBG_CTL 0 false w = e at hkeep
  simp only [hl, hs, hkeep, hopen, ne_eq, not_false_eq_true, decide_true, Bool.and_self, if_true, Bool.not_false]

/-- The module's view opens: every context is killed (R502). -/
theorem moduleDebug_does (f : Fuses) (m : Mem) (e : Dev) :
    let r := ((killAll allCtx 0x8000).andThen (Act.dev (fun d =>
      ((d.modKeep (fun k => { k with debug := .module, moduleDebug := true })).put KEEP_DBG_CTL.OPEN 2).put KEEP_STAT.MODULE_DEBUG 1))) f m e
    r.fuse = [] ∧ r.dev.keep.debug = .module ∧ r.dev.keep.moduleDebug = true ∧ (e.keep.nonceValid = false → r.dev.keep.nonceValid = false)
      ∧ e.KillsOnly r.dev (fun _ => True) := by
  obtain ⟨hstate, hrest, -, -⟩ := killAll_does 0x8000 allCtx f m e
  have hfuse := Act.SparesFuses.andThen (Act.SparesFuses.killAll allCtx 0x8000) (Act.SparesFuses.dev (fun d : Dev =>
    ((d.modKeep (fun k => { k with debug := .module, moduleDebug := true })).put KEEP_DBG_CTL.OPEN 2).put KEEP_STAT.MODULE_DEBUG 1)) f m e
  have hnonce : e.NonceIs false → (killAll allCtx 0x8000 f m e).dev.NonceIs false := killAll_nonce _ _ _ _ _
  have hdev : (((killAll allCtx 0x8000).andThen (Act.dev (fun d : Dev =>
      ((d.modKeep (fun k => { k with debug := .module, moduleDebug := true })).put KEEP_DBG_CTL.OPEN 2).put KEEP_STAT.MODULE_DEBUG 1))) f m e).dev
      = (((killAll allCtx 0x8000 f m e).dev.modKeep (fun k => { k with debug := .module, moduleDebug := true })).put
        KEEP_DBG_CTL.OPEN 2).put KEEP_STAT.MODULE_DEBUG 1 := andThen_dev _ _ _ _ _
  simp only
  rw [hdev]
  generalize (killAll allCtx 0x8000 f m e).dev = k at hstate hrest hnonce
  refine ⟨hfuse, ?_, ?_, ?_, fun c _ hlive => ?_, fun c hc => ?_⟩
  · rw [Dev.put_keep, Dev.put_keep]; rfl
  · rw [Dev.put_keep, Dev.put_keep]; rfl
  · rw [Dev.put_keep, Dev.put_keep]; exact hnonce
  · have h := hstate c
    rw [if_pos ⟨by simp [allCtx], hlive⟩] at h
    simpa only [Dev.ctxAt, Dev.put_ctx, Dev.modKeep] using h
  · have h := hrest c (.inr (hc.resolve_left (fun h => h trivial)))
    simpa only [Dev.ctxAt, Dev.put_ctx, Dev.modKeep] using h

theorem Dev.submit_context (d : Dev) (f : Fuses) (m : Mem) (e : Dev) (hok : d.tokenCheck d.token = 1) (hlevel : rdb d.token 2 = 1)
    (hopen : d.keep.debug ≠ .module) : d.submitRes f m e
      = { dev := (((e.put KEEP_DBG_CTL.RESULT 1).modKeep (fun k => { k with nonceValid := false })).modKeep
          (fun k => { k with debug := .context (Fin.ofNat 64 (rdb d.token 3)) })).put KEEP_DBG_CTL.OPEN 1 |>.put
            KEEP_DBG_CTL.CONTEXT (Fin.ofNat 64 (rdb d.token 3)).val } := by
  simp only [Dev.submitRes, hok, hlevel, hopen, ne_eq, not_true_eq_false, if_false, if_true]

theorem Dev.submit_fails (d : Dev) (f : Fuses) (m : Mem) (e : Dev) (hbad : d.tokenCheck d.token ≠ 1) : d.submitRes f m e
    = { dev := ((e.put KEEP_DBG_CTL.RESULT (d.tokenCheck d.token)).count KEEP_DBG_CTL.FAILS).modKeep (fun k => { k with lockout := true }) } :=
  if_pos hbad

theorem Dev.tokenFailed_result (e : Dev) {r : Nat} (hr : r < 2 ^ KEEP_DBG_CTL.RESULT.width) (g : Keeper → Keeper) :
    (((e.put KEEP_DBG_CTL.RESULT r).count KEEP_DBG_CTL.FAILS).modKeep g).get KEEP_DBG_CTL.RESULT 0 = r := by
  have hregs : ∀ b : Dev, (b.modKeep g).get KEEP_DBG_CTL.RESULT 0 = b.get KEEP_DBG_CTL.RESULT 0 := fun b => Dev.get_of_regs rfl _ _
  have hcount : ∀ b : Dev, (b.count KEEP_DBG_CTL.FAILS).get KEEP_DBG_CTL.RESULT 0 = b.get KEEP_DBG_CTL.RESULT 0 := fun b =>
    get_put_field b KEEP_DBG_CTL.FAILS KEEP_DBG_CTL.RESULT _ 0 rfl (by decide) (by decide)
  rw [hregs, hcount, get_put_self _ _ _ _ (by decide), Nat.mod_eq_of_lt hr]

theorem Dev.KillsOnly.of_ctx {a b c : Dev} {p : CtxId → Prop} (h : a.KillsOnly c p) (e : b.ctx = a.ctx) : b.KillsOnly c p := by
  unfold Dev.KillsOnly Dev.ctxAt at *
  rw [e]
  exact h

theorem Dev.submit_module (d : Dev) (f : Fuses) (m : Mem) (e : Dev) (hok : d.tokenCheck d.token = 1) (hlevel : rdb d.token 2 = 2) :
    (d.submitRes f m e).fuse = [] ∧ (d.submitRes f m e).dev.keep.debug = .module ∧ (d.submitRes f m e).dev.keep.moduleDebug = true
      ∧ (d.submitRes f m e).dev.keep.nonceValid = false ∧ e.KillsOnly (d.submitRes f m e).dev (fun _ => True) := by
  have hres : d.submitRes f m e = ((killAll allCtx 0x8000).andThen (Act.dev (fun d : Dev =>
      ((d.modKeep (fun k => { k with debug := .module, moduleDebug := true })).put KEEP_DBG_CTL.OPEN 2).put KEEP_STAT.MODULE_DEBUG 1))) f m
        ((e.put KEEP_DBG_CTL.RESULT 1).modKeep (fun k => { k with nonceValid := false })) := by
    simp only [Dev.submitRes, hok, hlevel, ne_eq, not_true_eq_false, if_false, show ¬ (2 = 1) by decide]
  obtain ⟨hfuse, hdebug, hmodule, hnonce, hkills⟩ :=
    moduleDebug_does f m ((e.put KEEP_DBG_CTL.RESULT 1).modKeep (fun k => { k with nonceValid := false }))
  rw [hres]
  exact ⟨hfuse, hdebug, hmodule, hnonce rfl, hkills.of_ctx (Dev.put_ctx e KEEP_DBG_CTL.RESULT 1 0)⟩

/-! ### The fused minimum SVNs -/

/-- What raising the minimum of several kinds, each to a value of its own, leaves of the fuses (R488). -/
theorem Fuses.apply_raises (v : Nat → Nat) : ∀ (ks : List Nat), ks.Nodup → ∀ f : Fuses,
    (f.apply (ks.map (fun k => .raiseSvn k (v k)))).erases = f.erases
      ∧ ∀ k, (f.apply (ks.map (fun k => .raiseSvn k (v k)))).minSvn k = if k ∈ ks then Nat.max (f.minSvn k) (v k) else f.minSvn k
  | [], _, _ => ⟨rfl, fun _ => rfl⟩
  | j :: ks, hnd, f => by
    obtain ⟨hj, hks⟩ := List.nodup_cons.mp hnd
    obtain ⟨herase, hmin⟩ := apply_raises v ks hks (f.eff (.raiseSvn j (v j)))
    refine ⟨herase, fun k => (hmin k).trans ?_⟩
    have hat : (f.eff (.raiseSvn j (v j))).minSvn k = if k = j then Nat.max (f.minSvn j) (v j) else f.minSvn k := by
      by_cases e : k = j
      · subst e
        rw [if_pos rfl]
        exact tblGet_set_self ..
      · rw [if_neg e]
        exact tblGet_set_ne e
    rw [hat]
    by_cases e : k = j
    · subst e
      simp [hj]
    · simp [e]

theorem mem_bitsOf {n w k : Nat} : k ∈ bitsOf n w ↔ bit n k = true ∧ k < w := by
  simp [bitsOf, and_comm]

theorem Dev.runSlot_written (d : Dev) (w : RegWr) (k : Nat) :
    (d.writeFields .KEEP_BOOT 0 false w).slotAtFlash k ((d.writeFields .KEEP_BOOT 0 false w).runSlot k) = d.slotAtFlash k (d.runSlot k) := by
  have hmmc : (d.writeFields .KEEP_BOOT 0 false w).mmc = d.mmc := (Dev.onlyRegs.writeFields d .KEEP_BOOT 0 false w).mmc
  have hrun : (d.writeFields .KEEP_BOOT 0 false w).get KEEP_BOOT.RUN = d.get KEEP_BOOT.RUN :=
    d.writeFields_keeps KEEP_BOOT.RUN 0 (by decide) (by decide) (by decide) false w (by decide)
  simp only [Dev.slotAtFlash, Dev.runSlot, hmmc, hrun]

theorem svnWrite_fuse {d : Dev} (hm : d.Manages .KEEP_BOOT) (w : RegWr) (f : Fuses) (m : Mem) :
    (svnWrite w f m d).mem = [] ∧ (svnWrite w f m d).fuse
      = (bitsOf (wrGet w KEEP_BOOT.SVN_COMMIT) 6).map (fun k => .raiseSvn k (d.slotAtFlash k (d.runSlot k)).svn) := by
  rw [svnWrite, mgmtAct_manages hm]
  exact ⟨rfl, List.map_congr_left (fun k _ => congrArg (fun x => FuseEff.raiseSvn k x.svn) (d.runSlot_written w k))⟩

end Sys2Proof.Machine

namespace Sys2Proof.Proofs

open Sys2Proof.Machine Sys2Proof.Laws

/-- Settles O19: the nonce by its two draws, a token by its check, LOCK and the lockout's expiry by the fields they write, a commit by
the fuses that it raises. -/
theorem debugUnlock : Obligations.DebugUnlock := by
  unfold Obligations.DebugUnlock
  have hkeep : ∀ (d : Dev) (w : RegWr), (d.writeFields .KEEP_DBG_CTL 0 false w).keep = d.keep := fun d w =>
    (Dev.onlyRegs.writeFields d .KEEP_DBG_CTL 0 false w).keep
  have hctx : ∀ (d : Dev) (w : RegWr), (d.writeFields .KEEP_DBG_CTL 0 false w).ctx = d.ctx := fun d w =>
    (Dev.onlyRegs.writeFields d .KEEP_DBG_CTL 0 false w).ctx
  refine ⟨fun s hm => ⟨mgmtDev_answers hm rfl ?_, fun hlock => ?_⟩, fun w s hm hs hl => ⟨fun hok hlevel hopen => ?_, fun hok hlevel => ?_, fun hbad => ?_⟩,
    fun w s hm hl hs hopen => ?_, fun s => answers_of_dev rfl rfl rfl, fun w s hm => ?_⟩
  · cases hlock : s.dev.keep.lockout with
    | true => rw [Dev.newNonce, hlock]; rfl
    | false => rfl
  · simp only [Dev.newNonce, hlock, Bool.false_eq_true, if_false, Dev.draw, Dev.put_keep, Dev.put_free]
    exact ⟨rfl, rfl, rfl⟩
  · have hres := s.dev.submit_context s.fuse s.mem (s.dev.writeFields .KEEP_DBG_CTL 0 false w) hok hlevel hopen
    refine answers_device rfl ((debugWrite_submits hm hs hl s.fuse s.mem).trans hres) fun t honly hdev => ⟨honly, ?_, ?_⟩ <;> rw [hdev]
    · simp only [Dev.put_keep, Dev.modKeep, hkeep s.dev w]
    · simp only [Dev.put_ctx, Dev.modKeep, hctx s.dev w]
  · obtain ⟨hfuse, hdebug, hmodule, hnonce, hkills⟩ := s.dev.submit_module s.fuse s.mem (s.dev.writeFields .KEEP_DBG_CTL 0 false w) hok hlevel
    generalize hr : s.dev.submitRes s.fuse s.mem (s.dev.writeFields .KEEP_DBG_CTL 0 false w) = r at hfuse hdebug hmodule hnonce hkills
    exact answers_of_act rfl ((debugWrite_submits hm hs hl s.fuse s.mem).trans hr)
      ⟨by rw [hfuse]; rfl, rfl, hdebug, hmodule, hnonce, hkills.of_ctx (hctx s.dev w).symm⟩
  · have hres := s.dev.submit_fails s.fuse s.mem (s.dev.writeFields .KEEP_DBG_CTL 0 false w) hbad
    refine answers_device rfl ((debugWrite_submits hm hs hl s.fuse s.mem).trans hres) fun t honly hdev => ⟨honly, ?_, ?_, ?_⟩ <;> rw [hdev]
    · simp only [Dev.put_keep, Dev.count_keep, Dev.modKeep, hkeep s.dev w]
    · simp only [Dev.put_ctx, Dev.count_ctx, Dev.modKeep, hctx s.dev w]
    · exact Dev.tokenFailed_result _ (s.dev.tokenCheck_lt _) _
  · refine answers_device rfl (debugWrite_locks hm hs hl hopen s.fuse s.mem) fun t honly hdev => ⟨honly, ?_, ?_⟩ <;> rw [hdev]
    · simp only [Dev.put_keep, Dev.modKeep, hkeep s.dev w]
    · exact get_put_self _ _ _ _ (by decide)
  · obtain ⟨hmem, hfuse⟩ := svnWrite_fuse hm w s.fuse s.mem
    obtain ⟨herase, hmin⟩ := Fuses.apply_raises (fun k => (s.dev.slotAtFlash k (s.dev.runSlot k)).svn)
      (bitsOf (wrGet w KEEP_BOOT.SVN_COMMIT) 6) (List.nodup_range.filter _) s.fuse
    rw [← hfuse] at herase hmin
    refine answers_of_act rfl rfl ⟨?_, rfl, herase, fun k => (hmin k).trans ?_⟩
    · simp only [hmem, Mem.apply, List.foldl_nil]
    · simp only [mem_bitsOf]

end Sys2Proof.Proofs
end

section
/-! CLR bits (chapter 20), and the trace capture's enable (R530, R531). -/

namespace Sys2Proof.Machine

open Sys2Proof.Laws

/-! ### Counters cleared -/

/-- Fields of one register that share no bit with one another. -/
def fieldsApart (r : RegName) (fs : List Fld) : Bool :=
  fs.all (fun f => f.reg = r && f.lo + f.width ≤ 64 && fs.all (fun g => f = g || f.apart g))

/-- Setting one of them to zero leaves another that is zero. -/
theorem Dev.put_zero_zero {r : RegName} {fs : List Fld} (h : fieldsApart r fs = true) {f g : Fld} (hf : f ∈ fs) (hg : g ∈ fs) {d : Dev}
    {i : Nat} (hz : d.get g i = 0) : (d.put f 0 i).get g i = 0 := by
  simp only [fieldsApart, List.all_eq_true, Bool.and_eq_true, Bool.or_eq_true, decide_eq_true_eq] at h
  obtain ⟨⟨hfr, hfw⟩, hfg⟩ := h f hf
  rcases hfg g hg with rfl | hapart
  · simp [get_put_self _ _ _ _ hfw]
  · simp only [Fld.apart, Bool.or_eq_true, decide_eq_true_eq] at hapart
    rw [get_put_field _ _ _ _ _ ((h g hg).1.1.trans hfr.symm) hfw (by omega), hz]

/-- Every listed field reads 0 once the list is set to zero. -/
theorem Dev.zero_zeroes {r : RegName} {fs : List Fld} (h : fieldsApart r fs = true) (i : Nat) (d : Dev) : ∀ f ∈ fs, (d.zero fs i).get f i = 0 := by
  suffices H : ∀ (gs : List Fld) (d : Dev), gs ⊆ fs → ∀ f ∈ fs, f ∈ gs ∨ d.get f i = 0 → (gs.foldl (fun d f => d.put f 0 i) d).get f i = 0 from
    fun f hf => H fs d (List.Subset.refl _) f hf (.inl hf)
  intro gs
  induction gs with
  | nil =>
    intro d _ f _ hz
    exact hz.resolve_left List.not_mem_nil
  | cons g gs ih =>
    intro d hsub f hf hz
    obtain ⟨hg, hgs⟩ := List.cons_subset.mp hsub
    refine ih (d.put g 0 i) hgs f hf ?_
    by_cases hmem : f ∈ gs
    · exact .inl hmem
    · refine .inr ?_
      rcases hz with hz | hz
      · obtain rfl : f = g := (List.mem_cons.mp hz).resolve_right hmem
        simp only [fieldsApart, List.all_eq_true, Bool.and_eq_true, decide_eq_true_eq] at h
        simp [get_put_self _ _ _ _ (h f hf).1.2]
      · exact Dev.put_zero_zero h hg hf hz

/-- The counters of no register overlap. -/
theorem clrFields_apart (r : RegName) : fieldsApart r (clrFields r) = true := by
  cases r <;> decide

/-- A CLR bit of a register of the configuration space. -/
theorem clr_answers {i : Instr} {s : State} {r : RegName} {k : Nat}
    (he : exec i s = .next (s.run (mgmtDev r k (fun d => d.zero (clrFields r) k)))) (hm : s.dev.Manages r) :
    Answers i s (fun t => t = s.withDev (s.dev.zero (clrFields r) k) ∧ ∀ f ∈ clrFields r, t.dev.get f k = 0) :=
  mgmtDev_answers hm he ⟨rfl, Dev.zero_zeroes (clrFields_apart r) k s.dev⟩

/-- A CLR bit of a register in a die's space. -/
theorem dieClr_answers {i : Instr} {s : State} {r : RegName} {n : Nat}
    (he : exec i s = .next (s.run (dieDev r n (fun d => d.zero (clrFields r) n)))) (hm : s.dev.Manages r) :
    (s.dev.domOn (aonGroup n) = true →
      Answers i s (fun t => t = s.withDev (s.dev.zero (clrFields r) n) ∧ ∀ f ∈ clrFields r, t.dev.get f n = 0))
    ∧ (s.dev.domOn (aonGroup n) = false → Answers i s (fun t => t = s.withDev (s.dev.rejectAt r n))) := by
  refine ⟨fun hon => ?_, fun hoff => ?_⟩
  · refine mgmtDev_answers hm he ?_
    rw [if_pos hon]
    exact ⟨rfl, Dev.zero_zeroes (clrFields_apart r) n s.dev⟩
  · refine mgmtDev_answers hm he ?_
    rw [if_neg (by rw [hoff]; decide)]

end Sys2Proof.Machine

namespace Sys2Proof.Proofs

open Sys2Proof.Machine Sys2Proof.Laws

/-- Settles O52: the counters of a register overlap nowhere, so each that a CLR bit names reads 0 afterwards. -/
theorem counterClears : Obligations.CounterClears := by
  unfold Obligations.CounterClears
  intro die quad k c port s
  simp only [List.forall_mem_cons, List.not_mem_nil, false_implies, implies_true, and_true]
  exact ⟨⟨dieClr_answers rfl, dieClr_answers rfl, dieClr_answers rfl, dieClr_answers rfl, dieClr_answers rfl⟩,
    clr_answers rfl, clr_answers rfl, clr_answers rfl, clr_answers rfl, clr_answers rfl, clr_answers rfl, clr_answers rfl, clr_answers rfl,
    clr_answers rfl, clr_answers rfl, clr_answers rfl, clr_answers rfl⟩

end Sys2Proof.Proofs
end

section
/-! The trace capture's enable, die by die (R530, R531). -/

namespace Sys2Proof.Machine

open Sys2Proof.Laws

/-- Capture on a die after a write that carries `want`. -/
def Dev.traceEn (d : Dev) (want n : Nat) : Bool := bit want n && (bit (d.get MMC_TRACE.EN) n || d.traceAllowed n)

/-- Whether capture on a die stops with the write. -/
def Dev.traceEnds (d : Dev) (want n : Nat) : Bool := !bit want n && bit (d.get MMC_TRACE.EN) n

/-- Whether a capture is asked for that does not run. -/
def Dev.traceAsked (d : Dev) (want n : Nat) : Bool := bit want n && !bit (d.get MMC_TRACE.EN) n

/-- What the write does by dies: `ns` are those already handled. -/
structure Dev.Traced (a b : Dev) (want : Nat) (ns : List Nat) : Prop where
  rest : ∃ r, b = { a with regs := r }
  en : ∀ k < 8, bit (b.get MMC_TRACE.EN) k = if k ∈ ns then a.traceEn want k else bit (a.get MMC_TRACE.EN) k
  refused : ∀ k < 8, k ∈ ns → a.traceAsked want k = true → bit (b.get MMC_TRACE.REFUSED) k = !a.traceAllowed k
  others : ∀ k < 8, k ∉ ns → bit (b.get MMC_TRACE.REFUSED) k = bit (a.get MMC_TRACE.REFUSED) k

/-- Whether capture may start is no matter of registers. -/
theorem Dev.traceAllowed_of_regs {a b : Dev} (h : ∃ r, b = { a with regs := r }) (n : Nat) : b.traceAllowed n = a.traceAllowed n := by
  obtain ⟨r, rfl⟩ := h
  rfl

theorem bit_mod {n w k : Nat} (h : k < w) : bit (n % 2 ^ w) k = bit n k := by
  simp [bit, Nat.testBit_mod_two_pow, h]

theorem bit_clear (n i k : Nat) : bit (setField n i 1 0) k = (bit n k && k ≠ i) := by
  rw [bit, bit, testBit_setField]
  rcases Nat.lt_trichotomy k i with h | h | h
  · simp [h, Nat.ne_of_lt h]
  · simp [h]
  · simp [show ¬ k < i by omega, show ¬ k < i + 1 by omega, Nat.ne_of_gt h]

theorem bit_set (n i k : Nat) : bit (n ||| 2 ^ i) k = (bit n k || k = i) := by
  rw [bit, bit, Nat.testBit_or, Nat.testBit_two_pow]
  simp [eq_comm]

theorem Dev.trace_put_en (d : Dev) (v : Nat) {k : Nat} (hk : k < 8) :
    bit ((d.put MMC_TRACE.EN v).get MMC_TRACE.EN) k = bit v k ∧ (d.put MMC_TRACE.EN v).get MMC_TRACE.REFUSED = d.get MMC_TRACE.REFUSED := by
  refine ⟨?_, get_put_field d MMC_TRACE.EN MMC_TRACE.REFUSED v 0 rfl (by decide) (by decide)⟩
  rw [get_put_self _ _ _ _ (by decide)]
  exact bit_mod hk

theorem Dev.trace_put_refused (d : Dev) (v : Nat) {k : Nat} (hk : k < 8) :
    bit ((d.put MMC_TRACE.REFUSED v).get MMC_TRACE.REFUSED) k = bit v k ∧ (d.put MMC_TRACE.REFUSED v).get MMC_TRACE.EN = d.get MMC_TRACE.EN := by
  refine ⟨?_, get_put_field d MMC_TRACE.REFUSED MMC_TRACE.EN v 0 rfl (by decide) (by decide)⟩
  rw [get_put_self _ _ _ _ (by decide)]
  exact bit_mod hk

/-- One die of the write. -/
theorem traceBit_does (want : Nat) {n : Nat} (f : Fuses) (m : Mem) (d : Dev) :
    (traceBit want n f m d).fuse = [] ∧ (traceBit want n f m d).mem = (if d.traceEnds want n then [traceClear n] else [])
      ∧ d.Traced (traceBit want n f m d).dev want [n] := by
  cases hw : bit want n with
  | false =>
    have hstop : traceBit want n f m d = traceStop n f m d := by simp [traceBit, hw]
    have hrefused : ((traceStop n f m d).dev.get MMC_TRACE.REFUSED) = d.get MMC_TRACE.REFUSED := by
      unfold traceStop
      split
      · exact get_put_field d MMC_TRACE.EN MMC_TRACE.REFUSED _ 0 rfl (by decide) (by decide)
      · rfl
    rw [hstop]
    refine ⟨Act.SparesFuses.traceStop n f m d, ?_, traceStop_rest n f m d, fun k hk => ?_, fun k _ hkn hask => ?_, fun k _ _ => by rw [hrefused]⟩
    · simp [traceStop_mem, Dev.traceEnds, hw]
    · rw [traceStop_bit n f m d hk]
      by_cases h : k = n <;> simp [h, Dev.traceEn, hw]
    · obtain rfl := List.mem_singleton.mp hkn
      simp [Dev.traceAsked, hw] at hask
  | true =>
    cases he : bit (d.get MMC_TRACE.EN) n with
    | true =>
      have hres : traceBit want n f m d = { dev := d } := by simp [traceBit, hw, he]
      rw [hres]
      refine ⟨rfl, by simp [Dev.traceEnds, hw], ⟨d.regs, rfl⟩, fun k _ => ?_, fun k _ hkn hask => ?_, fun k _ _ => rfl⟩
      · by_cases h : k = n <;> simp [h, Dev.traceEn, hw, he]
      · obtain rfl := List.mem_singleton.mp hkn
        simp [Dev.traceAsked, he] at hask
    | false =>
      cases ha : d.traceAllowed n with
      | true =>
        have hres : traceBit want n f m d
            = { dev := (d.put MMC_TRACE.EN (d.get MMC_TRACE.EN ||| 2 ^ n)).put MMC_TRACE.REFUSED (setField (d.get MMC_TRACE.REFUSED) n 1 0) } := by
          rw [traceBit, if_pos hw, if_neg (by rw [he]; decide), if_pos ha]
        rw [hres]
        refine ⟨rfl, by simp [Dev.traceEnds, hw], ⟨_, rfl⟩, fun k hk => ?_, fun k hk hkn _ => ?_, fun k hk hkn => ?_⟩
        · rw [(Dev.trace_put_refused _ _ hk).2, (Dev.trace_put_en _ _ hk).1, bit_set]
          by_cases h : k = n <;> simp [h, Dev.traceEn, hw, ha]
        · obtain rfl := List.mem_singleton.mp hkn
          rw [(Dev.trace_put_refused _ _ hk).1, bit_clear, ha]
          simp
        · rw [(Dev.trace_put_refused _ _ hk).1, bit_clear]
          simp [List.mem_singleton.not.mp hkn]
      | false =>
        have hres : traceBit want n f m d = { dev := d.put MMC_TRACE.REFUSED (d.get MMC_TRACE.REFUSED ||| 2 ^ n) } := by
          rw [traceBit, if_pos hw, if_neg (by rw [he]; decide), if_neg (by rw [ha]; decide)]
        rw [hres]
        refine ⟨rfl, by simp [Dev.traceEnds, hw], ⟨_, rfl⟩, fun k hk => ?_, fun k hk hkn _ => ?_, fun k hk hkn => ?_⟩
        · rw [(Dev.trace_put_refused _ _ hk).2]
          by_cases h : k = n <;> simp [h, Dev.traceEn, he, ha]
        · obtain rfl := List.mem_singleton.mp hkn
          rw [(Dev.trace_put_refused _ _ hk).1, bit_set, ha]
          simp
        · rw [(Dev.trace_put_refused _ _ hk).1, bit_set]
          simp [List.mem_singleton.not.mp hkn]

/-- The dies of the write one after another. -/
theorem each_traceBit (want : Nat) (f : Fuses) : ∀ (ns : List Nat) (m : Mem) (d : Dev), ns.Nodup → (∀ n ∈ ns, n < 8) →
    (Act.each (traceBit want) ns f m d).fuse = []
      ∧ (Act.each (traceBit want) ns f m d).mem = (ns.filter (d.traceEnds want)).map traceClear
      ∧ d.Traced (Act.each (traceBit want) ns f m d).dev want ns
  | [], _, d, _, _ => ⟨rfl, rfl, ⟨d.regs, rfl⟩, fun _ _ => by simp [Act.each, Act.skip], fun _ _ h _ => absurd h List.not_mem_nil, fun _ _ _ => rfl⟩
  | n :: ns, m, d, hnd, hlt => by
    obtain ⟨hn, hnd'⟩ := List.nodup_cons.mp hnd
    obtain ⟨hfuse, hmem, hd⟩ := traceBit_does want (n := n) f m d
    generalize hq : traceBit want n f m d = q at hfuse hmem hd
    obtain ⟨ifuse, imem, hi⟩ := each_traceBit want f ns (m.apply q.mem) q.dev hnd' (fun k hk => hlt k (List.mem_cons_of_mem _ hk))
    have happly : Act.each (traceBit want) (n :: ns) f m d =
        { dev := (Act.each (traceBit want) ns f (m.apply q.mem) q.dev).dev,
          mem := q.mem ++ (Act.each (traceBit want) ns f (m.apply q.mem) q.dev).mem,
          fuse := q.fuse ++ (Act.each (traceBit want) ns f (m.apply q.mem) q.dev).fuse } := by
      have hkeep : f.apply q.fuse = f := by rw [hfuse]; rfl
      simp only [Act.each, Act.andThen, hq, hkeep]
    have hallowed := Dev.traceAllowed_of_regs hd.rest
    have hen : ∀ k < 8, k ≠ n → bit (q.dev.get MMC_TRACE.EN) k = bit (d.get MMC_TRACE.EN) k := fun k hk hkn => by
      rw [hd.en k hk, if_neg (by simpa using hkn)]
    have hne : ∀ k ∈ ns, k ≠ n := fun k hk e => hn (e ▸ hk)
    rw [happly]
    generalize Act.each (traceBit want) ns f (m.apply q.mem) q.dev = p at ifuse imem hi
    refine ⟨by simp only [hfuse, ifuse, List.append_nil], ?_, ?_, fun k hk => ?_, fun k hk hmemk hask => ?_, fun k hk hnot => ?_⟩
    · have hsame : ns.filter (q.dev.traceEnds want) = ns.filter (d.traceEnds want) := List.filter_congr fun k hk => by
        simp only [Dev.traceEnds, hen k (hlt k (List.mem_cons_of_mem _ hk)) (hne k hk)]
      change q.mem ++ p.mem = _
      rw [imem, hsame, hmem, List.filter_cons]
      split <;> rfl
    · obtain ⟨r, e⟩ := hd.rest
      obtain ⟨r', e'⟩ := hi.rest
      exact ⟨r', e'.trans (by rw [e])⟩
    · rw [hi.en k hk]
      by_cases hkn : k = n
      · subst hkn
        rw [if_neg hn, hd.en k hk, if_pos List.mem_cons_self, if_pos List.mem_cons_self]
      · simp only [Dev.traceEn, hen k hk hkn, hallowed, List.mem_cons, hkn, false_or]
    · rcases List.mem_cons.mp hmemk with rfl | hkns
      · rw [hi.others k hk hn]
        exact hd.refused k hk List.mem_cons_self hask
      · rw [hi.refused k hk hkns (by simpa only [Dev.traceAsked, hen k hk (hne k hkns)] using hask), hallowed]
    · obtain ⟨hkn, hkns⟩ := List.mem_cons.not.mp hnot |> not_or.mp
      rw [hi.others k hk hkns, hd.others k hk (by simpa using hkn)]

end Sys2Proof.Machine

namespace Sys2Proof.Proofs

open Sys2Proof.Machine Sys2Proof.Laws

/-- Settles O27: the write die by die, each by what it asks for and whether capture runs. -/
theorem traceCapture : Obligations.TraceCapture := by
  unfold Obligations.TraceCapture
  intro w s hm hen
  obtain ⟨hfuse, hmem, hd⟩ := each_traceBit (wrGet w MMC_TRACE.EN) s.fuse (List.range 8) s.mem s.dev List.nodup_range
    (fun n hn => List.mem_range.mp hn)
  have hres : traceWrite w s.fuse s.mem s.dev = Act.each (traceBit (wrGet w MMC_TRACE.EN)) (List.range 8) s.fuse s.mem s.dev := by
    rw [traceWrite, mgmtAct_manages hm, if_pos hen]
  generalize Act.each (traceBit (wrGet w MMC_TRACE.EN)) (List.range 8) s.fuse s.mem s.dev = r at hfuse hmem hd hres
  refine answers_of_act rfl hres ⟨by rw [hfuse]; rfl, rfl, fun n hn => ?_, fun n hn hw hoff => ?_, by rw [hmem]; rfl, hd.rest⟩
  · rw [hd.en n hn, if_pos (List.mem_range.mpr hn), Dev.traceEn]
  · exact hd.refused n hn (List.mem_range.mpr hn) (by rw [Dev.traceAsked, hw, hoff]; rfl)

end Sys2Proof.Proofs
end

section
/-! The period, the beat tick and the arrival deadline (R49, R56, R62, R404, R410, R444). -/

namespace Sys2Proof.Machine

open Sys2Proof.Laws

/-! ### What the work at a tick leaves of time and of the other contexts -/

/-- Time, the period in force, and the states and start ticks of the contexts that `p` names are the same. -/
structure Dev.BeatFrame (a b : Dev) (p : CtxId → Prop) : Prop where
  time : b.time = a.time
  period : b.get BRY_PERIOD.PERIOD 0 = a.get BRY_PERIOD.PERIOD 0
  ctx : ∀ k, p k → (b.ctxAt k).state = (a.ctxAt k).state ∧ (b.ctxAt k).startAt = (a.ctxAt k).startAt

theorem uncounted_startAt {a b : Ctx} (h : a.uncounted = b.uncounted) : a.startAt = b.startAt := by
  show a.uncounted.startAt = b.uncounted.startAt
  rw [h]

/-- Every context's state and start tick are the same. -/
abbrev Dev.BeatSame (a b : Dev) : Prop := a.BeatFrame b (fun _ => True)

namespace Dev.BeatFrame

variable {a b c : Dev} {p q : CtxId → Prop}

theorem refl {a : Dev} {p : CtxId → Prop} : a.BeatFrame a p := ⟨rfl, rfl, fun _ _ => ⟨rfl, rfl⟩⟩

theorem trans (h : a.BeatFrame b p) (g : b.BeatFrame c p) : a.BeatFrame c p :=
  ⟨g.time.trans h.time, g.period.trans h.period, fun k hk => ⟨(g.ctx k hk).1.trans (h.ctx k hk).1, (g.ctx k hk).2.trans (h.ctx k hk).2⟩⟩

theorem mono (h : a.BeatFrame b p) (hq : ∀ k, q k → p k) : a.BeatFrame b q := ⟨h.time, h.period, fun k hk => h.ctx k (hq k hk)⟩

theorem of_same (hc : b.ctx = a.ctx) (ht : b.time = a.time) (hr : b.regs = a.regs) : a.BeatFrame b p :=
  ⟨ht, Dev.get_of_regs hr _ _, fun k _ => by simp only [Dev.ctxAt, hc, and_self]⟩

theorem of_reports (h : a.Reports b) : a.BeatFrame b p :=
  ⟨h.time, h.regs _ 0 (by decide) (by decide) (by decide), fun k _ =>
    ⟨uncounted_state (h.ctx k), uncounted_startAt (h.ctx k)⟩⟩

theorem of_put {f : Fld} {v i : Nat} (hf : f.reg ≠ .BRY_PERIOD) (hi : i < 1024) : a.BeatFrame (a.put f v i) p :=
  ⟨Dev.put_time a f v i, get_put_ne _ _ _ _ _ _ (regKey_ne (by decide) hi (Ne.symm hf)), fun k _ => by
    simp only [Dev.ctxAt, Dev.put_ctx, and_self]⟩

theorem of_count {f : Fld} {i n : Nat} (hf : f.reg ≠ .BRY_PERIOD) (hi : i < 1024) : a.BeatFrame (a.count f i n) p :=
  of_put hf hi

/-- A change of a context's record that leaves its state and its start tick. -/
theorem of_modCtx {k : CtxId} {f : Ctx → Ctx} (hf : ∀ x, (f x).state = x.state ∧ (f x).startAt = x.startAt) :
    a.BeatFrame (a.modCtx k f) p :=
  ⟨rfl, Dev.get_of_regs rfl _ _, fun j _ => by
    by_cases e : j = k
    · subst e
      rw [Dev.modCtx_at]
      exact hf _
    · rw [Dev.modCtx_at_ne _ _ e]
      exact ⟨rfl, rfl⟩⟩

/-- Any change of a context's record. -/
theorem of_modCtx_ne {k : CtxId} {f : Ctx → Ctx} : a.BeatFrame (a.modCtx k f) (· ≠ k) :=
  ⟨rfl, Dev.get_of_regs rfl _ _, fun j hj => by rw [Dev.modCtx_at_ne _ _ hj]; exact ⟨rfl, rfl⟩⟩

theorem foldl {A : Type} {f : Dev → A → Dev} (hf : ∀ (d : Dev) (x : A), d.BeatFrame (f d x) p) (l : List A) (d : Dev) : d.BeatFrame (l.foldl f d) p :=
  foldl_keeps (P := fun b => d.BeatFrame b p) (fun b x hb => hb.trans (hf b x)) l d refl

theorem ite {r : Prop} [Decidable r] (hb : a.BeatFrame b p) (hc : a.BeatFrame c p) : a.BeatFrame (if r then b else c) p := by
  split
  · exact hb
  · exact hc

theorem of_settle {d : Dev} {p : CtxId → Prop} : d.BeatFrame d.settleModule p := by
  obtain ⟨r, st, h⟩ := d.settleModule_changes
  refine ⟨by rw [h], Dev.RegsOutside.settleModule d (rs := [.BRY_LS_STAT]) (by decide) _ 0 (by decide) (by decide), fun k _ => ?_⟩
  rw [Dev.settleModule_ctxAt]
  exact ⟨rfl, rfl⟩

end Dev.BeatFrame

open Dev.BeatFrame

/-- A halt leaves time and the other contexts. -/
theorem Dev.haltCtx_beat (d : Dev) (c : CtxId) (r : Nat) : d.BeatFrame (d.haltCtx c r) (· ≠ c) := by
  obtain ⟨t, e, hstop⟩ := d.stopCores_frame (d.ctxAt c).cores
  have h1 : d.BeatFrame ((d.stopCores (d.ctxAt c).cores).dropMoves c) (· ≠ c) := by
    rw [hstop]
    exact of_same rfl rfl rfl
  unfold Dev.haltCtx
  simp only
  generalize (d.stopCores (d.ctxAt c).cores).dropMoves c = x at h1
  exact (((h1.trans (of_reports (Dev.Reports.finishOp x c opHaltAtBeat _))).trans of_modCtx_ne).trans
    (of_reports (Dev.Reports.event _ c 5 _))).trans of_settle

theorem Dev.digestSync_beat (d : Dev) (c : CtxId) (die vid old new : Nat) (p : CtxId → Prop) : d.BeatFrame (d.digestSync c die vid old new) p := by
  unfold Dev.digestSync
  simp only
  split
  · exact refl
  · exact of_modCtx (fun _ => ⟨rfl, rfl⟩)

theorem Dev.moduleUpdate_beat (d : Dev) (die phys unit value : Nat) (p : CtxId → Prop) : d.BeatFrame (d.moduleUpdate die phys unit value) p := by
  unfold Dev.moduleUpdate
  simp only
  generalize hb : d.modSync die phys _ = b
  have hmod : d.BeatFrame b p := hb ▸ of_same rfl rfl rfl
  exact (hmod.trans (Dev.digestSync_beat b _ die _ _ value p)).trans (of_same rfl rfl rfl)

theorem Dev.releaseHeld_beat (d : Dev) (c : CtxId) (ri : Nat) (grad : Bool) (core r : Nat) (p : CtxId → Prop) :
    d.BeatFrame (d.releaseHeld c ri grad core r) p := by
  have hheld : d.BeatFrame ((d.popSlot core r).putHeld c core r false) p :=
    BeatFrame.trans (b := d.popSlot core r) (of_same rfl rfl rfl) (of_modCtx (fun _ => ⟨rfl, rfl⟩))
  unfold Dev.releaseHeld
  generalize (d.popSlot core r).putHeld c core r false = e at hheld
  simp only
  split
  · exact hheld.trans (Dev.moduleUpdate_beat _ _ _ _ _ p)
  · exact hheld

theorem Dev.rotate_beat (d : Dev) (c : CtxId) (beat : Nat) (p : CtxId → Prop) : d.BeatFrame (d.rotate c beat) p := by
  unfold Dev.rotate
  simp only
  refine BeatFrame.trans (foldl (fun d e => foldl (fun d pl => ?_) _ d) _ d) (of_modCtx (fun _ => ⟨rfl, rfl⟩))
  have hrel : d.BeatFrame (if (d.ctxAt c).holds pl.1 pl.2.1 then d.releaseHeld c e.2 pl.2.2 pl.1 pl.2.1 else d) p := by
    split
    · exact Dev.releaseHeld_beat d c _ _ _ _ p
    · exact refl
  generalize (if (d.ctxAt c).holds pl.1 pl.2.1 then d.releaseHeld c e.2 pl.2.2 pl.1 pl.2.1 else d) = x at hrel
  split
  · exact hrel.trans (of_modCtx (fun _ => ⟨rfl, rfl⟩))
  · exact hrel

theorem Dev.startMove_beat (d : Dev) (core : Nat) (mv : RingMove) (p : CtxId → Prop) : d.BeatFrame (d.startMove core mv) p := of_same rfl rfl rfl

theorem Dev.startThreads_beat (d : Dev) (c : CtxId) (rel beat : Nat) (p : CtxId → Prop) : d.BeatFrame (d.startThreads c rel beat) p := by
  unfold Dev.startThreads
  simp only
  refine foldl (fun d k => ?_) _ d
  unfold Dev.startCore
  split
  · exact refl
  · refine foldl (fun d t => ?_) _ d
    split
    · exact of_same rfl rfl rfl
    · exact refl

theorem Dev.planRelays_beat (d : Dev) (c : CtxId) (x : Container) (ri : Nat) (g : RingDesc) (grad : Bool) (beat : Nat) (p : CtxId → Prop) :
    d.BeatFrame (d.planRelays c x ri g grad beat) p := by
  unfold Dev.planRelays
  split
  · exact refl
  · refine foldl (fun d i => ?_) _ d
    simp only
    split
    · exact of_same rfl rfl rfl
    · exact of_same rfl rfl rfl

theorem Dev.planFills_beat (d : Dev) (c : CtxId) (x : Container) (ri : Nat) (g : RingDesc) (grad : Bool) (beat : Nat) (p : CtxId → Prop) :
    d.BeatFrame (d.planFills c x ri g grad beat) p := by
  unfold Dev.planFills
  split
  · exact refl
  · refine foldl (fun d i => ?_) _ d
    simp only
    split
    · refine BeatFrame.trans ?_ (Dev.startMove_beat _ _ _ p)
      exact of_modCtx (fun _ => ⟨rfl, rfl⟩)
    · exact of_modCtx (fun _ => ⟨rfl, rfl⟩)

theorem Dev.issueRings_beat (d : Dev) (c : CtxId) (beat : Nat) (p : CtxId → Prop) : d.BeatFrame (d.issueRings c beat) p := by
  unfold Dev.issueRings
  split
  · exact refl
  · refine foldl (fun d e => foldl (fun d grad => ?_) _ d) _ d
    simp only
    split
    · exact Dev.planRelays_beat d c _ _ _ _ _ p
    · exact (Dev.planRelays_beat d c _ _ _ _ _ p).trans (Dev.planFills_beat _ c _ _ _ _ _ p)

theorem Dev.ringHalt_beat (d : Dev) (c : CtxId) (except : Option Nat) (cause beat : Nat) (p : CtxId → Prop) :
    d.BeatFrame (d.ringHalt c except cause beat) p := by
  have hsend : ∀ (e : Dev) (m : Nat) (pk : Pkt), e.BeatFrame (if except = some m then e else e.originate 10 pk) p := fun e m pk => by
    split
    · exact refl
    · exact of_reports (Dev.Reports.originate e 10 pk)
  unfold Dev.ringHalt
  simp only
  exact BeatFrame.trans (foldl (fun d g => (hsend _ _ _).trans (hsend _ _ _)) _ d) (of_modCtx (fun _ => ⟨rfl, rfl⟩))

/-- The first detection is one of those reported. -/
theorem firstDetection_mem : ∀ (as : List Detection) (a : Detection), firstDetection a as ∈ a :: as
  | [], a => List.mem_singleton.mpr rfl
  | x :: as, a => by
    have h : firstDetection a (x :: as) = firstDetection (if x.before a then x else a) as := rfl
    rw [h]
    rcases List.mem_cons.mp (firstDetection_mem as (if x.before a then x else a)) with e | e
    · rw [e]
      split <;> simp
    · simp [e]

theorem Dev.detect_beat (d : Dev) (c : CtxId) (ds : List Detection) (beat : Nat) (hds : ∀ x ∈ ds, x.cause < 1024)
    (p : CtxId → Prop) : d.BeatFrame (d.detect c ds beat none) p := by
  unfold Dev.detect
  cases ds with
  | nil => exact refl
  | cons a as =>
    have hcause := hds _ (firstDetection_mem as a)
    simp only
    split
    · exact refl
    · generalize firstDetection a as = f at hcause ⊢
      generalize hE : d.modCtx c _ = E
      have hmark : d.BeatFrame E p := hE ▸ of_modCtx (fun _ => ⟨rfl, rfl⟩)
      have hsend : ∀ D : Dev, d.BeatFrame D p → ∀ k n, d.BeatFrame (if (d.ctxAt c).ringHaltSent = true then D else D.ringHalt c none k n) p :=
        fun D hD k n => ite (r := (d.ctxAt c).ringHaltSent = true) hD (hD.trans (Dev.ringHalt_beat D c none k n p))
      refine hsend _ (ite hmark ?_) _ _
      generalize hF : E.event c 1 _ = F
      have hposted : d.BeatFrame F p := hmark.trans (of_reports (hF ▸ Dev.Reports.event E c 1 _))
      generalize hG : F.modCtx c _ = G
      have hseen : d.BeatFrame G p := hposted.trans (hG ▸ of_modCtx (fun _ => ⟨rfl, rfl⟩))
      exact ((hseen.trans (of_count (by decide) (by omega))).trans (of_put (by decide) (by decide))).trans (of_put (by decide) (by decide))

theorem Dev.lockOverrun_beat (d : Dev) (c : CtxId) (beat : Nat) (units : List Nat) (missing expected : Nat) (p : CtxId → Prop) :
    d.BeatFrame (d.lockOverrun c beat units missing expected) p := by
  unfold Dev.lockOverrun
  split
  · exact refl
  · rename_i u us
    simp only
    have hcount : ∀ D : Dev, d.BeatFrame D p → d.BeatFrame (if 0 < missing then D.count BRY_LS_STAT.MISSING else D) p := fun D hD =>
      ite (hD.trans (of_count (by decide) (by decide))) hD
    have hcause : ∀ x ∈ [(⟨beat, 9, us.foldl Nat.min u, 0xFFFF, 0xFFFF, 0, (u :: us).length, expected, 0xFF⟩ : Detection)], x.cause < 1024 :=
      fun x hx => by
        rw [List.mem_singleton.mp hx]
        exact (by decide : 9 < 1024)
    refine BeatFrame.trans ?_ (Dev.detect_beat _ c _ beat hcause p)
    refine BeatFrame.trans (hcount ((d.count BRY_LS_STAT.MISMATCHES).put BRY_LS_STAT.LAST_UNIT (us.foldl Nat.min u)) ?_) ?_
    · exact BeatFrame.trans (of_count (by decide) (by decide)) (of_put (by decide) (by decide))
    · exact of_modCtx (fun _ => ⟨rfl, rfl⟩)

theorem Dev.comparePair_beat (d : Dev) (c : CtxId) (final : Bool) (p : CtxId → Prop) : d.BeatFrame (d.comparePair c final) p := by
  unfold Dev.comparePair
  simp only
  split
  · exact refl
  · split
    · exact refl
    · split
      · exact refl
      · refine BeatFrame.trans ?_ (Dev.lockOverrun_beat _ c _ _ _ _ p)
        exact of_modCtx (fun _ => ⟨rfl, rfl⟩)

theorem Dev.lockCheck_beat (d : Dev) (c : CtxId) (beat : Nat) (p : CtxId → Prop) : d.BeatFrame (d.lockCheck c beat) p := by
  unfold Dev.lockCheck
  simp only
  split
  · exact Dev.comparePair_beat d c true p
  · split
    · exact Dev.lockOverrun_beat d c _ _ _ _ p
    · exact refl

theorem Dev.sendLocal_beat (d : Dev) (k ty : Nat) (body : Bytes) (p : CtxId → Prop) : d.BeatFrame (d.sendLocal k ty body) p :=
  of_same rfl rfl rfl

theorem Dev.sendDigests_beat (d : Dev) (c : CtxId) (beat : Nat) (p : CtxId → Prop) : d.BeatFrame (d.sendDigests c beat) p := by
  unfold Dev.sendDigests
  split
  · exact refl
  · rename_i k _
    split
    · exact refl
    · generalize allDigestUnits = us
      exact foldl (fun d u => Dev.sendLocal_beat d k _ _ p) us d

theorem Dev.lockTurn_beat (d : Dev) (c : CtxId) (beat : Nat) (p : CtxId → Prop) : d.BeatFrame (d.lockTurn c beat) p := by
  have hturn : d.BeatFrame (d.turnDigests c beat) p := of_modCtx (fun _ => ⟨rfl, rfl⟩)
  unfold Dev.lockTurn
  simp only
  split
  · exact refl
  · split
    · exact (hturn.trans (Dev.sendDigests_beat _ c beat p)).trans (Dev.comparePair_beat _ c false p)
    · exact hturn

/-- What is late at a tick names a cause of R65. -/
theorem Dev.tickLate_cause (d : Dev) (c : CtxId) (beat : Nat) (own : Bool) :
    (∀ x ∈ d.dueLate c beat own, x.cause < 1024) ∧ (∀ x ∈ d.relaysLate c, x.cause < 1024) ∧ (∀ x ∈ d.workLate c, x.cause < 1024) := by
  refine ⟨fun x hx => ?_, fun x hx => ?_, fun x hx => ?_⟩
  · simp only [Dev.dueLate, List.mem_flatMap] at hx
    obtain ⟨f, -, hx⟩ := hx
    split at hx
    · exact absurd hx List.not_mem_nil
    · split at hx
      · split at hx
        · exact absurd hx List.not_mem_nil
        · obtain rfl := List.mem_singleton.mp hx
          exact (by decide : 7 < 1024)
      · obtain ⟨e, -, he⟩ := List.mem_filterMap.mp hx
        split at he
        · cases he
        · cases he
          exact (by decide : 5 < 1024)
  · obtain ⟨e, -, he⟩ := List.mem_filterMap.mp hx
    split at he
    · cases he
    · cases he
      exact (by decide : 6 < 1024)
  · simp only [Dev.workLate] at hx
    split at hx
    · exact absurd hx List.not_mem_nil
    · obtain rfl := List.mem_singleton.mp hx
      exact (by decide : 7 < 1024)

theorem Dev.tickChecks_beat (d : Dev) (c : CtxId) (ended : Nat) (p : CtxId → Prop) : d.BeatFrame (d.tickChecks c ended) p := by
  unfold Dev.tickChecks
  simp only
  refine BeatFrame.trans (Dev.detect_beat d c _ ended (fun x hx => ?_) p) (Dev.lockCheck_beat _ c ended p)
  obtain ⟨hrelays, hwork⟩ := (d.tickLate_cause c (ended + 1) false).2
  rcases List.mem_append.mp hx with hx | hx
  · rcases List.mem_append.mp hx with hx | hx
    · split at hx
      · exact absurd hx List.not_mem_nil
      · rcases List.mem_append.mp hx with hx | hx
        · exact (d.tickLate_cause c (ended + 1) false).1 x hx
        · exact (d.tickLate_cause c (ended + 1) true).1 x hx
    · exact hrelays x hx
  · exact hwork x hx

theorem Dev.boundary_beat (d : Dev) (c : CtxId) (change : Bool) : d.BeatFrame (d.boundary c change) (· ≠ c) := by
  have hchecks : ∀ (D : Dev) (q : Bool) (n : Nat), d.BeatFrame D (· ≠ c) → d.BeatFrame (if q then D else D.tickChecks c n) (· ≠ c) :=
    fun D q n hD => by
      split
      · exact hD
      · exact hD.trans (Dev.tickChecks_beat D c n _)
  unfold Dev.boundary
  simp only
  have hstart := hchecks (d.modCtx c (fun x => { x with beats := x.beats + 1 }))
    ((d.modCtx c (fun x => { x with beats := x.beats + 1 })).ctxAt c).overrun (d.time.beat - 1) of_modCtx_ne
  generalize (if ((d.modCtx c (fun x => { x with beats := x.beats + 1 })).ctxAt c).overrun = true then _ else _) = D at hstart ⊢
  split
  · exact hstart.trans (Dev.haltCtx_beat D c _)
  · generalize hE : D.modCtx c _ = E
    have hturn : d.BeatFrame ((E.rotate c d.time.beat).lockTurn c (d.time.beat - 1)) (· ≠ c) :=
      ((hstart.trans (hE ▸ of_modCtx_ne)).trans (Dev.rotate_beat E c _ _)).trans (Dev.lockTurn_beat _ c _ _)
    generalize (E.rotate c d.time.beat).lockTurn c (d.time.beat - 1) = F at hturn ⊢
    split
    · exact hturn.trans (Dev.haltCtx_beat F c _)
    · split
      · exact hturn.trans (Dev.haltCtx_beat F c _)
      · split
        · exact hturn.trans (Dev.haltCtx_beat F c _)
        · exact hturn.trans (Dev.issueRings_beat F c _ _)

/-- A context begins: it runs, with no start tick left (R444). -/
theorem Dev.beginCtx_does (d : Dev) (c : CtxId) : d.BeatFrame (d.beginCtx c) (· ≠ c)
    ∧ ((d.beginCtx c).ctxAt c).state = .running ∧ ((d.beginCtx c).ctxAt c).startAt = none := by
  unfold Dev.beginCtx
  simp only
  generalize hE : d.modCtx c _ = E
  have hat : (E.ctxAt c).state = .running ∧ (E.ctxAt c).startAt = none := by
    rw [← hE, Dev.modCtx_at]
    exact ⟨rfl, rfl⟩
  have hothers : d.BeatFrame E (· ≠ c) := hE ▸ of_modCtx_ne
  suffices H : E.BeatSame (if (d.ctxAt c).overrun = true then (E.finishOp c opStart 0).settleModule else
      (((if (d.ctxAt c).resumed = true then (E.finishOp c opStart 0).settleModule
        else (E.finishOp c opStart 0).settleModule.rotate c d.time.beat).issueBeat c).startThreads c (d.ctxAt c).r0 d.time.beat)) from
    ⟨hothers.trans (H.mono (fun _ _ => trivial)), (H.ctx c trivial).1.trans hat.1, (H.ctx c trivial).2.trans hat.2⟩
  have hsettled : E.BeatSame (E.finishOp c opStart 0).settleModule :=
    (of_reports (Dev.Reports.finishOp E c opStart 0)).trans of_settle
  generalize (E.finishOp c opStart 0).settleModule = S at hsettled ⊢
  split
  · exact hsettled
  · have hrot : E.BeatSame (if (d.ctxAt c).resumed = true then S else S.rotate c d.time.beat) := by
      split
      · exact hsettled
      · exact hsettled.trans (Dev.rotate_beat S c _ _)
    generalize (if (d.ctxAt c).resumed = true then S else S.rotate c d.time.beat) = R at hrot ⊢
    have hissued := hrot.trans (Dev.issueRings_beat R c R.time.beat _)
    exact hissued.trans (Dev.startThreads_beat _ c _ _ _)

theorem Dev.tickCtx_beat (change : Bool) (d : Dev) (c : CtxId) : d.BeatFrame (d.tickCtx change c) (· ≠ c) := by
  unfold Dev.tickCtx
  simp only
  split
  · exact d.boundary_beat c change
  · split
    · exact (d.beginCtx_does c).1
    · exact refl

/-! ### The tick -/

theorem Dev.admitStandby_beat (d : Dev) (p : CtxId → Prop) : d.BeatFrame d.admitStandby p := by
  unfold Dev.admitStandby
  simp only
  generalize hE : ({ d with mmc := _ } : Dev) = E
  have hunits : d.BeatFrame E p := hE ▸ of_same rfl rfl rfl
  have hcmd : E.BeatFrame E.settleUnitCmd p := by
    unfold Dev.settleUnitCmd
    split
    · exact refl
    · exact ite refl (BeatFrame.trans (b := { E with mmc := { E.mmc with unitCmd := none } }) (of_same rfl rfl rfl)
        (of_put (by decide) (by decide)))
  exact (hunits.trans hcmd).trans (of_same rfl rfl rfl)

/-- The contexts in turn: each keeps what the others do, and one that was to start runs. -/
theorem Dev.tickAll_does (change : Bool) : ∀ (cs : List CtxId) (d : Dev), cs.Nodup →
    d.BeatFrame (cs.foldl (Dev.tickCtx change) d) (· ∉ cs)
      ∧ ∀ c ∈ cs, (d.ctxAt c).state ≠ .running → (d.ctxAt c).startAt = some d.time.beat →
        ((cs.foldl (Dev.tickCtx change) d).ctxAt c).state = .running ∧ ((cs.foldl (Dev.tickCtx change) d).ctxAt c).startAt = none
  | [], d, _ => ⟨refl, fun c hc => absurd hc List.not_mem_nil⟩
  | k :: cs, d, hnd => by
    obtain ⟨hk, hcs⟩ := List.nodup_cons.mp hnd
    have hone := d.tickCtx_beat change k
    obtain ⟨hframe, hstarts⟩ := Dev.tickAll_does change cs (d.tickCtx change k) hcs
    refine ⟨(hone.mono (fun j hj e => hj (e ▸ List.mem_cons_self))).trans (hframe.mono (fun j hj h => hj (List.mem_cons_of_mem _ h))),
      fun c hc hstate hat => ?_⟩
    rcases List.mem_cons.mp hc with rfl | hc
    · have hbegin : d.tickCtx change c = d.beginCtx c := by
        rw [Dev.tickCtx, if_neg (by simp [hstate]), if_pos hat]
      obtain ⟨-, hrun, hnone⟩ := d.beginCtx_does c
      obtain ⟨hs, ha⟩ := hframe.ctx c hk
      rw [hbegin] at hs ha
      rw [List.foldl_cons, hbegin]
      exact ⟨hs.trans hrun, ha.trans hnone⟩
    · have hne : c ≠ k := fun e => hk (e ▸ hc)
      obtain ⟨hs, ha⟩ := hone.ctx c hne
      exact hstarts c hc (hs ▸ hstate) (by rw [ha, hat, hone.time])

/-- The counter's advance (R404, R410). -/
theorem Dev.advanceBeat_does (d : Dev) : d.advanceBeat.2.ctx = d.ctx ∧ d.advanceBeat.2.time.beat = (d.time.beat + 1) % 2 ^ 64
    ∧ d.advanceBeat.2.time.tickT = d.time.tickT + 16 * d.get BRY_PERIOD.PERIOD
    ∧ ∀ p, d.time.announced = some (p, (d.time.beat + 1) % 2 ^ 64) →
      d.advanceBeat.2.get BRY_PERIOD.PERIOD 0 = p % 2 ^ 30 ∧ d.advanceBeat.2.time.announced = none := by
  unfold Dev.advanceBeat
  simp only
  cases ha : d.time.announced with
  | none => exact ⟨rfl, rfl, rfl, fun p h => by cases h⟩
  | some e =>
    obtain ⟨p, at'⟩ := e
    simp only
    by_cases hat : at' = (d.time.beat + 1) % 2 ^ 64
    · rw [if_pos hat]
      refine ⟨rfl, rfl, rfl, fun q hq => ?_⟩
      have hpq : p = q := congrArg Prod.fst (Option.some.inj hq)
      refine ⟨?_, rfl⟩
      rw [← hpq]
      exact (Dev.get_of_regs rfl _ _).trans (get_put_self _ BRY_PERIOD.PERIOD p 0 (by decide))
    · rw [if_neg hat]
      exact ⟨rfl, rfl, rfl, fun q hq => absurd (congrArg Prod.snd (Option.some.inj hq)) hat⟩

/-- A tick while a period is set: the counter's advance, each context's part, and the admissions (R62, R404). -/
def Dev.tickRes (d : Dev) : Dev := (allCtx.foldl (Dev.tickCtx d.advanceBeat.1) d.advanceBeat.2).admitStandby

theorem execBeatTick_ticks (s : State) (hon : s.dev.mmc.state ≠ .off) (hperiod : s.dev.get BRY_PERIOD.PERIOD 0 ≠ 0) :
    exec .beatTick s = .next (s.withDev s.dev.tickRes) := by
  have hgo : ¬ ((decide (s.dev.mmc.state = .off) || !s.dev.ticking) = true) := by simp [hon, Dev.ticking, hperiod]
  show execBeatTick s = _
  rw [execBeatTick, run_dev, if_neg hgo]
  rfl

/-! ### Detections at the deadline -/

theorem uncounted_overrun {a b : Ctx} (h : a.uncounted = b.uncounted) : a.overrun = b.overrun := by
  show a.uncounted.overrun = b.uncounted.overrun
  rw [h]

theorem overrun_ite {c : CtxId} {r : Prop} [Decidable r] {a b : Dev} (ha : (a.ctxAt c).overrun = true) (hb : (b.ctxAt c).overrun = true) :
    ((if r then a else b).ctxAt c).overrun = true := by
  split
  · exact ha
  · exact hb

theorem Dev.ringHalt_overrun (d : Dev) (c : CtxId) (except : Option Nat) (cause beat : Nat) :
    ((d.ringHalt c except cause beat).ctxAt c).overrun = (d.ctxAt c).overrun := by
  have hsend : ∀ (e : Dev) (m : Nat) (pk : Pkt), e.Reports (if except = some m then e else e.originate 10 pk) := fun e m pk => by
    split
    · exact Dev.Reports.refl e
    · exact Dev.Reports.originate e 10 pk
  unfold Dev.ringHalt
  simp only
  rw [Dev.modCtx_at]
  exact foldl_keeps (P := fun b : Dev => (b.ctxAt c).overrun = (d.ctxAt c).overrun)
    (fun b g hb => ((uncounted_overrun (((hsend _ _ _).trans (hsend _ _ _)).ctx c)).trans hb)) _ d rfl

/-- A detection in a beat-locked context that runs marks its overrun (R65). -/
theorem Dev.detect_marks (d : Dev) (c : CtxId) {ds : List Detection} (beat : Nat) (hds : ds ≠ []) (hlocked : d.locked c = true)
    (hrun : (d.ctxAt c).state = .running) : ((d.detect c ds beat none).ctxAt c).overrun = true := by
  unfold Dev.detect
  cases ds with
  | nil => exact absurd rfl hds
  | cons a as =>
    simp only [hlocked, hrun, decide_true, Bool.true_or, Bool.and_self, Bool.not_true, Bool.false_eq_true, if_false]
    have hsend : ∀ D : Dev, (D.ctxAt c).overrun = true → ∀ k n,
        ((if (d.ctxAt c).ringHaltSent = true then D else D.ringHalt c none k n).ctxAt c).overrun = true := fun D hD k n => by
      split
      · exact hD
      · rw [Dev.ringHalt_overrun]
        exact hD
    refine hsend _ ?_ _ _
    generalize hE : d.modCtx c _ = E
    have hmark : (E.ctxAt c).overrun = true := by rw [← hE, Dev.modCtx_at]
    refine overrun_ite hmark ?_
    · generalize hF : E.event c 1 _ = F
      have hposted : (F.ctxAt c).overrun = true := by
        rw [← hF, uncounted_overrun ((Dev.Reports.event E c 1 _).ctx c), hmark]
      generalize hG : F.modCtx c _ = G
      have hseen : (G.ctxAt c).overrun = true := by
        rw [← hG, Dev.modCtx_at]
        exact hposted
      rw [Dev.ctxAt, Dev.put_ctx, Dev.put_ctx, Dev.count_ctx]
      exact hseen

/-! ### The period -/

theorem Dev.get_withTime (d : Dev) (x : Time) (f : Fld) (i : Nat) : ({ d with time := x } : Dev).get f i = d.get f i := Dev.get_of_regs rfl f i

theorem Dev.RegsOutside.reg {a b : Dev} {rs : List RegName} (h : a.RegsOutside b rs) {r : RegName} (hr : r ∉ rs) : b.reg r 0 = a.reg r 0 := by
  have hwhole : ∀ d : Dev, d.get ⟨r, 0, 64, .rw, 0⟩ 0 = d.reg r 0 := fun d => by
    show field (d.reg r 0) 0 64 = d.reg r 0
    exact Nat.mod_eq_of_lt (reg_lt d r 0)
  exact (hwhole b).symm.trans ((h ⟨r, 0, 64, .rw, 0⟩ 0 (by decide) hr).trans (hwhole a))

/-- A write of BRY_PERIOD leaves what its checks read but NEXT. -/
theorem Dev.period_written (d : Dev) (w : RegWr) :
    (d.writeFields .BRY_PERIOD 0 false w).time = d.time ∧ (d.writeFields .BRY_PERIOD 0 false w).cclk = d.cclk
      ∧ (d.writeFields .BRY_PERIOD 0 false w).get BRY_PERIOD.PERIOD 0 = d.get BRY_PERIOD.PERIOD 0
      ∧ (d.writeFields .BRY_PERIOD 0 false w).flag BRY_TIME_CFG.ROOT 0 = d.flag BRY_TIME_CFG.ROOT 0
      ∧ (d.writeFields .BRY_PERIOD 0 false w).reg .BRY_PERIOD_AT 0 = d.reg .BRY_PERIOD_AT 0 := by
  have hregs := Dev.onlyRegs.writeFields d .BRY_PERIOD 0 false w
  have hout := d.writeFields_outside .BRY_PERIOD 0 (by decide) false w
  refine ⟨by rw [hregs], by rw [hregs], d.writeFields_keeps BRY_PERIOD.PERIOD 0 (by decide) (by decide) (by decide) false w (by decide), ?_,
    hout.reg (by decide)⟩
  rw [Dev.flag, Dev.flag, hout BRY_TIME_CFG.ROOT 0 (by decide) (by decide)]

/-- What a write of BRY_PERIOD with APPLY does once its fields are written (R410). -/
def Dev.periodRes (d : Dev) (next now : Nat) : Dev :=
  match d.periodCheck next (d.reg .BRY_PERIOD_AT 0) (d.domainTime now) with
  | some st => d.put BRY_PERIOD.STATUS st
  | none =>
    if (d.put BRY_PERIOD.STATUS 0).get BRY_PERIOD.PERIOD = 0 then
      { (d.put BRY_PERIOD.STATUS 0).put BRY_PERIOD.PERIOD next with
        time := { d.time with tickT := d.domainTime now, tickCycle := d.cclk } }
    else { d.put BRY_PERIOD.STATUS 0 with time := { d.time with announced := some (next, d.reg .BRY_PERIOD_AT 0) } }

/-- A write that applies a period, by what its checks say. -/
theorem periodApply_answers {w : RegWr} {now : W64} {next : Nat} {s : State} (h : s.dev.AppliesPeriod w next) {P : State → Prop}
    (hP : P (s.withDev ((s.dev.writeFields .BRY_PERIOD 0 false w).periodRes next now.toNat))) : Answers (.periodApply w now) s P := by
  refine mgmtDev_answers h.manages rfl ?_
  have hres : s.dev.periodWrite w now.toNat = (s.dev.writeFields .BRY_PERIOD 0 false w).periodRes next now.toNat := by
    have hnext := h.next
    simp only [Dev.periodWrite, h.apply, Bool.not_true, Bool.false_eq_true, if_false]
    generalize s.dev.writeFields .BRY_PERIOD 0 false w = d at hnext ⊢
    simp only [hnext, Dev.periodRes]
    cases d.periodCheck next (d.reg .BRY_PERIOD_AT 0) (d.domainTime now.toNat) with
    | some st => rfl
    | none => simp only [Dev.put_time, Dev.put_cclk]
  rw [hres]
  exact hP

end Sys2Proof.Machine

namespace Sys2Proof.Proofs

open Sys2Proof.Machine Sys2Proof.Laws

/-- Settles O33: a period by its checks in order, a tick by what each context's part leaves of time and of the other contexts, a
deadline by what is late. -/
theorem beatAndPeriod : Obligations.BeatAndPeriod := by
  unfold Obligations.BeatAndPeriod
  refine ⟨fun w now next s h => ?_, fun s hon hperiod => ?_, fun c s hlocked hrun hover hends => ⟨fun hnone => ?_, fun hlate => ?_⟩⟩
  · obtain ⟨htime, hcclk, hperiod, hroot, hat⟩ := s.dev.period_written w
    generalize hd : s.dev.writeFields .BRY_PERIOD 0 false w = d at htime hcclk hperiod hroot hat
    have hanswers : ∀ P : State → Prop, P (s.withDev (d.periodRes next now.toNat)) → Answers (.periodApply w now) s P := fun P hP =>
      periodApply_answers h (by rw [hd]; exact hP)
    have hdomain : d.domainTime now.toNat = s.dev.domainTime now.toNat := by rw [Dev.domainTime, Dev.domainTime, htime]
    refine ⟨fun hbad => hanswers _ ?_, fun hlo hhi hnot => hanswers _ ?_, fun hlo hhi hr hp => ?_, fun hlo hhi hr hp hann hbeat hsoon => ?_⟩
    · have hcheck : d.periodCheck next (d.reg .BRY_PERIOD_AT 0) (d.domainTime now.toNat) = some 1 := by
        simp [Dev.periodCheck, hbad]
      simp only [Dev.periodRes, hcheck]
    · have hcheck : d.periodCheck next (d.reg .BRY_PERIOD_AT 0) (d.domainTime now.toNat) = some 2 := by
        simp [Dev.periodCheck, hroot, hnot, Nat.not_lt.mpr hlo, Nat.not_lt.mpr hhi]
      simp only [Dev.periodRes, hcheck]
    · have hcheck : d.periodCheck next (d.reg .BRY_PERIOD_AT 0) (d.domainTime now.toNat) = none := by
        simp [Dev.periodCheck, hroot, hr, hperiod, hp, Nat.not_lt.mpr hlo, Nat.not_lt.mpr hhi]
      have hzero : (d.put BRY_PERIOD.STATUS 0).get BRY_PERIOD.PERIOD = 0 := by
        rw [get_put_field _ BRY_PERIOD.STATUS BRY_PERIOD.PERIOD _ _ rfl (by decide) (by decide), hperiod, hp]
      refine hanswers _ ⟨⟨rfl, rfl, rfl⟩, ?_⟩
      simp only [State.withDev, Dev.periodRes, hcheck, if_pos hzero]
      refine ⟨?_, ?_, by simp only [htime, hdomain, hcclk]⟩
      · rw [Dev.get_withTime, get_put_self _ _ _ _ (by decide)]
        exact Nat.mod_eq_of_lt (Nat.lt_of_le_of_lt hhi (by decide))
      · rw [Dev.get_withTime, get_put_field _ BRY_PERIOD.PERIOD BRY_PERIOD.STATUS next 0 rfl (by decide) (by decide),
          get_put_self _ _ _ _ (by decide)]
        rfl
    · have hcheck : d.periodCheck next (d.reg .BRY_PERIOD_AT 0) (d.domainTime now.toNat) = none := by
        simp [Dev.periodCheck, hroot, hr, hperiod, hp, hat, htime, hann, hdomain, Nat.not_lt.mpr hlo, Nat.not_lt.mpr hhi,
          Nat.not_le.mpr hbeat, Nat.not_lt.mpr hsoon]
      have hsame : (d.put BRY_PERIOD.STATUS 0).get BRY_PERIOD.PERIOD = s.dev.get BRY_PERIOD.PERIOD 0 := by
        rw [get_put_field _ BRY_PERIOD.STATUS BRY_PERIOD.PERIOD _ _ rfl (by decide) (by decide), hperiod]
      refine hanswers _ ⟨⟨rfl, rfl, rfl⟩, ?_⟩
      simp only [State.withDev, Dev.periodRes, hcheck, if_neg (hsame.symm ▸ hp)]
      refine ⟨by rw [Dev.get_withTime, hsame], ?_, by simp only [htime, hat]⟩
      rw [Dev.get_withTime, get_put_self _ _ _ _ (by decide)]
      rfl
  · obtain ⟨hctx, hbeat, htick, hann⟩ := s.dev.advanceBeat_does
    obtain ⟨hframe, hstarts⟩ := Dev.tickAll_does s.dev.advanceBeat.1 allCtx s.dev.advanceBeat.2 (List.nodup_finRange 64)
    have hadmit := (allCtx.foldl (Dev.tickCtx s.dev.advanceBeat.1) s.dev.advanceBeat.2).admitStandby_beat (fun _ => True)
    have hres : s.dev.tickRes = (allCtx.foldl (Dev.tickCtx s.dev.advanceBeat.1) s.dev.advanceBeat.2).admitStandby := rfl
    rw [← hres] at hadmit
    generalize allCtx.foldl (Dev.tickCtx s.dev.advanceBeat.1) s.dev.advanceBeat.2 = x at hframe hstarts hadmit
    have hexec := execBeatTick_ticks s hon hperiod
    generalize s.dev.tickRes = z at hexec hadmit
    have hz : (s.withDev z).dev = z := rfl
    refine ⟨s.withDev z, hexec, ⟨rfl, rfl, rfl⟩, ?_⟩
    rw [hz]
    refine ⟨?_, ?_, fun p hp => ?_, fun c _ hstate hat => ?_⟩
    · rw [hadmit.time, hframe.time, hbeat]
    · rw [hadmit.time, hframe.time, htick]
    · rw [hadmit.period, hframe.period, hadmit.time, hframe.time]
      exact hann p hp
    · have hsame : s.dev.advanceBeat.2.ctxAt c = s.dev.ctxAt c := by rw [Dev.ctxAt, hctx, Dev.ctxAt]
      obtain ⟨hs, ha⟩ := hadmit.ctx c trivial
      obtain ⟨hrun, hnone⟩ := hstarts c (by simp [allCtx]) (hsame ▸ hstate) (by rw [hsame, hat, hbeat])
      exact ⟨hs.trans hrun, ha.trans hnone⟩
  · refine answers_same rfl ?_
    simp [Act.dev, hlocked, hover, hrun, hends, hnone, Dev.detectNow, Dev.detect]
  · have hres : (if !s.dev.locked c || (s.dev.ctxAt c).overrun then s.dev
        else if (s.dev.ctxAt c).state = .running then
          if (s.dev.ctxAt c).endsAt (s.dev.time.beat + 1) then s.dev else s.dev.detectNow c (s.dev.dueLate c (s.dev.time.beat + 1) false)
        else if (s.dev.ctxAt c).startAt = some (s.dev.time.beat + 1) then s.dev.detectNow c (s.dev.dueLate c (s.dev.time.beat + 1) true)
        else s.dev) = s.dev.detectNow c (s.dev.dueLate c (s.dev.time.beat + 1) false) := by
      simp [hlocked, hover, hrun, hends]
    refine answers_device rfl (congrArg (fun d => ({ dev := d } : Res)) hres) fun t honly ht => ⟨honly, ?_, ?_⟩
    · rw [ht]
      exact s.dev.detect_marks c _ hlate hlocked hrun
    · rw [ht]
      exact ((s.dev.detect_beat c _ s.dev.time.beat (s.dev.tickLate_cause c (s.dev.time.beat + 1) false).1 (fun _ => True)).ctx c trivial).1.trans hrun

end Sys2Proof.Proofs
end

section
/-! Records of bytes, what halts and detections leave, link-local packets, and ports that go down. -/

namespace Sys2Proof.Machine

open Sys2Proof.Laws

/-! ### Records of bytes -/

theorem length_sub (bs : Bytes) (o n : Nat) : (sub bs o n).length = n := by
  simp only [sub, List.length_append, List.length_take, List.length_drop, List.length_replicate]
  omega

theorem sub_getElem? (bs : Bytes) (o n j : Nat) (h : j < n) : (sub bs o n)[j]? = some (bs.getD (o + j) 0) := by
  unfold sub
  simp only
  by_cases hj : o + j < bs.length
  · have hlen : j < ((bs.drop o).take n).length := by simp only [List.length_take, List.length_drop]; omega
    rw [List.getElem?_append_left hlen, List.getElem?_take_of_lt h, List.getElem?_drop, List.getD_eq_getElem _ _ hj, List.getElem?_eq_getElem hj]
  · have hlen : ((bs.drop o).take n).length ≤ j := by simp only [List.length_take, List.length_drop]; omega
    rw [List.getElem?_append_right hlen, List.getElem?_replicate, if_pos (by simp only [List.length_take, List.length_drop] at hlen ⊢; omega),
      List.getD_eq_default _ _ (by omega)]

/-- A field of a record's part is a field of the record. -/
theorem sub_sub (bs : Bytes) {i k o n : Nat} (h : o + n ≤ k) : sub (sub bs i k) o n = sub bs (i + o) n := by
  apply List.ext_getElem?
  intro j
  by_cases hj : j < n
  · rw [sub_getElem? _ _ _ _ hj, sub_getElem? _ _ _ _ hj, List.getD_eq_getElem?_getD, sub_getElem? _ _ _ _ (by omega), Option.getD_some, Nat.add_assoc]
  · rw [List.getElem?_eq_none (by rw [length_sub]; omega), List.getElem?_eq_none (by rw [length_sub]; omega)]

theorem rd_sub (bs : Bytes) {k o n : Nat} (h : o + n ≤ k) : rd (sub bs 0 k) o n = rd bs o n := by
  rw [rd, sub_sub bs h, Nat.zero_add, rd]

theorem leNat_lt : ∀ bs : Bytes, leNat bs < 256 ^ bs.length
  | [] => Nat.one_pos
  | b :: bs => by
    have hb := b.isLt
    have ih := leNat_lt bs
    rw [leNat, List.length_cons, Nat.pow_succ]
    omega

theorem rd_lt (bs : Bytes) (o n : Nat) : rd bs o n < 256 ^ n := by
  have h := leNat_lt (sub bs o n)
  rwa [length_sub] at h

/-! ### What halts and detections leave -/

/-- The registers that a halt or a detection may change. -/
def runRegs : List RegName := [.HOST_CTX_STAT, .MMC_LOG_SEL, .BRY_LS_STAT, .BRY_OVR_CNT, .BRY_OVR_LAST]

/-- What halts, detections and lost ports leave: everything that is no report, no context and no thread, but the module's state. -/
structure Dev.Quiet (a b : Dev) : Prop where
  own : b.own = a.own
  keep : b.keep = a.keep
  pwr : b.pwr = a.pwr
  core : b.core = a.core
  regn : b.regn = a.regn
  sync : b.sync = a.sync
  gens : b.gens = a.gens
  time : b.time = a.time
  rte : b.rte = a.rte
  eth : b.eth = a.eth
  cclk : b.cclk = a.cclk
  free : b.free = a.free
  mmc : { b.mmc.unlogged with state := a.mmc.state } = a.mmc.unlogged
  host : b.host.unposted = a.host.unposted

/-- The same, with the links and all registers but a few. -/
structure Dev.Calm (a b : Dev) : Prop extends a.Quiet b where
  lnk : b.lnk = a.lnk
  regs : a.RegsOutside b runRegs

namespace Dev.Quiet

variable {a b c : Dev}

theorem refl : a.Quiet a := by constructor <;> rfl

theorem trans (h : a.Quiet b) (g : b.Quiet c) : a.Quiet c where
  own := g.own.trans h.own
  keep := g.keep.trans h.keep
  pwr := g.pwr.trans h.pwr
  core := g.core.trans h.core
  regn := g.regn.trans h.regn
  sync := g.sync.trans h.sync
  gens := g.gens.trans h.gens
  time := g.time.trans h.time
  rte := g.rte.trans h.rte
  eth := g.eth.trans h.eth
  cclk := g.cclk.trans h.cclk
  free := g.free.trans h.free
  mmc := by
    have e := congrArg (fun m : Mmc => { m with state := a.mmc.state }) g.mmc
    exact e.trans h.mmc
  host := g.host.trans h.host

theorem of_reports (h : a.Reports b) : a.Quiet b :=
  ⟨h.own, h.keep, h.pwr, h.core, h.regn, h.sync, h.gens, h.time, h.rte, h.eth, h.cclk, h.free, by rw [h.mmc]; rfl, h.host⟩

theorem of_put {f : Fld} {v i : Nat} : a.Quiet (a.put f v i) := by constructor <;> rfl

theorem of_count {f : Fld} {i n : Nat} : a.Quiet (a.count f i n) := of_put

theorem ite {r : Prop} [Decidable r] (hb : a.Quiet b) (hc : a.Quiet c) : a.Quiet (if r then b else c) := by
  split
  · exact hb
  · exact hc

/-- A field of the MMC but its error log and its state. -/
theorem mmc_field (h : a.Quiet b) {α : Type} (f : Mmc → α) (hf : ∀ m s, f { m.unlogged with state := s } = f m) : f b.mmc = f a.mmc := by
  have e := congrArg f h.mmc
  rw [hf] at e
  rw [e]
  exact hf a.mmc a.mmc.state

theorem units (h : a.Quiet b) : b.mmc.units = a.mmc.units := h.mmc_field Mmc.units (fun _ _ => rfl)

end Dev.Quiet

namespace Dev.Calm

variable {a b c : Dev}

theorem refl : a.Calm a := ⟨Quiet.refl, rfl, RegsOutside.refl a _⟩

theorem trans (h : a.Calm b) (g : b.Calm c) : a.Calm c := ⟨h.toQuiet.trans g.toQuiet, g.lnk.trans h.lnk, h.regs.trans g.regs⟩

theorem of_reports (h : a.Reports b) : a.Calm b := ⟨Quiet.of_reports h, h.lnk, RegsOutside.of_reports h (by decide) (by decide)⟩

theorem of_put {f : Fld} {v i : Nat} (hf : f.reg ∈ runRegs) (hi : i < 1024) : a.Calm (a.put f v i) :=
  ⟨Quiet.of_put, rfl, RegsOutside.put a f v i hi hf⟩

theorem of_count {f : Fld} {i n : Nat} (hf : f.reg ∈ runRegs) (hi : i < 1024) : a.Calm (a.count f i n) := of_put hf hi

theorem of_modCtx {k : CtxId} {f : Ctx → Ctx} : a.Calm (a.modCtx k f) := ⟨by constructor <;> rfl, rfl, RegsOutside.of_regs rfl _⟩

theorem ite {r : Prop} [Decidable r] (hb : a.Calm b) (hc : a.Calm c) : a.Calm (if r then b else c) := by
  split
  · exact hb
  · exact hc

theorem foldl {A : Type} {f : Dev → A → Dev} (hf : ∀ (d : Dev) (x : A), d.Calm (f d x)) (l : List A) (d : Dev) : d.Calm (l.foldl f d) :=
  foldl_keeps (P := fun b => d.Calm b) (fun b x hb => hb.trans (hf b x)) l d refl

theorem of_settle {d : Dev} : d.Calm d.settleModule := by
  obtain ⟨r, st, h⟩ := d.settleModule_changes
  have hregs := Dev.RegsOutside.settleModule d (rs := runRegs) (by decide)
  rw [h] at hregs ⊢
  exact ⟨by constructor <;> rfl, rfl, hregs⟩

end Dev.Calm

theorem Dev.ringHalt_calm (d : Dev) (c : CtxId) (except : Option Nat) (cause beat : Nat) : d.Calm (d.ringHalt c except cause beat) := by
  have hsend : ∀ (e : Dev) (m : Nat) (pk : Pkt), e.Calm (if except = some m then e else e.originate 10 pk) := fun e m pk =>
    Dev.Calm.ite .refl (.of_reports (Dev.Reports.originate e 10 pk))
  unfold Dev.ringHalt
  simp only
  exact Dev.Calm.trans (Dev.Calm.foldl (fun d g => (hsend _ _ _).trans (hsend _ _ _)) _ d) .of_modCtx

theorem Dev.detect_calm (d : Dev) (c : CtxId) (ds : List Detection) (beat : Nat) (from' : Option (Nat × Nat × Nat))
    (hds : ∀ x ∈ ds, x.cause < 1024) : d.Calm (d.detect c ds beat from') := by
  unfold Dev.detect
  cases ds with
  | nil => exact .refl
  | cons a as =>
    have hcause := hds _ (firstDetection_mem as a)
    simp only
    refine .ite .refl ?_
    generalize firstDetection a as = f at hcause ⊢
    generalize hE : d.modCtx c _ = E
    have hmark : d.Calm E := hE ▸ .of_modCtx
    generalize hD : (if ((d.ctxAt c).detections.any _) = true then E else _) = D
    have hposted : d.Calm D := by
      rw [← hD]
      refine .ite hmark ?_
      generalize hF : E.event c 1 _ = F
      have h1 : E.Calm F := .of_reports (hF ▸ Dev.Reports.event E c 1 _)
      generalize hG : F.modCtx c _ = G
      have h2 : F.Calm G := hG ▸ .of_modCtx
      exact hmark.trans (h1.trans (h2.trans (Dev.Calm.trans (.of_count (by decide) (by omega))
        (Dev.Calm.trans (.of_put (by decide) (by decide)) (.of_put (by decide) (by decide))))))
    refine .ite hposted ?_
    split
    · exact hposted.trans (Dev.ringHalt_calm D c _ _ _)
    · exact hposted.trans (Dev.ringHalt_calm D c _ _ _)

theorem Dev.haltCtx_calm (d : Dev) (c : CtxId) (r : Nat) : d.Calm (d.haltCtx c r) := by
  obtain ⟨t, e, hstop⟩ := d.stopCores_frame (d.ctxAt c).cores
  have h1 : d.Calm ((d.stopCores (d.ctxAt c).cores).dropMoves c) := by
    rw [hstop]
    exact ⟨by constructor <;> rfl, rfl, Dev.RegsOutside.of_regs rfl _⟩
  unfold Dev.haltCtx
  simp only
  generalize (d.stopCores (d.ctxAt c).cores).dropMoves c = x at h1
  have h2 := h1.trans (.of_reports (Dev.Reports.finishOp x c opHaltAtBeat (if r = haltAtBeatReason then 0 else 0x14)))
  generalize x.finishOp c opHaltAtBeat (if r = haltAtBeatReason then 0 else 0x14) = y at h2
  generalize hz : y.modCtx c _ = z
  have h3 : y.Calm z := hz ▸ .of_modCtx
  exact h2.trans (h3.trans (Dev.Calm.trans (.of_reports (Dev.Reports.event z c 5 _)) .of_settle))

theorem Dev.unitLost_calm (d : Dev) (c : CtxId) (unit : Nat) : d.Calm (d.unitLost c unit) := by
  unfold Dev.unitLost
  refine .ite (.ite ?_ (d.haltCtx_calm c _)) .refl
  exact d.detect_calm c _ _ _ (fun x hx => by rw [List.mem_singleton.mp hx]; exact (by decide : 2 < 1024))

theorem Dev.ringPortLost_calm (d : Dev) (k : Nat) : d.Calm (d.ringPortLost k) := by
  unfold Dev.ringPortLost
  refine .foldl (fun d c => ?_) _ d
  split
  · exact .refl
  · rename_i x xs hxs
    refine d.detect_calm c _ _ _ (fun y hy => ?_)
    rw [← hxs, List.mem_map] at hy
    obtain ⟨g, -, rfl⟩ := hy
    exact (by decide : 1 < 1024)

/-! ### Link-local packets (R399, R400) -/

/-- A link-local packet that passes the steps of R382 in a state that its row lists. -/
theorem linkLocal_hears {d : Dev} {a : Arrival} {ty : Nat} (h : d.Hears a ty) {states : Nat → Dev → Bool} (hs : states a.port.val d = true)
    (g : Nat → Pkt → Nat → Act) (f : Fuses) (m : Mem) :
    linkLocalAct ty states g a f m d = { g a.port.val a.pkt a.now.toNat f m d with
      dev := (g a.port.val a.pkt a.now.toNat f m d).dev.passed a } := by
  have hfound := Nat.not_lt.mpr h.found
  simp only [linkLocalAct, arriveAct, h.type, ne_eq, not_true_eq_false, hfound, decide_false, Bool.or_self, Bool.false_eq_true,
    if_false, h.takes, Bool.not_true, h.form, hs, h.key, h.sound, Dev.passed]

theorem linkLocal_answers {i : Instr} {s : State} {a : Arrival} {ty : Nat} {states : Nat → Dev → Bool} {g : Nat → Pkt → Nat → Dev → Dev}
    {P : State → Prop} (h : s.dev.Hears a ty) (hs : states a.port.val s.dev = true)
    (he : exec i s = .next (s.run (linkLocalAct ty states (fun k p now => Act.dev (g k p now)) a)))
    (hP : ∀ t, s.onlyDev t → t.dev = (g a.port.val a.pkt a.now.toNat s.dev).passed a → P t) : Answers i s P :=
  answers_device he (linkLocal_hears h hs _ s.fuse s.mem) hP

/-- Flits that pass an input buffer change its credits alone. -/
theorem Dev.passed_rest (d : Dev) (a : Arrival) : d.passed a = { d with lnk := (d.passed a).lnk } := rfl

/-- A port's record without what its input buffer holds and has freed. -/
def LnkPort.unheld (p : LnkPort) : LnkPort := { p with held := [], sfreed := [], rfreed := [] }

theorem Dev.modPort_unheld {d : Dev} {j k : Nat} {f : LnkPort → LnkPort} (hf : ∀ p, (f p).unheld = p.unheld) :
    ((d.modPort j f).portAt k).unheld = (d.portAt k).unheld := by
  by_cases e : k = j
  · subst e
    unfold Dev.modPort Dev.portAt
    rw [tblGet_mod_self, hf]
  · unfold Dev.modPort Dev.portAt
    rw [tblGet_mod_ne e]

theorem Dev.freeFlits_port (d : Dev) (j vc n k : Nat) : ((d.freeFlits j vc n).portAt k).unheld = (d.portAt k).unheld :=
  Dev.modPort_unheld (fun _ => rfl)

theorem Dev.passed_port (d : Dev) (a : Arrival) (k : Nat) : ((d.passed a).portAt k).unheld = (d.portAt k).unheld :=
  (Dev.freeFlits_port _ _ _ _ k).trans (Dev.modPort_unheld (fun _ => rfl))

theorem Dev.passed_get (d : Dev) (a : Arrival) (f : Fld) (i : Nat) : (d.passed a).get f i = d.get f i := Dev.get_of_regs rfl f i

theorem Dev.modPort_at (d : Dev) (k : Nat) (f : LnkPort → LnkPort) : (d.modPort k f).portAt k = f (d.portAt k) := tblGet_mod_self

theorem Dev.modPort_at_ne (d : Dev) {k j : Nat} (f : LnkPort → LnkPort) (h : j ≠ k) : (d.modPort k f).portAt j = d.portAt j := tblGet_mod_ne h

theorem Dev.modPort_get (d : Dev) (k : Nat) (g : LnkPort → LnkPort) (f : Fld) (i : Nat) : (d.modPort k g).get f i = d.get f i :=
  Dev.get_of_regs rfl f i

/-! ### Ports that go down -/

/-- The registers that a port's going down may change beside those of its own status. -/
def downRegs : List RegName := [.LNK_ERR, .LNK_QUAD, .BRY_NBR, .BRY_NBR_SERIAL, .MMC_LOG_SEL, .HOST_CTX_STAT, .BRY_LS_STAT, .BRY_OVR_CNT, .BRY_OVR_LAST]

theorem tblGet_absent {V : Type} {e : V} {k : Nat} : ∀ {t : Tbl V}, (∀ x ∈ t, x.1 ≠ k) → tblGet e t k = e
  | [], _ => rfl
  | x :: xs, h => by
    have hx : x.1 ≠ k := h x List.mem_cons_self
    have ih := tblGet_absent (e := e) (k := k) (t := xs) (fun y hy => h y (List.mem_cons_of_mem _ hy))
    obtain ⟨j, v⟩ := x
    rw [tblGet, if_neg hx, ih]

/-- A table keeps no entry of a key that was set to the table's default, whatever its other entries become. -/
theorem tblGet_map_reset {V : Type} [DecidableEq V] {e : V} {t : Tbl V} {k : Nat} {f : Nat → V → V} :
    tblGet e (tblMap e f (tblSet e t k e)) k = e := by
  apply tblGet_absent
  intro x hx
  simp only [tblMap, List.mem_filter, List.mem_map] at hx
  obtain ⟨⟨y, hy, rfl⟩, -⟩ := hx
  simp only [tblSet, if_true, tblDel, List.mem_filter] at hy
  simpa using hy.2

theorem Dev.freeFlits_frame (d : Dev) (k vc n : Nat) : ∃ l, d.freeFlits k vc n = { d with lnk := l } := ⟨_, rfl⟩

/-- A discarded packet frees the input buffer of another port. -/
def Dev.freeInput (k : Nat) (d : Dev) (v : VcPkt) : Dev :=
  match v.inp with
  | some (ik, ivc) => if ik = k then d else d.freeFlits ik ivc v.flits
  | none => d

theorem Dev.freeInput_frame (k : Nat) (q : List VcPkt) (d : Dev) : ∃ l, q.foldl (Dev.freeInput k) d = { d with lnk := l } :=
  foldl_keeps (P := fun b : Dev => ∃ l, b = { d with lnk := l }) (fun b v ⟨l, hb⟩ => by
    unfold Dev.freeInput
    split
    · split
      · exact ⟨l, hb⟩
      · obtain ⟨l', h⟩ := b.freeFlits_frame _ _ v.flits
        exact ⟨l', h.trans (by rw [hb])⟩
    · exact ⟨l, hb⟩) q d ⟨d.lnk, rfl⟩

/-- Every quad of a port is an index of LNK_QUAD. -/
theorem Dev.portQuads_lt (d : Dev) (k : Nat) : ∀ q ∈ d.portQuads k, q < 1024 := by
  have hf : d.get LNK_PORT_MAP.FIRST k < 2 ^ 6 := field_lt _ _ _
  have hc : d.get LNK_PORT_MAP.COUNT k < 2 ^ 6 := field_lt _ _ _
  have hs : d.get LNK_PORT_MAP.SPARES k < 2 ^ 2 := field_lt _ _ _
  intro q hq
  simp only [Dev.portQuads] at hq
  split at hq
  · exact absurd hq List.not_mem_nil
  · simp only [Dev.activePlaces, Dev.sparePlaces, List.mem_append, List.mem_map, List.mem_range] at hq
    rcases hq with ⟨i, hi, rfl⟩ | ⟨i, hi, rfl⟩ <;> omega

/-- What setting one quad's state does. -/
theorem Dev.putQuad_does (d : Dev) {q st : Nat} (hst : st < 8) (hq : q < 1024) :
    (d.putQuad q st).quadState q = st ∧ (∀ j < 1024, j ≠ q → (d.putQuad q st).quadState j = d.quadState j)
      ∧ ∀ (f : Fld) (i : Nat), i < 1024 → f.reg ≠ .LNK_QUAD → (d.putQuad q st).get f i = d.get f i := by
  refine ⟨?_, fun j hj h => ?_, fun f i hi hf => get_put_ne _ _ _ _ _ _ (regKey_ne hi hq hf)⟩
  · rw [Dev.quadState, Dev.putQuad, get_put_self _ _ _ _ (by decide)]
    exact Nat.mod_eq_of_lt hst
  · exact get_put_ne d LNK_QUAD.STATE LNK_QUAD.STATE st q j (by unfold regKey; omega)

/-- Quads that all take a state. -/
structure Dev.QuadsSet (a b : Dev) (qs : List Nat) (st : Nat) : Prop where
  quiet : a.Quiet b
  lnk : b.lnk = a.lnk
  ctx : b.ctx = a.ctx
  set : ∀ q ∈ qs, b.quadState q = st
  others : ∀ q, q < 1024 → q ∉ qs → b.quadState q = a.quadState q
  regs : ∀ (f : Fld) (i : Nat), i < 1024 → f.reg ≠ .LNK_QUAD → b.get f i = a.get f i

theorem Dev.putQuads_does {st : Nat} (hst : st < 8) (qs : List Nat) (d : Dev) (hlt : ∀ q ∈ qs, q < 1024) :
    d.QuadsSet (qs.foldl (fun d q => d.putQuad q st) d) qs st := by
  induction qs generalizing d with
  | nil => exact ⟨.refl, rfl, rfl, fun q hq => absurd hq List.not_mem_nil, fun _ _ _ => rfl, fun _ _ _ _ => rfl⟩
  | cons q qs ih =>
    have hq : q < 1024 := hlt q List.mem_cons_self
    obtain ⟨hself, hne, hrest⟩ := d.putQuad_does hst hq
    have hone : d.Quiet (d.putQuad q st) := Dev.Quiet.of_put
    have hlnk : (d.putQuad q st).lnk = d.lnk := Dev.put_lnk ..
    have hctx : (d.putQuad q st).ctx = d.ctx := Dev.put_ctx ..
    rw [List.foldl_cons]
    generalize d.putQuad q st = e at hself hne hrest hone hlnk hctx
    have h := ih e (fun j hj => hlt j (List.mem_cons_of_mem _ hj))
    refine ⟨hone.trans h.quiet, h.lnk.trans hlnk, h.ctx.trans hctx, fun j hj => ?_, fun j hj hnot => ?_, fun f i hi hf =>
      (h.regs f i hi hf).trans (hrest f i hi hf)⟩
    · by_cases hmem : j ∈ qs
      · exact h.set j hmem
      · obtain rfl := (List.mem_cons.mp hj).resolve_right hmem
        exact (h.others j hq hmem).trans hself
    · obtain ⟨hjq, hjqs⟩ := not_or.mp (List.mem_cons.not.mp hnot)
      exact (h.others j hj hjqs).trans (hne j hj hjq)

theorem Dev.resetRegsAt_get (d : Dev) (rs : List RegName) (k : Nat) (hk : k < 1024) (f : Fld) (i : Nat) (hi : i < 1024) (hf : f.reg ∉ rs) :
    (d.resetRegsAt rs k).get f i = d.get f i := by
  unfold Dev.get Dev.reg Dev.resetRegsAt
  rw [tblGet_drop_of_not]
  simp only [List.any_eq_false, decide_eq_true_eq]
  exact fun r hr => regKey_ne hk hi (fun e => hf (e ▸ hr))

theorem Dev.portQuads_of_regs {a b : Dev} {rs : List RegName} (h : a.RegsOutside b rs) (k : Nat) (hk : k < 1024)
    (hrs : .LNK_PORT_MAP ∉ rs ∧ .LNK_PROFILE ∉ rs) : b.portQuads k = a.portQuads k := by
  obtain ⟨hmap, hprofile⟩ := hrs
  simp only [Dev.portQuads, Dev.portCount, Dev.activePlaces, Dev.sparePlaces, Dev.flag, h LNK_PORT_MAP.COUNT k hk hmap,
    h LNK_PORT_MAP.FIRST k hk hmap, h LNK_PORT_MAP.SPARES k hk hmap, h LNK_PROFILE.COMMITTED 0 (by decide) hprofile]
  rfl

/-- What a port's going down does (R331, R353). -/
structure Dev.WentDown (a b : Dev) (k : Nat) : Prop where
  quiet : a.Quiet b
  state : b.portState k = psDown
  port : b.portAt k = LnkPort.init
  quads : ∀ q ∈ a.portQuads k, b.quadState q = qsOff
  stat : ∀ (f : Fld) (j : Nat), j < 1024 → j ≠ k → f.reg = .LNK_PORT_STAT → b.get f j = a.get f j
  regs : a.RegsOutside b (.LNK_PORT_STAT :: downRegs)

/-- The status of a port whose quads are off. -/
def Dev.statDown (d : Dev) (k : Nat) : Dev :=
  (((d.put LNK_PORT_STAT.STATE psDown k).put LNK_PORT_STAT.ACTIVE 0 k).put LNK_PORT_STAT.SPARE_USED 0 k).count LNK_PORT_STAT.DOWNS k

theorem Dev.statDown_does (d : Dev) {k : Nat} (hk : k < 1024) : (d.statDown k).portState k = psDown ∧ d.Quiet (d.statDown k)
    ∧ (d.statDown k).lnk = d.lnk
    ∧ (∀ (f : Fld) (j : Nat), j < 1024 → (f.reg = .LNK_PORT_STAT → j ≠ k) → (d.statDown k).get f j = d.get f j) := by
  have hput : ∀ (e : Dev) (g : Fld) (v : Nat), g.reg = .LNK_PORT_STAT → LNK_PORT_STAT.STATE.lo + LNK_PORT_STAT.STATE.width ≤ g.lo →
      g.lo + g.width ≤ 64 → (e.put g v k).portState k = e.portState k := fun e g v hg hlo hw =>
    get_put_field e g LNK_PORT_STAT.STATE v k hg.symm hw (.inl hlo)
  have hother : ∀ (e : Dev) (g f : Fld) (v j : Nat), g.reg = .LNK_PORT_STAT → j < 1024 → (f.reg = .LNK_PORT_STAT → j ≠ k) →
      (e.put g v k).get f j = e.get f j := fun e g f v j hg hj hf => by
    refine get_put_ne e g f v k j ?_
    by_cases hr : f.reg = .LNK_PORT_STAT
    · have := hf hr
      rw [hr, hg]
      unfold regKey
      omega
    · rw [hg]
      exact regKey_ne hj hk hr
  refine ⟨?_, ?_, ?_, fun f j hj hf => ?_⟩
  · rw [Dev.statDown, Dev.count, hput _ _ _ rfl (by decide) (by decide), hput _ _ _ rfl (by decide) (by decide),
      hput _ _ _ rfl (by decide) (by decide), Dev.portState, get_put_self _ _ _ _ (by decide)]
    rfl
  · exact Dev.Quiet.trans (Dev.Quiet.trans (Dev.Quiet.trans .of_put .of_put) .of_put) .of_count
  · rw [Dev.statDown, Dev.count_lnk, Dev.put_lnk, Dev.put_lnk, Dev.put_lnk]
  · rw [Dev.statDown, Dev.count, hother _ _ _ _ _ rfl hj hf, hother _ _ _ _ _ rfl hj hf, hother _ _ _ _ _ rfl hj hf, hother _ _ _ _ _ rfl hj hf]

/-- The neighbour entry and the record of a port are cleared. -/
def Dev.portCleared (d : Dev) (k : Nat) : Dev :=
  let d := (d.resetRegsAt [.BRY_NBR, .BRY_NBR_SERIAL] k).modPort k (fun _ => LnkPort.init)
  { d with lnk := tblMap LnkPort.init (fun _ p => { p with
    queue := p.queue.map (fun v => if v.inp.any (fun i => i.1 = k) then { v with inp := none } else v) }) d.lnk }

theorem Dev.portCleared_does (d : Dev) {k : Nat} (hk : k < 1024) : d.Quiet (d.portCleared k) ∧ (d.portCleared k).portAt k = LnkPort.init
    ∧ d.RegsOutside (d.portCleared k) [.BRY_NBR, .BRY_NBR_SERIAL] := by
  have hport : (d.portCleared k).portAt k = LnkPort.init := by
    unfold Dev.portCleared Dev.portAt Dev.modPort tblMod
    simp only
    exact tblGet_map_reset (e := LnkPort.init)
  refine ⟨by constructor <;> rfl, hport, fun f i hi hf => ?_⟩
  exact (Dev.get_of_regs rfl f i).trans (d.resetRegsAt_get _ k hk f i hi hf)

/-- What a port that is not DOWN does as it goes down. -/
theorem Dev.portDown_of_up (d : Dev) (k : Nat) (fault : Bool) (hup : d.portState k ≠ psDown) : d.portDown k fault =
    (let x := ((d.portAt k).queue.foldl (Dev.freeInput k) d).count LNK_ERR.DROP_DOWN 0 (d.portAt k).queue.length
     let e := (((x.portQuads k).foldl (fun d q => d.putQuad q qsOff) x).statDown k).portCleared k
     let e := if fault then e.logError 2 0 (e.portUnit k) 0x0021 0 0 0 else e
     if psUp ≤ d.portState k then e.ringPortLost k else e) := by
  rw [Dev.portDown, if_neg hup]
  rfl

theorem Dev.portDown_does (d : Dev) (k : Nat) (hk : k < 1024) (fault : Bool) (hup : d.portState k ≠ psDown) :
    d.WentDown (d.portDown k fault) k := by
  obtain ⟨l, hfree⟩ := Dev.freeInput_frame k (d.portAt k).queue d
  have hform := d.portDown_of_up k fault hup
  rw [hfree] at hform
  obtain ⟨x, hx⟩ : ∃ x, x = ({ d with lnk := l } : Dev).count LNK_ERR.DROP_DOWN 0 (d.portAt k).queue.length := ⟨_, rfl⟩
  have hxregs : d.RegsOutside x [.LNK_ERR] := hx ▸ Dev.RegsOutside.trans (b := { d with lnk := l }) (.of_regs rfl _) (.count _ _ _ _ (by decide) (by decide))
  have hxquiet : d.Quiet x := hx ▸ Dev.Quiet.trans (b := { d with lnk := l }) (by constructor <;> rfl) .of_count
  have hxquads : x.portQuads k = d.portQuads k := Dev.portQuads_of_regs hxregs k hk (by decide)
  rw [← hx] at hform
  simp only at hform
  have hq := Dev.putQuads_does (st := qsOff) (by decide) (x.portQuads k) x (x.portQuads_lt k)
  generalize (x.portQuads k).foldl (fun d q => d.putQuad q qsOff) x = y at hq hform
  obtain ⟨hsstate, hsquiet, -, hsregs⟩ := y.statDown_does hk
  generalize y.statDown k = z at hsstate hsquiet hsregs hform
  obtain ⟨hcquiet, hcport, hcregs⟩ := z.portCleared_does hk
  generalize z.portCleared k = u at hcquiet hcport hcregs hform
  have hlast : u.Calm (d.portDown k fault) := by
    rw [hform]
    have hlog : u.Calm (if fault = true then u.logError 2 0 (u.portUnit k) 0x0021 0 0 0 else u) :=
      .ite (.of_reports (Dev.Reports.logError _ _ _ _ _ _ _ _)) .refl
    generalize (if fault = true then u.logError 2 0 (u.portUnit k) 0x0021 0 0 0 else u) = v at hlog ⊢
    have hlost := v.ringPortLost_calm k
    generalize v.ringPortLost k = w at hlost ⊢
    split
    · exact hlog.trans hlost
    · exact hlog
  generalize d.portDown k fault = t at hlast
  refine ⟨((hxquiet.trans hq.quiet).trans (hsquiet.trans hcquiet)).trans hlast.toQuiet, ?_, ?_, fun q hmem => ?_, fun f j hj hne hf => ?_, fun f i hi hf => ?_⟩
  · exact (hlast.regs LNK_PORT_STAT.STATE k hk (by decide)).trans ((hcregs LNK_PORT_STAT.STATE k hk (by decide)).trans hsstate)
  · rw [Dev.portAt, hlast.lnk]
    exact hcport
  · have hlt := d.portQuads_lt k q hmem
    rw [← hxquads] at hmem
    exact (hlast.regs LNK_QUAD.STATE q hlt (by decide)).trans ((hcregs LNK_QUAD.STATE q hlt (by decide)).trans ((hsregs LNK_QUAD.STATE q hlt (fun e => absurd e (by decide))).trans (hq.set q hmem)))
  · have hout : f.reg ∉ runRegs ∧ f.reg ∉ [RegName.BRY_NBR, .BRY_NBR_SERIAL] ∧ f.reg ≠ .LNK_QUAD ∧ f.reg ∉ [RegName.LNK_ERR] := by
      rw [hf]
      decide
    obtain ⟨h1, h2, h3, h4⟩ := hout
    exact (hlast.regs f j hj h1).trans ((hcregs f j hj h2).trans ((hsregs f j hj (fun _ => hne)).trans ((hq.regs f j hj h3).trans (hxregs f j hj h4))))
  · simp only [downRegs, List.mem_cons, List.not_mem_nil, or_false, not_or] at hf
    obtain ⟨n1, n2, n3, n4, n5, n6, n7, n8, n9, n10⟩ := hf
    have h1 : f.reg ∉ runRegs := by simp [runRegs, n6, n7, n8, n9, n10]
    exact (hlast.regs f i hi h1).trans ((hcregs f i hi (by simp [n4, n5])).trans ((hsregs f i hi (fun e => absurd e n1)).trans
      ((hq.regs f i hi n3).trans (hxregs f i hi (by simp [n2])))))

end Sys2Proof.Machine
end

section
/-! Discovery (R401 to R403, R423). -/

namespace Sys2Proof.Machine

open Sys2Proof.Laws

/-! ### Fields set one after another -/

/-- Two fields that are set apart at one index: of two registers, or without a common bit. -/
def Fld.clear (f g : Fld) : Bool := f.reg ≠ g.reg || f.apart g

theorem get_put_clear (d : Dev) {f g : Fld} (v : Nat) {i : Nat} (hi : i < 1024) (hw : f.lo + f.width ≤ 64) (h : f.clear g = true) :
    (d.put f v i).get g i = d.get g i := by
  simp only [Fld.clear, Fld.apart, Bool.or_eq_true, decide_eq_true_eq] at h
  by_cases hr : f.reg = g.reg
  · exact get_put_field d f g v i hr.symm hw (by have := h.resolve_left (fun e => e hr); omega)
  · exact get_put_ne d f g v i i (regKey_ne hi hi (Ne.symm hr))

/-- Fields that are all set, each to its value. -/
def Dev.puts (d : Dev) (es : List (Fld × Nat)) (i : Nat) : Dev := es.foldl (fun d e => d.put e.1 e.2 i) d

theorem Dev.puts_keep {i : Nat} (hi : i < 1024) (g : Fld) : ∀ (es : List (Fld × Nat)) (d : Dev),
    (es.map Prod.fst).all (fun f => f.lo + f.width ≤ 64 && f.clear g) = true → (d.puts es i).get g i = d.get g i
  | [], _, _ => rfl
  | e :: es, d, h => by
    simp only [List.map_cons, List.all_cons, Bool.and_eq_true, decide_eq_true_eq] at h
    obtain ⟨⟨hw, hclear⟩, hrest⟩ := h
    exact (puts_keep hi g es (d.put e.1 e.2 i) hrest).trans (get_put_clear d e.2 hi hw hclear)

/-- Fields of which none overlaps a later one. -/
def fieldsClear : List Fld → Bool
  | [] => true
  | f :: fs => f.lo + f.width ≤ 64 && fs.all (fun g => g.lo + g.width ≤ 64 && g.clear f) && fieldsClear fs

theorem Dev.puts_get {i : Nat} (hi : i < 1024) : ∀ (es : List (Fld × Nat)) (d : Dev), fieldsClear (es.map Prod.fst) = true →
    ∀ e ∈ es, (d.puts es i).get e.1 i = e.2 % 2 ^ e.1.width
  | [], _, _ => fun e he => absurd he List.not_mem_nil
  | x :: es, d, h => fun e he => by
    simp only [List.map_cons, fieldsClear, Bool.and_eq_true, decide_eq_true_eq] at h
    obtain ⟨⟨hw, hrest⟩, hclear⟩ := h
    rcases List.mem_cons.mp he with rfl | he
    · exact (Dev.puts_keep hi e.1 es (d.put e.1 e.2 i) hrest).trans (get_put_self d e.1 e.2 i hw)
    · exact puts_get hi es (d.put x.1 x.2 i) hclear e he

theorem Dev.puts_onlyRegs (es : List (Fld × Nat)) (d : Dev) (i : Nat) : d.onlyRegs (d.puts es i) :=
  foldl_keeps (P := fun b => d.onlyRegs b) (fun b e hb => hb.trans (Dev.onlyRegs.put b e.1 e.2 i)) es d (Dev.onlyRegs.refl d)

/-! ### Neighbours -/

/-- Noting what a HELLO shows changes two fields of the neighbour's entry. -/
theorem Dev.noteNeighbour_does (d : Dev) {k : Nat} (hk : k < 1024) (h : Bytes) : d.onlyRegs (d.noteNeighbour k h)
    ∧ ∀ g : Fld, BRY_NBR.QMISMATCH.clear g = true → BRY_NBR.DUP_ID.clear g = true → (d.noteNeighbour k h).get g k = d.get g k := by
  unfold Dev.noteNeighbour
  simp only
  refine ⟨?_, fun g h1 h2 => ?_⟩
  · split <;> split
    · exact (Dev.onlyRegs.put d _ _ _).trans (Dev.onlyRegs.put _ _ _ _)
    · exact Dev.onlyRegs.put d _ _ _
    · exact Dev.onlyRegs.put d _ _ _
    · exact Dev.onlyRegs.refl d
  · split <;> split
    · rw [get_put_clear _ _ hk (by decide) h2, get_put_clear _ _ hk (by decide) h1]
    · rw [get_put_clear _ _ hk (by decide) h1]
    · rw [get_put_clear _ _ hk (by decide) h2]
    · rfl

/-- The fields that a neighbour's entry takes from its HELLO (R402, R423). -/
def neighbourFields (h : Bytes) : List (Fld × Nat) :=
  [(BRY_NBR.PEER_ID, rd h 8 2), (BRY_NBR.PEER_PORT, rdb h 0xC), (BRY_NBR.PEER_COUNT, rdb h 0xD),
    (BRY_NBR.PEER_PROFILE, field (rdb h 0xE) 0 3), (BRY_NBR.VALID, 1), (BRY_NBR.PEER_DOMAIN, rd h 0xA 2),
    (BRY_NBR.PEER_ID_VALID, field (rdb h 0xE) 6 1), (BRY_NBR.PEER_SWITCH, field (rdb h 0xE) 7 1), (BRY_NBR_SERIAL.SERIAL, rd h 0 8)]

def neighbourNames : List Fld := [BRY_NBR.PEER_ID, BRY_NBR.PEER_PORT, BRY_NBR.PEER_COUNT, BRY_NBR.PEER_PROFILE, BRY_NBR.VALID, BRY_NBR.PEER_DOMAIN,
  BRY_NBR.PEER_ID_VALID, BRY_NBR.PEER_SWITCH, BRY_NBR_SERIAL.SERIAL]

theorem neighbourFields_names (h : Bytes) : (neighbourFields h).map Prod.fst = neighbourNames := rfl

theorem mem_neighbourNames {h : Bytes} {e : Fld × Nat} (he : e ∈ neighbourFields h) : e.1 ∈ neighbourNames :=
  neighbourFields_names h ▸ List.mem_map_of_mem he

theorem Dev.writeNeighbour_eq (d : Dev) (k : Nat) (h : Bytes) :
    d.writeNeighbour k h = ((d.resetRegsAt [.BRY_NBR, .BRY_NBR_SERIAL] k).puts (neighbourFields h) k).noteNeighbour k h := rfl

theorem Dev.writeNeighbour_does (d : Dev) {k : Nat} (hk : k < 1024) (h : Bytes) : d.onlyRegs (d.writeNeighbour k h)
    ∧ ∀ e ∈ neighbourFields h, (d.writeNeighbour k h).get e.1 k = e.2 % 2 ^ e.1.width := by
  have hreset : d.onlyRegs (d.resetRegsAt [.BRY_NBR, .BRY_NBR_SERIAL] k) := rfl
  obtain ⟨honly, hkeep⟩ := ((d.resetRegsAt [.BRY_NBR, .BRY_NBR_SERIAL] k).puts (neighbourFields h) k).noteNeighbour_does hk h
  rw [Dev.writeNeighbour_eq]
  refine ⟨(hreset.trans (Dev.puts_onlyRegs _ _ k)).trans honly, fun e he => ?_⟩
  have hnames : ∀ f ∈ neighbourNames, BRY_NBR.QMISMATCH.clear f = true ∧ BRY_NBR.DUP_ID.clear f = true := by decide
  obtain ⟨h1, h2⟩ := hnames e.1 (mem_neighbourNames he)
  rw [hkeep e.1 h1 h2]
  exact Dev.puts_get hk _ _ (by rw [neighbourFields_names]; decide) e he

/-- A port in DISCOVER that its neighbour has named arms (R402). -/
def Dev.armed (d : Dev) (k : Nat) (h : Bytes) : Dev := ((d.writeNeighbour k h).put LNK_PORT_STAT.STATE psArmed k).fullCredits k

theorem Dev.armed_does (d : Dev) {k : Nat} (hk : k < 1024) (h : Bytes) : (d.armed k h).portState k = psArmed ∧ (d.armed k h).out = d.out
    ∧ ∀ e ∈ neighbourFields h, (d.armed k h).get e.1 k = e.2 % 2 ^ e.1.width := by
  obtain ⟨honly, hget⟩ := d.writeNeighbour_does hk h
  have hout : (d.writeNeighbour k h).out = d.out := by rw [honly]
  unfold Dev.armed Dev.fullCredits
  generalize d.writeNeighbour k h = w at hget hout
  refine ⟨?_, ?_, fun e he => ?_⟩
  · rw [Dev.portState, Dev.modPort_get, get_put_self _ _ _ _ (by decide)]
    decide
  · exact (Dev.put_out w LNK_PORT_STAT.STATE psArmed k).trans hout
  · have hnames : ∀ f ∈ neighbourNames, LNK_PORT_STAT.STATE.clear f = true := by decide
    rw [Dev.modPort_get, get_put_clear w psArmed hk (by decide) (hnames e.1 (mem_neighbourNames he)), hget e he]

theorem Dev.sendLocal_port (d : Dev) (k ty : Nat) (body : Bytes) : ((d.sendLocal k ty body).portAt k).hello = (d.portAt k).hello
    ∧ ((d.sendLocal k ty body).portAt k).echoed = (d.portAt k).echoed := by
  unfold Dev.sendLocal Dev.emit Dev.portAt
  simp only [tblGet_mod_self, and_self]

theorem Dev.sendLocal_get (d : Dev) (k ty : Nat) (body : Bytes) (f : Fld) (i : Nat) : (d.sendLocal k ty body).get f i = d.get f i :=
  Dev.get_of_regs rfl f i

/-- The HELLO timer at a port that has heard a HELLO in DISCOVER (R402). -/
theorem helloTimer_answers {port : PortId} {h : Bytes} {s : State} (hstate : s.dev.portState port.val = psDiscover)
    (hhello : (s.dev.portAt port.val).hello = some h) {P : State → Prop}
    (hP : P (s.withDev (if (s.dev.portAt port.val).echoed then (s.dev.sendLocal port.val 0x60 (s.dev.helloBody port.val)).armed port.val h
      else s.dev.sendLocal port.val 0x60 (s.dev.helloBody port.val)))) : Answers (.helloTimer port) s P := by
  refine answers_of_dev rfl ?_ hP
  obtain ⟨hh, he⟩ := s.dev.sendLocal_port port.val 0x60 (s.dev.helloBody port.val)
  have hst : (s.dev.sendLocal port.val 0x60 (s.dev.helloBody port.val)).portState port.val = psDiscover :=
    (Dev.sendLocal_get _ _ _ _ _ _).trans hstate
  simp only [Act.dev, hstate, Nat.lt_irrefl, if_false]
  generalize s.dev.sendLocal port.val 0x60 (s.dev.helloBody port.val) = e at hh he hst ⊢
  rw [hh, hhello, he, hst]
  simp only [decide_true, Bool.true_and]
  rfl

/-- What hearing a HELLO does at a port in DISCOVER (R402). -/
theorem Dev.hearHello_of_discover {d : Dev} {k : Nat} (hk : k < 1024) (hstate : d.portState k = psDiscover) (h : Bytes) :
    (rd h 0 8 = d.get BRY_SERIAL.SERIAL 0 → d.hearHello k h = d.put BRY_NBR.LOOP 1 k)
    ∧ (rd h 0 8 ≠ d.get BRY_SERIAL.SERIAL 0 → (d.hearHello k h).portState k = psDiscover ∧ ((d.hearHello k h).portAt k).hello = some h
      ∧ ((rd h 0x10 8 = d.get BRY_SERIAL.SERIAL 0 ∧ rdb h 0x18 = k) → ((d.hearHello k h).portAt k).echoed = true)) := by
  refine ⟨fun hself => by rw [Dev.hearHello, if_pos hstate, if_pos hself], fun hother => ?_⟩
  obtain ⟨-, hkeep⟩ := d.noteNeighbour_does hk h
  rw [Dev.hearHello, if_pos hstate, if_neg hother]
  refine ⟨?_, ?_, fun ⟨hs, hp⟩ => ?_⟩
  · rw [Dev.portState, Dev.modPort_get, hkeep _ (by decide) (by decide)]
    exact hstate
  · rw [Dev.modPort_at]
  · rw [Dev.modPort_at]
    simp [hs, hp]

theorem LnkPort.hello_of_unheld {p q : LnkPort} (h : p.unheld = q.unheld) : p.hello = q.hello ∧ p.echoed = q.echoed := by
  have hh : p.unheld.hello = q.unheld.hello := congrArg LnkPort.hello h
  have he : p.unheld.echoed = q.unheld.echoed := congrArg LnkPort.echoed h
  exact ⟨hh, he⟩

theorem Dev.passed_hello (d : Dev) (a : Arrival) (k : Nat) : ((d.passed a).portAt k).hello = (d.portAt k).hello
    ∧ ((d.passed a).portAt k).echoed = (d.portAt k).echoed :=
  LnkPort.hello_of_unheld (d.passed_port a k)

theorem hello_answers {a : Arrival} {s : State} (ha : s.dev.Hears a 0x60) {P : State → Prop}
    (hP : ∀ t, s.onlyDev t → t.dev = (s.dev.hearHello a.port.val (sub a.pkt.body 0 32)).passed a → P t) : Answers (.hello a) s P :=
  linkLocal_answers (g := fun k p _ d => d.hearHello k (sub p.body 0 32)) ha (decide_eq_true ha.found) rfl hP

end Sys2Proof.Machine

namespace Sys2Proof.Proofs

open Sys2Proof.Machine Sys2Proof.Laws

/-- Settles O31: the HELLO timer by what the port has heard, a HELLO by the port's state and the serial number in it, an ID by whether
one is committed. -/
theorem discovery : Obligations.Discovery := by
  unfold Obligations.Discovery
  have hlt : ∀ p : PortId, p.val < 1024 := fun p => by omega
  refine ⟨fun port h s hstate hhello => ⟨fun hecho => ?_, fun hecho => ?_⟩, fun a s ha hstate => ⟨fun hself => ?_, fun hother => ?_⟩,
    fun a s ha hstate hchanged => ?_, fun w s hm => ⟨fun hopen hcommit => ?_, fun hdone => ?_⟩⟩
  · obtain ⟨harmed, hout, hget⟩ := (s.dev.sendLocal port.val 0x60 (s.dev.helloBody port.val)).armed_does (hlt port) h
    refine helloTimer_answers hstate hhello ?_
    rw [if_pos hecho]
    generalize (s.dev.sendLocal port.val 0x60 (s.dev.helloBody port.val)).armed port.val h = t at harmed hout hget
    have hval : ∀ (f : Fld) (v : Nat), (f, v) ∈ neighbourFields h → v < 2 ^ f.width → t.get f port.val = v := fun f v hmem hv =>
      (hget (f, v) hmem).trans (Nat.mod_eq_of_lt hv)
    exact ⟨⟨rfl, rfl, rfl⟩, harmed, hout, hval BRY_NBR.PEER_ID _ (by simp [neighbourFields]) (rd_lt h 8 2),
      hval BRY_NBR.VALID 1 (by simp [neighbourFields]) (by decide), hval BRY_NBR.PEER_DOMAIN _ (by simp [neighbourFields]) (rd_lt h 0xA 2),
      hval BRY_NBR_SERIAL.SERIAL _ (by simp [neighbourFields]) (rd_lt h 0 8)⟩
  · refine helloTimer_answers hstate hhello ?_
    rw [if_neg (by rw [hecho]; decide)]
  · obtain ⟨hloop, -⟩ := Dev.hearHello_of_discover (hlt a.port) hstate (sub a.pkt.body 0 32)
    refine hello_answers ha fun t honly ht => ⟨honly, ?_, ?_⟩
    · rw [ht, hloop (by rw [rd_sub _ (by decide), hself]), Dev.passed_get, get_put_self _ _ _ _ (by decide)]
      rfl
    · rw [ht, hloop (by rw [rd_sub _ (by decide), hself]), Dev.portState, Dev.passed_get, get_put_clear _ _ (hlt a.port) (by decide) (by decide)]
      exact hstate
  · obtain ⟨-, hhears⟩ := Dev.hearHello_of_discover (hlt a.port) hstate (sub a.pkt.body 0 32)
    obtain ⟨hst, hh, hecho⟩ := hhears (by rwa [rd_sub _ (by decide)])
    refine hello_answers ha fun t honly ht => ⟨honly, ?_, ?_, fun ⟨hs, hp⟩ => ?_⟩
    · rw [ht, Dev.portState, Dev.passed_get]
      exact hst
    · rw [ht, (Dev.passed_hello _ a _).1, hh]
    · rw [ht, (Dev.passed_hello _ a _).2]
      exact hecho ⟨by rw [rd_sub _ (by decide), hs], by rw [rdb, rd_sub _ (by decide)]; exact hp⟩
  · have hne : s.dev.portState a.port.val ≠ psDiscover := fun e => by
      rw [e] at hstate
      exact absurd hstate (by decide)
    have hup : s.dev.portState a.port.val ≠ psDown := fun e => by
      rw [e] at hstate
      exact absurd hstate (by decide)
    have hknown : ¬ (decide (rd (sub a.pkt.body 0 32) 0 8 = s.dev.get BRY_NBR_SERIAL.SERIAL a.port.val)
        && decide (rdb (sub a.pkt.body 0 32) 0xC = s.dev.get BRY_NBR.PEER_PORT a.port.val)) = true := by
      rw [rdb, rd_sub _ (by decide), rd_sub _ (by decide), Bool.and_eq_true, decide_eq_true_eq, decide_eq_true_eq]
      exact fun ⟨h1, h2⟩ => hchanged.elim (fun h => h h1) (fun h => h h2)
    have hdown : s.dev.hearHello a.port.val (sub a.pkt.body 0 32) = s.dev.portDown a.port.val true := by
      simp only [Dev.hearHello, hne, if_false, hknown, Bool.not_false, if_true]
    refine hello_answers ha fun t honly ht => ⟨honly, ?_⟩
    rw [ht, hdown, Dev.portState, Dev.passed_get]
    exact (s.dev.portDown_does a.port.val (hlt a.port) true hup).state
  · refine mgmtDev_answers hm rfl ?_
    simp only [Dev.moduleIdWrite, hopen, hcommit, Bool.not_true, Bool.or_self, Bool.false_eq_true, if_false]
  · refine mgmtDev_answers hm rfl ?_
    simp only [Dev.moduleIdWrite, hdone, Bool.or_true, if_true]

end Sys2Proof.Proofs
end

section
/-! The time exchange (R405 to R407). -/

namespace Sys2Proof.Machine

open Sys2Proof.Laws

/-- A state that differs in its device alone. -/
theorem State.onlyDev.eq_withDev {s t : State} {d : Dev} (h : s.onlyDev t) (hd : t.dev = d) : t = s.withDev d := by
  obtain ⟨hf, hm, hp⟩ := h
  cases t
  simp only [State.withDev] at hf hm hp hd ⊢
  rw [hf, hm, hp, hd]

/-! ### STATE -/

/-- Setting STATE: STATE, the rest of time but the count of small exchanges, and the registers. -/
theorem Dev.putTimeState_does (d : Dev) {st : Nat} (hst : st < 4) : (d.putTimeState st).timeState = st
    ∧ (d.putTimeState st).time = { d.time with good := if d.timeState = st then d.time.good else 0 }
    ∧ ∀ (f : Fld) (i : Nat), i < 1024 → f.reg ≠ .BRY_TIME_STAT → (d.putTimeState st).get f i = d.get f i := by
  refine ⟨?_, rfl, fun f i hi hf => ?_⟩
  · rw [Dev.putTimeState, Dev.timeState, Dev.get_withTime, get_put_self _ _ _ _ (by decide)]
    exact Nat.mod_eq_of_lt hst
  · rw [Dev.putTimeState, Dev.get_withTime]
    exact get_put_ne _ _ _ _ _ _ (regKey_ne hi (by decide) hf)

/-- Another field of BRY_TIME_STAT leaves STATE. -/
theorem Dev.timeState_put (d : Dev) {f : Fld} (v : Nat) (hw : f.lo + f.width ≤ 64) (h : f.clear BRY_TIME_STAT.STATE = true) :
    (d.put f v 0).timeState = d.timeState := get_put_clear d v (by decide) hw h

theorem Dev.timeState_withTime (d : Dev) (x : Time) : ({ d with time := x } : Dev).timeState = d.timeState := d.get_withTime x _ _

theorem Dev.timeState_passed (d : Dev) (a : Arrival) : (d.passed a).timeState = d.timeState := d.passed_get a _ _

theorem Dev.passed_time (d : Dev) (a : Arrival) : (d.passed a).time = d.time := rfl

/-! ### BRY_TIME_CFG -/

theorem Dev.timeCfg_written (d : Dev) (w : RegWr) : (d.writeFields .BRY_TIME_CFG 0 false w).time = d.time
    ∧ (d.writeFields .BRY_TIME_CFG 0 false w).timeState = d.timeState
    ∧ (d.writeFields .BRY_TIME_CFG 0 false w).get BRY_PERIOD.PERIOD 0 = d.get BRY_PERIOD.PERIOD 0 := by
  have hout := d.writeFields_outside .BRY_TIME_CFG 0 (by decide) false w
  exact ⟨by rw [Dev.onlyRegs.writeFields d .BRY_TIME_CFG 0 false w], hout BRY_TIME_STAT.STATE 0 (by decide) (by decide),
    hout BRY_PERIOD.PERIOD 0 (by decide) (by decide)⟩

/-- A root is LOCKED and keeps its time (R407). -/
theorem Dev.timeCfgWrite_root {d : Dev} {w : RegWr} (h : (d.writeFields .BRY_TIME_CFG 0 false w).flag BRY_TIME_CFG.ROOT 0 = true) :
    (d.timeCfgWrite w).timeState = tsLocked ∧ (d.timeCfgWrite w).get BRY_TIME_STAT.HOPS 0 = 0
      ∧ ((d.timeCfgWrite w).time.beat = d.time.beat ∧ (d.timeCfgWrite w).time.tickT = d.time.tickT ∧ (d.timeCfgWrite w).time.offset = d.time.offset)
      ∧ (d.timeCfgWrite w).get BRY_PERIOD.PERIOD 0 = d.get BRY_PERIOD.PERIOD 0 := by
  obtain ⟨htime, -, hperiod⟩ := d.timeCfg_written w
  unfold Dev.timeCfgWrite
  generalize d.writeFields .BRY_TIME_CFG 0 false w = e at h htime hperiod ⊢
  simp only [h, if_true]
  obtain ⟨hstate, hgood, hget⟩ := e.putTimeState_does (st := tsLocked) (by decide)
  refine ⟨?_, ?_, ?_, ?_⟩
  · rw [Dev.timeState_put _ _ (by decide) (by decide), hstate]
  · rw [get_put_self _ _ _ _ (by decide)]
    rfl
  · rw [Dev.put_time, hgood, htime]
    exact ⟨rfl, rfl, rfl⟩
  · rw [get_put_clear _ _ (by decide) (by decide) (by decide), hget _ _ (by decide) (by decide), hperiod]

/-- A FREE module with a parent becomes ACQUIRING (R407). -/
theorem Dev.timeCfgWrite_parent {d : Dev} {w : RegWr} (h : (d.writeFields .BRY_TIME_CFG 0 false w).timeParent.isSome)
    (hfree : d.timeState = tsFree) : (d.timeCfgWrite w).timeState = tsAcquiring := by
  obtain ⟨-, hstate, -⟩ := d.timeCfg_written w
  unfold Dev.timeCfgWrite
  generalize d.writeFields .BRY_TIME_CFG 0 false w = e at h hstate ⊢
  obtain ⟨p, hp⟩ := Option.isSome_iff_exists.mp h
  have hroot : e.flag BRY_TIME_CFG.ROOT = false := by
    cases hr : e.flag BRY_TIME_CFG.ROOT with
    | false => rfl
    | true => simp [Dev.timeParent, hr] at hp
  simp only [hroot, Bool.false_eq_true, if_false, hp]
  generalize hf : (if d.timeParent = some p then e else { e with time := { e.time with exchange := none, parent := (0, 0) } }) = f
  have hfstate : f.timeState = tsFree := by
    rw [← hf]
    split
    · exact hstate.trans hfree
    · exact (e.timeState_withTime _).trans (hstate.trans hfree)
  rw [if_pos (by simp [hfstate])]
  exact (f.putTimeState_does (by decide)).1

theorem Dev.timeCfgWrite_none {d : Dev} {w : RegWr} (hroot : (d.writeFields .BRY_TIME_CFG 0 false w).flag BRY_TIME_CFG.ROOT 0 = false)
    (hp : (d.writeFields .BRY_TIME_CFG 0 false w).timeParent = none) : (d.timeCfgWrite w).timeState = tsFree := by
  unfold Dev.timeCfgWrite
  generalize d.writeFields .BRY_TIME_CFG 0 false w = e at hroot hp ⊢
  simp only [hroot, Bool.false_eq_true, if_false, hp]
  exact (e.putTimeState_does (by decide)).1

/-! ### An exchange -/

/-- The module as a response has closed its exchange: OFFSET and DELAY shown (R405). -/
def Dev.heardAnswer (d : Dev) (b : Bytes) (t1 t4 : Nat) : Dev :=
  let out := toSigned (ofSigned ((rd b 8 8 : Nat) - (t1 : Int)) 64) 64
  let back := toSigned (ofSigned ((t4 : Int) - (rd b 0x10 8 : Nat)) 64) 64
  let theta := d.theta b t1 t4
  let d := { d with time := { d.time with exchange := none, parent := (rdb b 2, rdb b 3) } }
  (d.put BRY_TIME_STAT.OFFSET (ofSigned (if theta / 4 < -524288 then -524288 else Min.min 524287 (theta / 4)) 20)).put
    BRY_TIME_STAT.DELAY (Nat.min 0xFFFFFF ((out + back) * 125 / 4).toNat)

theorem Dev.timeAnswer_eq (d : Dev) (b : Bytes) (t1 t4 : Nat) : d.timeAnswer b t1 t4 =
    if rdb b 2 = tsLocked then (d.heardAnswer b t1 t4).exchanged (d.theta b t1 t4) (rdb b 3)
    else if (d.heardAnswer b t1 t4).timeState = tsLocked then (d.heardAnswer b t1 t4).putTimeState tsHoldover
    else if (d.heardAnswer b t1 t4).timeState = tsFree then (d.heardAnswer b t1 t4).putTimeState tsAcquiring
    else { d.heardAnswer b t1 t4 with time := { (d.heardAnswer b t1 t4).time with good := 0 } } := rfl

theorem Dev.heardAnswer_does (d : Dev) (b : Bytes) (t1 t4 : Nat) : (d.heardAnswer b t1 t4).timeState = d.timeState
    ∧ (d.heardAnswer b t1 t4).time = { d.time with exchange := none, parent := (rdb b 2, rdb b 3) } := by
  unfold Dev.heardAnswer
  simp only
  refine ⟨?_, by rw [Dev.put_time, Dev.put_time]⟩
  rw [Dev.timeState_put _ _ (by decide) (by decide), Dev.timeState_put _ _ (by decide) (by decide), Dev.timeState_withTime]

/-- Whether an offset is within 2 ns (R407). -/
def smallOffset (theta : Int) : Bool := -twoNs < theta && theta < twoNs

/-- A child that locks stands one hop further than its parent (R407). -/
theorem Dev.locks_does (d : Dev) (hops : Nat) : ((d.putTimeState tsLocked).put BRY_TIME_STAT.HOPS (hops + 1)).timeState = tsLocked
    ∧ ((d.putTimeState tsLocked).put BRY_TIME_STAT.HOPS (hops + 1)).time.offset = d.time.offset
    ∧ ((d.putTimeState tsLocked).put BRY_TIME_STAT.HOPS (hops + 1)).time.exchange = d.time.exchange
    ∧ (hops < 15 → ((d.putTimeState tsLocked).put BRY_TIME_STAT.HOPS (hops + 1)).get BRY_TIME_STAT.HOPS 0 = hops + 1) := by
  obtain ⟨hstate, htime, -⟩ := d.putTimeState_does (st := tsLocked) (by decide)
  refine ⟨?_, ?_, ?_, fun hlt => ?_⟩
  · rw [Dev.timeState_put _ _ (by decide) (by decide), hstate]
  · rw [Dev.put_time, htime]
  · rw [Dev.put_time, htime]
  · rw [get_put_self _ _ _ _ (by decide)]
    exact Nat.mod_eq_of_lt (show hops + 1 < 16 by omega)

/-- An exchange of an ACQUIRING child under a LOCKED parent (R407). -/
theorem Dev.exchanged_acquiring {d : Dev} (h : d.timeState = tsAcquiring) (theta : Int) (hops : Nat) :
    (d.exchanged theta hops).time.offset = d.time.offset + theta ∧ (d.exchanged theta hops).time.exchange = d.time.exchange
      ∧ (smallOffset theta = true ∧ 7 ≤ d.time.good → (d.exchanged theta hops).timeState = tsLocked
        ∧ (hops < 15 → (d.exchanged theta hops).get BRY_TIME_STAT.HOPS 0 = hops + 1))
      ∧ (¬ (smallOffset theta = true ∧ 7 ≤ d.time.good) → (d.exchanged theta hops).timeState = tsAcquiring) := by
  obtain ⟨hstate, htime, -⟩ := d.putTimeState_does (st := tsAcquiring) (by decide)
  rw [if_pos h] at htime
  have hform : d.exchanged theta hops =
      (let e := (d.putTimeState tsAcquiring).moveTime theta
       let n := if smallOffset theta then e.time.good + 1 else 0
       let z := { e with time := { e.time with good := n } }
       if 8 ≤ n then (z.putTimeState tsLocked).put BRY_TIME_STAT.HOPS (hops + 1) else z) := by
    unfold Dev.exchanged
    rw [if_neg (by rw [h]; decide), if_neg (by rw [h]; decide)]
    rfl
  have hmoved : ((d.putTimeState tsAcquiring).moveTime theta).time = { d.time with offset := d.time.offset + theta } := by
    unfold Dev.moveTime
    rw [htime]
  have hacq : ((d.putTimeState tsAcquiring).moveTime theta).timeState = tsAcquiring := (Dev.timeState_withTime _ _).trans hstate
  generalize (d.putTimeState tsAcquiring).moveTime theta = e at hmoved hacq hform
  simp only at hform
  generalize hz : ({ e with time := { e.time with good := if smallOffset theta then e.time.good + 1 else 0 } } : Dev) = z at hform
  have hzstate : z.timeState = tsAcquiring := hz ▸ (e.timeState_withTime _).trans hacq
  have hztime : z.time.offset = d.time.offset + theta ∧ z.time.exchange = d.time.exchange := by
    rw [← hz]
    simp only [hmoved, and_self]
  have hcount : 8 ≤ (if smallOffset theta then e.time.good + 1 else 0) ↔ smallOffset theta = true ∧ 7 ≤ d.time.good := by
    rw [hmoved]
    cases smallOffset theta <;> simp
  obtain ⟨hlstate, hloff, hlex, hlhops⟩ := z.locks_does hops
  rw [hform]
  by_cases hc : 8 ≤ (if smallOffset theta then e.time.good + 1 else 0)
  · rw [if_pos hc]
    exact ⟨hloff.trans hztime.1, hlex.trans hztime.2, fun _ => ⟨hlstate, hlhops⟩, fun hn => absurd (hcount.mp hc) hn⟩
  · rw [if_neg hc]
    exact ⟨hztime.1, hztime.2, fun hy => absurd (hcount.mpr hy) hc, fun _ => hzstate⟩

/-- An exchange of a LOCKED child under a LOCKED parent (R407). -/
theorem Dev.exchanged_locked {d : Dev} (h : d.timeState = tsLocked) (theta : Int) (hops : Nat) :
    (d.exchanged theta hops).timeState = tsLocked ∧ (d.exchanged theta hops).time.offset = d.time.offset + clampTo 3200 theta
      ∧ ((theta ≤ -oneMicro ∨ oneMicro ≤ theta) → (d.exchanged theta hops).get BRY_TIME_STAT.OUT_OF_BOUND 0 = 1) := by
  have hslew : (d.slew theta).timeState = tsLocked := (Dev.timeState_withTime _ _).trans h
  unfold Dev.exchanged
  rw [if_pos h]
  simp only
  split
  · refine ⟨?_, ?_, fun _ => ?_⟩
    · rw [Dev.timeState_put _ _ (by decide) (by decide), hslew]
    · rw [Dev.put_time]
      rfl
    · rw [get_put_self _ _ _ _ (by decide)]
      rfl
  · rename_i hin
    exact ⟨hslew, rfl, fun hout => absurd (by simpa using hout) hin⟩

/-! ### TIME_INFO -/

/-- What an ACQUIRING child takes from a LOCKED parent (R407, R410). -/
theorem Dev.hearInfo_acquiring {d : Dev} (hparent : d.time.parent.1 = tsLocked) (h : d.timeState = tsAcquiring) (b : Bytes) :
    (d.hearInfo b).time.beat = rd b 0 8 ∧ (d.hearInfo b).time.tickT = rd b 8 8
      ∧ (d.hearInfo b).get BRY_PERIOD.PERIOD 0 = rd b 0x10 4 % 2 ^ 30
      ∧ (d.hearInfo b).time.announced = if rd b 0x14 4 = 0 then none else some (rd b 0x14 4, rd b 0x18 8) := by
  unfold Dev.hearInfo
  simp only [hparent, ne_eq, not_true_eq_false, if_false, h, if_true]
  refine ⟨trivial, trivial, ?_, trivial⟩
  rw [Dev.get_withTime, get_put_self _ _ _ _ (by decide)]
  rfl

theorem Dev.hearInfo_locked {d : Dev} (hparent : d.time.parent.1 = tsLocked) (h : d.timeState = tsLocked) (b : Bytes)
    (hdiffers : d.agrees (rd b 0 8) (rd b 8 8) (rd b 0x10 4) = false) :
    (d.hearInfo b).get BRY_TIME_STAT.PERIOD_MISMATCH 0 = 1 ∧ (d.hearInfo b).time.beat = d.time.beat ∧ (d.hearInfo b).time.tickT = d.time.tickT := by
  unfold Dev.hearInfo
  simp only [hparent, ne_eq, not_true_eq_false, if_false, h, show ¬ tsLocked = tsAcquiring by decide, if_true, hdiffers, Bool.false_eq_true]
  have hget : (d.put BRY_TIME_STAT.PERIOD_MISMATCH 1).get BRY_TIME_STAT.PERIOD_MISMATCH 0 = 1 := by
    rw [get_put_self _ _ _ _ (by decide)]
    rfl
  have htime : (d.put BRY_TIME_STAT.PERIOD_MISMATCH 1).time = d.time := Dev.put_time ..
  generalize d.put BRY_TIME_STAT.PERIOD_MISMATCH 1 = e at hget htime ⊢
  generalize (if rd b 0x14 4 = 0 then none else some (rd b 0x14 4, rd b 0x18 8)) = ann
  split
  · exact ⟨(e.get_withTime _ _ _).trans hget, by rw [← htime], by rw [← htime]⟩
  · exact ⟨hget, by rw [htime], by rw [htime]⟩

/-- The agreement of a tick, from the packet's own bytes. -/
theorem Dev.agrees_sub (d : Dev) (b : Bytes) :
    d.agrees (rd (sub b 0 32) 0 8) (rd (sub b 0 32) 8 8) (rd (sub b 0 32) 0x10 4) = d.agrees (rd b 0 8) (rd b 8 8) (rd b 0x10 4) := by
  rw [rd_sub b (by decide), rd_sub b (by decide), rd_sub b (by decide)]

/-- What a TIME_RESP does at a port (R405, R406). -/
def Dev.hearAnswer (k : Nat) (p : Pkt) (now : Nat) (d : Dev) : Dev :=
  match d.time.exchange with
  | some (id, t1) =>
    if d.timeParent = some k && p.at' 0x10 2 = id && d.domainTime now ≤ t1 + eightMicros then
      d.timeAnswer (sub p.body 0 32) t1 (d.domainTime now)
    else d
  | none => d

/-- What a TIME_REQ is answered with (R405, R406). -/
def Dev.answerTime (k : Nat) (p : Pkt) (now : Nat) (d : Dev) : Dev :=
  let e := d.draw.2
  (e.sendLocal k 0x62 (sub p.body 0 2 ++ leBytes 1 e.timeState ++ leBytes 1 (e.get BRY_TIME_STAT.HOPS) ++ zeros 4 ++ leBytes 8 (d.domainTime now)
    ++ leBytes 8 d.draw.1.toNat ++ zeros 8)).sendLocal k 0x63 e.timeInfoBody

theorem Dev.sendLocal_free (d : Dev) (n k ty : Nat) (body : Bytes) :
    ({ d with free := n } : Dev).sendLocal k ty body = { d.sendLocal k ty body with free := n } := by
  have hget : ({ d with free := n } : Dev).get RTE_FLIP.INFORCE = d.get RTE_FLIP.INFORCE := Dev.get_of_regs rfl _ _
  unfold Dev.sendLocal
  rw [hget]
  rfl

theorem Dev.answerTime_eq (k : Nat) (p : Pkt) (now : Nat) (d : Dev) : Dev.answerTime k p now d =
    { (d.sendLocal k 0x62 (sub p.body 0 2 ++ leBytes 1 d.timeState ++ leBytes 1 (d.get BRY_TIME_STAT.HOPS) ++ zeros 4
        ++ leBytes 8 (d.domainTime now) ++ leBytes 8 (Config.freeBits d.free).toNat ++ zeros 8)).sendLocal k 0x63 d.timeInfoBody with
      free := d.free + 1 } := by
  have hstate : ({ d with free := d.free + 1 } : Dev).timeState = d.timeState := Dev.get_of_regs rfl _ _
  have hhops : ({ d with free := d.free + 1 } : Dev).get BRY_TIME_STAT.HOPS = d.get BRY_TIME_STAT.HOPS := Dev.get_of_regs rfl _ _
  have hinfo : ({ d with free := d.free + 1 } : Dev).timeInfoBody = d.timeInfoBody := by
    have hperiod : ({ d with free := d.free + 1 } : Dev).get BRY_PERIOD.PERIOD = d.get BRY_PERIOD.PERIOD := Dev.get_of_regs rfl _ _
    unfold Dev.timeInfoBody
    rw [hperiod]
  unfold Dev.answerTime Dev.draw
  simp only [hstate, hhops, hinfo, Dev.sendLocal_free]

theorem Dev.sendLocal_time (d : Dev) (k ty : Nat) (body : Bytes) : (d.sendLocal k ty body).time = d.time := rfl

theorem Dev.answerTime_does (k : Nat) (p : Pkt) (now : Nat) (d : Dev) : (Dev.answerTime k p now d).time = d.time
    ∧ (Dev.answerTime k p now d).out = ((d.sendLocal k 0x62 (sub p.body 0 2 ++ leBytes 1 d.timeState ++ leBytes 1 (d.get BRY_TIME_STAT.HOPS)
        ++ zeros 4 ++ leBytes 8 (d.domainTime now) ++ leBytes 8 (Config.freeBits d.free).toNat ++ zeros 8)).sendLocal k 0x63 d.timeInfoBody).out := by
  rw [Dev.answerTime_eq]
  exact ⟨by simp only [Dev.sendLocal_time], by simp only⟩

/-- The child asks under a new REQ_ID (R405). -/
def Dev.askTime (k now : Nat) (d : Dev) : Dev :=
  ({ d with time := { d.time with reqId := (d.time.reqId + 1) % 65536, exchange := some ((d.time.reqId + 1) % 65536, d.domainTime now) } } : Dev).sendLocal
    k 0x61 (leBytes 2 ((d.time.reqId + 1) % 65536) ++ zeros 30)

theorem Dev.askTime_does (k now : Nat) (d : Dev) :
    (Dev.askTime k now d).time = { d.time with reqId := (d.time.reqId + 1) % 65536, exchange := some ((d.time.reqId + 1) % 65536, d.domainTime now) }
      ∧ (Dev.askTime k now d).out = (d.sendLocal k 0x61 (leBytes 2 ((d.time.reqId + 1) % 65536) ++ zeros 30)).out := by
  refine ⟨rfl, ?_⟩
  unfold Dev.askTime Dev.sendLocal
  rw [Dev.get_withTime]
  rfl

theorem timeResp_hears {a : Arrival} {s : State} (h : s.dev.Hears a 0x62) (harmed : psArmed ≤ s.dev.portState a.port.val) {P : State → Prop}
    (hP : ∀ t, s.onlyDev t → t.dev = (Dev.hearAnswer a.port.val a.pkt a.now.toNat s.dev).passed a → P t) : Answers (.timeResp a) s P :=
  linkLocal_answers (g := Dev.hearAnswer) h (decide_eq_true harmed) rfl hP

/-- A response that answers the open exchange (R405, R406). -/
theorem timeResp_answers {a : Arrival} {t1 : Nat} {s : State} (h : s.dev.Answered a t1) {P : State → Prop}
    (hP : ∀ t, s.onlyDev t → t.dev = (s.dev.timeAnswer (sub a.pkt.body 0 32) t1 (s.dev.domainTime a.now.toNat)).passed a → P t) :
    Answers (.timeResp a) s P := by
  refine timeResp_hears h.toHears h.armed fun t honly ht => hP t honly (ht.trans ?_)
  unfold Dev.hearAnswer
  rw [h.exchange]
  simp only [h.parent, h.soon, decide_true, Bool.and_self, if_true]

end Sys2Proof.Machine

namespace Sys2Proof.Proofs

open Sys2Proof.Machine Sys2Proof.Laws

/-- Settles O32: BRY_TIME_CFG by root and parent, the two ends of an exchange, a response and a TIME_INFO by the child's state. -/
theorem domainTime : Obligations.DomainTime := by
  unfold Obligations.DomainTime
  refine ⟨fun w s hm => ⟨fun hroot => ?_, fun hp hfree => ?_, fun hroot hp => ?_⟩, fun now k s hp harmed => ?_, fun a s ha harmed => ?_,
    fun a t1 s ha hlocked => ⟨fun hacq => ?_, fun hown => ?_⟩, fun a t1 s ha hlost hown => ?_, fun a s ha harmed hnone => ?_,
    fun a s ha harmed hp hparent => ⟨fun hacq => ?_, fun hown hdiffers => ?_⟩, fun s hp hown => ?_⟩
  · obtain ⟨hstate, hhops, ⟨hbeat, htick, hoff⟩, hperiod⟩ := Dev.timeCfgWrite_root hroot
    exact mgmtDev_answers hm rfl ⟨⟨rfl, rfl, rfl⟩, hstate, hhops, hbeat, htick, hoff, hperiod⟩
  · exact mgmtDev_answers hm rfl ⟨⟨rfl, rfl, rfl⟩, Dev.timeCfgWrite_parent hp hfree⟩
  · exact mgmtDev_answers hm rfl ⟨⟨rfl, rfl, rfl⟩, Dev.timeCfgWrite_none hroot hp⟩
  · obtain ⟨htime, hout⟩ := Dev.askTime_does k now.toNat s.dev
    refine answers_device (d := Dev.askTime k now.toNat s.dev) rfl ?_ fun t honly ht => ⟨honly, by rw [ht, htime], by rw [ht, hout]⟩
    simp only [Act.dev, hp, if_neg (Nat.not_lt.mpr harmed)]
    rfl
  · refine linkLocal_answers (g := Dev.answerTime) ha (decide_eq_true harmed) rfl fun t honly ht => ⟨honly, ?_⟩
    obtain ⟨htime, hout⟩ := Dev.answerTime_does a.port.val a.pkt a.now.toNat s.dev
    generalize Dev.answerTime a.port.val a.pkt a.now.toNat s.dev = z at ht htime hout
    rw [ht]
    exact ⟨htime, (Config.freeBits s.dev.free).toNat, hout⟩
  · have hb : rdb (sub a.pkt.body 0 32) 2 = tsLocked := by rw [rdb, rd_sub _ (by decide)]; exact hlocked
    obtain ⟨hstate, htime⟩ := s.dev.heardAnswer_does (sub a.pkt.body 0 32) t1 (s.dev.domainTime a.now.toNat)
    have hans := s.dev.timeAnswer_eq (sub a.pkt.body 0 32) t1 (s.dev.domainTime a.now.toNat)
    rw [if_pos hb] at hans
    obtain ⟨hoff, hex, hlocks, hstays⟩ := Dev.exchanged_acquiring (hstate.trans hacq)
      (s.dev.theta (sub a.pkt.body 0 32) t1 (s.dev.domainTime a.now.toNat)) (rdb (sub a.pkt.body 0 32) 3)
    rw [← hans] at hoff hex hlocks hstays
    rw [htime] at hoff hex hlocks hstays
    have hhops : rdb (sub a.pkt.body 0 32) 3 = rdb a.pkt.body 3 := rd_sub _ (by decide)
    have hsmall : ∀ θ : Int, smallOffset θ = true ↔ -twoNs < θ ∧ θ < twoNs := fun θ => by simp [smallOffset]
    rw [hsmall] at hlocks hstays
    refine timeResp_answers ha fun t honly ht => ⟨honly, ?_, ?_, ?_, fun hcond hlt => ?_⟩
    · rw [ht]
      exact hoff
    · rw [ht]
      exact hex
    · rw [ht, Dev.timeState_passed]
      split
      · exact (hlocks ‹_›).1
      · exact hstays ‹_›
    · rw [ht, Dev.passed_get, (hlocks hcond).2 (by rw [hhops]; exact hlt), hhops]
  · have hb : rdb (sub a.pkt.body 0 32) 2 = tsLocked := by rw [rdb, rd_sub _ (by decide)]; exact hlocked
    obtain ⟨hstate, htime⟩ := s.dev.heardAnswer_does (sub a.pkt.body 0 32) t1 (s.dev.domainTime a.now.toNat)
    have hans := s.dev.timeAnswer_eq (sub a.pkt.body 0 32) t1 (s.dev.domainTime a.now.toNat)
    rw [if_pos hb] at hans
    obtain ⟨hlock, hoff, hbound⟩ := Dev.exchanged_locked (hstate.trans hown)
      (s.dev.theta (sub a.pkt.body 0 32) t1 (s.dev.domainTime a.now.toNat)) (rdb (sub a.pkt.body 0 32) 3)
    rw [← hans] at hlock hoff hbound
    rw [htime] at hoff
    refine timeResp_answers ha fun t honly ht => ⟨honly, ?_, ?_, fun hout => ?_⟩
    · rw [ht, Dev.timeState_passed, hlock]
    · rw [ht]
      exact hoff
    · rw [ht, Dev.passed_get]
      exact hbound hout
  · have hb : rdb (sub a.pkt.body 0 32) 2 ≠ tsLocked := by rw [rdb, rd_sub _ (by decide)]; exact hlost
    obtain ⟨hstate, htime⟩ := s.dev.heardAnswer_does (sub a.pkt.body 0 32) t1 (s.dev.domainTime a.now.toNat)
    have hans := s.dev.timeAnswer_eq (sub a.pkt.body 0 32) t1 (s.dev.domainTime a.now.toNat)
    rw [if_neg hb, if_pos (hstate.trans hown)] at hans
    obtain ⟨hhold, hgood, -⟩ := (s.dev.heardAnswer (sub a.pkt.body 0 32) t1 (s.dev.domainTime a.now.toNat)).putTimeState_does
      (st := tsHoldover) (by decide)
    rw [← hans] at hhold hgood
    refine timeResp_answers ha fun t honly ht => ⟨honly, ?_, ?_⟩
    · rw [ht, Dev.timeState_passed, hhold]
    · rw [ht, Dev.passed_time, hgood, htime]
  · refine timeResp_hears ha harmed fun t honly ht => ?_
    have hsame : Dev.hearAnswer a.port.val a.pkt a.now.toNat s.dev = s.dev := by
      unfold Dev.hearAnswer
      rw [hnone]
    rw [hsame] at ht
    exact honly.eq_withDev ht
  · obtain ⟨hbeat, htick, hperiod, hann⟩ := Dev.hearInfo_acquiring hparent hacq (sub a.pkt.body 0 32)
    rw [rd_sub _ (by decide)] at hbeat htick hperiod
    rw [rd_sub _ (by decide), rd_sub _ (by decide)] at hann
    refine linkLocal_answers (g := fun k p _ d => if d.timeParent = some k then d.hearInfo (sub p.body 0 32) else d) ha (decide_eq_true harmed) rfl
      fun t honly ht => ?_
    rw [if_pos hp] at ht
    rw [ht, Dev.passed_get]
    exact ⟨honly, hbeat, htick, hperiod, hann⟩
  · obtain ⟨hmiss, hbeat, htick⟩ := Dev.hearInfo_locked hparent hown (sub a.pkt.body 0 32) (by rw [Dev.agrees_sub]; exact hdiffers)
    refine linkLocal_answers (g := fun k p _ d => if d.timeParent = some k then d.hearInfo (sub p.body 0 32) else d) ha (decide_eq_true harmed) rfl
      fun t honly ht => ?_
    rw [if_pos hp] at ht
    rw [ht, Dev.passed_get]
    exact ⟨honly, hmiss, hbeat, htick⟩
  · obtain ⟨hhold, hgood, -⟩ := s.dev.putTimeState_does (st := tsHoldover) (by decide)
    refine answers_device (d := s.dev.putTimeState tsHoldover) rfl ?_ fun t honly ht => ⟨honly, ?_, ?_⟩
    · simp only [Act.dev, hp, hown, decide_true, Bool.and_self, if_true]
    · rw [ht, hhold]
    · rw [ht, hgood]

end Sys2Proof.Proofs
end

section
/-! The links: profiles, training, and what a port's flow of flits leaves (R326 to R353). -/

namespace Sys2Proof.Machine

open Sys2Proof.Laws

/-! ### The flow of flits -/

/-- A port's record without its credits, its buffers and its queue. -/
def LnkPort.core (p : LnkPort) : LnkPort :=
  { p with used := [], shared := [], rseen := [], sseen := [], rfreed := [], sfreed := [], held := [], queue := [] }

theorem LnkPort.core_order {p q : LnkPort} (h : p.core = q.core) : p.order = q.order := by
  have e : p.core.order = q.core.order := by rw [h]
  exact e

theorem LnkPort.core_change {p q : LnkPort} (h : p.core = q.core) : p.change = q.change := by
  have e : p.core.change = q.core.change := by rw [h]
  exact e

theorem LnkPort.core_todo {p q : LnkPort} (h : p.core = q.core) : p.todo = q.todo := by
  have e : p.core.todo = q.core.todo := by rw [h]
  exact e

/-- Flits and credits move: the links' credits and queues and what goes out, nothing else. -/
structure Dev.Pumped (a b : Dev) : Prop where
  rest : ∃ l o, b = { a with lnk := l, out := o }
  core : ∀ j, (b.portAt j).core = (a.portAt j).core

namespace Dev.Pumped

variable {a b c : Dev}

theorem refl : a.Pumped a := ⟨⟨a.lnk, a.out, rfl⟩, fun _ => rfl⟩

theorem trans (h : a.Pumped b) (g : b.Pumped c) : a.Pumped c := by
  obtain ⟨l, o, hb⟩ := h.rest
  obtain ⟨l', o', hc⟩ := g.rest
  exact ⟨⟨l', o', by rw [hc, hb]⟩, fun j => (g.core j).trans (h.core j)⟩

theorem emit (h : a.Pumped b) (o : Output) : a.Pumped (b.emit o) := by
  obtain ⟨l, p, hb⟩ := h.rest
  exact ⟨⟨l, o :: p, by rw [hb]; rfl⟩, fun j => h.core j⟩

theorem of_modPort {k : Nat} {f : LnkPort → LnkPort} (hf : ∀ p, (f p).core = p.core) : a.Pumped (a.modPort k f) := by
  refine ⟨⟨_, a.out, rfl⟩, fun j => ?_⟩
  by_cases e : j = k
  · subst e
    rw [Dev.modPort_at, hf]
  · rw [Dev.modPort_at_ne _ _ e]

theorem get (h : a.Pumped b) (f : Fld) (i : Nat) : b.get f i = a.get f i := by
  obtain ⟨l, o, rfl⟩ := h.rest
  exact Dev.get_of_regs rfl f i

theorem foldl {A : Type} {f : Dev → A → Dev} (hf : ∀ (d : Dev) (x : A), d.Pumped (f d x)) (l : List A) (d : Dev) : d.Pumped (l.foldl f d) :=
  foldl_keeps (P := fun b => d.Pumped b) (fun b x hb => hb.trans (hf b x)) l d refl

end Dev.Pumped

theorem Dev.freeFlits_pumped (d : Dev) (k vc n : Nat) : d.Pumped (d.freeFlits k vc n) := by
  unfold Dev.freeFlits
  exact .of_modPort (fun _ => rfl)

theorem Dev.sendFlits_pumped (d : Dev) (k i : Nat) (v : VcPkt) : d.Pumped (d.sendFlits k i v) := by
  unfold Dev.sendFlits
  simp only
  generalize hE : d.modPort k _ = E
  have h1 : d.Pumped E := hE ▸ .of_modPort (fun _ => rfl)
  split
  · refine Dev.Pumped.emit ?_ _
    split
    · exact h1.trans (E.freeFlits_pumped _ _ _)
    · exact h1
  · exact h1

theorem Dev.pumpVc_pumped (k vc : Nat) : ∀ (fuel : Nat) (d : Dev), d.Pumped (Dev.pumpVc k vc fuel d)
  | 0, _ => .refl
  | fuel + 1, d => by
    rw [Dev.pumpVc]
    split
    · exact .refl
    · rename_i i v _
      have h := d.sendFlits_pumped k i v
      simp only
      generalize d.sendFlits k i v = e at h ⊢
      split
      · exact h.trans (pumpVc_pumped k vc fuel e)
      · exact h

theorem Dev.pump_pumped (d : Dev) (k : Nat) : d.Pumped (d.pump k) := .foldl (fun d vc => Dev.pumpVc_pumped k vc _ d) vcOrder d

theorem Dev.takeCredits_pumped (d : Dev) (k : Nat) (f : Bytes) : d.Pumped (d.takeCredits k f) := by
  unfold Dev.takeCredits
  simp only
  refine Dev.Pumped.trans (Dev.Pumped.trans (.foldl (fun d v => ?_) (List.range 8) d) (.foldl (fun d v => ?_) (List.range 4) _)) (Dev.pump_pumped _ k)
  · exact .of_modPort (fun _ => rfl)
  · exact .of_modPort (fun _ => rfl)

/-! ### Ports that settle -/

/-- A port with quads that carry flits keeps every register but its own status. -/
theorem Dev.settlePort_does (d : Dev) {k : Nat} (hk : k < 1024) (hn : (d.portAt k).order.length ≠ 0) :
    d.RegsOutside (d.settlePort k) [.LNK_PORT_STAT] ∧ ∀ j, ((d.settlePort k).portAt j).core = (d.portAt j).core := by
  unfold Dev.settlePort
  simp only [hn, if_false]
  generalize (d.portAt k).standIn.length = m
  generalize hE : (d.put LNK_PORT_STAT.ACTIVE (d.portAt k).order.length k).put LNK_PORT_STAT.SPARE_USED m k = E
  have h1 : d.RegsOutside E [.LNK_PORT_STAT] ∧ E.lnk = d.lnk := by
    rw [← hE]
    exact ⟨(Dev.RegsOutside.put _ _ _ _ hk (by decide)).trans (Dev.RegsOutside.put _ _ _ _ hk (by decide)), by rw [Dev.put_lnk, Dev.put_lnk]⟩
  generalize hF : (if psUp ≤ E.portState k then E.put LNK_PORT_STAT.STATE (if (d.portAt k).order.length < E.get LNK_PORT_MAP.COUNT k then
    psDegraded else psUp) k else E) = F
  have h2 : d.RegsOutside F [.LNK_PORT_STAT] ∧ F.lnk = d.lnk := by
    rw [← hF]
    split
    · exact ⟨h1.1.trans (Dev.RegsOutside.put _ _ _ _ hk (by decide)), by rw [Dev.put_lnk, h1.2]⟩
    · exact h1
  have h3 := F.pump_pumped k
  refine ⟨fun f i hi hf => (h3.get f i).trans (h2.1 f i hi hf), fun j => (h3.core j).trans ?_⟩
  rw [Dev.portAt, h2.2, Dev.portAt]

/-! ### Quads that take a state -/

/-- Steps that set quads' states, whatever else they do to what is no register. -/
theorem Dev.quadsBy_regs {st : Nat} (hst : st < 8) {F : Dev → Nat → Dev} (hF : ∀ d q, (F d q).regs = (d.putQuad q st).regs) (qs : List Nat) (d : Dev)
    (hlt : ∀ q ∈ qs, q < 1024) : (∀ q ∈ qs, (qs.foldl F d).quadState q = st) ∧ (∀ q < 1024, q ∉ qs → (qs.foldl F d).quadState q = d.quadState q)
      ∧ d.RegsOutside (qs.foldl F d) [.LNK_QUAD] := by
  induction qs generalizing d with
  | nil => exact ⟨fun q hq => absurd hq List.not_mem_nil, fun _ _ _ => rfl, .refl d _⟩
  | cons q qs ih =>
    have hq : q < 1024 := hlt q List.mem_cons_self
    obtain ⟨hself, hne, hrest⟩ := d.putQuad_does hst hq
    have hget : ∀ f i, (F d q).get f i = (d.putQuad q st).get f i := Dev.get_of_regs (hF d q)
    obtain ⟨hin, hout, hregs⟩ := ih (F d q) (fun j hj => hlt j (List.mem_cons_of_mem _ hj))
    rw [List.foldl_cons]
    refine ⟨fun j hj => ?_, fun j hj hnot => ?_, fun f i hi hf => ?_⟩
    · by_cases hmem : j ∈ qs
      · exact hin j hmem
      · obtain rfl := (List.mem_cons.mp hj).resolve_right hmem
        exact (hout j hq hmem).trans ((hget _ _).trans hself)
    · obtain ⟨hjq, hjqs⟩ := not_or.mp (List.mem_cons.not.mp hnot)
      exact (hout j hj hjqs).trans ((hget _ _).trans (hne j hj hjq))
    · exact (hregs f i hi hf).trans ((hget f i).trans (hrest f i hi (by simpa using hf)))

/-- A quad whose domain is raised as it begins to train. -/
def Dev.trainQuad (d : Dev) (q : Nat) : Dev :=
  (d.putQuad q qsTraining).modDom (376 + q) (fun r => if r.state = .on then r else { state := .on, raises := satAdd r.raises 1 0xFFFF })

theorem Dev.trainQuad_regs (d : Dev) (q : Nat) : (d.trainQuad q).regs = (d.putQuad q qsTraining).regs := by
  unfold Dev.trainQuad
  generalize d.putQuad q qsTraining = e
  rfl

theorem Dev.startTraining_eq (d : Dev) (k : Nat) : d.startTraining k =
    if d.portCount k = 0 || d.portState k ≠ psDown || !d.flag LNK_PORT_CFG.EN k then d
    else (((d.portQuads k).foldl Dev.trainQuad d).modPort k (fun _ => LnkPort.init)).put LNK_PORT_STAT.STATE psTraining k := rfl

theorem Dev.startTraining_regs (d : Dev) {k : Nat} (hk : k < 1024) : d.RegsOutside (d.startTraining k) [.LNK_QUAD, .LNK_PORT_STAT] := by
  obtain ⟨-, -, hregs⟩ := Dev.quadsBy_regs (st := qsTraining) (by decide) (F := Dev.trainQuad) Dev.trainQuad_regs (d.portQuads k) d (d.portQuads_lt k)
  rw [Dev.startTraining_eq]
  split
  · exact .refl d _
  · generalize (d.portQuads k).foldl Dev.trainQuad d = e at hregs
    exact (hregs.mono (by simp)).trans (Dev.RegsOutside.trans (b := e.modPort k (fun _ => LnkPort.init)) (.of_regs rfl _) (.put _ _ _ _ hk (by decide)))

/-- A port that is DOWN, enabled and mapped begins to train (R331). -/
theorem Dev.startTraining_does (d : Dev) {k : Nat} (hk : k < 1024) (hcount : d.portCount k ≠ 0) (hdown : d.portState k = psDown)
    (hen : d.flag LNK_PORT_CFG.EN k = true) : (d.startTraining k).portState k = psTraining ∧ (d.startTraining k).portAt k = LnkPort.init
      ∧ ∀ q ∈ d.portQuads k, (d.startTraining k).quadState q = qsTraining := by
  obtain ⟨hin, -, -⟩ := Dev.quadsBy_regs (st := qsTraining) (by decide) (F := Dev.trainQuad) Dev.trainQuad_regs (d.portQuads k) d (d.portQuads_lt k)
  rw [Dev.startTraining_eq, if_neg (by simp [hcount, hdown, hen])]
  have hlt := d.portQuads_lt k
  generalize (d.portQuads k).foldl Dev.trainQuad d = e at hin
  refine ⟨?_, ?_, fun q hq => ?_⟩
  · rw [Dev.portState, get_put_self _ _ _ _ (by decide)]
    rfl
  · rw [Dev.portAt, Dev.put_lnk]
    exact e.modPort_at k _
  · rw [Dev.quadState, get_put_ne _ _ _ _ _ _ (regKey_ne (hlt q hq) hk (by decide)), Dev.modPort_get]
    exact hin q hq

end Sys2Proof.Machine
end

section
/-! The set-up of the links and the training of their quads (R326 to R331). -/

namespace Sys2Proof.Machine

open Sys2Proof.Laws

/-! ### The profile -/

/-- The entry of LNK_PORT_MAP that a named profile sets for a port. -/
def mapFields (prof k : Nat) : List (Fld × Nat) :=
  [(LNK_PORT_MAP.FIRST, (profilePort prof k).1), (LNK_PORT_MAP.COUNT, (profilePort prof k).2.1), (LNK_PORT_MAP.SPARES, 0),
    (LNK_PORT_MAP.AUX, b2n (profilePort prof k).2.2)]

/-- The map of a named profile. -/
def Dev.mapPorts (d : Dev) (prof : Nat) : Dev := (List.range 12).foldl (fun d k => d.puts (mapFields prof k) k) d

/-- The link set-up is committed, without an error. -/
def Dev.profileDone (d : Dev) : Dev := ((d.put LNK_PROFILE.COMMITTED 1).put LNK_PROFILE.STATUS 0).put LNK_PROFILE.BADPORT 0

/-- The quads of a port learn their port. -/
def Dev.nameQuads (d : Dev) (k : Nat) : Dev :=
  (if d.get LNK_PORT_MAP.COUNT k = 0 then [] else d.mapQuads k).foldl (fun d q => d.put LNK_QUAD.PORT k q) d

theorem Dev.mapQuads_lt (d : Dev) (k : Nat) : ∀ q ∈ d.mapQuads k, q < 1024 := by
  have hf : d.get LNK_PORT_MAP.FIRST k < 2 ^ 6 := field_lt _ _ _
  have hc : d.get LNK_PORT_MAP.COUNT k < 2 ^ 6 := field_lt _ _ _
  have hs : d.get LNK_PORT_MAP.SPARES k < 2 ^ 2 := field_lt _ _ _
  intro q hq
  simp only [Dev.mapQuads, List.mem_map, List.mem_range] at hq
  obtain ⟨i, hi, rfl⟩ := hq
  omega

/-- A fold over indices of registers, each step of which leaves the registers outside a list. -/
theorem Dev.RegsOutside.foldl_lt {rs : List RegName} {F : Dev → Nat → Dev} (hF : ∀ (d : Dev) (k : Nat), k < 1024 → d.RegsOutside (F d k) rs) :
    ∀ (ks : List Nat) (d : Dev), (∀ k ∈ ks, k < 1024) → d.RegsOutside (ks.foldl F d) rs
  | [], d, _ => .refl d rs
  | k :: ks, d, h => (hF d k (h k List.mem_cons_self)).trans (foldl_lt hF ks (F d k) (fun j hj => h j (List.mem_cons_of_mem _ hj)))

theorem Dev.nameQuads_regs (d : Dev) (k : Nat) : d.RegsOutside (d.nameQuads k) [.LNK_QUAD] := by
  unfold Dev.nameQuads
  refine .foldl_lt (fun e q hq => .put e LNK_QUAD.PORT k q hq (by decide)) _ d (fun q hq => ?_)
  split at hq
  · exact absurd hq List.not_mem_nil
  · exact d.mapQuads_lt k q hq

theorem ports_lt : ∀ k ∈ List.range 12, k < 1024 := fun k hk => by
  have := List.mem_range.mp hk
  omega

/-- What follows the map of a commit: the quads learn their ports, and where the links are live the ports train. -/
theorem Dev.committed_regs (d : Dev) : d.RegsOutside
    (let e := (List.range 12).foldl Dev.nameQuads d
     if e.linksLive then (List.range 12).foldl Dev.startTraining e else e) [.LNK_QUAD, .LNK_PORT_STAT] := by
  have h1 : d.RegsOutside ((List.range 12).foldl Dev.nameQuads d) [.LNK_QUAD, .LNK_PORT_STAT] :=
    .foldl_lt (fun e k _ => (e.nameQuads_regs k).mono (by simp)) _ d ports_lt
  generalize (List.range 12).foldl Dev.nameQuads d = e at h1 ⊢
  simp only
  split
  · exact h1.trans (.foldl_lt (fun e k hk => e.startTraining_regs hk) _ e ports_lt)
  · exact h1

theorem mapFields_names (prof k : Nat) : (mapFields prof k).map Prod.fst =
    [LNK_PORT_MAP.FIRST, LNK_PORT_MAP.COUNT, LNK_PORT_MAP.SPARES, LNK_PORT_MAP.AUX] := rfl

/-- Setting the map of one port leaves the map of another. -/
theorem Dev.puts_mapFields_ne (d : Dev) {prof k j : Nat} (_ : k < 1024) (_ : j < 1024) (h : j ≠ k) (g : Fld) (hg : g.reg = .LNK_PORT_MAP) :
    (d.puts (mapFields prof k) k).get g j = d.get g j := by
  have hkey : ∀ f : Fld, f.reg = .LNK_PORT_MAP → regKey g.reg j ≠ regKey f.reg k := fun f hf => by
    rw [hg, hf]
    unfold regKey
    omega
  simp only [Dev.puts, mapFields, List.foldl_cons, List.foldl_nil]
  rw [get_put_ne _ _ _ _ _ _ (hkey LNK_PORT_MAP.AUX rfl), get_put_ne _ _ _ _ _ _ (hkey LNK_PORT_MAP.SPARES rfl),
    get_put_ne _ _ _ _ _ _ (hkey LNK_PORT_MAP.COUNT rfl), get_put_ne _ _ _ _ _ _ (hkey LNK_PORT_MAP.FIRST rfl)]

theorem Dev.puts_mapFields_regs (d : Dev) {prof k : Nat} (hk : k < 1024) : d.RegsOutside (d.puts (mapFields prof k) k) [.LNK_PORT_MAP] := by
  simp only [Dev.puts, mapFields, List.foldl_cons, List.foldl_nil]
  exact (((Dev.RegsOutside.put _ _ _ _ hk (by decide)).trans (.put _ _ _ _ hk (by decide))).trans (.put _ _ _ _ hk (by decide))).trans
    (.put _ _ _ _ hk (by decide))

/-- Each port of a list gets its entry of the map. -/
theorem Dev.mapList_get {prof : Nat} : ∀ (ks : List Nat) (d : Dev), (∀ k ∈ ks, k < 1024) → ks.Nodup → ∀ k ∈ ks, ∀ e ∈ mapFields prof k,
    (ks.foldl (fun d k => d.puts (mapFields prof k) k) d).get e.1 k = e.2 % 2 ^ e.1.width
  | [], _, _, _ => fun k hk => absurd hk List.not_mem_nil
  | j :: ks, d, hlt, hnd => fun k hk e he => by
    obtain ⟨hj, hnd⟩ := List.nodup_cons.mp hnd
    have hks : ∀ k ∈ ks, k < 1024 := fun k hk => hlt k (List.mem_cons_of_mem _ hk)
    rw [List.foldl_cons]
    rcases List.mem_cons.mp hk with rfl | hin
    · have hreg : e.1.reg = .LNK_PORT_MAP := by
        have : ∀ f ∈ [LNK_PORT_MAP.FIRST, LNK_PORT_MAP.COUNT, LNK_PORT_MAP.SPARES, LNK_PORT_MAP.AUX], f.reg = .LNK_PORT_MAP := by decide
        exact this _ (mapFields_names prof k ▸ List.mem_map_of_mem he)
      have hk : k < 1024 := hlt k List.mem_cons_self
      have hkeep : ∀ (as : List Nat) (b : Dev), k ∉ as → (∀ a ∈ as, a < 1024) →
          (as.foldl (fun d k => d.puts (mapFields prof k) k) b).get e.1 k = b.get e.1 k := by
        intro as
        induction as with
        | nil => exact fun _ _ _ => rfl
        | cons a as ih =>
          intro b hnot has
          obtain ⟨hne, hnot⟩ := not_or.mp (List.mem_cons.not.mp hnot)
          rw [List.foldl_cons, ih _ hnot (fun x hx => has x (List.mem_cons_of_mem _ hx)),
            Dev.puts_mapFields_ne b (has a List.mem_cons_self) hk hne e.1 hreg]
      rw [hkeep ks _ hj hks]
      exact Dev.puts_get hk _ d (by rw [mapFields_names]; decide) e he
    · exact mapList_get ks _ hks hnd k hin e he

theorem profilePort_fits (prof : Nat) (h : prof < 4) : ∀ k < 12, (profilePort prof k).1 < 2 ^ 6 ∧ (profilePort prof k).2.1 < 2 ^ 6 := by
  have : ∀ p < 4, ∀ k < 12, (profilePort p k).1 < 2 ^ 6 ∧ (profilePort p k).2.1 < 2 ^ 6 := by decide
  exact this prof h

/-- The map of a named profile. -/
theorem Dev.mapPorts_does (d : Dev) {prof : Nat} (h : prof < 4) : d.RegsOutside (d.mapPorts prof) [.LNK_PORT_MAP] ∧ ∀ k < 12,
    (d.mapPorts prof).get LNK_PORT_MAP.FIRST k = (profilePort prof k).1 ∧ (d.mapPorts prof).get LNK_PORT_MAP.COUNT k = (profilePort prof k).2.1
      ∧ (d.mapPorts prof).flag LNK_PORT_MAP.AUX k = (profilePort prof k).2.2 := by
  refine ⟨.foldl_lt (fun e k hk => e.puts_mapFields_regs hk) _ d ports_lt, fun k hk => ?_⟩
  obtain ⟨hf, hc⟩ := profilePort_fits prof h k hk
  have hget : ∀ e ∈ mapFields prof k, (d.mapPorts prof).get e.1 k = e.2 % 2 ^ e.1.width :=
    Dev.mapList_get (List.range 12) d ports_lt List.nodup_range k (List.mem_range.mpr hk)
  refine ⟨(hget (LNK_PORT_MAP.FIRST, (profilePort prof k).1) (by simp [mapFields])).trans (Nat.mod_eq_of_lt hf), (hget (LNK_PORT_MAP.COUNT, (profilePort prof k).2.1) (by simp [mapFields])).trans (Nat.mod_eq_of_lt hc), ?_⟩
  rw [Dev.flag, hget (LNK_PORT_MAP.AUX, b2n (profilePort prof k).2.2) (by simp [mapFields])]
  cases (profilePort prof k).2.2 <;> decide

theorem Dev.profileDone_does (d : Dev) : (d.profileDone).flag LNK_PROFILE.COMMITTED 0 = true ∧ (d.profileDone).get LNK_PROFILE.STATUS 0 = 0
    ∧ d.RegsOutside d.profileDone [.LNK_PROFILE] := by
  unfold Dev.profileDone
  refine ⟨?_, ?_, ((Dev.RegsOutside.put _ _ _ _ (by decide) (by decide)).trans (.put _ _ _ _ (by decide) (by decide))).trans
    (.put _ _ _ _ (by decide) (by decide))⟩
  · rw [Dev.flag, get_put_clear _ _ (by decide) (by decide) (by decide), get_put_clear _ _ (by decide) (by decide) (by decide),
      get_put_self _ _ _ _ (by decide)]
    decide
  · rw [get_put_clear _ _ (by decide) (by decide) (by decide), get_put_self _ _ _ _ (by decide)]
    decide

/-- A commit of a named profile that the checks pass (R327). -/
theorem Dev.linkCommit_named (d : Dev) (hopen : d.flag LNK_PROFILE.COMMITTED 0 = false) (hprof : d.get LNK_PROFILE.PROFILE 0 < 4)
    (hpool : d.pool 0 + d.pool 1 + d.pool 2 + d.pool 3 ≤ 1792) : d.linkCommit =
      (let e := (List.range 12).foldl Dev.nameQuads (d.mapPorts (d.get LNK_PROFILE.PROFILE 0)).profileDone
       if e.linksLive then (List.range 12).foldl Dev.startTraining e else e) := by
  have h4 : ¬ 4 < d.get LNK_PROFILE.PROFILE 0 := by omega
  have h5 : d.get LNK_PROFILE.PROFILE 0 ≠ 4 := by omega
  simp only [Dev.linkCommit, hopen, Bool.false_eq_true, if_false, h4, Nat.not_lt.mpr hpool, h5]
  rfl

theorem Dev.linkCommit_does (d : Dev) (hopen : d.flag LNK_PROFILE.COMMITTED 0 = false) (hprof : d.get LNK_PROFILE.PROFILE 0 < 4)
    (hpool : d.pool 0 + d.pool 1 + d.pool 2 + d.pool 3 ≤ 1792) : d.linkCommit.flag LNK_PROFILE.COMMITTED 0 = true
      ∧ d.linkCommit.get LNK_PROFILE.STATUS 0 = 0 ∧ ∀ k < 12,
        d.linkCommit.get LNK_PORT_MAP.FIRST k = (profilePort (d.get LNK_PROFILE.PROFILE 0) k).1
        ∧ d.linkCommit.get LNK_PORT_MAP.COUNT k = (profilePort (d.get LNK_PROFILE.PROFILE 0) k).2.1
        ∧ d.linkCommit.flag LNK_PORT_MAP.AUX k = (profilePort (d.get LNK_PROFILE.PROFILE 0) k).2.2 := by
  obtain ⟨-, hmap⟩ := d.mapPorts_does hprof
  rw [d.linkCommit_named hopen hprof hpool]
  generalize d.mapPorts (d.get LNK_PROFILE.PROFILE 0) = m at hmap ⊢
  obtain ⟨hflag, hstat, hregs⟩ := m.profileDone_does
  generalize m.profileDone = p at hflag hstat hregs ⊢
  have hlast := p.committed_regs
  generalize (let e := (List.range 12).foldl Dev.nameQuads p; if e.linksLive then (List.range 12).foldl Dev.startTraining e else e) = t at hlast ⊢
  refine ⟨?_, ?_, fun k hk => ?_⟩
  · rw [Dev.flag, hlast _ _ (by decide) (by decide)]
    exact hflag
  · rw [hlast _ _ (by decide) (by decide)]
    exact hstat
  · have hgo : ∀ g : Fld, g.reg = .LNK_PORT_MAP → t.get g k = m.get g k := fun g hg =>
      (hlast g k (by omega) (by rw [hg]; decide)).trans (hregs g k (by omega) (by rw [hg]; decide))
    rw [Dev.flag, hgo _ rfl, hgo _ rfl, hgo _ rfl]
    exact hmap k hk

/-- A write of LNK_PROFILE before the commit. -/
theorem Dev.profileFields_keep (d : Dev) (w : RegWr) (tc : Nat) :
    (d.writeFields .LNK_PROFILE 0 false w).flag LNK_PROFILE.COMMITTED 0 = d.flag LNK_PROFILE.COMMITTED 0
      ∧ (d.writeFields .LNK_PROFILE 0 false w).pool tc = d.pool tc := by
  have hout := d.writeFields_outside .LNK_PROFILE 0 (by decide) false w
  have hkeep : (d.writeFields .LNK_PROFILE 0 false w).get LNK_PROFILE.COMMITTED 0 = d.get LNK_PROFILE.COMMITTED 0 :=
    d.writeFields_keeps LNK_PROFILE.COMMITTED 0 (by decide) (by decide) (by decide) false w (by decide)
  refine ⟨?_, ?_⟩
  · rw [Dev.flag, hkeep, Dev.flag]
  · unfold Dev.pool
    split
    all_goals exact hout _ 0 (by decide) (by decide)

/-! ### Ports that are enabled and disabled -/

/-- The copies of HINGE and GROUP that a write may not change are put back (R343, R372). -/
def Dev.copyBack (old : Dev) (k : Nat) (d : Dev) (v : Nat) : Dev :=
  if !old.copyLocked v then d
  else [hingeFld v, groupFld v].foldl (fun d f =>
    if d.get f k = old.get f k then d else (d.put f (old.get f k) k).count RTE_ERR.TBLREJ) d

theorem Dev.copyBack_does (old d : Dev) {k : Nat} (hk : k < 1024) (v : Nat) : d.onlyRegs (old.copyBack k d v)
    ∧ (old.copyBack k d v).get LNK_PORT_CFG.EN k = d.get LNK_PORT_CFG.EN k
    ∧ d.RegsOutside (old.copyBack k d v) [.LNK_PORT_CFG, .RTE_ERR] := by
  have hone : ∀ (e : Dev) (f : Fld), LNK_PORT_CFG.EN.apart f = true ∧ f.reg = .LNK_PORT_CFG ∧ f.lo + f.width ≤ 64 →
      let b := if e.get f k = old.get f k then e else (e.put f (old.get f k) k).count RTE_ERR.TBLREJ
      e.onlyRegs b ∧ b.get LNK_PORT_CFG.EN k = e.get LNK_PORT_CFG.EN k ∧ e.RegsOutside b [.LNK_PORT_CFG, .RTE_ERR] := fun e f ⟨hap, hr, hw⟩ => by
    simp only
    split
    · exact ⟨.refl e, rfl, .refl e _⟩
    · refine ⟨(Dev.onlyRegs.put _ _ _ _).trans (.count _ _ _ _), ?_, (Dev.RegsOutside.put _ _ _ _ hk (by simp [hr])).trans (.count _ _ _ _ (by decide) (by decide))⟩
      rw [Dev.count, get_put_ne _ _ _ _ _ _ (regKey_ne hk (by decide) (by decide)), get_put_clear _ _ hk hw]
      simp only [Fld.clear, Fld.apart, Bool.or_eq_true, decide_eq_true_eq] at hap ⊢
      exact .inr hap.symm
  have hnames : ∀ v', (LNK_PORT_CFG.EN.apart (hingeFld v') = true ∧ (hingeFld v').reg = .LNK_PORT_CFG ∧ (hingeFld v').lo + (hingeFld v').width ≤ 64)
      ∧ LNK_PORT_CFG.EN.apart (groupFld v') = true ∧ (groupFld v').reg = .LNK_PORT_CFG ∧ (groupFld v').lo + (groupFld v').width ≤ 64 := fun v' => by
    unfold hingeFld groupFld
    split <;> decide
  obtain ⟨hh, hg⟩ := hnames v
  unfold Dev.copyBack
  simp only [List.foldl_cons, List.foldl_nil]
  split
  · exact ⟨.refl d, rfl, .refl d _⟩
  · obtain ⟨ho1, he1, hr1⟩ := hone d _ hh
    obtain ⟨ho2, he2, hr2⟩ := hone _ _ hg
    exact ⟨ho1.trans ho2, he2.trans he1, hr1.trans hr2⟩

/-- The set-up of a port after a write, before its EN acts. -/
def Dev.portCfg (d : Dev) (k : Nat) (w : RegWr) : Dev := d.copyBack k (d.copyBack k (d.writeFields .LNK_PORT_CFG k false w) 0) 1

theorem Dev.portCfgWrite_eq (d : Dev) (k : Nat) (w : RegWr) : d.portCfgWrite k w =
    if !wrCarries w LNK_PORT_CFG.EN then d.portCfg k w
    else if (d.portCfg k w).flag LNK_PORT_CFG.EN k then
      (if (d.portCfg k w).flag LNK_PROFILE.COMMITTED && (d.portCfg k w).linksLive then (d.portCfg k w).startTraining k else d.portCfg k w)
    else (d.portCfg k w).portDown k false := rfl

theorem Dev.portCfg_does (d : Dev) {k : Nat} (hk : k < 1024) (w : RegWr) : d.onlyRegs (d.portCfg k w)
    ∧ (d.portCfg k w).get LNK_PORT_CFG.EN k = (if wrCarries w LNK_PORT_CFG.EN then wrGet w LNK_PORT_CFG.EN else d.get LNK_PORT_CFG.EN k)
    ∧ d.RegsOutside (d.portCfg k w) [.LNK_PORT_CFG, .RTE_ERR, .MMC_CFG_REJ] := by
  have hw := d.writeFields_takes LNK_PORT_CFG.EN k hk (by decide) (by decide) false w (.inl rfl) (by decide) (by decide)
  have hwo := Dev.onlyRegs.writeFields d .LNK_PORT_CFG k false w
  have hwr := d.writeFields_outside .LNK_PORT_CFG k hk false w
  unfold Dev.portCfg
  change (d.writeFields .LNK_PORT_CFG k false w).get _ _ = _ at hw
  generalize d.writeFields .LNK_PORT_CFG k false w = e at hw hwo hwr ⊢
  obtain ⟨ho0, he0, hr0⟩ := d.copyBack_does e hk 0
  obtain ⟨ho1, he1, hr1⟩ := d.copyBack_does (d.copyBack k e 0) hk 1
  exact ⟨(hwo.trans ho0).trans ho1, (he1.trans he0).trans hw, ((hwr.mono (by simp)).trans (hr0.mono (by simp))).trans (hr1.mono (by simp))⟩

/-! ### Ports that train -/

/-- A place of a port whose quads have settled: an active quad carries flits itself, another has the next spare stand in. -/
def Dev.fillPlace (d : Dev) (acc : List Nat × List (Nat × Nat) × List Nat) (q : Nat) : List Nat × List (Nat × Nat) × List Nat :=
  if d.quadState q = qsActive then (acc.1 ++ [q], acc.2.1, acc.2.2)
  else match acc.2.2 with
    | [] => acc
    | s :: rest => (acc.1 ++ [s], acc.2.1 ++ [(q, s)], rest)

/-- The spares of a port that have trained. -/
def Dev.trainedSpares (d : Dev) (k : Nat) : List Nat := (d.sparePlaces k).filter (fun q => d.quadState q = qsSpare)

/-- The quads that carry a port's flits, the spares among them with what they stand in for, and the spares left. -/
def Dev.trainFill (d : Dev) (k : Nat) : List Nat × List (Nat × Nat) × List Nat :=
  (d.activePlaces k).foldl d.fillPlace ([], [], d.trainedSpares k)

/-- Filling a place adds to the order and takes from the spares at most one. -/
theorem Dev.fillPlace_does (d : Dev) (acc : List Nat × List (Nat × Nat) × List Nat) (q : Nat) :
    (acc.1 ≠ [] ∨ d.quadState q = qsActive → (d.fillPlace acc q).1 ≠ [])
      ∧ (∀ e ∈ (d.fillPlace acc q).2.1, e ∈ acc.2.1 ∨ e.2 ∈ acc.2.2) ∧ ∀ s ∈ (d.fillPlace acc q).2.2, s ∈ acc.2.2 := by
  obtain ⟨order, stand, spares⟩ := acc
  unfold Dev.fillPlace
  split
  · exact ⟨fun _ => by simp, fun e he => .inl he, fun s hs => hs⟩
  · cases spares with
    | nil => exact ⟨fun h => h.resolve_right ‹_›, fun e he => .inl he, fun s hs => hs⟩
    | cons s rest =>
      refine ⟨fun _ => by simp, fun e he => ?_, fun x hx => List.mem_cons_of_mem _ hx⟩
      rcases List.mem_append.mp he with he | he
      · exact .inl he
      · rw [List.mem_singleton.mp he]
        exact .inr List.mem_cons_self

theorem Dev.fillPlaces_does (d : Dev) : ∀ (qs : List Nat) (acc : List Nat × List (Nat × Nat) × List Nat),
    (acc.1 ≠ [] ∨ (∃ q ∈ qs, d.quadState q = qsActive) → (qs.foldl d.fillPlace acc).1 ≠ [])
      ∧ ∀ e ∈ (qs.foldl d.fillPlace acc).2.1, e ∈ acc.2.1 ∨ e.2 ∈ acc.2.2
  | [], acc => ⟨fun h => h.resolve_right (fun ⟨q, hq, _⟩ => absurd hq List.not_mem_nil), fun e he => .inl he⟩
  | q :: qs, acc => by
    obtain ⟨hne, hstand, hspare⟩ := d.fillPlace_does acc q
    obtain ⟨ihne, ihstand⟩ := fillPlaces_does d qs (d.fillPlace acc q)
    rw [List.foldl_cons]
    refine ⟨fun h => ihne ?_, fun e he => ?_⟩
    · rcases h with h | ⟨x, hx, hact⟩
      · exact .inl (hne (.inl h))
      · rcases List.mem_cons.mp hx with rfl | hx
        · exact .inl (hne (.inr hact))
        · exact .inr ⟨x, hx, hact⟩
    · rcases ihstand e he with h | h
      · exact hstand e h
      · exact .inr (hspare _ h)

/-- A port enters DISCOVER with its slot order. -/
def Dev.discovers (d : Dev) (k : Nat) (order : List Nat) (standIn : List (Nat × Nat)) : Dev :=
  (((standIn.foldl (fun d e => d.putQuad e.2 qsActive) d).modPort k (fun p => { p with order := order, standIn := standIn })).put
    LNK_PORT_STAT.STATE psDiscover k).settlePort k

theorem Dev.trainingSettle_eq (d : Dev) (k : Nat) : d.trainingSettle k =
    if d.portState k ≠ psTraining || (d.portQuads k).any (fun q => d.quadState q = qsTraining) then d
    else if !(d.activePlaces k).any (fun q => d.quadState q = qsActive) then d
    else d.discovers k (d.trainFill k).1 (d.trainFill k).2.1 := rfl

/-- A port that enters DISCOVER makes the spares that stand in active, and leaves the other quads as they are. -/
theorem Dev.discovers_quad (d : Dev) {k q : Nat} (hk : k < 1024) (hq : q < 1024) {order : List Nat} {standIn : List (Nat × Nat)} (ho : order ≠ [])
    (hlt : ∀ e ∈ standIn, e.2 < 1024) (hst : d.quadState q = qsActive ∨ ∀ e ∈ standIn, e.2 ≠ q) :
    (d.discovers k order standIn).quadState q = d.quadState q := by
  have hset := Dev.putQuads_does (show qsActive < 8 by decide) (standIn.map Prod.snd) d (fun x hx => by
    obtain ⟨e, he, rfl⟩ := List.mem_map.mp hx
    exact hlt e he)
  rw [List.foldl_map] at hset
  have hquads : (standIn.foldl (fun d e => d.putQuad e.2 qsActive) d).quadState q = d.quadState q := by
    by_cases hmem : q ∈ standIn.map Prod.snd
    · obtain ⟨e, he, heq⟩ := List.mem_map.mp hmem
      exact (hset.set q hmem).trans (hst.resolve_right (fun h => h e he heq)).symm
    · exact hset.others q hq hmem
  unfold Dev.discovers
  generalize standIn.foldl (fun d e => d.putQuad e.2 qsActive) d = e at hquads ⊢
  generalize hE : (e.modPort k _).put LNK_PORT_STAT.STATE psDiscover k = E
  have horder : (E.portAt k).order = order := by
    rw [← hE, Dev.portAt, Dev.put_lnk, ← Dev.portAt, Dev.modPort_at]
  have hstate : E.quadState q = e.quadState q := by
    rw [← hE, Dev.quadState, get_put_ne _ _ _ _ _ _ (regKey_ne hq hk (by decide)), Dev.modPort_get, Dev.quadState]
  obtain ⟨hregs, -⟩ := E.settlePort_does hk (by rw [horder]; exact fun h => ho (List.length_eq_zero_iff.mp h))
  exact (hregs _ _ hq (by decide)).trans (hstate.trans hquads)

/-- A quad that its training gives a state, before its port settles. -/
def Dev.quadTrained (d : Dev) (k q : Nat) (outcome : TrainOutcome) : Dev :=
  let own := if (d.activePlaces k).contains q then qsActive else qsSpare
  match outcome with
  | .failed => (d.putQuad q qsFailed).quadRecord q
  | .stray => d.putQuad q qsStray
  | .trained ser =>
    match (d.portAt k).peer with
    | none => (d.modPort k (fun p => { p with peer := some ser.toNat })).putQuad q own
    | some o => d.putQuad q (if o = ser.toNat then own else qsStray)

theorem quadTrainingDone_answers {q : QuadId} {o : TrainOutcome} {s : State} (hst : s.dev.quadState q.val = qsTraining) {P : State → Prop}
    (hP : ∀ t, s.onlyDev t → t.dev = (s.dev.quadTrained (s.dev.get LNK_QUAD.PORT q.val) q.val o).trainingSettle (s.dev.get LNK_QUAD.PORT q.val) → P t) :
    Answers (.quadTrainingDone q o) s P := by
  refine answers_device (d := (s.dev.quadTrained (s.dev.get LNK_QUAD.PORT q.val) q.val o).trainingSettle (s.dev.get LNK_QUAD.PORT q.val)) rfl ?_ hP
  simp only [Act.dev, hst, if_true]
  rfl

/-- A quad that has settled in another state than that of a spare keeps it as its port settles. -/
theorem Dev.trainingSettle_quad (d : Dev) {k q : Nat} (hk : k < 1024) (hq : q < 1024) (hst : d.quadState q ≠ qsSpare) :
    (d.trainingSettle k).quadState q = d.quadState q := by
  rw [Dev.trainingSettle_eq]
  split
  · rfl
  · split
    · rfl
    · rename_i hact
      obtain ⟨hne, hstand⟩ := d.fillPlaces_does (d.activePlaces k) ([], [], d.trainedSpares k)
      have hspare : ∀ e ∈ (d.trainFill k).2.1, e.2 ∈ d.sparePlaces k ∧ d.quadState e.2 = qsSpare := fun e he => by
        have hmem := (hstand e he).resolve_left List.not_mem_nil
        simpa only [Dev.trainedSpares, List.mem_filter, decide_eq_true_eq] using hmem
      refine d.discovers_quad hk hq (hne (.inr ?_)) (fun e he => ?_) (.inr (fun e he h => hst (h ▸ (hspare e he).2)))
      · simpa using hact
      · have hf : d.get LNK_PORT_MAP.FIRST k < 2 ^ 6 := field_lt _ _ _
        have hc : d.get LNK_PORT_MAP.COUNT k < 2 ^ 6 := field_lt _ _ _
        have hs : d.get LNK_PORT_MAP.SPARES k < 2 ^ 2 := field_lt _ _ _
        have hin := (hspare e he).1
        simp only [Dev.sparePlaces, List.mem_map, List.mem_range] at hin
        obtain ⟨i, hi, h⟩ := hin
        omega

end Sys2Proof.Machine

namespace Sys2Proof.Proofs

open Sys2Proof.Machine Sys2Proof.Laws

/-- Settles O29: a commit by the map that it sets and what follows it, a port by its EN after the write, a quad by the state that its
training gives it, which the settling of its port keeps. -/
theorem linkStart : Obligations.LinkStart := by
  unfold Obligations.LinkStart
  have hlt : ∀ p : PortId, p.val < 1024 := fun p => by omega
  have hltq : ∀ q : QuadId, q.val < 1024 := fun q => by omega
  have hltp : ∀ (d : Dev) (q : Nat), d.get LNK_QUAD.PORT q < 1024 := fun d q => by
    have : d.get LNK_QUAD.PORT q < 2 ^ 4 := field_lt _ _ _
    omega
  refine ⟨⟨fun w s hm hset hopen => ⟨fun hprof hpool => ?_, fun hprof hpool => ?_⟩, fun w s hm hdone => ?_,
    fun port w s hm hcar => ⟨fun hset hcom hlive hcount hdown => ?_, fun hclear hup => ?_⟩⟩,
    fun q serial s hst hact hport hpeer => ?_, fun q s hst => ⟨?_, ?_⟩, fun port s hst hnone => ?_, fun port s hretry hcount hdown hen => ?_⟩
  · obtain ⟨hflag, hp0⟩ := s.dev.profileFields_keep w 0
    have hp := fun tc => (s.dev.profileFields_keep w tc).2
    obtain ⟨h1, h2, h3⟩ := Dev.linkCommit_does (s.dev.writeFields .LNK_PROFILE 0 false w) (hflag.trans hopen) hprof (by simpa only [hp] using hpool)
    refine mgmtDev_answers hm rfl ?_
    simp only [Dev.profileWrite, hopen, hset, if_true]
    exact ⟨⟨rfl, rfl, rfl⟩, h1, h2, h3⟩
  · obtain ⟨hflag, -⟩ := s.dev.profileFields_keep w 0
    have hp := fun tc => (s.dev.profileFields_keep w tc).2
    refine mgmtDev_answers hm rfl ?_
    simp only [Dev.profileWrite, hopen, hset, if_true, Dev.linkCommit, hflag, Bool.false_eq_true, if_false, Nat.not_lt.mpr hprof, hp, hpool]
  · refine mgmtDev_answers hm rfl ?_
    have hflag : (s.dev.writeFields .LNK_PROFILE 0 true w).flag LNK_PROFILE.COMMITTED 0 = true := by
      have hkeep : (s.dev.writeFields .LNK_PROFILE 0 true w).get LNK_PROFILE.COMMITTED 0 = s.dev.get LNK_PROFILE.COMMITTED 0 :=
        s.dev.writeFields_keeps LNK_PROFILE.COMMITTED 0 (by decide) (by decide) (by decide) true w (by decide)
      rw [Dev.flag, hkeep]
      exact hdone
    simp only [Dev.profileWrite, hdone, Dev.linkCommit, hflag, if_true, ite_self]
  · obtain ⟨honly, hen, hregs⟩ := s.dev.portCfg_does (hlt port) w
    refine mgmtDev_answers hm rfl ?_
    rw [hcar, if_pos rfl] at hen
    have hflag : (s.dev.portCfg port.val w).flag LNK_PORT_CFG.EN port.val = true := by
      rw [Dev.flag, hen]
      exact hset
    have hdown' : (s.dev.portCfg port.val w).portState port.val = psDown := (hregs _ _ (hlt port) (by decide)).trans hdown
    have hcom' : (s.dev.portCfg port.val w).flag LNK_PROFILE.COMMITTED 0 = true := by
      rw [Dev.flag, hregs _ _ (by decide) (by decide)]
      exact hcom
    have hlive' : (s.dev.portCfg port.val w).linksLive = true := by
      rw [Dev.linksLive, honly.mmc]
      exact hlive
    have hcount' : (s.dev.portCfg port.val w).portCount port.val ≠ 0 := by
      rw [Dev.portCount, Dev.flag, hregs _ _ (by decide) (by decide), hregs _ _ (hlt port) (by decide)]
      exact hcount
    obtain ⟨h1, h2, h3⟩ := (s.dev.portCfg port.val w).startTraining_does (hlt port) hcount' hdown' hflag
    rw [Dev.portCfgWrite_eq, hcar, hflag, hcom', hlive', Dev.portQuads_of_regs hregs _ (hlt port) (by decide)] at *
    exact ⟨⟨rfl, rfl, rfl⟩, h1, h2, h3⟩
  · obtain ⟨honly, hen, hregs⟩ := s.dev.portCfg_does (hlt port) w
    refine mgmtDev_answers hm rfl ?_
    rw [hcar, if_pos rfl] at hen
    have hflag : (s.dev.portCfg port.val w).flag LNK_PORT_CFG.EN port.val = false := by
      rw [Dev.flag, hen]
      exact hclear
    have hup' : (s.dev.portCfg port.val w).portState port.val ≠ psDown := by
      rw [Dev.portState, hregs _ _ (hlt port) (by decide)]
      exact hup
    have hgone := (s.dev.portCfg port.val w).portDown_does port.val (hlt port) false hup'
    have hquads := hgone.quads
    rw [Dev.portQuads_of_regs hregs _ (hlt port) (by decide)] at hquads
    rw [Dev.portCfgWrite_eq, hcar, hflag]
    exact ⟨⟨rfl, rfl, rfl⟩, hgone.state, hgone.port, hquads⟩
  · have hcontains : (s.dev.activePlaces (s.dev.get LNK_QUAD.PORT q.val)).contains q.val = true := by simpa using hact
    refine quadTrainingDone_answers hst fun t honly ht => ⟨honly, ?_⟩
    have hquad : (s.dev.quadTrained (s.dev.get LNK_QUAD.PORT q.val) q.val (.trained serial)).quadState q.val = qsActive := by
      simp only [Dev.quadTrained, hcontains, if_true]
      rcases hpeer with hp | hp
      · rw [hp]
        exact (Dev.putQuad_does _ (by decide) (hltq q)).1
      · rw [hp]
        simp only [if_true]
        exact (Dev.putQuad_does _ (by decide) (hltq q)).1
    rw [ht, Dev.trainingSettle_quad _ (hltp _ _) (hltq q) (by rw [hquad]; decide), hquad]
  · refine quadTrainingDone_answers hst fun t honly ht => ⟨honly, ?_⟩
    have hquad : (s.dev.quadTrained (s.dev.get LNK_QUAD.PORT q.val) q.val .stray).quadState q.val = qsStray :=
      (Dev.putQuad_does s.dev (by decide) (hltq q)).1
    rw [ht, Dev.trainingSettle_quad _ (hltp _ _) (hltq q) (by rw [hquad]; decide), hquad]
  · refine quadTrainingDone_answers hst fun t honly ht => ⟨honly, ?_⟩
    have hquad : (s.dev.quadTrained (s.dev.get LNK_QUAD.PORT q.val) q.val .failed).quadState q.val = qsFailed := by
      have hlog := Dev.Reports.logError (s.dev.putQuad q.val qsFailed) 2 0 (0x8A00 + q.val) 0x0020 0 2 q.val
      have hput := (Dev.putQuad_does s.dev (show qsFailed < 8 by decide) (hltq q)).1
      simp only [Dev.quadTrained, Dev.quadRecord]
      generalize s.dev.putQuad q.val qsFailed = e at hlog hput
      exact (hlog.regs _ _ (hltq q) (by decide) (by decide)).trans hput
    rw [ht, Dev.trainingSettle_quad _ (hltp _ _) (hltq q) (by rw [hquad]; decide), hquad]
  · have hup : s.dev.portState port.val ≠ psDown := by
      rw [hst]
      decide
    have hgone := s.dev.portDown_does port.val (hlt port) false hup
    refine answers_device (d := (s.dev.portDown port.val false).modPort port.val (fun p => { p with retry := true })) rfl ?_
      fun t honly ht => ⟨honly, ?_, ?_⟩
    · simp only [Act.dev, hst, hnone, decide_true, Bool.not_false, Bool.and_self, if_true]
    · rw [ht, Dev.portState, Dev.modPort_get]
      exact hgone.state
    · rw [ht, Dev.modPort_at, hgone.port]
  · obtain ⟨h1, h2, -⟩ := (s.dev.modPort port.val (fun p => { p with retry := false })).startTraining_does (hlt port) hcount hdown hen
    refine answers_device (d := (s.dev.modPort port.val (fun p => { p with retry := false })).startTraining port.val) rfl ?_
      fun t honly ht => ⟨honly, by rw [ht]; exact h1, by rw [ht]; exact h2⟩
    simp only [Act.dev, hretry, if_true]

end Sys2Proof.Proofs
end

section
/-! Quads that leave and join the slot order of a port (R337, R338, R349 to R352). -/

namespace Sys2Proof.Machine

open Sys2Proof.Laws

/-! ### Requests -/

theorem Dev.sendLcf_frame (d : Dev) (k req rq id at' : Nat) : ∃ o n, d.sendLcf k req rq id at' = { d with out := o, free := n } := ⟨_, _, rfl⟩

theorem Dev.sendLcf_does (d : Dev) (k req rq id at' : Nat) : (d.sendLcf k req rq id at').regs = d.regs ∧ (d.sendLcf k req rq id at').lnk = d.lnk := by
  obtain ⟨o, n, h⟩ := d.sendLcf_frame k req rq id at'
  exact ⟨by rw [h], by rw [h]⟩

/-- A request of this end stands as the change of its port, unanswered. -/
theorem Dev.requestChange_does (d : Dev) (k req q spare : Nat) (recal : Bool) : (d.requestChange k req q spare recal).regs = d.regs
    ∧ ∃ c, ((d.requestChange k req q spare recal).portAt k).change = some c ∧ c.own = true ∧ c.req = req ∧ c.quad = q ∧ c.agreed = false
      ∧ c.recal = recal := by
  unfold Dev.requestChange
  simp only
  generalize hE : Dev.modPort d.draw.2 k _ = E
  have hregs : E.regs = d.regs := by rw [← hE]; rfl
  have hchange : ∃ c, (E.portAt k).change = some c ∧ c.own = true ∧ c.req = req ∧ c.quad = q ∧ c.agreed = false ∧ c.recal = recal := by
    rw [← hE, Dev.modPort_at]
    exact ⟨_, rfl, rfl, rfl, rfl, rfl, rfl⟩
  generalize (if req = 3 then _ else _) = rq
  generalize (d.draw.2.portAt k).nextId = id
  generalize d.draw.1.toNat % 2 ^ 32 = at'
  obtain ⟨h1, h2⟩ := E.sendLcf_does k req rq id at'
  refine ⟨h1.trans hregs, ?_⟩
  rw [Dev.portAt, h2]
  exact hchange

/-- A quad that is not the last of its port asks for a spare in its place or for its removal (R349). -/
theorem Dev.requestLoss_does (d : Dev) {k q : Nat} (recal : Bool) (hmore : (d.portAt k).order.any (· ≠ q) = true) :
    (d.requestLoss k q recal).regs = d.regs ∧ ∃ c, ((d.requestLoss k q recal).portAt k).change = some c ∧ c.own = true
      ∧ c.req = (if (d.freeSpare k).isSome then 3 else 1) ∧ c.quad = q ∧ c.agreed = false ∧ c.recal = recal := by
  unfold Dev.requestLoss
  cases d.freeSpare k with
  | some x => exact d.requestChange_does k 3 q x recal
  | none =>
    simp only [hmore, if_true]
    exact d.requestChange_does k 1 q 0 recal

/-- A port's free spares, where the same quads are spares and the same quads carry flits. -/
theorem Dev.freeSpare_of_same {a b : Dev} {k : Nat} (hquads : b.portQuads k = a.portQuads k)
    (hst : ∀ x ∈ a.portQuads k, (b.quadState x = qsSpare ↔ a.quadState x = qsSpare)) (ho : (b.portAt k).order = (a.portAt k).order) :
    b.freeSpare k = a.freeSpare k := by
  unfold Dev.freeSpare
  rw [hquads, ho]
  generalize a.portQuads k = qs at hst
  induction qs with
  | nil => rfl
  | cons x xs ih =>
    rw [List.find?_cons, List.find?_cons, ih (fun y hy => hst y (List.mem_cons_of_mem _ hy)),
      show decide (b.quadState x = qsSpare) = decide (a.quadState x = qsSpare) from decide_eq_decide.mpr (hst x List.mem_cons_self)]

/-! ### Link-control flits -/

/-- What an LCF does beside returning credits, by its request. -/
def Dev.lcfActs (d : Dev) (k : Nat) (f : Bytes) : Dev :=
  match rdb f 0x1C with
  | 1 => d.peerRequest k f
  | 2 => d.peerRequest k f
  | 3 => d.peerRequest k f
  | 4 => d.peerAck k f
  | 5 => d.peerRefuse k f
  | _ => d

theorem Dev.takeLcf_eq (d : Dev) {k : Nat} {f : Bytes} (hgood : lcfGood f = true) (hst : psDiscover ≤ d.portState k) :
    d.takeLcf k f = (d.takeCredits k f).lcfActs k f := by
  simp only [Dev.takeLcf, hgood, Bool.not_true, Bool.false_or, decide_eq_true_eq, Nat.not_lt.mpr hst, if_false]
  rfl

theorem Dev.Pumped.regs {a b : Dev} (h : a.Pumped b) : b.regs = a.regs := by
  obtain ⟨l, o, rfl⟩ := h.rest
  rfl

theorem Dev.changeOk_pumped {a b : Dev} (h : a.Pumped b) {k : Nat} (hk : k < 1024) (req q spare : Nat) : b.changeOk k req q spare = a.changeOk k req q spare := by
  have hquads : b.portQuads k = a.portQuads k := Dev.portQuads_of_regs (.of_regs h.regs []) k hk (by decide)
  have hst : b.quadState spare = a.quadState spare := h.get _ _
  unfold Dev.changeOk
  rw [LnkPort.core_order (h.core k), hquads, hst]

/-- A request of the peer that this end can carry out, with no change under way, is agreed to (R349, R351). -/
theorem Dev.peerRequest_accepts (d : Dev) {k : Nat} {f : Bytes} (hok : d.changeOk k (rdb f 0x1C) (d.lcfQuad k f) (d.lcfSpare k f) = true)
    (hnone : (d.portAt k).change = none) : ((d.peerRequest k f).portAt k).change =
      some ⟨false, rdb f 0x1C, d.lcfQuad k f, d.lcfSpare k f, rdb f 0x1E, rd f 0x20 4, true, false⟩ := by
  have hform : d.peerRequest k f = (d.modPort k (fun p => { p with
      change := some ⟨false, rdb f 0x1C, d.lcfQuad k f, d.lcfSpare k f, rdb f 0x1E, rd f 0x20 4, true, false⟩ })).sendLcf k 4 (rdb f 0x1D) (rdb f 0x1E) (rd f 0x20 4) := by
    unfold Dev.lcfQuad Dev.lcfSpare at *
    simp only [Dev.peerRequest, hok, Bool.not_true, Bool.false_eq_true, if_false, hnone]
  rw [hform]
  generalize hE : d.modPort k _ = E
  obtain ⟨-, hlnk⟩ := E.sendLcf_does k 4 (rdb f 0x1D) (rdb f 0x1E) (rd f 0x20 4)
  rw [Dev.portAt, hlnk, ← Dev.portAt, ← hE, Dev.modPort_at]

theorem Dev.loseChange_change (d : Dev) (k : Nat) : ((d.loseChange k).portAt k).change = none := by
  unfold Dev.loseChange
  cases hc : (d.portAt k).change with
  | none => exact hc
  | some c =>
    simp only
    generalize hE : d.modPort k _ = E
    have hnone : (E.portAt k).change = none := by rw [← hE, Dev.modPort_at]
    split
    · exact hnone
    · split
      · rw [Dev.modPort_at]
        exact hnone
      · split
        · rw [Dev.portAt, Dev.put_lnk]
          exact hnone
        · rw [Dev.modPort_at]
          exact hnone

/-- What an LCF with a request leaves, where the credits that it brings leave it. -/
theorem lcfRow_answers {i : Instr} {s : State} {port : PortId} {f : Bytes} {req : Nat} (he : exec i s = .next (s.run (lcfAct port f req)))
    (hgood : lcfGood f = true) (hst : psDiscover ≤ s.dev.portState port.val) (hreq : rdb f 0x1C = req) {P : State → Prop}
    (hP : ∀ t, s.onlyDev t → t.dev = (s.dev.takeCredits port.val f).lcfActs port.val f → P t) : Answers i s P := by
  refine answers_device he ?_ hP
  simp only [lcfAct, Act.dev, hreq, if_true, s.dev.takeLcf_eq hgood hst]

/-! ### Changes of the slot order -/

theorem Dev.quadLeaves_core (d : Dev) (k q : Nat) (own recal : Bool) : ((d.quadLeaves k q own recal).portAt k).order = (d.portAt k).order
    ∧ ((d.quadLeaves k q own recal).portAt k).change = (d.portAt k).change ∧ ((d.quadLeaves k q own recal).portAt k).todo = (d.portAt k).todo := by
  unfold Dev.quadLeaves
  simp only
  split
  · exact ⟨rfl, rfl, rfl⟩
  · have hput : (d.putQuad q qsRecal).portAt k = d.portAt k := by rw [Dev.putQuad, Dev.portAt, Dev.put_lnk, Dev.portAt]
    generalize d.putQuad q qsRecal = e at hput
    split
    · rw [Dev.modPort_at, hput]
      exact ⟨rfl, rfl, rfl⟩
    · rw [hput]
      exact ⟨rfl, rfl, rfl⟩

/-- An agreed removal takes the quad out of the slot order (R349). -/
theorem Dev.applyChange_removes (d : Dev) {k : Nat} {c : QuadChange} (hreq : c.req = 1) :
    ((d.applyChange k c).portAt k).order = (d.portAt k).order.filter (· ≠ c.quad) ∧ ((d.applyChange k c).portAt k).change = none
      ∧ ((d.applyChange k c).portAt k).todo = (d.portAt k).todo := by
  have hform : d.applyChange k c = (((d.modPort k (fun p => { p with change := none })).modPort k (fun p => { p with
      order := p.order.filter (· ≠ c.quad), standIn := p.standIn.filter (fun e => e.2 ≠ c.quad) })).quadLeaves k c.quad c.own c.recal) := by
    simp only [Dev.applyChange, hreq]
  rw [hform]
  generalize hE : Dev.modPort (d.modPort k _) k _ = E
  obtain ⟨h1, h2, h3⟩ := E.quadLeaves_core k c.quad c.own c.recal
  rw [h1, h2, h3, ← hE, Dev.modPort_at, Dev.modPort_at]
  exact ⟨rfl, rfl, rfl⟩

/-- With no change that waits, a port whose change has ended requests none. -/
theorem Dev.nextChange_idle (d : Dev) {k : Nat} (hnone : (d.portAt k).change = none) (htodo : (d.portAt k).todo = []) : d.nextChange k = d := by
  simp only [Dev.nextChange, hnone, htodo, Option.isSome_none, Bool.false_eq_true, if_false, List.find?_nil, List.head?_nil, Option.or_none]

/-! ### Recalibration -/

/-- A write of one register leaves the others of its kind. -/
theorem Dev.writeFields_at (d : Dev) (g : Fld) {i j : Nat} (hj : j < 1024) (hne : j ≠ i) (hrej : g.reg ≠ .MMC_CFG_REJ) (locked : Bool) (w : RegWr) :
    (d.writeFields g.reg i locked w).get g j = d.get g j := by
  unfold Dev.writeFields Dev.writeFieldsAs
  simp only
  generalize g.reg.fields.foldl _ _ = p
  have hset : (d.setReg g.reg i p.1).get g j = d.get g j := by
    unfold Dev.get
    rw [reg_setReg_ne _ _ _ _ _ _ (by unfold regKey; omega)]
  split
  · exact (Dev.RegsOutside.rejectAt _ g.reg i (rs := [.MMC_CFG_REJ]) (by simp) g j hj (by simpa using hrej)).trans hset
  · exact hset

/-- A write of LNK_QUAD changes no quad's state and no quad's port. -/
theorem Dev.quadFields_keep (d : Dev) {q : Nat} (hq : q < 1024) (w : RegWr) {x : Nat} (hx : x < 1024) :
    (d.writeFields .LNK_QUAD q false w).quadState x = d.quadState x := by
  by_cases h : x = q
  · subst h
    exact d.writeFields_keeps LNK_QUAD.STATE x hx (by decide) (by decide) false w (by decide)
  · exact d.writeFields_at LNK_QUAD.STATE hx h (by decide) false w

theorem Dev.quadFields_does (d : Dev) {q : Nat} (hq : q < 1024) (w : RegWr) : d.onlyRegs (d.writeFields .LNK_QUAD q false w)
    ∧ (∀ x < 1024, (d.writeFields .LNK_QUAD q false w).quadState x = d.quadState x)
    ∧ d.RegsOutside (d.writeFields .LNK_QUAD q false w) [.LNK_QUAD, .MMC_CFG_REJ] :=
  ⟨.writeFields d _ q false w, fun _ hx => d.quadFields_keep hq w hx, d.writeFields_outside .LNK_QUAD q hq false w⟩

/-- The same links, contexts and quads pass the same checks of a recalibration. -/
theorem Dev.recalCheck_of_same {a b : Dev} (hlnk : b.lnk = a.lnk) (hctx : b.ctx = a.ctx) (hregs : a.RegsOutside b [.LNK_QUAD, .MMC_CFG_REJ])
    (hquad : ∀ x < 1024, b.quadState x = a.quadState x) {k q : Nat} (hk : k < 1024) (hq : q < 1024) : b.recalCheck k q = a.recalCheck k q := by
  have hport : b.portAt k = a.portAt k := by rw [Dev.portAt, hlnk, Dev.portAt]
  have hst : b.portState k = a.portState k := hregs _ _ hk (by decide)
  have hquads : b.portQuads k = a.portQuads k := Dev.portQuads_of_regs hregs k hk (by decide)
  have hany : (a.portQuads k).any (fun x => b.quadState x = qsRecal) = (a.portQuads k).any (fun x => a.quadState x = qsRecal) := by
    rw [Bool.eq_iff_iff, List.any_eq_true, List.any_eq_true]
    have hlt := a.portQuads_lt k
    exact ⟨fun ⟨x, hx, h⟩ => ⟨x, hx, by rwa [← hquad x (hlt x hx)]⟩, fun ⟨x, hx, h⟩ => ⟨x, hx, by rwa [hquad x (hlt x hx)]⟩⟩
  have hmap : ∀ j ∈ List.range 12, (if b.flag LNK_PORT_MAP.AUX j && b.get LNK_PORT_MAP.COUNT j ≠ 0 then b.mapQuads j else [])
      = if a.flag LNK_PORT_MAP.AUX j && a.get LNK_PORT_MAP.COUNT j ≠ 0 then a.mapQuads j else [] := fun j hj => by
    have hj : j < 1024 := by have := List.mem_range.mp hj; omega
    unfold Dev.mapQuads Dev.flag
    rw [hregs LNK_PORT_MAP.AUX j hj (by decide), hregs LNK_PORT_MAP.COUNT j hj (by decide), hregs LNK_PORT_MAP.SPARES j hj (by decide),
      hregs LNK_PORT_MAP.FIRST j hj (by decide)]
  have hheld : b.heldQuads = a.heldQuads := by
    have hlock : b.lockForm 1 = a.lockForm 1 := by
      unfold Dev.lockForm Dev.ctxAt
      rw [hctx]
    rw [Dev.heldQuads, Dev.heldQuads, hlock, List.flatMap_congr hmap]
  unfold Dev.recalCheck
  rw [hport, hst, hquads, hany, hheld, hquad q hq]

/-- A quad that no check refuses is not the last of its port. -/
theorem Dev.recalCheck_more {d : Dev} {k q : Nat} (h : d.recalCheck k q = none) : (d.portAt k).order.any (· ≠ q) = true := by
  unfold Dev.recalCheck at h
  simp only at h
  split at h
  · exact absurd h (by simp)
  · split at h
    · exact absurd h (by simp)
    · split at h
      · exact absurd h (by simp)
      · split at h
        · exact absurd h (by simp)
        · split at h
          · exact absurd h (by simp)
          · rename_i hmore
            simpa using hmore

/-- A recalibration that no check refuses asks for a spare in its quad's place or for the quad's removal (R351). -/
theorem Dev.quadWrite_asks (d : Dev) {k q : Nat} (hk : k < 1024) (hq : q < 1024) {w : RegWr} (hport : d.get LNK_QUAD.PORT q = k)
    (hset : wrSets w LNK_QUAD.RECAL = true) (hr : d.recalCheck k q = none) (hin : (d.portAt k).order.contains q = true) :
    (d.quadWrite q w).get LNK_QUAD.RSTAT q = 1 ∧ ∃ c, ((d.quadWrite q w).portAt k).change = some c ∧ c.own = true ∧ c.quad = q ∧ c.recal = true
      ∧ c.req = if (d.freeSpare k).isSome then 3 else 1 := by
  obtain ⟨honly, hquad, hregs⟩ := d.quadFields_does hq w
  unfold Dev.quadWrite
  simp only [hport, hset, Bool.not_true, Bool.false_eq_true, if_false]
  generalize d.writeFields .LNK_QUAD q false w = b at honly hquad hregs ⊢
  have hcheck := Dev.recalCheck_of_same (b := b) (by rw [honly]) honly.ctx hregs hquad hk hq
  have hstat : (b.put LNK_QUAD.RSTAT 1 q).get LNK_QUAD.RSTAT q = 1 := get_put_self _ _ _ _ (by decide)
  have hsame : ∀ x < 1024, (b.put LNK_QUAD.RSTAT 1 q).quadState x = d.quadState x := fun x hx => by
    rw [← hquad x hx]
    by_cases h : x = q
    · rw [h]
      exact get_put_clear b 1 hq (by decide) (by decide)
    · exact get_put_ne b LNK_QUAD.RSTAT LNK_QUAD.STATE 1 q x (by unfold regKey; omega)
  have hregs' : d.RegsOutside (b.put LNK_QUAD.RSTAT 1 q) [.LNK_QUAD, .MMC_CFG_REJ] := hregs.trans (.put _ _ _ _ hq (by decide))
  have hp : (b.put LNK_QUAD.RSTAT 1 q).portAt k = d.portAt k := by rw [Dev.portAt, Dev.put_lnk, honly, Dev.portAt]
  rw [hcheck, hr]
  simp only
  generalize b.put LNK_QUAD.RSTAT 1 q = e at hstat hsame hregs' hp ⊢
  have hspare : e.freeSpare k = d.freeSpare k := Dev.freeSpare_of_same (Dev.portQuads_of_regs hregs' k hk (by decide))
    (fun x hx => by rw [hsame x (d.portQuads_lt k x hx)]) (by rw [hp])
  obtain ⟨hreg, c, hc, hown, hreq, hcq, -, hrecal⟩ := e.requestLoss_does (k := k) (q := q) true (by rw [hp]; exact Dev.recalCheck_more hr)
  rw [hp, hin, if_pos rfl]
  exact ⟨(Dev.get_of_regs hreg _ _).trans hstat, c, hc, hown, hcq, hrecal, by rw [hreq, hspare]⟩

theorem Dev.get_count_self (d : Dev) (f : Fld) (i n : Nat) (hw : f.lo + f.width ≤ 64) :
    (d.count f i n).get f i = satAdd (d.get f i) n (2 ^ f.width - 1) := by
  rw [Dev.count, get_put_self _ _ _ _ hw]
  have hp := Nat.two_pow_pos f.width
  exact Nat.mod_eq_of_lt (Nat.lt_of_le_of_lt (Nat.min_le_right _ _) (by omega))

/-- A quad that its port has put out of service by a failure: its state, and what is left of the rest. -/
theorem Dev.quadFailed_does (d : Dev) {q : Nat} (hq : q < 1024) (hact : d.quadState q = qsActive) :
    let e := (d.putQuad q qsFailed).quadRecord q
    e.lnk = d.lnk ∧ e.quadState q = qsFailed ∧ d.RegsOutside e [.LNK_QUAD, .HOST_CTX_STAT, .MMC_LOG_SEL]
      ∧ ∀ k < 1024, e.freeSpare k = d.freeSpare k := by
  simp only
  obtain ⟨hself, hother, hrest⟩ := d.putQuad_does (show qsFailed < 8 by decide) hq
  have hlnk : (d.putQuad q qsFailed).lnk = d.lnk := Dev.put_lnk ..
  have hlog : (d.putQuad q qsFailed).Reports ((d.putQuad q qsFailed).quadRecord q) := Dev.Reports.logError _ 2 0 (0x8A00 + q) 0x0020 0 2 q
  generalize (d.putQuad q qsFailed).quadRecord q = e at hlog ⊢
  have hfailed : e.quadState q = qsFailed := (hlog.regs _ _ hq (by decide) (by decide)).trans hself
  have hregs : d.RegsOutside e [.LNK_QUAD, .HOST_CTX_STAT, .MMC_LOG_SEL] := fun f i hi hf =>
    (Dev.RegsOutside.of_reports hlog (by simp) (by simp) f i hi hf).trans (hrest f i hi (fun e => hf (by simp [e])))
  refine ⟨hlog.lnk.trans hlnk, hfailed, hregs, fun k hk => ?_⟩
  refine Dev.freeSpare_of_same (Dev.portQuads_of_regs hregs k hk (by decide)) (fun x hx => ?_) (by rw [Dev.portAt, hlog.lnk, hlnk, Dev.portAt])
  by_cases h : x = q
  · rw [h, hfailed, hact]
    decide
  · rw [Dev.quadState, hlog.regs _ _ (d.portQuads_lt k x hx) (by decide) (by decide), ← Dev.quadState, hother x (d.portQuads_lt k x hx) h]

/-- An active quad that fails, with others left and no change under way (R349). -/
theorem quadFail_answers {q : QuadId} {k : Nat} {s : State} (hport : s.dev.get LNK_QUAD.PORT q.val = k) (hact : s.dev.quadState q.val = qsActive)
    (hin : (s.dev.portAt k).order.contains q.val = true) (hst : psDiscover ≤ s.dev.portState k) (hnone : (s.dev.portAt k).change = none) (hk : k < 1024)
    {P : State → Prop} (hP : ∀ t, s.onlyDev t → t.dev = ((s.dev.putQuad q.val qsFailed).quadRecord q.val).requestLoss k q.val false → P t) :
    Answers (.quadFail q) s P := by
  obtain ⟨hlnk, -, hregs, -⟩ := s.dev.quadFailed_does (q := q.val) (by omega) hact
  refine answers_device (d := ((s.dev.putQuad q.val qsFailed).quadRecord q.val).requestLoss k q.val false) rfl ?_ hP
  simp only [Act.dev, hport, hact, ne_eq, not_true_eq_false, decide_false, Bool.false_and, Bool.false_eq_true, if_false]
  generalize (s.dev.putQuad q.val qsFailed).quadRecord q.val = e at hlnk hregs
  have hport' : e.portAt k = s.dev.portAt k := by rw [Dev.portAt, hlnk, Dev.portAt]
  have hstate : e.portState k = s.dev.portState k := hregs _ _ hk (by decide)
  simp only [hport', hin, Bool.not_true, hstate, Nat.not_lt.mpr hst, decide_false, Bool.or_self, Bool.false_eq_true, if_false, hnone]

theorem Dev.freeHeld_frame (k : Nat) (vcs : List (Fin 8)) (d : Dev) :
    ∃ l, vcs.foldl (fun d v => (d.holdFlits k v.val 1).freeFlits k v.val 1) d = { d with lnk := l } :=
  foldl_keeps (P := fun b : Dev => ∃ l, b = { d with lnk := l }) (fun b v ⟨l, hb⟩ => by
    subst hb
    exact ⟨_, rfl⟩) vcs d ⟨d.lnk, rfl⟩

/-- The counts of a set that cannot be corrected (R338). -/
def Dev.setLost (d : Dev) (q : Nat) : Dev := (d.count LNK_QUAD.UNCORR q).count LNK_ERR.FLIT_DISC 0 20

theorem Dev.setLost_does (d : Dev) {q : Nat} (hq : q < 1024) : d.onlyRegs (d.setLost q)
    ∧ (d.setLost q).get LNK_QUAD.UNCORR q = satAdd (d.get LNK_QUAD.UNCORR q) 1 (2 ^ LNK_QUAD.UNCORR.width - 1)
    ∧ (d.setLost q).get LNK_ERR.FLIT_DISC 0 = satAdd (d.get LNK_ERR.FLIT_DISC 0) 20 (2 ^ LNK_ERR.FLIT_DISC.width - 1) := by
  refine ⟨(Dev.onlyRegs.count d _ _ _).trans (.count _ _ _ _), ?_, ?_⟩
  · rw [Dev.setLost, (Dev.RegsOutside.count _ LNK_ERR.FLIT_DISC 0 20 (by decide) (rs := [.LNK_ERR]) (by decide)) _ q hq (by decide),
      Dev.get_count_self _ _ _ _ (by decide)]
  · rw [Dev.setLost, Dev.get_count_self _ _ _ _ (by decide), (Dev.RegsOutside.count d LNK_QUAD.UNCORR q 1 hq (rs := [.LNK_QUAD]) (by decide)) _ 0
      (by decide) (by decide)]

end Sys2Proof.Machine

namespace Sys2Proof.Proofs

open Sys2Proof.Machine Sys2Proof.Laws

/-- Settles O30: requests and answers by the change that stands at the port after the credits, the change that is reached by its removal
from the slot order, failures and recalibrations by the request that they make. -/
theorem quadChanges : Obligations.QuadChanges := by
  unfold Obligations.QuadChanges
  have hlt : ∀ p : PortId, p.val < 1024 := fun p => by omega
  have hltq : ∀ q : QuadId, q.val < 1024 := fun q => by omega
  have hltp : ∀ (d : Dev) (q : Nat), d.get LNK_QUAD.PORT q < 1024 := fun d q => by
    have : d.get LNK_QUAD.PORT q < 2 ^ 4 := field_lt _ _ _
    omega
  refine ⟨⟨fun port f s hgood hst => ⟨fun hreq => ?_, fun req hreq hrange hok hnone i hi => ?_, fun c hc hown hid => ⟨fun hreq hat => ?_, fun hreq hag => ?_⟩⟩,
    fun port s hst => ?_⟩, fun port c s hc hag hreq htodo hmore => ?_, fun q k s hport hk hact hin hmore hst hnone => ?_,
    fun q w s hm hset => ⟨fun r hr => ?_, fun hr hin => ?_⟩, fun q vcs s => ?_⟩
  · refine answers_of_dev (d := s.dev.takeCredits port.val f) rfl ?_ rfl
    simp only [Act.dev, s.dev.takeLcf_eq hgood hst, Dev.lcfActs, hreq]
  · have hpump := s.dev.takeCredits_pumped port.val f
    have hquad : (s.dev.takeCredits port.val f).lcfQuad port.val f = s.dev.lcfQuad port.val f := by rw [Dev.lcfQuad, hpump.get, Dev.lcfQuad]
    have hspare : (s.dev.takeCredits port.val f).lcfSpare port.val f = s.dev.lcfSpare port.val f := by rw [Dev.lcfSpare, hpump.get, Dev.lcfSpare]
    have hacc := Dev.peerRequest_accepts (s.dev.takeCredits port.val f) (k := port.val) (f := f)
      (by rw [hquad, hspare, hreq, Dev.changeOk_pumped hpump (hlt port)]; exact hok) (by rw [LnkPort.core_change (hpump.core _)]; exact hnone)
    rw [hquad, hspare, hreq] at hacc
    have hdone : ∀ t : State, s.onlyDev t → t.dev = (s.dev.takeCredits port.val f).peerRequest port.val f → s.onlyDev t ∧ (t.dev.portAt port.val).change =
        some ⟨false, req, s.dev.lcfQuad port.val f, s.dev.lcfSpare port.val f, rdb f 0x1E, rd f 0x20 4, true, false⟩ :=
      fun t honly ht => ⟨honly, by rw [ht]; exact hacc⟩
    rcases hi with ⟨rfl, rfl⟩ | ⟨rfl, rfl⟩ | ⟨rfl, rfl⟩
    all_goals
      refine lcfRow_answers rfl hgood hst hreq fun t honly ht => hdone t honly ?_
      simp only [ht, Dev.lcfActs, hreq]
  · have hpump := s.dev.takeCredits_pumped port.val f
    have hc' := (LnkPort.core_change (hpump.core port.val)).trans hc
    refine lcfRow_answers rfl hgood hst hreq fun t honly ht => ⟨honly, ?_⟩
    rw [ht, Dev.lcfActs, hreq]
    simp only [Dev.peerAck, hc', hown, hid, hat, decide_true, Bool.and_self, if_true]
    rw [Dev.modPort_at]
  · have hpump := s.dev.takeCredits_pumped port.val f
    have hc' := (LnkPort.core_change (hpump.core port.val)).trans hc
    refine lcfRow_answers rfl hgood hst hreq fun t honly ht => ⟨honly, ?_⟩
    rw [ht, Dev.lcfActs, hreq]
    simp only [Dev.peerRefuse, hc', hown, hid, hag, Bool.not_false, decide_true, Bool.and_self, if_true]
    exact Dev.loseChange_change _ _
  · have hup : s.dev.portState port.val ≠ psDown := fun e => by
      rw [e] at hst
      exact absurd hst (by decide)
    have hgone := s.dev.portDown_does port.val (hlt port) true hup
    refine answers_device (d := s.dev.portDown port.val true) rfl ?_ fun t honly ht => ⟨honly, by rw [ht]; exact hgone.state, by rw [ht]; exact hgone.port⟩
    simp only [Act.dev, hst, if_true]
  · obtain ⟨horder, hchange, htd⟩ := s.dev.applyChange_removes (k := port.val) hreq
    have hne : ((s.dev.applyChange port.val c).portAt port.val).order.length ≠ 0 := by
      rw [horder]
      obtain ⟨x, hx, hxne⟩ := List.any_eq_true.mp hmore
      have hmem : x ∈ (s.dev.portAt port.val).order.filter (· ≠ c.quad) := List.mem_filter.mpr ⟨hx, hxne⟩
      exact fun h => absurd hmem (by rw [List.length_eq_zero_iff.mp h]; exact List.not_mem_nil)
    have hcore := (Dev.settlePort_does (s.dev.applyChange port.val c) (hlt port) hne).2 port.val
    have hidle := Dev.nextChange_idle ((s.dev.applyChange port.val c).settlePort port.val) (k := port.val) ((LnkPort.core_change hcore).trans hchange)
      ((LnkPort.core_todo hcore).trans (htd.trans htodo))
    refine answers_device (d := (s.dev.applyChange port.val c).settlePort port.val) rfl ?_ fun t honly ht => ⟨honly, ?_⟩
    · simp only [Act.dev, hc, hag, if_true, hidle]
    · rw [ht, LnkPort.core_order hcore, horder]
  · obtain ⟨hlnk, hfailed, -, hspare⟩ := s.dev.quadFailed_does (hltq q) hact
    refine quadFail_answers hport hact hin hst hnone (by omega) fun t honly ht => ⟨honly, ?_⟩
    generalize (s.dev.putQuad q.val qsFailed).quadRecord q.val = e at hlnk hfailed hspare ht
    have hmore' : (e.portAt k).order.any (· ≠ q.val) = true := by
      rw [Dev.portAt, hlnk]
      exact hmore
    obtain ⟨hr, c, hc, hown, hreq, hquad, hag, -⟩ := e.requestLoss_does (k := k) (q := q.val) false hmore'
    rw [ht]
    exact ⟨(Dev.get_of_regs hr _ _).trans hfailed, c, hc, hown, hquad, hag, by rw [hreq, hspare k (by omega)]⟩
  · obtain ⟨honly, hquad, hregs⟩ := s.dev.quadFields_does (hltq q) w
    refine mgmtDev_answers hm rfl ?_
    unfold Dev.quadWrite
    simp only
    generalize s.dev.writeFields .LNK_QUAD q.val false w = d at honly hquad hregs ⊢
    have hcheck := Dev.recalCheck_of_same (b := d) (by rw [honly]) honly.ctx hregs hquad (hltp s.dev q.val) (hltq q)
    simp only [hset, Bool.not_true, Bool.false_eq_true, if_false, hcheck, hr]
  · obtain ⟨h1, c, hc, hown, hcq, hrecal, hreq⟩ := s.dev.quadWrite_asks (hltp s.dev q.val) (hltq q) rfl hset hr hin
    refine mgmtDev_answers hm rfl ?_
    generalize s.dev.quadWrite q.val w = t at h1 hc
    exact ⟨⟨rfl, rfl, rfl⟩, h1, c, hc, hown, hcq, hrecal, hreq⟩
  · obtain ⟨honly, hun, hdisc⟩ := s.dev.setLost_does (hltq q)
    refine answers_device rfl rfl fun t ht hdev => ⟨ht, ?_⟩
    change t.dev = (if s.dev.get LNK_QUAD.PORT q.val < 12 then
      vcs.foldl (fun d v => (d.holdFlits (s.dev.get LNK_QUAD.PORT q.val) v.val 1).freeFlits (s.dev.get LNK_QUAD.PORT q.val) v.val 1) (s.dev.setLost q.val)
      else s.dev.setLost q.val) at hdev
    generalize s.dev.setLost q.val = e at honly hun hdisc hdev
    obtain ⟨l, hl⟩ : ∃ l, t.dev = { e with lnk := l } := by
      split at hdev
      · rw [hdev]
        exact Dev.freeHeld_frame _ vcs e
      · exact ⟨e.lnk, hdev⟩
    have hget : ∀ f i, t.dev.get f i = e.get f i := Dev.get_of_regs (by rw [hl])
    rw [hget, hget]
    exact ⟨hun, hdisc, e.regs, l, by rw [hl, honly]⟩

end Sys2Proof.Proofs
end

section
/-! Register reads and writes over the BARs and the management plane (R11 to R16, R428, R429, R529). -/

namespace Sys2Proof.Machine

open Sys2Proof.Laws

/-- The instances of a register lie within 1,024. -/
theorem placeAt_lt {ps : List RegPlace} (hps : ps.all (fun p => p.count ≤ 1024) = true) {off : Nat} {r : RegName} {i : Nat}
    (h : placeAt ps off = some (r, i)) : i < 1024 := by
  obtain ⟨p, hp, h⟩ := List.exists_of_findSome?_eq_some h
  have hcount : p.count ≤ 1024 := by simpa using List.all_eq_true.mp hps p hp
  split at h
  · split at h
    · obtain ⟨-, rfl⟩ := Prod.mk.inj (Option.some.inj h)
      decide
    · exact absurd h (by simp)
  · split at h
    · rename_i hin
      obtain ⟨-, rfl⟩ := Prod.mk.inj (Option.some.inj h)
      simp only [Bool.and_eq_true, decide_eq_true_eq] at hin
      omega
    · exact absurd h (by simp)

/-- A register that an access reaches lies in a block that is there. -/
theorem Dev.regAt_does {d : Dev} {sp off : Nat} {r : RegName} {i : Nat} (h : d.regAt sp off = some (r, i)) : i < 1024 ∧ d.blockIn r = true := by
  obtain ⟨hp, hin⟩ := Option.filter_eq_some_iff.mp h
  refine ⟨?_, hin⟩
  split at hp
  · split at hp
    · obtain ⟨p, -, h⟩ := Option.map_eq_some_iff.mp hp
      obtain ⟨-, rfl⟩ := Prod.mk.inj h
      omega
    · exact absurd hp (by simp)
  · split at hp
    · exact placeAt_lt (by decide) hp
    · exact absurd hp (by simp)

/-- A full access at a multiple of 8 bytes carries all 64 bits. -/
theorem accessLanes_full {off v : Nat} (h : off % 8 = 0) : accessLanes off 8 v = some ⟨BitVec.ofNat 64 v, .full⟩ := by
  simp [accessLanes, h]

/-- Registers whose write stores their fields and does nothing else: neither locked nor cleared, no two fields with a common bit. -/
theorem storedRegs_plain {r : RegName} (h : r ∈ storedRegs) : r ≠ .MMC_CFG_REJ ∧ r.fields.isEmpty = false ∧ clrFld r = none
    ∧ r.fields.all (fun g => g.reg = r && g.lo + g.width ≤ 64 && r.fields.all (fun f => f = g || f.apart g)) = true := by
  have hall : storedRegs.all (fun r => r ≠ .MMC_CFG_REJ && r.fields.isEmpty = false && clrFld r = none
    && r.fields.all (fun g => g.reg = r && g.lo + g.width ≤ 64 && r.fields.all (fun f => f = g || f.apart g))) = true := by decide
  simpa only [Bool.and_eq_true, decide_eq_true_eq, and_assoc] using List.all_eq_true.mp hall r h

theorem planeWrite_stored {r : RegName} (h : r ∈ storedRegs) (i : Nat) (w : RegWr) (now : Nat) :
    planeWrite r i w now = mgmtDev r i (fun d => d.plainWrite r i w) := by
  simp only [storedRegs, List.mem_cons, List.not_mem_nil, or_false] at h
  rcases h with rfl | rfl | rfl | rfl | rfl | rfl | rfl | rfl | rfl <;> rfl

/-- A full write of a register that software only stores gives its RW fields the value written. -/
theorem Dev.plainWrite_stores (d : Dev) {r : RegName} (h : r ∈ storedRegs) {i : Nat} (hi : i < 1024) (v : W64) {f : Fld} (hf : f ∈ r.fields)
    (ht : f.type = .rw) : (d.plainWrite r i ⟨v, .full⟩).get f i = field v.toNat f.lo f.width := by
  obtain ⟨hrej, hsome, hclr, hfields⟩ := storedRegs_plain h
  have hof := List.all_eq_true.mp hfields f hf
  simp only [Bool.and_eq_true, decide_eq_true_eq] at hof
  obtain ⟨⟨hreg, hw⟩, hapart⟩ := hof
  have hm : ∀ k < f.width, (lanesMask .full).testBit (f.lo + k) = true := fun k hk => by
    rw [lanesMask, Nat.testBit_two_pow_sub_one]
    simp only [decide_eq_true_eq]
    omega
  unfold Dev.plainWrite
  simp only [hsome, Bool.false_and, Bool.false_eq_true, if_false, hclr, Option.any_none]
  unfold Dev.writeFieldsAs
  simp only
  generalize r.fields.any _ = acts
  have htake := fieldWrites_takes (locked := d.isLocked r) (acts := acts) (v := v.toNat) (vis := d.regView r i) (.inl ht) hm r.fields (d.reg r i, false) hf
    (fun g hg => by simpa using List.all_eq_true.mp hapart g hg)
  generalize r.fields.foldl _ _ = p at htake ⊢
  have hset : (d.setReg r i p.1).get f i = field v.toNat f.lo f.width := by
    rw [← hreg, get_setReg_self, field_mod hw, htake]
  split
  · exact (Dev.RegsOutside.rejectAt _ r i (rs := [.MMC_CFG_REJ]) (by simp) f i hi (by rw [hreg]; simpa using hrej)).trans hset
  · exact hset

/-- A full write that reaches a register that software only stores. -/
theorem spaceWrite_stored {d : Dev} {sp off v now : Nat} {r : RegName} {i : Nat} (h : r ∈ storedRegs) (hon : d.mmc.state ≠ .off)
    (hidle : d.mmc.switching ≠ some 1) (hat : d.regAt sp off = some (r, i)) (hoff : off % 8 = 0) (f : Fuses) (m : Mem) :
    spaceWrite sp off 8 v now f m d = { dev := d.plainWrite r i ⟨BitVec.ofNat 64 v, .full⟩ } := by
  obtain ⟨-, hin⟩ := Dev.regAt_does hat
  simp only [spaceWrite, accessLanes_full hoff, hat, planeWrite_stored h]
  exact mgmtDev_manages ⟨hon, hidle, hin⟩ i _ f m

theorem Dev.spaceRead_none {d : Dev} {sp off : Nat} (h : d.regAt sp off = none) (size : Nat) : d.spaceRead sp off size = (0, d.reject sp off) := by
  unfold Dev.spaceRead
  rw [h]
  cases accessLanes off size 0 <;> rfl

theorem Dev.ReadsReg.reads {d : Dev} {q : MgmtRequest} {w : RegWr} {r : RegName} {i : Nat} (h : d.ReadsReg q w r i) :
    d.spaceRead q.space.toNat q.offset.toNat q.size = (laneData w (d.regView r i), d) := by
  simp only [Dev.spaceRead, h.lanes, h.place, h.idle, h.plain.1, h.plain.2, decide_false, Bool.false_and, Bool.false_eq_true, if_false]

/-- An 8-byte access at a multiple of 8 bytes where a register is performs over the side band. -/
theorem Dev.mgmtStatus_ok {d : Dev} {sp off : Nat} {r : RegName} {i : Nat} (hidle : d.mmc.switching ≠ some 1) (hoff : off % 8 = 0)
    (hat : d.regAt sp off = some (r, i)) : d.mgmtStatus none sp off = 0 := by
  simp [Dev.mgmtStatus, hidle, hoff, hat]

theorem Dev.ReadsReg.aligned {d : Dev} {q : MgmtRequest} {w : RegWr} {r : RegName} {i : Nat} (h : d.ReadsReg q w r i) (hsize : q.size = 8) :
    q.offset.toNat % 8 = 0 ∧ w.lanes = .full := by
  have hl := h.lanes
  by_cases hoff : q.offset.toNat % 8 = 0
  · rw [hsize, accessLanes_full hoff] at hl
    exact ⟨hoff, by rw [← Option.some.inj hl]⟩
  · simp [hsize, accessLanes, hoff] at hl

end Sys2Proof.Machine

namespace Sys2Proof.Proofs

open Sys2Proof.Machine Sys2Proof.Laws

/-- Settles O38: reads and writes by the register that their offset names, a full write by the fields that it sets. -/
theorem registerAccesses : Obligations.RegisterAccesses := by
  unfold Obligations.RegisterAccesses
  refine ⟨fun q w r i s h => ⟨fun hvia hin => ?_, fun hvia hon hsize => ?_⟩, fun q s hvia hin hnone => ?_,
    fun q r i s hr hidle hon hat hsize hoff hvia => ?_, fun a sp off r i s hr hidle hpath hin hsp hat hsize hoff => ?_,
    fun a fn w s hpath hfn hup hpres hlanes howns => ?_⟩
  · refine answers_of_dev rfl ?_ rfl
    simp only [hvia, hin, Bool.not_true, Bool.false_eq_true, if_false, h.reads]
  · obtain ⟨hoff, hfull⟩ := h.aligned hsize
    have hread := h.reads
    rw [hsize, laneData, hfull] at hread
    refine answers_of_dev rfl ?_ rfl
    simp only [hvia, sideBand, hon, if_false, mgmtAccess, Dev.mgmtStatus_ok h.idle hoff h.place, Bool.false_eq_true, hread]
  · refine answers_of_dev rfl ?_ rfl
    simp only [hvia, hin, Bool.not_true, Bool.false_eq_true, if_false, Dev.spaceRead_none hnone]
  · have hstore := fun f hf hrw => s.dev.plainWrite_stores hr (Dev.regAt_does hat).1 (BitVec.ofNat 64 q.data.toNat) (f := f) hf hrw
    rw [BitVec.toNat_ofNat, Nat.mod_eq_of_lt q.data.isLt] at hstore
    have hspace := spaceWrite_stored (v := q.data.toNat) (now := q.now.toNat) hr hon hidle hat hoff s.fuse s.mem
    generalize s.dev.plainWrite r i ⟨BitVec.ofNat 64 q.data.toNat, .full⟩ = e at hstore hspace
    rcases hvia with ⟨hvia, hin⟩ | hvia
    · refine answers_device (d := e) rfl ?_ fun t honly ht => ⟨honly, fun f hf hrw => by rw [ht]; exact hstore f hf hrw⟩
      simp only [hvia, hin, if_true, hsize, hspace]
    · refine answers_device rfl (d := e.emit (.mgmt true (leBytes 1 0x72 ++ mgmtResp q.tag.toNat 0 0))) ?_
        fun t honly ht => ⟨honly, fun f hf hrw => by rw [ht]; exact hstore f hf hrw⟩
      simp only [hvia, sideBand, hon, if_false, mgmtAccess, Dev.mgmtStatus_ok hidle hoff hat, if_true, hspace]
  · have hon : s.dev.mmc.state ≠ .off := fun e => by simp [Dev.bar4In, e] at hin
    have hstore := fun f hf hrw => s.dev.plainWrite_stores hr (Dev.regAt_does hat).1 (BitVec.ofNat 64 a.data.toNat) (f := f) hf hrw
    rw [BitVec.toNat_ofNat, Nat.mod_eq_of_lt a.data.isLt] at hstore
    refine answers_device (d := s.dev.plainWrite r i ⟨BitVec.ofNat 64 a.data.toNat, .full⟩) rfl ?_
      fun t honly ht => ⟨honly, fun f hf hrw => by rw [ht]; exact hstore f hf hrw⟩
    simp only [hpath, hsp, hin, if_true, hsize]
    exact spaceWrite_stored hr hon hidle hat hoff _ _
  · refine answers_of_dev rfl ?_ rfl
    simp only [hpath, hup, hpres, Bool.not_true, Bool.or_self, Bool.false_eq_true, if_false, hlanes, hfn, vfBar0, howns, Bool.not_false,
      Bool.or_true, if_true]

end Sys2Proof.Proofs
end

section
/-! The power controller (R539 to R548). -/

namespace Sys2Proof.Machine

open Sys2Proof.Laws

/-! ### What its steps leave -/

namespace Dev.OnlyPower

variable {a b c : Dev}

theorem refl : a.OnlyPower a := rfl

theorem trans (h : a.OnlyPower b) (g : b.OnlyPower c) : a.OnlyPower c := by
  unfold Dev.OnlyPower at *
  rw [g, h]

theorem of_regs (h : a.onlyRegs b) : a.OnlyPower b := by
  unfold Dev.onlyRegs Dev.OnlyPower at *
  rw [h]

theorem of_put {f : Fld} {v i : Nat} : a.OnlyPower (a.put f v i) := of_regs (.put a f v i)

theorem of_modPwr {f : Power → Power} : a.OnlyPower (a.modPwr f) := rfl

theorem of_modDom {x : Nat} {f : DomRec → DomRec} : a.OnlyPower (a.modDom x f) := rfl

theorem of_draw : a.OnlyPower a.draw.2 := rfl

end Dev.OnlyPower

/-- Showing the duty changes registers alone, and no field of PWR_STAT but DUTY and THERM. -/
theorem Dev.settleDuty_does (d : Dev) : d.onlyRegs d.settleDuty ∧ d.settleDuty.get PWR_STAT.FASTLIM 0 = d.get PWR_STAT.FASTLIM 0 := by
  unfold Dev.settleDuty
  simp only
  generalize (if d.pwr.thermal = 0 then d.pwr.common else Nat.min d.pwr.common 32) = v
  generalize hE : (d.put PWR_STAT.DUTY v).put PWR_THERM.THERM_DIES d.pwr.thermal = E
  have h1 : d.onlyRegs E := hE ▸ (Dev.onlyRegs.put d _ _ _).trans (.put _ _ _ _)
  have h2 : E.get PWR_STAT.FASTLIM 0 = d.get PWR_STAT.FASTLIM 0 := by
    rw [← hE, get_put_clear _ _ (by decide) (by decide) (by decide), get_put_clear _ _ (by decide) (by decide) (by decide)]
  split
  · exact ⟨h1, h2⟩
  · exact ⟨h1.trans (.put _ _ _ _), by rw [get_put_clear _ _ (by decide) (by decide) (by decide), h2]⟩

/-- The measurements of a step, one field after the other. -/
theorem Dev.measure_eq (d : Dev) (p : PowerReading) : d.measure p = (((((d.put PWR_IN.VOLT p.volt.toNat).put PWR_IN.CUR p.cur.toNat).put PWR_IN.PWR
    p.pwr.toNat).put PWR_IN.AVG1S p.avg1s.toNat).put PWR_THERM.DIE_MAX p.dieMax.toNat).put PWR_THERM.HBM_MAX p.hbmMax.toNat := rfl

theorem Dev.measure_does (d : Dev) (p : PowerReading) : d.onlyRegs (d.measure p) ∧ (d.measure p).get PWR_CAP.CAP 0 = d.get PWR_CAP.CAP 0 := by
  rw [Dev.measure_eq]
  refine ⟨(((((Dev.onlyRegs.put d _ _ _).trans (.put _ _ _ _)).trans (.put _ _ _ _)).trans (.put _ _ _ _)).trans (.put _ _ _ _)).trans (.put _ _ _ _), ?_⟩
  rw [get_put_clear _ _ (by decide) (by decide) (by decide), get_put_clear _ _ (by decide) (by decide) (by decide),
    get_put_clear _ _ (by decide) (by decide) (by decide), get_put_clear _ _ (by decide) (by decide) (by decide),
    get_put_clear _ _ (by decide) (by decide) (by decide), get_put_clear _ _ (by decide) (by decide) (by decide)]

/-- Where the sustained controller stands after a step (R539). -/
def Power.sustainedNext (p : Power) (cap avg1s : Nat) : Nat :=
  if p.fixed ≠ 0 then p.sustained
  else if cap < avg1s + 10 then Nat.max 1 (p.sustained - 1)
  else if avg1s + 40 < cap then Nat.min 64 (p.sustained + 1) else p.sustained

theorem Dev.sustainedStep_does (d : Dev) (avg1s : Nat) : d.OnlyPower (d.sustainedStep avg1s)
    ∧ (d.sustainedStep avg1s).pwr = { d.pwr with sustained := d.pwr.sustainedNext (d.get PWR_CAP.CAP 0) avg1s } := by
  unfold Dev.sustainedStep Power.sustainedNext
  simp only
  split
  · exact ⟨.refl, rfl⟩
  · split
    · exact ⟨Dev.OnlyPower.of_modPwr.trans .of_put, Dev.put_pwr ..⟩
    · split
      · exact ⟨.of_modPwr, rfl⟩
      · exact ⟨.refl, rfl⟩

/-- Where the excursion controller stands after a step (R539); `v` is a free value. -/
def Power.excursionNext (p : Power) (low : Bool) (v : Nat) : Nat :=
  if low then p.excursion + v % (65 - p.excursion)
  else if p.overRun + 1 ≤ 80 then p.excursion else Nat.max 1 (p.excursion - 4)

theorem Dev.excursionStep_does (d : Dev) (low : Bool) : d.OnlyPower (d.excursionStep low)
    ∧ (d.excursionStep low).pwr = { d.pwr with
        overRun := if low then 0 else d.pwr.overRun + 1, excursion := d.pwr.excursionNext low (d.draw.1.toNat) } := by
  unfold Dev.excursionStep Power.excursionNext
  cases low with
  | true =>
    simp only [if_true]
    exact ⟨Dev.OnlyPower.of_draw.trans .of_modPwr, rfl⟩
  | false =>
    simp only [Bool.false_eq_true, if_false]
    generalize (if d.pwr.fixed = 0 then d.pwr.sustained else d.pwr.fixed) = base
    by_cases h : d.pwr.overRun + 1 ≤ 80
    · have h' : (d.modPwr (fun p => { p with overRun := p.overRun + 1 })).pwr.overRun ≤ excursionSteps := h
      rw [if_pos h', if_pos h]
      exact ⟨.of_modPwr, rfl⟩
    · have h' : ¬ (d.modPwr (fun p => { p with overRun := p.overRun + 1 })).pwr.overRun ≤ excursionSteps := h
      rw [if_neg h', if_neg h]
      generalize hE : Dev.modPwr (d.modPwr _) _ = E
      have h1 : d.OnlyPower E := hE ▸ Dev.OnlyPower.of_modPwr.trans .of_modPwr
      have h2 : E.pwr = { d.pwr with overRun := d.pwr.overRun + 1, excursion := Nat.max 1 (d.pwr.excursion - 4) } := by rw [← hE]; rfl
      split
      · exact ⟨h1.trans .of_put, (Dev.put_pwr ..).trans h2⟩
      · exact ⟨h1, h2⟩

/-- A step of the duty (R539 to R541). -/
def Dev.dutyNext (d : Dev) (p : PowerReading) : Dev :=
  ((((d.measure p).modPwr (fun w => { w with fixed := d.get PWR_CAP.FIXED_DUTY })).sustainedStep p.avg1s.toNat).excursionStep p.excursionDone).settleDuty

theorem Dev.dutyNext_does (d : Dev) (p : PowerReading) : d.OnlyPower (d.dutyNext p) ∧ ∃ v, (d.dutyNext p).pwr = { d.pwr with
    fixed := d.get PWR_CAP.FIXED_DUTY 0,
    sustained := { d.pwr with fixed := d.get PWR_CAP.FIXED_DUTY 0 }.sustainedNext (d.get PWR_CAP.CAP 0) p.avg1s.toNat,
    overRun := if p.excursionDone then 0 else d.pwr.overRun + 1, excursion := d.pwr.excursionNext p.excursionDone v } := by
  unfold Dev.dutyNext
  obtain ⟨honly, hcap⟩ := d.measure_does p
  generalize d.measure p = m at honly hcap
  obtain ⟨hs, hsp⟩ := (m.modPwr (fun w => { w with fixed := d.get PWR_CAP.FIXED_DUTY })).sustainedStep_does p.avg1s.toNat
  have hcap' : (m.modPwr (fun w => { w with fixed := d.get PWR_CAP.FIXED_DUTY })).get PWR_CAP.CAP 0 = d.get PWR_CAP.CAP 0 :=
    (Dev.get_of_regs rfl _ _).trans hcap
  have hpwr : (m.modPwr (fun w => { w with fixed := d.get PWR_CAP.FIXED_DUTY })).pwr = { d.pwr with fixed := d.get PWR_CAP.FIXED_DUTY 0 } := by
    rw [Dev.modPwr, honly.pwr]
  have hpre : d.OnlyPower (m.modPwr (fun w => { w with fixed := d.get PWR_CAP.FIXED_DUTY })) := (Dev.OnlyPower.of_regs honly).trans .of_modPwr
  generalize m.modPwr (fun w => { w with fixed := d.get PWR_CAP.FIXED_DUTY }) = e at hs hsp hcap' hpwr hpre
  rw [hcap', hpwr] at hsp
  generalize e.sustainedStep p.avg1s.toNat = x at hs hsp
  obtain ⟨hx, hxp⟩ := x.excursionStep_does p.excursionDone
  generalize x.excursionStep p.excursionDone = y at hx hxp
  obtain ⟨hsettle, -⟩ := y.settleDuty_does
  refine ⟨((hpre.trans hs).trans hx).trans (.of_regs hsettle), x.draw.1.toNat, ?_⟩
  rw [hsettle.pwr, hxp, hsp]
  rfl

/-- Whatever it draws, a run that has ended takes the excursion controller no lower, and to 64 at most. -/
theorem Power.excursionNext_low {p : Power} (h : p.excursion ≤ 64) (v : Nat) :
    p.excursion ≤ p.excursionNext true v ∧ p.excursionNext true v ≤ 64 := by
  have hmod : v % (65 - p.excursion) < 65 - p.excursion := Nat.mod_lt _ (by omega)
  simp only [Power.excursionNext, if_true]
  omega

/-! ### Domains -/

theorem Dev.modDom_at (d : Dev) (x : Nat) (f : DomRec → DomRec) : (d.modDom x f).domAt x = f (d.domAt x) := tblGet_mod_self

theorem Dev.modDom_at_ne (d : Dev) {x y : Nat} (f : DomRec → DomRec) (h : y ≠ x) : (d.modDom x f).domAt y = d.domAt y := tblGet_mod_ne h

theorem Dev.domRaised_does (d : Dev) (x : Nat) : d.OnlyPower (d.domRaised x) ∧ ((d.domRaised x).domAt x).state = .on
    ∧ (∀ y, y ≠ x → (d.domRaised x).domAt y = d.domAt y) ∧ (d.domRaised x).regs = d.regs := by
  have hself := congrArg DomRec.state (d.modDom_at x (fun r => { state := .on, raises := satAdd r.raises 1 0xFFFF }))
  have hne := fun y (h : y ≠ x) => d.modDom_at_ne (fun r => { state := .on, raises := satAdd r.raises 1 0xFFFF }) h
  have honly : d.OnlyPower (d.modDom x (fun r => { state := .on, raises := satAdd r.raises 1 0xFFFF })) := .of_modDom
  have hregs : (d.modDom x (fun r => { state := .on, raises := satAdd r.raises 1 0xFFFF })).regs = d.regs := rfl
  unfold Dev.domRaised
  simp only
  generalize d.modDom x (fun r => { state := .on, raises := satAdd r.raises 1 0xFFFF }) = e at hself hne honly hregs
  split
  · exact ⟨honly.trans .of_modPwr, hself, hne, hregs⟩
  · exact ⟨honly, hself, hne, hregs⟩

/-! ### Coolant -/

/-- The fields that the coolant's readings set (R548). -/
def coolantFields (c : CoolantReading) : List (Fld × Nat) :=
  [(PWR_THERM.INLET, c.inlet.toNat), (PWR_THERM.OUTLET, c.outlet.toNat), (PWR_THERM.FLOW, c.flow.toNat),
    (PWR_THERM.FLOW_LOW, b2n (c.flow.toNat < 135)), (PWR_THERM.INLET_HIGH, b2n (40 < c.inlet.toInt)), (PWR_THERM.LEAK, b2n c.leak)]

theorem coolantFields_names (c : CoolantReading) : (coolantFields c).map Prod.fst =
    [PWR_THERM.INLET, PWR_THERM.OUTLET, PWR_THERM.FLOW, PWR_THERM.FLOW_LOW, PWR_THERM.INLET_HIGH, PWR_THERM.LEAK] := rfl

/-- A one-bit field set to a bit. -/
theorem b2n_flag (b : Bool) : decide (b2n b % 2 ^ 1 ≠ 0) = b := by cases b <;> decide

theorem Dev.coolant_does (d : Dev) (c : CoolantReading) : d.onlyRegs (d.puts (coolantFields c) 0)
    ∧ (d.puts (coolantFields c) 0).flag PWR_THERM.LEAK 0 = c.leak
    ∧ (d.puts (coolantFields c) 0).flag PWR_THERM.FLOW_LOW 0 = decide (c.flow.toNat < 135)
    ∧ (d.puts (coolantFields c) 0).flag PWR_THERM.INLET_HIGH 0 = decide (40 < c.inlet.toInt) := by
  have hget : ∀ e ∈ coolantFields c, (d.puts (coolantFields c) 0).get e.1 0 = e.2 % 2 ^ e.1.width :=
    Dev.puts_get (by decide) _ d (by rw [coolantFields_names]; decide)
  have hflag : ∀ (f : Fld) (b : Bool), (f, b2n b) ∈ coolantFields c → f.width = 1 → (d.puts (coolantFields c) 0).flag f 0 = b := fun f b hmem hw => by
    rw [Dev.flag, hget (f, b2n b) hmem, hw]
    exact b2n_flag b
  exact ⟨Dev.puts_onlyRegs _ d 0, hflag _ _ (by simp [coolantFields]) rfl, hflag _ _ (by simp [coolantFields]) rfl, hflag _ _ (by simp [coolantFields]) rfl⟩

end Sys2Proof.Machine

namespace Sys2Proof.Proofs

open Sys2Proof.Machine Sys2Proof.Laws

/-- Settles O28: each controller by where its step leaves it, domains by their record, the coolant by the fields that its readings set. -/
theorem powerControl : Obligations.PowerControl := by
  unfold Obligations.PowerControl
  refine ⟨⟨fun p s hon => ?_, fun a s hon => ⟨fun h => ?_, fun h => ?_, fun h => ?_, fun h => ?_⟩, fun die s => ⟨?_, ?_⟩⟩,
    fun w rival s hm hwins => ?_, fun die x s hx => ?_, fun x s hidle hst => ?_, fun x s hbusy => ?_, fun c s hon => ?_⟩
  · obtain ⟨honly, v, hpwr⟩ := s.dev.dutyNext_does p
    refine answers_device (d := s.dev.dutyNext p) rfl ?_ fun t ht hdev => ?_
    · simp only [Act.dev, hon, if_false]
      rfl
    · rw [hdev, hpwr]
      refine ⟨ht, honly, rfl, rfl, rfl, rfl, fun hlow => ?_, fun hlow hex => ?_⟩
      · simp only [hlow, Power.excursionNext, Bool.false_eq_true, if_false]
      · simp only [hlow]
        exact Power.excursionNext_low hex v
  · obtain ⟨e, he⟩ : ∃ e, e = ((s.dev.modPwr (fun p => { p with peak := Nat.max 1 (p.peak / 2) })).put PWR_STAT.FASTLIM 1).count PWR_STAT.LIMITS := ⟨_, rfl⟩
    have honly : s.dev.OnlyPower e := he ▸ (Dev.OnlyPower.of_modPwr.trans .of_put).trans .of_put
    have hpwr : e.pwr = { s.dev.pwr with peak := Nat.max 1 (s.dev.pwr.peak / 2) } := by rw [he, Dev.count_pwr, Dev.put_pwr]; rfl
    have hflag : e.get PWR_STAT.FASTLIM 0 = 1 := by
      rw [he, Dev.count, get_put_clear _ _ (by decide) (by decide) (by decide), get_put_self _ _ _ _ (by decide)]
      rfl
    obtain ⟨hsettle, hfast⟩ := e.settleDuty_does
    refine answers_device (d := e.settleDuty) rfl ?_ fun t ht hdev => ?_
    · simp only [Act.dev, hon, h, ne_eq, not_false_eq_true, decide_true, Bool.and_self, if_true, he]
    · rw [hdev, Dev.flag, hfast, hflag, hsettle.pwr, hpwr]
      exact ⟨ht, honly.trans (.of_regs hsettle), rfl, rfl⟩
  · refine answers_of_dev (d := s.dev) rfl ?_ rfl
    simp only [Act.dev, Nat.not_lt.mpr h, decide_false, Bool.and_false, Bool.false_eq_true, if_false]
  · obtain ⟨hsettle, -⟩ := (s.dev.modPwr (fun p => { p with peak := Nat.min 64 (p.peak + 1) })).settleDuty_does
    refine answers_device (d := (s.dev.modPwr (fun p => { p with peak := Nat.min 64 (p.peak + 1) })).settleDuty) rfl ?_ fun t ht hdev => ?_
    · simp only [Act.dev, hon, h, ne_eq, not_false_eq_true, decide_true, Bool.and_self, if_true]
    · rw [hdev, hsettle.pwr]
      exact ⟨ht, Dev.OnlyPower.of_modPwr.trans (.of_regs hsettle), rfl⟩
  · refine answers_of_dev (d := s.dev) rfl ?_ rfl
    simp only [Act.dev, Nat.not_le.mpr h, decide_false, Bool.and_false, Bool.false_eq_true, if_false]
  · obtain ⟨hsettle, -⟩ := (s.dev.modPwr (fun p => { p with thermal := p.thermal ||| 2 ^ die.val })).settleDuty_does
    refine answers_device (d := (s.dev.modPwr (fun p => { p with thermal := p.thermal ||| 2 ^ die.val })).settleDuty) rfl rfl fun t ht hdev => ?_
    rw [hdev, hsettle.pwr]
    refine ⟨ht, Dev.OnlyPower.of_modPwr.trans (.of_regs hsettle), ?_, rfl⟩
    have hbit : bit (s.dev.pwr.thermal ||| 2 ^ die.val) die.val = true := by rw [bit_set]; simp
    simp only [Power.duty, Dev.modPwr, hbit, if_true]
    exact Nat.min_le_right _ _
  · obtain ⟨hsettle, -⟩ := (s.dev.modPwr (fun p => { p with thermal := setField p.thermal die.val 1 0 })).settleDuty_does
    refine answers_device (d := (s.dev.modPwr (fun p => { p with thermal := setField p.thermal die.val 1 0 })).settleDuty) rfl rfl fun t ht hdev => ?_
    rw [hdev, hsettle.pwr]
    refine ⟨ht, Dev.OnlyPower.of_modPwr.trans (.of_regs hsettle), ?_, rfl⟩
    have hbit : bit (setField s.dev.pwr.thermal die.val 1 0) die.val = false := by rw [bit_clear]; simp
    simp only [Power.duty, Dev.modPwr, hbit, Bool.false_eq_true, if_false]
    rfl
  · refine mgmtDev_answers hm rfl ?_
    simp only [Dev.capWrite, hwins, Bool.false_eq_true, if_false, capLegal, Bool.and_eq_true, decide_eq_true_eq, and_assoc]
  · obtain ⟨h1, h2, h3, h4⟩ := s.dev.domRaised_does x
    refine answers_device (d := s.dev.domRaised x) rfl ?_ fun t ht hdev => by rw [hdev]; exact ⟨ht, h1, h2, h3, h4⟩
    simp only [Act.dev, hx]
  · refine answers_device (d := s.dev.modDom x.val (fun r => { r with state := .off })) rfl ?_ fun t ht hdev => ?_
    · simp only [Act.dev, hidle, hst, ne_eq, not_false_eq_true, decide_true, Bool.and_self, if_true]
    · rw [hdev]
      exact ⟨ht, .of_modDom, congrArg DomRec.state (s.dev.modDom_at x.val _), fun y hy => s.dev.modDom_at_ne _ hy, rfl⟩
  · refine answers_of_dev (d := s.dev) rfl ?_ rfl
    simp only [Act.dev, hbusy, Bool.false_and, Bool.false_eq_true, if_false]
  · obtain ⟨honly, hleak, hflow, hinlet⟩ := s.dev.coolant_does c
    refine answers_device (d := if s.dev.flag PWR_THERM.LEAK 0 = c.leak then s.dev.puts (coolantFields c) 0
      else (s.dev.puts (coolantFields c) 0).emit (.pin 19 (!c.leak))) rfl ?_ fun t ht hdev => ?_
    · simp only [Act.dev, hon, if_false]
      rfl
    · generalize s.dev.puts (coolantFields c) 0 = e at honly hleak hflow hinlet hdev
      rw [hdev]
      split
      · exact ⟨ht, by rw [Dev.OnlyPower, honly], by rw [honly], hleak, hflow, hinlet, by rw [honly]⟩
      · exact ⟨ht, by rw [Dev.OnlyPower, Dev.emit, honly], by rw [Dev.emit, honly], hleak, hflow, hinlet, by rw [Dev.emit, honly]⟩

end Sys2Proof.Proofs
end

section
/-! Firmware slots: erased, filled, checked and switched to (R487, R488, R523, R524). -/

namespace Sys2Proof.Machine

open Sys2Proof.Laws

/-- A step of MMC_FW that its GO orders, with the status that it leaves. -/
theorem fwStep_answers {i : Instr} {s : State} {w : RegWr} {op kind : Nat} (ho : s.dev.OrdersFw w op kind)
    (he : exec i s = .next (s.run (fwStep w fwOp))) {P : State → Prop}
    (hP : ∀ t, s.onlyDev t → t.dev = ((fwOp s.fuse (s.dev.writeFields .MMC_FW 0 false w) kind).2).put MMC_FW.STATUS
      (fwOp s.fuse (s.dev.writeFields .MMC_FW 0 false w) kind).1 → P t) : Answers i s P := by
  refine answers_device he ?_ hP
  have honly := Dev.onlyRegs.writeFields s.dev .MMC_FW 0 false w
  rw [fwStep, mgmtAct_manages ho.manages]
  simp only [ho.go, ho.named, Bool.not_true, Bool.false_eq_true, if_false, honly.mmc, ho.idle.1, ho.idle.2, Option.isSome_none, Bool.or_self,
    show ¬ imgRecovery < kind from Nat.not_lt.mpr ho.known]

/-- A write of MMC_FW leaves what says which slots run. -/
theorem Dev.fwFields_boot (d : Dev) (w : RegWr) : (d.writeFields .MMC_FW 0 false w).get KEEP_BOOT.RUN 0 = d.get KEEP_BOOT.RUN 0
    ∧ (d.writeFields .MMC_FW 0 false w).get KEEP_BOOT.PREF 0 = d.get KEEP_BOOT.PREF 0
    ∧ ∀ kind, (d.writeFields .MMC_FW 0 false w).idleSlot kind = d.idleSlot kind := by
  have hout := d.writeFields_outside .MMC_FW 0 (by decide) false w
  have hrun := hout KEEP_BOOT.RUN 0 (by decide) (by decide)
  refine ⟨hrun, hout KEEP_BOOT.PREF 0 (by decide) (by decide), fun kind => ?_⟩
  unfold Dev.idleSlot Dev.runSlot
  rw [hrun]

theorem Dev.showSlot_does (d : Dev) (kind slot : Nat) : d.onlyRegs (d.showSlot kind slot) := by
  unfold Dev.showSlot
  simp only
  split
  · exact (Dev.onlyRegs.put d _ _ _).trans (.put _ _ _ _)
  · exact (Dev.onlyRegs.put d _ _ _).trans (.put _ _ _ _)

theorem Dev.putFlash_at (d : Dev) (kind slot : Nat) (v : FlashSlot) : (d.putFlash kind slot v).slotAtFlash kind slot = v := tblGet_set_self

/-- Slots are read from the flash alone. -/
theorem Dev.slotAtFlash_of_mmc {a b : Dev} (h : b.mmc = a.mmc) (kind slot : Nat) : b.slotAtFlash kind slot = a.slotAtFlash kind slot := by
  rw [Dev.slotAtFlash, h, Dev.slotAtFlash]

theorem Dev.slotRuns_of_mmc {a b : Dev} (h : b.mmc = a.mmc) (f : Fuses) (kind slot : Nat) : b.slotRuns f kind slot = a.slotRuns f kind slot := by
  simp only [Dev.slotRuns, Dev.slotAtFlash_of_mmc h]

/-- BEGIN erases the inactive slot and opens it. -/
theorem fwBeginOp_does (f : Fuses) (d : Dev) (kind : Nat) : (fwBeginOp f d kind).1 = 0
    ∧ (fwBeginOp f d kind).2.mmc = { d.mmc with
        begun := some (kind, []), flash := tblSet FlashSlot.init d.mmc.flash (kind * 2 + d.idleSlot kind) ⟨[], 0, false⟩ }
    ∧ (fwBeginOp f d kind).2.get MMC_FW.WRITTEN 0 = 0 := by
  have hshow := ((d.putFlash kind (d.idleSlot kind) ⟨[], 0, false⟩).showSlot_does kind (d.idleSlot kind)).mmc
  unfold fwBeginOp
  simp only
  generalize (d.putFlash kind (d.idleSlot kind) ⟨[], 0, false⟩).showSlot kind (d.idleSlot kind) = e at hshow
  refine ⟨trivial, ?_, get_put_self _ _ _ _ (by decide)⟩
  rw [Dev.put_mmc, hshow]
  rfl

/-- CHECK writes its verdict into the slot. -/
theorem fwCheckOp_does (f : Fuses) (d : Dev) (kind : Nat) :
    (fwCheckOp f d kind).1 = (if imageOk f kind (d.slotAtFlash kind (d.idleSlot kind)).image then 0 else 2)
    ∧ (fwCheckOp f d kind).2.mmc.begun = none
    ∧ ((fwCheckOp f d kind).2.slotAtFlash kind (d.idleSlot kind)).valid = imageOk f kind (d.slotAtFlash kind (d.idleSlot kind)).image
    ∧ ((fwCheckOp f d kind).2.slotAtFlash kind (d.idleSlot kind)).image = (d.slotAtFlash kind (d.idleSlot kind)).image := by
  unfold fwCheckOp
  simp only
  generalize hv : ({ d.slotAtFlash kind (d.idleSlot kind) with valid := _, svn := _ } : FlashSlot) = v
  generalize hE : ({ d with mmc := { d.mmc with begun := none } } : Dev).putFlash kind (d.idleSlot kind) v = E
  have hshow := (E.showSlot_does kind (d.idleSlot kind)).mmc
  have hbegun : E.mmc.begun = none := by rw [← hE]; rfl
  have hslot : E.slotAtFlash kind (d.idleSlot kind) = v := by rw [← hE, Dev.putFlash_at]
  rw [Dev.slotAtFlash_of_mmc hshow, hshow, hslot]
  exact ⟨trivial, hbegun, by rw [← hv], by rw [← hv]⟩

theorem Dev.flag_of_get {d : Dev} {f : Fld} {i : Nat} (h : d.get f i = 1) : d.flag f i = true := by
  rw [Dev.flag, h]
  rfl

/-- SWITCH of a slot that may run. -/
theorem fwSwitchOp_runs {f : Fuses} {d : Dev} {kind : Nat} (hk : kind ≠ imgRecovery) (hruns : d.slotRuns f kind (d.idleSlot kind) = true) :
    (fwSwitchOp f d kind).1 = 3 ∧ (fwSwitchOp f d kind).2.mmc = { d.mmc with switching := some kind }
    ∧ (fwSwitchOp f d kind).2.get KEEP_BOOT.PREF 0 = setField (d.get KEEP_BOOT.PREF) kind 1 (d.idleSlot kind) % 2 ^ 6
    ∧ (fwSwitchOp f d kind).2.flag MMC_FW.SWITCHING 0 = true ∧ (kind = imgKeeper → (fwSwitchOp f d kind).2.keep.sessions = []) := by
  unfold fwSwitchOp
  simp only [hk, if_false, hruns, Bool.not_true, Bool.false_eq_true]
  generalize setField (d.get KEEP_BOOT.PREF) kind 1 (d.idleSlot kind) = v
  generalize hE : (d.put KEEP_BOOT.PREF v).put MMC_FW.SWITCHING 1 = E
  have hmmc : E.mmc = d.mmc := by rw [← hE, Dev.put_mmc, Dev.put_mmc]
  have hpref : E.get KEEP_BOOT.PREF 0 = v % 2 ^ 6 := by
    rw [← hE, get_put_clear _ _ (by decide) (by decide) (by decide), get_put_self _ _ _ _ (by decide)]
    rfl
  have hflag : E.get MMC_FW.SWITCHING 0 = 1 := by
    rw [← hE, get_put_self _ _ _ _ (by decide)]
    rfl
  by_cases h : kind = imgKeeper
  · simp only [h, if_true]
    refine ⟨trivial, ?_, ?_, Dev.flag_of_get ?_, fun _ => ?_⟩
    · rw [Dev.put_mmc, hmmc]
    · rw [get_put_clear _ _ (by decide) (by decide) (by decide)]
      exact (Dev.get_of_regs rfl _ _).trans hpref
    · rw [get_put_clear _ _ (by decide) (by decide) (by decide)]
      exact (Dev.get_of_regs rfl _ _).trans hflag
    · rw [Dev.put_keep]
  · simp only [h, if_false]
    exact ⟨trivial, by rw [hmmc], (Dev.get_of_regs rfl _ _).trans hpref, Dev.flag_of_get ((Dev.get_of_regs rfl _ _).trans hflag), fun e => absurd e (by simp)⟩

/-- One of six bits replaced. -/
theorem setField_lt_six {n kind v : Nat} (hn : n < 2 ^ 6) (hk : kind ≤ 5) : setField n kind 1 v < 2 ^ 6 := by
  apply Nat.lt_pow_two_of_testBit
  intro i hi
  rw [testBit_setField]
  have h1 : ¬ (kind ≤ i ∧ i < kind + 1) := by omega
  have h2 : n.testBit i = false := Nat.testBit_lt_two_pow (Nat.lt_of_lt_of_le hn (Nat.pow_le_pow_right (by decide) hi))
  simp [h2, show ¬ i < kind + 1 by omega]

/-- Records held during a switch are logged: reports, and the list of them is emptied. -/
theorem Dev.logHeld_does (d : Dev) : ({ d with mmc := { d.mmc with heldRecs := [] } } : Dev).Reports d.logHeld :=
  foldl_keeps (P := fun b : Dev => ({ d with mmc := { d.mmc with heldRecs := [] } } : Dev).Reports b)
    (fun b e hb => hb.trans (Dev.Reports.addRecord b e)) d.mmc.heldRecs _ (.refl _)

end Sys2Proof.Machine

namespace Sys2Proof.Proofs

open Sys2Proof.Machine Sys2Proof.Laws

/-- Settles O26: each step of MMC_FW by what its operation does to the slot, the end of a switch by what it leaves of RUN. -/
theorem firmwareSteps : Obligations.FirmwareSteps := by
  unfold Obligations.FirmwareSteps
  refine ⟨fun w kind s ho => ?_, fun w kind bs s hm hbegun hlen => ?_, fun w kind s ho => ?_, fun w kind s ho hk => ⟨fun hruns => ?_, fun hruns => ?_⟩,
    fun kind s hk hsw hready => ?_⟩
  · obtain ⟨-, -, hidle⟩ := s.dev.fwFields_boot w
    have honly := Dev.onlyRegs.writeFields s.dev .MMC_FW 0 false w
    obtain ⟨h1, h2, h3⟩ := fwBeginOp_does s.fuse (s.dev.writeFields .MMC_FW 0 false w) kind
    refine fwStep_answers ho rfl fun t ht hdev => ?_
    rw [show fwOp s.fuse (s.dev.writeFields .MMC_FW 0 false w) kind = fwBeginOp s.fuse (s.dev.writeFields .MMC_FW 0 false w) kind by
      simp only [fwOp, ho.oper]] at hdev
    rw [h1] at hdev
    rw [hidle, honly.mmc] at h2
    generalize fwBeginOp s.fuse (s.dev.writeFields .MMC_FW 0 false w) kind = r at h2 h3 hdev
    rw [hdev, Dev.put_mmc, h2]
    exact ⟨ht, rfl, rfl, get_put_self _ _ _ _ (by decide), (get_put_clear _ _ (by decide) (by decide) (by decide)).trans h3⟩
  · refine mgmtDev_answers hm rfl ?_
    have hlen' : ¬ 0x4000000 ≤ bs.length := by omega
    simp only [Dev.fwBytes, hbegun, hlen', if_false, State.withDev, Dev.count_mmc]
    exact ⟨⟨rfl, rfl, rfl⟩, rfl, rfl, rfl⟩
  · obtain ⟨-, -, hidle⟩ := s.dev.fwFields_boot w
    have honly := Dev.onlyRegs.writeFields s.dev .MMC_FW 0 false w
    obtain ⟨h1, h2, h3, h4⟩ := fwCheckOp_does s.fuse (s.dev.writeFields .MMC_FW 0 false w) kind
    refine fwStep_answers ho rfl fun t ht hdev => ?_
    rw [show fwOp s.fuse (s.dev.writeFields .MMC_FW 0 false w) kind = fwCheckOp s.fuse (s.dev.writeFields .MMC_FW 0 false w) kind by
      simp only [fwOp, ho.oper]] at hdev
    rw [hidle, Dev.slotAtFlash_of_mmc honly.mmc] at h1 h3 h4
    rw [h1] at hdev
    generalize fwCheckOp s.fuse (s.dev.writeFields .MMC_FW 0 false w) kind = r at h2 h3 h4 hdev
    have hslot := Dev.slotAtFlash_of_mmc (a := r.2) (b := t.dev) (by rw [hdev, Dev.put_mmc]) kind (s.dev.idleSlot kind)
    rw [hslot, hdev, Dev.put_mmc, get_put_self _ _ _ _ (by decide)]
    refine ⟨ht, h2, ?_, h3, h4⟩
    split <;> rfl
  · obtain ⟨-, hpref, hidle⟩ := s.dev.fwFields_boot w
    have honly := Dev.onlyRegs.writeFields s.dev .MMC_FW 0 false w
    obtain ⟨h1, h2, h3, h4, h5⟩ := fwSwitchOp_runs (f := s.fuse) (d := s.dev.writeFields .MMC_FW 0 false w) hk
      (by rw [hidle, Dev.slotRuns_of_mmc honly.mmc]; exact hruns)
    refine fwStep_answers ho rfl fun t ht hdev => ?_
    rw [show fwOp s.fuse (s.dev.writeFields .MMC_FW 0 false w) kind = fwSwitchOp s.fuse (s.dev.writeFields .MMC_FW 0 false w) kind by
      simp only [fwOp, ho.oper]] at hdev
    have hlt : s.dev.get KEEP_BOOT.PREF 0 < 2 ^ 6 := field_lt _ _ _
    rw [hpref, hidle, Nat.mod_eq_of_lt (setField_lt_six hlt ho.known)] at h3
    rw [honly.mmc] at h2
    rw [h1] at hdev
    generalize fwSwitchOp s.fuse (s.dev.writeFields .MMC_FW 0 false w) kind = r at h2 h3 h4 h5 hdev
    rw [hdev, Dev.put_mmc, Dev.put_keep]
    refine ⟨ht, h2, get_put_self _ _ _ _ (by decide), ?_, ?_, h5⟩
    · rw [Dev.flag, get_put_clear _ _ (by decide) (by decide) (by decide)]
      exact h4
    · rw [get_put_clear _ _ (by decide) (by decide) (by decide)]
      exact h3
  · obtain ⟨-, -, hidle⟩ := s.dev.fwFields_boot w
    have honly := Dev.onlyRegs.writeFields s.dev .MMC_FW 0 false w
    have hnot : (s.dev.writeFields .MMC_FW 0 false w).slotRuns s.fuse kind ((s.dev.writeFields .MMC_FW 0 false w).idleSlot kind) = false := by
      rw [hidle, Dev.slotRuns_of_mmc honly.mmc]
      exact hruns
    have hop : fwOp s.fuse (s.dev.writeFields .MMC_FW 0 false w) kind = (2, s.dev.writeFields .MMC_FW 0 false w) := by
      simp only [fwOp, ho.oper, fwSwitchOp, hk, if_false, hnot, Bool.not_false, if_true]
    refine fwStep_answers ho rfl fun t ht hdev => ?_
    rw [hop] at hdev
    exact ht.eq_withDev hdev
  · obtain ⟨E, hE⟩ : ∃ E, E = ({ s.dev.putRun kind (b2n (bit (s.dev.get KEEP_BOOT.PREF) kind)) with
      mmc := { s.dev.mmc with switching := none } } : Dev).put MMC_FW.SWITCHING 0 := ⟨_, rfl⟩
    have hmmc : E.mmc.switching = none := by rw [hE, Dev.put_mmc]
    have hrun : E.get KEEP_BOOT.RUN 0 = setField (s.dev.get KEEP_BOOT.RUN 0) kind 1 (b2n (bit (s.dev.get KEEP_BOOT.PREF 0) kind)) := by
      have hlt : s.dev.get KEEP_BOOT.RUN 0 < 2 ^ 6 := field_lt _ _ _
      have hput : (s.dev.putRun kind (b2n (bit (s.dev.get KEEP_BOOT.PREF) kind))).get KEEP_BOOT.RUN 0
          = setField (s.dev.get KEEP_BOOT.RUN 0) kind 1 (b2n (bit (s.dev.get KEEP_BOOT.PREF 0) kind)) :=
        (get_put_self _ _ _ _ (by decide)).trans (Nat.mod_eq_of_lt (setField_lt_six hlt hk))
      rw [hE, get_put_clear _ _ (by decide) (by decide) (by decide)]
      exact (Dev.get_of_regs rfl _ _).trans hput
    obtain ⟨F, hF⟩ : ∃ F, F = if E.get MMC_FW.STATUS = 3 then E.put MMC_FW.STATUS 0 else E := ⟨_, rfl⟩
    have hF' : F.mmc.switching = none ∧ F.get KEEP_BOOT.RUN 0 = E.get KEEP_BOOT.RUN 0 := by
      rw [hF]
      split
      · exact ⟨by rw [Dev.put_mmc, hmmc], get_put_clear _ _ (by decide) (by decide) (by decide)⟩
      · exact ⟨hmmc, rfl⟩
    have hlog := F.logHeld_does
    refine answers_device (d := F.logHeld) rfl ?_ fun t ht hdev => ?_
    · simp only [Act.dev, hsw, hready, Bool.not_true, Bool.false_eq_true, if_false, hF, hE]
      rfl
    · generalize F.logHeld = x at hlog hdev
      rw [hdev]
      refine ⟨ht, ?_, ?_⟩
      · exact ((Dev.Quiet.of_reports hlog).mmc_field Mmc.switching (fun _ _ => rfl)).trans hF'.1
      · exact (hlog.regs _ _ (by decide) (by decide) (by decide)).trans ((Dev.get_of_regs rfl _ _).trans (hF'.2.trans hrun))

end Sys2Proof.Proofs
end

section
/-! What brings the module up: rails, images, the cold start (R507 to R511, R555). -/

namespace Sys2Proof.Machine

open Sys2Proof.Laws

/-! ### Registers alone -/

theorem Dev.putRun_onlyRegs (d : Dev) (kind slot : Nat) : d.onlyRegs (d.putRun kind slot) := .put d _ _ _

theorem Dev.bootKind_onlyRegs (d : Dev) (f : Fuses) (kind : Nat) : d.onlyRegs (d.bootKind f kind) := by
  have h := (d.showSlot_does kind 0).trans ((d.showSlot kind 0).showSlot_does kind 1)
  unfold Dev.bootKind
  simp only
  generalize (d.showSlot kind 0).showSlot kind 1 = e at h
  split
  · exact h.trans (e.putRun_onlyRegs _ _)
  · exact h

theorem Dev.bootKinds_onlyRegs (f : Fuses) (ks : List Nat) (d : Dev) : d.onlyRegs (ks.foldl (fun d k => d.bootKind f k) d) :=
  foldl_keeps (P := fun b => d.onlyRegs b) (fun b k hb => hb.trans (b.bootKind_onlyRegs f k)) ks d (.refl d)

theorem Dev.showContacts_onlyRegs (d : Dev) : d.onlyRegs d.showContacts := by
  unfold Dev.showContacts
  exact ((Dev.onlyRegs.put d _ _ _).trans (.put _ _ _ _)).trans (.put _ _ _ _)

/-! ### Cold starts -/

/-- What a cold start changes: registers, the output, and of the Keeper, the power controller and the MMC what it names. -/
theorem Dev.coldStart_form (d : Dev) : ∃ r o, d.coldStart = { d with
    regs := r, out := o, keep := { d.keep with erased := false, debug := .locked, moduleDebug := false }, pwr := { d.pwr with doms := [] },
    mmc := { d.mmc with state := .training, start := some ⟨true, false⟩, retry := false } } := by
  unfold Dev.coldStart
  simp only
  obtain ⟨x, hx⟩ : ∃ x, x = if d.flag MMC_RESET.REMOVE_OK then (d.put MMC_RESET.REMOVE_OK 0).emit (.pin 10 false) else d := ⟨_, rfl⟩
  have hx' : ∃ r o, x = { d with regs := r, out := o } := by
    rw [hx]
    split
    · exact ⟨_, _, rfl⟩
    · exact ⟨d.regs, d.out, rfl⟩
  rw [← hx]
  obtain ⟨y, hy⟩ : ∃ y, y = (((x.put KEEP_STAT.MODULE_DEBUG 0).put KEEP_STAT.CLAMPS 0).put KEEP_ALARM.LEVEL 0).put KEEP_DBG_CTL.OPEN 0 := ⟨_, rfl⟩
  have hy' : x.onlyRegs y := hy ▸ (((Dev.onlyRegs.put x _ _ _).trans (.put _ _ _ _)).trans (.put _ _ _ _)).trans (.put _ _ _ _)
  rw [← hy]
  obtain ⟨r, o, hx⟩ := hx'
  subst hx
  exact ⟨y.regs, o, by rw [hy']⟩

theorem Dev.coldStart_starts (d : Dev) : d.coldStart.ColdStarting := by
  obtain ⟨r, o, h⟩ := d.coldStart_form
  rw [h]
  exact ⟨rfl, rfl, ⟨rfl, rfl⟩, rfl⟩

/-- With the input switch open, a module in STANDBY that has power closes it, and with AUTO starts. -/
theorem Dev.inputPower_closes (d : Dev) (h : d.mmc.state = .standby) (hvin : d.pwr.vin48 = true) (hseat : d.pwr.seat = true)
    (hopen : d.pwr.vinOn = false) : d.inputPower =
      (let e := (d.modPwr (fun p => { p with vinOn := true })).showContacts
       if e.flag MMC_RESET.AUTO && !e.mmc.retry then e.coldStart else e) := by
  simp only [Dev.inputPower, h, hvin, hseat, hopen, decide_true, Bool.not_false, Bool.and_self, if_true]

theorem Dev.inputPower_idle (d : Dev) (h : (d.pwr.vin48 && d.pwr.seat) = false) : d.inputPower = d := by
  have h' : (decide (d.mmc.state = .standby) && d.pwr.vin48 && d.pwr.seat && !d.pwr.vinOn) = false := by
    rw [Bool.and_assoc (decide _), h, Bool.and_false, Bool.false_and]
  simp only [Dev.inputPower, h', Bool.false_eq_true, if_false]

/-- The contacts are shown in PWR_SB alone. -/
theorem Dev.showContacts_get (d : Dev) (f : Fld) (i : Nat) (hi : i < 1024) (hf : f.reg ≠ .PWR_SB) : d.showContacts.get f i = d.get f i := by
  unfold Dev.showContacts
  have h : ∀ (e : Dev) (g : Fld) (v : Nat), g.reg = .PWR_SB → (e.put g v).get f i = e.get f i := fun e g v hg =>
    get_put_ne e g f v 0 i (regKey_ne hi (by decide) (by rw [hg]; exact hf))
  rw [h _ _ _ rfl, h _ _ _ rfl, h _ _ _ rfl]

/-- VIN48 comes into range with SEAT closed. -/
def Dev.vinInRange (d : Dev) : Dev :=
  let d := d.modPwr (fun p => { p with vin48 := true, seat := true })
  { d with mmc := { d.mmc with overVolt := false } }

theorem vin48_answers {s : State} (hst : s.dev.mmc.state = .standby) {P : State → Prop}
    (hP : ∀ t, s.onlyDev t → t.dev = s.dev.vinInRange.showContacts.inputPower → P t) : Answers .vin48Present s P := by
  refine answers_device (d := s.dev.vinInRange.showContacts.inputPower) rfl ?_ hP
  have hon : s.dev.vinInRange.mmc.state ≠ .off := by
    show s.dev.mmc.state ≠ .off
    rw [hst]
    decide
  exact congrArg (fun d : Dev => ({ dev := d } : Res)) (if_neg hon)

/-- A module in STANDBY whose input switch is open closes it as VIN48 comes into range (R507). -/
theorem Dev.vinInRange_closes (d : Dev) (hst : d.mmc.state = .standby) (hopen : d.pwr.vinOn = false) : ∃ e : Dev,
    d.vinInRange.showContacts.inputPower = (if e.flag MMC_RESET.AUTO && !e.mmc.retry then e.coldStart else e)
      ∧ e.pwr = { d.pwr with vin48 := true, seat := true, vinOn := true } ∧ e.mmc = { d.mmc with overVolt := false }
      ∧ e.get MMC_RESET.AUTO 0 = d.get MMC_RESET.AUTO 0 := by
  have hx := d.vinInRange.showContacts_onlyRegs
  have hget := d.vinInRange.showContacts_get MMC_RESET.AUTO 0 (by decide) (by decide)
  have hmmc : d.vinInRange.mmc = { d.mmc with overVolt := false } := rfl
  have hpwr : d.vinInRange.pwr = { d.pwr with vin48 := true, seat := true } := rfl
  generalize hX : d.vinInRange.showContacts = x at hx hget
  have hxp : x.pwr = { d.pwr with vin48 := true, seat := true } := hx.pwr.trans hpwr
  have hxm : x.mmc = { d.mmc with overVolt := false } := hx.mmc.trans hmmc
  have hclose := x.inputPower_closes (by rw [hxm]; exact hst) (by rw [hxp]) (by rw [hxp]) (by rw [hxp]; exact hopen)
  have he := (x.modPwr (fun p => { p with vinOn := true })).showContacts_onlyRegs
  have heget := (x.modPwr (fun p => { p with vinOn := true })).showContacts_get MMC_RESET.AUTO 0 (by decide) (by decide)
  refine ⟨_, hclose, ?_, ?_, ?_⟩
  · rw [he.pwr, Dev.modPwr, hxp]
  · exact he.mmc.trans hxm
  · exact heget.trans ((Dev.get_of_regs rfl _ _).trans (hget.trans (Dev.get_of_regs rfl _ _)))

end Sys2Proof.Machine

namespace Sys2Proof.Proofs

open Sys2Proof.Machine Sys2Proof.Laws

/-- Settles O20: standby power by the images that may run, VIN48 and the retry by the cold start that they begin. -/
theorem powerBringsUp : Obligations.PowerBringsUp := by
  unfold Obligations.PowerBringsUp
  refine ⟨fun s hoff hkeep hmmc hpow => ?_, fun s hoff hnone => ?_, fun s hst hopen hretry hauto => ?_, fun s hst hopen hauto => ?_,
    fun s hretry hst hon => ?_⟩
  · obtain ⟨p, hp⟩ : ∃ p, p = s.dev.modPwr (fun p => { p with vsb12 := true }) := ⟨_, rfl⟩
    have hboot : ∀ k, p.bootSlot s.fuse k = s.dev.bootSlot s.fuse k := fun k => by rw [hp]; rfl
    have hregs := (Dev.bootKinds_onlyRegs s.fuse [imgKeeper, imgMmc] p).trans (Dev.showContacts_onlyRegs _)
    obtain ⟨e, he⟩ : ∃ e, e = ([imgKeeper, imgMmc].foldl (fun d k => d.bootKind s.fuse k) p).showContacts := ⟨_, rfl⟩
    rw [← he] at hregs
    obtain ⟨b, hb⟩ : ∃ b, b = (({ e with mmc := { e.mmc with state := .standby } } : Dev).emit (.pin 9 true)) := ⟨_, rfl⟩
    have hidle : b.inputPower = b := b.inputPower_idle (by rw [hb, hregs, hp]; exact hpow)
    refine answers_device (d := b) rfl ?_ fun t ht hdev => ?_
    · have hon : ¬ (((p.bootSlot s.fuse imgKeeper).isNone || (p.bootSlot s.fuse imgMmc).isNone) = true) := by
        rw [hboot, hboot]
        simp [Option.isSome_iff_ne_none.mp hkeep, Option.isSome_iff_ne_none.mp hmmc]
      rw [if_neg (by simp [hoff])]
      simp only [← hp, if_neg hon, ← he, ← hb, hidle]
    · rw [hdev, hb, hregs, hp]
      exact ⟨ht, rfl, rfl, rfl⟩
  · refine answers_of_dev rfl ?_ rfl
    have hboot : ∀ k, (s.dev.modPwr (fun p => { p with vsb12 := true })).bootSlot s.fuse k = s.dev.bootSlot s.fuse k := fun _ => rfl
    have hnone' : ((s.dev.bootSlot s.fuse imgKeeper).isNone || (s.dev.bootSlot s.fuse imgMmc).isNone) = true := by
      rcases hnone with h | h <;> simp [h]
    simp only [hoff, ne_eq, not_true_eq_false, if_false, hboot, hnone', if_true]
    rfl
  · obtain ⟨e, hform, hpwr, hmmc, hget⟩ := s.dev.vinInRange_closes hst hopen
    have hflag : e.flag MMC_RESET.AUTO 0 = true := by
      rw [Dev.flag, hget]
      exact hauto
    have hr : e.mmc.retry = false := by rw [hmmc]; exact hretry
    obtain ⟨r, o, hcold⟩ := e.coldStart_form
    have hstarts := e.coldStart_starts
    refine vin48_answers hst fun t ht hdev => ?_
    rw [hform, hflag, hr, Bool.not_false, Bool.and_self, if_pos rfl] at hdev
    rw [← hdev] at hstarts hcold
    exact ⟨ht, hstarts, by rw [hcold, hpwr], by rw [hcold, hpwr], by rw [hcold, hpwr], by rw [hcold, hmmc]⟩
  · obtain ⟨e, hform, hpwr, hmmc, hget⟩ := s.dev.vinInRange_closes hst hopen
    have hflag : e.flag MMC_RESET.AUTO 0 = false := by
      rw [Dev.flag, hget]
      exact hauto
    refine vin48_answers hst fun t ht hdev => ?_
    rw [hform, hflag, Bool.false_and, if_neg (by decide)] at hdev
    rw [hdev, hpwr, hmmc]
    exact ⟨ht, hst, rfl, rfl⟩
  · refine answers_device (d := s.dev.coldStart) rfl ?_ fun t ht hdev => ⟨ht, by rw [hdev]; exact s.dev.coldStart_starts⟩
    simp only [Act.dev, hretry, hst, hon, decide_true, Bool.and_self, if_true]

end Sys2Proof.Proofs
end

section
/-! What power-down, starts and their ends leave (R507 to R512, R545). -/

namespace Sys2Proof.Machine

open Sys2Proof.Laws

/-! ### Reset registers -/

theorem Dev.RegsOutside.resetRegs (d : Dev) (rs : List RegName) : d.RegsOutside (d.resetRegs rs) rs := fun f i hi hf => by
  have hne : rs.any (fun r => r.ctorIdx = regKey f.reg i / 1024) = false := by
    rw [regKey_div hi, List.any_eq_false]
    intro r hr
    rw [decide_eq_true_eq]
    intro e
    exact hf (by rw [← RegName.ofNat_ctorIdx f.reg, ← e, RegName.ofNat_ctorIdx]; exact hr)
  exact congrArg (fun v : W64 => field v.toNat f.lo f.width) (tblGet_drop_of_not (p := fun k => rs.any (fun r => r.ctorIdx = k / 1024)) hne)

/-! ### Records in the log -/

/-- What a report of an error changes: registers, the MMC's log, what goes out. -/
def Dev.Logged (a b : Dev) : Prop := b = { a with regs := b.regs, mmc := b.mmc, outq := b.outq, out := b.out }

theorem Dev.Logged.trans {a b c : Dev} (h : a.Logged b) (g : b.Logged c) : a.Logged c := by
  unfold Dev.Logged at *
  rw [g, h]

theorem Dev.Logged.refl {a : Dev} : a.Logged a := rfl

theorem Dev.Logged.put {a : Dev} {f : Fld} {v i : Nat} : a.Logged (a.put f v i) := rfl

theorem Dev.Logged.of_mmc {a : Dev} {m : Mmc} : a.Logged { a with mmc := m } := rfl

theorem Dev.Logged.emit {a : Dev} {o : Output} : a.Logged (a.emit o) := rfl

theorem Dev.Logged.originate {a : Dev} {att : Nat} {p : Pkt} : a.Logged (a.originate att p) := rfl

theorem Dev.addRecord_logged (d : Dev) (x : ErrRec) : d.Logged (d.addRecord x) := by
  unfold Dev.addRecord
  split
  · rfl
  · simp only
    generalize hE : (if 1024 ≤ d.mmc.log.length then d.count MMC_LOG_SEL.OVERFLOW else d) = E
    have h1 : d.Logged E := by
      rw [← hE]
      split
      · exact .put
      · exact .refl
    generalize (if 1024 ≤ d.mmc.log.length then _ else d.mmc.log) = log
    generalize hF : (({ E with mmc := _ } : Dev).emit (.pin 11 false)).emit _ = F
    have h2 : d.Logged F := hF ▸ ((h1.trans .of_mmc).trans .emit).trans .emit
    split
    · exact h2
    · exact h2.trans .originate

theorem Dev.logError_logged (d : Dev) (a b c e f g h : Nat) : d.Logged (d.logError a b c e f g h) := by
  unfold Dev.logError
  simp only
  split
  · split <;> rfl
  · exact d.addRecord_logged _

/-! ### What holds contexts and memory -/

/-- Contexts, threads, ownership and keys stay. -/
structure Dev.Kept (a b : Dev) : Prop where
  ctx : b.ctx = a.ctx
  thr : b.thr = a.thr
  own : b.own = a.own
  keep : b.keep = a.keep

namespace Dev.Kept

variable {a b c : Dev}

theorem refl : a.Kept a := ⟨rfl, rfl, rfl, rfl⟩

theorem trans (h : a.Kept b) (g : b.Kept c) : a.Kept c := ⟨g.ctx.trans h.ctx, g.thr.trans h.thr, g.own.trans h.own, g.keep.trans h.keep⟩

theorem of_regs (h : a.onlyRegs b) : a.Kept b := by
  rw [h]
  exact ⟨rfl, rfl, rfl, rfl⟩

theorem of_log {x1 x2 x3 x4 x5 x6 x7 : Nat} : a.Kept (a.logError x1 x2 x3 x4 x5 x6 x7) := by
  rw [a.logError_logged x1 x2 x3 x4 x5 x6 x7]
  exact ⟨rfl, rfl, rfl, rfl⟩

theorem of_mmc {m : Mmc} : a.Kept { a with mmc := m } := ⟨rfl, rfl, rfl, rfl⟩

theorem foldl {A : Type} {f : Dev → A → Dev} (hf : ∀ (d : Dev) (x : A), d.Kept (f d x)) (l : List A) (d : Dev) : d.Kept (l.foldl f d) :=
  foldl_keeps (P := fun b => d.Kept b) (fun b x hb => hb.trans (hf b x)) l d refl

end Dev.Kept

theorem Dev.settleUnitCmd_kept (d : Dev) : d.Kept d.settleUnitCmd := by
  unfold Dev.settleUnitCmd
  split
  · exact .refl
  · rename_i g b _
    simp only
    generalize (if g % 47 = 46 then dieGroups (g / 47) else [g]) = gs
    generalize (if d.admitted g then 0 else 6) = v
    split
    · exact .refl
    · exact Dev.Kept.of_mmc.trans (.of_regs (.put _ _ _ _))

theorem Dev.admitStandby_kept (d : Dev) : d.Kept d.admitStandby := by
  unfold Dev.admitStandby Dev.settleRoutes
  simp only
  exact Dev.Kept.of_mmc.trans ((Dev.settleUnitCmd_kept _).trans .of_mmc)

/-- A start takes units into service and leaves contexts, ownership and keys. -/
theorem Dev.startUnits_kept (d : Dev) (failed : List (W16 × Bool)) : d.Kept (d.startUnits failed) := by
  unfold Dev.startUnits
  simp only
  generalize hE : ({ d with core := _, mmc := _ } : Dev) = E
  have h1 : d.Kept E := hE ▸ ⟨rfl, rfl, rfl, rfl⟩
  have h2 := h1.trans (Dev.Kept.foldl (f := fun (d : Dev) (x : W16 × Bool) => d.unitRecord 4 x.1.toNat (if x.2 then 0x0012 else 0x0011) .out)
    (fun _ _ => .of_log) failed E)
  generalize failed.foldl _ E = F at h2
  split
  · exact h2
  · exact h2.trans F.admitStandby_kept

/-! ### What the Brynoa die's start leaves -/

/-- Registers, power, links and the host interface alone change. -/
def Dev.Brought (a b : Dev) : Prop := b = { a with regs := b.regs, pwr := b.pwr, lnk := b.lnk, host := b.host }

namespace Dev.Brought

variable {a b c : Dev}

theorem refl : a.Brought a := rfl

theorem trans (h : a.Brought b) (g : b.Brought c) : a.Brought c := by
  unfold Dev.Brought at *
  rw [g, h]

theorem of_regs (h : a.onlyRegs b) : a.Brought b := by
  unfold Dev.onlyRegs Dev.Brought at *
  rw [h]

theorem of_put {f : Fld} {v i : Nat} : a.Brought (a.put f v i) := rfl

theorem of_pwr {x : Nat} {f : DomRec → DomRec} : a.Brought (a.modDom x f) := rfl

theorem of_lower {p : Nat → Bool} : a.Brought (a.lowerDoms p) := rfl

theorem of_host {h : HostIf} : a.Brought { a with host := h } := rfl

theorem of_lnk {k : Nat} {f : LnkPort → LnkPort} : a.Brought (a.modPort k f) := rfl

theorem ite {r : Prop} [Decidable r] (hb : a.Brought b) (hc : a.Brought c) : a.Brought (if r then b else c) := by
  split
  · exact hb
  · exact hc

theorem foldl {A : Type} {f : Dev → A → Dev} (hf : ∀ (d : Dev) (x : A), d.Brought (f d x)) (l : List A) (d : Dev) : d.Brought (l.foldl f d) :=
  foldl_keeps (P := fun b => d.Brought b) (fun b x hb => hb.trans (hf b x)) l d refl

theorem kept (h : a.Brought b) : a.Kept b := by
  rw [h]
  exact ⟨rfl, rfl, rfl, rfl⟩

theorem mmc (h : a.Brought b) : b.mmc = a.mmc := by rw [h]

end Dev.Brought

theorem Dev.raiseDoms_form (xs : List Nat) (d : Dev) : ∃ p, d.raiseDoms xs = { d with pwr := p } := by
  refine foldl_keeps (P := fun b : Dev => ∃ p, b = { d with pwr := p }) (fun b x ⟨p, hb⟩ => ?_) xs d ⟨d.pwr, rfl⟩
  subst hb
  split
  · exact ⟨p, rfl⟩
  · unfold Dev.domRaised
    simp only
    split <;> exact ⟨_, rfl⟩

theorem Dev.raiseDoms_brought (xs : List Nat) (d : Dev) : d.Brought (d.raiseDoms xs) := by
  obtain ⟨p, h⟩ := d.raiseDoms_form xs
  rw [h]
  rfl

theorem Dev.trainQuad_brought (d : Dev) (q : Nat) : d.Brought (d.trainQuad q) := by
  unfold Dev.trainQuad
  exact Dev.Brought.of_put.trans .of_pwr

theorem Dev.startTraining_brought (d : Dev) (k : Nat) : d.Brought (d.startTraining k) := by
  rw [Dev.startTraining_eq]
  refine .ite .refl ?_
  have h : d.Brought ((d.portQuads k).foldl Dev.trainQuad d) := .foldl (f := Dev.trainQuad) (fun d q => d.trainQuad_brought q) _ d
  generalize (d.portQuads k).foldl Dev.trainQuad d = e at h
  exact (h.trans .of_lnk).trans .of_put

theorem Dev.puts_brought (d : Dev) (es : List (Fld × Nat)) (i : Nat) : d.Brought (d.puts es i) := .of_regs (Dev.puts_onlyRegs es d i)

theorem Dev.profileDone_brought (d : Dev) : d.Brought d.profileDone := by
  unfold Dev.profileDone
  exact (Dev.Brought.of_put.trans .of_put).trans .of_put

/-- A commit that the checks pass, once the map stands. -/
def Dev.committed (d : Dev) : Dev :=
  let x := (List.range 12).foldl Dev.nameQuads d.profileDone
  if x.linksLive then (List.range 12).foldl Dev.startTraining x else x

theorem Dev.committed_brought (d : Dev) : d.Brought d.committed := by
  have h := d.profileDone_brought.trans (.foldl (f := Dev.nameQuads) (fun e k => .foldl (fun _ _ => .of_put) _ e) (List.range 12) d.profileDone)
  unfold Dev.committed
  simp only
  generalize (List.range 12).foldl Dev.nameQuads d.profileDone = x at h
  exact .ite (h.trans (.foldl (fun e k => e.startTraining_brought k) _ x)) h

theorem Dev.linkCommit_eq (d : Dev) : d.linkCommit =
    (let prof := d.get LNK_PROFILE.PROFILE
     if d.flag LNK_PROFILE.COMMITTED then d
     else if 4 < prof then (d.put LNK_PROFILE.STATUS 1).put LNK_PROFILE.BADPORT 0
     else if 1792 < d.pool 0 + d.pool 1 + d.pool 2 + d.pool 3 then (d.put LNK_PROFILE.STATUS 2).put LNK_PROFILE.BADPORT 0
     else match (if prof = 4 then d.customCheck (List.range 12) [] else none) with
       | some (st, k) => (d.put LNK_PROFILE.STATUS st).put LNK_PROFILE.BADPORT k
       | none => (if prof = 4 then d else d.mapPorts prof).committed) := rfl

theorem Dev.linkCommit_brought (d : Dev) : d.Brought d.linkCommit := by
  have hfail : ∀ st k : Nat, d.Brought ((d.put LNK_PROFILE.STATUS st).put LNK_PROFILE.BADPORT k) := fun _ _ => Dev.Brought.of_put.trans .of_put
  have hmap : ∀ prof : Nat, d.Brought (d.mapPorts prof) := fun prof => .foldl (fun d k => d.puts_brought _ k) (List.range 12) d
  rw [Dev.linkCommit_eq]
  simp only
  refine .ite .refl (.ite (hfail _ _) (.ite (hfail _ _) ?_))
  split
  · exact hfail _ _
  · exact Dev.Brought.trans (.ite .refl (hmap _)) (Dev.committed_brought _)

theorem Dev.markBrynoa_brought (d : Dev) (failed : List (W16 × Bool)) : d.Brought (d.markBrynoa failed) := by
  unfold Dev.markBrynoa
  refine .foldl (fun e x => ?_) failed d
  exact .ite .of_put (.ite .of_lower .refl)

theorem Dev.bringBrynoa_eq (d : Dev) (failed : List (W16 × Bool)) : d.bringBrynoa failed =
    (let e := (List.range 12).foldl Dev.startTraining
      (d.raiseDoms ([412, 413, 414, 415, 418] ++ ([416, 417].filter (fun x => d.flag ETH_PORT_CFG.EN (x - 416))))).linkCommit
     (({ e with host := { e.host with cxl := true } } : Dev).put HOST_MOD_STAT.DEFAULTS 1).markBrynoa failed) := rfl

theorem Dev.bringBrynoa_brought (d : Dev) (failed : List (W16 × Bool)) : d.Brought (d.bringBrynoa failed) := by
  rw [Dev.bringBrynoa_eq]
  generalize [412, 413, 414, 415, 418] ++ _ = xs
  have h := ((d.raiseDoms_brought xs).trans (Dev.linkCommit_brought _)).trans (.foldl (fun e k => e.startTraining_brought k) (List.range 12) _)
  simp only
  generalize (List.range 12).foldl Dev.startTraining _ = e at h
  exact (h.trans .of_host).trans (Dev.Brought.of_put.trans (Dev.markBrynoa_brought _ failed))

/-! ### READY -/

/-- Without a context that is RUNNING or HALTED the module's contexts imply READY. -/
theorem Dev.impliedState_free {d : Dev} (h : ∀ c, (d.ctxAt c).state = .free) : d.impliedState = .ready := by
  unfold Dev.impliedState
  have hnone : ∀ st : CtxState, st ≠ .free → allCtx.any (fun c => (d.ctxAt c).state = st) = false := fun st hst => by
    rw [List.any_eq_false]
    intro c _
    rw [decide_eq_true_eq, h c]
    exact fun e => hst e.symm
  rw [hnone _ (by decide), hnone _ (by decide)]
  rfl

theorem Dev.ready_does (d : Dev) (h : ∀ c, (d.ctxAt c).state = .free) : d.Kept d.ready ∧ d.ready.mmc.state = .ready ∧ d.ready.mmc.start = none := by
  unfold Dev.ready
  simp only
  generalize hE : (d.put KEEP_BOOT.FAILS 0).put KEEP_ALARM_CFG.COMMITTED 1 = E
  have h1 : d.Kept E := .of_regs (hE ▸ (Dev.onlyRegs.put d _ _ _).trans (.put _ _ _ _))
  generalize hF : ({ E with mmc := { E.mmc with state := .ready, start := none, retry := false } } : Dev) = F
  have h2 : d.Kept F := h1.trans (hF ▸ .of_mmc)
  have hst : F.mmc.state = .ready ∧ F.mmc.start = none := by
    rw [← hF]
    exact ⟨rfl, rfl⟩
  have himp : F.impliedState = .ready := Dev.impliedState_free fun c => by
    rw [Dev.ctxAt, h2.ctx]
    exact h c
  obtain ⟨r, st, hform⟩ := F.settleModule_changes
  have hstate : F.settleModule.mmc.state = .ready := by
    unfold Dev.settleModule
    simp only
    generalize hG : (F.put BRY_LS_STAT.MODULE_PAIR (b2n (F.lockForm 1))).put BRY_LS_STAT.DIE_PAIRS (b2n (F.lockForm 2)) = G
    have hG' : F.onlyRegs G := hG ▸ (Dev.onlyRegs.put F _ _ _).trans (.put _ _ _ _)
    have himp' : G.impliedState = .ready := by
      unfold Dev.impliedState Dev.ctxAt at himp ⊢
      rw [hG'.ctx]
      exact himp
    rw [hG'.mmc, hst.1]
    simp only [decide_true, Bool.true_or, if_true]
    exact himp'
  refine ⟨h2.trans ?_, hstate, ?_⟩
  · rw [hform]
    exact ⟨rfl, rfl, rfl, rfl⟩
  · rw [hform]
    exact hst.2

/-! ### Power-down -/

theorem Dev.resetBrynoa_does (d : Dev) : d.resetBrynoa.mmc = d.mmc ∧ d.RegsOutside d.resetBrynoa (.KEEP_STAT :: brynoaRegs) := by
  have hend : d.RegsOutside (d.endSessions (fun _ => true)) [.KEEP_STAT] := by
    unfold Dev.endSessions
    exact Dev.RegsOutside.trans (b := { d with keep := _ }) (.of_regs rfl _) (.put _ _ _ _ (by decide) (by decide))
  have hmmc : (d.endSessions (fun _ => true)).mmc = d.mmc := Dev.put_mmc ..
  unfold Dev.resetBrynoa
  simp only
  generalize d.endSessions (fun _ => true) = e at hend hmmc
  have hreset := Dev.RegsOutside.resetRegs e brynoaRegs
  have hmmc' : (e.resetRegs brynoaRegs).mmc = d.mmc := hmmc
  generalize e.resetRegs brynoaRegs = x at hreset hmmc'
  exact ⟨hmmc', fun f i hi hf => ((Dev.RegsOutside.of_regs rfl _) f i hi hf).trans
    ((hreset f i hi (fun e => hf (List.mem_cons_of_mem _ e))).trans (hend f i hi (fun e => hf (by rw [List.mem_singleton.mp e]; exact List.mem_cons_self))))⟩

/-- What is gone once 48 V are lost (R507, R545). -/
structure Dev.PoweredDown (a b : Dev) : Prop where
  ctx : b.ctx = []
  keys : b.keep.ctx = [] ∧ b.keep.retired = []
  state : b.mmc.state = .standby
  start : b.mmc.start = none
  flash : b.mmc.flash = a.mmc.flash
  boot : ∀ f : Fld, f.reg = .KEEP_BOOT → b.get f 0 = a.get f 0

theorem Dev.powerDown_does (d : Dev) : d.PoweredDown d.powerDown := by
  obtain ⟨hmmc, hregs⟩ := d.resetBrynoa_does
  unfold Dev.powerDown
  simp only
  generalize d.resetBrynoa = e at hmmc hregs
  have hreset := Dev.RegsOutside.resetRegs e computeRegs
  have hmmc' : (e.resetRegs computeRegs).mmc = d.mmc := hmmc
  generalize e.resetRegs computeRegs = x at hreset hmmc'
  generalize hy : (x.dropTenantKeys.loseCompute).lowerDoms (fun _ => true) = y
  have hy' : y.ctx = [] ∧ (y.keep.ctx = [] ∧ y.keep.retired = []) ∧ y.mmc = x.mmc ∧ y.regs = x.regs := by
    rw [← hy]
    exact ⟨rfl, ⟨rfl, rfl⟩, rfl, rfl⟩
  obtain ⟨hctx, hkeys, hym, hyr⟩ := hy'
  have hboot : ∀ f : Fld, f.reg = .KEEP_BOOT → y.get f 0 = d.get f 0 := fun f hf =>
    (Dev.get_of_regs hyr f 0).trans ((hreset f 0 (by decide) (by rw [hf]; decide)).trans (hregs f 0 (by decide) (by rw [hf]; decide)))
  generalize hz : (if y.mmc.unitCmd.isSome then y.put MMC_UNIT_CMD.STATUS 6 else y) = z
  have hz' : y.onlyRegs z ∧ y.RegsOutside z [.MMC_UNIT_CMD] := by
    rw [← hz]
    split
    · exact ⟨.put _ _ _ _, .put _ _ _ _ (by decide) (by decide)⟩
    · exact ⟨.refl y, .refl y _⟩
  refine ⟨by rw [hz'.1.ctx, hctx], by rw [hz'.1.keep]; exact hkeys, rfl, rfl, ?_, fun f hf => ?_⟩
  · show z.mmc.flash = d.mmc.flash
    rw [hz'.1.mmc, hym, hmmc']
  · exact (Dev.get_of_regs rfl f 0).trans ((hz'.2 f 0 (by decide) (by rw [hf]; decide)).trans (hboot f hf))

/-! ### A start that fails -/

theorem Dev.bootSlot_of {a b : Dev} (hflash : b.mmc.flash = a.mmc.flash) (hpref : b.get KEEP_BOOT.PREF 0 = a.get KEEP_BOOT.PREF 0) (f : Fuses) (kind : Nat) :
    b.bootSlot f kind = a.bootSlot f kind := by
  unfold Dev.bootSlot Dev.slotRuns Dev.slotAtFlash
  rw [hflash, hpref]

/-- A failed start, recorded, powered down and counted. -/
def Dev.downFailed (d : Dev) (source unit cause : Nat) : Dev := (d.logError 4 source unit cause 0 0 0).powerDown.count KEEP_BOOT.FAILS

theorem Dev.startFails_eq (d : Dev) (f : Fuses) (source unit cause : Nat) : d.startFails f source unit cause =
    (let d := d.downFailed source unit cause
     if 3 ≤ d.get KEEP_BOOT.FAILS then
       if (d.bootSlot f imgRecovery).isSome then
         let d := (d.bootKind f imgRecovery).raiseDoms [418]
         { d with mmc := { d.mmc with state := .recovery } }
       else d
     else { d with mmc := { d.mmc with retry := true } }) := rfl

theorem Dev.downFailed_does (d : Dev) (source unit cause : Nat) : (d.downFailed source unit cause).ctx = []
    ∧ ((d.downFailed source unit cause).keep.ctx = [] ∧ (d.downFailed source unit cause).keep.retired = [])
    ∧ (d.downFailed source unit cause).mmc.state = .standby ∧ (d.downFailed source unit cause).mmc.start = none
    ∧ (d.downFailed source unit cause).get KEEP_BOOT.FAILS 0 = Nat.min (d.get KEEP_BOOT.FAILS 0 + 1) 3
    ∧ ∀ f k, (d.downFailed source unit cause).bootSlot f k = d.bootSlot f k := by
  have hlog := Dev.Reports.logError d 4 source unit cause 0 0 0
  have hdown := (d.logError 4 source unit cause 0 0 0).powerDown_does
  unfold Dev.downFailed
  generalize d.logError 4 source unit cause 0 0 0 = e at hlog hdown
  have hflash : e.mmc.flash = d.mmc.flash := (Dev.Quiet.of_reports hlog).mmc_field Mmc.flash (fun _ _ => rfl)
  have hboot : ∀ f : Fld, f.reg = .KEEP_BOOT → e.powerDown.get f 0 = d.get f 0 := fun f hf =>
    (hdown.boot f hf).trans (hlog.regs f 0 (by decide) (by rw [hf]; decide) (by rw [hf]; decide))
  have hflash' := hdown.flash.trans hflash
  generalize e.powerDown = x at hdown hboot hflash'
  refine ⟨?_, ?_, ?_, ?_, ?_, fun f k => Dev.bootSlot_of ?_ ?_ f k⟩
  · rw [Dev.count_ctx]; exact hdown.ctx
  · rw [Dev.count_keep]; exact hdown.keys
  · rw [Dev.count_mmc]; exact hdown.state
  · rw [Dev.count_mmc]; exact hdown.start
  · rw [Dev.get_count_self _ _ _ _ (by decide), hboot _ rfl]
    rfl
  · rw [Dev.count_mmc]; exact hflash'
  · rw [Dev.count, get_put_clear _ _ (by decide) (by decide) (by decide)]
    exact hboot _ rfl

/-- A start that fails for the first or the second time (R511). -/
theorem Dev.startFails_again (d : Dev) (f : Fuses) (source unit cause : Nat) (h : d.get KEEP_BOOT.FAILS 0 < 2) :
    d.FailedOnce (d.startFails f source unit cause) := by
  obtain ⟨hctx, hkeys, hst, hstart, hfails, -⟩ := d.downFailed_does source unit cause
  rw [Dev.startFails_eq]
  simp only
  generalize d.downFailed source unit cause = x at hctx hkeys hst hstart hfails
  have hmin : Nat.min (d.get KEEP_BOOT.FAILS 0 + 1) 3 = d.get KEEP_BOOT.FAILS 0 + 1 := Nat.min_eq_left (by omega)
  rw [hmin] at hfails
  rw [if_neg (by omega)]
  exact ⟨hst, hstart, rfl, (Dev.get_of_regs rfl _ _).trans hfails, hctx, hkeys⟩

/-- A start that fails for the third time (R512). -/
theorem Dev.startFails_third (d : Dev) (f : Fuses) (source unit cause : Nat) (h : 2 ≤ d.get KEEP_BOOT.FAILS 0) :
    (d.startFails f source unit cause).mmc.state = if (d.bootSlot f imgRecovery).isSome then .recovery else .standby := by
  obtain ⟨-, -, hst, -, hfails, hboot⟩ := d.downFailed_does source unit cause
  rw [Dev.startFails_eq]
  simp only
  generalize d.downFailed source unit cause = x at hst hfails hboot
  have hmin : Nat.min (d.get KEEP_BOOT.FAILS 0 + 1) 3 = 3 := Nat.min_eq_right (by omega)
  rw [if_pos (by omega), hboot]
  split
  · rfl
  · exact hst

end Sys2Proof.Machine
end

section
/-! How starts end (R509 to R512). -/

namespace Sys2Proof.Machine

open Sys2Proof.Laws

/-- What a cold start sets before memory and units: the images that run, the module's serial number, the fuses. -/
def Dev.coldRegs (d : Dev) (f : Fuses) : Dev :=
  let d := (List.range 5).foldl (fun d k => d.bootKind f k) d
  let d := d.put BRY_SERIAL.SERIAL Config.serial.toNat
  ((List.range 6).foldl (fun d k => d.put KEEP_SVN.MIN (f.minSvn k) k) d).put KEEP_STAT.ERASES f.erases

/-- The system key alone is loaded. -/
def Dev.systemKeyAlone (d : Dev) : Dev := { d with keep := { d.keep with slots := tblSet false [] 0 true, ctx := [], retired := [] } }

/-- The domains that a start raises. -/
def startDoms : List Nat := List.range 376 ++ (List.range 24).map (· + 419)

theorem Dev.coldDone_eq (d : Dev) (f : Fuses) (failed : List (W16 × Bool)) : d.coldDone f failed =
    { dev := (((((d.coldRegs f).loseCompute.systemKeyAlone).raiseDoms startDoms).startUnits failed).ready).bringBrynoa failed, mem := clearAll } := rfl

/-- A cold start ends READY, with no context, no owner but the base ones and the system key alone. -/
theorem Dev.coldDone_does (d : Dev) (f : Fuses) (failed : List (W16 × Bool)) : (d.coldDone f failed).dev.mmc.state = .ready
    ∧ (d.coldDone f failed).dev.mmc.start = none ∧ (d.coldDone f failed).dev.ctx = [] ∧ (d.coldDone f failed).dev.own = Own.init
    ∧ (d.coldDone f failed).dev.thr = [] ∧ (d.coldDone f failed).dev.keep.slots = [(0, true)] ∧ (d.coldDone f failed).dev.keep.ctx = []
    ∧ (d.coldDone f failed).dev.keep.retired = [] := by
  rw [Dev.coldDone_eq]
  simp only
  generalize d.coldRegs f = x
  have hlost : x.loseCompute.systemKeyAlone.ctx = [] ∧ x.loseCompute.systemKeyAlone.own = Own.init ∧ x.loseCompute.systemKeyAlone.thr = []
    ∧ x.loseCompute.systemKeyAlone.keep.slots = [(0, true)] ∧ x.loseCompute.systemKeyAlone.keep.ctx = []
    ∧ x.loseCompute.systemKeyAlone.keep.retired = [] := ⟨rfl, rfl, rfl, rfl, rfl, rfl⟩
  generalize x.loseCompute.systemKeyAlone = y at hlost
  obtain ⟨hctx, hown, hthr, hslots, hkctx, hret⟩ := hlost
  generalize startDoms = xs
  have h1 := (y.raiseDoms_brought xs).kept.trans (Dev.startUnits_kept _ failed)
  generalize (y.raiseDoms xs).startUnits failed = u at h1
  have hfree : ∀ c, (u.ctxAt c).state = .free := fun c => by
    rw [Dev.ctxAt, h1.ctx, hctx]
    rfl
  obtain ⟨h2, hst, hstart⟩ := u.ready_does hfree
  generalize u.ready = v at h2 hst hstart
  have h3 := v.bringBrynoa_brought failed
  generalize v.bringBrynoa failed = w at h3
  have hkept := (h1.trans h2).trans h3.kept
  exact ⟨by rw [h3.mmc, hst], by rw [h3.mmc, hstart], by rw [hkept.ctx, hctx], by rw [hkept.own, hown], by rw [hkept.thr, hthr],
    by rw [hkept.keep, hslots], by rw [hkept.keep, hkctx], by rw [hkept.keep, hret]⟩

/-- A warm start that leaves the Brynoa die running ends READY where no context stands, and frees the tenants' units. -/
theorem Dev.warmDone_does (d : Dev) (failed : List (W16 × Bool)) (hfree : ∀ c, (d.ctxAt c).state = .free) :
    (d.warmDone false failed).dev.mmc.state = .ready ∧ (d.warmDone false failed).dev.mmc.start = none
    ∧ (d.warmDone false failed).dev.keep = d.keep
    ∧ (d.warmDone false failed).dev.own = d.own.setOwners (d.own.listed (· = .freeDirty)) .freeClean := by
  have hform : (d.warmDone false failed).dev = ((((d.withOwn (d.own.setOwners (d.own.listed (· = .freeDirty)) .freeClean)).raiseDoms startDoms).startUnits
    failed).ready) := rfl
  rw [hform]
  generalize d.own.setOwners (d.own.listed (· = .freeDirty)) .freeClean = o
  generalize startDoms = xs
  have h1 := ((d.withOwn o).raiseDoms_brought xs).kept.trans (Dev.startUnits_kept _ failed)
  generalize ((d.withOwn o).raiseDoms xs).startUnits failed = u at h1
  have hfree' : ∀ c, (u.ctxAt c).state = .free := fun c => by
    rw [Dev.ctxAt, h1.ctx]
    exact hfree c
  obtain ⟨h2, hst, hstart⟩ := u.ready_does hfree'
  have hkept := h1.trans h2
  exact ⟨hst, hstart, hkept.keep, hkept.own⟩

end Sys2Proof.Machine

namespace Sys2Proof.Proofs

open Sys2Proof.Machine Sys2Proof.Laws

/-- Settles O22: a start that ends by what the cold and the warm end leave, one that fails by the power-down and the count. -/
theorem startEnds : Obligations.StartEnds := by
  unfold Obligations.StartEnds
  refine ⟨⟨fun failed s hstart hon himg => ?_, fun failed s hstart hon himg hfree => ?_⟩, fun s hstart hfails => ?_,
    fun k r s hstart hcold hk hnone hfails => ?_, fun k r s hstart hcold hsome => ?_, fun u r s hstart hdie hvalid ha hc hfails => ?_,
    fun s hstart hfails => ?_⟩
  · obtain ⟨h1, h2, h3, h4, h5, h6, h7, h8⟩ := s.dev.coldDone_does s.fuse failed
    refine answers_of_act rfl (r := s.dev.coldDone s.fuse failed) ?_ ?_
    · simp only [hstart, hon, himg, Bool.not_true, Bool.or_self, Bool.false_eq_true, if_false, if_true]
    · exact ⟨rfl, rfl, rfl, h1, h2, h3, h4, h5, h6, h7, h8⟩
  · obtain ⟨h1, h2, h3, h4⟩ := s.dev.warmDone_does failed hfree
    refine answers_of_act rfl (r := s.dev.warmDone false failed) ?_ ?_
    · simp only [hstart, hon, himg, Bool.not_true, Bool.or_self, Bool.false_eq_true, if_false]
    · exact ⟨rfl, rfl, rfl, h1, h2, h3, h4⟩
  · refine answers_device (d := s.dev.startFails s.fuse 2 0xFFFF 0x0041) rfl ?_ fun t ht hdev => ⟨ht, by rw [hdev]; exact s.dev.startFails_again _ _ _ _ hfails⟩
    simp only [hstart, if_true]
  · refine answers_device (d := s.dev.startFails s.fuse 1 0xFFFF 0x0040) rfl ?_ fun t ht hdev => ⟨ht, by rw [hdev]; exact s.dev.startFails_again _ _ _ _ hfails⟩
    simp only [hstart, hcold, hk, hnone, if_true, decide_true, Option.isNone_none, Bool.and_self]
  · refine answers_of_dev (d := s.dev) rfl ?_ rfl
    have hbad : (s.dev.bootSlot s.fuse k.val).isNone = false := by simp [hsome]
    simp only [hstart, hcold, hbad, if_true, Bool.and_false, Bool.false_eq_true, if_false]
  · refine answers_device (d := s.dev.startFails s.fuse 0 u.toNat 0x0011) rfl ?_ fun t ht hdev => ⟨ht, by rw [hdev]; exact s.dev.startFails_again _ _ _ _ hfails⟩
    simp only [hstart, hdie, hvalid, ha, hc, decide_true, ne_eq, not_false_eq_true, Bool.and_self, if_true]
  · refine answers_device (d := s.dev.startFails s.fuse 2 0xFFFF 0x0041) rfl ?_ fun t ht hdev => ⟨ht, by rw [hdev]; exact s.dev.startFails_third _ _ _ _ hfails⟩
    simp only [hstart, if_true]

end Sys2Proof.Proofs
end

section
/-! Resets of the module (R507, R513, R514). -/

namespace Sys2Proof.Machine

open Sys2Proof.Laws

/-! ### Cold -/

/-- What a cold reset begins with. -/
def Dev.coldInit (d : Dev) (clearFails : Bool) : Dev :=
  let d0 := { Dev.init with
    pwr := { Power.init with vsb12 := true, vin48 := d.pwr.vin48, seat := d.pwr.seat, vinOn := d.pwr.vinOn },
    mmc := { Mmc.init with log := d.mmc.log, seq := d.mmc.seq, flash := d.mmc.flash, overVolt := d.mmc.overVolt },
    hostMem := d.hostMem, out := d.out, cclk := d.cclk, free := d.free, nextFlight := d.nextFlight }
  let d0 := d0.put KEEP_BOOT.FAILS (if clearFails then 0 else d.get KEEP_BOOT.FAILS)
  d0.put MMC_LOG_SEL.OVERFLOW (d.get MMC_LOG_SEL.OVERFLOW)

theorem Dev.coldReset_eq (d : Dev) (clearFails : Bool) : d.coldReset clearFails =
    (if d.flag MMC_RESET.REMOVE_OK then (d.coldInit clearFails).emit (.pin 10 false) else d.coldInit clearFails).showContacts.coldStart := rfl

theorem Dev.coldInit_does (d : Dev) (clearFails : Bool) : (d.coldInit clearFails).ctx = [] ∧ (d.coldInit clearFails).own = Own.init
    ∧ (d.coldInit clearFails).keep = Keeper.init ∧ (d.coldInit clearFails).mmc.log = d.mmc.log ∧ (d.coldInit clearFails).mmc.flash = d.mmc.flash
    ∧ ((d.coldInit clearFails).pwr.vin48 = d.pwr.vin48 ∧ (d.coldInit clearFails).pwr.vinOn = d.pwr.vinOn
      ∧ (d.coldInit clearFails).pwr.seat = d.pwr.seat) ∧ (d.coldInit clearFails).hostMem = d.hostMem := by
  unfold Dev.coldInit
  simp only
  generalize (if clearFails then 0 else d.get KEEP_BOOT.FAILS) = a
  generalize d.get MMC_LOG_SEL.OVERFLOW = b
  generalize hE : ({ Dev.init with pwr := _, mmc := _, hostMem := _, out := _, cclk := _, free := _, nextFlight := _ } : Dev) = E
  have h : E.onlyRegs ((E.put KEEP_BOOT.FAILS a).put MMC_LOG_SEL.OVERFLOW b) := (Dev.onlyRegs.put E _ _ _).trans (.put _ _ _ _)
  rw [h, ← hE]
  exact ⟨rfl, rfl, rfl, rfl, rfl, ⟨rfl, rfl, rfl⟩, rfl⟩

theorem Dev.coldReset_does (d : Dev) (clearFails : Bool) : d.ColdReset (d.coldReset clearFails) := by
  obtain ⟨hctx, hown, hkeep, hlog, hflash, hrails, hmem⟩ := d.coldInit_does clearFails
  rw [Dev.coldReset_eq]
  generalize d.coldInit clearFails = x at hctx hown hkeep hlog hflash hrails hmem
  obtain ⟨y, hy⟩ : ∃ y, y = if d.flag MMC_RESET.REMOVE_OK then x.emit (.pin 10 false) else x := ⟨_, rfl⟩
  have hout : ∃ o, y = { x with out := o } := by
    rw [hy]
    split
    · exact ⟨_, rfl⟩
    · exact ⟨x.out, rfl⟩
  rw [← hy]
  obtain ⟨o, hyx⟩ := hout
  have hshow := y.showContacts_onlyRegs
  have hstart := y.showContacts.coldStart_starts
  obtain ⟨r, o', hform⟩ := y.showContacts.coldStart_form
  generalize y.showContacts.coldStart = t at hstart hform
  generalize y.showContacts = z at hshow hform
  have hz : z.ctx = [] ∧ z.own = Own.init ∧ z.keep = Keeper.init ∧ z.mmc.log = d.mmc.log ∧ z.mmc.flash = d.mmc.flash
      ∧ (z.pwr.vin48 = d.pwr.vin48 ∧ z.pwr.vinOn = d.pwr.vinOn ∧ z.pwr.seat = d.pwr.seat) ∧ z.hostMem = d.hostMem := by
    rw [hshow, hyx]
    exact ⟨hctx, hown, hkeep, hlog, hflash, hrails, hmem⟩
  obtain ⟨zctx, zown, zkeep, zlog, zflash, zrails, zmem⟩ := hz
  subst hform
  exact ⟨hstart, zctx, zown, (congrArg Keeper.slots zkeep).trans rfl,
    ⟨(congrArg Keeper.ctx zkeep).trans rfl, (congrArg Keeper.retired zkeep).trans rfl⟩, zlog, zflash, zrails, zmem⟩

/-! ### What kills leave of the system key and of MMC_RESET -/

/-- The system key's slot and the register of resets stay. -/
structure Dev.KillKeeps (a b : Dev) : Prop where
  slot : b.slotLoaded 0 = a.slotLoaded 0
  regs : ∀ f : Fld, f.reg = .MMC_RESET → b.get f 0 = a.get f 0

namespace Dev.KillKeeps

variable {a b c : Dev}

theorem refl : a.KillKeeps a := ⟨rfl, fun _ _ => rfl⟩

theorem trans (h : a.KillKeeps b) (g : b.KillKeeps c) : a.KillKeeps c := ⟨g.slot.trans h.slot, fun f hf => (g.regs f hf).trans (h.regs f hf)⟩

theorem of_same (hk : b.keep = a.keep) (hr : b.regs = a.regs) : a.KillKeeps b :=
  ⟨by rw [Dev.slotLoaded, hk, Dev.slotLoaded], fun f _ => Dev.get_of_regs hr f 0⟩

theorem of_reports (h : a.Reports b) : a.KillKeeps b :=
  ⟨by rw [Dev.slotLoaded, h.keep, Dev.slotLoaded], fun f hf => h.regs f 0 (by decide) (by rw [hf]; decide) (by rw [hf]; decide)⟩

theorem of_put {f : Fld} {v i : Nat} (hf : f.reg ≠ .MMC_RESET) (hi : i < 1024) : a.KillKeeps (a.put f v i) :=
  ⟨rfl, fun g hg => get_put_ne a f g v i 0 (regKey_ne (by decide) hi (by rw [hg]; exact fun e => hf e.symm))⟩

theorem of_slot {k : Nat} {v : Bool} (hk : k ≠ 0) : a.KillKeeps (a.putSlot k v) := ⟨tblGet_set_ne (Ne.symm hk), fun f _ => Dev.get_of_regs rfl f 0⟩

theorem ite {r : Prop} [Decidable r] (hb : a.KillKeeps b) (hc : a.KillKeeps c) : a.KillKeeps (if r then b else c) := by
  split
  · exact hb
  · exact hc

theorem foldl {A : Type} {f : Dev → A → Dev} (hf : ∀ (d : Dev) (x : A), d.KillKeeps (f d x)) (l : List A) (d : Dev) : d.KillKeeps (l.foldl f d) :=
  foldl_keeps (P := fun b => d.KillKeeps b) (fun b x hb => hb.trans (hf b x)) l d refl

theorem of_settle {d : Dev} : d.KillKeeps d.settleModule := by
  obtain ⟨r, st, h⟩ := d.settleModule_changes
  have hregs := Dev.RegsOutside.settleModule d (rs := [.BRY_LS_STAT]) (by decide)
  exact ⟨by rw [h]; rfl, fun f hf => hregs f 0 (by decide) (by rw [hf]; decide)⟩

end Dev.KillKeeps

theorem Dev.wipeCore_keeps (d : Dev) (k : Nat) : d.KillKeeps (d.wipeCore k) := by
  unfold Dev.wipeCore
  exact .of_same rfl rfl

theorem Dev.KillKeeps.modCtx {d : Dev} {c : CtxId} {f : Ctx → Ctx} : d.KillKeeps (d.modCtx c f) := .of_same rfl rfl

theorem Dev.invalidate_keeps (d : Dev) (c : CtxId) (va : Option Nat) : d.KillKeeps (d.invalidate c va) := .of_same rfl rfl

theorem Dev.killFree_keeps (d : Dev) (c : CtxId) : d.KillKeeps (d.killFree c) := by
  unfold Dev.killFree
  exact .of_same rfl rfl

theorem Dev.KillKeeps.modCq {d : Dev} {r : CqRef} {f : CqRec → CqRec} : d.KillKeeps (d.modCq r f) := .of_same rfl rfl

theorem Dev.revoke_keeps (d : Dev) (i : Nat) (c : CtxId) : d.KillKeeps (d.revoke i c) := by
  unfold Dev.revoke
  split
  · exact .refl
  · simp only
    split
    · exact Dev.KillKeeps.trans (b := d.withOwn (d.own.dropImage i)) (.of_same rfl rfl) (.of_slot (by omega))
    · exact .of_same rfl rfl

theorem Dev.dropKeys_keeps (d : Dev) (c : CtxId) : d.KillKeeps (d.dropKeys c) := by
  unfold Dev.dropKeys
  simp only
  have h1 : d.KillKeeps (d.putSlot (c.val + 1) false) := .of_slot (by omega)
  generalize d.putSlot (c.val + 1) false = e at h1
  have h2 : d.KillKeeps (if e.keep.debug = DebugOpen.context c then e.put KEEP_DBG_CTL.OPEN 0 else e) :=
    .ite (h1.trans (.of_put (by decide) (by decide))) h1
  generalize (if e.keep.debug = DebugOpen.context c then e.put KEEP_DBG_CTL.OPEN 0 else e) = x at h2
  generalize hE : ({ x with keep := _ } : Dev) = E
  have h3 : x.KillKeeps E := by
    rw [← hE]
    exact ⟨rfl, fun f _ => Dev.get_of_regs rfl f 0⟩
  exact (h2.trans h3).trans (.foldl (fun b i => .ite (b.revoke_keeps i c) .refl) _ E)

theorem Dev.dropEthQueues_keeps (d : Dev) (c : CtxId) : d.KillKeeps (d.dropEthQueues c) := by
  unfold Dev.dropEthQueues
  generalize hl : List.range 64 = l
  have hlt : ∀ q ∈ l, q < 1024 := fun q hq => by
    rw [← hl] at hq
    have := List.mem_range.mp hq
    omega
  clear hl
  induction l generalizing d with
  | nil => exact .refl
  | cons q qs ih =>
    rw [List.foldl_cons]
    refine Dev.KillKeeps.trans (.ite ?_ .refl) (ih _ (fun x hx => hlt x (List.mem_cons_of_mem _ hx)))
    exact ⟨rfl, fun f hf => (Dev.get_of_regs rfl f 0).trans
      (d.resetRegsAt_get _ q (hlt q List.mem_cons_self) f 0 (by decide) (by rw [hf]; decide))⟩

theorem Dev.kill_keeps (d : Dev) (c : CtxId) (n : Nat) (x : Option Fetched) : d.KillKeeps (d.kill c n x).1 := by
  unfold Dev.kill
  simp only
  split
  · exact .refl
  · have habort : d.KillKeeps ((match x with | some f => d.dropFetched f | none => d).abortAll c) := by
      cases x with
      | none => exact .of_reports (Dev.Reports.abortAll d c)
      | some f => exact .of_reports ((Dev.Reports.dropFetched d f).trans (Dev.Reports.abortAll _ c))
    have hwiped := habort.trans (.foldl (fun b k => b.wipeCore_keeps k) (d.ctxAt c).cores _)
    exact ((hwiped.trans (Dev.dropKeys_keeps _ c)).trans (Dev.dropEthQueues_keeps _ c)).trans
      ((Dev.invalidate_keeps _ c none).trans (Dev.KillKeeps.modCtx.trans .of_settle))

theorem killAll_keeps (n : Nat) : ∀ (cs : List CtxId) (f : Fuses) (m : Mem) (d : Dev), d.KillKeeps (killAll cs n f m d).dev
  | [], _, _, _ => .refl
  | c :: cs, f, m, d => (d.kill_keeps c n none).trans (killAll_keeps n cs f (m.apply (d.kill c n none).2) (d.kill c n none).1)

theorem Dev.closeRings_keeps (d : Dev) (c : CtxId) : d.KillKeeps (d.closeRings c) := by
  have hfold : ∀ (l : List Nat) (b : Dev), (∀ i ∈ l, i < 8) → b.KillKeeps (l.foldl (fun d i => d.put HOST_SQ_CFG.EN 0 (c.val * 8 + i)) b) := by
    intro l
    induction l with
    | nil => exact fun b _ => .refl
    | cons i l ih =>
      intro b hl
      have hi := hl i List.mem_cons_self
      exact Dev.KillKeeps.trans (.of_put (by decide) (by omega)) (ih _ (fun x hx => hl x (List.mem_cons_of_mem _ hx)))
  unfold Dev.closeRings
  have h1 := hfold (List.range 8) d (fun i hi => List.mem_range.mp hi)
  generalize (List.range 8).foldl (fun d i => d.put HOST_SQ_CFG.EN 0 (c.val * 8 + i)) d = e at h1
  have h2 : e.KillKeeps (e.put HOST_CQ_CFG.EN 0 c.val) := .of_put (by decide) (by omega)
  exact (h1.trans h2).trans .modCq

theorem Dev.killDone_keeps (d : Dev) (c : CtxId) : d.KillKeeps (d.killDone c) := by
  unfold Dev.killDone
  exact (((d.killFree_keeps c).trans (.of_reports (Dev.Reports.killReport _ c))).trans (Dev.closeRings_keeps _ c)).trans (Dev.KillKeeps.modCtx.trans .of_settle)

theorem killOff_keeps (n : Nat) (f : Fuses) (m : Mem) (d : Dev) : d.KillKeeps (killOff allCtx n f m d).dev := by
  rw [killOff, andThen_dev]
  exact (killAll_keeps n allCtx f m d).trans (.foldl (fun b c => .ite (b.killDone_keeps c) .refl) allCtx _)

end Sys2Proof.Machine
end

section
/-! Warm resets, and when a reset is refused (R507, R510, R513, R514). -/

namespace Sys2Proof.Machine

open Sys2Proof.Laws

/-- What holds of every value that a table's entries become, and of its default, holds of each of its values. -/
theorem tblGet_map_all {V : Type} [DecidableEq V] {e : V} {f : Nat → V → V} {P : V → Prop} (he : P e) (hf : ∀ k v, P (f k v)) (t : Tbl V) (k : Nat) :
    P (tblGet e (tblMap e f t) k) := by
  have hget : ∀ t : Tbl V, (∀ x ∈ t, P x.2) → P (tblGet e t k) := by
    intro t
    induction t with
    | nil => exact fun _ => he
    | cons x xs ih =>
      intro h
      obtain ⟨j, v⟩ := x
      rw [tblGet]
      split
      · exact h (j, v) List.mem_cons_self
      · exact ih (fun y hy => h y (List.mem_cons_of_mem _ hy))
  refine hget _ fun x hx => ?_
  simp only [tblMap, List.mem_filter, List.mem_map] at hx
  obtain ⟨⟨y, -, rfl⟩, -⟩ := hx
  exact hf _ _

/-- What a reset of the Brynoa die leaves, and what it empties. -/
theorem Dev.resetBrynoa_leaves (d : Dev) : d.resetBrynoa.ctx = d.ctx ∧ d.resetBrynoa.keep.slots = d.keep.slots
    ∧ d.resetBrynoa.host = HostIf.init ∧ d.resetBrynoa.lnk = [] ∧ d.resetBrynoa.rte = Rte.init ∧ d.resetBrynoa.eth = Eth.init := by
  have hctx : (d.endSessions (fun _ => true)).ctx = d.ctx := Dev.put_ctx ..
  have hslots : (d.endSessions (fun _ => true)).keep.slots = d.keep.slots := (congrArg Keeper.slots (Dev.put_keep _ _ _ _)).trans rfl
  unfold Dev.resetBrynoa
  simp only
  generalize d.endSessions (fun _ => true) = e at hctx hslots
  exact ⟨hctx, hslots, rfl, rfl, rfl, rfl⟩

/-- What a warm start does once the contexts are gone. -/
def Dev.warmBegin (brynoa : Bool) (d : Dev) : Dev :=
  let d := if brynoa then d.resetBrynoa else d
  let d := (d.resetRegs computeRegs).dropTenantKeys.lowerDoms (fun x => !isBrynoaDom x)
  let d := if d.mmc.unitCmd.isSome then d.put MMC_UNIT_CMD.STATUS 6 else d
  let d := (d.put KEEP_ALARM.LEVEL 0).put MMC_TRACE.EN 0
  { d with thr := [], que := [], past := [], regn := [], slotCnt := [], full := [], flight := [], eng := [], gens := [], str := [],
           mmc := { d.mmc with
             state := .training, start := some ⟨false, brynoa⟩, unitCmd := none, routed := 0,
             units := tblMap UnitRec.init (fun _ u => { u with state := .out }) d.mmc.units } }

theorem warmReset_eq (brynoa : Bool) : warmReset brynoa = (killOff allCtx 0x8001).andThen (Act.dev (Dev.warmBegin brynoa)) := rfl

/-- The compute dies' part of a warm start, before the module is in TRAINING. -/
def Dev.computeReset (d : Dev) : Dev :=
  let d := (d.resetRegs computeRegs).dropTenantKeys.lowerDoms (fun x => !isBrynoaDom x)
  let d := if d.mmc.unitCmd.isSome then d.put MMC_UNIT_CMD.STATUS 6 else d
  (d.put KEEP_ALARM.LEVEL 0).put MMC_TRACE.EN 0

theorem Dev.computeReset_does (d : Dev) : d.computeReset.ctx = d.ctx ∧ d.computeReset.keep.slots = tblDrop (fun k => k ≠ 0) d.keep.slots
    ∧ (d.computeReset.keep.ctx = [] ∧ d.computeReset.keep.retired = []) ∧ d.computeReset.host = d.host ∧ d.computeReset.lnk = d.lnk
    ∧ d.computeReset.rte = d.rte ∧ d.computeReset.eth = d.eth := by
  unfold Dev.computeReset
  simp only
  generalize hx : (d.resetRegs computeRegs).dropTenantKeys.lowerDoms (fun x => !isBrynoaDom x) = x
  have hx' : x.ctx = d.ctx ∧ x.keep.slots = tblDrop (fun k => k ≠ 0) d.keep.slots ∧ (x.keep.ctx = [] ∧ x.keep.retired = []) ∧ x.host = d.host
      ∧ x.lnk = d.lnk ∧ x.rte = d.rte ∧ x.eth = d.eth := by
    rw [← hx]
    exact ⟨rfl, rfl, ⟨rfl, rfl⟩, rfl, rfl, rfl, rfl⟩
  generalize hy : (if x.mmc.unitCmd.isSome then x.put MMC_UNIT_CMD.STATUS 6 else x) = y
  have hy' : x.onlyRegs y := by
    rw [← hy]
    split
    · exact .put _ _ _ _
    · exact .refl x
  have h : x.onlyRegs ((y.put KEEP_ALARM.LEVEL 0).put MMC_TRACE.EN 0) := (hy'.trans (.put _ _ _ _)).trans (.put _ _ _ _)
  rw [h]
  exact hx'

theorem Dev.warmBegin_starts (a d : Dev) (brynoa : Bool) (hfree : ∀ c, (d.ctxAt c).state = .free) (hslot : d.slotLoaded 0 = a.slotLoaded 0) :
    a.WarmStarting (d.warmBegin brynoa) brynoa ∧ (brynoa = true → (d.warmBegin brynoa).host = HostIf.init ∧ (d.warmBegin brynoa).lnk = []
      ∧ (d.warmBegin brynoa).rte = Rte.init ∧ (d.warmBegin brynoa).eth = Eth.init) := by
  obtain ⟨hctx, hslots, hhost, hlnk, hrte, heth⟩ := d.resetBrynoa_leaves
  obtain ⟨e, he⟩ : ∃ e, e = if brynoa then d.resetBrynoa else d := ⟨_, rfl⟩
  have hectx : e.ctx = d.ctx := by rw [he]; split <;> [exact hctx; rfl]
  have heslots : e.keep.slots = d.keep.slots := by rw [he]; split <;> [exact hslots; rfl]
  have hinit : brynoa = true → e.host = HostIf.init ∧ e.lnk = [] ∧ e.rte = Rte.init ∧ e.eth = Eth.init := fun h => by
    rw [he, if_pos h]
    exact ⟨hhost, hlnk, hrte, heth⟩
  have hform : d.warmBegin brynoa = { e.computeReset with
      thr := [], que := [], past := [], regn := [], slotCnt := [], full := [], flight := [], eng := [], gens := [], str := [],
      mmc := { e.computeReset.mmc with
        state := .training, start := some ⟨false, brynoa⟩, unitCmd := none, routed := 0,
        units := tblMap UnitRec.init (fun _ u => { u with state := .out }) e.computeReset.mmc.units } } := by
    rw [he]
    rfl
  obtain ⟨cctx, cslots, ckeys, chost, clnk, crte, ceth⟩ := e.computeReset_does
  rw [hform]
  generalize e.computeReset = x at cctx cslots ckeys chost clnk crte ceth
  refine ⟨⟨rfl, rfl, fun c => ?_, fun k hk => ?_, ?_, ckeys, fun g => ?_, rfl⟩, fun h => ?_⟩
  · show (tblGet Ctx.init x.ctx c.val).state = .free
    rw [cctx, hectx]
    exact hfree c
  · show tblGet false x.keep.slots k = false
    rw [cslots]
    exact tblGet_drop_of (by simpa using hk)
  · show tblGet false x.keep.slots 0 = _
    rw [cslots, tblGet_drop_of_not (by simp), heslots, ← hslot]
    rfl
  · exact tblGet_map_all (P := fun u : UnitRec => u.state = .out) (f := fun _ (u : UnitRec) => { u with state := .out }) rfl (fun _ _ => rfl) x.mmc.units g
  · obtain ⟨h1, h2, h3, h4⟩ := hinit h
    exact ⟨chost.trans h1, clnk.trans h2, crte.trans h3, ceth.trans h4⟩

/-- A warm reset: no fuse changes, and the module starts warm. -/
theorem warmReset_does (brynoa : Bool) (f : Fuses) (m : Mem) (d : Dev) : (warmReset brynoa f m d).fuse = []
    ∧ d.WarmStarting (warmReset brynoa f m d).dev brynoa ∧ (brynoa = true → (warmReset brynoa f m d).dev.host = HostIf.init
      ∧ (warmReset brynoa f m d).dev.lnk = [] ∧ (warmReset brynoa f m d).dev.rte = Rte.init ∧ (warmReset brynoa f m d).dev.eth = Eth.init) := by
  have hfree := fun c => killOff_frees 0x8001 f m d c
  have hkeeps := killOff_keeps 0x8001 f m d
  refine ⟨Act.SparesFuses.warmReset brynoa f m d, ?_⟩
  rw [warmReset_eq, andThen_dev]
  exact Dev.warmBegin_starts d _ brynoa hfree hkeeps.slot

/-! ### Orders of MMC_RESET -/

theorem Dev.ColdReset.of_regs {a b t : Dev} (h : a.onlyRegs b) (g : b.ColdReset t) : a.ColdReset t :=
  ⟨g.toColdStarting, g.ctx, g.own, g.slots, g.keys, g.log.trans (by rw [h]), g.flash.trans (by rw [h]),
    ⟨g.rails.1.trans (by rw [h]), g.rails.2.1.trans (by rw [h]), g.rails.2.2.trans (by rw [h])⟩, g.hostMem.trans (by rw [h])⟩

theorem Dev.WarmStarting.of_regs {a b t : Dev} {brynoa : Bool} (h : a.onlyRegs b) (g : b.WarmStarting t brynoa) : a.WarmStarting t brynoa :=
  ⟨g.state, g.start, g.free, g.slots, g.system.trans (by rw [Dev.slotLoaded, h.keep, Dev.slotLoaded]), g.keys, g.units, g.thr⟩

/-- Whether a module is in service and its keys stand is no matter of registers. -/
theorem Dev.inService_of_regs {a b : Dev} (h : a.onlyRegs b) : b.inService = a.inService ∧ b.keep.erased = a.keep.erased ∧ b.mmc.state = a.mmc.state := by
  unfold Dev.inService
  rw [h.mmc, h.keep]
  exact ⟨rfl, rfl, rfl⟩

/-- A write of MMC_RESET leaves what decides whether a reset is taken. -/
theorem Dev.resetFields_keep (d : Dev) (w : RegWr) : (d.writeFields .MMC_RESET 0 false w).resetBusy = d.resetBusy := by
  have honly := Dev.onlyRegs.writeFields d .MMC_RESET 0 false w
  have hkeep : (d.writeFields .MMC_RESET 0 false w).get MMC_RESET.REMOVE_OK 0 = d.get MMC_RESET.REMOVE_OK 0 :=
    d.writeFields_keeps MMC_RESET.REMOVE_OK 0 (by decide) (by decide) (by decide) false w (by decide)
  unfold Dev.resetBusy Dev.flag
  rw [honly.mmc, hkeep]

theorem resetWrite_go {d : Dev} {w : RegWr} (hm : d.Manages .MMC_RESET) (hgo : wrSets w MMC_RESET.GO = true) (f : Fuses) (m : Mem) :
    resetWrite w f m d = resetScope ((d.writeFields .MMC_RESET 0 false w).get MMC_RESET.SCOPE) f m (d.writeFields .MMC_RESET 0 false w) := by
  rw [resetWrite, mgmtAct_manages hm]
  simp only [hgo, if_true]

theorem Dev.OrdersReset.resets {d : Dev} {w : RegWr} {k : Nat} (h : d.OrdersReset w k) (f : Fuses) (m : Mem) :
    resetWrite w f m d = resetScope k f m (d.writeFields .MMC_RESET 0 false w) := by
  rw [resetWrite_go h.manages h.go, h.scope]

/-- A reset of scope 2 or 3 that the module takes. -/
theorem resetScope_warm {k : Nat} {brynoa : Bool} (hk : k = 2 ∧ brynoa = false ∨ k = 3 ∧ brynoa = true) {d : Dev} (hidle : d.resetBusy = false)
    (hin : d.inService = true) (her : d.keep.erased = false) (f : Fuses) (m : Mem) :
    resetScope k f m d = warmReset brynoa f m (d.put MMC_RESET.STATUS 0) := by
  have hidle' : ¬ d.resetBusy = true := by rw [hidle]; decide
  have htaken : (d.inService && !d.keep.erased) = true := by rw [hin, her]; rfl
  unfold resetScope
  rw [if_neg hidle']
  generalize hr : warmReset brynoa f m (d.put MMC_RESET.STATUS 0) = r
  rcases hk with ⟨rfl, rfl⟩ | ⟨rfl, rfl⟩
  · exact (if_pos htaken).trans hr
  · exact (if_pos htaken).trans hr

/-- A reset of scope 2 or 3 of a module in which ERASE has acted is refused. -/
theorem resetScope_erased {k : Nat} (hk : k = 2 ∨ k = 3) {d : Dev} (hidle : d.resetBusy = false) (her : d.keep.erased = true) (f : Fuses) (m : Mem) :
    resetScope k f m d = { dev := d.put MMC_RESET.STATUS 2 } := by
  have hidle' : ¬ d.resetBusy = true := by rw [hidle]; decide
  have hnot : ¬ (d.inService && !d.keep.erased) = true := by rw [her]; simp
  unfold resetScope
  rw [if_neg hidle']
  rcases hk with rfl | rfl
  · exact if_neg hnot
  · exact if_neg hnot

/-- A cold reset of a module that is not in RECOVERY. -/
theorem resetScope_cold {d : Dev} (hidle : d.resetBusy = false) (hst : d.mmc.state ≠ .recovery) (f : Fuses) (m : Mem) :
    resetScope 4 f m d = { dev := d.coldReset (d.flag MMC_RESET.CLRFAIL) } := by
  have hidle' : ¬ d.resetBusy = true := by rw [hidle]; decide
  have hnot : ¬ (d.mmc.state = .recovery && !d.flag MMC_RESET.CLRFAIL) = true := by simp [hst]
  unfold resetScope
  rw [if_neg hidle']
  exact if_neg hnot

/-- No reset is taken while one is under way. -/
theorem resetScope_busy (k : Nat) {d : Dev} (hbusy : d.resetBusy = true) (f : Fuses) (m : Mem) :
    resetScope k f m d = { dev := d.put MMC_RESET.STATUS 1 } := by
  unfold resetScope
  exact if_pos hbusy

/-- A warm reset or a reset of the Brynoa die that is ordered and taken. -/
theorem warmRow_answers {i : Instr} {w : RegWr} {k : Nat} {brynoa : Bool} {s : State} (hk : k = 2 ∧ brynoa = false ∨ k = 3 ∧ brynoa = true)
    (he : exec i s = .next (s.run (resetWrite w))) (ho : s.dev.OrdersReset w k) (hin : s.dev.inService = true) (her : s.dev.keep.erased = false)
    {P : State → Prop} (hP : ∀ t, t.fuse = s.fuse → t.pending = s.pending → s.dev.WarmStarting t.dev brynoa →
      (brynoa = true → t.dev.host = HostIf.init ∧ t.dev.lnk = [] ∧ t.dev.rte = Rte.init ∧ t.dev.eth = Eth.init) → P t) : Answers i s P := by
  have honly := Dev.onlyRegs.writeFields s.dev .MMC_RESET 0 false w
  have hbusy := s.dev.resetFields_keep w
  have hrun := ho.resets s.fuse s.mem
  generalize s.dev.writeFields .MMC_RESET 0 false w = e at honly hbusy hrun
  obtain ⟨h1, h2, -⟩ := Dev.inService_of_regs honly
  rw [resetScope_warm hk (hbusy.trans ho.idle) (h1.trans hin) (h2.trans her)] at hrun
  obtain ⟨hfuse, hwarm, hbry⟩ := warmReset_does brynoa s.fuse s.mem (e.put MMC_RESET.STATUS 0)
  refine answers_of_act he hrun (hP _ ?_ rfl (.of_regs (honly.trans (.put _ _ _ _)) hwarm) hbry)
  rw [hfuse]
  rfl

end Sys2Proof.Machine

namespace Sys2Proof.Proofs

open Sys2Proof.Machine Sys2Proof.Laws

/-- Settles O23: cold resets by what they begin with, warm ones by the kills and what follows them, refusals by the status. -/
theorem moduleResets : Obligations.ModuleResets := by
  unfold Obligations.ModuleResets
  refine ⟨fun w s ho hrec => ?_, fun s hoff hrec hidle => ?_, fun w s ho hin her => ?_, fun w s ho hin her => ?_,
    fun w k s ho hk her i hi => ?_, fun w s hm hgo hbusy i hi => ?_⟩
  · have honly := Dev.onlyRegs.writeFields s.dev .MMC_RESET 0 false w
    have hbusy := s.dev.resetFields_keep w
    have hrun := ho.resets s.fuse s.mem
    generalize s.dev.writeFields .MMC_RESET 0 false w = e at honly hbusy hrun
    obtain ⟨-, -, hst⟩ := Dev.inService_of_regs honly
    exact answers_device rfl (hrun.trans (resetScope_cold (hbusy.trans ho.idle) (hst ▸ hrec) _ _))
      fun t ht hdev => ⟨ht, by rw [hdev]; exact .of_regs honly (e.coldReset_does _)⟩
  · refine answers_device (d := s.dev.coldReset false) rfl ?_ fun t ht hdev => ⟨ht, by rw [hdev]; exact s.dev.coldReset_does false⟩
    simp only [Act.dev, hoff, hrec, hidle, decide_false, Bool.or_self, Bool.false_eq_true, if_false]
  · exact warmRow_answers (.inl ⟨rfl, rfl⟩) rfl ho hin her fun t hf hp hw _ => ⟨hf, hp, hw⟩
  · exact warmRow_answers (.inr ⟨rfl, rfl⟩) rfl ho hin her fun t hf hp hw hb => ⟨hf, hp, hw, hb rfl⟩
  · have honly := Dev.onlyRegs.writeFields s.dev .MMC_RESET 0 false w
    have hbusy := s.dev.resetFields_keep w
    have hrun := ho.resets s.fuse s.mem
    generalize s.dev.writeFields .MMC_RESET 0 false w = e at honly hbusy hrun
    obtain ⟨-, her', -⟩ := Dev.inService_of_regs honly
    have hrefused := hrun.trans (resetScope_erased hk (hbusy.trans ho.idle) (her'.trans her) s.fuse s.mem)
    simp only [List.mem_cons, List.not_mem_nil, or_false] at hi
    rcases hi with rfl | rfl <;> exact answers_of_dev rfl hrefused rfl
  · have hb := s.dev.resetFields_keep w
    have hrefused := (resetWrite_go hm hgo s.fuse s.mem).trans (resetScope_busy _ (hb.trans hbusy) s.fuse s.mem)
    simp only [List.mem_cons, List.not_mem_nil, or_false] at hi
    rcases hi with rfl | rfl | rfl | rfl | rfl <;> exact answers_of_dev rfl hrefused rfl

end Sys2Proof.Proofs
end

section
/-! Units that leave service and come back, and the resets of a die and of the module's ports (R513, R516, R519, R526, R527). -/

namespace Sys2Proof.Machine

open Sys2Proof.Laws

/-! ### Groups leave service -/

theorem Dev.putUnit_at (d : Dev) (g : Nat) (st : UnitState) : ((d.putUnit g st).unitAt g).state = st := by
  unfold Dev.putUnit Dev.modUnit Dev.unitAt
  rw [tblGet_mod_self]

theorem Dev.putUnit_at_ne (d : Dev) {g h : Nat} (st : UnitState) (hne : h ≠ g) : (d.putUnit g st).unitAt h = d.unitAt h := by
  unfold Dev.putUnit Dev.modUnit Dev.unitAt
  rw [tblGet_mod_ne hne]

/-- Memory that is lost changes ownership and keys alone. -/
theorem Dev.loseMemory_frame (d : Dev) (g : Nat) : ∃ o k, d.loseMemory g = { d with own := o, keep := k } := by
  have hfold : ∀ l : List Nat, ∃ o k, l.foldl (fun d i => (d.withOwn (d.own.dropImage i)).putSlot (65 + i) false) d = { d with own := o, keep := k } :=
    fun l => foldl_keeps (P := fun b : Dev => ∃ o k, b = { d with own := o, keep := k }) (fun b i ⟨o, k, hb⟩ => by
      rw [hb]
      exact ⟨_, _, rfl⟩) l d ⟨d.own, d.keep, rfl⟩
  unfold Dev.loseMemory
  obtain ⟨o, k, h⟩ := hfold (d.own.imageList.filter (fun i => (d.own.image i).any (fun x => x.1.any (onGroup g))))
  simp only
  rw [h]
  split
  · exact ⟨_, _, rfl⟩
  · exact ⟨_, _, rfl⟩

/-- What a group's leave does: what is OUT stays so, and the registers of halts alone change. -/
structure Dev.TakenOut (a b : Dev) : Prop where
  stay : ∀ h, (a.unitAt h).state = .out → (b.unitAt h).state = .out
  regs : a.RegsOutside b runRegs

namespace Dev.TakenOut

variable {a b c : Dev}

theorem refl : a.TakenOut a := ⟨fun _ h => h, .refl a _⟩

theorem trans (h : a.TakenOut b) (g : b.TakenOut c) : a.TakenOut c := ⟨fun x hx => g.stay x (h.stay x hx), h.regs.trans g.regs⟩

theorem of_same (hm : b.mmc = a.mmc) (hr : b.regs = a.regs) : a.TakenOut b := ⟨fun h hh => by rw [Dev.unitAt, hm]; exact hh, .of_regs hr _⟩

theorem of_calm (h : a.Calm b) : a.TakenOut b := ⟨fun x hx => by rw [Dev.unitAt, h.toQuiet.units]; exact hx, h.regs⟩

end Dev.TakenOut

theorem Dev.putUnit_takenOut (d : Dev) (g : Nat) : d.TakenOut (d.putUnit g .out) :=
  ⟨fun h hh => by
    by_cases e : h = g
    · rw [e]
      exact d.putUnit_at g .out
    · rw [d.putUnit_at_ne .out e]
      exact hh, .of_regs rfl _⟩

theorem Dev.outGroup_does (d : Dev) (unit g : Nat) : d.TakenOut (d.outGroup unit g) ∧ ((d.outGroup unit g).unitAt g).state = .out := by
  unfold Dev.outGroup
  split
  · rename_i hout
    exact ⟨.refl, hout⟩
  · simp only
    have hlost : d.Calm ((d.usersOf g).foldl (fun d c => d.unitLost c unit) d) := .foldl (fun b c => b.unitLost_calm c unit) _ d
    generalize (d.usersOf g).foldl (fun d c => d.unitLost c unit) d = x at hlost
    have hput := x.putUnit_takenOut g
    have hat := x.putUnit_at g .out
    generalize x.putUnit g .out = y at hput hat
    generalize hz : (if isCs g = true then _ else y : Dev) = z
    have hstop : z.mmc = y.mmc ∧ z.regs = y.regs := by
      rw [← hz]
      split
      · obtain ⟨t, e, h⟩ := y.stopCores_frame [coreNo (g / 47) (g % 47 / 3)]
        rw [h]
        exact ⟨rfl, rfl⟩
      · exact ⟨rfl, rfl⟩
    obtain ⟨o, k, hlose⟩ := z.loseMemory_frame g
    rw [hlose]
    refine ⟨((Dev.TakenOut.of_calm hlost).trans hput).trans ((Dev.TakenOut.of_same hstop.1 hstop.2).trans (.of_same rfl rfl)), ?_⟩
    show (tblGet UnitRec.init z.mmc.units g).state = .out
    rw [hstop.1]
    exact hat

theorem Dev.outGroups_does (units : Nat → Nat) : ∀ (gs : List Nat) (d : Dev),
    d.TakenOut (gs.foldl (fun d g => d.outGroup (units g) g) d) ∧ ∀ g ∈ gs, ((gs.foldl (fun d g => d.outGroup (units g) g) d).unitAt g).state = .out
  | [], d => ⟨.refl, fun g hg => absurd hg List.not_mem_nil⟩
  | g :: gs, d => by
    obtain ⟨hone, hout⟩ := d.outGroup_does (units g) g
    obtain ⟨hrest, hall⟩ := Dev.outGroups_does units gs (d.outGroup (units g) g)
    rw [List.foldl_cons]
    refine ⟨hone.trans hrest, fun h hh => ?_⟩
    rcases List.mem_cons.mp hh with rfl | hh
    · exact hrest.stay _ hout
    · exact hall h hh

/-! ### Groups come to SCRUB -/

/-- A group that is OUT comes to SCRUB; nothing but domains and cycle counts changes beside it. -/
theorem Dev.enterScrub_form (d : Dev) (g : Nat) : ∃ p k, d.enterScrub g =
    { (if (d.unitAt g).state = .out then d.putUnit g .scrub else d) with pwr := p, core := k } := by
  unfold Dev.enterScrub
  by_cases hout : (d.unitAt g).state = .out
  · rw [if_neg (not_not_intro hout), if_pos hout]
    simp only
    generalize d.putUnit g .scrub = x
    have hask : ∃ p, (if g % 47 = 43 then (x.askRaise g).askRaise (419 + g / 47)
        else if g % 47 = 44 || g % 47 = 45 then (x.askRaise g).askRaise (427 + 2 * (g / 47) + (g % 47 - 44)) else x.askRaise g) = { x with pwr := p } := by
      split
      · exact ⟨_, rfl⟩
      · split
        · exact ⟨_, rfl⟩
        · exact ⟨_, rfl⟩
    obtain ⟨p, hp⟩ := hask
    rw [hp]
    split
    · exact ⟨_, _, rfl⟩
    · exact ⟨_, _, rfl⟩
  · rw [if_pos hout, if_neg hout]
    exact ⟨_, _, rfl⟩

/-- What groups that come to SCRUB leave. -/
structure Dev.Scrubs (a b : Dev) : Prop where
  ctx : b.ctx = a.ctx
  own : b.own = a.own
  regs : b.regs = a.regs
  stay : ∀ h, (a.unitAt h).state = .scrub → (b.unitAt h).state = .scrub

theorem Dev.enterScrub_does (d : Dev) (g : Nat) : d.Scrubs (d.enterScrub g)
    ∧ ((d.unitAt g).state = .out → ((d.enterScrub g).unitAt g).state = .scrub) ∧ ∀ h, h ≠ g → (d.enterScrub g).unitAt h = d.unitAt h := by
  obtain ⟨p, k, h⟩ := d.enterScrub_form g
  rw [h]
  by_cases hout : (d.unitAt g).state = .out
  · rw [if_pos hout]
    refine ⟨⟨rfl, rfl, rfl, fun j hj => ?_⟩, fun _ => d.putUnit_at g .scrub, fun j hj => d.putUnit_at_ne .scrub hj⟩
    have hne : j ≠ g := fun e => by rw [e, hout] at hj; exact absurd hj (by decide)
    exact (congrArg UnitRec.state (d.putUnit_at_ne .scrub hne)).trans hj
  · rw [if_neg hout]
    exact ⟨⟨rfl, rfl, rfl, fun _ hj => hj⟩, fun e => absurd e hout, fun _ _ => rfl⟩

theorem Dev.enterScrubs_does : ∀ (gs : List Nat) (d : Dev), d.Scrubs (gs.foldl Dev.enterScrub d)
    ∧ ∀ g ∈ gs, (d.unitAt g).state = .out ∨ (d.unitAt g).state = .scrub → ((gs.foldl Dev.enterScrub d).unitAt g).state = .scrub
  | [], d => ⟨⟨rfl, rfl, rfl, fun _ h => h⟩, fun g hg => absurd hg List.not_mem_nil⟩
  | g :: gs, d => by
    obtain ⟨hone, hself, hne⟩ := d.enterScrub_does g
    obtain ⟨hrest, hall⟩ := Dev.enterScrubs_does gs (d.enterScrub g)
    rw [List.foldl_cons]
    refine ⟨⟨hrest.ctx.trans hone.ctx, hrest.own.trans hone.own, hrest.regs.trans hone.regs, fun h hh => hrest.stay h (hone.stay h hh)⟩, fun h hh hst => ?_⟩
    by_cases e : h = g
    · subst e
      exact hrest.stay h (hst.elim hself (hone.stay h))
    · refine hall h ((List.mem_cons.mp hh).resolve_left e) ?_
      rw [hne h e]
      exact hst

/-! ### A die -/

theorem Dev.settleUnitCmd_units (d : Dev) : d.settleUnitCmd.mmc.units = d.mmc.units := by
  unfold Dev.settleUnitCmd
  split
  · rfl
  · simp only
    generalize (if _ = 46 then dieGroups _ else [_] : List Nat) = gs
    split
    · rfl
    · rw [Dev.put_mmc]

/-- Every group of a die that is reset comes to SCRUB. -/
theorem Dev.dieReset_does (d : Dev) (n : Nat) : ∀ g ∈ dieGroups n, ((d.dieReset n).unitAt g).state = .scrub := fun g hg => by
  unfold Dev.dieReset
  simp only
  have hout := (Dev.outGroups_does domUnit (dieGroups n) d).2 g hg
  generalize (dieGroups n).foldl (fun d g => d.outGroup (domUnit g) g) d = x at hout
  generalize hy : ({ x with regs := _ } : Dev) = y
  refine (Dev.enterScrubs_does (dieGroups n) _).2 g hg (.inl ?_)
  rw [Dev.unitAt, Dev.settleUnitCmd_units, ← hy]
  exact hout

/-! ### The module's ports -/

/-- A port that goes down leaves the states of the contexts. -/
theorem Dev.portDown_beat (d : Dev) (k : Nat) (hk : k < 1024) (fault : Bool) (p : CtxId → Prop) : d.BeatFrame (d.portDown k fault) p := by
  by_cases hup : d.portState k = psDown
  · rw [Dev.portDown, if_pos hup]
    exact .refl
  · rw [d.portDown_of_up k fault hup]
    obtain ⟨l, hfree⟩ := Dev.freeInput_frame k (d.portAt k).queue d
    rw [hfree]
    simp only
    have hcount : d.BeatFrame (({ d with lnk := l } : Dev).count LNK_ERR.DROP_DOWN 0 (d.portAt k).queue.length) p :=
      Dev.BeatFrame.trans (b := { d with lnk := l }) (.of_same rfl rfl rfl) (.of_count (by decide) (by decide))
    generalize ({ d with lnk := l } : Dev).count LNK_ERR.DROP_DOWN 0 (d.portAt k).queue.length = x at hcount
    have hq := Dev.putQuads_does (st := qsOff) (by decide) (x.portQuads k) x (x.portQuads_lt k)
    generalize (x.portQuads k).foldl (fun d q => d.putQuad q qsOff) x = y at hq
    have hquads : x.BeatFrame y p := ⟨hq.quiet.time, hq.regs _ 0 (by decide) (by decide), fun c _ => by rw [Dev.ctxAt, hq.ctx]; exact ⟨rfl, rfl⟩⟩
    have hstat : y.BeatFrame (y.statDown k) p :=
      (((Dev.BeatFrame.of_put (by decide) hk).trans (.of_put (by decide) hk)).trans (.of_put (by decide) hk)).trans (.of_count (by decide) hk)
    generalize y.statDown k = z at hstat
    have hclear : z.BeatFrame (z.portCleared k) p := by
      refine ⟨rfl, ?_, fun _ _ => ⟨rfl, rfl⟩⟩
      exact (z.portCleared_does hk).2.2 BRY_PERIOD.PERIOD 0 (by decide) (by decide)
    generalize z.portCleared k = u at hclear
    have hlog : u.BeatFrame (if fault = true then u.logError 2 0 (u.portUnit k) 0x0021 0 0 0 else u) p :=
      .ite (.of_reports (Dev.Reports.logError _ _ _ _ _ _ _ _)) .refl
    generalize (if fault = true then u.logError 2 0 (u.portUnit k) 0x0021 0 0 0 else u) = v at hlog
    have hlost : v.BeatFrame (v.ringPortLost k) p := by
      unfold Dev.ringPortLost
      refine .foldl (fun d c => ?_) _ v
      split
      · exact .refl
      · rename_i x xs hxs
        refine d.detect_beat c _ _ (fun y hy => ?_) p
        rw [← hxs, List.mem_map] at hy
        obtain ⟨g, -, rfl⟩ := hy
        exact (by decide : 1 < 1024)
    exact .ite ((((hcount.trans hquads).trans (hstat.trans hclear)).trans hlog).trans hlost) (((hcount.trans hquads).trans (hstat.trans hclear)).trans hlog)

/-- What the ports of a module leave as they go down. -/
structure Dev.PortsDown (a b : Dev) (ks : List Nat) : Prop where
  quiet : a.Quiet b
  ctx : a.BeatFrame b (fun _ => True)
  down : ∀ k ∈ ks, b.portState k = psDown
  stay : ∀ k, k < 1024 → a.portState k = psDown → b.portState k = psDown

theorem Dev.portDown_stays (d : Dev) {k j : Nat} (hk : k < 1024) (hj : j < 1024) (fault : Bool) (h : d.portState j = psDown) :
    (d.portDown k fault).portState j = psDown := by
  by_cases hup : d.portState k = psDown
  · rw [Dev.portDown, if_pos hup]
    exact h
  · have hdown := d.portDown_does k hk fault hup
    by_cases e : j = k
    · rw [e]
      exact hdown.state
    · exact (hdown.stat LNK_PORT_STAT.STATE j hj e rfl).trans h

theorem Dev.portDown_downs (d : Dev) {k : Nat} (hk : k < 1024) (fault : Bool) : d.PortsDown (d.portDown k fault) [k] := by
  refine ⟨?_, d.portDown_beat k hk fault _, fun j hj => ?_, fun j hj h => d.portDown_stays hk hj fault h⟩
  · by_cases hup : d.portState k = psDown
    · rw [Dev.portDown, if_pos hup]
      exact .refl
    · exact (d.portDown_does k hk fault hup).quiet
  · rw [List.mem_singleton.mp hj]
    by_cases hup : d.portState k = psDown
    · exact d.portDown_stays hk hk fault hup
    · exact (d.portDown_does k hk fault hup).state

theorem Dev.portsDown_does (fault : Bool) : ∀ (ks : List Nat) (d : Dev), (∀ k ∈ ks, k < 1024) → d.PortsDown (ks.foldl (fun d k => d.portDown k fault) d) ks
  | [], d, _ => ⟨.refl, .refl, fun k hk => absurd hk List.not_mem_nil, fun _ _ h => h⟩
  | k :: ks, d, hlt => by
    have hk := hlt k List.mem_cons_self
    have hone := d.portDown_downs hk fault
    have hrest := Dev.portsDown_does fault ks (d.portDown k fault) (fun j hj => hlt j (List.mem_cons_of_mem _ hj))
    rw [List.foldl_cons]
    refine ⟨hone.quiet.trans hrest.quiet, hone.ctx.trans hrest.ctx, fun j hj => ?_, fun j hj h => hrest.stay j hj (hone.stay j hj h)⟩
    rcases List.mem_cons.mp hj with rfl | hj
    · exact hrest.stay j hk (hone.down j (List.mem_singleton.mpr rfl))
    · exact hrest.down j hj

/-- The module's twelve ports. -/
theorem Dev.allPortsDown (d : Dev) : d.PortsDown ((List.range 12).foldl (fun d k => d.portDown k false) d) (List.range 12) :=
  Dev.portsDown_does false _ d (fun k hk => by have := List.mem_range.mp hk; omega)

/-- What PREPARE_REMOVE brings. -/
theorem Dev.prepareRemove_does (d : Dev) : d.prepareRemove.get MMC_RESET.REMOVE_OK 0 = 1 ∧ (∀ g ∈ allGroups, (d.prepareRemove.unitAt g).state = .out)
    ∧ ∀ k < 12, d.prepareRemove.portState k = psDown := by
  unfold Dev.prepareRemove
  simp only
  have hports := d.allPortsDown.down
  generalize (List.range 12).foldl (fun d k => d.portDown k false) d = x at hports
  have hlink : x.RegsOutside ((List.range 2).foldl (fun d p => d.put ETH_PORT_CFG.LINK 0 p) x) [.ETH_PORT_CFG] :=
    .foldl_lt (fun b k hk => .put b _ _ _ hk (by decide)) _ x (fun k hk => by have := List.mem_range.mp hk; omega)
  generalize (List.range 2).foldl (fun d p => d.put ETH_PORT_CFG.LINK 0 p) x = y at hlink
  obtain ⟨htaken, hout⟩ := Dev.outGroups_does domUnit allGroups y
  generalize allGroups.foldl (fun d g => d.outGroup (domUnit g) g) y = z at htaken hout
  have hput := Dev.RegsOutside.put z MMC_RESET.REMOVE_OK 1 0 (by decide) (rs := [.MMC_RESET]) (by decide)
  have hset := get_put_self z MMC_RESET.REMOVE_OK 1 0 (by decide)
  have hunits : (z.put MMC_RESET.REMOVE_OK 1 0).mmc.units = z.mmc.units := by rw [Dev.put_mmc]
  generalize z.put MMC_RESET.REMOVE_OK 1 0 = w at hput hset hunits
  refine ⟨hset, fun g hg => ?_, fun k hk => ?_⟩
  · show (tblGet UnitRec.init w.mmc.units g).state = .out
    rw [hunits]
    exact hout g hg
  · have hk' : k < 1024 := by omega
    have h1 := hput LNK_PORT_STAT.STATE k hk' (by decide)
    have h2 := htaken.regs LNK_PORT_STAT.STATE k hk' (by decide)
    have h3 := hlink LNK_PORT_STAT.STATE k hk' (by decide)
    exact h1.trans (h2.trans (h3.trans (hports k (List.mem_range.mpr hk))))

end Sys2Proof.Machine
end

section
/-! Resets of a die, removal and module errors (R513, R520, R526, R527). -/

namespace Sys2Proof.Machine

open Sys2Proof.Laws

/-- A reset of a die that is in service and not in use, or with FORCE. -/
theorem resetScope_die {d : Dev} (hidle : d.resetBusy = false) (hin : d.inService = true)
    (hfree : d.flag MMC_RESET.FORCE 0 = true ∨ ∀ g ∈ dieGroups (d.get MMC_RESET.DIE 0), d.usersOf g = []) (f : Fuses) (m : Mem) :
    resetScope 1 f m d = { dev := (d.dieReset (d.get MMC_RESET.DIE 0)).put MMC_RESET.STATUS 0 } := by
  have hidle' : ¬ d.resetBusy = true := by rw [hidle]; decide
  have hin' : ¬ (!d.inService) = true := by rw [hin]; decide
  have hunused : ¬ (!d.flag MMC_RESET.FORCE && (dieGroups (d.get MMC_RESET.DIE)).any (fun g => !(d.usersOf g).isEmpty)) = true := by
    intro h
    rw [Bool.and_eq_true, List.any_eq_true] at h
    obtain ⟨hforce, g, hg, hused⟩ := h
    rcases hfree with hf | hf
    · rw [hf] at hforce
      exact absurd hforce (by decide)
    · rw [hf g hg] at hused
      exact absurd hused (by decide)
  unfold resetScope
  rw [if_neg hidle']
  exact (if_neg hin').trans (if_neg hunused)

/-- A removal that is ordered while no context stands. -/
theorem resetScope_remove {d : Dev} (hidle : d.resetBusy = false) (hfree : ∀ c, (d.ctxAt c).state = .free) (f : Fuses) (m : Mem) :
    resetScope 5 f m d = { dev := d.prepareRemove.put MMC_RESET.STATUS 0 } := by
  have hidle' : ¬ d.resetBusy = true := by rw [hidle]; decide
  have hnone : ¬ (allCtx.any (fun c => (d.ctxAt c).state ≠ .free)) = true := by
    simp [hfree]
  unfold resetScope
  rw [if_neg hidle']
  exact if_neg hnone

/-- A removal that is ordered while a context stands. -/
theorem resetScope_remove_busy {d : Dev} (hidle : d.resetBusy = false) {c : CtxId} (hc : (d.ctxAt c).state ≠ .free) (f : Fuses) (m : Mem) :
    resetScope 5 f m d = { dev := d.put MMC_RESET.STATUS 1 } := by
  have hidle' : ¬ d.resetBusy = true := by rw [hidle]; decide
  have hsome : allCtx.any (fun c => decide ((d.ctxAt c).state ≠ .free)) = true :=
    List.any_eq_true.mpr ⟨c, List.mem_finRange c, decide_eq_true hc⟩
  unfold resetScope
  rw [if_neg hidle']
  exact if_pos hsome

/-- STATUS 0 of MMC_RESET, and what it leaves. -/
theorem Dev.resetStatus_zero (d : Dev) : (d.put MMC_RESET.STATUS 0).get MMC_RESET.STATUS 0 = 0 ∧ (∀ g, (d.put MMC_RESET.STATUS 0).unitAt g = d.unitAt g)
    ∧ (d.put MMC_RESET.STATUS 0).get MMC_RESET.REMOVE_OK 0 = d.get MMC_RESET.REMOVE_OK 0
    ∧ ∀ k < 12, (d.put MMC_RESET.STATUS 0).portState k = d.portState k := by
  refine ⟨get_put_self d MMC_RESET.STATUS 0 0 (by decide), fun g => by rw [Dev.unitAt, Dev.put_mmc, Dev.unitAt],
    get_put_field d MMC_RESET.STATUS MMC_RESET.REMOVE_OK 0 0 rfl (by decide) (by decide), fun k hk => ?_⟩
  have hput := Dev.RegsOutside.put d MMC_RESET.STATUS 0 0 (by decide) (rs := [.MMC_RESET]) (by decide)
  generalize d.put MMC_RESET.STATUS 0 0 = e at hput
  exact hput LNK_PORT_STAT.STATE k (by omega) (by decide)

/-! ### Module errors -/

theorem Dev.portState_of_regs {a b : Dev} (h : a.regs = b.regs) (k : Nat) : a.portState k = b.portState k := by
  unfold Dev.portState
  exact Dev.get_of_regs h _ _

/-- What a module error comes to once every context is killed. -/
def Dev.errorHeld (d : Dev) : Dev :=
  let d := (List.range 12).foldl (fun d k => d.portDown k false) d
  { d with mmc := { d.mmc with state := .training, start := none, heldDown := true } }

/-- A module error: logged, then every context killed, then a cold reset or a stand-still. -/
def errorAct (unit cause : W16) : Act := (Act.dev (fun d => d.logError 3 0 unit.toNat cause.toNat 0 0 0)).andThen
  ((killOff allCtx 0x8001).andThen (Act.dev (fun d => if d.flag MMC_RESET.AUTO then d.coldReset false else d.errorHeld)))

theorem andThen_of_dev (g : Dev → Dev) (a : Act) (f : Fuses) (m : Mem) (d : Dev) : (((Act.dev g).andThen a) f m d).dev = (a f m (g d)).dev := by
  simp only [Act.andThen, Act.dev, Fuses.apply, Mem.apply, List.foldl_nil]

/-- The device after a module error. -/
theorem errorAct_does (unit cause : W16) (f : Fuses) (m : Mem) (d : Dev) : ∃ x : Dev, (∀ c, (x.ctxAt c).state = .free) ∧ x.flag MMC_RESET.AUTO 0 = d.flag MMC_RESET.AUTO 0
    ∧ (errorAct unit cause f m d).fuse = [] ∧ (errorAct unit cause f m d).dev = if d.flag MMC_RESET.AUTO 0 then x.coldReset false else x.errorHeld := by
  have hlog := Dev.KillKeeps.of_reports (Dev.Reports.logError d 3 0 unit.toNat cause.toNat 0 0 0)
  have hkill := killOff_keeps 0x8001 f m (d.logError 3 0 unit.toNat cause.toNat 0 0 0)
  have hfree := killOff_frees 0x8001 f m (d.logError 3 0 unit.toNat cause.toNat 0 0 0)
  have hauto : (killOff allCtx 0x8001 f m (d.logError 3 0 unit.toNat cause.toNat 0 0 0)).dev.flag MMC_RESET.AUTO 0 = d.flag MMC_RESET.AUTO 0 := by
    unfold Dev.flag
    rw [hkill.regs _ rfl, hlog.regs _ rfl]
  refine ⟨_, hfree, hauto, Act.SparesFuses.andThen (.dev _) (.andThen (.killOff _ _) (.dev _)) f m d, ?_⟩
  rw [errorAct, andThen_of_dev, andThen_dev]
  generalize (killOff allCtx 0x8001 f m (d.logError 3 0 unit.toNat cause.toNat 0 0 0)).dev = x at hauto
  exact if_congr (by rw [← hauto]) rfl rfl

/-- A module that an error holds: no context, TRAINING, and every port DOWN. -/
theorem Dev.errorHeld_does (d : Dev) (hfree : ∀ c, (d.ctxAt c).state = .free) : d.errorHeld.mmc.state = .training ∧ d.errorHeld.mmc.start = none
    ∧ d.errorHeld.mmc.heldDown = true ∧ (∀ c, (d.errorHeld.ctxAt c).state = .free) ∧ ∀ k < 12, d.errorHeld.portState k = psDown := by
  unfold Dev.errorHeld
  simp only
  have hports := d.allPortsDown
  generalize (List.range 12).foldl (fun d k => d.portDown k false) d = x at hports
  refine ⟨trivial, trivial, trivial, fun c => (hports.ctx.ctx c trivial).1.trans (hfree c),
    fun k hk => ?_⟩
  have hdown := hports.down k (List.mem_range.mpr hk)
  exact (Dev.portState_of_regs (b := x) rfl k).trans hdown

theorem moduleError_acts {unit cause : W16} {s : State} (h1 : s.dev.mmc.state ≠ .off) (h2 : s.dev.mmc.state ≠ .standby) {P : State → Prop}
    (hP : ∀ t, t.fuse = s.fuse → t.pending = s.pending → t.dev = (errorAct unit cause s.fuse s.mem s.dev).dev → P t) :
    Answers (.moduleError unit cause) s P := by
  obtain ⟨-, -, -, hfuse, -⟩ := errorAct_does unit cause s.fuse s.mem s.dev
  have hon : ¬ (s.dev.mmc.state = .off || s.dev.mmc.state = .standby) = true := by simp [h1, h2]
  obtain ⟨r, hr⟩ : ∃ r, r = errorAct unit cause s.fuse s.mem s.dev := ⟨_, rfl⟩
  rw [← hr] at hfuse hP
  refine answers_of_act (r := r) rfl ((if_neg hon).trans hr.symm) (hP _ ?_ rfl rfl)
  rw [hfuse]
  rfl

end Sys2Proof.Machine

namespace Sys2Proof.Proofs

open Sys2Proof.Machine Sys2Proof.Laws

/-- Settles O24: the die by its groups, the removal by its ports and groups, the error by what the kills leave. -/
theorem dieResetAndRemoval : Obligations.DieResetAndRemoval := by
  unfold Obligations.DieResetAndRemoval
  refine ⟨fun w s ho hin => ?_, fun w s ho hfree => ?_, fun w c s ho hc => ?_, fun unit cause s h1 h2 hauto => ?_, fun unit cause s h1 h2 hauto => ?_⟩
  · have honly := Dev.onlyRegs.writeFields s.dev .MMC_RESET 0 false w
    have hbusy := s.dev.resetFields_keep w
    have hrun := ho.resets s.fuse s.mem
    generalize s.dev.writeFields .MMC_RESET 0 false w = e at honly hbusy hrun
    intro d hfree
    rw [resetScope_die (hbusy.trans ho.idle) ((Dev.inService_of_regs honly).1.trans hin) hfree] at hrun
    refine answers_device rfl hrun fun t ht hdev => ?_
    obtain ⟨hst, hunits, -, -⟩ := (e.dieReset (e.get MMC_RESET.DIE 0)).resetStatus_zero
    rw [hdev]
    exact ⟨ht, hst, fun g hg => by rw [hunits]; exact e.dieReset_does _ g hg⟩
  · have honly := Dev.onlyRegs.writeFields s.dev .MMC_RESET 0 false w
    have hbusy := s.dev.resetFields_keep w
    have hrun := ho.resets s.fuse s.mem
    generalize s.dev.writeFields .MMC_RESET 0 false w = e at honly hbusy hrun
    have hfree' : ∀ c, (e.ctxAt c).state = .free := fun c => by rw [Dev.ctxAt, honly.ctx]; exact hfree c
    rw [resetScope_remove (hbusy.trans ho.idle) hfree'] at hrun
    refine answers_device rfl hrun fun t ht hdev => ?_
    obtain ⟨hst, hunits, hok, hports⟩ := e.prepareRemove.resetStatus_zero
    obtain ⟨hremove, hout, hdown⟩ := e.prepareRemove_does
    rw [hdev]
    exact ⟨ht, Dev.flag_of_get (hok.trans hremove), hst, fun g hg => by rw [hunits]; exact hout g hg, fun k hk => (hports k hk).trans (hdown k hk)⟩
  · have honly := Dev.onlyRegs.writeFields s.dev .MMC_RESET 0 false w
    have hbusy := s.dev.resetFields_keep w
    have hrun := ho.resets s.fuse s.mem
    generalize s.dev.writeFields .MMC_RESET 0 false w = e at honly hbusy hrun
    have hc' : (e.ctxAt c).state ≠ .free := by rw [Dev.ctxAt, honly.ctx]; exact hc
    exact answers_of_dev rfl (hrun.trans (resetScope_remove_busy (hbusy.trans ho.idle) hc' _ _)) rfl
  · obtain ⟨x, -, -, -, hdev⟩ := errorAct_does unit cause s.fuse s.mem s.dev
    rw [if_pos hauto] at hdev
    have hcold := x.coldReset_does false
    exact moduleError_acts h1 h2 fun t hf hp ht => ⟨hf, hp, by rw [ht, hdev]; exact hcold.toColdStarting, by rw [ht, hdev]; exact hcold.ctx⟩
  · obtain ⟨x, hfree, -, -, hdev⟩ := errorAct_does unit cause s.fuse s.mem s.dev
    rw [if_neg (by rw [hauto]; decide)] at hdev
    exact moduleError_acts h1 h2 fun t hf hp ht => ⟨hf, hp, by rw [ht, hdev]; exact x.errorHeld_does hfree⟩

end Sys2Proof.Proofs
end

section
/-! Units in service: orders, faults, and the way back (R516 to R522). -/

namespace Sys2Proof.Machine

open Sys2Proof.Laws

/-! ### Orders of MMC_UNIT_CMD -/

/-- An entry that is no default, and that the change does not make one, is changed. -/
theorem tblGet_map_of_ne {V : Type} [DecidableEq V] {e v : V} {f : Nat → V → V} {k : Nat} (hf : f k v ≠ e) (hv : v ≠ e) :
    ∀ {t : Tbl V}, tblGet e t k = v → tblGet e (tblMap e f t) k = f k v
  | [], h => absurd h.symm hv
  | (j, x) :: t, h => by
    by_cases hj : j = k
    · subst hj
      rw [tblGet, if_pos rfl] at h
      subst h
      rw [tblMap, List.map_cons, List.filter_cons, if_pos (decide_eq_true hf), tblGet, if_pos rfl]
    · rw [tblGet, if_neg hj] at h
      have ih := tblGet_map_of_ne hf hv h
      by_cases hx : f j x = e
      · rw [tblMap, List.map_cons, List.filter_cons, if_neg (by simpa using hx)]
        exact ih
      · rw [tblMap, List.map_cons, List.filter_cons, if_pos (decide_eq_true hx), tblGet, if_neg hj]
        exact ih

/-- A unit's group is among those that an order for it acts on. -/
theorem mem_orderGroups {unit g : Nat} (h : groupOf unit = some g) : g ∈ orderGroups unit := by
  unfold orderGroups
  rw [h]
  simp only
  split
  · rw [dieGroups, List.mem_map]
    exact ⟨46, by decide, by omega⟩
  · exact List.mem_singleton.mpr rfl

/-- Who uses a group, and what surrounds it, is no matter of registers. -/
theorem Dev.usersOf_of_regs {a b : Dev} (h : a.onlyRegs b) (g : Nat) : b.usersOf g = a.usersOf g ∧ b.neighbourOut g = a.neighbourOut g
    ∧ b.flatQuadrant g = a.flatQuadrant g ∧ b.unitAt g = a.unitAt g := by
  rw [h]
  exact ⟨rfl, rfl, rfl, rfl⟩

/-- An order of MMC_UNIT_CMD that acts. -/
theorem Dev.OrdersUnit.acts {d : Dev} {w : RegWr} {rival : Option Rival} {op unit g : Nat} (h : d.OrdersUnit w rival op unit g) :
    d.unitCmdWrite w rival = (let e := d.writeFields .MMC_UNIT_CMD 0 false w
      let r := match op with
        | 1 => e.takeOut unit (e.flag MMC_UNIT_CMD.FORCE)
        | 2 => e.bringIn unit
        | _ => (4, e)
      r.2.put MMC_UNIT_CMD.STATUS r.1) := by
  have hgo : ¬ (!wrSets w MMC_UNIT_CMD.GO) = true := by rw [h.go]; decide
  have hwins : ¬ mmcLoses rival = true := by rw [h.wins]; decide
  unfold Dev.unitCmdWrite
  simp only
  rw [if_neg hgo, if_neg hwins, h.oper, h.named] <;> rfl

theorem Dev.takeOut_taken {d : Dev} {unit g : Nat} {force : Bool} (hg : groupOf unit = some g) (hidle : d.mmc.unitCmd = none)
    (hin : (d.unitAt g).state ≠ .out) (hn : d.neighbourOut g = false) (hq : d.flatQuadrant g = false)
    (hfree : force = true ∨ ∀ h ∈ orderGroups unit, d.usersOf h = []) :
    d.takeOut unit force = (0, (orderGroups unit).foldl (fun d h => d.outGroup unit h) d) := by
  have hunused : ¬ (!force && (orderGroups unit).any (fun h => !(d.usersOf h).isEmpty)) = true := by
    intro hbusy
    rw [Bool.and_eq_true, List.any_eq_true] at hbusy
    obtain ⟨hforce, h, hh, hused⟩ := hbusy
    rcases hfree with hf | hf
    · rw [hf] at hforce
      exact absurd hforce (by decide)
    · rw [hf h hh] at hused
      exact absurd hused (by decide)
  unfold Dev.takeOut
  rw [hg]
  simp only
  rw [if_neg (by rw [hidle]; decide), if_neg hin, if_neg (by rw [hn]; decide), if_neg (by rw [hq]; decide), if_neg hunused]

theorem Dev.takeOut_busy {d : Dev} {unit g h : Nat} (hg : groupOf unit = some g) (hidle : d.mmc.unitCmd = none)
    (hin : (d.unitAt g).state ≠ .out) (hn : d.neighbourOut g = false) (hq : d.flatQuadrant g = false) (hh : h ∈ orderGroups unit)
    (hused : d.usersOf h ≠ []) : d.takeOut unit false = (2, d) := by
  have hany : (!false && (orderGroups unit).any (fun h => !(d.usersOf h).isEmpty)) = true := by
    rw [Bool.not_false, Bool.true_and, List.any_eq_true]
    refine ⟨h, hh, ?_⟩
    rw [Bool.not_eq_true']
    exact List.isEmpty_eq_false_iff.mpr hused
  unfold Dev.takeOut
  rw [hg]
  simp only
  rw [if_neg (by rw [hidle]; decide), if_neg hin, if_neg (by rw [hn]; decide), if_neg (by rw [hq]; decide), if_pos hany]

theorem Dev.bringIn_begins {d : Dev} {unit g : Nat} (hg : groupOf unit = some g) (hidle : d.mmc.unitCmd = none) (hout : (d.unitAt g).state = .out) :
    d.bringIn unit = (1, { (orderGroups unit).foldl Dev.enterScrub d with
      mmc := { ((orderGroups unit).foldl Dev.enterScrub d).mmc with unitCmd := some (g, true) } }) := by
  unfold Dev.bringIn
  rw [hg]
  simp only
  rw [if_neg (by rw [hidle]; decide), if_neg (not_not_intro hout)]

/-- STATUS of MMC_UNIT_CMD stands as written, and units, contexts and ownership with it. -/
theorem Dev.unitStatus_put (d : Dev) {v : Nat} (hv : v < 8) : (d.put MMC_UNIT_CMD.STATUS v).get MMC_UNIT_CMD.STATUS 0 = v
    ∧ d.onlyRegs (d.put MMC_UNIT_CMD.STATUS v) :=
  ⟨(get_put_self d MMC_UNIT_CMD.STATUS v 0 (by decide)).trans (Nat.mod_eq_of_lt hv), .put d _ _ _⟩

theorem Dev.unitAt_of_regs {a b : Dev} (h : a.onlyRegs b) (g : Nat) : b.unitAt g = a.unitAt g := by
  rw [h]
  rfl

/-! ### Tests -/

/-- A unit that awaits the next tick is admitted. -/
theorem Dev.admitStandby_at {d : Dev} {g : Nat} (h : d.unitAt g = ⟨.standby, false⟩) : d.admitStandby.unitAt g = ⟨.admitted, false⟩ := by
  unfold Dev.admitStandby
  simp only
  show tblGet UnitRec.init (Dev.settleUnitCmd _).mmc.units g = _
  rw [Dev.settleUnitCmd_units]
  rw [Dev.unitAt] at h
  exact tblGet_map_of_ne (e := UnitRec.init) (v := ⟨.standby, false⟩) (k := g)
    (f := fun _ u => if u.state = UnitState.standby then { u with state := UnitState.admitted } else u) (by simp [UnitRec.init]) (by decide) h

theorem Dev.modUnit_at (d : Dev) (g : Nat) (f : UnitRec → UnitRec) : (d.modUnit g f).unitAt g = f (d.unitAt g) := by
  unfold Dev.modUnit Dev.unitAt
  rw [tblGet_mod_self]

/-- The record of a unit leaves the units. -/
theorem Dev.unitRecord_reports (d : Dev) (cls unit cause : Nat) (st : UnitState) : d.Reports (d.unitRecord cls unit cause st) :=
  Dev.Reports.logError _ _ _ _ _ _ _ _

end Sys2Proof.Machine

namespace Sys2Proof.Proofs

open Sys2Proof.Machine Sys2Proof.Laws

theorem takeOut_answers {w : RegWr} {rival : Option Rival} {unit g : Nat} {s : State} (ho : s.dev.OrdersUnit w rival 1 unit g)
    (hin : (s.dev.unitAt g).state ≠ .out) (hn : s.dev.neighbourOut g = false) (hq : s.dev.flatQuadrant g = false)
    (hfree : (s.dev.writeFields .MMC_UNIT_CMD 0 false w).flag MMC_UNIT_CMD.FORCE 0 = true ∨ ∀ h ∈ orderGroups unit, s.dev.usersOf h = []) :
    Answers (.takeOut w rival) s (fun t => s.onlyDev t ∧ t.dev.get MMC_UNIT_CMD.STATUS 0 = 0
      ∧ ∀ h ∈ orderGroups unit, (t.dev.unitAt h).state = .out) := by
  have honly := Dev.onlyRegs.writeFields s.dev .MMC_UNIT_CMD 0 false w
  have hacts := ho.acts
  generalize s.dev.writeFields .MMC_UNIT_CMD 0 false w = e at honly hacts hfree
  obtain ⟨-, hn', hq', hin'⟩ := Dev.usersOf_of_regs honly g
  simp only at hacts
  rw [Dev.takeOut_taken ho.group (by rw [honly.mmc]; exact ho.idle) (by rw [hin']; exact hin) (hn'.trans hn) (hq'.trans hq)
    (hfree.imp_right fun hf h hh => (Dev.usersOf_of_regs honly h).1.trans (hf h hh))] at hacts
  refine mgmtDev_answers ho.manages rfl ⟨⟨rfl, rfl, rfl⟩, ?_⟩
  show (s.dev.unitCmdWrite w rival).get MMC_UNIT_CMD.STATUS 0 = 0 ∧ ∀ h ∈ orderGroups unit, ((s.dev.unitCmdWrite w rival).unitAt h).state = .out
  rw [hacts]
  have hout := (Dev.outGroups_does (fun _ => unit) (orderGroups unit) e).2
  obtain ⟨hst, hkeep⟩ := ((orderGroups unit).foldl (fun d h => d.outGroup unit h) e).unitStatus_put (v := 0) (by decide)
  exact ⟨hst, fun h hh => by rw [Dev.unitAt_of_regs hkeep]; exact hout h hh⟩

theorem takeOut_answers_busy {w : RegWr} {rival : Option Rival} {unit g h : Nat} {s : State} (ho : s.dev.OrdersUnit w rival 1 unit g)
    (hin : (s.dev.unitAt g).state ≠ .out) (hn : s.dev.neighbourOut g = false) (hq : s.dev.flatQuadrant g = false)
    (hforce : (s.dev.writeFields .MMC_UNIT_CMD 0 false w).flag MMC_UNIT_CMD.FORCE 0 = false) (hh : h ∈ orderGroups unit) (hused : s.dev.usersOf h ≠ []) :
    Answers (.takeOut w rival) s (fun t => t = s.withDev ((s.dev.writeFields .MMC_UNIT_CMD 0 false w).put MMC_UNIT_CMD.STATUS 2 0)) := by
  have honly := Dev.onlyRegs.writeFields s.dev .MMC_UNIT_CMD 0 false w
  have hacts := ho.acts
  generalize s.dev.writeFields .MMC_UNIT_CMD 0 false w = e at honly hacts hforce
  obtain ⟨-, hn', hq', hin'⟩ := Dev.usersOf_of_regs honly g
  simp only at hacts
  rw [hforce, Dev.takeOut_busy ho.group (by rw [honly.mmc]; exact ho.idle) (by rw [hin']; exact hin) (hn'.trans hn) (hq'.trans hq) hh
    (by rw [(Dev.usersOf_of_regs honly h).1]; exact hused)] at hacts
  exact mgmtDev_answers ho.manages rfl (by rw [hacts])

theorem bringIn_answers {w : RegWr} {rival : Option Rival} {unit g : Nat} {s : State} (ho : s.dev.OrdersUnit w rival 2 unit g)
    (hout : (s.dev.unitAt g).state = .out) :
    Answers (.bringIn w rival) s (fun t => s.onlyDev t ∧ t.dev.get MMC_UNIT_CMD.STATUS 0 = 1 ∧ t.dev.mmc.unitCmd = some (g, true)
      ∧ (t.dev.unitAt g).state = .scrub ∧ t.dev.ctx = s.dev.ctx ∧ t.dev.own = s.dev.own) := by
  have honly := Dev.onlyRegs.writeFields s.dev .MMC_UNIT_CMD 0 false w
  have hacts := ho.acts
  generalize s.dev.writeFields .MMC_UNIT_CMD 0 false w = e at honly hacts
  have hout' : (e.unitAt g).state = .out := by rw [Dev.unitAt_of_regs honly]; exact hout
  simp only at hacts
  rw [Dev.bringIn_begins ho.group (by rw [honly.mmc]; exact ho.idle) hout'] at hacts
  obtain ⟨hscrubs, hall⟩ := Dev.enterScrubs_does (orderGroups unit) e
  have hat := hall g (mem_orderGroups ho.group) (.inl hout')
  generalize (orderGroups unit).foldl Dev.enterScrub e = x at hacts hscrubs hat
  simp only at hacts
  generalize hy : ({ x with mmc := { x.mmc with unitCmd := some (g, true) } } : Dev) = y at hacts
  have hyx : y.mmc.unitCmd = some (g, true) ∧ y.mmc.units = x.mmc.units ∧ y.ctx = x.ctx ∧ y.own = x.own := by
    rw [← hy]
    exact ⟨rfl, rfl, rfl, rfl⟩
  obtain ⟨hst, hkeep⟩ := y.unitStatus_put (v := 1) (by decide)
  refine mgmtDev_answers ho.manages rfl ⟨⟨rfl, rfl, rfl⟩, ?_⟩
  show (s.dev.unitCmdWrite w rival).get MMC_UNIT_CMD.STATUS 0 = 1 ∧ (s.dev.unitCmdWrite w rival).mmc.unitCmd = some (g, true)
    ∧ ((s.dev.unitCmdWrite w rival).unitAt g).state = .scrub ∧ (s.dev.unitCmdWrite w rival).ctx = s.dev.ctx
    ∧ (s.dev.unitCmdWrite w rival).own = s.dev.own
  rw [hacts]
  refine ⟨hst, by rw [hkeep.mmc]; exact hyx.1, ?_, ?_, ?_⟩
  · rw [Dev.unitAt_of_regs hkeep, Dev.unitAt, hyx.2.1]
    exact hat
  · rw [hkeep.ctx, hyx.2.2.1, hscrubs.ctx, honly.ctx]
  · rw [hkeep, hyx.2.2.2, hscrubs.own, honly]

/-- Settles O25: orders by the groups that they act on, the way back by the one unit's record. -/
theorem unitService : Obligations.UnitService := by
  unfold Obligations.UnitService
  refine ⟨⟨fun w rival unit g s ho hin hn hq hfree => takeOut_answers ho hin hn hq hfree,
      fun w rival unit g h s ho hin hn hq hforce hh hused => takeOut_answers_busy ho hin hn hq hforce hh hused,
      fun w rival unit g s ho hout => bringIn_answers ho hout, fun unit g s hg hin => ?_⟩,
    fun unit g s hg hst hon => ?_, fun unit g s hg hst htick => ?_, fun unit g s hg hst htick => ?_, fun unit g s hg hst => ?_⟩
  · refine answers_device (d := (((orderGroups unit.toNat).foldl (fun d h => d.outGroup unit.toNat h) s.dev).unitRecord 2 unit.toNat 0x0010 .out).settleUnitCmd)
      rfl ?_ fun t ht hdev => ⟨ht, fun h hh => ?_⟩
    · simp only [Act.dev, hg, if_neg hin]
    · have hout := (Dev.outGroups_does (fun _ => unit.toNat) (orderGroups unit.toNat) s.dev).2 h hh
      generalize (orderGroups unit.toNat).foldl (fun d h => d.outGroup unit.toNat h) s.dev = x at hout hdev
      have hrec := Dev.Quiet.of_reports (x.unitRecord_reports 2 unit.toNat 0x0010 .out)
      rw [hdev, Dev.unitAt, Dev.settleUnitCmd_units, hrec.units]
      exact hout
  · refine answers_of_act (r := { dev := (s.dev.scrubDev g).putUnit g .test, mem := s.dev.scrubMem g }) rfl ?_ ⟨rfl, rfl, rfl, rfl⟩
    simp only [hg, hst, hon, decide_true, Bool.and_self, if_true]
  · refine answers_of_dev rfl ?_ rfl
    have htick' : (s.dev.modUnit g (fun _ => ⟨.standby, false⟩)).ticking = true := htick
    simp only [Act.dev, hg, hst, ne_eq, not_true_eq_false, if_false, if_true, htick']
  · have htick' : ¬ (s.dev.modUnit g (fun _ => ⟨.standby, false⟩)).ticking = true := by
      show ¬ s.dev.ticking = true
      rw [htick]
      decide
    refine answers_device (d := (s.dev.modUnit g (fun _ => ⟨.standby, false⟩)).admitStandby) rfl ?_ fun t ht hdev => ⟨ht, ?_⟩
    · simp only [Act.dev, hg, hst, ne_eq, not_true_eq_false, if_false, if_true, htick', Bool.false_eq_true]
    · rw [hdev]
      exact Dev.admitStandby_at (s.dev.modUnit_at g _)
  · refine answers_device (d := ((s.dev.modUnit g (fun _ => ⟨.out, true⟩)).unitRecord 2 unit.toNat 0x0011 .out).settleUnitCmd) rfl ?_
      fun t ht hdev => ⟨ht, ?_⟩
    · simp only [Act.dev, hg, hst, ne_eq, not_true_eq_false, if_false, Bool.false_eq_true]
    · have hat := s.dev.modUnit_at g (fun _ => ⟨.out, true⟩)
      have hctx : (s.dev.modUnit g (fun _ => ⟨.out, true⟩)).ctx = s.dev.ctx ∧ (s.dev.modUnit g (fun _ => ⟨.out, true⟩)).own = s.dev.own := ⟨rfl, rfl⟩
      generalize s.dev.modUnit g (fun _ => ⟨.out, true⟩) = x at hat hctx hdev
      have hrec := Dev.Quiet.of_reports (x.unitRecord_reports 2 unit.toNat 0x0011 .out)
      have hlog : x.Kept (x.unitRecord 2 unit.toNat 0x0011 .out) := .of_log
      have hkept := hlog.trans (Dev.settleUnitCmd_kept _)
      rw [hdev]
      refine ⟨?_, hkept.ctx.trans hctx.1, hkept.own.trans hctx.2⟩
      rw [Dev.unitAt, Dev.settleUnitCmd_units, hrec.units]
      exact hat

end Sys2Proof.Proofs
end

section
/-! Packets that are delivered here: the steps of R382, and what an accepted packet leaves (R340, R364, R382 to R384). -/

namespace Sys2Proof.Machine

open Sys2Proof.Laws

/-! ### Delivery -/

theorem Pkt.linkLocal_of_type {p : Pkt} {ty : Nat} (h : p.type = ty) : p.linkLocal = (0x60 ≤ ty && ty ≤ 0x6F : Bool) := by
  unfold Pkt.linkLocal
  rw [h]

theorem Pkt.sequenced_of_type {p : Pkt} {ty : Nat} (h : p.type = ty) :
    p.sequenced = (!(0x60 ≤ ty && ty ≤ 0x6F : Bool) && ty ≠ 0x40 && ty ≠ 0x41 && ty ≠ 0x42 : Bool) := by
  unfold Pkt.sequenced
  rw [Pkt.linkLocal_of_type h, h]

/-- What a packet of a type that is delivered here comes to, once its trailer is found good. -/
def receiveGood (perf : Perf) (a : Arrival) (m : Bool) (f : Fuses) (mm : Mem) (e : Dev) : Res :=
  let p := a.pkt
  let now := a.now.toNat
  if !p.sequenced then (perf p 0 now f mm e).2
  else match e.place7 (arrivalFlow a) p with
    | .reset => { dev := e.sendReset (arrivalFlow a) p }
    | .behind => { dev := (e.count RTE_REL.DUP).sendAck (arrivalFlow a) }
    | .ahead => { dev := e.sendNack (arrivalFlow a) p 1 now }
    | .epoch => { dev := e.sendNack (arrivalFlow a) p 3 now }
    | .accept r resync => acceptAct perf (arrivalFlow a) p (r.fresh resync) resync m now f mm e

/-- A packet that is delivered here runs its action, and leaves the input buffer. -/
theorem Dev.Delivered.runs {d e : Dev} {a : Arrival} {ty : Nat} {m : Bool} (h : d.Delivered a ty m e) (perf : Perf) {types : List Nat}
    (hty : types.contains ty = true) (hll : (0x60 ≤ ty && ty ≤ 0x6F : Bool) = false) (f : Fuses) (mm : Mem) :
    deliverAct perf types a f mm d = { receiveGood perf a m f mm e with dev := (receiveGood perf a m f mm e).dev.passed a } := by
  have hnot : ¬ (!types.contains a.pkt.type || a.pkt.linkLocal || !d.idCommitted || d.route a.port.val a.pkt ≠ .here) = true := by
    rw [h.type, hty, Pkt.linkLocal_of_type h.type, hll, h.id, h.here]
    decide
  have htakes : ¬ (!d.portTakes a.port.val a.pkt) = true := by rw [h.takes]; decide
  have hcalm : ¬ d.clamps a.pkt = true := by rw [h.calm]; decide
  have hform : ¬ (!a.pkt.wellFormed a.flits) = true := by rw [h.form]; decide
  have hin : ¬ (!d.keyPasses a.port.val a.pkt) = true := by rw [h.keyIn]; decide
  have hhere : ¬ (!d.keyPasses localPort a.pkt) = true := by rw [h.keyHere]; decide
  have hrecv : receiveAct perf a.port.val a.flits a.pkt a.now.toNat f mm d = receiveGood perf a m f mm e := by
    unfold receiveAct
    rw [if_neg hcalm, if_neg hform, if_neg hin, if_neg hhere]
    simp only [h.opened]
    rfl
  unfold deliverAct
  rw [if_neg hnot]
  unfold arriveAct
  simp only
  rw [if_neg htakes, hrecv]
  rfl

/-- A packet without a number. -/
theorem Dev.Delivered.plain {d e : Dev} {a : Arrival} {ty : Nat} {m : Bool} (h : d.Delivered a ty m e) (perf : Perf) {types : List Nat}
    (hty : types.contains ty = true) (hk : ty = 0x40 ∨ ty = 0x41 ∨ ty = 0x42) (f : Fuses) (mm : Mem) :
    deliverAct perf types a f mm d = { (perf a.pkt 0 a.now.toNat f mm e).2 with dev := (perf a.pkt 0 a.now.toNat f mm e).2.dev.passed a } := by
  have hseq : (!a.pkt.sequenced) = true := by
    rw [Pkt.sequenced_of_type h.type]
    rcases hk with rfl | rfl | rfl <;> rfl
  have hll : (0x60 ≤ ty && ty ≤ 0x6F : Bool) = false := by rcases hk with rfl | rfl | rfl <;> rfl
  have hgood : receiveGood perf a m f mm e = (perf a.pkt 0 a.now.toNat f mm e).2 := if_pos hseq
  rw [h.runs perf hty hll f mm, hgood]

/-- A numbered packet that is accepted. -/
theorem Dev.Delivered.accepts {d e : Dev} {a : Arrival} {ty : Nat} {m : Bool} (h : d.Delivered a ty m e) (perf : Perf) {types : List Nat}
    (hty : types.contains ty = true)
    (hk : (!(0x60 ≤ ty && ty ≤ 0x6F : Bool) && ty ≠ 0x40 && ty ≠ 0x41 && ty ≠ 0x42 : Bool) = true) {r : RecvFlow} {z : Bool}
    (hplace : e.place7 (arrivalFlow a) a.pkt = .accept r z) (f : Fuses) (mm : Mem) :
    deliverAct perf types a f mm d = { acceptAct perf (arrivalFlow a) a.pkt (r.fresh z) z m a.now.toNat f mm e with
      dev := (acceptAct perf (arrivalFlow a) a.pkt (r.fresh z) z m a.now.toNat f mm e).dev.passed a } := by
  have hseq : ¬ (!a.pkt.sequenced) = true := by
    rw [Pkt.sequenced_of_type h.type, hk]
    decide
  have hll : (0x60 ≤ ty && ty ≤ 0x6F : Bool) = false := by
    cases hb : (0x60 ≤ ty && ty ≤ 0x6F : Bool) with
    | false => rfl
    | true => rw [hb] at hk; exact absurd hk (by simp)
  have hgood : receiveGood perf a m f mm e = acceptAct perf (arrivalFlow a) a.pkt (r.fresh z) z m a.now.toNat f mm e := by
    unfold receiveGood
    simp only
    rw [if_neg hseq, hplace]
  rw [h.runs perf hty hll f mm, hgood]

/-- A flow that was opened over is counted. -/
def Dev.reopened (d : Dev) (z : Bool) : Dev := if z then d.count RTE_REL.RESYNC else d

/-- The action of a packet, as the end of its flow, before it leaves the input buffer; none where it waits. -/
def ranAccept (perf : Perf) (a : Arrival) (r : RecvFlow) (z m : Bool) (q : Pkt) (map n : Nat) (f : Fuses) (mm : Mem) (e : Dev) : Option Res :=
  match perf q map a.now.toNat f mm (e.taking a r z) with
  | (.wait, _) => none
  | (.done, x) => some { x with dev := (x.dev.accepted (arrivalFlow a) (r.fresh z) a.pkt n (b2n m)).reopened z }
  | (.refused st addr, x) =>
    some { x with dev := ((x.dev.sendRefuse q q.tc.val st addr).accepted (arrivalFlow a) (r.fresh z) a.pkt n (b2n m)).reopened z }

/-- What a packet's action comes to: performed or refused; none where it waits. -/
def endAccept (perf : Perf) (a : Arrival) (r : RecvFlow) (z m : Bool) (q : Pkt) (map n : Nat) (f : Fuses) (mm : Mem) (e : Dev) : Option Res :=
  match perf q map a.now.toNat f mm (e.taking a r z) with
  | (.wait, _) => none
  | (.done, x) => some { x with dev := x.dev.took a r z m n }
  | (.refused st addr, x) => some { x with dev := (x.dev.sendRefuse q q.tc.val st addr).took a r z m n }

theorem endAccept_eq {perf : Perf} {a : Arrival} {r : RecvFlow} {z m : Bool} {q : Pkt} {map n : Nat} {f : Fuses} {mm : Mem} {e : Dev} :
    endAccept perf a r z m q map n f mm e = (ranAccept perf a r z m q map n f mm e).map (fun x => { x with dev := x.dev.passed a }) := by
  unfold endAccept ranAccept
  split <;> rfl

theorem endAccept_done {perf : Perf} {a : Arrival} {r : RecvFlow} {z m : Bool} {q : Pkt} {map n : Nat} {f : Fuses} {mm : Mem} {e : Dev} {x : Res}
    (h : perf q map a.now.toNat f mm (e.taking a r z) = (.done, x)) :
    endAccept perf a r z m q map n f mm e = some { x with dev := x.dev.took a r z m n } := by
  unfold endAccept
  rw [h]

theorem endAccept_refused {perf : Perf} {a : Arrival} {r : RecvFlow} {z m : Bool} {q : Pkt} {map n : Nat} {f : Fuses} {mm : Mem} {e : Dev} {x : Res}
    {st addr : Nat} (h : perf q map a.now.toNat f mm (e.taking a r z) = (.refused st addr, x)) :
    endAccept perf a r z m q map n f mm e = some { x with dev := (x.dev.sendRefuse q q.tc.val st addr).took a r z m n } := by
  unfold endAccept
  rw [h]

theorem RecvFlow.fresh_mapped {r : RecvFlow} {z : Bool} (h : z = false → r.mapped = none) : (r.fresh z).mapped = none := by
  cases z with
  | false => exact h rfl
  | true => rfl

theorem Dev.Delivered.ends {d e : Dev} {a : Arrival} {ty : Nat} {m : Bool} (h : d.Delivered a ty m e) {perf : Perf} {types : List Nat}
    (hty : types.contains ty = true)
    (hk : (!(0x60 ≤ ty && ty ≤ 0x6F : Bool) && ty ≠ 0x40 && ty ≠ 0x41 && ty ≠ 0x42 : Bool) = true) {r : RecvFlow} {z : Bool}
    (hplace : e.place7 (arrivalFlow a) a.pkt = .accept r z) {f : Fuses} {mm : Mem} {q : Pkt} {map n : Nat}
    (hacc : acceptAct perf (arrivalFlow a) a.pkt (r.fresh z) z m a.now.toNat f mm e = (ranAccept perf a r z m q map n f mm e).getD { dev := e })
    {x : Res} (hx : endAccept perf a r z m q map n f mm e = some x) : deliverAct perf types a f mm d = x := by
  rw [h.accepts perf hty hk hplace f mm, hacc]
  rw [endAccept_eq] at hx
  generalize ranAccept perf a r z m q map n f mm e = y at hx
  cases y with
  | none => exact absurd hx (by simp)
  | some y => exact Option.some.inj hx

/-- A numbered packet that comes in order. -/
theorem Dev.InOrder.runs {d e : Dev} {a : Arrival} {ty : Nat} {m : Bool} {r : RecvFlow} {z : Bool} (h : d.InOrder a ty m e r z) {perf : Perf}
    {types : List Nat} (hty : types.contains ty = true)
    (hk : (!(0x60 ≤ ty && ty ≤ 0x6F : Bool) && ty ≠ 0x40 && ty ≠ 0x41 && ty ≠ 0x42 : Bool) = true) (hmap : ty ≠ 0x59) {f : Fuses} {mm : Mem}
    {x : Res} (hx : endAccept perf a r z m a.pkt 0 1 f mm e = some x) : deliverAct perf types a f mm d = x := by
  have hnone := RecvFlow.fresh_mapped h.alone
  have hne : ¬ a.pkt.type = 0x59 := by rw [h.type]; exact hmap
  have hpm : ¬ a.pkt.pmap = true := by rw [h.whole]; decide
  refine h.toDelivered.ends hty hk h.place ?_ hx
  unfold acceptAct
  simp only
  split
  · rename_i q hq
    rw [hnone] at hq
    exact absurd hq (by simp)
  · rw [if_neg hne, if_neg hpm]
    rfl

/-- A POISON_MAP that completes the packet before it. -/
theorem Dev.Delivered.mapped {d e : Dev} {a : Arrival} {m : Bool} {r : RecvFlow} {z : Bool} {q : Pkt} (h : d.Delivered a 0x59 m e) {perf : Perf}
    {types : List Nat} (hty : types.contains 0x59 = true) (hplace : e.place7 (arrivalFlow a) a.pkt = .accept r z) (hq : (r.fresh z).mapped = some q)
    {f : Fuses} {mm : Mem} {x : Res} (hx : endAccept perf a r z m q (a.pkt.at' 0x10 8) 2 f mm e = some x) : deliverAct perf types a f mm d = x := by
  refine h.ends hty (by decide) hplace ?_ hx
  unfold acceptAct
  simp only
  split
  · rename_i q' hq'
    rw [hq] at hq'
    rw [if_pos h.type, ← Option.some.inj hq']
    rfl
  · rename_i hq'
    rw [hq] at hq'
    exact absurd hq' (by simp)

/-! ### What an accepted packet leaves -/

/-- Nothing but what waits to be sent, the links, the receivers' ends of flows and registers of the router differs. -/
structure Dev.Received (a b : Dev) : Prop where
  frame : ∃ q l rv g, b = { a with outq := q, lnk := l, rte := { a.rte with recv := rv }, regs := g }

namespace Dev.Received

variable {a b c : Dev}

theorem refl : a.Received a := ⟨⟨_, _, _, _, rfl⟩⟩

theorem trans (h : a.Received b) (g : b.Received c) : a.Received c := by
  obtain ⟨q, l, rv, x, rfl⟩ := h
  obtain ⟨q', l', rv', x', rfl⟩ := g
  exact ⟨⟨_, _, _, _, rfl⟩⟩

theorem putRecv {f : Nat} {r : RecvFlow} : a.Received (a.putRecv f r) := ⟨⟨_, _, _, _, rfl⟩⟩

theorem originate {n : Nat} {p : Pkt} : a.Received (a.originate n p) := ⟨⟨_, _, _, _, rfl⟩⟩

theorem count {f : Fld} {i n : Nat} : a.Received (a.count f i n) := by
  have h : a.onlyRegs (a.count f i n) := .count a f i n
  exact ⟨⟨_, _, _, _, h⟩⟩

theorem passed {x : Arrival} : a.Received (a.passed x) := ⟨⟨_, _, _, _, rfl⟩⟩

theorem thr (h : a.Received b) : b.thr = a.thr := by
  obtain ⟨q, l, rv, x, rfl⟩ := h
  rfl

theorem ctx (h : a.Received b) : b.ctx = a.ctx := by
  obtain ⟨q, l, rv, x, rfl⟩ := h
  rfl

theorem send (h : a.Received b) : b.rte.send = a.rte.send := by
  obtain ⟨q, l, rv, x, rfl⟩ := h
  rfl

end Dev.Received

theorem Dev.sendAck_received (d : Dev) (f : Nat) : d.Received (d.sendAck f) := by
  unfold Dev.sendAck
  split
  · exact .refl
  · exact Dev.Received.trans (.originate) .putRecv

theorem Dev.accepted_received (d : Dev) (f : Nat) (r : RecvFlow) (p : Pkt) (n ce : Nat) : d.Received (d.accepted f r p n ce) := by
  unfold Dev.accepted
  simp only
  split
  · exact Dev.Received.trans .putRecv (Dev.sendAck_received _ _)
  · exact .putRecv

theorem Dev.took_received (x : Dev) (a : Arrival) (r : RecvFlow) (z m : Bool) (n : Nat) : x.Received (x.took a r z m n) := by
  unfold Dev.took
  simp only
  refine (x.accepted_received (arrivalFlow a) (r.fresh z) a.pkt n (b2n m)).trans (Dev.Received.trans ?_ .passed)
  split
  · exact .count
  · exact .refl

theorem Dev.recvFlow_putRecv (d : Dev) (f : Nat) (q : RecvFlow) : (d.putRecv f q).recvFlow f = some q := by
  simp only [Dev.putRecv, Dev.modRte, Dev.recvFlow, tblGet_set_self]

theorem Dev.recvFlow_count (d : Dev) (g : Fld) (i n f : Nat) : (d.count g i n).recvFlow f = d.recvFlow f := by
  unfold Dev.recvFlow
  rw [Dev.count_rte]

theorem Dev.recvFlow_passed (d : Dev) (a : Arrival) (f : Nat) : (d.passed a).recvFlow f = d.recvFlow f := rfl

/-- An accepted packet's flow once it has been performed. -/
theorem Dev.accepted_flow (x : Dev) (f : Nat) (r : RecvFlow) (p : Pkt) (n ce : Nat) : ∃ q, (x.accepted f r p n ce).recvFlow f = some q
    ∧ q.exp = (p.seq.toNat + 1) % 65536 ∧ q.short = ((x.recvFlow f).getD r).short := by
  unfold Dev.accepted
  simp only
  split
  · unfold Dev.sendAck
    rw [Dev.recvFlow_putRecv]
    exact ⟨_, Dev.recvFlow_putRecv _ _ _, rfl, rfl⟩
  · exact ⟨_, Dev.recvFlow_putRecv _ _ _, rfl, rfl⟩

/-- The flow of an accepted packet expects the next number, and keeps the short write that it gathers. -/
theorem Dev.took_expects (x : Dev) (a : Arrival) (r : RecvFlow) (z m : Bool) (n : Nat) : ((x.took a r z m n).recvFlow (arrivalFlow a)).map (fun f => (f.exp, f.short))
    = some ((a.pkt.seq.toNat + 1) % 65536, ((x.recvFlow (arrivalFlow a)).getD (r.fresh z)).short) := by
  obtain ⟨q, hq, hexp, hshort⟩ := x.accepted_flow (arrivalFlow a) (r.fresh z) a.pkt n (b2n m)
  have htook : (x.took a r z m n).recvFlow (arrivalFlow a) = some q := by
    unfold Dev.took
    simp only
    generalize x.accepted (arrivalFlow a) (r.fresh z) a.pkt n (b2n m) = y at hq
    rw [Dev.recvFlow_passed]
    split
    · exact (y.recvFlow_count _ _ _ _).trans hq
    · exact hq
  rw [htook, Option.map_some, hexp, hshort]

theorem Dev.took_exp (x : Dev) (a : Arrival) (r : RecvFlow) (z m : Bool) (n : Nat) :
    ((x.took a r z m n).recvFlow (arrivalFlow a)).map (·.exp) = some ((a.pkt.seq.toNat + 1) % 65536) := by
  have h := congrArg (Option.map Prod.fst) (x.took_expects a r z m n)
  rwa [Option.map_map, Option.map_some] at h

/-- The device as an accepted packet's action finds it differs in its flow alone. -/
theorem Dev.taking_received (e : Dev) (a : Arrival) (r : RecvFlow) (z : Bool) : e.Received (e.taking a r z) := .putRecv

end Sys2Proof.Machine
end

section
/-! The ends of flows: acknowledgements, rejections, resets, refusals and timers (R384 to R389, R393). -/

namespace Sys2Proof.Machine

open Sys2Proof.Laws

/-! ### What an answer to a sender leaves -/

/-- The router and all registers but those that halts change stay. -/
structure Dev.Settles (a b : Dev) : Prop where
  rte : b.rte = a.rte
  regs : a.RegsOutside b runRegs

namespace Dev.Settles

variable {a b c : Dev}

theorem refl : a.Settles a := ⟨rfl, .refl a _⟩

theorem trans (h : a.Settles b) (g : b.Settles c) : a.Settles c := ⟨g.rte.trans h.rte, h.regs.trans g.regs⟩

theorem of_same (hr : b.rte = a.rte) (hg : b.regs = a.regs) : a.Settles b := ⟨hr, .of_regs hg _⟩

theorem of_calm (h : a.Calm b) : a.Settles b := ⟨h.rte, h.regs⟩

theorem modThr {k : Nat} {f : Thread → Thread} : a.Settles (a.modThr k f) := of_same rfl rfl

theorem modStr {k : Nat} {f : Stream → Stream} : a.Settles (a.modStr k f) := of_same rfl rfl

theorem modCore {k : Nat} {f : Core → Core} : a.Settles (a.modCore k f) := of_same rfl rfl

theorem modCtx {c : CtxId} {f : Ctx → Ctx} : a.Settles (a.modCtx c f) := of_same rfl rfl

theorem ite {r : Prop} [Decidable r] (hb : a.Settles b) (hc : a.Settles c) : a.Settles (if r then b else c) := by
  split
  · exact hb
  · exact hc

theorem foldl {A : Type} {f : Dev → A → Dev} (hf : ∀ (d : Dev) (x : A), d.Settles (f d x)) (l : List A) (d : Dev) : d.Settles (l.foldl f d) :=
  foldl_keeps (P := fun b => d.Settles b) (fun b x hb => hb.trans (hf b x)) l d refl

theorem send (h : a.Settles b) (f : Nat) : b.sendFlow f = a.sendFlow f := by rw [Dev.sendFlow, h.rte, Dev.sendFlow]

end Dev.Settles

theorem Dev.endThreads_settles (d : Dev) (c : CtxId) : d.Settles (d.endThreads c) := by
  unfold Dev.endThreads
  exact .ite (.of_calm (d.haltCtx_calm c _)) .refl

theorem Dev.threadFault_settles (d : Dev) (k cause tval pc : Nat) : d.Settles (d.threadFault k cause tval pc) := by
  unfold Dev.threadFault
  refine .ite .refl ?_
  generalize hx : d.modThr k _ = x
  have h1 : d.Settles x := hx ▸ .modThr
  simp only
  cases x.holder (k / 8) with
  | none => exact h1
  | some c =>
    refine Dev.Settles.trans ?_ (Dev.endThreads_settles _ c)
    refine Dev.Settles.trans ?_ (.of_calm (.of_reports (Dev.Reports.event _ c 2 _)))
    exact h1.trans (.ite .modCtx .refl)

theorem Dev.wakeShorts_settles (d : Dev) (core : Nat) : d.Settles (d.wakeShorts core) := by
  unfold Dev.wakeShorts
  exact .foldl (fun b t => .modThr) _ d

theorem Dev.farAnswer_settles (d : Dev) (core id st : Nat) : d.Settles (d.farAnswer core id st) := by
  unfold Dev.farAnswer
  simp only
  generalize hx : d.modCore core _ = x
  have h1 : d.Settles x := hx ▸ .modCore
  refine Dev.Settles.trans ?_ (Dev.wakeShorts_settles _ core)
  split
  · exact h1
  · exact (h1.trans (.ite .refl (x.threadFault_settles _ _ _ _))).trans .modThr

theorem Dev.amoAnswer_settles (d : Dev) (k id st old : Nat) (uninit : Bool) : d.Settles (d.amoAnswer k id st old uninit) := by
  unfold Dev.amoAnswer
  refine Dev.Settles.trans ?_ (Dev.farAnswer_settles _ _ _ _)
  split
  · refine .ite ?_ .refl
    exact Dev.Settles.trans (.ite (by unfold Dev.noteUninit; exact .modCore) .refl) .modThr
  · exact .refl

theorem Dev.segAnswer_settles (d : Dev) (k accept index access named st : Nat) : d.Settles (d.segAnswer k accept index access named st) := .modStr

theorem Dev.relayAnswer_settles (d : Dev) (k : Nat) (mv : RingMove) : d.Settles (d.relayAnswer k mv) := by
  unfold Dev.relayAnswer
  generalize hx : d.modStr k _ = x
  have h1 : d.Settles x := hx ▸ .modStr
  exact .ite (h1.trans (Dev.Settles.trans .modStr .modStr)) h1

theorem Dev.loadAnswer_settles (d : Dev) (k st : Nat) : d.Settles (d.loadAnswer k st) := by
  unfold Dev.loadAnswer
  split
  · exact .ite .refl (d.threadFault_settles _ _ _ _)
  · exact .refl

theorem Dev.freeSlot_settles (d : Dev) (k : Nat) (slot : Option Nat) : d.Settles (d.freeSlot k slot) := by
  cases slot with
  | none => exact .refl
  | some id => exact d.farAnswer_settles _ _ _

theorem Dev.settle_settles (d : Dev) (who : Sender) (st : Nat) : d.Settles (d.settle who st) := by
  cases who with
  | none => exact .refl
  | stream k a i v slot =>
    exact (d.segAnswer_settles k a i 1 v (answerStatus st)).trans (Dev.freeSlot_settles _ k slot)
  | relay k mv => exact .ite (d.relayAnswer_settles k mv) .refl
  | far core id => exact d.farAnswer_settles core id st
  | amo k id => exact .ite .refl (d.amoAnswer_settles k id st 0 false)
  | get k a i _ _ v => exact .ite .refl (d.segAnswer_settles k a i 0 v (answerStatus st))
  | load k => exact .ite .refl (d.loadAnswer_settles k st)

theorem Dev.settles_all {A : Type} (w : A → Sender) (st : Nat) (l : List A) (d : Dev) : d.Settles (l.foldl (fun d x => d.settle (w x) st) d) :=
  .foldl (fun b x => b.settle_settles (w x) st) l d

/-! ### Changes of a flow's source -/

theorem Dev.sendFlow_modSend (d : Dev) (f : Nat) (g : SendFlow → SendFlow) : (d.modSend f g).sendFlow f = g (d.sendFlow f) := by
  simp only [Dev.modSend, Dev.modRte, Dev.sendFlow, tblGet_mod_self]

theorem Dev.sendFlow_of_send {a b : Dev} (h : b.rte.send = a.rte.send) (f : Nat) : b.sendFlow f = a.sendFlow f := by
  rw [Dev.sendFlow, h, Dev.sendFlow]

/-- A flow that fails is empty, waits for nothing and opens over; its next number stands. -/
theorem Dev.failFlow_does (d : Dev) (f : Nat) : (d.failFlow f).sendFlow f = { d.sendFlow f with unacked := [], opening := true, rto := 0, lock := none, await := [] }
    ∧ d.RegsOutside (d.failFlow f) runRegs := by
  unfold Dev.failFlow
  simp only
  generalize hx : d.modSend f _ = x
  have hsend : x.sendFlow f = { d.sendFlow f with unacked := [], opening := true, rto := 0, lock := none, await := [] } := by
    rw [← hx]
    exact d.sendFlow_modSend f _
  have hregs : d.RegsOutside x runRegs := hx ▸ .of_regs rfl _
  have h1 := Dev.settles_all (fun x : Sent => x.out.who) 0xE (d.sendFlow f).unacked x
  generalize (d.sendFlow f).unacked.foldl (fun d x => d.settle x.out.who 0xE) x = y at h1
  have h2 := h1.trans (Dev.settles_all (fun x : Nat × Sender => x.2) 0xE ((d.sendFlow f).await.filter (fun a => !(d.sendFlow f).unacked.any (fun x => x.seq = a.1))) y)
  exact ⟨(h2.send f).trans hsend, hregs.trans h2.regs⟩

/-- An acknowledgement that covers a packet takes those before its number off the flow. -/
theorem Dev.advance_does {d : Dev} {f e : Nat} {clear : Bool} (hcov : (d.sendFlow f).covers e = true) (hsome : ∃ x ∈ (d.sendFlow f).unacked, x.before e = true) :
    ((d.advance f e clear).sendFlow f).opening = false ∧ ((d.advance f e clear).sendFlow f).rto = 0
    ∧ ((d.advance f e clear).sendFlow f).unacked = (d.sendFlow f).unacked.filter (fun x => !x.before e) := by
  obtain ⟨x, hx, hb⟩ := hsome
  have hgone : ¬ ((d.sendFlow f).unacked.filter (fun x => x.before e)).isEmpty = true := by
    rw [List.isEmpty_iff]
    exact List.ne_nil_of_mem (List.mem_filter.mpr ⟨hx, hb⟩)
  have hnot : ¬ (!(d.sendFlow f).covers e) = true := by rw [hcov]; decide
  have hform : d.advance f e clear = (if ((d.sendFlow f).unacked.filter (fun x => x.before e)).isEmpty then d
      else ((d.sendFlow f).unacked.filter (fun x => x.before e)).foldl (fun d x => d.settle x.out.who (if clear then 1 else 0))
        (d.modSend f (fun s => { s with
          unacked := s.unacked.filter (fun x => !x.before e), opening := false, rto := 0,
          await := if clear then s.await.filter (fun a => !((d.sendFlow f).unacked.filter (fun x => x.before e)).any (fun x => x.seq = a.1)) else s.await }))) := by
    unfold Dev.advance
    simp only
    rw [if_neg hnot]
    rfl
  rw [hform, if_neg hgone]
  generalize hy : d.modSend f _ = y
  have hsend : (y.sendFlow f).opening = false ∧ (y.sendFlow f).rto = 0 ∧ (y.sendFlow f).unacked = (d.sendFlow f).unacked.filter (fun x => !x.before e) := by
    rw [← hy, Dev.sendFlow_modSend]
    exact ⟨rfl, rfl, rfl⟩
  rw [(Dev.settles_all (fun x : Sent => x.out.who) _ _ y).send f]
  exact hsend

theorem Dev.putRate_send (d : Dev) (f v : Nat) : (d.putRate f v).rte.send = d.rte.send := by
  unfold Dev.putRate
  split
  · rfl
  · simp only [Dev.modRte]
    split
    · split
      · rfl
      · rfl
    · rfl

theorem Dev.cutRate_send (d : Dev) (f now : Nat) : (d.cutRate f now).rte.send = d.rte.send := by
  unfold Dev.cutRate
  simp only
  split
  · rfl
  · generalize hx : d.putRate f _ = x
    have h : x.rte.send = d.rte.send := hx ▸ d.putRate_send f _
    split
    · exact h
    · exact h

/-! ### Sending again -/

theorem Dev.sealPkt_send (d : Dev) (att : Nat) (p : Pkt) : (d.sealPkt att p).2.rte.send = d.rte.send := by
  unfold Dev.sealPkt
  simp only
  split
  · rfl
  · split
    · rfl
    · split
      · rfl
      · rfl

theorem Dev.freeFlits_rte (d : Dev) (k vc n : Nat) : (d.freeFlits k vc n).rte = d.rte := rfl

theorem Dev.sendFlits_rte (d : Dev) (k i : Nat) (v : VcPkt) : (d.sendFlits k i v).rte = d.rte := by
  unfold Dev.sendFlits
  simp only
  split
  · split
    · rfl
    · rfl
  · rfl

theorem Dev.pumpVc_rte (k vc : Nat) : ∀ (n : Nat) (d : Dev), (Dev.pumpVc k vc n d).rte = d.rte
  | 0, _ => rfl
  | n + 1, d => by
    unfold Dev.pumpVc
    split
    · rfl
    · rename_i i v _
      simp only
      split
      · exact (Dev.pumpVc_rte k vc n _).trans (d.sendFlits_rte k i v)
      · exact d.sendFlits_rte k i v

theorem Dev.pump_rte (d : Dev) (k : Nat) : (d.pump k).rte = d.rte := by
  unfold Dev.pump
  exact foldl_keeps (P := fun b : Dev => b.rte = d.rte) (fun b vc hb => (Dev.pumpVc_rte k vc _ b).trans hb) _ d rfl

theorem Dev.enqueue_rte (d : Dev) (k : Nat) (upper marked : Bool) (p : Pkt) (inp : Option (Nat × Nat)) : (d.enqueue k upper marked p inp).rte = d.rte := by
  unfold Dev.enqueue
  exact Dev.pump_rte _ k

theorem Dev.violation_rte (d : Dev) (k : Nat) (p : Pkt) (sending : Bool) : (d.violation k p sending).rte = d.rte := by
  unfold Dev.violation
  rw [Dev.put_rte, Dev.put_rte, Dev.put_rte, Dev.count_rte]

/-- A packet that leaves the module's side of the router leaves the sources' ends of flows. -/
theorem Dev.transmit_send (d : Dev) (att : Nat) (o : OutPkt) (seq : Nat) (syn : Bool) : (d.transmit att o seq syn).rte.send = d.rte.send := by
  unfold Dev.transmit
  split
  · rw [Dev.count_rte]
  · simp only
    have hseal := d.sealPkt_send att (((({ o.pkt with seq := BitVec.ofNat 16 seq } : Pkt).putFlag 0 1 d.inforce)).putFlag 1 1 (b2n syn))
    generalize d.sealPkt att (((({ o.pkt with seq := BitVec.ofNat 16 seq } : Pkt).putFlag 0 1 d.inforce)).putFlag 1 1 (b2n syn)) = r at hseal
    obtain ⟨p, e⟩ := r
    cases p with
    | none => exact hseal
    | some p =>
      simp only
      split
      · exact (congrArg Rte.send (e.violation_rte _ _ _)).trans hseal
      · split
        · exact hseal
        · exact (congrArg Rte.send (Dev.count_rte _ _ _ _)).trans hseal
        · exact (congrArg Rte.send (e.violation_rte _ _ _)).trans hseal
        · split
          · exact (congrArg Rte.send (Dev.count_rte _ _ _ _)).trans hseal
          · split
            · exact (congrArg Rte.send (e.violation_rte _ _ _)).trans hseal
            · exact (congrArg Rte.send (e.enqueue_rte _ _ _ _ _)).trans hseal

/-- A flow that is sent again stands as it was. -/
theorem Dev.resend_send (d : Dev) (m : Mem) (f e : Nat) : (d.resend m f e).rte.send = d.rte.send := by
  unfold Dev.resend
  simp only
  refine foldl_keeps (P := fun b : Dev => b.rte.send = d.rte.send) (fun b x hb => ?_) _ d rfl
  exact (Dev.transmit_send _ _ _ _ _).trans ((congrArg Rte.send (Dev.count_rte _ _ _ _)).trans hb)

end Sys2Proof.Machine
end

section
/-! Faults of threads that wait for an answer, and what flows come to (R165, R384 to R389, R393). -/

namespace Sys2Proof.Machine

open Sys2Proof.Laws

/-! ### The fault record of a thread -/

/-- The fault record of a thread: cause, value, PC. -/
def Dev.faultOf (d : Dev) (n : Nat) : Nat × Nat × Nat := ((d.thrAt n).cause, (d.thrAt n).tval, (d.thrAt n).tpc)

theorem Dev.modThr_at (d : Dev) (n : Nat) (f : Thread → Thread) : (d.modThr n f).thrAt n = f (d.thrAt n) := by
  simp only [Dev.modThr, Dev.thrAt, tblGet_mod_self]

theorem Dev.modThr_at_ne (d : Dev) {n k : Nat} (f : Thread → Thread) (h : k ≠ n) : (d.modThr n f).thrAt k = d.thrAt k := by
  simp only [Dev.modThr, Dev.thrAt, tblGet_mod_ne h]

theorem Dev.faultOf_of_thr {a b : Dev} (h : b.thr = a.thr) (n : Nat) : b.faultOf n = a.faultOf n := by
  unfold Dev.faultOf Dev.thrAt
  rw [h]

/-- A change of a thread that leaves fault records leaves them. -/
theorem Dev.faultOf_modThr (d : Dev) (k n : Nat) {f : Thread → Thread} (hf : ∀ t, (f t).cause = t.cause ∧ (f t).tval = t.tval ∧ (f t).tpc = t.tpc) :
    (d.modThr k f).faultOf n = d.faultOf n := by
  unfold Dev.faultOf
  by_cases e : n = k
  · subst e
    obtain ⟨h1, h2, h3⟩ := hf (d.thrAt n)
    rw [Dev.modThr_at, h1, h2, h3]
  · rw [Dev.modThr_at_ne _ _ e]

theorem Dev.stopCores_thr (d : Dev) (cores : List Nat) :
    (d.stopCores cores).thr = tblMap Thread.init (fun k t => if cores.contains (k / 8) then t.stop else t) d.thr := by
  have hdrop : ∀ (d : Dev) (core k : Nat), (d.dropLoadb core k).thr = d.thr := fun d core k => by
    unfold Dev.dropLoadb
    split
    · split <;> rfl
    · rfl
  unfold Dev.stopCores
  exact foldl_keeps (P := fun b : Dev => b.thr = tblMap Thread.init (fun k t => if cores.contains (k / 8) then t.stop else t) d.thr)
    (fun b k hb => foldl_keeps (P := fun b : Dev => b.thr = tblMap Thread.init (fun k t => if cores.contains (k / 8) then t.stop else t) d.thr)
      (fun b e hb => (hdrop b k e).trans hb) _ b hb) _ _ rfl

theorem Dev.haltCtx_thr (d : Dev) (c : CtxId) (r : Nat) :
    (d.haltCtx c r).thr = tblMap Thread.init (fun k t => if (d.ctxAt c).cores.contains (k / 8) then t.stop else t) d.thr := by
  unfold Dev.haltCtx
  simp only
  rw [← d.stopCores_thr (d.ctxAt c).cores]
  generalize d.stopCores (d.ctxAt c).cores = x
  have h1 := (Dev.Reports.finishOp (x.dropMoves c) c opHaltAtBeat (if r = haltAtBeatReason then 0 else 0x14)).thr
  generalize (x.dropMoves c).finishOp c opHaltAtBeat (if r = haltAtBeatReason then 0 else 0x14) = y at h1
  generalize hz : y.modCtx c _ = z
  have h2 : z.thr = y.thr := hz ▸ rfl
  exact (Dev.settleModule_thr _).trans ((Dev.Reports.event z c 5 _).thr.trans (h2.trans h1))

/-- A halt keeps the fault record of a thread that has one. -/
theorem Dev.haltCtx_faultOf (d : Dev) (c : CtxId) (r n : Nat) (h : (d.thrAt n).cause ≠ 0) : (d.haltCtx c r).faultOf n = d.faultOf n := by
  have hstop : ∀ (k : Nat) (t : Thread), (if (d.ctxAt c).cores.contains (k / 8) then t.stop else t).cause = t.cause
      ∧ (if (d.ctxAt c).cores.contains (k / 8) then t.stop else t).tval = t.tval
      ∧ (if (d.ctxAt c).cores.contains (k / 8) then t.stop else t).tpc = t.tpc := fun k t => by
    split <;> exact ⟨rfl, rfl, rfl⟩
  have hne : ∀ t : Thread, t.cause ≠ 0 → t ≠ Thread.init := fun t ht e => ht (by rw [e]; rfl)
  obtain ⟨h1, h2, h3⟩ := hstop n (d.thrAt n)
  have hget := tblGet_map_of_ne (e := Thread.init) (v := d.thrAt n) (k := n)
    (f := fun k t => if (d.ctxAt c).cores.contains (k / 8) then t.stop else t) (t := d.thr) (hne _ (by rw [h1]; exact h)) (hne _ h) rfl
  unfold Dev.faultOf
  rw [Dev.thrAt, Dev.haltCtx_thr, hget, h1, h2, h3]

theorem Dev.threadFault_faultOf (d : Dev) (n cause tval pc : Nat) (hf : (d.thrAt n).state.faults = true) (hc : cause ≠ 0) :
    (d.threadFault n cause tval pc).faultOf n = (cause, tval, pc) := by
  unfold Dev.threadFault
  rw [if_neg (by rw [hf]; decide)]
  simp only
  generalize hx : d.modThr n _ = x
  have hat : x.thrAt n = { d.thrAt n with state := .fault, cause := cause, tval := tval, tpc := pc, resv := none, stall := none, wait := none } := by
    rw [← hx, Dev.modThr_at]
  have h1 : x.faultOf n = (cause, tval, pc) := by
    unfold Dev.faultOf
    rw [hat]
  cases x.holder (n / 8) with
  | none => exact h1
  | some c =>
    simp only
    generalize hy : (if cause = 17 then x.modCtx c _ else x) = y
    have hythr : y.thr = x.thr := by
      rw [← hy]
      split <;> rfl
    generalize hz : y.event c 2 _ = z
    have hzthr : z.thr = x.thr := by
      rw [← hz]
      exact (Dev.Reports.event y c 2 _).thr.trans hythr
    have h2 : z.faultOf n = (cause, tval, pc) := (Dev.faultOf_of_thr hzthr n).trans h1
    have hzc : (z.thrAt n).cause ≠ 0 := by
      have := congrArg Prod.fst h2
      exact fun e => hc (this.symm.trans e)
    unfold Dev.endThreads
    simp only
    split
    · exact (z.haltCtx_faultOf c _ n hzc).trans h2
    · exact h2

theorem Dev.wakeShorts_faultOf (d : Dev) (core n : Nat) : (d.wakeShorts core).faultOf n = d.faultOf n := by
  unfold Dev.wakeShorts
  refine foldl_keeps (P := fun b : Dev => b.faultOf n = d.faultOf n) (fun b t hb => ?_) _ d rfl
  refine (b.faultOf_modThr _ n fun t => ?_).trans hb
  split <;> exact ⟨rfl, rfl, rfl⟩

theorem answerCause_ne_zero (st : Nat) : answerCause st ≠ 0 := by
  unfold answerCause
  split <;> decide

/-- The first thread of a core that waits for an identifier. -/
theorem Dev.farOwner {d : Dev} {core id k : Nat} {g : Nat × Nat × Nat} (hk : k < 8) (hbefore : ∀ j < k, ∀ y ∈ (d.thrAt (core * 8 + j)).far, y.1 ≠ id)
    (hfind : (d.thrAt (core * 8 + k)).far.find? (fun y => y.1 = id) = some (id, g)) :
    (List.range 8).findSome? (fun t => ((d.thrAt (core * 8 + t)).far.find? (fun f => f.1 = id)).map (fun f => (core * 8 + t, f)))
      = some (core * 8 + k, (id, g)) := by
  have hsplit : ∀ k < 8, List.range 8 = List.range k ++ k :: List.range' (k + 1) (7 - k) := by decide
  rw [List.findSome?_eq_some_iff]
  refine ⟨List.range k, k, _, hsplit k hk, by rw [hfind]; rfl, fun j hj => ?_⟩
  have hnone : (d.thrAt (core * 8 + j)).far.find? (fun f => f.1 = id) = none := by
    rw [List.find?_eq_none]
    intro y hy
    simpa using hbefore j (List.mem_range.mp hj) y hy
  rw [hnone]
  rfl

/-- The thread that issued a far access that is refused takes its fault. -/
theorem Dev.farAnswer_faultOf {d : Dev} {core id k st : Nat} {g : Nat × Nat × Nat} (hk : k < 8)
    (hbefore : ∀ j < k, ∀ y ∈ (d.thrAt (core * 8 + j)).far, y.1 ≠ id)
    (hfind : (d.thrAt (core * 8 + k)).far.find? (fun y => y.1 = id) = some (id, g)) (hf : (d.thrAt (core * 8 + k)).state.faults = true) (hst : st ≠ 0) :
    (d.farAnswer core id st).faultOf (core * 8 + k) = (answerCause st, g.2.2, g.2.1) := by
  unfold Dev.farAnswer
  rw [Dev.farOwner hk hbefore hfind]
  simp only
  rw [Dev.wakeShorts_faultOf, if_neg hst]
  rw [Dev.faultOf_modThr]
  rotate_left
  · exact fun t => ⟨rfl, rfl, rfl⟩
  exact Dev.threadFault_faultOf _ _ _ _ _ hf (answerCause_ne_zero st)

/-! ### The rows of flows -/

/-- A key of a flow names its peer and its class. -/
theorem flowKey_parts (peer : Nat) (tc : Fin 4) : flowKey peer tc.val / 4 = peer ∧ flowKey peer tc.val % 4 = tc.val := by
  have := tc.isLt
  unfold flowKey
  omega

theorem Dev.passed_sendFlow (d : Dev) (a : Arrival) (f : Nat) : (d.passed a).sendFlow f = d.sendFlow f := rfl

/-- What an ACK in its own class leaves of the sources' flows. -/
theorem perfAck_advances {p : Pkt} {d : Dev} (h : p.at' 0x14 1 = p.tc.val) (map now : Nat) (fu : Fuses) (m : Mem) :
    ∃ y : Dev, y.rte.send = (d.advance (flowKey p.src.toNat p.tc.val) (p.at' 0x10 2) false).rte.send
      ∧ perfAck p map now fu m d = (.done, { dev := y }) := by
  have hclear : ((p.tc.val = 1 || p.tc.val = 2) && p.tc.val = 0 : Bool) = false := by
    cases hb : decide (p.tc.val = 0) with
    | false => exact Bool.and_false _
    | true => rw [of_decide_eq_true hb]; rfl
  unfold perfAck Perf.dev
  simp only [h, hclear, Bool.not_false, ne_eq, not_true_eq_false, decide_false, Bool.and_false, Bool.false_eq_true, if_false]
  generalize d.advance (flowKey p.src.toNat p.tc.val) (p.at' 0x10 2) false = x
  refine ⟨_, ?_, rfl⟩
  split
  · exact x.cutRate_send _ _
  · rfl

theorem Dev.sendAck_outq {d : Dev} {f : Nat} {r : RecvFlow} (h : d.recvFlow f = some r) : (d.sendAck f).recvFlow f = some { r with owed := 0, ce := 0 }
    ∧ tblGet [] (d.sendAck f).outq 10 = tblGet [] d.outq 10 ++ [plainOut (ctlPkt 0x40 (f % 4) r.pkey (f / 4) d.moduleId
        (leBytes 2 r.exp ++ leBytes 2 r.ce ++ leBytes 1 (f % 4)))] := by
  unfold Dev.sendAck
  rw [h]
  refine ⟨Dev.recvFlow_putRecv _ _ _, ?_⟩
  simp only [Dev.putRecv, Dev.modRte, Dev.sendCtl, Dev.originate, Dev.hand, tblGet_mod_self]

/-- A refusal of the packet of a far access: its thread is answered. -/
theorem perfRefuse_far {p : Pkt} {d : Dev} {x : Sent} {core id : Nat}
    (hfind : (d.sendFlow (flowKey p.src.toNat (p.at' 0x13 1))).unacked.find? (fun x => x.seq = p.at' 0x10 2) = some x) (hwho : x.out.who = .far core id)
    (map now : Nat) (fu : Fuses) (m : Mem) : ∃ y : Dev, y.thr = d.thr ∧ perfRefuse p map now fu m d = (.done, { dev := y.farAnswer core id (p.at' 0x12 1) }) := by
  refine ⟨d.modSend (flowKey p.src.toNat (p.at' 0x13 1)) (fun s => { s with
    unacked := s.unacked.map (fun x => if x.seq = p.at' 0x10 2 then { x with out := { x.out with who := Sender.none } } else x),
    await := s.await.filter (fun (e : Nat × Sender) => e.1 ≠ p.at' 0x10 2) }), rfl, ?_⟩
  unfold perfRefuse Perf.dev
  simp only [hfind, hwho]
  rfl

theorem Dev.rmax_of {a b : Dev} (h : b.rte.tbl = a.rte.tbl) (hr : b.regs = a.regs) (p : Nat) : b.rmax p = a.rmax p := by
  unfold Dev.rmax Dev.entry Dev.inforce
  simp only [h, Dev.get_of_regs hr]

/-- A rate that is set stands, where it is no more than the port's, and the flow is limited already. -/
theorem Dev.putRate_rate (d : Dev) {f v : Nat} (hlim : tblGet 0 d.rte.rate f ≠ 0) (hle : v ≤ d.rmax (f / 4)) (hv : v = 0 → d.rmax (f / 4) = 0) :
    (d.putRate f v).rateOf f = v := by
  unfold Dev.putRate
  by_cases hmax : d.rmax (f / 4) ≤ v
  · rw [if_pos hmax]
    unfold Dev.rateOf Dev.modRte
    simp only [tblGet_set_self, if_true]
    exact (Dev.rmax_of (a := d) rfl rfl _).trans (by omega)
  · rw [if_neg hmax]
    have hnot : (decide (tblGet 0 d.rte.rate f = 0) && decide (4096 ≤ d.rte.rate.length)) = false := by
      rw [decide_eq_false hlim]
      rfl
    simp only [hnot, Bool.false_eq_true, if_false]
    unfold Dev.rateOf Dev.modRte
    simp only [tblGet_set_self]
    rw [if_neg (fun e => by have := hv e; omega)]

end Sys2Proof.Machine

namespace Sys2Proof.Proofs

open Sys2Proof.Machine Sys2Proof.Laws

/-- Settles O34: each packet by what its action leaves of its flow, each timer by the flow that it names. -/
theorem flowControl : Obligations.FlowControl := by
  unfold Obligations.FlowControl
  refine ⟨fun a m e s hd htc hcov hsome => ?_, fun a m e f s hd hf => ?_, fun a m e f s hd hf => ?_,
    fun a m e r z x core id k g s ho hst hk hfind hwho hbefore hfar hfaults => ?_, fun flow r s hr howed => ?_,
    fun flow f rto o s hf hrto ho => ?_, fun flow f s hf hun => ?_, fun flow f s hf hlim hen => ?_⟩
  · obtain ⟨h1, h2, h3⟩ := Dev.advance_does (clear := false) hcov hsome
    rw [arrivalFlow] at h1 h2 h3
    have hrun := hd.plain perfAck (types := [0x40]) rfl (.inl rfl) s.fuse s.mem
    obtain ⟨y, hy, hperf⟩ := perfAck_advances (d := e) htc 0 a.now.toNat s.fuse s.mem
    rw [hperf] at hrun
    refine answers_device rfl hrun fun t ht hdev => ⟨ht, ?_⟩
    have hsend : t.dev.sendFlow (arrivalFlow a) = (e.advance (flowKey a.pkt.src.toNat a.pkt.tc.val) (a.pkt.at' 0x10 2) false).sendFlow (arrivalFlow a) := by
      rw [hdev, Dev.passed_sendFlow]
      exact Dev.sendFlow_of_send hy _
    rw [hsend]
    exact ⟨h1, h2, h3⟩
  · subst hf
    exact answers_of_dev rfl (hd.plain perfNack (types := [0x41]) rfl (.inr (.inl rfl)) s.fuse s.mem) rfl
  · subst hf
    refine answers_device rfl (hd.plain perfReset (types := [0x42]) rfl (.inr (.inr rfl)) s.fuse s.mem) fun t ht hdev => ⟨ht, ?_⟩
    have hfail := (e.failFlow_does (flowKey a.pkt.src.toNat (a.pkt.at' 0x14 1))).1
    rw [hdev]
    show ((e.failFlow _).sendFlow _).unacked = [] ∧ ((e.failFlow _).sendFlow _).await = [] ∧ ((e.failFlow _).sendFlow _).opening = true
      ∧ ((e.failFlow _).sendFlow _).next = _
    rw [hfail]
    exact ⟨rfl, rfl, rfl, rfl⟩
  · have htake := e.taking_received a r z
    rw [← Dev.sendFlow_of_send htake.send] at hfind
    obtain ⟨y, hthr, hperf⟩ := perfRefuse_far hfind hwho 0 a.now.toNat s.fuse s.mem
    refine answers_device rfl (ho.runs rfl (by decide) (by decide) (endAccept_done hperf)) fun t ht hdev => ⟨ht, ?_⟩
    have hthr' : y.thr = e.thr := hthr.trans htake.thr
    have hat : ∀ n, y.thrAt n = e.thrAt n := fun n => by rw [Dev.thrAt, hthr', Dev.thrAt]
    have hfault := Dev.farAnswer_faultOf (d := y) hk (fun j hj w hw => hbefore j hj w (by rw [← hat]; exact hw)) (by rw [hat]; exact hfar)
      (by rw [hat]; exact hfaults) hst
    have hlast := Dev.faultOf_of_thr ((y.farAnswer core id (a.pkt.at' 0x12 1)).took_received a r z m 1).thr (core * 8 + k)
    have hend := hlast.trans hfault
    rw [hdev]
    simp only [Dev.faultOf, Prod.mk.injEq] at hend
    exact hend
  · obtain ⟨hpeer, hcls⟩ := flowKey_parts flow.peer.toNat flow.tc
    obtain ⟨hrecv, hout⟩ := Dev.sendAck_outq hr
    refine answers_device (d := s.dev.sendAck (flowKey flow.peer.toNat flow.tc.val)) rfl ?_ fun t ht hdev => ⟨ht, ?_⟩
    · simp only [Act.dev, hr, howed, if_true]
    · rw [hdev]
      rw [hpeer, hcls] at hout
      exact ⟨hrecv, hout⟩
  · subst hf
    have hsend := Dev.sendFlow_of_send (s.dev.modSend (flowKey flow.peer.toNat flow.tc.val)
      (fun x => { x with rto := Nat.min (2 * rto) (Nat.max rto 10000) }) |>.resend_send s.mem (flowKey flow.peer.toNat flow.tc.val) o.seq)
      (flowKey flow.peer.toNat flow.tc.val)
    rw [Dev.sendFlow_modSend] at hsend
    refine answers_device (d := (s.dev.modSend (flowKey flow.peer.toNat flow.tc.val)
      (fun x => { x with rto := Nat.min (2 * rto) (Nat.max rto 10000) })).resend s.mem (flowKey flow.peer.toNat flow.tc.val) o.seq) rfl ?_
      fun t ht hdev => ⟨ht, by rw [hdev]; exact hsend, hdev⟩
    cases hun : (s.dev.sendFlow (flowKey flow.peer.toNat flow.tc.val)).unacked with
    | nil => rw [hun] at ho; exact absurd ho (by simp)
    | cons x xs =>
      rw [hun] at ho
      have hox : x = o := Option.some.inj ho
      simp only [hun, hox, hrto]
  · subst hf
    refine answers_device (d := (s.dev.failFlow (flowKey flow.peer.toNat flow.tc.val)).count RTE_ERR.FLOWLOST) rfl ?_ fun t ht hdev => ⟨ht, ?_⟩
    · simp only [Act.dev, List.isEmpty_iff, if_neg hun]
    · obtain ⟨hfail, hregs⟩ := s.dev.failFlow_does (flowKey flow.peer.toNat flow.tc.val)
      generalize s.dev.failFlow (flowKey flow.peer.toNat flow.tc.val) = x at hfail hregs hdev
      have hsend : t.dev.sendFlow (flowKey flow.peer.toNat flow.tc.val) = x.sendFlow (flowKey flow.peer.toNat flow.tc.val) :=
        Dev.sendFlow_of_send (by rw [hdev, Dev.count_rte]) _
      rw [hsend, hfail, hdev, Dev.get_count_self x RTE_ERR.FLOWLOST 0 1 (by decide), hregs RTE_ERR.FLOWLOST 0 (by decide) (by decide)]
      exact ⟨rfl, rfl, rfl, rfl⟩
  · subst hf
    obtain ⟨hpeer, -⟩ := flowKey_parts flow.peer.toNat flow.tc
    refine answers_device (d := s.dev.putRate (flowKey flow.peer.toNat flow.tc.val)
      (Nat.min (s.dev.rmax flow.peer.toNat) (s.dev.rateOf (flowKey flow.peer.toNat flow.tc.val) + 1000 * s.dev.get RTE_CC.RAI 0))) rfl ?_ fun t ht hdev => ⟨ht, ?_⟩
    · simp only [Act.dev, hlim, hen, decide_false, Bool.not_true, Bool.or_self, Bool.false_eq_true, if_false]
    · rw [hdev]
      refine s.dev.putRate_rate hlim (by rw [hpeer]; exact Nat.min_le_left _ _) fun h => ?_
      have hrate : s.dev.rateOf (flowKey flow.peer.toNat flow.tc.val) ≠ 0 := by
        unfold Dev.rateOf
        simp only [if_neg hlim]
        exact hlim
      rw [hpeer]
      simp only [Nat.min_def] at h
      split at h <;> omega

end Sys2Proof.Proofs
end

section
/-! Packets that move data: puts, gets, short writes and the answers of atomics (R230, R231, R308, R309, R362 to R364, R391). -/

namespace Sys2Proof.Machine

open Sys2Proof.Laws

/-! ### Write units -/

theorem Dev.breakLines_rte (d : Dev) (a n : Nat) : (d.breakLines a n).rte = d.rte := by
  unfold Dev.breakLines
  refine foldl_keeps (P := fun b : Dev => b.rte = d.rte) (fun b l hb => ?_) _ d rfl
  unfold Dev.breakLine
  simp only
  split
  · exact hb
  · exact hb

theorem Dev.digestWrite_rte (d : Dev) (m : Mem) (c : CtxId) (a : Nat) (bs : Bytes) : (d.digestWrite m c a bs).rte = d.rte := by
  unfold Dev.digestWrite
  split
  · rfl
  · refine foldl_keeps (P := fun b : Dev => b.rte = d.rte) (fun b l hb => ?_) _ d rfl
    split
    · exact hb
    · exact hb

/-- A write unit leaves the router. -/
theorem Dev.unitWrite_rte (d : Dev) (m : Mem) (c : CtxId) (a : Nat) (bs : Bytes) (poison : Bool) : (d.unitWrite m c a bs poison).1.rte = d.rte :=
  (Dev.digestWrite_rte _ _ _ _ _).trans (d.breakLines_rte _ _)

/-- A write unit outside the cores that passes its checks is performed at once. -/
theorem Dev.homeWrite_mem {d : Dev} {c : CtxId} {u : Nat} {bs : Bytes} (hcore : d.coreOf u = none) (hcheck : d.homeCheck c (.mem u) bs.length true = none)
    (m : Mem) (poison : Bool) (own : Option Nat) :
    d.homeWrite m c (.mem u) bs poison own = (.done 0 false false, (d.unitWrite m c u bs poison).1, [.write u bs poison]) := by
  unfold Dev.homeWrite
  simp only [hcheck, hcore]
  rfl

theorem Dev.homeWrite_refused {d : Dev} {c : CtxId} {pl : Place} {bs : Bytes} {st : Nat} (hcheck : d.homeCheck c pl bs.length true = some st)
    (m : Mem) (poison : Bool) (own : Option Nat) : d.homeWrite m c pl bs poison own = (.refused st, d.countRefusal pl.die st, []) := by
  unfold Dev.homeWrite
  simp only [hcheck]

theorem markEffs_zero (a n : Nat) : markEffs a n 0 = [] := by
  have h : bitsOf 0 64 = [] := by decide
  unfold markEffs
  rw [h]
  rfl

theorem Place.marks_zero (pl : Place) (n : Nat) : pl.marks n 0 = [] := by
  cases pl with
  | mem a => exact markEffs_zero a n
  | ctrl _ _ => rfl
  | window _ _ => rfl
  | inval _ => rfl

/-- A packet's bytes at a place that takes them. -/
theorem putAt_done {p : Pkt} {own : Option Nat} {addr : Nat} {bs : Bytes} {map : Nat} {all : Bool} {m : Mem} {d x : Dev} {c : CtxId} {pl : Place}
    {es : List MemEff} {old : Nat} {un po : Bool} (hjob : d.jobCtx p.pkey.toNat = some c) (hpl : d.pktPlace addr = some pl)
    (hw : d.homeWrite m c pl bs all own = (.done old un po, x, es)) :
    putAt p own addr bs map all m d = (.done, { dev := x, mem := es ++ (if all then [] else pl.marks bs.length map) }) := by
  unfold putAt
  simp only [hjob, hpl, hw]

theorem putAt_refused {p : Pkt} {own : Option Nat} {addr : Nat} {bs : Bytes} {map : Nat} {all : Bool} {m : Mem} {d x : Dev} {c : CtxId} {pl : Place}
    {es : List MemEff} {st : Nat} (hjob : d.jobCtx p.pkey.toNat = some c) (hpl : d.pktPlace addr = some pl)
    (hw : d.homeWrite m c pl bs all own = (.refused st, x, es)) :
    putAt p own addr bs map all m d = (.refused st addr, { dev := x, mem := es }) := by
  unfold putAt
  simp only [hjob, hpl, hw]

/-- A put into memory outside the cores. -/
theorem perfWrite_mem {p : Pkt} {map now : Nat} {f : Fuses} {m : Mem} {d : Dev} {c : CtxId} {u : Nat} (hjob : d.jobCtx p.pkey.toNat = some c)
    (hpl : d.pktPlace (p.spec 0x12 6) = some (.mem u)) (hcore : d.coreOf u = none) (hcheck : d.homeCheck c (.mem u) p.payload.length true = none) :
    perfWrite p map now f m d = (.done, { dev := (d.unitWrite m c u p.payload false).1, mem := .write u p.payload false :: markEffs u p.payload.length map }) := by
  unfold perfWrite
  rw [putAt_done hjob hpl (Dev.homeWrite_mem hcore hcheck m false none)]
  rfl

theorem perfWrite_refused {p : Pkt} {map now : Nat} {f : Fuses} {m : Mem} {d : Dev} {c : CtxId} {pl : Place} {st : Nat} (hjob : d.jobCtx p.pkey.toNat = some c)
    (hpl : d.pktPlace (p.spec 0x12 6) = some pl) (hcheck : d.homeCheck c pl p.payload.length true = some st) :
    perfWrite p map now f m d = (.refused st (p.spec 0x12 6), { dev := d.countRefusal pl.die st }) :=
  putAt_refused hjob hpl (Dev.homeWrite_refused hcheck m false none)

/-- Data that a get has asked for. -/
theorem perfGetData_got {p : Pkt} {now : Nat} {f : Fuses} {m : Mem} {d x : Dev} {c : CtxId} {pl : Place} {g : Nat × Sender} {es : List MemEff} {old : Nat}
    (hget : d.getOf p.src.toNat (some (p.spec 0x18 2)) (p.spec 0x12 6) = some g) (hun : bit (p.spec 0x1A 1) 0 = false)
    (hjob : d.jobCtx p.pkey.toNat = some c) (hpl : d.pktPlace (p.spec 0x12 6) = some pl)
    (hw : d.homeWrite m c pl p.payload false (getCore (some g)) = (.done old false false, x, es)) :
    perfGetData p 0 now f m d = (.done, { dev := x.gotBytes p.src.toNat (some g) p.payload.length false false, mem := es }) := by
  unfold perfGetData
  simp only [hget, hun, Option.isNone_some, Bool.false_and, Bool.false_eq_true, if_false]
  rw [putAt_done hjob hpl hw]
  simp only [Place.marks_zero, Bool.false_eq_true, if_false, List.append_nil]
  rfl

/-! ### Short writes -/

/-- What decides a write of a packet is no matter of the receivers' ends of flows. -/
theorem Dev.putRecv_same (d : Dev) (f : Nat) (r : RecvFlow) : (d.putRecv f r).ctx = d.ctx ∧ (d.putRecv f r).own = d.own ∧ (d.putRecv f r).keep = d.keep
    ∧ (d.putRecv f r).mmc = d.mmc ∧ (d.putRecv f r).rte.send = d.rte.send := ⟨rfl, rfl, rfl, rfl, rfl⟩

theorem Dev.getOf_of_send {a b : Dev} (h : b.rte.send = a.rte.send) (peer : Nat) (ref : Option Nat) (addr : Nat) : b.getOf peer ref addr = a.getOf peer ref addr := by
  unfold Dev.getOf
  rw [Dev.sendFlow_of_send h]

theorem Dev.jobCtx_of_ctx {a b : Dev} (h : b.ctx = a.ctx) (pkey : Nat) : b.jobCtx pkey = a.jobCtx pkey := by
  unfold Dev.jobCtx Dev.ctxAt
  rw [h]

theorem Dev.flat_of_ctx {a b : Dev} (h : b.ctx = a.ctx) (n : Nat) : b.flat n = a.flat n := by
  unfold Dev.flat Dev.dieMode Dev.ctxAt
  rw [h]

theorem Dev.coreOf_of_ctx {a b : Dev} (h : b.ctx = a.ctx) (u : Nat) : b.coreOf u = a.coreOf u := by
  unfold Dev.coreOf
  simp only [Dev.flat_of_ctx h]

theorem Dev.admitted_of_mmc {a b : Dev} (h : b.mmc = a.mmc) (g : Nat) : b.admitted g = a.admitted g := by
  unfold Dev.admitted Dev.unitAt
  rw [h]

theorem Dev.placeCheck_of {a b : Dev} (hc : b.ctx = a.ctx) (ho : b.own = a.own) (hk : b.keep = a.keep) (hm : b.mmc = a.mmc) (c : CtxId) (pl : Place)
    (w : Bool) : b.placeCheck c pl w = a.placeCheck c pl w := by
  have hin : b.placeIn pl = a.placeIn pl := by
    cases pl with
    | mem u =>
      unfold Dev.placeIn
      simp only [Dev.coreOf_of_ctx hc, Dev.admitted_of_mmc hm]
    | ctrl k _ => exact Dev.admitted_of_mmc hm _
    | window n _ => exact Dev.admitted_of_mmc hm _
    | inval n => exact Dev.admitted_of_mmc hm _
  have hat : ∀ c, b.ctxAt c = a.ctxAt c := fun c => by rw [Dev.ctxAt, hc, Dev.ctxAt]
  have hslot : ∀ k, b.slotLoaded k = a.slotLoaded k := fun k => by rw [Dev.slotLoaded, hk, Dev.slotLoaded]
  have hright : b.right c pl = a.right c pl := by
    cases pl with
    | mem u =>
      unfold Dev.right Dev.rightMem
      simp only [Dev.coreOf_of_ctx hc, hat, hslot, ho]
    | ctrl k _ =>
      unfold Dev.right
      simp only [hat]
    | window n _ => rfl
    | inval n => rfl
  unfold Dev.placeCheck
  simp only [hin, hright, hat]

theorem Dev.homeCheck_of {a b : Dev} (hc : b.ctx = a.ctx) (ho : b.own = a.own) (hk : b.keep = a.keep) (hm : b.mmc = a.mmc) (c : CtxId) (pl : Place)
    (n : Nat) (w : Bool) : b.homeCheck c pl n w = a.homeCheck c pl n w := by
  unfold Dev.homeCheck
  simp only [Dev.placeCheck_of hc ho hk hm]

theorem Dev.pktPlace_of_ctx {a b : Dev} (h : b.ctx = a.ctx) (addr : Nat) : b.pktPlace addr = a.pktPlace addr := by
  have hlocal : ∀ k x, b.coreLocal k x = a.coreLocal k x := fun k x => by
    unfold Dev.coreLocal
    simp only [Dev.flat_of_ctx h]
  have hdie : ∀ n x, b.dieLocal n x = a.dieLocal n x := fun n x => by
    unfold Dev.dieLocal
    simp only [Dev.flat_of_ctx h, hlocal]
  unfold Dev.pktPlace Dev.decodeAt
  simp only [hdie]

/-- The last piece of a short write that no get has asked for, to memory outside the cores. -/
theorem gather_mem {first p : Pkt} {bs : Bytes} {poison : Bool} {m : Mem} {d : Dev} {r : RecvFlow} {c : CtxId} {u : Nat}
    (hlen : bs.length = first.at' 0x16 1 + 1) (hop : first.at' 0x17 1 = 0)
    (hflow : d.recvFlow (flowKey p.src.toNat p.tc.val) = some r)
    (hget : d.getOf p.src.toNat none (first.at' 0x10 6) = none) (hjob : d.jobCtx p.pkey.toNat = some c)
    (hpl : d.pktPlace (first.at' 0x10 6) = some (.mem u)) (hcore : d.coreOf u = none)
    (hcheck : d.homeCheck c (.mem u) (first.at' 0x16 1 + 1) true = none) :
    ∃ y : Dev, y.rte = (d.putRecv (flowKey p.src.toNat p.tc.val) { r with short := none }).rte
      ∧ gather first bs poison p 0 m d = (.done, { dev := y, mem := [.write u bs poison] }) := by
  obtain ⟨h1, h2, h3, h4, h5⟩ := d.putRecv_same (flowKey p.src.toNat p.tc.val) { r with short := none }
  unfold gather
  simp only [hlen, lt_irrefl, if_false, hflow, hop, if_true, List.take_of_length_le (le_of_eq hlen)]
  generalize d.putRecv (flowKey p.src.toNat p.tc.val) { r with short := none } = e at h1 h2 h3 h4 h5
  rw [Dev.getOf_of_send h5, hget]
  have hw := Dev.homeWrite_mem (d := e) (c := c) (u := u) (bs := bs) (by rw [Dev.coreOf_of_ctx h1]; exact hcore)
    (by rw [Dev.homeCheck_of h1 h2 h3 h4, hlen]; exact hcheck) m poison (getCore none)
  rw [putAt_done (by rw [Dev.jobCtx_of_ctx h1]; exact hjob) (by rw [Dev.pktPlace_of_ctx h1]; exact hpl) hw]
  refine ⟨(e.unitWrite m c u bs poison).1, e.unitWrite_rte m c u bs poison, ?_⟩
  simp only [Place.marks_zero, ite_self, List.append_nil]
  rfl

/-- A SHORT that holds its whole short write. -/
theorem perfShort_mem {p : Pkt} {now : Nat} {f : Fuses} {m : Mem} {d : Dev} {r : RecvFlow} {c : CtxId} {u : Nat}
    (hlen : p.at' 0x16 1 < 24) (hop : p.at' 0x17 1 = 0) (hflow : d.recvFlow (flowKey p.src.toNat p.tc.val) = some r)
    (hget : d.getOf p.src.toNat none (p.at' 0x10 6) = none) (hjob : d.jobCtx p.pkey.toNat = some c)
    (hpl : d.pktPlace (p.at' 0x10 6) = some (.mem u)) (hcore : d.coreOf u = none) (hcheck : d.homeCheck c (.mem u) (p.at' 0x16 1 + 1) true = none) :
    ∃ y : Dev, perfShort p 0 now f m d = (.done, { dev := y, mem := [.write u (sub p.body 8 (p.at' 0x16 1 + 1)) false] }) := by
  have hmin : Nat.min (p.at' 0x16 1 + 1) 24 = p.at' 0x16 1 + 1 := Nat.min_eq_left hlen
  obtain ⟨y, -, h⟩ := gather_mem (first := p) (bs := sub p.body 8 (p.at' 0x16 1 + 1)) (poison := false) (m := m) (length_sub _ _ _) hop hflow hget hjob hpl hcore hcheck
  refine ⟨y, ?_⟩
  unfold perfShort
  simp only [hmin]
  exact h

/-- A SHORT_CONT that completes its short write. -/
theorem perfShortCont_mem {p q : Pkt} {bs : Bytes} {poison : Bool} {now : Nat} {f : Fuses} {m : Mem} {d : Dev} {r : RecvFlow} {c : CtxId} {u n : Nat}
    (hflow : d.recvFlow (flowKey p.src.toNat p.tc.val) = some r) (hshort : r.short = some (q, bs, poison)) (hn : n = q.at' 0x16 1 + 1)
    (hlt : bs.length < n) (hle : n ≤ bs.length + 32) (hop : q.at' 0x17 1 = 0)
    (hget : d.getOf p.src.toNat none (q.at' 0x10 6) = none) (hjob : d.jobCtx p.pkey.toNat = some c)
    (hpl : d.pktPlace (q.at' 0x10 6) = some (.mem u)) (hcore : d.coreOf u = none) (hcheck : d.homeCheck c (.mem u) n true = none) :
    ∃ y : Dev, y.rte = (d.putRecv (flowKey p.src.toNat p.tc.val) { r with short := none }).rte
      ∧ perfShortCont p 0 now f m d = (.done, { dev := y, mem := [.write u (bs ++ sub p.body 0 (n - bs.length)) poison] }) := by
  have hmin : Nat.min 32 (n - bs.length) = n - bs.length := Nat.min_eq_right (by omega)
  have hlen : (bs ++ sub p.body 0 (n - bs.length)).length = q.at' 0x16 1 + 1 := by
    rw [List.length_append, length_sub]
    omega
  obtain ⟨y, hy, h⟩ := gather_mem (first := q) (bs := bs ++ sub p.body 0 (n - bs.length)) (poison := poison) (m := m) hlen hop hflow hget hjob hpl hcore (hn ▸ hcheck)
  refine ⟨y, hy, ?_⟩
  unfold perfShortCont
  simp only [hflow, Option.bind_some, hshort]
  have hmark : (poison || decide (0 ≠ 0)) = poison := Bool.or_false poison
  rw [← hn, hmin, hmark, h]

/-! ### Gets at the home -/

/-- No part of bytes without a poisoned line is poisoned. -/
theorem Mem.poisoned_part {m : Mem} {a n b k : Nat} (h : m.poisoned a n = false) (hk : k ≠ 0) (hlo : a ≤ b) (hhi : b + k ≤ a + n) : m.poisoned b k = false := by
  unfold Mem.poisoned at h ⊢
  rw [List.any_eq_false] at h ⊢
  intro l hl
  refine h l ?_
  unfold linesOf lineOf at hl ⊢
  rw [if_neg hk] at hl
  rw [if_neg (by omega)]
  simp only [List.mem_map, List.mem_range] at hl ⊢
  obtain ⟨i, hi, rfl⟩ := hl
  exact ⟨i + b / 64 - a / 64, by omega, by omega⟩

theorem Mem.unmarked_pieces {m : Mem} {u n : Nat} (h : m.poisoned u n = false) :
    ((List.range (ceilDiv n 64)).map (fun g => (some u).any (fun a => m.poisoned (a + 64 * g) (Nat.min 64 (n - 64 * g))))).any id = false := by
  rw [List.any_eq_false]
  intro x hx
  simp only [List.mem_map, List.mem_range, Option.any_some] at hx
  obtain ⟨g, hg, rfl⟩ := hx
  unfold ceilDiv at hg
  have hlt : 64 * g < n := by omega
  have hmin : Nat.min 64 (n - 64 * g) ≤ n - 64 * g := Nat.min_le_right _ _
  have hpos : Nat.min 64 (n - 64 * g) ≠ 0 := by
    simp only [Nat.min_def]
    split <;> omega
  rw [id, Mem.poisoned_part h hpos (by omega) (by omega)]
  decide

/-- A read that ends in clean data found no poisoned line. -/
theorem Dev.homeRead_clean {d : Dev} {m : Mem} {c : CtxId} {u n : Nat} {bs : Bytes} {un : Bool} (h : d.homeRead m c (.mem u) n = .data bs false un) :
    m.poisoned u n = false := by
  unfold Dev.homeRead at h
  split at h
  · exact absurd h (by simp)
  · simp only at h
    split at h
    · exact absurd h (by simp)
    · exact (ReadEnd.data.inj h).2.1

/-- A get that one short write answers. -/
theorem perfGetReq_short {p : Pkt} {now : Nat} {f : Fuses} {m : Mem} {d : Dev} {c : CtxId} {u : Nat} {bs : Bytes} {un : Bool}
    (hn : p.at' 0x20 4 ≤ 256) (hjob : d.jobCtx p.pkey.toNat = some c) (hpl : d.pktPlace (p.at' 0x10 6) = some (.mem u))
    (hread : d.homeRead m c (.mem u) (p.at' 0x20 4) = .data bs false un) :
    perfGetReq p 0 now f m d = (.done, { dev :=
      (d.handFor c (homeDie u) (shortPkts p.pkey.toNat p.src.toNat d.moduleId (p.at' 0x18 6) 0 bs false .none)).getD d }) := by
  have hpieces : ∀ seg, getPieces (p.at' 0x20 4) seg = [⟨0, p.at' 0x20 4⟩] := fun seg => by
    unfold getPieces
    rw [if_pos hn]
    rfl
  have hmarks := Mem.unmarked_pieces (Dev.homeRead_clean hread)
  unfold perfGetReq
  simp only [hjob, hpieces, List.map_cons, List.map_nil, Nat.add_zero, hpl, hread, List.findSome?_cons, List.findSome?_nil, List.any_cons, List.any_nil,
    List.flatMap_cons, List.flatMap_nil, List.append_nil, getAnswer, hn, decide_true, if_true, hmarks]
  simp
  rfl

end Sys2Proof.Machine
end

section
/-! The old value of a far atomic comes to its thread (R308, R391). -/

namespace Sys2Proof.Machine

open Sys2Proof.Laws

/-- What a thread that goes on is left with: READY, not stalled, at a PC, with its registers. -/
structure Dev.GoesOn (d : Dev) (k pc : Nat) (x : Tbl W64) : Prop where
  state : (d.thrAt k).state = .ready
  stall : (d.thrAt k).stall = none
  pc : (d.thrAt k).pc = pc
  regs : (d.thrAt k).x = x

theorem Dev.GoesOn.of_thr {a b : Dev} {k pc : Nat} {x : Tbl W64} (h : a.GoesOn k pc x) (he : b.thr = a.thr) : b.GoesOn k pc x := by
  obtain ⟨h1, h2, h3, h4⟩ := h
  constructor <;> rw [Dev.thrAt, he] <;> assumption

/-- A change of threads that leaves those that are not stalled. -/
theorem Dev.GoesOn.modThr {d : Dev} {k pc n : Nat} {x : Tbl W64} {f : Thread → Thread} (h : d.GoesOn k pc x)
    (hf : ∀ t : Thread, t.stall = none → (f t).state = t.state ∧ (f t).stall = t.stall ∧ (f t).pc = t.pc ∧ (f t).x = t.x) : (d.modThr n f).GoesOn k pc x := by
  by_cases e : k = n
  · subst e
    obtain ⟨h1, h2, h3, h4⟩ := hf (d.thrAt k) h.stall
    constructor <;> rw [Dev.modThr_at]
    · exact h1.trans h.state
    · exact h2.trans h.stall
    · exact h3.trans h.pc
    · exact h4.trans h.regs
  · constructor <;> rw [Dev.modThr_at_ne _ _ e]
    · exact h.state
    · exact h.stall
    · exact h.pc
    · exact h.regs

/-- The success of a far access leaves a thread that goes on. -/
theorem Dev.farAnswer_goesOn {d : Dev} {k pc : Nat} {x : Tbl W64} (h : d.GoesOn k pc x) (core id : Nat) : (d.farAnswer core id 0).GoesOn k pc x := by
  unfold Dev.farAnswer Dev.wakeShorts
  simp only
  generalize hy : d.modCore core _ = y
  have h1 : y.GoesOn k pc x := h.of_thr (hy ▸ rfl)
  refine foldl_keeps (P := fun b : Dev => b.GoesOn k pc x) (fun b t hb => hb.modThr fun t ht => ?_) _ _ ?_
  · rw [if_neg (by rw [ht]; simp)]
    exact ⟨rfl, rfl, rfl, rfl⟩
  · split
    · exact h1
    · rw [if_pos trivial]
      exact h1.modThr fun t _ => ⟨rfl, rfl, rfl, rfl⟩

/-- The registers after an atomic: rd holds its old value. -/
def amoRegs (x : Tbl W64) (f : PendAmo) (old : Nat) : Tbl W64 :=
  if f.rd = 0 then x else tblSet 0 x f.rd (BitVec.ofNat 64 (if f.bytes = 4 then ofSigned (toSigned old 32) 64 else old))

/-- The answer to a thread's atomic. -/
theorem Dev.amoAnswer_goesOn {d : Dev} {k id : Nat} {f : PendAmo} (hstall : (d.thrAt k).stall = some (.amo f)) (hid : f.id = id) (old : Nat) (uninit : Bool) :
    (d.amoAnswer k id 0 old uninit).GoesOn k (((d.thrAt k).pc + 4) % 2 ^ 64) (amoRegs (d.thrAt k).x f old) := by
  unfold Dev.amoAnswer
  simp only [hstall, hid, decide_true, Bool.and_self, if_true]
  refine Dev.farAnswer_goesOn ?_ _ _
  generalize hy : (if uninit = true then d.noteUninit (k / 8) (cpUnit (k / 8)) f.va else d) = y
  have hthr : y.thrAt k = d.thrAt k := by
    rw [← hy]
    split <;> rfl
  constructor <;> rw [Dev.modThr_at]
  · rw [hthr]
  · rw [hthr]
    rfl

/-- The old value of an atomic that a thread waits for. -/
theorem perfAmoResp_answers {p : Pkt} {d : Dev} {k id : Nat}
    (hfind : (d.sendFlow (flowKey p.src.toNat 2)).await.find? (fun x => x.1 = p.at' 0x10 2) = some (p.at' 0x10 2, .amo k id))
    (hok : bit (p.at' 0x12 1) 1 = false) (map now : Nat) (f : Fuses) (m : Mem) :
    ∃ y : Dev, y.thr = d.thr ∧ perfAmoResp p map now f m d = (.done, { dev := y.amoAnswer k id 0 (p.at' 0x18 8) (bit (p.at' 0x12 1) 0) }) := by
  refine ⟨d.modSend (flowKey p.src.toNat 2) (fun s => { s with await := s.await.filter (fun e => e.1 ≠ p.at' 0x10 2) }), rfl, ?_⟩
  unfold perfAmoResp Perf.dev
  simp only [hfind, hok]
  rfl

end Sys2Proof.Machine

namespace Sys2Proof.Proofs

open Sys2Proof.Machine Sys2Proof.Laws

/-- Settles O35: each packet by what its action does, and by the end of its flow. -/
theorem packetsMoveData : Obligations.PacketsMoveData := by
  unfold Obligations.PacketsMoveData
  refine ⟨fun a m e r z c s ho hjob => ⟨fun u hpl hcore hcheck => ?_, fun pl st hpl hcheck => ?_⟩,
    fun a m e x r z c pl g es old s ho hget hun hjob hpl hw => ?_,
    fun a m e r z c u s ho hop hlen hget hjob hpl hcore hcheck => ?_,
    fun a m e r z p c u n q bs s ho hshort hn hlt hle hop hget hjob hpl hcore hcheck => ?_,
    fun a m e r z c u q s hd hplace hmap hq hjob hpl hcore hcheck => ?_,
    fun a m e r z un c u bs s ho hn hjob hpl hread => ?_,
    fun a m e r z k id f s ho hfind hstall hid hok => ?_⟩
  · have hcore' : (e.taking a r z).coreOf u = none := (Dev.coreOf_of_ctx (e.taking_received a r z).ctx u).trans hcore
    have hrun := ho.runs (types := [0x10]) rfl (by decide) (by decide) (endAccept_done (perfWrite_mem (map := 0) (now := a.now.toNat) (f := s.fuse) (m := s.mem) hjob hpl hcore' hcheck))
    refine answers_of_act rfl hrun ⟨rfl, rfl, ?_, rfl, Dev.took_exp _ _ _ _ _ _⟩
    rw [markEffs_zero]
    rfl
  · have hrun := ho.runs (types := [0x10]) rfl (by decide) (by decide) (endAccept_refused (perfWrite_refused (map := 0) (now := a.now.toNat) (f := s.fuse) (m := s.mem) hjob hpl hcheck))
    exact answers_of_dev rfl hrun rfl
  · have hrun := ho.runs (types := [0x11]) rfl (by decide) (by decide) (endAccept_done (perfGetData_got (now := a.now.toNat) (f := s.fuse) (m := s.mem) hget hun hjob hpl hw))
    exact answers_of_act rfl hrun ⟨rfl, rfl, rfl, rfl⟩
  · have htake := e.taking_received a r z
    have hflow : (e.taking a r z).recvFlow (flowKey a.pkt.src.toNat a.pkt.tc.val) = some (r.fresh z) := Dev.recvFlow_putRecv _ _ _
    obtain ⟨y, hy⟩ := perfShort_mem (now := a.now.toNat) (f := s.fuse) (m := s.mem) hlen hop hflow ((Dev.getOf_of_send htake.send _ _ _).trans hget)
      ((Dev.jobCtx_of_ctx htake.ctx _).trans hjob) ((Dev.pktPlace_of_ctx htake.ctx _).trans hpl) ((Dev.coreOf_of_ctx htake.ctx _).trans hcore)
      ((Dev.homeCheck_of (a := e) rfl rfl rfl rfl _ _ _ _).trans hcheck)
    exact answers_of_act rfl (ho.runs (types := [0x50]) rfl (by decide) (by decide) (endAccept_done hy)) ⟨rfl, rfl, rfl, Dev.took_exp _ _ _ _ _ _⟩
  · have htake := e.taking_received a r z
    have hflow : (e.taking a r z).recvFlow (flowKey a.pkt.src.toNat a.pkt.tc.val) = some (r.fresh z) := Dev.recvFlow_putRecv _ _ _
    obtain ⟨y, hrte, hy⟩ := perfShortCont_mem (now := a.now.toNat) (f := s.fuse) (m := s.mem) hflow hshort hn hlt hle hop ((Dev.getOf_of_send htake.send _ _ _).trans hget)
      ((Dev.jobCtx_of_ctx htake.ctx _).trans hjob) ((Dev.pktPlace_of_ctx htake.ctx _).trans hpl) ((Dev.coreOf_of_ctx htake.ctx _).trans hcore)
      ((Dev.homeCheck_of (a := e) rfl rfl rfl rfl _ _ _ _).trans hcheck)
    refine answers_of_act rfl (ho.runs (types := [0x51]) rfl (by decide) (by decide) (endAccept_done hy)) ⟨rfl, rfl, rfl, ?_⟩
    have hyflow : y.recvFlow (arrivalFlow a) = some { r.fresh z with short := none } := by
      unfold Dev.recvFlow
      rw [hrte]
      exact Dev.recvFlow_putRecv _ _ _
    have hexp := y.took_expects a r z m 1
    rw [hyflow] at hexp
    exact hexp
  · have hcore' : (e.taking a r z).coreOf u = none := (Dev.coreOf_of_ctx (e.taking_received a r z).ctx u).trans hcore
    have hperf : perfOf q (a.pkt.at' 0x10 8) a.now.toNat s.fuse s.mem (e.taking a r z) = _ :=
      (by unfold perfOf; simp only [hq] : perfOf q (a.pkt.at' 0x10 8) a.now.toNat s.fuse s.mem (e.taking a r z)
        = perfWrite q (a.pkt.at' 0x10 8) a.now.toNat s.fuse s.mem (e.taking a r z)).trans (perfWrite_mem hjob hpl hcore' hcheck)
    exact answers_of_act rfl (hd.mapped (types := [0x59]) rfl hplace hmap (endAccept_done hperf)) ⟨rfl, rfl, rfl, rfl⟩
  · have hrun := ho.runs (types := [0x53]) rfl (by decide) (by decide) (endAccept_done (perfGetReq_short (now := a.now.toNat) (f := s.fuse) hn hjob hpl hread))
    exact answers_device rfl hrun fun t ht hdev => ⟨ht, hdev⟩
  · have htake := e.taking_received a r z
    rw [← Dev.sendFlow_of_send htake.send] at hfind
    obtain ⟨y, hthr, hperf⟩ := perfAmoResp_answers hfind hok 0 a.now.toNat s.fuse s.mem
    have hat : y.thrAt k = e.thrAt k := by rw [Dev.thrAt, hthr, htake.thr, Dev.thrAt]
    have hgoes := Dev.amoAnswer_goesOn (hat ▸ hstall) hid (a.pkt.at' 0x18 8) (bit (a.pkt.at' 0x12 1) 0)
    rw [hat] at hgoes
    refine answers_device rfl (ho.runs (types := [0x52]) rfl (by decide) (by decide) (endAccept_done hperf)) fun t ht hdev => ⟨ht, ?_⟩
    have hend := hgoes.of_thr ((y.amoAnswer k id 0 (a.pkt.at' 0x18 8) (bit (a.pkt.at' 0x12 1) 0)).took_received a r z m 1).thr
    rw [← hdev] at hend
    obtain ⟨h1, h2, h3, h4⟩ := hend
    refine ⟨h1, h2, h3, fun hrd => ?_⟩
    rw [h4, amoRegs, if_neg hrd, tblGet_set_self]

end Sys2Proof.Proofs
end

section
/-! Shards, ring halts and the partner's digests (R52, R53, R70, R419, R420). -/

namespace Sys2Proof.Machine

open Sys2Proof.Laws

/-! ### What a detection leaves of every context -/

/-- The registers that a detection may change. -/
def detectRegs : List RegName := [.HOST_CTX_STAT, .MMC_LOG_SEL, .BRY_OVR_CNT, .BRY_OVR_LAST]

/-- A detection leaves a context's job, state, program and lock-step; what it has marked stays marked. -/
structure Dev.Detects (a b : Dev) : Prop where
  ctx : ∀ c, (b.ctxAt c).pkey = (a.ctxAt c).pkey ∧ (b.ctxAt c).state = (a.ctxAt c).state ∧ (b.ctxAt c).loaded = (a.ctxAt c).loaded
    ∧ (b.ctxAt c).lock = (a.ctxAt c).lock
  marks : ∀ c, ((a.ctxAt c).overrun = true → (b.ctxAt c).overrun = true) ∧ ((a.ctxAt c).ringHaltSent = true → (b.ctxAt c).ringHaltSent = true)
  regs : a.RegsOutside b detectRegs

namespace Dev.Detects

variable {a b c : Dev}

theorem refl : a.Detects a := ⟨fun _ => ⟨rfl, rfl, rfl, rfl⟩, fun _ => ⟨id, id⟩, .refl a _⟩

theorem trans (h : a.Detects b) (g : b.Detects c) : a.Detects c where
  ctx k := by
    obtain ⟨h1, h2, h3, h4⟩ := h.ctx k
    obtain ⟨g1, g2, g3, g4⟩ := g.ctx k
    exact ⟨g1.trans h1, g2.trans h2, g3.trans h3, g4.trans h4⟩
  marks k := ⟨fun hk => (g.marks k).1 ((h.marks k).1 hk), fun hk => (g.marks k).2 ((h.marks k).2 hk)⟩
  regs := h.regs.trans g.regs

theorem of_reports (h : a.Reports b) : a.Detects b where
  ctx k := by
    have hk := h.ctx k
    exact ⟨(congrArg Ctx.pkey hk : (b.ctxAt k).uncounted.pkey = _), (congrArg Ctx.state hk : (b.ctxAt k).uncounted.state = _),
      (congrArg Ctx.loaded hk : (b.ctxAt k).uncounted.loaded = _), (congrArg Ctx.lock hk : (b.ctxAt k).uncounted.lock = _)⟩
  marks k := by
    have h1 : (b.ctxAt k).overrun = (a.ctxAt k).overrun := (congrArg Ctx.overrun (h.ctx k) : (b.ctxAt k).uncounted.overrun = _)
    have h2 : (b.ctxAt k).ringHaltSent = (a.ctxAt k).ringHaltSent := (congrArg Ctx.ringHaltSent (h.ctx k) : (b.ctxAt k).uncounted.ringHaltSent = _)
    rw [h1, h2]
    exact ⟨id, id⟩
  regs := .of_reports h (by decide) (by decide)

/-- A change of a context's record that leaves those. -/
theorem modCtx {k : CtxId} {f : Ctx → Ctx} (hf : ∀ x, ((f x).pkey = x.pkey ∧ (f x).state = x.state ∧ (f x).loaded = x.loaded ∧ (f x).lock = x.lock)
    ∧ (x.overrun = true → (f x).overrun = true) ∧ (x.ringHaltSent = true → (f x).ringHaltSent = true)) : a.Detects (a.modCtx k f) where
  ctx j := by
    by_cases e : j = k
    · rw [e, Dev.modCtx_at]
      exact (hf _).1
    · rw [Dev.modCtx_at_ne _ _ e]
      exact ⟨rfl, rfl, rfl, rfl⟩
  marks j := by
    by_cases e : j = k
    · rw [e, Dev.modCtx_at]
      exact (hf _).2
    · rw [Dev.modCtx_at_ne _ _ e]
      exact ⟨id, id⟩
  regs := .of_regs rfl _

theorem put {f : Fld} {v i : Nat} (hi : i < 1024) (hf : f.reg ∈ detectRegs) : a.Detects (a.put f v i) where
  ctx j := by rw [show (a.put f v i).ctxAt j = a.ctxAt j by rw [Dev.ctxAt, Dev.put_ctx, Dev.ctxAt]]; exact ⟨rfl, rfl, rfl, rfl⟩
  marks j := by rw [show (a.put f v i).ctxAt j = a.ctxAt j by rw [Dev.ctxAt, Dev.put_ctx, Dev.ctxAt]]; exact ⟨id, id⟩
  regs := .put a f v i hi hf

theorem count {f : Fld} {i n : Nat} (hi : i < 1024) (hf : f.reg ∈ detectRegs) : a.Detects (a.count f i n) := put hi hf

theorem ite {r : Prop} [Decidable r] (hb : a.Detects b) (hc : a.Detects c) : a.Detects (if r then b else c) := by
  split
  · exact hb
  · exact hc

theorem foldl {A : Type} {f : Dev → A → Dev} (hf : ∀ (d : Dev) (x : A), d.Detects (f d x)) (l : List A) (d : Dev) : d.Detects (l.foldl f d) :=
  foldl_keeps (P := fun b => d.Detects b) (fun b x hb => hb.trans (hf b x)) l d refl

theorem locked (h : a.Detects b) (k : CtxId) : b.locked k = a.locked k := by
  rw [Dev.locked, (h.ctx k).2.2.1, Dev.locked]

end Dev.Detects

/-- A RING_HALT that goes out leaves contexts, and its own is marked. -/
theorem Dev.ringHalt_detects (d : Dev) (c : CtxId) (except : Option Nat) (cause beat : Nat) :
    d.Detects (d.ringHalt c except cause beat) ∧ ((d.ringHalt c except cause beat).ctxAt c).ringHaltSent = true := by
  have hsend : ∀ (e : Dev) (m : Nat) (pk : Pkt), e.Detects (if except = some m then e else e.originate 10 pk) := fun e m pk =>
    Dev.Detects.ite .refl (.of_reports (Dev.Reports.originate e 10 pk))
  unfold Dev.ringHalt
  simp only
  refine ⟨Dev.Detects.trans (Dev.Detects.foldl (fun d g => (hsend _ _ _).trans (hsend _ _ _)) _ d) (.modCtx fun x => ⟨⟨rfl, rfl, rfl, rfl⟩, id, fun _ => rfl⟩), ?_⟩
  rw [Dev.modCtx_at]

/-- A RING_HALT that goes out once. -/
theorem Dev.haltOnce_detects (d : Dev) (c : CtxId) {r : Prop} [Decidable r] (hr : r → (d.ctxAt c).ringHaltSent = true) (except : Option Nat) (cause beat : Nat) :
    d.Detects (if r then d else d.ringHalt c except cause beat) ∧ ((if r then d else d.ringHalt c except cause beat).ctxAt c).ringHaltSent = true := by
  split
  · rename_i h
    exact ⟨.refl, hr h⟩
  · exact d.ringHalt_detects c except cause beat

/-- What a first detection of a beat records: its event, its counts. -/
theorem Dev.detect_detects (d : Dev) (c : CtxId) (ds : List Detection) (beat : Nat) (from' : Option (Nat × Nat × Nat))
    (hds : ∀ x ∈ ds, x.cause < 1024) : d.Detects (d.detect c ds beat from')
    ∧ (ds ≠ [] → d.locked c = true → (d.ctxAt c).state = .running →
        ((d.detect c ds beat from').ctxAt c).overrun = true ∧ ((d.detect c ds beat from').ctxAt c).ringHaltSent = true) := by
  unfold Dev.detect
  cases ds with
  | nil => exact ⟨.refl, fun h => absurd rfl h⟩
  | cons a as =>
    have hcause := hds _ (firstDetection_mem as a)
    simp only
    generalize firstDetection a as = f at hcause ⊢
    generalize hE : d.modCtx c _ = E
    have hmark : d.Detects E := hE ▸ .modCtx fun x => ⟨⟨rfl, rfl, rfl, rfl⟩, fun _ => rfl, id⟩
    have hover : (E.ctxAt c).overrun = true := by rw [← hE, Dev.modCtx_at]
    have hsent : (d.ctxAt c).ringHaltSent = (E.ctxAt c).ringHaltSent := by rw [← hE, Dev.modCtx_at]
    generalize hD : (if ((d.ctxAt c).detections.any _) = true then E else _) = D
    have hposted : E.Detects D := by
      rw [← hD]
      refine .ite .refl ?_
      generalize hF : E.event c 1 _ = F
      have h1 : E.Detects F := .of_reports (hF ▸ Dev.Reports.event E c 1 _)
      generalize hG : F.modCtx c _ = G
      have h2 : F.Detects G := hG ▸ .modCtx fun x => ⟨⟨rfl, rfl, rfl, rfl⟩, id, id⟩
      exact h1.trans (h2.trans (Dev.Detects.trans (.count (by omega) (by decide))
        (Dev.Detects.trans (.put (by decide) (by decide)) (.put (by decide) (by decide)))))
    have hoverD := (hposted.marks c).1 hover
    have hsentD : (d.ctxAt c).ringHaltSent = true → (D.ctxAt c).ringHaltSent = true := fun hs => (hposted.marks c).2 (hsent ▸ hs)
    refine ⟨.ite .refl ((hmark.trans hposted).trans ?_), fun _ hlock hrun => ?_⟩
    · cases from' with
      | none => exact (D.haltOnce_detects c hsentD none _ _).1
      | some x => exact (D.haltOnce_detects c hsentD _ _ _).1
    · rw [if_neg (by simp [hlock, hrun])]
      cases from' with
      | none =>
        obtain ⟨h1, h2⟩ := D.haltOnce_detects c hsentD none f.cause _
        exact ⟨(h1.marks c).1 hoverD, h2⟩
      | some x =>
        obtain ⟨h1, h2⟩ := D.haltOnce_detects c hsentD (some x.1) x.2.1 x.2.2
        exact ⟨(h1.marks c).1 hoverD, h2⟩

/-! ### A halt of a ring -/

/-- What one context does on a RING_HALT. -/
def Dev.heedHalt (p : Pkt) (d : Dev) (c : CtxId) : Dev :=
  let x := d.ctxAt c
  if x.pkey = p.pkey.toNat && x.state = .running then
    d.detect c [{ Detection.unitOnly 8 0xFFFF with ringId := p.at' 0x10 2 }] d.time.beat (some (p.src.toNat, p.at' 0x12 1, p.at' 0x18 8))
  else d

theorem Dev.heedHalt_detects (p : Pkt) (d : Dev) (c : CtxId) : d.Detects (d.heedHalt p c)
    ∧ ((d.ctxAt c).pkey = p.pkey.toNat → (d.ctxAt c).state = .running → d.locked c = true →
        ((d.heedHalt p c).ctxAt c).overrun = true ∧ ((d.heedHalt p c).ctxAt c).ringHaltSent = true) := by
  obtain ⟨h1, h2⟩ := d.detect_detects c [{ Detection.unitOnly 8 0xFFFF with ringId := p.at' 0x10 2 }] d.time.beat
    (some (p.src.toNat, p.at' 0x12 1, p.at' 0x18 8)) (fun x hx => by rw [List.mem_singleton.mp hx]; exact (by decide : 8 < 1024))
  unfold Dev.heedHalt
  simp only
  refine ⟨.ite h1 .refl, fun hp hrun hlock => ?_⟩
  rw [if_pos (by simp [hp, hrun])]
  exact h2 (by simp) hlock hrun

/-- Every beat-locked context of the job that runs is marked once it has heeded the halt. -/
theorem Dev.heedHalts_marks (p : Pkt) (c : CtxId) : ∀ (cs : List CtxId) (d : Dev), (d.ctxAt c).pkey = p.pkey.toNat → (d.ctxAt c).state = .running →
    d.locked c = true → c ∈ cs → ((cs.foldl (Dev.heedHalt p) d).ctxAt c).overrun = true ∧ ((cs.foldl (Dev.heedHalt p) d).ctxAt c).ringHaltSent = true
  | [], _, _, _, _, h => absurd h List.not_mem_nil
  | k :: ks, d, hp, hrun, hlock, h => by
    obtain ⟨hone, hself⟩ := d.heedHalt_detects p k
    have hrest : (d.heedHalt p k).Detects (ks.foldl (Dev.heedHalt p) (d.heedHalt p k)) := .foldl (fun b x => (b.heedHalt_detects p x).1) ks _
    rw [List.foldl_cons]
    by_cases e : c = k
    · subst e
      obtain ⟨h1, h2⟩ := hself hp hrun hlock
      exact ⟨(hrest.marks c).1 h1, (hrest.marks c).2 h2⟩
    · obtain ⟨c1, c2, -, -⟩ := hone.ctx c
      exact Dev.heedHalts_marks p c ks (d.heedHalt p k) (c1.trans hp) (c2.trans hrun) ((hone.locked c).trans hlock) ((List.mem_cons.mp h).resolve_left e)

/-! ### Shards -/

/-- A shard that matches a fill, in its place, with room in every copy of its slot. -/
theorem perfShard_fills {p : Pkt} {now : Nat} {fu : Fuses} {m : Mem} {d x : Dev} {c : CtxId} {g : RingDesc} {f : Fill} {n : Nat} {es : List MemEff}
    (hfill : d.shardFill p = some (c, g, f))
    (hn : n = shardOffset g f (field (p.spec 0x1A 3) 0 19) (d.shardCount g f (field (p.spec 0x1D 3) 0 20)) p.payload.length)
    (hcount : field (p.spec 0x1D 3) 0 20 = d.shardCount g f (field (p.spec 0x1D 3) 0 20))
    (hidx : field (p.spec 0x1A 3) 0 19 < field (p.spec 0x1D 3) 0 20) (hroom : n + p.payload.length ≤ g.slotBytes f.grad)
    (hslots : ∀ q ∈ f.slots, (d.regionAt (g.slotCore f.grad q.1) (g.regionNo f.grad)).fill < (d.regionAt (g.slotCore f.grad q.1) (g.regionNo f.grad)).slots
      ∧ d.isFull (g.slotCore f.grad q.1) (g.regionNo f.grad) q.2 = false)
    (hx : f.slots.foldl (shardCopy g f n (field (p.spec 0x1D 3) 0 20) p 0) (d, []) = (x, es)) :
    perfShard p 0 now fu m d = (.done, { dev := x.modCtx c (fun y => { y with fills := y.fills.map (fun h =>
      if h = f then { h with pos := n + p.payload.length } else h) }), mem := es }) := by
  have hmatch : ¬ (decide (field (p.spec 0x1D 3) 0 20 ≠ d.shardCount g f (field (p.spec 0x1D 3) 0 20))
      || decide (d.shardCount g f (field (p.spec 0x1D 3) 0 20) ≤ field (p.spec 0x1A 3) 0 19) || decide (g.slotBytes f.grad < n + p.payload.length)) = true := by
    simp only [Bool.or_eq_true, decide_eq_true_eq]
    omega
  have hfree : ¬ (f.slots.any (fun s => decide ((d.regionAt (g.slotCore f.grad s.1) (g.regionNo f.grad)).slots
      ≤ (d.regionAt (g.slotCore f.grad s.1) (g.regionNo f.grad)).fill) || d.isFull (g.slotCore f.grad s.1) (g.regionNo f.grad) s.2)) = true := by
    intro h
    obtain ⟨q, hq, hb⟩ := List.any_eq_true.mp h
    obtain ⟨h1, h2⟩ := hslots q hq
    rw [h2, Bool.or_false, decide_eq_true_eq] at hb
    omega
  unfold perfShard
  simp only [hfill]
  rw [← hn, if_neg hmatch, if_neg hfree, hx]

/-! ### The partner's digests -/

/-- A partner's notice of a mismatch. -/
theorem lockstepIn_notice {p : Pkt} {d : Dev} {c : CtxId} (hfind : allCtx.find? (fun c => (d.ctxAt c).state = .running && (d.ctxAt c).lock.form = 1) = some c)
    (hbit : bit (p.at' 0x2A 1) 0 = true) (hlock : d.locked c = true) :
    ((lockstepIn p d).ctxAt c).overrun = true ∧ ((lockstepIn p d).ctxAt c).lock.halt = true ∧ (lockstepIn p d).get BRY_LS_STAT.LAST_UNIT 0 = p.at' 0x28 2 := by
  have hrun : (d.ctxAt c).state = .running := by
    have h := List.find?_some hfind
    rw [Bool.and_eq_true] at h
    exact of_decide_eq_true h.1
  have hunit : p.at' 0x28 2 < 2 ^ 16 := rd_lt p.body _ 2
  unfold lockstepIn
  simp only [hfind, hbit, if_true]
  have hset := get_put_self (d.count BRY_LS_STAT.MISMATCHES) BRY_LS_STAT.LAST_UNIT (p.at' 0x28 2) 0 (by decide)
  have hctx : ((d.count BRY_LS_STAT.MISMATCHES).put BRY_LS_STAT.LAST_UNIT (p.at' 0x28 2) 0).ctx = d.ctx := by rw [Dev.put_ctx, Dev.count_ctx]
  generalize (d.count BRY_LS_STAT.MISMATCHES).put BRY_LS_STAT.LAST_UNIT (p.at' 0x28 2) 0 = y at hset hctx
  generalize hz : y.modCtx c _ = z
  have hzget : z.get BRY_LS_STAT.LAST_UNIT 0 = p.at' 0x28 2 := by
    rw [← hz]
    exact hset.trans (Nat.mod_eq_of_lt hunit)
  have hzat : (z.ctxAt c).lock.halt = true ∧ (z.ctxAt c).loaded = (d.ctxAt c).loaded ∧ (z.ctxAt c).state = (d.ctxAt c).state := by
    rw [← hz, Dev.modCtx_at, Dev.ctxAt, hctx]
    exact ⟨rfl, rfl, rfl⟩
  obtain ⟨hhalt, hloaded, hstate⟩ := hzat
  have hzlock : z.locked c = true := by
    rw [Dev.locked, hloaded]
    exact hlock
  obtain ⟨h1, h2⟩ := z.detect_detects c [⟨p.at' 0x10 8, 9, p.at' 0x28 2, 0xFFFF, 0xFFFF, 0, 1, 136, 0xFF⟩] (p.at' 0x10 8) none
    (fun x hx => by rw [List.mem_singleton.mp hx]; exact (by decide : 9 < 1024))
  refine ⟨(h2 (by simp) hzlock (hstate.trans hrun)).1, ?_, ?_⟩
  · rw [(h1.ctx c).2.2.2]
    exact hhalt
  · exact (h1.regs BRY_LS_STAT.LAST_UNIT 0 (by decide) (by decide)).trans hzget

end Sys2Proof.Machine

namespace Sys2Proof.Proofs

open Sys2Proof.Machine Sys2Proof.Laws

/-- Settles O36: the shard by the copies of its slot, the halt by what each context heeds, the notice by its detection. -/
theorem ringPackets : Obligations.RingPackets := by
  unfold Obligations.RingPackets
  refine ⟨fun a m e x r z c g f n es s ho hfill hn hcount hidx hroom hslots hx => ?_, fun a m e r z s ho => ?_,
    fun a c s hh hup haux hfind => ⟨fun hbit hlock => ?_, fun hbit => ?_⟩⟩
  · have hperf := perfShard_fills (now := a.now.toNat) (fu := s.fuse) (m := s.mem) hfill hn hcount hidx hroom hslots hx
    exact answers_of_act rfl (ho.runs (types := [0x12]) rfl (by decide) (by decide) (endAccept_done hperf)) ⟨rfl, rfl, rfl, rfl⟩
  · have htake := e.taking_received a r z
    have hperf : perfRingHalt a.pkt 0 a.now.toNat s.fuse s.mem (e.taking a r z) = (.done, { dev := allCtx.foldl (Dev.heedHalt a.pkt) (e.taking a r z) }) := rfl
    refine answers_device rfl (ho.runs (types := [0x58]) rfl (by decide) (by decide) (endAccept_done hperf)) fun t ht hdev => ⟨ht, fun c hp hrun hlock => ?_⟩
    have hat : (e.taking a r z).ctxAt c = e.ctxAt c := by rw [Dev.ctxAt, htake.ctx, Dev.ctxAt]
    have hmarks := Dev.heedHalts_marks a.pkt c allCtx (e.taking a r z) (by rw [hat]; exact hp) (by rw [hat]; exact hrun)
      (by rw [Dev.locked, hat]; exact hlock) (List.mem_finRange c)
    have hlast := ((allCtx.foldl (Dev.heedHalt a.pkt) (e.taking a r z)).took_received a r z m 1).ctx
    rw [hdev, Dev.ctxAt, hlast]
    exact hmarks
  · refine linkLocal_answers (g := fun _ p _ => lockstepIn p) hh (by simp [hup, haux]) rfl fun t ht hdev => ⟨ht, ?_⟩
    rw [hdev]
    exact lockstepIn_notice hfind hbit hlock
  · refine linkLocal_answers (g := fun _ p _ => lockstepIn p) hh (by simp [hup, haux]) rfl fun t ht hdev => ?_
    have hin : lockstepIn a.pkt s.dev = (s.dev.modCtx c (fun x => { x with lock := { x.lock with
        heard := x.lock.heard ++ [(a.pkt.at' 0x10 8, a.pkt.at' 0x28 2, sub a.pkt.body 8 16)] } })).comparePair c false := by
      unfold lockstepIn
      simp only [hfind, hbit, Bool.false_eq_true, if_false]
    exact State.onlyDev.eq_withDev ht (by rw [hdev, hin])

end Sys2Proof.Proofs
end

section
/-! The router: tables, the Tumbler, packets that go out and packets that go on (R343, R366, R372 to R374, R381). -/

namespace Sys2Proof.Machine

open Sys2Proof.Laws

/-! ### Ports that a flip admits -/

/-- The router and all registers but those of links and of halts stay. -/
structure Dev.Admits (a b : Dev) : Prop where
  rte : b.rte = a.rte
  regs : a.RegsOutside b (.LNK_PORT_STAT :: downRegs)

namespace Dev.Admits

variable {a b c : Dev}

theorem refl : a.Admits a := ⟨rfl, .refl a _⟩

theorem trans (h : a.Admits b) (g : b.Admits c) : a.Admits c := ⟨g.rte.trans h.rte, h.regs.trans g.regs⟩

theorem put {f : Fld} {v k : Nat} (hk : k < 1024) (hf : f.reg = .LNK_PORT_STAT) : a.Admits (a.put f v k) :=
  ⟨Dev.put_rte _ _ _ _, .put a f v k hk (by rw [hf]; exact List.mem_cons_self)⟩

theorem ite {r : Prop} [Decidable r] (hb : a.Admits b) (hc : a.Admits c) : a.Admits (if r then b else c) := by
  split
  · exact hb
  · exact hc

end Dev.Admits

theorem Dev.portDown_admits (d : Dev) {k : Nat} (hk : k < 1024) (fault : Bool) : d.Admits (d.portDown k fault) := by
  by_cases hup : d.portState k = psDown
  · rw [Dev.portDown, if_pos hup]
    exact .refl
  · have h := d.portDown_does k hk fault hup
    exact ⟨h.quiet.rte, h.regs⟩

theorem Dev.settlePort_admits (d : Dev) {k : Nat} (hk : k < 1024) : d.Admits (d.settlePort k) := by
  by_cases hn : (d.portAt k).order.length = 0
  · unfold Dev.settlePort
    simp only [hn, if_true]
    exact d.portDown_admits hk true
  · refine ⟨?_, (d.settlePort_does hk hn).1.mono fun r hr => by rw [List.mem_singleton.mp hr]; exact List.mem_cons_self⟩
    unfold Dev.settlePort
    simp only [hn, if_false]
    refine (Dev.pump_rte _ k).trans ?_
    split
    · rw [Dev.put_rte, Dev.put_rte, Dev.put_rte]
    · rw [Dev.put_rte, Dev.put_rte]

theorem Dev.admitPort_admits (d : Dev) {k : Nat} (hk : k < 1024) : d.Admits (d.admitPort k) :=
  .ite ((Dev.Admits.put hk rfl).trans (Dev.settlePort_admits _ hk)) .refl

theorem Dev.admitPorts_admits : ∀ (ks : List Nat) (d : Dev), (∀ k ∈ ks, k < 1024) → d.Admits (ks.foldl Dev.admitPort d)
  | [], _, _ => .refl
  | k :: ks, d, h => (d.admitPort_admits (h k List.mem_cons_self)).trans
      (Dev.admitPorts_admits ks (d.admitPort k) fun j hj => h j (List.mem_cons_of_mem _ hj))

/-! ### Flips -/

theorem Dev.booked_of_rte {a b : Dev} (h : b.rte.tbl = a.rte.tbl) (ver k : Nat) : b.booked ver k = a.booked ver k := by
  unfold Dev.booked
  rw [h]

theorem Dev.inforce_lt (d : Dev) : d.inforce < 2 := Nat.mod_lt _ (by decide)

/-- RTE_FLIP once a flip has been taken, over any routers. -/
theorem Dev.flipSet_get (d : Dev) : (((d.put RTE_FLIP.INFORCE (1 - d.inforce)).put RTE_FLIP.STATUS 0).put RTE_FLIP.PENDING 1).get RTE_FLIP.INFORCE 0 = 1 - d.inforce
    ∧ (((d.put RTE_FLIP.INFORCE (1 - d.inforce)).put RTE_FLIP.STATUS 0).put RTE_FLIP.PENDING 1).get RTE_FLIP.STATUS 0 = 0
    ∧ (((d.put RTE_FLIP.INFORCE (1 - d.inforce)).put RTE_FLIP.STATUS 0).put RTE_FLIP.PENDING 1).get RTE_FLIP.PENDING 0 = 1 := by
  have hlt : (1 - d.inforce) % 2 ^ 1 = 1 - d.inforce := Nat.mod_eq_of_lt (by omega)
  refine ⟨?_, ?_, get_put_self _ RTE_FLIP.PENDING 1 0 (by decide)⟩
  · rw [get_put_field _ RTE_FLIP.PENDING RTE_FLIP.INFORCE _ _ rfl (by decide) (by decide),
      get_put_field _ RTE_FLIP.STATUS RTE_FLIP.INFORCE _ _ rfl (by decide) (by decide), get_put_self _ RTE_FLIP.INFORCE _ _ (by decide)]
    exact hlt
  · rw [get_put_field _ RTE_FLIP.PENDING RTE_FLIP.STATUS _ _ rfl (by decide) (by decide), get_put_self _ RTE_FLIP.STATUS _ _ (by decide)]
    rfl

/-- A flip whose circuits fit. -/
theorem Dev.flipNow_fits {d : Dev} (hfit : d.circuitsFit) (ports : Nat) : d.Flipped (d.flipNow ports) ∧ (d.flipNow ports).rte = { d.rte with draining := true } := by
  have hnone : (List.range 12).find? (fun k => decide (64 < d.booked (1 - d.inforce) k)) = none := by
    rw [List.find?_eq_none]
    intro k hk
    have := hfit k (List.mem_range.mp hk)
    simpa using this
  unfold Dev.flipNow
  simp only [hnone]
  obtain ⟨h1, h2, h3⟩ := d.flipSet_get
  have hrte : (((d.put RTE_FLIP.INFORCE (1 - d.inforce)).put RTE_FLIP.STATUS 0).put RTE_FLIP.PENDING 1).rte = d.rte := by
    rw [Dev.put_rte, Dev.put_rte, Dev.put_rte]
  generalize ((d.put RTE_FLIP.INFORCE (1 - d.inforce)).put RTE_FLIP.STATUS 0).put RTE_FLIP.PENDING 1 = x at h1 h2 h3 hrte
  generalize hy : x.modRte (fun r => { r with draining := true }) = y
  have hyrte : y.rte = { d.rte with draining := true } := by rw [← hy, ← hrte]; rfl
  have hyget : ∀ f i, y.get f i = x.get f i := fun f i => by rw [← hy]; exact Dev.get_of_regs rfl f i
  have hadm : y.Admits (if y.idCommitted = true then (bitsOf ports 12).foldl Dev.admitPort y else y) := by
    refine .ite (Dev.admitPorts_admits _ y fun k hk => ?_) .refl
    have := List.mem_range.mp (List.mem_of_mem_filter hk)
    omega
  generalize (if y.idCommitted = true then (bitsOf ports 12).foldl Dev.admitPort y else y) = t at hadm
  have hget : ∀ f : Fld, f.reg = .RTE_FLIP → t.get f 0 = x.get f 0 := fun f hf => (hadm.regs f 0 (by decide) (by rw [hf]; decide)).trans (hyget f 0)
  refine ⟨⟨(hget _ rfl).trans h1, (hget _ rfl).trans h2, Dev.flag_of_get ((hget _ rfl).trans h3), ?_, ?_⟩, hadm.rte.trans hyrte⟩
  · rw [hadm.rte, hyrte]
  · rw [hadm.rte, hyrte]

/-- A flip whose circuits do not fit is refused. -/
theorem Dev.flipNow_refused {d : Dev} (hfit : ¬ d.circuitsFit) (ports : Nat) : (d.flipNow ports).inforce = d.inforce ∧ (d.flipNow ports).get RTE_FLIP.STATUS 0 = 1
    ∧ (d.flipNow ports).get RTE_FLIP.PENDING 0 = 0 ∧ (d.flipNow ports).rte = d.rte := by
  unfold Dev.flipNow
  simp only
  cases hk : (List.range 12).find? (fun k => decide (64 < d.booked (1 - d.inforce) k)) with
  | none =>
    refine absurd (fun k hk12 => ?_) hfit
    have := List.find?_eq_none.mp hk k (List.mem_range.mpr hk12)
    simpa using this
  | some k =>
    simp only
    refine ⟨?_, ?_, get_put_self _ RTE_FLIP.PENDING 0 0 (by decide), by rw [Dev.put_rte, Dev.put_rte, Dev.put_rte]⟩
    · rw [Dev.inforce, get_put_field _ RTE_FLIP.PENDING RTE_FLIP.INFORCE _ _ rfl (by decide) (by decide),
        get_put_field _ RTE_FLIP.BADPORT RTE_FLIP.INFORCE _ _ rfl (by decide) (by decide),
        get_put_field _ RTE_FLIP.STATUS RTE_FLIP.INFORCE _ _ rfl (by decide) (by decide), Dev.inforce]
    · rw [get_put_field _ RTE_FLIP.PENDING RTE_FLIP.STATUS _ _ rfl (by decide) (by decide),
        get_put_field _ RTE_FLIP.BADPORT RTE_FLIP.STATUS _ _ rfl (by decide) (by decide), get_put_self _ RTE_FLIP.STATUS _ _ (by decide)]
      rfl

/-- What a write of RTE_FLIP keeps. -/
theorem Dev.flipFields_keep (d : Dev) (w : RegWr) : (d.writeFields .RTE_FLIP 0 false w).inforce = d.inforce
    ∧ (d.writeFields .RTE_FLIP 0 false w).get RTE_FLIP.PENDING 0 = d.get RTE_FLIP.PENDING 0
    ∧ (d.writeFields .RTE_FLIP 0 false w).reg .RTE_FLIP_BEAT 0 = d.reg .RTE_FLIP_BEAT 0 :=
  ⟨d.writeFields_keeps RTE_FLIP.INFORCE 0 (by decide) (by decide) (by decide) false w (by decide),
    d.writeFields_keeps RTE_FLIP.PENDING 0 (by decide) (by decide) (by decide) false w (by decide),
    (d.writeFields_outside .RTE_FLIP 0 (by decide) false w).reg (by decide)⟩

end Sys2Proof.Machine
end

section
/-! The rows of the router. -/

namespace Sys2Proof.Machine

open Sys2Proof.Laws

/-! ### Table entries -/

theorem Dev.tblNext_onlyRegs (d : Dev) : d.onlyRegs d.tblNext := by
  unfold Dev.tblNext
  split
  · exact .put _ _ _ _
  · exact .refl d

/-- INDEX goes on by INC. -/
theorem Dev.tblNext_index (d : Dev) : d.tblNext.get RTE_TBL_SEL.INDEX 0 = (d.get RTE_TBL_SEL.INDEX 0 + d.get RTE_TBL_SEL.INC 0) % 65536 := by
  have hinc : d.get RTE_TBL_SEL.INC 0 < 2 := Nat.mod_lt _ (by decide)
  have hidx : d.get RTE_TBL_SEL.INDEX 0 < 65536 := Nat.mod_lt _ (by decide)
  unfold Dev.tblNext Dev.flag
  split
  · rename_i h
    have h1 : d.get RTE_TBL_SEL.INC 0 ≠ 0 := by simpa using h
    rw [get_put_self _ RTE_TBL_SEL.INDEX _ _ (by decide)]
    show (d.get RTE_TBL_SEL.INDEX 0 + 1) % 65536 % 65536 = _
    omega
  · rename_i h
    have h0 : d.get RTE_TBL_SEL.INC 0 = 0 := by simpa using h
    omega

theorem Dev.tblWrite_refused {d : Dev} (w : RegWr) (h : d.tblSel.1 ≠ 2) (hin : d.tblSel.2.1 = d.inforce ∨ d.flag RTE_FLIP.PENDING 0 = true) :
    d.tblWrite w = (d.count RTE_ERR.TBLREJ 0).tblNext := by
  have hrefused : (!selValid d.tblSel || (decide (d.tblSel.1 ≠ 2) && (decide (d.tblSel.2.1 = d.inforce) || d.flag RTE_FLIP.PENDING))) = true := by
    rw [Bool.or_eq_true, Bool.and_eq_true, Bool.or_eq_true, decide_eq_true_eq, decide_eq_true_eq]
    exact .inr ⟨h, hin⟩
  unfold Dev.tblWrite
  simp only [hrefused, if_true]

/-- Every byte of a full write is written. -/
theorem fullLanes_take {v x : Nat} (hv : v < 2 ^ 64) (hx : x < 2 ^ 64) : v - (v &&& lanesMask .full) + (x &&& lanesMask .full) = x := by
  have hm : lanesMask .full = 2 ^ 64 - 1 := by decide
  rw [hm, Nat.and_two_pow_sub_one_eq_mod, Nat.and_two_pow_sub_one_eq_mod, Nat.mod_eq_of_lt hv, Nat.mod_eq_of_lt hx]
  omega

theorem Dev.tblWrite_taken {d : Dev} {w : RegWr} (hw : w.lanes = .full) (hvalid : selValid d.tblSel = true)
    (hout : d.tblSel.1 = 2 ∨ (d.tblSel.2.1 ≠ d.inforce ∧ d.flag RTE_FLIP.PENDING 0 = false)) (hlt : d.tblEntry < 2 ^ 64) :
    d.tblWrite w = (d.modRte (fun r => { r with tbl := tblSet 0 r.tbl (rteKey d.tblSel.1 d.tblSel.2.1 d.tblSel.2.2.1 d.tblSel.2.2.2) w.value.toNat })).tblNext := by
  have htaken : ¬ (!selValid d.tblSel || (decide (d.tblSel.1 ≠ 2) && (decide (d.tblSel.2.1 = d.inforce) || d.flag RTE_FLIP.PENDING))) = true := by
    rw [hvalid]
    rcases hout with h | ⟨h1, h2⟩
    · simp [h]
    · simp only [h2, decide_eq_false h1, Bool.or_self, Bool.and_false, Bool.not_true]
      decide
  unfold Dev.tblWrite
  simp only [hw]
  rw [if_neg htaken, fullLanes_take hlt w.value.isLt]

/-! ### Packets that attachments hold -/

theorem Dev.sealPkt_outq (d : Dev) (att : Nat) (p : Pkt) : (d.sealPkt att p).2.outq = d.outq := by
  unfold Dev.sealPkt
  simp only
  split
  · rfl
  · split
    · rfl
    · split
      · rfl
      · rfl

theorem Dev.enqueue_outq (d : Dev) (k : Nat) (upper marked : Bool) (p : Pkt) (inp : Option (Nat × Nat)) : (d.enqueue k upper marked p inp).outq = d.outq := by
  unfold Dev.enqueue
  obtain ⟨l, o, h⟩ := (Dev.pump_pumped _ k).rest
  rw [h]
  rfl

theorem Dev.transmit_outq (d : Dev) (att : Nat) (o : OutPkt) (seq : Nat) (syn : Bool) : (d.transmit att o seq syn).outq = d.outq := by
  have hviol : ∀ (e : Dev) (k : Nat) (p : Pkt) (b : Bool), (e.violation k p b).outq = e.outq := fun e k p b => by
    unfold Dev.violation
    rw [Dev.put_outq, Dev.put_outq, Dev.put_outq, Dev.count_outq]
  unfold Dev.transmit
  split
  · rw [Dev.count_outq]
  · simp only
    have hseal := d.sealPkt_outq att (((({ o.pkt with seq := BitVec.ofNat 16 seq } : Pkt).putFlag 0 1 d.inforce)).putFlag 1 1 (b2n syn))
    generalize d.sealPkt att (((({ o.pkt with seq := BitVec.ofNat 16 seq } : Pkt).putFlag 0 1 d.inforce)).putFlag 1 1 (b2n syn)) = r at hseal
    obtain ⟨p, e⟩ := r
    cases p with
    | none => exact hseal
    | some p =>
      simp only
      split
      · exact (hviol _ _ _ _).trans hseal
      · split
        · exact hseal
        · exact (Dev.count_outq _ _ _ _).trans hseal
        · exact (hviol _ _ _ _).trans hseal
        · split
          · exact (Dev.count_outq _ _ _ _).trans hseal
          · split
            · exact (hviol _ _ _ _).trans hseal
            · exact (e.enqueue_outq _ _ _ _ _).trans hseal

/-- A numbered packet takes the next number of its flow. -/
theorem Dev.sendNew_numbers {d : Dev} {att n : Nat} {o : OutPkt} (hseq : o.pkt.sequenced = true) (hnext : (d.sendFlow o.flow).next = some n) :
    (d.sendNew att o).outq = d.outq ∧ ((d.sendNew att o).sendFlow o.flow).next = some ((n + 1) % 65536)
    ∧ ((d.sendNew att o).sendFlow o.flow).unacked = (d.sendFlow o.flow).unacked ++ [⟨n, att, o⟩] := by
  unfold Dev.sendNew
  rw [if_neg (by rw [hseq]; decide)]
  simp only [hnext]
  generalize hy : d.modSend o.flow _ = y
  have hflow : (y.sendFlow o.flow).next = some ((n + 1) % 65536) ∧ (y.sendFlow o.flow).unacked = (d.sendFlow o.flow).unacked ++ [⟨n, att, o⟩] := by
    rw [← hy, Dev.sendFlow_modSend]
    exact ⟨rfl, rfl⟩
  have hout : y.outq = d.outq := hy ▸ rfl
  have hsend := Dev.sendFlow_of_send (y.transmit_send att o n (d.sendFlow o.flow).opening) o.flow
  rw [hsend]
  exact ⟨(y.transmit_outq _ _ _ _).trans hout, hflow⟩

/-- No packet of the module for itself waits: nothing is delivered. -/
theorem loopAct_empty {d : Dev} (h : d.rte.loop = []) (f : Fuses) (m : Mem) : loopAct f m d = { dev := d } := by
  have hsame : d.modRte (fun r => { r with loop := [] }) = d := by
    have hrte : ({ d.rte with loop := [] } : Rte) = d.rte := by rw [← h]
    exact congrArg (fun r : Rte => ({ d with rte := r } : Dev)) hrte
  unfold loopAct
  rw [h, hsame]
  rfl

theorem andThen_of_empty {g : Dev → Dev} {b : Act} {f : Fuses} {m : Mem} {d : Dev} (h : ∀ f m, b f m (g d) = { dev := g d }) :
    ((Act.dev g).andThen b) f m d = { dev := g d } := by
  unfold Act.andThen
  simp only [Act.dev]
  rw [h]
  rfl

/-! ### Packets that go on -/

theorem forwardAct_out {a : Arrival} {d : Dev} {o : Nat} (hroute : d.route a.port.val a.pkt = .out o) (hcalm : d.clamps a.pkt = false)
    (hkey : d.keyPasses a.port.val a.pkt = true) (htakes : d.portTakes a.port.val a.pkt = true) (f : Fuses) (m : Mem) :
    forwardAct a f m d = { dev := d.forward a o } := by
  unfold forwardAct
  simp only [hroute, hcalm, hkey, htakes, Bool.false_eq_true, Bool.not_true, if_false, if_true]

theorem forwardAct_none {a : Arrival} {d : Dev} (hroute : d.route a.port.val a.pkt = .none) (hcalm : d.clamps a.pkt = false)
    (hkey : d.keyPasses a.port.val a.pkt = true) (htakes : d.portTakes a.port.val a.pkt = true) (f : Fuses) (m : Mem) :
    forwardAct a f m d = { dev := (d.count RTE_ERR.NOROUTE 0).passed a } := by
  unfold forwardAct
  simp only [hroute, hcalm, hkey, htakes, Bool.false_eq_true, Bool.not_true, if_false, arriveAct]
  rfl

theorem Dev.forward_goes {d : Dev} {a : Arrival} {o : Nat} (hup : psUp ≤ d.portState a.port.val) (hcarries : d.carries o false a.pkt = true)
    (hkey : d.keyPasses o a.pkt = true) :
    d.forward a o = (d.holdFlits a.port.val (2 * a.pkt.tc.val + b2n a.upper) a.flits).enqueue o
      (d.forwardSide a.port.val o a.upper) a.marked a.pkt (some (a.port.val, 2 * a.pkt.tc.val + b2n a.upper)) := by
  unfold Dev.forward
  simp only
  rw [if_neg (by omega), if_neg (by rw [hcarries]; decide), if_neg (by rw [hkey]; decide)]

/-! ### Flips that are asked for -/

theorem Dev.AsksFlip.writes {d : Dev} {w : RegWr} {b : Nat} (h : d.AsksFlip w b) :
    d.flipWrite w = (let e := d.writeFields .RTE_FLIP 0 false w
      if b = 0 then e.flipNow (e.get RTE_FLIP.ADMIT)
      else if b ≤ d.time.beat then e.put RTE_FLIP.STATUS 3
      else ((e.put RTE_FLIP.PENDING 1).put RTE_FLIP.STATUS 0).modRte (fun r => { r with flip := some (b, e.get RTE_FLIP.ADMIT) })) := by
  obtain ⟨-, hpend, hbeat⟩ := d.flipFields_keep w
  have honly := Dev.onlyRegs.writeFields d .RTE_FLIP 0 false w
  have hidle : (d.writeFields .RTE_FLIP 0 false w).flag RTE_FLIP.PENDING = false := by
    rw [Dev.flag, hpend]
    exact h.idle
  have htime : (d.writeFields .RTE_FLIP 0 false w).time = d.time := by rw [honly]
  unfold Dev.flipWrite
  simp only [h.flip, hidle, hbeat, h.beat, htime, Bool.not_true, Bool.false_eq_true, if_false]

/-- A flip of a device whose fields alone were written is a flip. -/
theorem Dev.Flipped.of_fields {a b t : Dev} (h : b.Flipped t) (hin : b.inforce = a.inforce) (hrte : b.rte = a.rte) : a.Flipped t :=
  ⟨h.inforce.trans (by rw [hin]), h.status, h.pending, h.draining, h.tbl.trans (by rw [hrte])⟩

theorem Dev.circuitsFit_of {a b : Dev} (hin : b.inforce = a.inforce) (hrte : b.rte = a.rte) : b.circuitsFit ↔ a.circuitsFit := by
  unfold Dev.circuitsFit
  simp only [hin, Dev.booked_of_rte (congrArg Rte.tbl hrte)]

theorem Dev.flag_false_of_get {d : Dev} {f : Fld} {i : Nat} (h : d.get f i = 0) : d.flag f i = false := by
  rw [Dev.flag, h]
  rfl

end Sys2Proof.Machine

namespace Sys2Proof.Proofs

open Sys2Proof.Machine Sys2Proof.Laws

/-- A flip that a write asks for: at once where its circuits fit, refused where they do not, LATE, or announced. -/
theorem flipRequest_answers {w : RegWr} {b : Nat} {s : State} (h : s.dev.AsksFlip w b) :
    (b = 0 → s.dev.circuitsFit → Answers (.flipRequest w) s (fun t => s.onlyDev t ∧ s.dev.Flipped t.dev))
    ∧ (b = 0 → ¬ s.dev.circuitsFit →
      Answers (.flipRequest w) s (fun t => s.onlyDev t ∧ t.dev.inforce = s.dev.inforce ∧ t.dev.get RTE_FLIP.STATUS 0 = 1
        ∧ t.dev.flag RTE_FLIP.PENDING 0 = false ∧ t.dev.rte = s.dev.rte))
    ∧ (b ≠ 0 → b ≤ s.dev.time.beat → Answers (.flipRequest w) s (fun t => t = s.withDev ((s.dev.writeFields .RTE_FLIP 0 false w).put
        RTE_FLIP.STATUS 3 0)))
    ∧ (s.dev.time.beat < b → Answers (.flipRequest w) s (fun t => s.onlyDev t ∧ t.dev.flag RTE_FLIP.PENDING 0 = true
        ∧ t.dev.get RTE_FLIP.STATUS 0 = 0 ∧ t.dev.inforce = s.dev.inforce
        ∧ t.dev.rte.flip = some (b, (s.dev.writeFields .RTE_FLIP 0 false w).get RTE_FLIP.ADMIT 0))) := by
  obtain ⟨hin, -, -⟩ := s.dev.flipFields_keep w
  have hrte : (s.dev.writeFields .RTE_FLIP 0 false w).rte = s.dev.rte := by rw [Dev.onlyRegs.writeFields s.dev .RTE_FLIP 0 false w]
  have hwrite := h.writes
  generalize s.dev.writeFields .RTE_FLIP 0 false w = e at hin hrte hwrite
  have hgo : ∀ {P : State → Prop}, P (s.withDev (s.dev.flipWrite w)) → Answers (.flipRequest w) s P := fun hP => mgmtDev_answers h.manages rfl hP
  simp only at hwrite
  refine ⟨fun hb hfit => hgo ?_, fun hb hfit => hgo ?_, fun hb hle => hgo ?_, fun hlt => hgo ?_⟩
  · rw [hwrite, if_pos hb]
    have hflip := (Dev.flipNow_fits ((Dev.circuitsFit_of hin hrte).mpr hfit) (e.get RTE_FLIP.ADMIT)).1
    exact ⟨⟨rfl, rfl, rfl⟩, hflip.of_fields hin hrte⟩
  · rw [hwrite, if_pos hb]
    obtain ⟨h1, h2, h3, h4⟩ := Dev.flipNow_refused (fun hf => hfit ((Dev.circuitsFit_of hin hrte).mp hf)) (e.get RTE_FLIP.ADMIT)
    exact ⟨⟨rfl, rfl, rfl⟩, h1.trans hin, h2, Dev.flag_false_of_get h3, h4.trans hrte⟩
  · rw [hwrite, if_neg hb, if_pos hle]
  · rw [hwrite, if_neg (by omega), if_neg (by omega)]
    have hpend : ((e.put RTE_FLIP.PENDING 1).put RTE_FLIP.STATUS 0).get RTE_FLIP.PENDING 0 = 1 := by
      rw [get_put_field _ RTE_FLIP.STATUS RTE_FLIP.PENDING _ _ rfl (by decide) (by decide), get_put_self _ RTE_FLIP.PENDING _ _ (by decide)]
      rfl
    have hstat : ((e.put RTE_FLIP.PENDING 1).put RTE_FLIP.STATUS 0).get RTE_FLIP.STATUS 0 = 0 := get_put_self _ RTE_FLIP.STATUS 0 0 (by decide)
    have hinf : ((e.put RTE_FLIP.PENDING 1).put RTE_FLIP.STATUS 0).inforce = e.inforce := by
      rw [Dev.inforce, get_put_field _ RTE_FLIP.STATUS RTE_FLIP.INFORCE _ _ rfl (by decide) (by decide),
        get_put_field _ RTE_FLIP.PENDING RTE_FLIP.INFORCE _ _ rfl (by decide) (by decide), Dev.inforce]
    generalize (e.put RTE_FLIP.PENDING 1).put RTE_FLIP.STATUS 0 = x at hpend hstat hinf
    exact ⟨⟨rfl, rfl, rfl⟩, Dev.flag_of_get hpend, hstat, hinf.trans hin, rfl⟩

/-- Settles O37: table entries by the selection, flips by the circuits of the new version, packets by their flow and their route. -/
theorem routerRows : Obligations.RouterRows := by
  unfold Obligations.RouterRows
  refine ⟨fun w s hm hw => ⟨fun hvalid hout hlt => ?_, fun h2 hin => ?_⟩, fun s hm => ?_, fun w b s h => flipRequest_answers h,
    fun b ports s hflip hb hfit => ?_, fun s hdrain hold => ?_, fun att i n o x s hup hid hfirst hx hloop hseq hnext => ?_,
    fun a s hll hup hid hcalm hkey htakes => ⟨fun o hroute hst hcarries hko => ?_, fun hroute => ?_⟩⟩
  · refine mgmtDev_answers hm rfl ⟨⟨rfl, rfl, rfl⟩, ?_⟩
    show (s.dev.tblWrite w).entry _ _ _ _ = _ ∧ (∀ key, key ≠ _ → tblGet 0 (s.dev.tblWrite w).rte.tbl key = tblGet 0 s.dev.rte.tbl key)
      ∧ (s.dev.tblWrite w).get RTE_TBL_SEL.INDEX 0 = _
    rw [Dev.tblWrite_taken hw hvalid hout hlt]
    generalize hx : s.dev.modRte _ = x
    have honly := x.tblNext_onlyRegs
    have htbl : x.tblNext.rte.tbl = tblSet 0 s.dev.rte.tbl (rteKey s.dev.tblSel.1 s.dev.tblSel.2.1 s.dev.tblSel.2.2.1 s.dev.tblSel.2.2.2) w.value.toNat := by
      rw [honly, ← hx]
      rfl
    refine ⟨?_, fun key hkey => ?_, ?_⟩
    · rw [Dev.entry, htbl, tblGet_set_self]
    · rw [htbl, tblGet_set_ne hkey]
    · rw [Dev.tblNext_index, ← hx]
      rfl
  · exact mgmtDev_answers hm rfl (by rw [Dev.tblWrite_refused w h2 hin])
  · refine mgmtDev_answers hm rfl ⟨⟨rfl, rfl, rfl⟩, ?_, s.dev.tblNext_index⟩
    show s.dev.tblNext.rte = s.dev.rte
    rw [s.dev.tblNext_onlyRegs]
  · obtain ⟨hflipped, hrte⟩ := Dev.flipNow_fits (d := s.dev.modRte (fun r => { r with flip := none })) hfit ports
    refine answers_device (d := (s.dev.modRte (fun r => { r with flip := none })).flipNow ports) rfl ?_ fun t ht hdev => ⟨ht, ?_, ?_⟩
    · simp only [Act.dev, hflip, if_pos hb]
    · rw [hdev]
      exact ⟨hflipped.inforce, hflipped.status, hflipped.pending, hflipped.draining, hflipped.tbl⟩
    · rw [hdev, hrte]
      rfl
  · have hnone : s.dev.lnk.any (fun e => e.2.queue.any (fun v => decide (b2n v.pkt.tumbler ≠ s.dev.inforce))) = false := by
      rw [List.any_eq_false]
      intro p hp
      rw [Bool.not_eq_true, List.any_eq_false]
      intro v hv
      simpa using hold p hp v hv
    refine answers_device (d := (s.dev.put RTE_FLIP.PENDING 0).modRte (fun r => { r with draining := false })) rfl ?_ fun t ht hdev => ⟨ht, ?_, by rw [hdev]; rfl⟩
    · simp only [Act.dev, hnone, hdrain, Bool.not_false, Bool.and_self, if_true]
    · rw [hdev]
      exact Dev.flag_false_of_get (get_put_self s.dev RTE_FLIP.PENDING 0 0 (by decide))
  · have hsend : s.dev.sendFirst att.val = x := by
      unfold Dev.sendFirst
      simp only [hfirst]
      exact hx.symm
    have hnum := Dev.sendNew_numbers (d := { s.dev with outq := tblSet [] s.dev.outq att.val ((tblGet [] s.dev.outq att.val).eraseIdx i) }) (att := att.val) hseq hnext
    rw [← hx] at hnum
    obtain ⟨hout, hn, hun⟩ := hnum
    refine answers_of_dev rfl ?_ ⟨rfl, ?_, hn, hun⟩
    · have hrun := andThen_of_empty (g := fun d => d.sendFirst att.val) (b := loopAct) (f := s.fuse) (m := s.mem) (d := s.dev)
        (fun f m => loopAct_empty (by rw [hsend]; exact hloop) f m)
      simp only [hup, hid, Bool.not_true, Bool.or_self, Bool.false_eq_true, if_false]
      rw [hrun, hsend]
    · show tblGet [] x.outq att.val = _
      rw [hout, tblGet_set_self]
  · refine answers_of_dev rfl ?_ rfl
    simp only [hll, hup, hid, Bool.not_true, Bool.or_self, Bool.false_eq_true, if_false]
    rw [forwardAct_out hroute hcalm hkey htakes, Dev.forward_goes hst hcarries hko]
  · refine answers_of_dev rfl ?_ rfl
    simp only [hll, hup, hid, Bool.not_true, Bool.or_self, Bool.false_eq_true, if_false]
    exact forwardAct_none hroute hcalm hkey htakes _ _

end Sys2Proof.Proofs
end

section
/-! The receive side of the Ethernet ports (R466 to R479): ports without held frames, placement in one buffer, frames that wait,
doorbells and watermarks. -/

namespace Sys2Proof.Machine

open Sys2Proof.Laws

/-! ### Ports on which no frame waits -/

theorem mem_subsOf (x : SubPort) : x ∈ subsOf x.port := List.mem_map.mpr ⟨x.sub, List.mem_finRange _, rfl⟩

theorem Dev.noneHeld_of_eth {a b : Dev} {p : Fin 2} (h : a.noneHeld p) (e : b.eth.subs = a.eth.subs) : b.noneHeld p := fun y hy => by
  unfold Dev.ethSub
  rw [e]
  exact h y hy

/-- Actions that all do nothing do nothing together. -/
theorem each_same {A : Type} {g : A → Act} {f : Fuses} {m : Mem} {d : Dev} : ∀ (xs : List A), (∀ x ∈ xs, g x f m d = { dev := d }) →
    Act.each g xs f m d = { dev := d }
  | [], _ => rfl
  | x :: xs, h => by
    have hx := h x List.mem_cons_self
    have hxs := each_same xs (fun y hy => h y (List.mem_cons_of_mem _ hy))
    simp only [Act.each, Act.andThen, hx, Fuses.apply, Mem.apply, List.foldl_nil, hxs, List.append_nil]

theorem releasePort_none {d : Dev} {p : Fin 2} (h : d.noneHeld p) (f : Fuses) (m : Mem) : releasePort p f m d = { dev := d } :=
  each_same (subsOf p) (fun x hx => by rw [h x hx]; rfl)

/-- Where no frame waits, an arriving frame is the first that the port handles. -/
theorem receive_none {x : EthFrame} {d : Dev} (h : d.noneHeld x.at'.port) (f : Fuses) (m : Mem) :
    ((releasePort x.at'.port).andThen (rxFrame x)) f m d = rxFrame x f m d := by
  unfold Act.andThen
  rw [releasePort_none h]
  rfl

/-- A change of the device that leaves the held frames releases none where none waits. -/
theorem change_none {g : Dev → Dev} {p : Fin 2} {d : Dev} (h : d.noneHeld p) (e : (g d).eth.subs = d.eth.subs) (f : Fuses) (m : Mem) :
    ((Act.dev g).andThen (releasePort p)) f m d = { dev := g d } :=
  andThen_of_empty (fun f m => releasePort_none (Dev.noneHeld_of_eth h e) f m)

/-! ### Steered frames -/

theorem Dev.steer_frame (d : Dev) (f : EthFrame) : (d.steer f).frame = f := by
  unfold Dev.steer
  simp only
  cases (List.range 32).find? (fun i => d.ruleHits f.at' f.bytes (d.ethRule f.at'.port.val i)) <;> rfl

theorem Dev.steer_dest (d : Dev) (f : EthFrame) : (d.steer f).dest = 32 * f.at'.port.val + (d.steer f).queue := by
  unfold HeldFrame.dest
  rw [d.steer_frame]

/-- A frame that comes in is filtered or steered (R468). -/
theorem rxFrame_comes {d : Dev} {x : EthFrame} (h : d.FrameComes x) (f : Fuses) (m : Mem) : rxFrame x f m d
    = if !d.takesAddr x.at'.port.val x.bytes then { dev := d.count ETH_RX_ERR.FILTER x.at'.port.val } else d.rxSteered m x := by
  have hlong : ¬ x.bytes.length < 60 := Nat.not_lt.mpr h.long
  unfold rxFrame
  simp only [h.up, hlong, h.data, Bool.not_true, Bool.false_eq_true, if_false]

/-- A frame whose share has room and no frame before it is delivered, or waits where PFC covers its priority (R474, R477). -/
theorem Dev.rxSteered_first {d : Dev} {x : EthFrame} (h : d.Steered x) (m : Mem) : d.rxSteered m x = (d.deliver m (d.steer x)).getD
    (if d.pfcOn x.at'.port.val (d.steer x).pri then { dev := d.hold (d.steer x) }
      else { dev := d.dropped (d.steer x).dest ETH_RX_DROP.NOBUF x.at'.port.val }) := by
  have hheld : (d.ethSub x.at').held = [] := h.calm _ (mem_subsOf x.at')
  have hshare : (d.ethSub x.at').share (d.steer x).pri = 0 := by
    unfold EthSub.share
    rw [hheld]
    rfl
  have hroom : ¬ d.shareBytes x.at'.port.val < 0 + frameTakes x := by
    have := h.room
    omega
  unfold Dev.rxSteered
  simp only [hshare, hroom, hheld, if_false, List.any_nil, Bool.false_eq_true, d.steer_dest]
  cases d.deliver m (d.steer x) <;> rfl

theorem Dev.deliver_ring {d : Dev} {x : EthFrame} (h : d.Steered x) (m : Mem) : d.deliver m (d.steer x)
    = if (d.queueDescs (d.steer x).dest).isEmpty then none else some (d.ringFrame m (d.steer x).dest (d.steer x)) := by
  unfold Dev.deliver
  simp only [show 32 * (d.steer x).frame.at'.port.val + (d.steer x).queue = (d.steer x).dest from rfl, h.on, h.ring, Bool.not_true,
    Bool.false_eq_true, if_false]

/-- What FRAME_RECEIVE does with a steered frame. -/
theorem receive_steered {d : Dev} {x : EthFrame} (h : d.Steered x) (f : Fuses) (m : Mem) :
    ((releasePort x.at'.port).andThen (rxFrame x)) f m d = d.rxSteered m x := by
  rw [receive_none h.calm, rxFrame_comes h.toFrameComes, h.taken]
  rfl

/-! ### Placement -/

theorem sub_all (b : Bytes) : sub b 0 b.length = b := by
  simp only [sub, List.drop_zero, List.take_length, Nat.sub_self, List.replicate_zero, List.append_nil]

/-- A frame that the first buffer takes whole, in host memory (R472). -/
theorem placeList_first {b bytes : Bytes} {rest : List Bytes} (hok : sizeOk b = true) (hfit : bytes.length ≤ rd b 8 4) (m : Mem) (d : Dev) :
    placeList none bytes (b :: rest) 0 m d = ⟨.whole, [⟨false, bytes.length⟩], d.hostWrite (rd b 0 8) bytes, []⟩ := by
  have hmin : Nat.min (rd b 8 4) (bytes.length - 0) = bytes.length := by
    rw [Nat.sub_zero]
    exact Nat.min_eq_right hfit
  have hsub : sub bytes 0 bytes.length = bytes := sub_all bytes
  unfold placeList
  simp only [hok, hmin, hsub, Dev.fillBuffer, Nat.zero_add, Bool.not_true, Bool.false_eq_true, if_false, if_true]

/-- The write-back of a frame that one buffer took whole (R472). -/
theorem Dev.backAll_one (d : Dev) (j : Nat) (h : HeldFrame) (n : Nat) : d.backAll j h [⟨false, n⟩] false
    = d.writeBack j 0x10 (rxBack h (wholeFlags h.frame) n n) := by
  have hflags : (if (parseFrame h.frame.bytes).outer.isSome then 128 else 0) + checkFlags h.frame.bytes + b2n (decide ((some 0 : Option Nat) = some 0))
      + 2 * b2n (decide ((some 0 : Option Nat) = some 0)) = wholeFlags h.frame := by
    simp only [b2n, decide_true, if_true, wholeFlags]
  have hfind : (List.range [(⟨false, n⟩ : Placed)].length).find? (fun i => !([(⟨false, n⟩ : Placed)].getD i ⟨true, 0⟩).bad) = some 0 := rfl
  have hlast : lastUsed [(⟨false, n⟩ : Placed)] = some 0 := rfl
  unfold Dev.backAll
  simp only [hfind, hlast]
  show Dev.writeBack d j 0x10 (rxBack h _ n (if decide ((some 0 : Option Nat) = some 0) = true then 0 + n else 0)) = _
  rw [← hflags, show (if decide ((some 0 : Option Nat) = some 0) = true then 0 + n else 0) = n from Nat.zero_add n]
  rfl

/-- A sound frame, no giant, that the first buffer of its queue takes whole (R472). -/
theorem Dev.ringFrame_whole {d : Dev} {j : Nat} {h : HeldFrame} {b : Bytes} (hhead : (d.queueDescs j).head? = some b) (hok : sizeOk b = true)
    (hfit : h.frame.bytes.length ≤ rd b 8 4) (hshort : h.frame.bytes.length ≤ 9212) (hsound : h.frame.fcsOk = true)
    (hhost : d.flag ETH_QCFG.BUFKIND j = false) (m : Mem) : d.ringFrame m j h = ⟨(d.hostWrite (rd b 0 8) h.frame.bytes).writeBack j 0x10
      (rxBack h (wholeFlags h.frame) h.frame.bytes.length h.frame.bytes.length), [], []⟩ := by
  obtain ⟨rest, hlist⟩ := List.head?_eq_some_iff.mp hhead
  have hplaced : placedBytes h.frame = h.frame.bytes := List.take_of_length_le (by omega)
  have hgiant : isGiant h.frame = false := decide_eq_false (by omega)
  unfold Dev.ringFrame
  simp only [hlist, hplaced, hhost, Bool.false_eq_true, if_false, placeList_first hok hfit, hgiant, hsound, decide_true, Bool.not_false, Bool.not_true,
    Bool.and_self, Dev.backAll_one]

/-! ### Frames that wait -/

/-- What sent pause frames leave: the sub-ports and the queues. -/
theorem Dev.sendPause_eth (d : Dev) (x : SubPort) (b : Bytes) : (d.sendPause x b).eth = d.eth := by
  unfold Dev.sendPause
  exact Dev.count_eth _ _ _ _

theorem Dev.sendPauses_eth {A : Type} (x : SubPort) (b : A → Bytes) (xs : List A) (d : Dev) :
    (xs.foldl (fun d i => d.sendPause x (b i)) d).eth = d.eth := 
  foldl_keeps (P := fun e => e.eth = d.eth) (fun e i h => (e.sendPause_eth x (b i)).trans h) xs d rfl

/-- Flow control sets the shares above XOFF of its sub-port and sends frames (R477). -/
theorem Dev.flowControl_eth (d : Dev) (x : SubPort) : ∃ mask, (d.flowControl x).eth = (d.modSub x (fun y => { y with xoff := mask })).eth := by
  unfold Dev.flowControl
  simp only
  generalize hmask : maskOf _ = mask
  refine ⟨mask, ?_⟩
  generalize d.modSub x (fun y => { y with xoff := mask }) = e
  split
  · split
    · exact (Dev.sendPause_eth _ _ _).trans (Dev.sendPauses_eth x (fun _ => pauseBody 0xFFFF) _ e)
    · exact Dev.sendPauses_eth x (fun _ => pauseBody 0xFFFF) _ e
  · exact (Dev.sendPauses_eth x (fun i => pfcBody (2 ^ i) 0) _ _).trans (Dev.sendPauses_eth x (fun i => pfcBody (2 ^ i) 0xFFFF) _ e)
  · rfl

theorem Dev.modSub_at (d : Dev) (x : SubPort) (f : EthSub → EthSub) : (d.modSub x f).ethSub x = f (d.ethSub x) := tblGet_mod_self

/-- A sound frame, no giant, waits behind those of its sub-port (R474). -/
theorem Dev.hold_waits {d : Dev} {h : HeldFrame} (hshort : h.frame.bytes.length ≤ 9212) (hsound : h.frame.fcsOk = true) :
    ((d.hold h).ethSub h.frame.at').held = (d.ethSub h.frame.at').held ++ [h] ∧ (d.hold h).eth.posted = d.eth.posted := by
  have hgiant : isGiant h.frame = false := decide_eq_false (by omega)
  obtain ⟨mask, hflow⟩ := (d.modSub h.frame.at' (fun s => { s with held := s.held ++ [h] })).flowControl_eth h.frame.at'
  have hhold : d.hold h = (d.modSub h.frame.at' (fun s => { s with held := s.held ++ [h] })).flowControl h.frame.at' := by
    unfold Dev.hold
    simp only [hgiant, hsound, Bool.not_true, Bool.false_eq_true, if_false]
  have hsub : ((d.hold h).ethSub h.frame.at') = ((d.modSub h.frame.at' (fun s => { s with held := s.held ++ [h] })).modSub h.frame.at'
      (fun y => { y with xoff := mask })).ethSub h.frame.at' := by
    rw [hhold]
    unfold Dev.ethSub
    rw [hflow]
  refine ⟨?_, by rw [hhold, hflow]; rfl⟩
  rw [hsub, Dev.modSub_at, Dev.modSub_at]

/-! ### Doorbells -/

/-- A doorbell within the room of an enabled queue posts the descriptors up to the new tail (R433, R471). -/
theorem Dev.queueBell_posts {d : Dev} {j v : Nat} (ds : List Bytes) (hen : d.flag ETH_QCFG.EN j = true) (hv : v % 65536 < d.queueSize j)
    (hroom : d.get ETH_QSTAT.LEVEL j + d.bellMore j v < d.queueSize j) : d.queueBell j v ds = (d.putDescs j (d.queueDescs j
      ++ (List.range (d.bellMore j v)).map (fun i => sub (ds.getD i []) 0 32))).put ETH_QSTAT.LEVEL (d.get ETH_QSTAT.LEVEL j + d.bellMore j v) j := by
  have hmore : d.bellMore j v ≤ d.queueSize j - 1 - d.get ETH_QSTAT.LEVEL j := by omega
  unfold Dev.queueBell
  simp only [show (v % 65536 + d.queueSize j - d.queueTail j) % d.queueSize j = d.bellMore j v from rfl, hen, hv, hmore, decide_true,
    Bool.and_self, if_true]

theorem Dev.putDescs_at (d : Dev) (j : Nat) (bs : List Bytes) : (d.putDescs j bs).queueDescs j = bs := by
  simp only [Dev.putDescs, Dev.queueDescs, tblGet_set_self]

theorem ethBell_none {d : Dev} {fn : FnId} {q : Fin 64} (v : Nat) (ds : List Bytes) (hup : d.hostUp = true) (hreach : d.reachesQueue fn q.val = true)
    (hnone : d.noneHeld (Fin.ofNat 2 (q.val / 32))) (f : Fuses) (m : Mem) :
    ethBell fn q.val v ds f m d = { dev := d.queueBell q.val v ds } := by
  have hsubs : (d.queueBell q.val v ds).eth.subs = d.eth.subs := by
    unfold Dev.queueBell
    simp only
    split <;> rfl
  unfold ethBell
  simp only [hup, hreach, Bool.not_true, Bool.false_eq_true, if_false]
  exact change_none (g := fun d => d.queueBell q.val v ds) hnone hsubs f m

/-! ### Watermarks -/

theorem Dev.watermarkWrite_level (d : Dev) (q : Fin 64) (w : RegWr) :
    (d.writeFields .ETH_QWM q.val false w).get ETH_QSTAT.LEVEL q.val = d.get ETH_QSTAT.LEVEL q.val :=
  d.writeFields_outside .ETH_QWM q.val (by omega) false w ETH_QSTAT.LEVEL q.val (by omega) (by decide)

/-- A notice goes out and the watermark is no longer armed (R479). -/
theorem Dev.watermark_disarms (d : Dev) (q : Fin 64) : (d.watermark q.val).flag ETH_QWM.ARMED q.val = false := by
  have hgive := (Dev.Reports.cqGive (d.put ETH_QWM.ARMED 0 q.val) (d.queueCq q.val) ⟨true, eventHeader (cqKey (d.queueCq q.val)) 8,
    sub (leBytes 1 (q.val / 32) ++ leBytes 1 (q.val / 16 % 2) ++ leBytes 2 (q.val % 16) ++ leBytes 4 (d.get ETH_QSTAT.LEVEL q.val)
    ++ leBytes 4 (d.get ETH_QWM.DISARMED_X q.val)) 0 32⟩).regs ETH_QWM.ARMED q.val (by omega) (by decide) (by decide)
  exact Dev.flag_false_of_get (hgive.trans (get_put_self d ETH_QWM.ARMED 0 q.val (by decide)))

/-- A write that sets a one-bit field of a half carries it. -/
theorem wrCarries_of_sets {w : RegWr} {g : Fld} (hw : g.width = 1) (h : wrSets w g = true) : wrCarries w g = true := by
  by_contra hc
  have hzero : wrGet w g = 0 := by
    apply Nat.eq_of_testBit_eq
    intro i
    rw [wrGet, testBit_field, Nat.testBit_and, Nat.zero_testBit, hw]
    by_cases hi : i < 1
    · have hbit : (lanesMask w.lanes).testBit g.lo = false := by simpa [wrCarries, bit] using hc
      rw [show g.lo + i = g.lo by omega, hbit, Bool.and_false, Bool.and_false]
    · simp [hi]
  simp [wrSets, hzero] at h

/-- A write that sets ARMED leaves the watermark armed (R479). -/
theorem Dev.watermark_armed (d : Dev) (q : Fin 64) {w : RegWr} (h : wrSets w ETH_QWM.ARMED = true) :
    (d.writeFields .ETH_QWM q.val false w).flag ETH_QWM.ARMED q.val = true := by
  have htakes := d.writeFields_takes ETH_QWM.ARMED q.val (by omega) (by decide) (by decide) false w (.inl rfl) (by decide) (by decide)
  rw [wrCarries_of_sets rfl h, if_pos rfl] at htakes
  exact (congrArg (fun n => decide (n ≠ 0)) htakes).trans h

theorem Dev.fnWatermark_writes {d : Dev} {fn : FnId} {j : Nat} (w : RegWr) (hup : d.hostUp = true) (hreach : d.reachesQueue fn j = true) :
    d.fnWatermark fn j w = d.watermarkWrite j w := by
  unfold Dev.fnWatermark
  rw [if_neg (by rw [hup]; decide), if_pos hreach]

end Sys2Proof.Machine

end

section
namespace Sys2Proof.Proofs

open Sys2Proof.Machine Sys2Proof.Laws

/-- Settles O39: a port on which no frame waits handles the arriving frame alone, a frame that fits its first buffer is placed there
whole, and doorbells and watermark writes act on their queue. -/
theorem ethernetReceive : Obligations.EthernetReceive := by
  unfold Obligations.EthernetReceive
  refine ⟨fun f s hup hnone hrunt => ?_, fun f s hcome haddr => ?_, fun f b s hst hhead hok hfit => ?_,
    fun f s hst hempty => ⟨fun hpfc => ?_, fun hpfc => ?_⟩, fun fn q v ds s hup hreach hnone hen hv hroom hsize => ?_,
    fun fn q w s hup hreach hset => ⟨fun hlow => ?_, fun hhigh => ?_⟩⟩
  · refine answers_of_dev rfl ?_ rfl
    rw [receive_none hnone]
    simp only [rxFrame, hup, hrunt, Bool.not_true, Bool.false_eq_true, if_false, if_true]
  · refine answers_of_dev rfl ?_ rfl
    rw [receive_none hcome.calm, rxFrame_comes hcome, haddr]
    rfl
  · have hsome : (s.dev.queueDescs (s.dev.steer f).dest).isEmpty = false := by
      cases hq : s.dev.queueDescs (s.dev.steer f).dest with
      | nil => rw [hq] at hhead; cases hhead
      | cons x xs => rfl
    refine answers_of_dev rfl ?_ rfl
    rw [receive_steered hst, Dev.rxSteered_first hst, Dev.deliver_ring hst, hsome,
      Dev.ringFrame_whole hhead hok (by rwa [Dev.steer_frame]) (by rw [Dev.steer_frame]; exact hst.short) (by rw [Dev.steer_frame]; exact hst.sound) hst.host,
      Dev.steer_frame]
    rfl
  · have hwaits := Dev.hold_waits (d := s.dev) (h := s.dev.steer f) (by rw [Dev.steer_frame]; exact hst.short) (by rw [Dev.steer_frame]; exact hst.sound)
    rw [Dev.steer_frame, hst.calm _ (mem_subsOf f.at')] at hwaits
    refine answers_device (d := s.dev.hold (s.dev.steer f)) rfl ?_ fun t ht hdev => ⟨ht, ?_, ?_⟩
    · rw [receive_steered hst, Dev.rxSteered_first hst, Dev.deliver_ring hst, hempty, hpfc]
      rfl
    · rw [hdev]
      exact hwaits.1
    · rw [hdev, Dev.queueDescs, hwaits.2]
      exact hempty
  · refine answers_of_dev rfl ?_ rfl
    rw [receive_steered hst, Dev.rxSteered_first hst, Dev.deliver_ring hst, hempty, hpfc]
    rfl
  · refine answers_device (d := s.dev.queueBell q.val v.toNat ds) rfl (ethBell_none v.toNat ds hup hreach hnone s.fuse s.mem) fun t ht hdev => ⟨ht, ?_, ?_⟩
    · rw [hdev, Dev.queueBell_posts ds hen hv hroom]
      exact s.dev.putDescs_at q.val _
    · rw [hdev, Dev.queueBell_posts ds hen hv hroom, get_put_self _ ETH_QSTAT.LEVEL _ q.val (by decide)]
      exact Nat.mod_eq_of_lt (show _ < 131072 by omega)
  · refine answers_of_dev (d := (s.dev.writeFields .ETH_QWM q.val false w).watermark q.val) rfl ?_ ⟨rfl, Dev.watermark_disarms _ q⟩
    simp only [Act.dev, Dev.fnWatermark_writes w hup hreach, Dev.watermarkWrite, s.dev.watermarkWrite_level q w, hset, hlow, decide_true,
      Bool.and_self, if_true]
  · refine answers_of_dev (d := s.dev.writeFields .ETH_QWM q.val false w) rfl ?_ ⟨rfl, s.dev.watermark_armed q hset⟩
    simp only [Act.dev, Dev.fnWatermark_writes w hup hreach, Dev.watermarkWrite, s.dev.watermarkWrite_level q w, hset, Nat.not_le.mpr hhigh,
      decide_false, Bool.and_false, Bool.false_eq_true, if_false]

end Sys2Proof.Proofs
end

section
/-! The transmit side and the set-up of the Ethernet ports (R465 to R483): pauses, links, ports, queues and rules. -/

namespace Sys2Proof.Machine

open Sys2Proof.Laws

/-! ### Pauses -/

theorem Dev.ethSub_of_eth {a b : Dev} (h : b.eth = a.eth) (x : SubPort) : b.ethSub x = a.ethSub x := by
  unfold Dev.ethSub
  rw [h]

theorem Dev.putStopped_at (d : Dev) (x : SubPort) (mask : Nat) : (d.putStopped x mask).ethSub x = { d.ethSub x with stopped := mask } := by
  unfold Dev.putStopped
  exact (Dev.ethSub_of_eth (Dev.put_eth _ _ _ _) x).trans (d.modSub_at x (fun y => { y with stopped := mask }))

theorem Dev.putStopped_rxPause (d : Dev) (x : SubPort) (mask : Nat) :
    (d.putStopped x mask).get ETH_PAUSE.RX_PAUSE x.port.val = d.get ETH_PAUSE.RX_PAUSE x.port.val := by
  unfold Dev.putStopped
  have hsub : (d.modSub x (fun y => { y with stopped := mask })).regs = d.regs := rfl
  simp only
  generalize d.modSub x (fun y => { y with stopped := mask }) = e at hsub ⊢
  exact (get_put_clear e (f := ETH_PAUSE.PAUSED) (g := ETH_PAUSE.RX_PAUSE) _ (by omega) (by decide) (by decide)).trans (Dev.get_of_regs hsub _ _)

/-- A PAUSE frame on a port whose FC is 1 (R468, R478). -/
theorem Dev.rxPause_pauses {d : Dev} {f : EthFrame} (hfc : d.get ETH_PORT_CFG.FC f.at'.port.val = 1) (hop : beNat (sub f.bytes 14 2) = 1) :
    d.rxPause f = (d.count ETH_PAUSE.RX_PAUSE f.at'.port.val).putStopped f.at' (if beNat (sub f.bytes 16 2) = 0 then 0 else 0xFF) := by
  have hcount : (d.count ETH_PAUSE.RX_PAUSE f.at'.port.val).get ETH_PORT_CFG.FC f.at'.port.val = 1 :=
    (get_put_ne _ _ _ _ _ _ (regKey_ne (by omega) (by omega) (by decide))).trans hfc
  unfold Dev.rxPause
  simp only [hop, hcount, decide_true, Bool.and_self, if_true]

/-- A PAUSE frame that comes in is taken by its sub-port (R468). -/
theorem rxFrame_pause {d : Dev} {x : EthFrame} (hup : d.subUp x.at' = true) (hpause : isPause x.bytes = true) (hok : x.fcsOk = true)
    (hlong : 60 ≤ x.bytes.length) (f : Fuses) (m : Mem) : rxFrame x f m d = { dev := d.rxPause x } := by
  unfold rxFrame
  simp only [hup, Nat.not_lt.mpr hlong, hpause, hok, Bool.not_true, Bool.false_eq_true, if_false, if_true]

/-! ### Transmission -/

/-- The queue that a sub-port grants next sends its first frame (R475, R476). -/
theorem Dev.txSend_next {d : Dev} {x : SubPort} {q j : Nat} {ds : List Bytes} (hnext : d.txNext x = some q) (hj : j = 32 * x.port.val + 16 + q)
    (hframe : txFrame (d.queueDescs j) = some ds) (m : Mem) (data : Bytes) : d.txSend m x data =
    if txCheck ds ≠ txOk then (d.modSub x (fun y => { y with next := (q + 1) % 16 })).txDone x.port.val j ds.length (txCheck ds)
    else match (d.modSub x (fun y => { y with next := (q + 1) % 16 })).txBytes m j ds data with
      | .error e => (d.modSub x (fun y => { y with next := (q + 1) % 16 })).txDone x.port.val j ds.length e
      | .ok bytes => ((txOut (ds.getD 0 []) bytes).foldl (fun d b => d.emit (.frame x b))
          (d.modSub x (fun y => { y with next := (q + 1) % 16 }))).txDone x.port.val j ds.length txOk := by
  unfold Dev.txSend
  simp only [hnext, ← hj, hframe, Option.getD_some] <;> rfl

/-! ### Links of sub-ports -/

theorem bit_put_link (d : Dev) (p k v : Nat) (hk : k < 4) :
    bit ((d.put ETH_PORT_CFG.LINK (setField (d.get ETH_PORT_CFG.LINK p) k 1 v) p).get ETH_PORT_CFG.LINK p) k = bit v 0 := by
  rw [get_put_self d ETH_PORT_CFG.LINK _ p (by decide), show ETH_PORT_CFG.LINK.width = 4 from rfl, bit_mod hk, bit, testBit_setField]
  simp [bit]

/-- What a sub-port leaves as it goes down. -/
theorem Dev.subDown_link (d : Dev) (x : SubPort) : bit ((d.subDown x).get ETH_PORT_CFG.LINK x.port.val) x.sub.val = false := by
  unfold Dev.subDown
  simp only
  exact bit_put_link _ _ _ 0 x.sub.isLt

/-! ### Ports -/

theorem Dev.onlyRegs.eth {a b : Dev} (h : a.onlyRegs b) : b.eth = a.eth := by rw [h]

theorem Dev.portPower_regs (d : Dev) (p : Nat) : (d.portPower p).regs = d.regs := by
  unfold Dev.portPower
  split
  · rfl
  · exact (d.domRaised_does (416 + p)).2.2.2

theorem Dev.portPower_on (d : Dev) (p : Nat) : (d.portPower p).domOn (416 + p) = true := by
  unfold Dev.portPower
  split
  case isTrue h => exact h
  case isFalse => exact decide_eq_true (d.domRaised_does (416 + p)).2.1

/-- A disabled port: no link, no pause, no frame held (R465, R482). -/
theorem Dev.portStop_stops (d : Dev) (p : Fin 2) : (d.portStop p).get ETH_PORT_CFG.LINK p.val = 0 ∧ (d.portStop p).get ETH_PAUSE.PAUSED p.val = 0
    ∧ (d.portStop p).noneHeld p := by
  unfold Dev.portStop
  simp only
  generalize hx : ({ d with eth := { d.eth with subs := tblDrop (fun k => k / 4 = p.val) d.eth.subs } } : Dev) = x
  refine ⟨?_, get_put_self _ ETH_PAUSE.PAUSED 0 p.val (by decide), fun y hy => ?_⟩
  · exact (get_put_ne _ _ _ _ _ _ (regKey_ne (by omega) (by omega) (by decide))).trans (get_put_self _ ETH_PORT_CFG.LINK 0 p.val (by decide))
  · obtain ⟨k, -, rfl⟩ := List.mem_map.mp hy
    have hkey : subKey ⟨p, k⟩ / 4 = p.val := by
      unfold subKey
      simp only
      omega
    have hdrop : x.ethSub ⟨p, k⟩ = EthSub.init := by
      rw [← hx]
      exact tblGet_drop_of (p := fun k => decide (k / 4 = p.val)) (decide_eq_true hkey)
    have heth : ((x.put ETH_PORT_CFG.LINK 0 p.val).put ETH_PAUSE.PAUSED 0 p.val).eth = x.eth := (Dev.put_eth _ _ _ _).trans (Dev.put_eth _ _ _ _)
    exact congrArg EthSub.held ((Dev.ethSub_of_eth heth ⟨p, k⟩).trans hdrop)

/-- A disabled port keeps the other fields of its register. -/
theorem Dev.portStop_keeps (d : Dev) (p : Fin 2) (f : Fld) (hr : f.reg = .ETH_PORT_CFG) (ha : f.lo + f.width ≤ 26) :
    (d.portStop p).get f p.val = d.get f p.val := by
  unfold Dev.portStop
  simp only
  exact (get_put_ne _ _ _ _ _ _ (regKey_ne (by omega) (by omega) (by rw [hr]; decide))).trans
    (get_put_field _ ETH_PORT_CFG.LINK f 0 p.val hr (by decide) (.inl ha))

/-- What EN of an enabled port becomes when a write clears it (R482): the register otherwise keeps. -/
theorem Dev.portWrite_stops {d : Dev} {p : Fin 2} {w : RegWr} (hen : d.flag ETH_PORT_CFG.EN p.val = true)
    (hoff : (d.writeFields .ETH_PORT_CFG p.val false w).flag ETH_PORT_CFG.EN p.val = false) :
    ∃ x : Dev, d.portWrite p w = x.portStop p ∧ ∀ f : Fld, f.reg = .ETH_PORT_CFG → x.get f p.val = (d.put ETH_PORT_CFG.EN 0 p.val).get f p.val := by
  have hzero : (d.writeFields .ETH_PORT_CFG p.val false w).get ETH_PORT_CFG.EN p.val = 0 := by simpa [Dev.flag] using hoff
  unfold Dev.portWrite
  simp only [hen, hzero, if_true]
  generalize d.writeFields .ETH_PORT_CFG p.val false w = e
  have hset : ∀ f : Fld, f.reg = .ETH_PORT_CFG →
      (e.setReg .ETH_PORT_CFG p.val (setField (d.reg .ETH_PORT_CFG p.val) 0 1 0)).get f p.val = (d.put ETH_PORT_CFG.EN 0 p.val).get f p.val :=
    fun f hf => by
      have he := get_setReg_self e f p.val (setField (d.reg .ETH_PORT_CFG p.val) 0 1 0)
      have hd := get_setReg_self d f p.val (setField (d.reg .ETH_PORT_CFG p.val) 0 1 0)
      rw [hf] at he hd
      exact he.trans hd.symm
  generalize e.setReg .ETH_PORT_CFG p.val (setField (d.reg .ETH_PORT_CFG p.val) 0 1 0) = y at hset ⊢
  refine ⟨_, rfl, fun f hf => ?_⟩
  split
  · exact ((Dev.RegsOutside.rejectAt y .ETH_PORT_CFG p.val (rs := [.MMC_CFG_REJ]) (by simp)) f p.val (by omega) (by rw [hf]; decide)).trans (hset f hf)
  · exact hset f hf

theorem Dev.portWrite_enables {d : Dev} {p : Fin 2} {w : RegWr} (hoff : d.flag ETH_PORT_CFG.EN p.val = false)
    (hen : (d.writeFields .ETH_PORT_CFG p.val false w).flag ETH_PORT_CFG.EN p.val = true) :
    d.portWrite p w = if (d.writeFields .ETH_PORT_CFG p.val false w).portOk p.val
      then ((d.writeFields .ETH_PORT_CFG p.val false w).put ETH_PORT_CFG.STATUS 0 p.val).portPower p.val
      else ((d.writeFields .ETH_PORT_CFG p.val false w).put ETH_PORT_CFG.EN 0 p.val).put ETH_PORT_CFG.STATUS 1 p.val := by
  unfold Dev.portWrite
  simp only [hoff, hen, Bool.false_eq_true, if_false, if_true]

/-- A command of the management plane that changes the device alone, by what the device is afterwards. -/
theorem mgmtDev_device {i : Instr} {s : State} {r : RegName} {k : Nat} {g : Dev → Dev} {P : State → Prop} (hm : s.dev.Manages r)
    (he : exec i s = .next (s.run (mgmtDev r k g))) (hP : ∀ t, s.onlyDev t → t.dev = g s.dev → P t) : Answers i s P :=
  mgmtDev_answers hm he (hP _ ⟨rfl, rfl, rfl⟩ rfl)

/-! ### Queues -/

/-- A queue that the physical function may set up (R470, R483). -/
theorem Dev.queueWrite_free {d : Dev} {j : Nat} {w : RegWr} (hfree : 64 ≤ d.get ETH_QCFG.OWNER j) (hoff : d.flag ETH_QCFG.EN j = false) :
    d.queueWrite 0 j w = if (ownerChanged d (d.queueWritten j w) j && !(d.queueWritten j w).ownerOk j)
      || (decide ((d.queueWritten j w).get ETH_QCFG.OWNER j = 64) && (d.queueWritten j w).flag ETH_QCFG.BUFKIND j) then d.rejectAt .ETH_QCFG j
      else (d.queueWritten j w).queueEnable d j := by
  have hctx : ¬ d.get ETH_QCFG.OWNER j < 64 := by omega
  unfold Dev.queueWrite
  simp only [show (d.writeFields .ETH_QCFG j false w).queueTrim j = d.queueWritten j w from rfl, hctx, hoff, decide_false, Bool.and_false,
    Bool.false_eq_true, if_false, Bool.false_or, ne_eq, not_true_eq_false]

theorem Dev.queueWritten_eth (d : Dev) (j : Nat) (w : RegWr) : (d.queueWritten j w).eth = d.eth := by
  have hw := (Dev.onlyRegs.writeFields d .ETH_QCFG j false w).eth
  unfold Dev.queueWritten Dev.queueTrim
  split
  · exact (Dev.put_eth _ _ _ _).trans hw
  · exact ((Dev.put_eth _ _ _ _).trans (Dev.put_eth _ _ _ _)).trans hw

theorem Dev.queueEnable_subs (d d0 : Dev) (j : Nat) : (d.queueEnable d0 j).eth.subs = d.eth.subs := by
  unfold Dev.queueEnable
  simp only
  split
  · split
    · exact (congrArg Eth.subs ((Dev.put_eth _ ETH_QSTAT.HEAD 0 j).trans (Dev.put_eth _ ETH_QSTAT.LEVEL 0 j))).trans rfl
    · exact congrArg Eth.subs (d.put_eth ETH_QCFG.EN 0 j)
  · rfl

/-- What ETH_QUEUE_CONFIG of the physical function does to a free queue on a port without held frames. -/
theorem ethConfig_free {d : Dev} {q : Fin 64} {w : RegWr} (hup : d.hostUp = true) (hnone : d.noneHeld (Fin.ofNat 2 (q.val / 32)))
    (hfree : 64 ≤ d.get ETH_QCFG.OWNER q.val) (hoff : d.flag ETH_QCFG.EN q.val = false) (f : Fuses) (m : Mem) :
    ethConfig 0 q.val w f m d = { dev := d.queueWrite 0 q.val w } := by
  have hsubs : (d.queueWrite 0 q.val w).eth.subs = d.eth.subs := by
    rw [Dev.queueWrite_free hfree hoff]
    split
    · exact congrArg Eth.subs (Dev.onlyRegs.rejectAt d .ETH_QCFG q.val).eth
    · exact (Dev.queueEnable_subs _ _ _).trans (congrArg Eth.subs (d.queueWritten_eth q.val w))
  have hreach : d.reachesQueue 0 q.val = true := rfl
  unfold ethConfig
  simp only [hup, hreach, Bool.not_true, Bool.false_eq_true, if_false]
  exact change_none (g := fun d => d.queueWrite 0 q.val w) hnone hsubs f m

/-- A queue with a size in range is enabled with an empty ring (R471, R483). -/
theorem Dev.queueEnable_empties {d d0 : Dev} {j : Nat} (hj : j < 1024) (hoff : d0.flag ETH_QCFG.EN j = false) (hen : d.flag ETH_QCFG.EN j = true)
    (hlow : 6 ≤ d.get ETH_QCFG.SIZE j) (hhigh : d.get ETH_QCFG.SIZE j ≤ 16) :
    (∀ f : Fld, f.reg = .ETH_QCFG → (d.queueEnable d0 j).get f j = d.get f j) ∧ (d.queueEnable d0 j).queueDescs j = []
    ∧ (d.queueEnable d0 j).get ETH_QSTAT.LEVEL j = 0 ∧ (d.queueEnable d0 j).get ETH_QSTAT.HEAD j = 0 := by
  have hdescs := d.putDescs_at j []
  have hget : ∀ f : Fld, (d.putDescs j []).get f j = d.get f j := fun _ => rfl
  unfold Dev.queueEnable
  simp only [hen, hoff, hlow, hhigh, Bool.not_false, Bool.and_self, if_true]
  generalize d.putDescs j [] = e at hdescs hget
  refine ⟨fun f hf => ?_, ?_, ?_, get_put_self _ ETH_QSTAT.HEAD 0 j (by decide)⟩
  · have hkey : regKey f.reg j ≠ regKey .ETH_QSTAT j := regKey_ne hj hj (by rw [hf]; decide)
    exact ((get_put_ne _ ETH_QSTAT.HEAD f _ _ _ hkey).trans (get_put_ne _ ETH_QSTAT.LEVEL f _ _ _ hkey)).trans (hget f)
  · exact (congrArg (fun t : Eth => tblGet [] t.posted j) ((e.put ETH_QSTAT.LEVEL 0 j).put_eth ETH_QSTAT.HEAD 0 j)).trans hdescs
  · exact (get_put_clear _ (f := ETH_QSTAT.HEAD) (g := ETH_QSTAT.LEVEL) 0 hj (by decide) (by decide)).trans
      (get_put_self e ETH_QSTAT.LEVEL 0 j (by decide))

/-! ### Rules -/

/-- A full write of the selected rule (R482). -/
theorem Dev.ruleWrite_full {d : Dev} {w : RegWr} {v : Nat} (hl : w.lanes = .full) (hv : v = w.value.toNat % 2 ^ 45)
    (hold : d.ethRule (d.get ETH_RULE_SEL.PORT 0) (d.get ETH_RULE_SEL.INDEX 0) < 2 ^ 64) : d.ruleWrite w =
    if 16 < ruleField v ETH_RULE_DATA.QUEUE + 2 ^ ruleField v ETH_RULE_DATA.SPAN then d.rejectAt .ETH_RULE_DATA 0
    else { d with eth := { d.eth with rules := tblSet 0 d.eth.rules (d.get ETH_RULE_SEL.PORT 0 * 32 + d.get ETH_RULE_SEL.INDEX 0) v } } := by
  have hmask : lanesMask w.lanes = 2 ^ 64 - 1 := by rw [hl]; rfl
  have hword : (tblGet 0 d.eth.rules (d.get ETH_RULE_SEL.PORT 0 * 32 + d.get ETH_RULE_SEL.INDEX 0)
      - (tblGet 0 d.eth.rules (d.get ETH_RULE_SEL.PORT 0 * 32 + d.get ETH_RULE_SEL.INDEX 0) &&& lanesMask w.lanes)
      + (w.value.toNat &&& lanesMask w.lanes)) % 2 ^ 45 = v := by
    have hlt : tblGet 0 d.eth.rules (d.get ETH_RULE_SEL.PORT 0 * 32 + d.get ETH_RULE_SEL.INDEX 0) < 2 ^ 64 := hold
    rw [hmask, Nat.and_two_pow_sub_one_eq_mod, Nat.and_two_pow_sub_one_eq_mod, Nat.mod_eq_of_lt hlt, Nat.mod_eq_of_lt w.value.isLt,
      Nat.sub_self, Nat.zero_add, hv]
  unfold Dev.ruleWrite
  simp only [hword]

end Sys2Proof.Machine

namespace Sys2Proof.Proofs

open Sys2Proof.Machine Sys2Proof.Laws

/-- Settles O40: each command is one branch of its function, and what it sets is read back by the rules of registers and tables. -/
theorem ethernetSendAndSetUp : Obligations.EthernetSendAndSetUp := by
  unfold Obligations.EthernetSendAndSetUp
  refine ⟨⟨fun f s hup hpause hok hlong hfc hop => ?_, fun x pri s => ?_, fun x s hup hfc hxoff => ?_,
      fun x q j data ds s hup hnext hj hframe => ⟨fun bytes hcheck hbytes => ?_, fun hcheck => ?_⟩, fun x s hup hsub => ⟨?_, ?_⟩⟩,
    fun p w s hm => ⟨fun hoff hen => ⟨fun hok => ?_, fun hok => ?_⟩, fun hen hoff => ?_⟩,
    fun q w s hup hnone hoff hfree => ⟨fun howner hbuf hlow hhigh hen => ?_, fun hmoved howner => ?_⟩,
    fun w v s hm hl hv => ⟨fun hspan hold => ?_, fun hspan hold => ?_⟩⟩
  · refine answers_device (d := s.dev.rxPause f) rfl ?_ fun t ht hdev => ⟨ht, ?_, ?_⟩
    · simp only [hpause, if_true]
      exact rxFrame_pause hup hpause hok hlong _ _
    · rw [hdev, Dev.rxPause_pauses hfc hop, Dev.putStopped_at]
    · rw [hdev, Dev.rxPause_pauses hfc hop, Dev.putStopped_rxPause]
      exact s.dev.get_count_self ETH_PAUSE.RX_PAUSE f.at'.port.val 1 (by decide)
  · refine answers_device (d := s.dev.putStopped x (setField (s.dev.ethSub x).stopped pri.val 1 0)) rfl rfl fun t ht hdev => ?_
    rw [hdev, Dev.putStopped_at]
    refine ⟨ht, ?_, fun i hi => ?_, rfl⟩
    · simp only [bit_clear, ne_eq, not_true_eq_false, decide_false, Bool.and_false]
    · have hne : i.val ≠ pri.val := fun h => hi (Fin.ext h)
      simp only [bit_clear, ne_eq, hne, not_false_eq_true, decide_true, Bool.and_true]
  · refine answers_of_dev rfl ?_ rfl
    simp only [Act.dev, hup, hfc, hxoff, Bool.not_true, Bool.false_eq_true, if_false, ne_eq, not_false_eq_true, decide_true, Bool.and_self, if_true]
  · refine answers_of_dev rfl ?_ rfl
    rw [hup, if_pos rfl, Dev.txSend_next hnext hj hframe, if_neg (not_not.mpr hcheck), hbytes]
  · refine answers_of_dev rfl ?_ rfl
    rw [hup, if_pos rfl, Dev.txSend_next hnext hj hframe, if_pos hcheck]
  · refine answers_device (d := s.dev.put ETH_PORT_CFG.LINK (setField (s.dev.get ETH_PORT_CFG.LINK x.port.val) x.sub.val 1 1) x.port.val) rfl ?_
      fun t ht hdev => ⟨ht, by rw [hdev]; exact bit_put_link s.dev x.port.val x.sub.val 1 x.sub.isLt⟩
    simp only [Act.dev, hup, Nat.not_le.mpr hsub, Bool.not_true, decide_false, Bool.or_self, Bool.false_eq_true, if_false, if_true]
  · cases hbit : bit (s.dev.get ETH_PORT_CFG.LINK x.port.val) x.sub.val with
    | true =>
      refine answers_device (d := s.dev.subDown x) rfl ?_ fun t ht hdev => ⟨ht, by rw [hdev]; exact s.dev.subDown_link x⟩
      simp only [Act.dev, hup, Nat.not_le.mpr hsub, hbit, Bool.not_true, decide_false, Bool.or_self, Bool.false_eq_true, if_false, if_true]
    | false =>
      refine answers_device (d := s.dev) rfl ?_ fun t ht hdev => ⟨ht, by rw [hdev]; exact hbit⟩
      simp only [Act.dev, hup, Nat.not_le.mpr hsub, hbit, Bool.not_true, decide_false, Bool.or_self, Bool.false_eq_true, if_false]
  · have hwrite := Dev.portWrite_enables hoff hen
    rw [if_pos hok] at hwrite
    refine mgmtDev_device hm rfl fun t ht hdev => ?_
    rw [hwrite] at hdev
    rw [hdev]
    generalize s.dev.writeFields .ETH_PORT_CFG p.val false w = e at hen
    have hregs := Dev.get_of_regs ((e.put ETH_PORT_CFG.STATUS 0 p.val).portPower_regs p.val)
    refine ⟨ht, ?_, ?_, Dev.portPower_on _ _⟩
    · have hget := (hregs ETH_PORT_CFG.EN p.val).trans (get_put_clear e (f := ETH_PORT_CFG.STATUS) (g := ETH_PORT_CFG.EN) 0 (by omega) (by decide) (by decide))
      exact (congrArg (fun n => decide (n ≠ 0)) hget).trans hen
    · exact (hregs ETH_PORT_CFG.STATUS p.val).trans (get_put_self e ETH_PORT_CFG.STATUS 0 p.val (by decide))
  · have hwrite := Dev.portWrite_enables hoff hen
    rw [if_neg (by rw [hok]; decide)] at hwrite
    refine mgmtDev_device hm rfl fun t ht hdev => ?_
    rw [hwrite] at hdev
    rw [hdev]
    generalize s.dev.writeFields .ETH_PORT_CFG p.val false w = e
    refine ⟨ht, ?_, get_put_self _ ETH_PORT_CFG.STATUS 1 p.val (by decide)⟩
    exact Dev.flag_false_of_get ((get_put_clear _ (f := ETH_PORT_CFG.STATUS) (g := ETH_PORT_CFG.EN) 1 (by omega) (by decide) (by decide)).trans
      (get_put_self e ETH_PORT_CFG.EN 0 p.val (by decide)))
  · obtain ⟨x, hwrite, hx⟩ := Dev.portWrite_stops hen hoff
    obtain ⟨hlink, hpause, hnone⟩ := x.portStop_stops p
    refine mgmtDev_device hm rfl fun t ht hdev => ?_
    rw [hwrite] at hdev
    rw [hdev]
    refine ⟨ht, ?_, hlink, hpause, hnone, ?_⟩
    · exact Dev.flag_false_of_get (((x.portStop_keeps p ETH_PORT_CFG.EN rfl (by decide)).trans (hx ETH_PORT_CFG.EN rfl)).trans
        (get_put_self s.dev ETH_PORT_CFG.EN 0 p.val (by decide)))
    · exact ((x.portStop_keeps p ETH_PORT_CFG.BREAKOUT rfl (by decide)).trans (hx ETH_PORT_CFG.BREAKOUT rfl)).trans
        (get_put_clear s.dev (f := ETH_PORT_CFG.EN) (g := ETH_PORT_CFG.BREAKOUT) 0 (by omega) (by decide) (by decide))
  · have hwrite := Dev.queueWrite_free (w := w) hfree hoff
    have hok : (decide ((s.dev.queueWritten q.val w).get ETH_QCFG.OWNER q.val = 64) && (s.dev.queueWritten q.val w).flag ETH_QCFG.BUFKIND q.val) = false := by
      rcases hbuf with h | h
      · rw [decide_eq_false h, Bool.false_and]
      · rw [h, Bool.and_false]
    rw [howner, hok, Bool.not_true, Bool.and_false, Bool.or_self, if_neg (by decide)] at hwrite
    obtain ⟨hcfg, hdescs, hlevel, hhead⟩ := Dev.queueEnable_empties (j := q.val) (by omega) hoff hen hlow hhigh
    refine answers_device rfl (ethConfig_free hup hnone hfree hoff s.fuse s.mem) fun t ht hdev => ?_
    rw [hdev, hwrite]
    exact ⟨ht, (congrArg (fun n => decide (n ≠ 0)) (hcfg ETH_QCFG.EN rfl)).trans hen, hdescs, hlevel, hhead, hcfg ETH_QCFG.OWNER rfl, hcfg ETH_QCFG.BASE rfl⟩
  · refine answers_of_dev rfl (ethConfig_free hup hnone hfree hoff s.fuse s.mem) ?_
    rw [Dev.queueWrite_free hfree hoff, hmoved, howner, Bool.not_false, Bool.and_self, Bool.true_or, if_pos rfl]
  · have hwrite := Dev.ruleWrite_full hl hv hold
    rw [if_neg (Nat.not_lt.mpr hspan)] at hwrite
    refine mgmtDev_answers hm rfl ?_
    rw [hwrite]
    exact ⟨⟨rfl, rfl, rfl⟩, rfl, tblGet_set_self⟩
  · refine mgmtDev_answers hm rfl ?_
    rw [Dev.ruleWrite_full hl hv hold, if_pos hspan]

end Sys2Proof.Proofs
end

section
/-! The instructions of threads that act on registers, traps and queues (R124, R147 to R150, R165 to R167, R282). -/

namespace Sys2Proof.Machine

open Sys2Proof.Laws

/-! ### Issue -/

section
variable {s : State} {th : ThreadRef} {n b : Nat} {i : Insn} {e : Dev}

/-- An instruction that its thread issues acts on the device that holds the fetch's translation. -/
theorem Dev.Issues.act (H : s.dev.Issues s.mem th n b i e) (f : Insn → Act) :
    threadAct th n b f s.fuse s.mem s.dev = f i s.fuse s.mem e := by
  have hi : (⟨thrNo th, i.c, (s.dev.thrAt (thrNo th)).pc, n, b⟩ : Insn) = i := by
    obtain ⟨k, c, pc, len, bits⟩ := i
    obtain ⟨rfl, -, rfl, rfl, rfl, -⟩ := H
    rfl
  simp only [threadAct, H.holder, hi, H.running, H.ready, H.fetch, H.cached, H.pc, ne_eq, not_true_eq_false, decide_false, Bool.or_self,
    Bool.false_eq_true, if_false]

/-- An issued instruction of a row that changes the device alone. -/
theorem Dev.Issues.answers (H : s.dev.Issues s.mem th n b i e) {j : Instr} {f : Insn → Act} {x : Dev} (he : exec j s = .next (s.run (threadAct th n b f)))
    (hf : f i s.fuse s.mem e = { dev := x }) {P : State → Prop} (hP : ∀ t, s.onlyDev t → t.dev = x → P t) : Answers j s P :=
  answers_device he ((H.act f).trans hf) hP

/-- The same, where the state afterwards is named. -/
theorem Dev.Issues.answers_eq (H : s.dev.Issues s.mem th n b i e) {j : Instr} {f : Insn → Act} {x : Dev}
    (he : exec j s = .next (s.run (threadAct th n b f))) (hf : f i s.fuse s.mem e = { dev := x }) : Answers j s (fun t => t = s.withDev x) :=
  answers_of_dev he ((H.act f).trans hf) rfl

theorem Dev.Issues.thr (H : s.dev.Issues s.mem th n b i e) : e.thr = s.dev.thr := by rw [H.cached, Dev.cache_thr]

theorem Dev.Issues.keep (H : s.dev.Issues s.mem th n b i e) : e.keep = s.dev.keep := by
  obtain ⟨o, n, h⟩ := s.dev.cache_frame i.c i.pc (s.dev.translate s.mem i.c (some i.core) .fetch false i.pc)
  rw [H.cached, h]

theorem Dev.Issues.state (H : s.dev.Issues s.mem th n b i e) : (e.thrAt i.k).state = .ready := by rw [H.thrAt, H.thread, H.ready]

theorem Dev.Issues.faults (H : s.dev.Issues s.mem th n b i e) : (e.thrAt i.k).state.faults = true := by rw [H.state]; rfl

end

/-! ### Faults of the instruction -/

/-- A fault of the instruction is recorded (R165). -/
theorem Dev.faultAt_faultOf {d : Dev} (i : Insn) {cause : Nat} (tval : Nat) (hf : (d.thrAt i.k).state.faults = true) (hc : cause ≠ 0) :
    (d.faultAt i cause tval).faultOf i.k = (cause, tval, i.pc) := d.threadFault_faultOf i.k cause tval i.pc hf hc

theorem Dev.faultFree_faultOf {d : Dev} (i : Insn) {cause : Nat} (hf : (d.thrAt i.k).state.faults = true) (hc : cause ≠ 0) :
    ∃ v, (d.faultFree i cause).faultOf i.k = (cause, v, i.pc) :=
  ⟨_, Dev.faultAt_faultOf (d := { d with free := d.free + 1 }) i _ hf hc⟩

theorem Dev.faultOf_eq {d : Dev} {n a b c : Nat} (h : d.faultOf n = (a, b, c)) : (d.thrAt n).cause = a ∧ (d.thrAt n).tval = b ∧ (d.thrAt n).tpc = c := by
  unfold Dev.faultOf at h
  obtain ⟨h1, h2⟩ := Prod.mk.inj h
  obtain ⟨h2, h3⟩ := Prod.mk.inj h2
  exact ⟨h1, h2, h3⟩

/-! ### Base instructions -/

theorem xreg_lt (d : Dev) (k r : Nat) : d.xreg k r < 2 ^ 64 := by
  unfold Dev.xreg
  split
  · decide
  · exact BitVec.isLt _

/-- The register operations of a statement are those of the decoder (R147). -/
theorem opReg_of_mem {p : Nat × Nat × (Nat → Nat → Nat)} (hp : p ∈ regOps) {a b : Nat} (ha : a < 2 ^ 64) (hb : b < 2 ^ 64) :
    (opReg p.1 p.2.1 a b).map (· % two64) = some (p.2.2 a b) := by
  have hone : ∀ q : Prop, [Decidable q] → (if q then 1 else 0) % two64 = if q then 1 else 0 := fun q _ => by split <;> rfl
  have ha' : a % 2 ^ 64 = a := Nat.mod_eq_of_lt ha
  have hb' : b % 2 ^ 64 = b := Nat.mod_eq_of_lt hb
  simp only [regOps, List.mem_cons, List.not_mem_nil, or_false] at hp
  rcases hp with rfl | rfl | rfl | rfl | rfl | rfl | rfl | rfl | rfl
  · rfl
  · exact congrArg some (congrArg (· % 2 ^ 64) (Nat.add_sub_assoc hb.le a))
  · simpa [opReg, b2n] using hone (a < b)
  · exact congrArg some (Nat.mod_eq_of_lt (Nat.xor_lt_two_pow ha hb))
  · exact congrArg some (Nat.mod_eq_of_lt (Nat.or_lt_two_pow ha hb))
  · exact congrArg some (Nat.mod_eq_of_lt (Nat.and_lt_two_pow a hb))
  · rfl
  · show some (divU a b 64 % two64) = some (if b = 0 then 2 ^ 64 - 1 else a / b)
    unfold divU
    rw [ha', hb']
    split
    · decide
    · exact congrArg some (Nat.mod_eq_of_lt ((Nat.div_le_self a b).trans_lt ha))
  · show some (remU a b 64 % two64) = some (if b = 0 then a else a % b)
    unfold remU
    rw [ha', hb']
    split
    · exact congrArg some ha'
    · exact congrArg some (Nat.mod_eq_of_lt ((Nat.mod_le a b).trans_lt ha))

/-- An instruction with a result writes it to rd. -/
theorem resultAct_some {rd v : Nat} {f : Dev → Insn → Option Nat} {i : Insn} {d : Dev} (h : (f d i).map (· % two64) = some v) (fu : Fuses) (m : Mem) :
    resultAct rd f i fu m d = { dev := d.retire i rd v } := by
  obtain ⟨x, hx, rfl⟩ := Option.map_eq_some_iff.mp h
  simp only [resultAct, Act.dev, hx]

theorem wordAct_reg {w : Nat} (h : w % 128 = 0x33) (z : Bool) : wordAct w z
    = resultAct (wRd w) (fun d i => opReg (wF7 w) (wF3 w) (d.xreg i.k (wRs1 w)) (d.xreg i.k (wRs2 w))) := by
  unfold wordAct
  simp only [h]

theorem wordAct_imm {w : Nat} (h : w % 128 = 0x13) (z : Bool) : wordAct w z
    = resultAct (wRd w) (fun d i => opImm (wF3 w) (wImmI w) (d.xreg i.k (wRs1 w))) := by
  unfold wordAct
  simp only [h]

theorem wordAct_branch {w : Nat} (h : w % 128 = 0x63) (z : Bool) : wordAct w z = branchAct w := by
  unfold wordAct
  simp only [h]

theorem wordAct_jal {w : Nat} (h : w % 128 = 0x6F) (z : Bool) : wordAct w z
    = jumpAct (wRd w) (fun _ i => i.pc + ofSigned (toSigned (wImmJ w) 21) 64) := by
  unfold wordAct
  simp only [h]

/-- A word of an extension that is not implemented (R147). -/
theorem wordAct_illegal {w : Nat} (h : w % 128 ∈ [0x07, 0x27, 0x43, 0x53, 0x57]) (z : Bool) : wordAct w z = illegalAct := by
  simp only [List.mem_cons, List.not_mem_nil, or_false] at h
  unfold wordAct
  rcases h with h | h | h | h | h <;> simp only [h]

/-! ### CSRs -/

theorem csrAct_reads {op : CsrOp} {r : Csr} (hr : csrOf op.csr.toNat = some r) (hk : op.kind = .rs) (hsrc : op.src.val = 0) (i : Insn) (d : Dev)
    (fu : Fuses) (m : Mem) : csrAct op i fu m d = { dev := d.retire i op.rd.val (d.csrRead i r) } := by
  simp only [csrAct, Act.dev, hr, hk, hsrc, csrDo, ne_eq, not_true_eq_false, decide_false, Bool.or_self, Bool.false_and, Bool.false_eq_true, if_false,
    reduceCtorEq]

/-- A CSRRW of MWTMO (R167). -/
theorem csrAct_mwtmo {op : CsrOp} (hr : op.csr.toNat = 0x801) (hk : op.kind = .rw) (i : Insn) (d : Dev) (fu : Fuses) (m : Mem) :
    csrAct op i fu m d = { dev := (d.retire i op.rd.val (d.thrAt i.k).mwtmo).modThr i.k (fun t => { t with mwtmo := d.xreg i.k op.src.val % 2 ^ 32 }) } := by
  simp only [csrAct, Act.dev, hr, hk, csrOf, csrDo, Csr.writable, CsrKind.imm, Dev.csrRead, Dev.csrWrite, decide_true, Bool.true_or, Bool.not_true,
    Bool.and_false, Bool.false_eq_true, if_false, if_true, Nat.reduceEqDiff]

theorem csrAct_unknown {op : CsrOp} (hr : csrOf op.csr.toNat = none) (i : Insn) (d : Dev) (fu : Fuses) (m : Mem) :
    csrAct op i fu m d = { dev := d.illegal i } := by
  simp only [csrAct, Act.dev, hr]

/-! ### MQCTL -/

theorem Dev.queAt_of_que {a b : Dev} (h : b.que = a.que) (core q : Nat) : b.queAt core q = a.queAt core q := by
  unfold Dev.queAt
  rw [h]

theorem Dev.modQue_at (d : Dev) (core q : Nat) (f : Queue → Queue) : (d.modQue core q f).queAt core q = f (d.queAt core q) := by
  simp only [Dev.modQue, Dev.queAt, tblGet_mod_self]

theorem Dev.modQue_at_ne (d : Dev) (core : Nat) {q p : Nat} (f : Queue → Queue) (h : p ≠ q) : (d.modQue core q f).queAt core p = d.queAt core p := by
  simp only [Dev.modQue, Dev.queAt, tblGet_mod_ne (show core * 7 + p ≠ core * 7 + q by omega)]

/-- From `a` to `b` a core's queues are the same but for the queue `q`. -/
def Dev.QueueOnly (a b : Dev) (core q : Nat) : Prop := ∀ p, p ≠ q → b.queAt core p = a.queAt core p

theorem Dev.QueueOnly.modQue (d : Dev) (core q : Nat) (f : Queue → Queue) : d.QueueOnly (d.modQue core q f) core q := fun _ h => d.modQue_at_ne core f h

theorem Dev.QueueOnly.of_que {a b : Dev} (h : b.que = a.que) (core q : Nat) : a.QueueOnly b core q := fun p _ => Dev.queAt_of_que h core p

theorem Dev.QueueOnly.modStr (d : Dev) (k : Nat) (f : Stream → Stream) (core q : Nat) : d.QueueOnly (d.modStr k f) core q := fun _ _ => rfl

theorem Dev.QueueOnly.trans {a b c : Dev} {core q : Nat} (h : a.QueueOnly b core q) (g : b.QueueOnly c core q) : a.QueueOnly c core q :=
  fun p hp => (g p hp).trans (h p hp)

theorem Dev.restartStream_only (d : Dev) (core q : Nat) : d.QueueOnly (d.restartStream core q) core q := by
  unfold Dev.restartStream
  simp only
  split
  · exact .modQue d core q _
  · split
    · exact .of_que rfl core q
    · split
      · exact (Dev.QueueOnly.modQue d core q _).trans (.modStr _ _ _ core q)
      · exact ((Dev.QueueOnly.modQue d core q _).trans (.modStr _ _ _ core q)).trans (.modQue _ core q _)

theorem Dev.restartQue_only (d : Dev) (core q : Nat) : d.QueueOnly (d.restartQue core q) core q := by
  unfold Dev.restartQue
  split
  · exact .of_que rfl core q
  · split
    · exact .modQue d core q _
    · exact d.restartStream_only core q

/-- RESTART of an engine's or vector unit's queue (R167). -/
theorem Dev.restartQue_runs (d : Dev) (core : Nat) {q : Nat} (hq : q < 5) :
    ((d.restartQue core q).queAt core q).stopped = false ∧ ((d.restartQue core q).queAt core q).cmds = (d.queAt core q).cmds := by
  unfold Dev.restartQue
  cases hs : (d.queAt core q).stopped with
  | false => exact ⟨hs, rfl⟩
  | true => simp only [Bool.not_true, Bool.false_eq_true, if_false, hq, if_true, Dev.modQue_at, and_self]

theorem Dev.dropLoadb_que (d : Dev) (core k : Nat) : (d.dropLoadb core k).que = d.que := by
  unfold Dev.dropLoadb
  split
  · split <;> rfl
  · rfl

/-- CLEAR empties its queue alone (R124). -/
theorem Dev.clearQue_empties (d : Dev) (core q : Nat) : d.QueueOnly (d.clearQue core q) core q
    ∧ ((d.clearQue core q).queAt core q).stopped = false ∧ ((d.clearQue core q).queAt core q).cmds = [] := by
  unfold Dev.clearQue
  simp only
  generalize hx : (if q < 4 then d.dropLoadb core q else d) = x
  have h1 : x.que = d.que := by
    rw [← hx]
    split
    · exact d.dropLoadb_que core q
    · rfl
  generalize hy : (if q < 5 then x else x.modStr (2 * core + (q - 5)) _) = y
  have h2 : y.que = x.que := by
    rw [← hy]
    split <;> rfl
  generalize hz : (if (y.pastAt core q).isEmpty then y else y.modPast core q _) = z
  have h3 : z.que = y.que := by
    rw [← hz]
    split <;> rfl
  refine ⟨(Dev.QueueOnly.of_que ((h3.trans h2).trans h1) core q).trans (.modQue z core q _), ?_, ?_⟩ <;> rw [Dev.modQue_at]

/-- Changes of other queues leave a queue. -/
theorem queues_fold_other {g : Dev → Nat → Dev} {core q : Nat} (hg : ∀ (d : Dev) (p : Nat), d.QueueOnly (g d p) core p) (qs : List Nat) (hq : q ∉ qs)
    (d : Dev) : (qs.foldl g d).queAt core q = d.queAt core q :=
  List.foldlRecOn qs g (motive := fun x : Dev => x.queAt core q = d.queAt core q) rfl fun x hx r hr =>
    (hg x r q (fun h => hq (h ▸ hr))).trans hx

/-- A walk over queues that changes each by itself: what it makes of one of them. -/
theorem queues_fold {g : Dev → Nat → Dev} {core q : Nat} {P : Queue → Queue → Prop} (hg : ∀ (d : Dev) (p : Nat), d.QueueOnly (g d p) core p)
    (hP : ∀ d : Dev, P (d.queAt core q) ((g d q).queAt core q)) (qs : List Nat) (hnd : qs.Nodup) (hin : q ∈ qs) (d : Dev) :
    P (d.queAt core q) ((qs.foldl g d).queAt core q) := by
  obtain ⟨pre, post, rfl⟩ := List.append_of_mem hin
  obtain ⟨hpre, hpost⟩ : q ∉ pre ∧ q ∉ post := by
    have h := List.nodup_middle.mp hnd
    rw [List.nodup_cons, List.mem_append, not_or] at h
    exact h.1
  rw [List.foldl_append, List.foldl_cons, queues_fold_other hg post hpost, ← queues_fold_other hg pre hpre d]
  exact hP _

/-- A write of MQCTL changes each queue by its own bits (R167). -/
theorem Dev.writeMqctl_queue {core v q : Nat} {P : Queue → Queue → Prop} (hq : q < 7)
    (hP : ∀ d : Dev, P (d.queAt core q) ((if bit v (8 + q) then d.clearQue core q else if bit v q then d.restartQue core q else d).queAt core q)) (d : Dev) :
    P (d.queAt core q) ((d.writeMqctl core v).queAt core q) := by
  refine queues_fold (g := fun d q => if bit v (8 + q) then d.clearQue core q else if bit v q then d.restartQue core q else d) (fun d p => ?_) hP
    (List.range 7) List.nodup_range (List.mem_range.mpr hq) d
  split
  · exact (d.clearQue_empties core p).1
  · split
    · exact d.restartQue_only core p
    · exact .of_que rfl core p

end Sys2Proof.Machine

namespace Sys2Proof.Proofs

open Sys2Proof.Machine Sys2Proof.Laws

/-- What a queue becomes under RESTART, by its bit. -/
theorem mqctl_restarts (bits : BitVec 7) (core : Nat) {q : Nat} (hq : q < 5) (d : Dev) :
    if bit bits.toNat q then ((d.writeMqctl core bits.toNat).queAt core q).stopped = false
        ∧ ((d.writeMqctl core bits.toNat).queAt core q).cmds = (d.queAt core q).cmds
      else (d.writeMqctl core bits.toNat).queAt core q = d.queAt core q := by
  have hhigh : bit bits.toNat (8 + q) = false := Nat.testBit_lt_two_pow (bits.isLt.trans (Nat.pow_lt_pow_right (by decide) (by omega)))
  refine Dev.writeMqctl_queue (core := core) (v := bits.toNat) (q := q)
    (P := fun a b => if bit bits.toNat q then b.stopped = false ∧ b.cmds = a.cmds else b = a) (by omega) (fun d => ?_) d
  cases hb : bit bits.toNat q with
  | false => simp only [hhigh, Bool.false_eq_true, if_false]
  | true => simpa only [hhigh, Bool.false_eq_true, if_false, if_true] using d.restartQue_runs core hq

/-- What a queue becomes under CLEAR, by its bit. -/
theorem mqctl_clears (bits : BitVec 7) (core : Nat) {q : Nat} (hq : q < 7) (d : Dev) :
    if bit bits.toNat q then ((d.writeMqctl core (bits.toNat * 2 ^ 8)).queAt core q).stopped = false
        ∧ ((d.writeMqctl core (bits.toNat * 2 ^ 8)).queAt core q).cmds = []
      else (d.writeMqctl core (bits.toNat * 2 ^ 8)).queAt core q = d.queAt core q := by
  have hlow : bit (bits.toNat * 2 ^ 8) q = false := by
    simp only [bit, Nat.testBit_mul_two_pow, show ¬ 8 ≤ q by omega, decide_false, Bool.false_and]
  have hhigh : bit (bits.toNat * 2 ^ 8) (8 + q) = bit bits.toNat q := by
    simp only [bit, Nat.testBit_mul_two_pow, Nat.le_add_right, decide_true, Bool.true_and, Nat.add_sub_cancel_left]
  refine Dev.writeMqctl_queue (core := core) (v := bits.toNat * 2 ^ 8) (q := q)
    (P := fun a b => if bit bits.toNat q then b.stopped = false ∧ b.cmds = [] else b = a) hq (fun d => ?_) d
  rw [hhigh, hlow]
  cases bit bits.toNat q with
  | false => simp only [Bool.false_eq_true, if_false]
  | true => simpa only [if_true] using (d.clearQue_empties core q).2

/-- Settles O41: each row issues its instruction, whose action is one branch of its function; MQCTL changes each queue by its own bits. -/
theorem threadInstructions : Obligations.ThreadInstructions := by
  unfold Obligations.ThreadInstructions
  refine ⟨fun th word w i e s hw h3 H => ?_, fun th op b i e s H hb hpause => ?_, fun th i e s H => H.answers_eq rfl rfl, fun th i e s H => ?_,
    fun th z i e s H => ⟨fun hopen => ?_, fun hclosed => ?_⟩,
    fun th op i e s H => ⟨fun r hr hk hsrc => ?_, fun hr hk => ?_, fun hr => ?_⟩, fun th bits i e s H => ⟨?_, ?_⟩⟩
  · subst hw
    have he : exec (.baseInstruction th word) s = .next (s.run (threadAct th 4 word.toNat (wordAct word.toNat false))) := by
      show execBaseInstruction th word s = _
      unfold execBaseInstruction
      simp only [h3, if_true]
    refine ⟨fun hop p hp h7 hf3 => ?_, fun hop hf3 => ?_, fun hop hf3 => ?_, fun hop => ?_, fun hop => ?_⟩
    · refine H.answers_eq he ?_
      rw [wordAct_reg hop]
      refine resultAct_some ?_ _ _
      rw [h7, hf3]
      exact opReg_of_mem hp (xreg_lt _ _ _) (xreg_lt _ _ _)
    · refine H.answers_eq he ?_
      rw [wordAct_imm hop]
      refine resultAct_some ?_ _ _
      rw [hf3]
      rfl
    · refine H.answers_eq he ?_
      rw [wordAct_branch hop]
      simp only [branchAct, Act.dev, hf3, branchTaken]
      by_cases hab : e.xreg i.k (wRs1 word.toNat) = e.xreg i.k (wRs2 word.toNat)
      · simp only [hab, decide_true, if_true]
        rfl
      · simp only [hab, decide_false, if_false]
    · refine H.answers_eq he ?_
      rw [wordAct_jal hop]
      simp only [jumpAct, Act.dev, H.size]
      rfl
    · obtain ⟨hc, hv, hp⟩ := Dev.faultOf_eq (Dev.faultAt_faultOf i i.bits H.faults (show (1 : Nat) ≠ 0 by decide))
      refine answers_of_dev (d := e.illegal i) he ((H.act _).trans ?_) ⟨rfl, hc, hv.trans H.word, hp⟩
      rw [wordAct_illegal hop]
      rfl
  · refine H.answers_eq (f := fenceSetAct op) (by rw [hb]; rfl) ?_
    have hno : (decide (op.pred.val = 1) && decide (op.succ.val = 0)) = false := by
      rw [← Bool.not_eq_true, Bool.and_eq_true, decide_eq_true_eq, decide_eq_true_eq]
      exact hpause
    simp only [fenceSetAct, hno, Bool.false_eq_true, if_false]
    rfl
  · obtain ⟨v, hfault⟩ := Dev.faultFree_faultOf i H.faults (show (9 : Nat) ≠ 0 by decide)
    obtain ⟨hc, -, hp⟩ := Dev.faultOf_eq hfault
    exact H.answers rfl rfl fun t ht hdev => ⟨ht, by rw [hdev, hc], by rw [hdev, hp]⟩
  · refine H.answers (x := e.modThr i.k (fun t => { t with state := .debug })) rfl ?_ fun t ht hdev => ⟨ht, ?_, ?_⟩
    · simp only [ebreakAct, Act.dev, H.keep, hopen, if_true]
    · rw [hdev, Dev.modThr_at]
    · rw [hdev, Dev.modThr_at]
      exact H.pc_thrAt
  · obtain ⟨v, hfault⟩ := Dev.faultFree_faultOf i H.faults (show (0x0D : Nat) ≠ 0 by decide)
    obtain ⟨hc, -, hp⟩ := Dev.faultOf_eq hfault
    refine H.answers (x := e.faultFree i 0x0D) rfl ?_ fun t ht hdev => ⟨ht, by rw [hdev, hc], by rw [hdev, hp]⟩
    simp only [ebreakAct, Act.dev, H.keep, hclosed, if_false]
  · exact H.answers_eq rfl (csrAct_reads hr hk hsrc i e _ _)
  · refine H.answers rfl (csrAct_mwtmo hr hk i e _ _) fun t ht hdev => ⟨ht, ?_⟩
    rw [hdev, Dev.modThr_at, Dev.retire_thrAt_self, H.size]
    exact ⟨rfl, rfl, rfl⟩
  · exact H.answers_eq rfl (csrAct_unknown hr i e _ _)
  · refine H.answers rfl rfl fun t ht hdev => ⟨ht, fun q hq => ?_⟩
    rw [hdev]
    exact mqctl_restarts bits i.core hq (e.retire i 0 0)
  · refine H.answers rfl rfl fun t ht hdev => ⟨ht, fun q hq => ?_⟩
    rw [hdev]
    exact mqctl_clears bits i.core hq (e.retire i 0 0)

end Sys2Proof.Proofs
end

section
/-! Loads, stores and atomics of threads (R149, R157, R165, R194, R195, R230, R280, R308). -/

namespace Sys2Proof.Machine

open Sys2Proof.Laws

/-! ### What a write unit leaves of a thread -/

theorem Dev.digestWrite_thr (d : Dev) (m : Mem) (c : CtxId) (a : Nat) (bs : Bytes) : (d.digestWrite m c a bs).thr = d.thr := by
  unfold Dev.digestWrite
  split
  · rfl
  · refine foldl_keeps (P := fun b : Dev => b.thr = d.thr) (fun b l hb => ?_) _ d rfl
    split
    · exact hb
    · exact hb

/-- A thread as it was, but for its reservation. -/
def Dev.SparesThread (a b : Dev) (k : Nat) : Prop := ∃ r, b.thrAt k = { a.thrAt k with resv := r }

theorem Dev.SparesThread.trans {a b c : Dev} {k : Nat} (h : a.SparesThread b k) (g : b.SparesThread c k) : a.SparesThread c k := by
  obtain ⟨r, hr⟩ := h
  obtain ⟨q, hq⟩ := g
  exact ⟨q, by rw [hq, hr]⟩

/-- A thread that is not IDLE keeps all but its reservation as a line is written (R149). -/
theorem Dev.breakLine_spares {d : Dev} {k : Nat} (line : Nat) (h : (d.thrAt k).state ≠ .idle) : d.SparesThread (d.breakLine line) k := by
  unfold Dev.breakLine
  simp only
  split
  · have hne : ∀ t : Thread, t.state ≠ .idle → t ≠ Thread.init := fun t ht e => ht (by rw [e]; rfl)
    have hmap : ({ d with thr := tblMap Thread.init (fun _ t => if t.resv = some line then { t with resv := none } else t) d.thr } : Dev).thrAt k
        = if (d.thrAt k).resv = some line then { d.thrAt k with resv := none } else d.thrAt k := by
      refine tblGet_map_of_ne (e := Thread.init) (v := d.thrAt k) (k := k)
        (f := fun _ t => if t.resv = some line then { t with resv := none } else t) ?_ (hne _ h) rfl
      split
      · exact hne _ h
      · exact hne _ h
    rw [Dev.SparesThread, hmap]
    split
    · exact ⟨none, rfl⟩
    · exact ⟨_, rfl⟩
  · exact ⟨_, rfl⟩

theorem Dev.breakLines_spares {d : Dev} {k : Nat} (a n : Nat) (h : (d.thrAt k).state ≠ .idle) : d.SparesThread (d.breakLines a n) k := by
  unfold Dev.breakLines
  refine foldl_keeps (P := fun b : Dev => d.SparesThread b k) (fun b l hb => ?_) _ d ⟨_, rfl⟩
  refine hb.trans (b.breakLine_spares l ?_)
  obtain ⟨r, hr⟩ := hb
  rw [hr]
  exact h

theorem Dev.unitWrite_spares {d : Dev} {k : Nat} (m : Mem) (c : CtxId) (a : Nat) (bs : Bytes) (poison : Bool) (h : (d.thrAt k).state ≠ .idle) :
    d.SparesThread (d.unitWrite m c a bs poison).1 k := by
  obtain ⟨r, hr⟩ := d.breakLines_spares a bs.length h
  refine ⟨r, ?_⟩
  unfold Dev.unitWrite Dev.thrAt
  rw [Dev.digestWrite_thr]
  exact hr

/-! ### Accesses of the issuing thread -/

theorem Dev.ReachesMem.thr {d e : Dev} {m : Mem} {i : Insn} {acc : Access} {va a : Nat} {ro : Bool} (h : d.ReachesMem m i acc va a ro e) :
    e.thr = d.thr := by
  unfold Dev.ReachesMem Dev.reach at h
  simp only at h
  split at h
  · have := congrArg Prod.snd h
    rw [← show d.cache i.c va _ = e from this]
    exact Dev.cache_thr _ _ _ _
  · exact absurd (congrArg Prod.fst h) (by simp)
  · exact absurd (congrArg Prod.fst h) (by simp)

theorem Dev.xreg_of_thr {a b : Dev} (h : b.thr = a.thr) (k r : Nat) : b.xreg k r = a.xreg k r := by
  unfold Dev.xreg Dev.thrAt
  rw [h]

theorem length_leBytes (n v : Nat) : (leBytes n v).length = n := by
  induction n generalizing v with
  | zero => rfl
  | succ n ih => rw [leBytes, List.length_cons, ih]

/-! ### Loads -/

theorem loadAct_misaligned {op : LoadOp} {i : Insn} {d : Dev} (h : d.loadAddr i op % 2 ^ op.size.val ≠ 0) (f : Fuses) (m : Mem) :
    loadAct op i f m d = { dev := d.faultAt i 2 (d.loadAddr i op) } := by
  unfold loadAct
  simp only [show (d.xreg i.k op.rs1.val + imm12 op.imm) % 2 ^ 64 = d.loadAddr i op from rfl, h, ne_eq, not_false_eq_true, if_true]

/-- A near load waits for its data (R157). -/
theorem loadAct_near {op : LoadOp} {i : Insn} {d e : Dev} {a : Nat} {ro : Bool} {m : Mem} (h : d.loadAddr i op % 2 ^ op.size.val = 0)
    (hreach : d.ReachesMem m i .read (d.loadAddr i op) a ro e) (hfree : e.nearBlock a (2 ^ op.size.val) false = none) (f : Fuses) :
    loadAct op i f m d = ⟨e.stallOn i (.load ⟨op.rd.val, d.loadAddr i op, a, 2 ^ op.size.val, op.unsigned, op.compressed, false⟩), [], []⟩ := by
  unfold Dev.ReachesMem at hreach
  unfold loadAct
  simp only [show (d.xreg i.k op.rs1.val + imm12 op.imm) % 2 ^ 64 = d.loadAddr i op from rfl, h, ne_eq, not_true_eq_false, if_false, hreach, hfree]

/-- The data of a load from this module comes back (R157). -/
theorem loadReturn_value {th : ThreadRef} {l : PendLoad} {c : CtxId} {i : Insn} {pl : Place} {v : Nat} {d e : Dev} {m : Mem}
    (hstall : (d.thrAt (thrNo th)).stall = some (.load l)) (hc : d.holder (thrNo th / 8) = some c) (hlocal : l.remote = false)
    (hi : i = ⟨thrNo th, c, (d.thrAt (thrNo th)).pc, if l.compressed then 2 else 4, 0⟩)
    (hpl : d.decodeAt (some i.core) (field l.ga 45 3) (l.ga % 2 ^ 45) = some pl) (hread : d.threadRead m i pl l.va l.bytes = (.value v, e)) (f : Fuses) :
    loadReturn th .here f m d = { dev := e.retire i l.rd (loadValue v l.bytes l.unsigned) } := by
  unfold loadReturn
  simp only [hstall, hc, hlocal, ← hi, hpl, hread, Bool.false_eq_true, if_false]

/-! ### Stores -/

/-- A near write whose bytes are free (R194, R196). -/
theorem nearWrite_free {a : Nat} {bs : Bytes} {va : Nat} {i : Insn} {d : Dev} (h : d.freeToWrite a bs.length) (g : Dev → Dev) (f : Fuses) (m : Mem) :
    nearWrite a false bs va g i f m d = { dev := g (d.unitWrite m i.c a bs false).1, mem := [.write a bs false] } := by
  obtain ⟨hheld, hblock⟩ := h
  unfold nearWrite
  simp only [hheld, hblock, Bool.or_self, Bool.false_eq_true, if_false]
  rfl

theorem storeOpAct_near {op : StoreOp} {i : Insn} {d e : Dev} {a : Nat} {m : Mem} (h : d.storeAddr i op % 2 ^ op.size.val = 0)
    (hreach : d.ReachesMem m i .write (d.storeAddr i op) a false e) (hfree : e.freeToWrite a (2 ^ op.size.val)) (f : Fuses) :
    storeOpAct op i f m d = ⟨((e.unitWrite m i.c a (leBytes (2 ^ op.size.val) (d.xreg i.k op.rs2.val)) false).1).retire i 0 0,
      [.write a (leBytes (2 ^ op.size.val) (d.xreg i.k op.rs2.val)) false], []⟩ := by
  unfold Dev.ReachesMem at hreach
  unfold storeOpAct storeAct
  simp only [show (d.xreg i.k op.rs1.val + imm12 op.imm) % 2 ^ 64 = d.storeAddr i op from rfl, h, ne_eq, not_true_eq_false, if_false, hreach]
  exact nearWrite_free (by rw [length_leBytes]; exact hfree) _ f m

/-! ### Atomics -/

/-- A near atomic that is done has written its result over the value that stood there (R308). -/
theorem Dev.homeAmo_done {d x : Dev} {m : Mem} {c : CtxId} {a n v old : Nat} {kind : AmoKind} {sig : Signaller} {un po far : Bool} {es : List MemEff}
    (h : d.homeAmo m c (.mem a) kind n v sig far = (.done old un po, x, es)) :
    old = m.num a n ∧ es = [.write a (leBytes n (amoResult kind n old v)) false] := by
  unfold Dev.homeAmo at h
  simp only at h
  split at h
  · exact absurd (congrArg Prod.fst h) (by simp)
  · split at h
    · exact absurd (congrArg Prod.fst h) (by simp)
    · split at h
      · exact absurd (congrArg Prod.fst h) (by simp)
      · split at h
        · exact absurd (congrArg Prod.fst h) (by simp)
        · split at h
          · exact absurd (congrArg Prod.fst h) (by simp)
          · split at h
            · exact absurd (congrArg Prod.fst h) (by simp)
            · have hold := (HomeEnd.done.inj (congrArg Prod.fst h)).1
              refine ⟨hold.symm, ?_⟩
              rw [← hold]
              exact (congrArg (fun p => p.2.2) h).symm

theorem amoAct_near {op : AmoOp} {i : Insn} {d e x : Dev} {a n old : Nat} {po : Bool} {m : Mem} {es : List MemEff} (hn : n = if op.dword then 8 else 4)
    (h : d.xreg i.k op.rs1.val % n = 0) (hreach : d.ReachesMem m i .write (d.xreg i.k op.rs1.val) a false e)
    (hamo : e.homeAmo m i.c (.mem a) op.kind n (e.xreg i.k op.rs2.val) ⟨e.moduleId, i.unit, some (i.k % 8), 3⟩ false = (.done old false po, x, es))
    (f : Fuses) : amoAct op i f m d = { dev := x.retire i op.rd.val (loadValue old n false), mem := es } := by
  rw [Dev.xreg_of_thr hreach.thr] at hamo
  unfold Dev.ReachesMem at hreach
  unfold amoAct
  simp only [← hn, h, ne_eq, not_true_eq_false, if_false, hreach, hamo, Bool.false_eq_true]

theorem lrAct_near {op : LrScOp} {i : Insn} {d e x : Dev} {a n v : Nat} {ro : Bool} {m : Mem} (hrs2 : op.rs2.val = 0) (hn : n = if op.dword then 8 else 4)
    (h : d.xreg i.k op.rs1.val % n = 0) (hreach : d.ReachesMem m i .read (d.xreg i.k op.rs1.val) a ro e)
    (hread : e.threadRead m i (.mem a) (d.xreg i.k op.rs1.val) n = (.value v, x)) (f : Fuses) :
    lrAct op i f m d = ⟨(x.retire i op.rd.val (loadValue v n false)).modThr i.k (fun t => { t with resv := some (lineOf a) }), [], []⟩ := by
  unfold Dev.ReachesMem at hreach
  unfold lrAct
  simp only [← hn, hrs2, h, ne_eq, not_true_eq_false, if_false, hreach, hread]

/-- SC on a near place (R149). -/
theorem scAct_near {op : LrScOp} {i : Insn} {d e : Dev} {a n : Nat} {ro : Bool} {m : Mem} (hn : n = if op.dword then 8 else 4)
    (h : d.xreg i.k op.rs1.val % n = 0) (hreach : d.ReachesMem m i .write (d.xreg i.k op.rs1.val) a ro e) (f : Fuses) :
    scAct op i f m d = if (e.thrAt i.k).resv = some (lineOf a)
      then nearWrite a ro (leBytes n (e.xreg i.k op.rs2.val)) (d.xreg i.k op.rs1.val)
        (fun d => (d.retire i op.rd.val 0).modThr i.k (fun t => { t with resv := none })) i f m e
      else { dev := (e.retire i op.rd.val 1).modThr i.k (fun t => { t with resv := none }) } := by
  unfold Dev.ReachesMem at hreach
  unfold scAct
  simp only [← hn, h, ne_eq, not_true_eq_false, if_false, hreach]

/-! ### Arrivals and acknowledgements -/

/-- A write unit reaches memory outside the cores (R195, R230). -/
theorem arrivalAct_mem {id u : Nat} {x : Flight} {d : Dev} (hfind : d.flight.find? (fun x => x.id = id && x.answer.isNone) = some x)
    (horder : d.inOrder x = true) (hpl : d.pktPlace x.addr = some (.mem u)) (hamo : x.amo = none) (hcore : d.coreOf u = none)
    (hcheck : d.homeCheck x.ctx (.mem u) x.data.length true = none) (f : Fuses) (m : Mem) :
    arrivalAct id f m d = ⟨((d.unitWrite m x.ctx u x.data false).1).arrived x 0 0 false,
      .write u x.data false :: (if x.marks = 0 then [] else markEffs u x.data.length x.marks), []⟩ := by
  unfold arrivalAct
  simp only [hfind, horder, hpl, hamo, Dev.homeWrite_mem hcore hcheck, Bool.not_true, Bool.false_eq_true, if_false]
  rfl

/-- What the answer of a far access leaves of the flights and of the cores' places. -/
theorem Dev.wakeShorts_frame (d : Dev) (core : Nat) : (d.wakeShorts core).flight = d.flight ∧ (d.wakeShorts core).core = d.core :=
  foldl_keeps (P := fun b : Dev => b.flight = d.flight ∧ b.core = d.core)
    (f := fun b t => b.modThr (core * 8 + t) (fun t => if t.stall = some .short then { t with state := .ready, stall := none } else t))
    (fun _ _ hb => hb) (List.range 8) d ⟨rfl, rfl⟩

theorem Dev.farAnswer_frees (d : Dev) (core id : Nat) : (d.farAnswer core id 0).flight = d.flight
    ∧ ((d.farAnswer core id 0).coreAt core).shorts = (d.coreAt core).shorts.filter (· ≠ id) := by
  unfold Dev.farAnswer
  simp only [if_true]
  generalize hx : d.modCore core (fun k => { k with shorts := k.shorts.filter (· ≠ id) }) = x
  have hflight : x.flight = d.flight := hx ▸ rfl
  have hcore : (x.coreAt core).shorts = (d.coreAt core).shorts.filter (· ≠ id) := by
    rw [← hx, Dev.coreAt, Dev.modCore, tblGet_mod_self, Dev.coreAt]
  split
  · obtain ⟨h1, h2⟩ := x.wakeShorts_frame core
    exact ⟨h1.trans hflight, by rw [Dev.coreAt, h2]; exact hcore⟩
  · rename_i k g _
    obtain ⟨h1, h2⟩ := (x.modThr k (fun t => { t with far := t.far.filter (fun g => g.1 ≠ id) })).wakeShorts_frame core
    exact ⟨h1.trans hflight, by rw [Dev.coreAt, h2]; exact hcore⟩

/-- The answer of a far write comes back to its core (R230). -/
theorem shortAck_far {core id old : Nat} {un : Bool} {x : Flight} {d : Dev}
    (hfind : d.flight.find? (fun x => x.id = id && x.short && x.answer.isSome && (d.coreAt core).shorts.contains id) = some x)
    (hans : x.answer = some (0, old, un)) (hwho : x.who = .far core id) :
    shortAck core id d = ({ d with flight := d.flight.filter (fun g => g.id ≠ id) }).farAnswer core id 0 := by
  have hid : x.id = id := by
    have h := List.find?_some hfind
    simp only [Bool.and_eq_true, decide_eq_true_eq] at h
    exact h.1.1.1
  unfold shortAck
  simp only [hfind, hans, hwho, hid, Dev.settle]

end Sys2Proof.Machine

namespace Sys2Proof.Proofs

open Sys2Proof.Machine Sys2Proof.Laws

/-- Settles O42: each row is one branch of its action, where the thread's access reaches memory near or its home; the thread that
stores is not IDLE, so that of it the write changes the reservation alone. -/
theorem threadMemory : Obligations.ThreadMemory := by
  unfold Obligations.ThreadMemory
  refine ⟨fun th op i e s H => ⟨fun hmis => ?_, fun a ro f halign hreach hfree => ?_⟩,
    fun th l c i pl v f s hstall hc hlocal hi hpl hread => ?_, fun th op i e f a s H halign hreach hfree => ?_,
    fun th op n old po i e f x a es s H hn halign hreach hamo => ?_, fun th op n v ro i e f x a s H hrs2 hn halign hreach hread => ?_,
    fun th op n ro i e f a s H hn halign hreach => ⟨fun hresv => ?_, fun hresv hro hfree => ?_⟩,
    fun id u f s hfind horder hpl hamo hcore hcheck => ?_, fun u id old un f s hfind hans hwho => ?_⟩
  · exact H.answers_eq rfl (loadAct_misaligned hmis _ _)
  · exact H.answers_eq rfl (loadAct_near halign hreach hfree _)
  · exact answers_of_dev rfl (loadReturn_value hstall hc hlocal hi hpl hread _) rfl
  · exact answers_of_act rfl ((H.act _).trans (storeOpAct_near halign hreach hfree _)) ⟨rfl, rfl, rfl, rfl⟩
  · obtain ⟨hold, hes⟩ := Dev.homeAmo_done hamo
    exact answers_of_act rfl ((H.act _).trans (amoAct_near hn halign hreach hamo _)) ⟨rfl, rfl, rfl, hold, hes, rfl⟩
  · refine H.answers rfl (lrAct_near hrs2 hn halign hreach hread _) fun t ht hdev => ⟨ht, ?_⟩
    rw [hdev, Dev.modThr_at, Dev.retire_thrAt_self, H.size]
    exact ⟨rfl, rfl, rfl, rfl⟩
  · refine H.answers rfl ((scAct_near hn halign hreach _).trans (if_neg hresv)) fun t ht hdev => ⟨ht, ?_⟩
    rw [hdev, Dev.modThr_at, Dev.retire_thrAt_self]
    exact ⟨rfl, rfl⟩
  · subst hro
    have hlen : f.freeToWrite a (leBytes n (f.xreg i.k op.rs2.val)).length := by rw [length_leBytes]; exact hfree
    refine answers_of_act rfl ((H.act _).trans (((scAct_near hn halign hreach _).trans (if_pos hresv)).trans (nearWrite_free hlen _ _ _))) ⟨rfl, rfl, rfl, ?_⟩
    have hstate : (f.thrAt i.k).state ≠ .idle := by
      rw [Dev.thrAt, hreach.thr, ← Dev.thrAt, H.state]
      decide
    obtain ⟨r, hr⟩ := f.unitWrite_spares s.mem i.c a (leBytes n (f.xreg i.k op.rs2.val)) false hstate
    rw [Dev.modThr_at, Dev.retire_thrAt_self, hr]
    exact ⟨rfl, rfl⟩
  · exact answers_of_act rfl (arrivalAct_mem hfind horder hpl hamo hcore hcheck _ _) ⟨rfl, rfl, rfl, rfl⟩
  · obtain ⟨hflight, hshorts⟩ := ({ s.dev with flight := s.dev.flight.filter (fun g => g.id ≠ id) } : Dev).farAnswer_frees (coreNo u.die.val u.core.val) id
    refine answers_device rfl rfl fun t ht hdev => ⟨ht, ?_⟩
    rw [hdev, shortAck_far hfind hans hwho]
    exact ⟨hflight, hshorts⟩

end Sys2Proof.Proofs
end

section
/-! The sync store under updates (R269 to R271), and what faults leave of queues, regions and sync objects (R165). -/

namespace Sys2Proof.Machine

open Sys2Proof.Laws

/-! ### What faults leave -/

/-- From `a` to `b` queues, cores, regions and sync objects are the same. -/
structure Dev.KeepsStores (a b : Dev) : Prop where
  que : b.que = a.que
  core : b.core = a.core
  regn : b.regn = a.regn
  full : b.full = a.full
  slotCnt : b.slotCnt = a.slotCnt
  sync : b.sync = a.sync

namespace Dev.KeepsStores

variable {a b c : Dev}

theorem refl : a.KeepsStores a := by constructor <;> rfl

theorem trans (h : a.KeepsStores b) (g : b.KeepsStores c) : a.KeepsStores c :=
  ⟨g.que.trans h.que, g.core.trans h.core, g.regn.trans h.regn, g.full.trans h.full, g.slotCnt.trans h.slotCnt, g.sync.trans h.sync⟩

theorem of_reports (h : a.Reports b) : a.KeepsStores b := ⟨h.que, h.core, h.regn, h.full, h.slotCnt, h.sync⟩

theorem modThr {k : Nat} {f : Thread → Thread} : a.KeepsStores (a.modThr k f) := by constructor <;> rfl

theorem modCtx {k : CtxId} {f : Ctx → Ctx} : a.KeepsStores (a.modCtx k f) := by constructor <;> rfl

theorem settle : a.KeepsStores a.settleModule := by
  obtain ⟨r, st, h⟩ := a.settleModule_changes
  rw [h]
  constructor <;> rfl

end Dev.KeepsStores

theorem Dev.haltCtx_stores (d : Dev) (c : CtxId) (r : Nat) : d.KeepsStores (d.haltCtx c r) := by
  obtain ⟨t, e, hstop⟩ := d.stopCores_frame (d.ctxAt c).cores
  have h1 : d.KeepsStores ((d.stopCores (d.ctxAt c).cores).dropMoves c) := by
    rw [hstop]
    constructor <;> rfl
  unfold Dev.haltCtx
  simp only
  generalize (d.stopCores (d.ctxAt c).cores).dropMoves c = x at h1
  have h2 := h1.trans (.of_reports (Dev.Reports.finishOp x c opHaltAtBeat (if r = haltAtBeatReason then 0 else 0x14)))
  generalize x.finishOp c opHaltAtBeat (if r = haltAtBeatReason then 0 else 0x14) = y at h2
  generalize hz : y.modCtx c _ = z
  have h3 : y.KeepsStores z := hz ▸ .modCtx
  exact h2.trans (h3.trans (Dev.KeepsStores.trans (.of_reports (Dev.Reports.event z c 5 _)) .settle))

/-- A thread fault leaves queues, cores, regions and sync objects. -/
theorem Dev.threadFault_stores (d : Dev) (k cause tval pc : Nat) : d.KeepsStores (d.threadFault k cause tval pc) := by
  unfold Dev.threadFault
  split
  · exact .refl
  · generalize hx : d.modThr k _ = x
    have h1 : d.KeepsStores x := hx ▸ .modThr
    simp only
    cases x.holder (k / 8) with
    | none => exact h1
    | some c =>
      simp only
      generalize hy : (if cause = 0x11 then x.modCtx c (fun x => { x with notAdmitted := x.notAdmitted + 1 }) else x) = y
      have h2 : x.KeepsStores y := by
        rw [← hy]
        split
        · exact .modCtx
        · exact .refl
      have h3 := (h1.trans h2).trans (.of_reports (Dev.Reports.event y c 2 (leBytes 8 pc ++ leBytes 8 tval ++ leBytes 2 (cpUnit (k / 8)) ++ leBytes 1 (k % 8)
        ++ leBytes 1 cause ++ leBytes 8 y.time.beat ++ zeros 4)))
      refine h3.trans ?_
      unfold Dev.endThreads
      simp only
      split
      · exact Dev.haltCtx_stores _ c _
      · exact .refl

theorem Dev.faultFree_stores (d : Dev) (i : Insn) (cause : Nat) : d.KeepsStores (d.faultFree i cause) :=
  Dev.KeepsStores.trans (b := { d with free := d.free + 1 }) (by constructor <;> rfl) (Dev.threadFault_stores _ _ _ _ _)

/-! ### Sync objects -/

theorem Dev.modSync_at (d : Dev) (die p : Nat) (f : SyncObj → SyncObj) : (d.modSync die p f).syncAt die p = f (d.syncAt die p) := by
  simp only [Dev.modSync, Dev.syncAt, tblGet_mod_self]

theorem Dev.syncAt_of_sync {a b : Dev} (h : b.sync = a.sync) (die p : Nat) : b.syncAt die p = a.syncAt die p := by
  unfold Dev.syncAt
  rw [h]

/-- From `a` to `b` a sync update has been seen: beside the sync store only waiters, stream markers and digests have moved, and the module
has reported. -/
structure Dev.Updates (a b : Dev) : Prop where
  que : b.que = a.que
  core : b.core = a.core
  thr : ∀ k, (a.thrAt k).state ≠ .idle → (a.thrAt k).state ≠ .wait → b.thrAt k = a.thrAt k

namespace Dev.Updates

variable {a b c : Dev}

theorem refl : a.Updates a := ⟨rfl, rfl, fun _ _ _ => rfl⟩

theorem trans (h : a.Updates b) (g : b.Updates c) : a.Updates c where
  que := g.que.trans h.que
  core := g.core.trans h.core
  thr k h1 h2 := (g.thr k (by rwa [h.thr k h1 h2]) (by rwa [h.thr k h1 h2])).trans (h.thr k h1 h2)

theorem of_same (hq : b.que = a.que) (hc : b.core = a.core) (ht : b.thr = a.thr) : a.Updates b :=
  ⟨hq, hc, fun k _ _ => by rw [Dev.thrAt, ht, Dev.thrAt]⟩

theorem of_reports (h : a.Reports b) : a.Updates b := of_same h.que h.core h.thr

theorem modSync {die p : Nat} {f : SyncObj → SyncObj} : a.Updates (a.modSync die p f) := of_same rfl rfl rfl

theorem modCtx {k : CtxId} {f : Ctx → Ctx} : a.Updates (a.modCtx k f) := of_same rfl rfl rfl

end Dev.Updates

/-- A thread that does not wait tests nothing (R271). -/
theorem Thread.test_of_busy {t : Thread} (h : t.state ≠ .wait) (kind obj value : Nat) : t.test kind obj value = t := by
  unfold Thread.test
  split
  · rw [if_neg (by simp [h])]
  · rfl

theorem Dev.offer_updates (d : Dev) (cores : List Nat) (tkind skind obj value : Nat) :
    d.Updates (d.offer cores tkind skind obj value) ∧ (d.offer cores tkind skind obj value).sync = d.sync := by
  refine ⟨⟨rfl, rfl, fun k hidle hwait => ?_⟩, rfl⟩
  have hsame : (if cores.contains (k / 8) then (d.thrAt k).test tkind obj value else d.thrAt k) = d.thrAt k := by
    split
    · exact Thread.test_of_busy hwait _ _ _
    · rfl
  have hne : d.thrAt k ≠ Thread.init := fun e => hidle (by rw [e]; rfl)
  have hmap := tblGet_map_of_ne (e := Thread.init) (v := d.thrAt k) (k := k)
    (f := fun k t => if cores.contains (k / 8) then t.test tkind obj value else t) (t := d.thr) (by rw [hsame]; exact hne) hne rfl
  exact hmap.trans hsame

theorem Dev.addDigest_updates (d : Dev) (c : CtxId) (unit tag : Nat) (old new : Bytes) :
    d.Updates (d.addDigest c unit tag old new) ∧ (d.addDigest c unit tag old new).sync = d.sync := ⟨.modCtx, rfl⟩

theorem Dev.digestSync_updates (d : Dev) (c : CtxId) (die vid old new : Nat) :
    d.Updates (d.digestSync c die vid old new) ∧ (d.digestSync c die vid old new).sync = d.sync := by
  unfold Dev.digestSync
  simp only
  split
  · exact ⟨.refl, rfl⟩
  · exact d.addDigest_updates c _ _ _ _

/-- An update that has set its object is seen by the waiters (R271). -/
theorem Dev.offered_updates (d : Dev) (c : CtxId) (die vid old new value : Nat) : d.Updates ((d.digestSync c die vid old new).offerSync c die vid value)
    ∧ ((d.digestSync c die vid old new).offerSync c die vid value).sync = d.sync := by
  obtain ⟨h1, h2⟩ := d.digestSync_updates c die vid old new
  obtain ⟨h3, h4⟩ := (d.digestSync c die vid old new).offer_updates (((d.digestSync c die vid old new).ctxAt c).cores.filter (fun k => k / 12 = die)) 0 1 vid value
  exact ⟨h1.trans h3, h4.trans h2⟩

/-- An EVENT object takes an increment within its limits (R269, R270). -/
theorem Dev.bump_adds {d : Dev} {c : CtxId} {die vid p : Nat} {inc : Int} (s : Signaller) (hkind : (d.syncAt die p).kind = kEvent)
    (hlow : -2147483648 ≤ inc) (hhigh : inc ≤ 2147483647) (hne : inc ≠ 0) (hpos : 0 ≤ ((d.syncAt die p).value : Int) + inc)
    (hlim : ((d.syncAt die p).value : Int) + inc ≤ ((d.syncAt die p).limit : Int)) :
    ∃ x : Dev, d.bump c die vid p inc s = (.ok (d.syncAt die p).value, x) ∧ d.Updates x
      ∧ x.syncAt die p = { (d.syncAt die p).sign s d.time.beat with value := (((d.syncAt die p).value : Int) + inc).toNat } := by
  have hnl : ¬ (d.syncAt die p).kind = kLatch := by rw [hkind]; decide
  have hrange : ¬ (inc < -2147483648 ∨ 2147483647 < inc) := by omega
  have hneg : ¬ (((d.syncAt die p).value : Int) + inc < 0) := by omega
  have hover : ¬ (((d.syncAt die p).limit : Int) < ((d.syncAt die p).value : Int) + inc) := by omega
  obtain ⟨h1, h2⟩ := (d.modSync die p (fun o => { (o.sign s d.time.beat) with value := (((d.syncAt die p).value : Int) + inc).toNat })).offered_updates c die vid
    (d.syncAt die p).value (((d.syncAt die p).value : Int) + inc).toNat (((d.syncAt die p).value : Int) + inc).toNat
  refine ⟨_, ?_, Dev.Updates.modSync.trans h1, (Dev.syncAt_of_sync h2 die p).trans (d.modSync_at die p _)⟩
  unfold Dev.bump
  simp only [hnl, hne, hneg, hover, if_false, Bool.or_eq_true, decide_eq_true_eq, hrange]

/-- A counter fault: the object keeps its value and is marked (R270). -/
theorem Dev.syncFault_marks {d : Dev} {c : CtxId} {die vid p : Nat} (hp : d.physOf c die vid = some p) (inc : Int) (cause : Nat) (s : Signaller) :
    d.Updates (d.syncFault c die vid inc cause s) ∧ (d.syncFault c die vid inc cause s).syncAt die p = { d.syncAt die p with faulted := true } := by
  unfold Dev.syncFault
  simp only [hp]
  have h1 : d.Updates (d.modSync die p (fun o => { o with faulted := true })) := .modSync
  have h2 := d.modSync_at die p (fun o => { o with faulted := true })
  generalize d.modSync die p (fun o => { o with faulted := true }) = x at h1 h2
  generalize hy : x.event c 4 _ = y
  have hrep : x.Reports y := hy ▸ Dev.Reports.event x c 4 _
  have h3 : d.Updates (y.count SYN_STAT.FAULTS die) :=
    (h1.trans (.of_reports hrep)).trans (.of_same (Dev.count_que _ _ _ _) (Dev.count_core _ _ _ _) (Dev.count_thr _ _ _ _))
  have h4 : (y.count SYN_STAT.FAULTS die).syncAt die p = { d.syncAt die p with faulted := true } :=
    (Dev.syncAt_of_sync ((Dev.count_sync _ _ _ _).trans hrep.sync) die p).trans h2
  generalize y.count SYN_STAT.FAULTS die = z at h3 h4
  split
  · exact ⟨h3.trans .modCtx, h4⟩
  · exact ⟨h3, h4⟩

theorem Dev.bump_below {d : Dev} {c : CtxId} {die vid p : Nat} {inc : Int} (s : Signaller) (hkind : (d.syncAt die p).kind = kEvent)
    (hlow : -2147483648 ≤ inc) (hhigh : inc ≤ 2147483647) (hneg : ((d.syncAt die p).value : Int) + inc < 0) :
    d.bump c die vid p inc s = (.range, d.syncFault c die vid inc 1 s) := by
  have hnl : ¬ (d.syncAt die p).kind = kLatch := by rw [hkind]; decide
  have hrange : ¬ (inc < -2147483648 ∨ 2147483647 < inc) := by omega
  have hne : ¬ inc = 0 := by omega
  unfold Dev.bump
  simp only [hnl, hne, hneg, if_false, if_true, Bool.or_eq_true, decide_eq_true_eq, hrange]

/-- MSIG on an EVENT object is an increment (R269). -/
theorem Dev.msig_event {d : Dev} {c : CtxId} {die vid p : Nat} (hp : d.physOf c die vid = some p) (hkind : (d.syncAt die p).kind = kEvent) (inc : Int)
    (s : Signaller) : d.msig c die vid inc s = d.bump c die vid p inc s := by
  have h : ¬ (kEvent = kProd ∨ kEvent = kCons) := by decide
  unfold Dev.msig
  simp only [hp, hkind, Bool.or_eq_true, decide_eq_true_eq, h, if_false]

end Sys2Proof.Machine
end

section
/-! Command queues, waits and signals of threads (R119, R155, R156, R160, R161, R269 to R271). -/

namespace Sys2Proof.Machine

open Sys2Proof.Laws

/-! ### Accepting commands -/

theorem Dev.keepPast_que (d : Dev) (m : Mem) (core q n : Nat) (ls : List Nat) : (d.keepPast m core q n ls).que = d.que ∧ (d.keepPast m core q n ls).thr = d.thr := by
  unfold Dev.keepPast
  split <;> exact ⟨rfl, rfl⟩

/-- A queue that accepts a command holds one more (R160). -/
theorem Dev.accept_queue (d : Dev) (m : Mem) (core q : Nat) (bs : Bytes) (t : Nat) : (d.accept m core q bs t).1 = ((d.queAt core q).accepts + 1) % 2 ^ 32
    ∧ ∃ y, (d.accept m core q bs t).2.queAt core q = { d.queAt core q with cmds := (d.queAt core q).cmds ++ [y], accepts := ((d.queAt core q).accepts + 1) % 2 ^ 32 } := by
  refine ⟨rfl, ?_⟩
  have hkeep := (d.keepPast_que m core q (((d.queAt core q).accepts + 1) % 2 ^ 32) (d.chainLines core q bs)).1
  unfold Dev.accept
  simp only
  rw [Dev.modQue_at, Dev.queAt_of_que hkeep]
  exact ⟨_, rfl⟩

theorem Dev.accept_thr (d : Dev) (m : Mem) (core q : Nat) (bs : Bytes) (t : Nat) : (d.accept m core q bs t).2.thr = d.thr :=
  (d.keepPast_que m core q (((d.queAt core q).accepts + 1) % 2 ^ 32) (d.chainLines core q bs)).2

/-- A MISSUE that is accepted: its queue, and its thread with the accept number in rd (R160). -/
theorem Dev.issued_does (d : Dev) (m : Mem) (i : Insn) (r q : Nat) (bs : Bytes) :
    (∃ y, (d.issued m i r q bs).queAt i.core q = { d.queAt i.core q with cmds := (d.queAt i.core q).cmds ++ [y], accepts := ((d.queAt i.core q).accepts + 1) % 2 ^ 32 })
    ∧ (d.issued m i r q bs).thrAt i.k = { d.thrAt i.k with
      state := .ready, stall := none, wait := none, pc := (i.pc + i.len) % 2 ^ 64, x := setX (d.thrAt i.k).x r (((d.queAt i.core q).accepts + 1) % 2 ^ 32) } := by
  obtain ⟨hn, hq⟩ := d.accept_queue m i.core q bs (i.k % 8)
  unfold Dev.issued
  simp only
  refine ⟨hq, ?_⟩
  rw [Dev.retire_thrAt_self, hn, Dev.thrAt, Dev.accept_thr, Dev.thrAt]

/-- MISSUE finds its command (R155, R160). -/
theorem missueAct_found {op : CustOp} {q v : Nat} {i : Insn} {d e : Dev} {m : Mem} (h : d.Issuing m i op q v e) (f : Fuses) :
    missueAct op i f m d = ⟨if 64 ≤ (e.queAt i.core q).cmds.length then e.stallOn i (.queue q op.rd.val (leBytes 32 v))
      else e.issued m i op.rd.val q (leBytes 32 v), [], []⟩ := by
  obtain ⟨hf, hq, hknown, howner, halign, a, ro, g, hreach, hcore, hlo, hhi, hread⟩ := h
  unfold Dev.ReachesMem at hreach
  unfold missueAct
  simp only [hf, hq, Nat.not_le.mpr hknown, howner, halign, hreach, hcore, hlo, hhi, hread, ne_eq, not_true_eq_false, decide_false, decide_true, Bool.or_self,
    Bool.not_true, Bool.and_self, Bool.false_eq_true, if_false, if_true]

theorem Dev.granted_lt {d : Dev} {core q n r : Nat} {bs : Bytes} (h : d.granted core q = some (n, r, bs)) : n < 8 := by
  unfold Dev.granted at h
  obtain ⟨t, ht, hsome⟩ := List.exists_of_findSome?_eq_some h
  obtain ⟨j, -, rfl⟩ := List.mem_map.mp ht
  split at hsome
  · split at hsome
    · have := (Prod.mk.inj (Option.some.inj hsome)).1
      omega
    · cases hsome
  · cases hsome

/-- A stalled MISSUE is accepted once its queue has room (R119, R156). -/
theorem Dev.grant_accepts {d : Dev} {core q n r : Nat} {bs : Bytes} {c : CtxId} (hroom : (d.queAt core q).cmds.length < 64)
    (hg : d.granted core q = some (n, r, bs)) (hc : d.holder core = some c) (m : Mem) :
    d.grant m core q = (d.modQue core q (fun u => { u with pointer := (n + 1) % 8 })).issued m ⟨core * 8 + n, c, (d.thrAt (core * 8 + n)).pc, 4, 0⟩ r q bs := by
  unfold Dev.grant
  simp only [Nat.not_le.mpr hroom, hg, hc, if_false]
  rfl

/-! ### Waits -/

/-- MWAIT on an object (R161). -/
theorem mwaitAct_waits {op : CustOp} {kind cond obj v : Nat} {i : Insn} {d : Dev} (h : d.WaitsOn i op kind cond obj v) (f : Fuses) (m : Mem) :
    mwaitAct op i f m d = ⟨if waitHolds cond v (d.xreg i.k op.rs2.val) then (d.retire i op.rd.val v).modThr i.k (fun t => { t with tmo := false })
      else d.modThr i.k (fun t => { t with
        state := .wait, wait := some { kind := kind, obj := obj, cond := cond, operand := d.xreg i.k op.rs2.val, rd := op.rd.val, hit := none } }), [], []⟩ := by
  obtain ⟨hkind, hcond, ⟨hne, hzero⟩, hobj, hv⟩ := h
  unfold mwaitAct
  simp only [Act.dev, hkind, hcond, hobj, hne, hzero, hv, ne_eq, not_true_eq_false, decide_false, Bool.or_self, Bool.false_eq_true, if_false]

theorem Dev.wake_hit {d : Dev} {k v : Nat} {w : WaitOn} {c : CtxId} (hw : (d.thrAt k).wait = some w) (hhit : w.hit = some v) (hc : d.holder (k / 8) = some c) :
    d.wake k = (d.retire (d.insnOf k c) w.rd v).modThr k (fun t => { t with tmo := false }) := by
  unfold Dev.wake
  simp only [hw, hc, hhit]

/-- MWTMO ends a wait (R161). -/
theorem Dev.timeOut_wait {d : Dev} {k v : Nat} {w : WaitOn} {c : CtxId} (hw : (d.thrAt k).wait = some w) (hhit : w.hit = none) (hc : d.holder (k / 8) = some c)
    (hlock : d.locked c = false) (htmo : (d.thrAt k).mwtmo ≠ 0) (hstate : (d.thrAt k).state = .wait) (hv : d.objectValue c (k / 8) w.kind w.obj = some v) :
    d.timeOut k = (d.retire (d.insnOf k c) w.rd v).modThr k (fun t => { t with tmo := true }) := by
  unfold Dev.timeOut
  simp only [hw, hhit, hc, hlock, htmo, hstate, hv, decide_false, Bool.or_self, Bool.false_eq_true, if_false, reduceCtorEq, decide_true, Option.isNone_none,
    Bool.and_self, if_true, Option.getD_some]

theorem mpollAct_reads {op : CustOp} {kind obj v : Nat} {i : Insn} {d : Dev} (hf : op.funct7.toNat = kind) (hk : kind < 4) (hrs2 : op.rs2.val = 0)
    (hobj : objectOf kind (d.xreg i.k op.rs1.val) = some obj) (hv : d.objectValue i.c i.core kind obj = some v) (f : Fuses) (m : Mem) :
    mpollAct op i f m d = { dev := d.retire i op.rd.val v } := by
  have hfield : field kind 0 2 = kind := Nat.mod_eq_of_lt hk
  unfold mpollAct
  simp only [Act.dev, hf, hfield, hobj, hrs2, hv, ne_eq, not_true_eq_false, decide_false, Bool.or_self, Bool.false_eq_true, if_false]

section
variable {op : CustOp} {i : Insn} {d x : Dev}

/-- MSIG that its object takes (R161, R269). -/
theorem msigAct_ok {old : Nat} (hf : op.funct7.toNat = 0) (hvid : d.xreg i.k op.rs1.val < 4096)
    (h : d.msig i.c (i.core / 12) (d.xreg i.k op.rs1.val) (toSigned (d.xreg i.k op.rs2.val) 64) ⟨d.moduleId, i.unit, some (i.k % 8), 1⟩ = (.ok old, x))
    (f : Fuses) (m : Mem) : msigAct op i f m d = { dev := x.retire i op.rd.val old } := by
  unfold msigAct objectOf
  simp only [Act.dev, hf, hvid, h, ne_eq, not_true_eq_false, if_false, if_true]

/-- MSIG out of its object's range (R270). -/
theorem msigAct_range (hf : op.funct7.toNat = 0) (hvid : d.xreg i.k op.rs1.val < 4096)
    (h : d.msig i.c (i.core / 12) (d.xreg i.k op.rs1.val) (toSigned (d.xreg i.k op.rs2.val) 64) ⟨d.moduleId, i.unit, some (i.k % 8), 1⟩ = (.range, x))
    (f : Fuses) (m : Mem) : msigAct op i f m d = { dev := x.faultFree i 7 } := by
  unfold msigAct objectOf
  simp only [Act.dev, hf, hvid, h, ne_eq, not_true_eq_false, if_false, if_true]

end

end Sys2Proof.Machine

namespace Sys2Proof.Proofs

open Sys2Proof.Machine Sys2Proof.Laws

/-- Settles O43: each row is one branch of its action; an update of an object leaves the thread that makes it, which does not wait. -/
theorem threadQueuesAndWaits : Obligations.ThreadQueuesAndWaits := by
  unfold Obligations.ThreadQueuesAndWaits
  refine ⟨fun th op q v i e f s H hissue => ⟨fun hroom => ?_, fun hfull => ?_⟩, fun u k n r bs c s hk hroom hg hc => ?_,
    fun th op kind cond obj v i e s H hwaits => ⟨fun hholds => ?_, fun hholds => ?_⟩, fun th w c v s hw hhit hc => ?_,
    fun th w c v s hw hhit hc hlock htmo hstate hv => ?_, fun th op kind obj v i e s H hf hk hrs2 hobj hv => ?_,
    fun th op p inc i e s H hf hvid hp hkind hinc hlow hhigh => ⟨fun hne hpos hlim => ?_, fun hneg => ?_⟩⟩
  · have hact := missueAct_found hissue s.fuse
    rw [if_neg (Nat.not_le.mpr hroom)] at hact
    obtain ⟨y, hq⟩ := (f.issued_does s.mem i op.rd.val q (leBytes 32 v)).1
    refine answers_of_dev (d := f.issued s.mem i op.rd.val q (leBytes 32 v)) rfl ((H.act _).trans hact) ⟨rfl, ?_⟩
    show ((f.issued s.mem i op.rd.val q (leBytes 32 v)).queAt i.core q).cmds.length = _ ∧ ((f.issued s.mem i op.rd.val q (leBytes 32 v)).queAt i.core q).accepts = _
    rw [hq]
    exact ⟨List.length_append, rfl⟩
  · have hact := missueAct_found hissue s.fuse
    rw [if_pos hfull] at hact
    exact H.answers_eq rfl hact
  · have hn := Dev.granted_lt hg
    have hqueue := s.dev.modQue_at k u.q.val (fun u => { u with pointer := (n + 1) % 8 })
    have hthr : (s.dev.modQue k u.q.val (fun u => { u with pointer := (n + 1) % 8 })).thr = s.dev.thr := rfl
    have hgrant := Dev.grant_accepts hroom hg hc s.mem
    generalize s.dev.modQue k u.q.val (fun u => { u with pointer := (n + 1) % 8 }) = x at hqueue hthr hgrant
    obtain ⟨⟨y, hq⟩, ht⟩ := x.issued_does s.mem ⟨k * 8 + n, c, (s.dev.thrAt (k * 8 + n)).pc, 4, 0⟩ r u.q.val bs
    have hcore : (⟨k * 8 + n, c, (s.dev.thrAt (k * 8 + n)).pc, 4, 0⟩ : Insn).core = k := by
      unfold Insn.core
      simp only
      omega
    rw [hcore, hqueue] at hq
    rw [hcore, hqueue] at ht
    refine answers_device (d := s.dev.grant s.mem k u.q.val) rfl (by rw [hk]) fun t honly hdev => ⟨honly, ?_⟩
    rw [hdev, hgrant, hq, ht, Dev.thrAt, hthr, ← Dev.thrAt]
    exact ⟨List.length_append, rfl, rfl, rfl, rfl⟩
  · have hact := mwaitAct_waits hwaits s.fuse s.mem
    rw [if_pos hholds] at hact
    exact H.answers_eq rfl hact
  · have hact := mwaitAct_waits hwaits s.fuse s.mem
    rw [if_neg (by rw [hholds]; decide)] at hact
    refine H.answers rfl hact fun t ht hdev => ⟨ht, ?_⟩
    rw [hdev, Dev.modThr_at]
    exact ⟨rfl, H.pc_thrAt, rfl⟩
  · refine answers_device (d := s.dev.wake (thrNo th)) rfl rfl fun t ht hdev => ⟨ht, ?_⟩
    rw [hdev, Dev.wake_hit hw hhit hc, Dev.modThr_at, retire_insnOf_thrAt]
    exact ⟨rfl, rfl, rfl, rfl, rfl⟩
  · refine answers_device (d := s.dev.timeOut (thrNo th)) rfl rfl fun t ht hdev => ⟨ht, ?_⟩
    rw [hdev, Dev.timeOut_wait hw hhit hc hlock htmo hstate hv, Dev.modThr_at, retire_insnOf_thrAt]
    exact ⟨rfl, rfl, rfl⟩
  · exact H.answers_eq rfl (mpollAct_reads hf hk hrs2 hobj hv _ _)
  · subst hinc
    obtain ⟨x, hbump, hup, hobj⟩ := Dev.bump_adds (c := i.c) (vid := e.xreg i.k op.rs1.val) ⟨e.moduleId, i.unit, some (i.k % 8), 1⟩ hkind hlow hhigh hne hpos hlim
    have hact := msigAct_ok hf hvid ((Dev.msig_event hp hkind _ _).trans hbump) s.fuse s.mem
    have hthr : x.thrAt i.k = e.thrAt i.k := hup.thr i.k (by rw [H.state]; decide) (by rw [H.state]; decide)
    refine H.answers rfl hact fun t ht hdev => ⟨ht, ?_, ?_⟩
    · have hsync : t.dev.syncAt (i.core / 12) p = x.syncAt (i.core / 12) p := by rw [hdev]; rfl
      rw [hsync, hobj]
      exact Int.toNat_of_nonneg hpos
    · rw [hdev]
      simp only [Dev.retire_thrAt_self, hthr, H.size, and_self]
  · subst hinc
    obtain ⟨hup, hobj⟩ := Dev.syncFault_marks (c := i.c) hp (toSigned (e.xreg i.k op.rs2.val) 64) 1 ⟨e.moduleId, i.unit, some (i.k % 8), 1⟩
    have hact := msigAct_range hf hvid ((Dev.msig_event hp hkind _ _).trans (Dev.bump_below _ hkind hlow hhigh hneg)) s.fuse s.mem
    generalize e.syncFault i.c (i.core / 12) (e.xreg i.k op.rs1.val) (toSigned (e.xreg i.k op.rs2.val) 64) 1 ⟨e.moduleId, i.unit, some (i.k % 8), 1⟩ = x at hup hobj hact
    have hthr : x.thrAt i.k = e.thrAt i.k := hup.thr i.k (by rw [H.state]; decide) (by rw [H.state]; decide)
    obtain ⟨v, hfault⟩ := Dev.faultFree_faultOf (d := x) i (by rw [hthr]; exact H.faults) (show (7 : Nat) ≠ 0 by decide)
    refine H.answers (x := x.faultFree i 7) rfl hact fun t ht hdev => ⟨ht, ?_⟩
    rw [hdev, Dev.syncAt_of_sync (x.faultFree_stores i 7).sync, hobj]
    exact ⟨(Dev.faultOf_eq hfault).1, rfl, rfl⟩

end Sys2Proof.Proofs
end

section
/-! The unit of a scrubbed SRAM line (R202): an address of SPACE 2 names a die by its bits [44:32], and the model takes every one of their
values, while LAST_UNIT of PRG_SRAM_ECC has 16 bits. -/

namespace Sys2Proof.Proofs

open Sys2Proof.Machine

/-- The line at the start of core 0's scratchpad of a die 16, which no module has. -/
def farLine16 : Nat := (2 * 2 ^ 45 + 16 * 2 ^ 32 + 0x10000000) / 64

theorem sramUnit_farLine16 : sramUnit (64 * farLine16) = some 0x10400 := by decide

/-- Refutes O51: its clause on an uncorrectable line of SRAM_SCRUB says of every line that LAST_UNIT becomes the code of its unit, also of a
line on a die number of 16, whose code 0x10400 does not fit the field's 16 bits. -/
theorem not_syncAndUpkeep : ¬ Obligations.SyncAndUpkeep := by
  unfold Obligations.SyncAndUpkeep
  rintro ⟨-, -, -, hscrub, -, -⟩
  obtain ⟨-, -, t, -, -, -, -, -, hlast, -⟩ := hscrub farLine16 0x10400 State.reset sramUnit_farLine16
  have hlt : t.dev.get PRG_SRAM_ECC.LAST_UNIT (0x10400 / 0x1000) < 2 ^ 16 := field_lt _ _ _
  omega

end Sys2Proof.Proofs
end

section
/-! What a MASK does to a thread table that lists a thread twice: as for the DRAIN of an engine, the write of a vector unit breaks
the reservations on its lines (R149), and where the first entry of a thread holds nothing but such a reservation, the entry behind it
is the thread's from then on. -/

namespace Sys2Proof.Proofs

open Sys2Proof.Machine

/-- The line that a MASK to the first bytes of the scratchpad of core 0 writes (R172). -/
def maskedLine : Nat := lineOf (dieAddr 0 0x11000000)

/-- Thread 0 twice: with nothing but a reservation on that line, and behind it with a PC. -/
def maskedThreads : Tbl Thread :=
  [(0, { Thread.init with resv := some maskedLine }), (0, { Thread.init with pc := 4 })]

/-- A MASK of one element to the start of the scratchpad (R144). -/
def maskCmd : QCmd :=
  { bytes := wr (wr (wr (zeros 32) 0 [0x13]) 8 [0, 0, 0, 1]) 0xC [1]
    accept := 0, thread := 0, beat := 0, result := none, flags := 0, after := [] }

/-- A program in deterministic mode with nothing else in it. -/
def detProgram : Container :=
  { beatLocked := false, det := true, lockstep := 0, memMode := 0, period := 0, guard := 0, pm1 := 0, iter := 0, rank := 0, partner := 0,
    diePairs := 0, rings := [], laps := [], regions := [], cores := [], restarts := [], digest := [] }

/-- Context 1 runs that program on core 0, whose vector unit is ADMITTED with the MASK at the front of its queue. -/
def maskDev : Dev :=
  { Dev.init with
    mmc := { Mmc.init with state := .running, units := [(csGroup 0, ⟨.admitted, false⟩)] }
    ctx := [(1, { Ctx.init with state := .running, cores := [0], loaded := some detProgram })]
    que := [(4, { Queue.init with cmds := [maskCmd] })]
    thr := maskedThreads }

def maskState : State := { State.reset with dev := maskDev }

theorem maskCmd_front : maskDev.Front 0 4 0x13 1 maskCmd where
  front := by decide +kernel
  op := by decide
  admitted := by decide +kernel
  settled := by decide +kernel

/-- The MASK breaks the reservation (R149): it leaves the threads that breaking it leaves. -/
theorem mask_breaks_reservation {t : State} (h : exec (.vrand ⟨0, 0⟩) maskState = .next t) :
    t.dev.thr = (maskDev.breakLine maskedLine).thr := by
  cases h
  decide +kernel

/-- Without its reservation the first entry is the default and goes; the second one is thread 0 from then on. -/
theorem breakLine_uncovers_maskedThread :
    tblGet Thread.init (maskDev.breakLine maskedLine).thr 0 = { Thread.init with pc := 4 } := by
  have hmap : (maskDev.breakLine maskedLine).thr
      = tblMap Thread.init (fun _ t => if t.resv = some maskedLine then { t with resv := none } else t) maskedThreads := rfl
  rw [hmap, maskedThreads, tblGet_tblMap_cons_default _ (by decide)]
  rfl

/-- Refutes O47: its clause on MASK says that of the threads only reservations change, and says it of every state, also of one whose
thread table is not in canonical form.  Where that table lists thread 0 twice, first with nothing but a reservation on the line that
the MASK writes and then with PC 4, the write drops the first entry, and thread 0's PC goes from 0 to 4. -/
theorem not_vectorResults : ¬ Obligations.VectorResults := by
  unfold Obligations.VectorResults
  rintro ⟨-, -, -, hmask, -⟩
  obtain ⟨t, hexec, -, -, -, -, -, hwrote, -⟩ := hmask ⟨0, 0⟩ 0 (0x01000000, 4) 1 maskCmd maskState rfl maskCmd_front rfl (by decide)
    (by decide) (by decide) (by decide) (by decide) (by decide +kernel) ⟨by decide +kernel, by decide +kernel, by decide +kernel⟩
  have hbefore : (maskState.dev.thrAt 0).pc = 0 := by decide
  have hafter : (t.dev.thrAt 0).pc = 4 := by
    rw [Dev.thrAt, mask_breaks_reservation hexec, breakLine_uncovers_maskedThread]
  have hsame : (t.dev.thrAt 0).pc = (maskState.dev.thrAt 0).pc := pc_of_wroteOnly hwrote 0
  omega

end Sys2Proof.Proofs
end

section
/-! Circular regions: stores to descriptors and to CTRL, tags, the UNINIT word (R190 to R195, R200). -/

namespace Sys2Proof.Machine

open Sys2Proof.Laws

/-! ### Regions, counts and tags -/

theorem Dev.modRegion_at (d : Dev) (core r : Nat) (f : Region → Region) : (d.modRegion core r f).regionAt core r = f (d.regionAt core r) := by
  simp only [Dev.modRegion, Dev.regionAt, tblGet_mod_self]

theorem Dev.regionAt_of_regn {a b : Dev} (h : b.regn = a.regn) (core r : Nat) : b.regionAt core r = a.regionAt core r := by
  unfold Dev.regionAt
  rw [h]

theorem Dev.regionStatus_at (d : Dev) (core r st : Nat) : (d.regionStatus core r st).regionAt core r = { d.regionAt core r with status := st } :=
  d.modRegion_at core r _

/-- The end of an instruction changes no region. -/
theorem Dev.retire_regionAt (d : Dev) (i : Insn) (rd v core r : Nat) : (d.retire i rd v).regionAt core r = d.regionAt core r :=
  Dev.regionAt_of_regn rfl core r

theorem Dev.isFull_of_full {a b : Dev} (h : b.full = a.full) (core r n : Nat) : b.isFull core r n = a.isFull core r n := by
  unfold Dev.isFull
  rw [h]

theorem Dev.slotCount_of_slotCnt {a b : Dev} (h : b.slotCnt = a.slotCnt) (core r n : Nat) : b.slotCount core r n = a.slotCount core r n := by
  unfold Dev.slotCount
  rw [h]

theorem Dev.putFull_isFull (d : Dev) (core r n : Nat) (v : Bool) : (d.putFull core r n v).isFull core r n = v := by
  simp only [Dev.putFull, Dev.isFull, tblGet_set_self]

theorem Dev.putCount_slotCount (d : Dev) (core r n v : Nat) : (d.putCount core r n v).slotCount core r n = v % 2 ^ 32 := by
  simp only [Dev.putCount, Dev.slotCount, tblGet_set_self]

/-- The slots of a region that is cleared are EMPTY, with their counts zero (R192). -/
theorem Dev.clearSlots_empty (d : Dev) (core r : Nat) {n : Nat} (hn : n < 64) :
    (d.clearSlots core r).slotCount core r n = 0 ∧ (d.clearSlots core r).isFull core r n = false := by
  have hkey : decide (slotKey core r n / 64 = regionKey core r) = true := by
    unfold slotKey regionKey
    exact decide_eq_true (by omega)
  exact ⟨tblGet_drop_of (p := fun k => decide (k / 64 = regionKey core r)) hkey,
    tblGet_drop_of (p := fun k => decide (k / 64 = regionKey core r)) hkey⟩

/-- PUSH moves HEAD and makes its slot FULL (R193). -/
theorem Dev.pushSlot_at (d : Dev) (core r : Nat) :
    (d.pushSlot core r).regionAt core r = { d.regionAt core r with head := ((d.regionAt core r).head + 1) % 2 ^ 32 }
      ∧ (d.pushSlot core r).isFull core r ((d.regionAt core r).head % (d.regionAt core r).slots) = true := by
  unfold Dev.pushSlot
  exact ⟨(Dev.modRegion_at _ core r _), Dev.putFull_isFull d core r _ true⟩

/-- POP moves TAIL, makes its slot EMPTY and zeroes its count (R193). -/
theorem Dev.popSlot_at (d : Dev) (core r : Nat) :
    (d.popSlot core r).regionAt core r = { d.regionAt core r with tail := ((d.regionAt core r).tail + 1) % 2 ^ 32 }
      ∧ (d.popSlot core r).isFull core r ((d.regionAt core r).tail % (d.regionAt core r).slots) = false
      ∧ (d.popSlot core r).slotCount core r ((d.regionAt core r).tail % (d.regionAt core r).slots) = 0 := by
  unfold Dev.popSlot
  exact ⟨Dev.modRegion_at _ core r _, Dev.putFull_isFull d core r _ false, Dev.putCount_slotCount (d.putFull core r _ false) core r _ 0⟩

/-! ### Descriptors -/

/-- The store that would change a ring region sets BUSY (R192). -/
theorem Dev.descStore_ring {d : Dev} {core r : Nat} (h : (d.regionAt core r).ring = true) (w v : Nat) :
    d.descStore core r w v = (d.regionStatus core r rsBusy, []) := by
  simp only [Dev.descStore, h, if_true]

section
variable {d : Dev} {core r v : Nat} (hring : (d.regionAt core r).ring = false) (h12 : bit v 12 = false) (h13 : field v 13 3 = 0)
include hring h12 h13

/-- An enable is checked on the descriptor with the fields written (R192). -/
theorem Dev.descStore_enable (hv : (d.regionAt core r).valid = false) (hbit : bit v 8 = true) :
    d.descStore core r 1 v = if (d.modRegion core r (fun g => g.word1 v)).regionCheck core r ((d.regionAt core r).word1 v) = 0
      then (d.modRegion core r (fun g => g.word1 v)).enableRegion core r
      else ((d.modRegion core r (fun g => g.word1 v)).regionStatus core r
        ((d.modRegion core r (fun g => g.word1 v)).regionCheck core r ((d.regionAt core r).word1 v)), []) := by
  simp only [Dev.descStore, rsOk, hring, h12, h13, hv, hbit, Dev.modRegion_at, ne_eq, not_true_eq_false, decide_false, Bool.or_self, Bool.false_eq_true,
    if_false, if_true]

/-- A disable (R192). -/
theorem Dev.descStore_disable (hv : (d.regionAt core r).valid = true) (hbit : bit v 8 = false) :
    d.descStore core r 1 v = ((d.disableRegion core r).1.modRegion core r (fun g => g.word1 v), (d.disableRegion core r).2) := by
  simp only [Dev.descStore, hring, h12, h13, hv, hbit, ne_eq, not_true_eq_false, decide_false, Bool.or_self, Bool.false_eq_true, if_false, if_true]

end

/-- The store to word 1 of a descriptor, of the row that its VALID bit names. -/
theorem descAct_stores {r : Nat} (hr : r < 64) {w : W64} {b : Bool} (hb : bit w.toNat 8 = b) (i : Insn) (fu : Fuses) (m : Mem) (d : Dev) :
    descAct r w b i fu m d = { dev := (d.descStore i.core r 1 w.toNat).1.retire i 0 0, mem := (d.descStore i.core r 1 w.toNat).2 } := by
  have hoff : 32 * r + 8 < 0x800 := by omega
  have hreg : (32 * r + 8) / 32 = r := by omega
  have hword : (32 * r + 8) % 32 / 8 = 1 := by omega
  simp only [descAct, hb, if_true, ctrlStoreAct, Dev.ctrlStore, hoff, hreg, hword]

/-- A region that passes the checks (R192). -/
theorem Dev.enableRegion_at (d : Dev) (core r : Nat) :
    (d.enableRegion core r).1.regionAt core r = { d.regionAt core r with valid := true, status := 0, head := 0, tail := 0, arrival := 0 }
      ∧ (∀ n < 64, (d.enableRegion core r).1.slotCount core r n = 0 ∧ (d.enableRegion core r).1.isFull core r n = false)
      ∧ (d.enableRegion core r).2 = [.clearMarks (d.regionLocal core (d.regionAt core r)) (d.regionAt core r).bytes] := by
  unfold Dev.enableRegion
  generalize hx : d.modRegion core r _ = x
  have hat : x.regionAt core r = { d.regionAt core r with valid := true, status := 0, head := 0, tail := 0, arrival := 0 } := by
    rw [← hx, Dev.modRegion_at]
    rfl
  refine ⟨hat, fun n hn => x.clearSlots_empty core r hn, ?_⟩
  simp only [hat]
  rw [← hx]
  rfl

/-! ### CTRL -/

/-- The operation that a PUSH or a POP stores to CTRL. -/
def ctrlCode (push : Bool) : Nat := if push then 1 else 2

/-- The store of an operation to CTRL acts on the device that has drawn the address of a fault. -/
theorem ctrlAct_stores {r : Nat} (hr : r < 64) (push : Bool) (i : Insn) (fu : Fuses) (m : Mem) (d : Dev) :
    ctrlAct r (ctrlCode push) i fu m d = match ({ d with free := d.free + 1 } : Dev).ctrlOp i.core r (ctrlCode push) with
      | (.done, f) => { dev := f.retire i 0 0 }
      | (.access, f) => { dev := f.faultAt i 3 d.draw.1.toNat }
      | (.protection, f) => { dev := f.faultAt i 5 d.draw.1.toNat }
      | (.stall, f) => { dev := f.stallOn i (.ctrl r push) } := by
  have hdesc : ¬ 0x800 + 16 * r < 0x800 := by omega
  have hctrl : 0x800 + 16 * r < 0xC00 := by omega
  have hal : (0x800 + 16 * r) % 16 = 0 := by omega
  have hreg : (0x800 + 16 * r - 0x800) / 16 = r := by omega
  have hpush : decide (ctrlCode push % 256 = 1) = push := by cases push <;> rfl
  simp only [ctrlAct, Dev.draw, ctrlStoreAct, Dev.ctrlStore, hdesc, hctrl, hal, hreg, if_true, if_false, hpush]
  generalize ({ d with free := d.free + 1 } : Dev).ctrlOp i.core r (ctrlCode push) = o
  obtain ⟨_ | _ | _ | _, f⟩ := o <;> rfl

section
variable {d : Dev} {core r : Nat}

/-- A CTRL operation on a region that is not valid (R193). -/
theorem Dev.ctrlOp_invalid (h : (d.regionAt core r).valid = false) (v : Nat) : d.ctrlOp core r v = (.done, d.regionStatus core r rsBadOp) := by
  simp only [Dev.ctrlOp, h, Bool.not_false, if_true]

/-- A CTRL operation of a program on a ring region (R193). -/
theorem Dev.ctrlOp_ring (h : (d.regionAt core r).valid = true) (hring : (d.regionAt core r).ring = true) (push : Bool) :
    d.ctrlOp core r (ctrlCode push) = (.protection, d.regionStatus core r rsBadOp) := by
  cases push <;> simp [Dev.ctrlOp, h, hring, ctrlCode, field]

variable {g : Region} (hg : g = d.regionAt core r) (hv : g.valid = true) (hring : g.ring = false)
include hg hv hring

theorem Dev.ctrlOp_push : d.ctrlOp core r 1 = if g.commit then (.done, d.regionStatus core r rsBadOp)
    else if g.fill = g.slots then (if g.tags then (.stall, d) else (.done, d.regionStatus core r rsBadOp))
    else (.done, d.pushSlot core r) := by
  simp [Dev.ctrlOp, ← hg, hv, hring, field]

theorem Dev.ctrlOp_pop : d.ctrlOp core r 2 = if g.fill = 0 then (if g.tags then (.stall, d) else (.done, d.regionStatus core r rsBadOp))
    else (.done, d.popSlot core r) := by
  simp [Dev.ctrlOp, ← hg, hv, hring, field]

end

/-! ### The instructions -/

section
variable {s : State} {th : ThreadRef} {i : Insn} {e : Dev} (H : s.dev.Issues s.mem th 4 0 i e)
include H

/-- The row of a CTRL operation. -/
def ctrlInstr (push : Bool) (th : ThreadRef) (r : Fin 64) : Instr := if push then .push th r else .pop th r

omit H in
theorem exec_ctrlInstr (push : Bool) (r : Fin 64) : exec (ctrlInstr push th r) s = .next (s.run (threadAct th 4 0 (ctrlAct r.val (ctrlCode push)))) := by
  cases push <;> rfl

/-- An operation that ends: the next instruction follows. -/
theorem ctrl_done {push : Bool} {r : Fin 64} {f : Dev}
    (hop : ({ e with free := e.free + 1 } : Dev).ctrlOp i.core r.val (ctrlCode push) = (.done, f)) :
    Answers (ctrlInstr push th r) s (fun t => s.onlyDev t ∧ t.dev = f.retire i 0 0 ∧ (t.dev.thrAt i.k).pc = (i.pc + 4) % 2 ^ 64) := by
  have hact : ctrlAct r.val (ctrlCode push) i s.fuse s.mem e = { dev := f.retire i 0 0 } := by
    rw [ctrlAct_stores r.isLt, hop]
  refine H.answers (exec_ctrlInstr push r) hact (fun t honly hdev => ⟨honly, hdev, ?_⟩)
  rw [hdev, Dev.retire_thrAt_self, H.size]

/-- An operation that a tag stops: the thread stalls (R193). -/
theorem ctrl_stall {push : Bool} {r : Fin 64}
    (hop : ({ e with free := e.free + 1 } : Dev).ctrlOp i.core r.val (ctrlCode push) = (.stall, { e with free := e.free + 1 })) :
    Answers (ctrlInstr push th r) s (fun t => s.onlyDev t ∧ t.dev.regn = e.regn ∧ t.dev.full = e.full ∧ (t.dev.thrAt i.k).state = .stall
      ∧ (t.dev.thrAt i.k).stall = some (.ctrl r.val push)) := by
  have hact : ctrlAct r.val (ctrlCode push) i s.fuse s.mem e
      = { dev := ({ e with free := e.free + 1 } : Dev).stallOn i (.ctrl r.val push) } := by
    rw [ctrlAct_stores r.isLt, hop]
  refine H.answers (exec_ctrlInstr push r) hact (fun t honly hdev => ⟨honly, ?_, ?_, ?_, ?_⟩)
  · rw [hdev]; rfl
  · rw [hdev]; rfl
  · rw [hdev, Dev.stallOn, Dev.modThr_thrAt_self]
  · rw [hdev, Dev.stallOn, Dev.modThr_thrAt_self]

/-- An operation that the region does not take sets BAD_OP (R191, R193). -/
theorem ctrl_badOp {push : Bool} {r : Fin 64} (hop : ({ e with free := e.free + 1 } : Dev).ctrlOp i.core r.val (ctrlCode push)
      = (.done, ({ e with free := e.free + 1 } : Dev).regionStatus i.core r.val rsBadOp)) :
    Answers (ctrlInstr push th r) s (fun t => s.onlyDev t ∧ t.dev.regionAt i.core r.val = { e.regionAt i.core r.val with status := 5 }
      ∧ t.dev.full = e.full ∧ t.dev.slotCnt = e.slotCnt ∧ (t.dev.thrAt i.k).pc = (i.pc + 4) % 2 ^ 64) := by
  obtain ⟨t, hexec, honly, hdev, hpc⟩ := ctrl_done H hop
  refine ⟨t, hexec, honly, ?_, ?_, ?_, hpc⟩
  · rw [hdev, Dev.retire_regionAt, Dev.regionStatus_at]
    rfl
  · rw [hdev]; rfl
  · rw [hdev]; rfl

end

end Sys2Proof.Machine
end

section
/-! Circular regions: what each row comes to (R190 to R195, R200). -/

namespace Sys2Proof.Machine

open Sys2Proof.Laws

/-! ### Descriptor stores of a thread -/

section
variable {s : State} {th : ThreadRef} {i : Insn} {e : Dev} (H : s.dev.Issues s.mem th 4 0 i e) (st : RegionStore)
include H

/-- The row of a store to word 1 of a descriptor. -/
def descInstr (b : Bool) (th : ThreadRef) (st : RegionStore) : Instr := if b then .regionEnable th st else .regionDisable th st

/-- A store to word 1 of a descriptor acts on the region and ends the instruction. -/
theorem desc_stores {b : Bool} (hb : bit st.value.toNat 8 = b) {f : Dev} {es : List MemEff}
    (hst : e.descStore i.core st.region.val 1 st.value.toNat = (f, es)) {P : State → Prop}
    (hP : ∀ t, t.fuse = s.fuse → t.pending = s.pending → t.mem = s.mem.apply es → t.dev = f.retire i 0 0 →
      (t.dev.thrAt i.k).pc = (i.pc + 4) % 2 ^ 64 → P t) : Answers (descInstr b th st) s P := by
  have he : exec (descInstr b th st) s = .next (s.run (threadAct th 4 0 (descAct st.region.val st.value b))) := by cases b <;> rfl
  have hact : threadAct th 4 0 (descAct st.region.val st.value b) s.fuse s.mem s.dev = { dev := f.retire i 0 0, mem := es } := by
    rw [H.act, descAct_stores st.region.isLt hb, hst]
  refine answers_of_act he hact (hP _ rfl rfl rfl rfl ?_)
  show ((f.retire i 0 0).thrAt i.k).pc = _
  rw [Dev.retire_thrAt_self, H.size]

/-- REGION_ENABLE of a region that passes the checks (R192). -/
theorem regionEnable_passes {g h : Region} {w r : Nat} (hw : w = st.value.toNat) (hr : r = st.region.val) (hg : g = e.regionAt i.core r)
    (hh : h = g.word1 w) (h12 : bit w 12 = false) (h13 : field w 13 3 = 0) (hbit : bit w 8 = true) (hring : g.ring = false) (hv : g.valid = false)
    (hck : (e.modRegion i.core r (fun x => x.word1 w)).regionCheck i.core r h = 0) :
    Answers (.regionEnable th st) s (fun t => t.fuse = s.fuse ∧ t.pending = s.pending
      ∧ t.mem = s.mem.apply [.clearMarks (e.regionLocal i.core h) h.bytes]
      ∧ t.dev.regionAt i.core r = { h with valid := true, status := 0, head := 0, tail := 0, arrival := 0 }
      ∧ (∀ n < 64, t.dev.slotCount i.core r n = 0 ∧ t.dev.isFull i.core r n = false)
      ∧ (t.dev.thrAt i.k).pc = (i.pc + 4) % 2 ^ 64) := by
  subst hw hr hg hh
  have hst := Dev.descStore_enable hring h12 h13 hv hbit
  rw [if_pos hck] at hst
  obtain ⟨hat, hempty, hmem⟩ := (e.modRegion i.core st.region.val (fun x => x.word1 st.value.toNat)).enableRegion_at i.core st.region.val
  rw [Dev.modRegion_at] at hat hmem
  generalize (e.modRegion i.core st.region.val (fun x => x.word1 st.value.toNat)).enableRegion i.core st.region.val = p at hst hat hempty hmem
  obtain ⟨f, es⟩ := p
  subst hmem
  refine desc_stores H st hbit hst (fun t hfuse hpend hm hdev hpc => ⟨hfuse, hpend, hm, ?_, fun n hn => ?_, hpc⟩)
  · rw [hdev, Dev.retire_regionAt, hat]
  · rw [hdev]
    exact hempty n hn

/-- REGION_ENABLE of a region that fails a check (R192). -/
theorem regionEnable_fails {g h : Region} {w r c : Nat} (hw : w = st.value.toNat) (hr : r = st.region.val) (hg : g = e.regionAt i.core r)
    (hh : h = g.word1 w) (h12 : bit w 12 = false) (h13 : field w 13 3 = 0) (hbit : bit w 8 = true) (hring : g.ring = false) (hv : g.valid = false)
    (hck : (e.modRegion i.core r (fun x => x.word1 w)).regionCheck i.core r h = c) (hc : c ≠ 0) :
    Answers (.regionEnable th st) s (fun t => s.onlyDev t ∧ t.dev.regionAt i.core r = { h with status := c }
      ∧ (t.dev.regionAt i.core r).valid = false) := by
  subst hw hr hg hh hck
  have hst := Dev.descStore_enable hring h12 h13 hv hbit
  rw [if_neg hc] at hst
  refine desc_stores H st hbit hst (fun t hfuse hpend hm hdev _ => ?_)
  have hat : t.dev.regionAt i.core st.region.val = { (e.regionAt i.core st.region.val).word1 st.value.toNat with
      status := (e.modRegion i.core st.region.val (fun x => x.word1 st.value.toNat)).regionCheck i.core st.region.val
        ((e.regionAt i.core st.region.val).word1 st.value.toNat) } := by
    rw [hdev, Dev.retire_regionAt, Dev.regionStatus_at, Dev.modRegion_at]
  exact ⟨⟨hm, hfuse, hpend⟩, hat, by rw [hat]; exact hv⟩

/-- REGION_DISABLE of a valid region (R192). -/
theorem regionDisable_clears {g h : Region} {w r : Nat} (hw : w = st.value.toNat) (hr : r = st.region.val) (hg : g = e.regionAt i.core r)
    (hh : h = g.word1 w) (h12 : bit w 12 = false) (h13 : field w 13 3 = 0) (hbit : bit w 8 = false) (hring : g.ring = false) (hv : g.valid = true) :
    Answers (.regionDisable th st) s (fun t => t.fuse = s.fuse ∧ t.pending = s.pending
      ∧ t.mem = s.mem.apply [.clearMarks (e.regionLocal i.core g) g.bytes]
      ∧ t.dev.regionAt i.core r = { h with valid := false } ∧ (t.dev.thrAt i.k).pc = (i.pc + 4) % 2 ^ 64) := by
  subst hw hr hg hh
  refine desc_stores H st hbit (Dev.descStore_disable hring h12 h13 hv hbit) (fun t hfuse hpend hm hdev hpc => ⟨hfuse, hpend, hm, ?_, hpc⟩)
  rw [hdev, Dev.retire_regionAt, Dev.modRegion_at, Dev.disableRegion, Dev.modRegion_at]
  rfl

/-- A store to the descriptor of a ring region (R192). -/
theorem descInstr_ring {g : Region} {w r : Nat} (hw : w = st.value.toNat) (hr : r = st.region.val) (hg : g = e.regionAt i.core r)
    (hring : g.ring = true) : Answers (if bit w 8 then .regionEnable th st else .regionDisable th st) s (fun t => s.onlyDev t
      ∧ t.dev.regionAt i.core r = { g with status := 4 }) := by
  subst hw hr hg
  refine desc_stores H st (b := bit st.value.toNat 8) rfl (Dev.descStore_ring hring 1 st.value.toNat)
    (fun t hfuse hpend hm hdev _ => ⟨⟨hm, hfuse, hpend⟩, ?_⟩)
  rw [hdev, Dev.retire_regionAt, Dev.regionStatus_at]
  rfl

/-! ### PUSH and POP -/

section
variable {g : Region} {r : Fin 64} (hg : g = e.regionAt i.core r.val)
include hg

/-- A PUSH or POP on a region that is not valid (R193). -/
theorem ctrlInstr_invalid (push : Bool) (hv : g.valid = false) : Answers (ctrlInstr push th r) s (fun t => s.onlyDev t
      ∧ t.dev.regionAt i.core r.val = { g with status := 5 } ∧ t.dev.full = e.full ∧ t.dev.slotCnt = e.slotCnt
      ∧ (t.dev.thrAt i.k).pc = (i.pc + 4) % 2 ^ 64) := by
  subst hg
  exact ctrl_badOp H (Dev.ctrlOp_invalid (d := { e with free := e.free + 1 }) hv (ctrlCode push))

/-- A PUSH or POP of a program on a ring region (R193). -/
theorem ctrlInstr_ring (push : Bool) (hv : g.valid = true) (hring : g.ring = true) : Answers (ctrlInstr push th r) s (fun t => s.onlyDev t
      ∧ t.dev.regionAt i.core r.val = { g with status := 5 } ∧ t.dev.full = e.full ∧ t.dev.slotCnt = e.slotCnt
      ∧ (t.dev.thrAt i.k).cause = 5) := by
  subst hg
  have hop := Dev.ctrlOp_ring (d := { e with free := e.free + 1 }) hv hring push
  have hact : ctrlAct r.val (ctrlCode push) i s.fuse s.mem e
      = { dev := (({ e with free := e.free + 1 } : Dev).regionStatus i.core r.val rsBadOp).faultAt i 5 e.draw.1.toNat } := by
    rw [ctrlAct_stores r.isLt, hop]
  generalize hx : ({ e with free := e.free + 1 } : Dev).regionStatus i.core r.val rsBadOp = x at hact
  have hreg : x.regionAt i.core r.val = { e.regionAt i.core r.val with status := 5 } := by
    rw [← hx]
    exact Dev.regionStatus_at _ i.core r.val 5
  have hthr : x.thrAt i.k = e.thrAt i.k := by
    rw [← hx]
    rfl
  have hfull : x.full = e.full ∧ x.slotCnt = e.slotCnt := by
    rw [← hx]
    exact ⟨rfl, rfl⟩
  have hkeep : x.KeepsStores (x.faultAt i 5 e.draw.1.toNat) := x.threadFault_stores i.k 5 e.draw.1.toNat i.pc
  have hcause := (Dev.faultOf_eq (Dev.faultAt_faultOf (d := x) i e.draw.1.toNat (by rw [hthr]; exact H.faults) (by decide : (5 : Nat) ≠ 0))).1
  refine H.answers (exec_ctrlInstr push r) hact (fun t honly hdev => ?_)
  rw [hdev]
  exact ⟨honly, (Dev.regionAt_of_regn hkeep.regn i.core r.val).trans hreg, hkeep.full.trans hfull.1, hkeep.slotCnt.trans hfull.2, hcause⟩

variable (hv : g.valid = true) (hring : g.ring = false)
include hv hring

/-- A PUSH with room (R193). -/
theorem push_advances (hc : g.commit = false) (hroom : g.fill ≠ g.slots) : Answers (.push th r) s (fun t => s.onlyDev t
      ∧ t.dev.regionAt i.core r.val = { g with head := (g.head + 1) % 2 ^ 32 }
      ∧ t.dev.isFull i.core r.val (g.head % g.slots) = true ∧ (t.dev.thrAt i.k).pc = (i.pc + 4) % 2 ^ 64) := by
  have hop := Dev.ctrlOp_push (d := { e with free := e.free + 1 }) hg hv hring
  rw [if_neg (by rw [Bool.not_eq_true]; exact hc), if_neg hroom] at hop
  obtain ⟨t, hexec, honly, hdev, hpc⟩ := ctrl_done H (push := true) hop
  subst hg
  obtain ⟨hat, hfull⟩ := Dev.pushSlot_at { e with free := e.free + 1 } i.core r.val
  refine ⟨t, hexec, honly, ?_, ?_, hpc⟩
  · rw [hdev, Dev.retire_regionAt]
    exact hat
  · rw [hdev]
    exact hfull

/-- A PUSH on a full region with tags stalls (R193). -/
theorem push_stalls (hc : g.commit = false) (hfull : g.fill = g.slots) (htags : g.tags = true) : Answers (.push th r) s (fun t => s.onlyDev t
      ∧ t.dev.regn = e.regn ∧ t.dev.full = e.full ∧ (t.dev.thrAt i.k).state = .stall
      ∧ (t.dev.thrAt i.k).stall = some (.ctrl r.val true)) := by
  have hop := Dev.ctrlOp_push (d := { e with free := e.free + 1 }) hg hv hring
  rw [if_neg (by rw [Bool.not_eq_true]; exact hc), if_pos hfull, if_pos htags] at hop
  exact ctrl_stall H (push := true) hop

/-- A PUSH that the region does not take (R193). -/
theorem push_refused (hbad : g.commit = true ∨ g.fill = g.slots ∧ g.tags = false) : Answers (.push th r) s (fun t => s.onlyDev t
      ∧ t.dev.regionAt i.core r.val = { g with status := 5 } ∧ t.dev.full = e.full) := by
  have hop := Dev.ctrlOp_push (d := { e with free := e.free + 1 }) hg hv hring
  have hop' : ({ e with free := e.free + 1 } : Dev).ctrlOp i.core r.val 1
      = (.done, ({ e with free := e.free + 1 } : Dev).regionStatus i.core r.val rsBadOp) := by
    rw [hop]
    split
    · rfl
    · next hc =>
      obtain h | ⟨hfull, htags⟩ := hbad
      · exact absurd h hc
      · rw [if_pos hfull, if_neg (by rw [Bool.not_eq_true]; exact htags)]
  obtain ⟨t, hexec, honly, hat, hfull, -⟩ := ctrl_badOp H (push := true) hop'
  exact ⟨t, hexec, honly, hg ▸ hat, hfull⟩

/-- A POP of a filled slot (R193). -/
theorem pop_advances (hfill : g.fill ≠ 0) : Answers (.pop th r) s (fun t => s.onlyDev t
      ∧ t.dev.regionAt i.core r.val = { g with tail := (g.tail + 1) % 2 ^ 32 }
      ∧ t.dev.isFull i.core r.val (g.tail % g.slots) = false ∧ t.dev.slotCount i.core r.val (g.tail % g.slots) = 0
      ∧ (t.dev.thrAt i.k).pc = (i.pc + 4) % 2 ^ 64) := by
  have hop := Dev.ctrlOp_pop (d := { e with free := e.free + 1 }) hg hv hring
  rw [if_neg hfill] at hop
  obtain ⟨t, hexec, honly, hdev, hpc⟩ := ctrl_done H (push := false) hop
  subst hg
  obtain ⟨hat, hfull, hcnt⟩ := Dev.popSlot_at { e with free := e.free + 1 } i.core r.val
  refine ⟨t, hexec, honly, ?_, ?_, ?_, hpc⟩
  · rw [hdev, Dev.retire_regionAt]
    exact hat
  · rw [hdev]
    exact hfull
  · rw [hdev]
    exact hcnt

/-- A POP on an empty region with tags stalls (R193). -/
theorem pop_stalls (hfill : g.fill = 0) (htags : g.tags = true) : Answers (.pop th r) s (fun t => s.onlyDev t ∧ t.dev.regn = e.regn
      ∧ t.dev.full = e.full ∧ (t.dev.thrAt i.k).state = .stall ∧ (t.dev.thrAt i.k).stall = some (.ctrl r.val false)) := by
  have hop := Dev.ctrlOp_pop (d := { e with free := e.free + 1 }) hg hv hring
  rw [if_pos hfill, if_pos htags] at hop
  exact ctrl_stall H (push := false) hop

/-- A POP on an empty region without tags (R193). -/
theorem pop_refused (hfill : g.fill = 0) (htags : g.tags = false) : Answers (.pop th r) s (fun t => s.onlyDev t
      ∧ t.dev.regionAt i.core r.val = { g with status := 5 } ∧ t.dev.full = e.full) := by
  have hop := Dev.ctrlOp_pop (d := { e with free := e.free + 1 }) hg hv hring
  rw [if_pos hfill, if_neg (by rw [Bool.not_eq_true]; exact htags)] at hop
  obtain ⟨t, hexec, honly, hat, hfull, -⟩ := ctrl_badOp H (push := false) hop
  exact ⟨t, hexec, honly, hg ▸ hat, hfull⟩

end

end

/-! ### Tags, the UNINIT word, complete slots -/

theorem tagWake_of_tag {d : Dev} {k key slot : Nat} {wantFull : Bool} (h : (d.thrAt k).stall = some (.tag key slot wantFull)) :
    tagWake k d = if (d.regionAt (key / 64) (key % 64)).valid && (d.regionAt (key / 64) (key % 64)).tags
        && d.isFull (key / 64) (key % 64) slot ≠ wantFull then d
      else d.modThr k (fun t => { t with state := .ready, stall := none }) := by
  simp only [tagWake, h]

/-- The UNINIT word with MULTI alone. -/
theorem multi_word (b : Bool) : BitVec.ofNat 64 (2 * b2n b) = if b then 2 else 0 := by cases b <;> rfl

/-- A store to the UNINIT word with a one for SEEN clears SEEN, UNIT and ADDR (R200). -/
theorem Dev.clearUninit_seen (d : Dev) (core : Nat) {v : Nat} (h : bit v 0 = true) : (d.clearUninit core v).coreAt core
    = { d.coreAt core with uninit := if bit (d.coreAt core).uninit.toNat 1 && !bit v 1 then 2 else 0 } := by
  simp only [Dev.clearUninit, Dev.modCore, Dev.coreAt, tblGet_mod_self, h, Bool.not_true, Bool.and_false, Bool.false_eq_true, if_false,
    multi_word]
  congr 1

/-- A store to the UNINIT word with a one for MULTI alone clears MULTI (R200). -/
theorem Dev.clearUninit_multi (d : Dev) (core : Nat) {v : Nat} (h0 : bit v 0 = false) (h1 : bit v 1 = true)
    (hseen : bit (d.coreAt core).uninit.toNat 0 = true) : (d.clearUninit core v).coreAt core
    = { d.coreAt core with uninit := BitVec.ofNat 64 (setField (d.coreAt core).uninit.toNat 1 1 0) } := by
  unfold Dev.coreAt at hseen
  simp only [Dev.clearUninit, Dev.modCore, Dev.coreAt, tblGet_mod_self, h0, h1, hseen, Bool.not_true, Bool.not_false, Bool.and_false, Bool.and_true,
    if_true, b2n, Bool.false_eq_true, if_false]

/-- A complete slot of a region that is not a ring's (R195). -/
theorem Dev.slotFull_of_not_ring {d : Dev} {core r : Nat} (h : (d.regionAt core r).ring = false) : d.slotFull core r = d.pushSlot core r := by
  simp only [Dev.slotFull, (d.pushSlot_at core r).1, h, Bool.false_eq_true, if_false]

end Sys2Proof.Machine

namespace Sys2Proof.Proofs

open Sys2Proof.Machine Sys2Proof.Laws

/-- Settles O50: descriptor stores, the CTRL operations, the wake of a tag, the UNINIT word and the complete slot, row by row. -/
theorem regions : Obligations.Regions := by
  unfold Obligations.Regions
  refine ⟨?_, ?_, ?_, ?_, ?_, ?_⟩
  · intro th st w r g h i e s H hw hr hg hh h12 h13
    refine ⟨fun hbit hring hv => ⟨?_, fun c => ?_⟩, ?_, ?_⟩
    · exact regionEnable_passes H st hw hr hg hh h12 h13 hbit hring hv
    · exact regionEnable_fails H st hw hr hg hh h12 h13 hbit hring hv
    · exact regionDisable_clears H st hw hr hg hh h12 h13
    · exact descInstr_ring H st hw hr hg
  · intro th r g i e s H hg hv hring
    exact ⟨push_advances H hg hv hring, push_stalls H hg hv hring, push_refused H hg hv hring, pop_advances H hg hv hring,
      pop_stalls H hg hv hring, pop_refused H hg hv hring⟩
  · intro th r g i e s H hg j hj
    have hrow : ∃ push, j = ctrlInstr push th r := by
      simp only [List.mem_cons, List.not_mem_nil, or_false] at hj
      obtain rfl | rfl := hj
      · exact ⟨true, rfl⟩
      · exact ⟨false, rfl⟩
    obtain ⟨push, rfl⟩ := hrow
    exact ⟨ctrlInstr_invalid H hg push, ctrlInstr_ring H hg push⟩
  · intro th key slot wantFull g s hst hg
    subst hg
    refine ⟨fun hgo => ?_, fun hv htags hfull => answers_same rfl ?_⟩
    · refine answers_device (d := s.dev.modThr (thrNo th) (fun t => { t with state := .ready, stall := none })) rfl ?_
        (fun t honly hdev => ⟨honly, by rw [hdev, Dev.modThr_thrAt_self]⟩)
      simp only [Act.dev, tagWake_of_tag hst]
      rw [if_neg]
      obtain h | h | h := hgo <;> simp [h]
    · simp only [Act.dev, tagWake_of_tag hst, hv, htags, hfull, ne_eq, not_false_eq_true, decide_true, Bool.and_self, if_true]
  · intro u v k s hk
    subst hk
    refine ⟨fun h => ?_, fun h0 h1 hseen => ?_⟩
    · exact answers_device (d := s.dev.clearUninit (coreNo u.die.val u.core.val) v.toNat) rfl rfl
        (fun t honly hdev => ⟨honly, by rw [hdev, Dev.clearUninit_seen _ _ h]⟩)
    · exact answers_device (d := s.dev.clearUninit (coreNo u.die.val u.core.val) v.toNat) rfl rfl
        (fun t honly hdev => ⟨honly, by rw [hdev, Dev.clearUninit_multi _ _ h0 h1 hseen]⟩)
  · intro u r k g s hk hg
    subst hk hg
    refine ⟨fun hv hc hring hfill hexp => ?_, fun hno => answers_same rfl ?_⟩
    · obtain ⟨hat, hfull⟩ := s.dev.pushSlot_at (coreNo u.die.val u.core.val) r.val
      refine answers_device (d := s.dev.pushSlot (coreNo u.die.val u.core.val) r.val) rfl ?_
        (fun t honly hdev => ⟨honly, by rw [hdev, hat], by rw [hdev, hfull]⟩)
      simp only [Act.dev, Dev.slotComplete, hv, hc, hfill, hexp, decide_true, Bool.and_self, if_true, Dev.slotFull_of_not_ring hring]
    · have hnot : s.dev.slotComplete (coreNo u.die.val u.core.val) r.val = false := by
        unfold Dev.slotComplete
        obtain h | h | h | h := hno <;> simp [h]
      simp only [Act.dev, hnot, Bool.false_eq_true, if_false]

end Sys2Proof.Proofs
end

section
/-! Commands of engines and vector units: when a row performs its command, and the completion (R25, R120 to R125, R160). -/

namespace Sys2Proof.Machine

open Sys2Proof.Laws

/-! ### The front command -/

section
variable {core q op : Nat} {body : CtxId → QCmd → Mem → Dev → CmdEnd} {fu : Fuses} {m : Mem} {d : Dev} {c : CtxId} {x : QCmd}

theorem runFront_none (h : d.frontCmd core q = none) : runFront core q op body fu m d = { dev := d } := by
  simp only [runFront, h]

theorem runFront_other (h : d.frontCmd core q = some (c, x)) (hop : x.op ≠ op) : runFront core q op body fu m d = { dev := d } := by
  simp only [runFront, h, hop, ne_eq, not_false_eq_true, if_true]

/-- A unit whose domain is off completes every command with UNIT_NOT_ADMITTED (R25, R160). -/
theorem runFront_notAdmitted (h : d.frontCmd core q = some (c, x)) (hop : x.op = op) (ha : d.admitted (queueGroup core q) = false) :
    runFront core q op body fu m d = { dev := d.executed core q x 6 } := by
  simp only [runFront, h, hop, ha, ne_eq, not_true_eq_false, if_false, Bool.not_false, if_true]
  rfl

/-- A command that may start ends as its body says on memory in which what it races with is as it was or as it is (R121). -/
theorem runFront_starts (H : d.CmdStarts core q op c x) : runFront core q op body fu m d =
    match body c x (d.raced m core q x).1 (d.raced m core q x).2 with
    | .wait => { dev := d }
    | .fail st f => { dev := f.executed core q x st }
    | .done fp po un f es => { dev := (f.executed core q x (complWord 0 fp po un)).wrote m c core q x es, mem := es } := by
  simp only [runFront, H.front, H.op, H.admitted, ne_eq, not_true_eq_false, if_false, Bool.not_true, Bool.false_eq_true]
  rfl

/-- Where nothing races, a command reads memory as it is (R121). -/
theorem Dev.raced_of_none (h : d.racing core q x = []) : d.raced m core q x = (m, d) := by
  simp only [Dev.raced, h, List.filter_nil, List.map_nil, List.eraseDups_nil, List.foldl_nil]

end

/-- What a row of an engine or a vector unit does with its queue's front command (R25, R120 to R125). -/
theorem row_performs {j : Instr} {s : State} {core q op : Nat} {body : CtxId → QCmd → Mem → Dev → CmdEnd}
    (he : exec j s = .next (s.run (runFront core q op body))) :
    (s.dev.frontCmd core q = none → Answers j s (fun t => t = s))
    ∧ (∀ c x, s.dev.frontCmd core q = some (c, x) → x.op ≠ op → Answers j s (fun t => t = s))
    ∧ (∀ c x, s.dev.frontCmd core q = some (c, x) → x.op = op → s.dev.admitted (queueGroup core q) = false →
      Answers j s (fun t => t = s.withDev (s.dev.executed core q x 6)))
    ∧ (∀ c x r, s.dev.CmdStarts core q op c x → s.dev.raced s.mem core q x = r →
      (body c x r.1 r.2 = .wait → Answers j s (fun t => t = s))
      ∧ (∀ st f, body c x r.1 r.2 = .fail st f → Answers j s (fun t => t = s.withDev (f.executed core q x st)))
      ∧ (∀ fp po un f es, body c x r.1 r.2 = .done fp po un f es →
        Answers j s (fun t => t.fuse = s.fuse ∧ t.pending = s.pending ∧ t.mem = s.mem.apply es
          ∧ t.dev = (f.executed core q x (complWord 0 fp po un)).wrote s.mem c core q x es))) := by
  refine ⟨fun h => answers_same he (runFront_none h), fun c x h hop => answers_same he (runFront_other h hop),
    fun c x h hop ha => answers_of_dev he (runFront_notAdmitted h hop ha) rfl, ?_⟩
  rintro c x r H rfl
  refine ⟨fun hb => answers_same he ?_, fun st f hb => answers_of_dev he (d := f.executed core q x st) ?_ rfl,
    fun fp po un f es hb => answers_of_act he (r := { dev := (f.executed core q x (complWord 0 fp po un)).wrote s.mem c core q x es, mem := es })
      ?_ ⟨rfl, rfl, rfl, rfl⟩⟩
  · rw [runFront_starts H, hb]
  · rw [runFront_starts H, hb]
  · rw [runFront_starts H, hb]

/-! ### Signals -/

/-- A counter fault of any identifier (R270). -/
theorem Dev.syncFault_updates (d : Dev) (c : CtxId) (die vid : Nat) (inc : Int) (cause : Nat) (s : Signaller) :
    d.Updates (d.syncFault c die vid inc cause s) := by
  cases hp : d.physOf c die vid with
  | some p => exact (Dev.syncFault_marks hp inc cause s).1
  | none =>
    unfold Dev.syncFault
    simp only [hp]
    generalize hy : d.event c 4 _ = y
    have h1 : d.Updates (y.count SYN_STAT.FAULTS die) := (Dev.Updates.of_reports (hy ▸ Dev.Reports.event d c 4 _)).trans
      (.of_same (Dev.count_que _ _ _ _) (Dev.count_core _ _ _ _) (Dev.count_thr _ _ _ _))
    generalize y.count SYN_STAT.FAULTS die = z at h1
    split
    · exact h1.trans .modCtx
    · exact h1

/-- Settling the drivers of a latch line changes the sync store alone (R273, R274). -/
theorem Dev.latchSettle_updates (d : Dev) (line : Nat) : d.Updates (d.latchSettle line) := by
  unfold Dev.latchSettle
  split
  · exact .refl
  · simp only
    split
    · exact .of_same rfl rfl rfl
    · exact .of_same rfl rfl rfl

theorem Dev.bump_updates (d : Dev) (c : CtxId) (die vid p : Nat) (inc : Int) (s : Signaller) : d.Updates (d.bump c die vid p inc s).2 := by
  unfold Dev.bump
  simp only
  split
  · split
    · exact d.syncFault_updates _ _ _ _ _ _
    · split
      · exact d.syncFault_updates _ _ _ _ _ _
      · exact Dev.Updates.modSync.trans (Dev.latchSettle_updates _ _)
  · split
    · exact d.syncFault_updates _ _ _ _ _ _
    · split
      · exact .refl
      · split
        · exact d.syncFault_updates _ _ _ _ _ _
        · split
          · exact d.syncFault_updates _ _ _ _ _ _
          · exact Dev.Updates.modSync.trans (Dev.offered_updates _ _ _ _ _ _ _).1

/-- A command's signal leaves queues and cores (R269). -/
theorem Dev.cmdSignal_updates (d : Dev) (c : CtxId) (die vid : Nat) (s : Signaller) : d.Updates (d.cmdSignal c die vid s) := by
  unfold Dev.cmdSignal
  split
  · exact d.syncFault_updates _ _ _ _ _ _
  · simp only
    split
    · exact d.syncFault_updates _ _ _ _ _ _
    · exact d.bump_updates _ _ _ _ _ _

/-- A command's signal adds one to an EVENT object below its limit (R269, R270). -/
theorem Dev.cmdSignal_adds {d : Dev} {c : CtxId} {die vid p : Nat} (s : Signaller) (hp : d.physOf c die vid = some p)
    (hkind : (d.syncAt die p).kind = kEvent) (hlim : (d.syncAt die p).value < (d.syncAt die p).limit) :
    ((d.cmdSignal c die vid s).syncAt die p).value = (d.syncAt die p).value + 1 := by
  have hpriv : ¬ (kEvent = kProd ∨ kEvent = kCons) := by decide
  obtain ⟨x, hbump, -, hx⟩ := Dev.bump_adds (c := c) (vid := vid) (inc := 1) s hkind (by decide) (by decide) (by decide) (by omega) (by omega)
  have hsig : d.cmdSignal c die vid s = x := by
    simp only [Dev.cmdSignal, hp, hkind, Bool.or_eq_true, decide_eq_true_eq, hpriv, if_false, hbump]
  rw [hsig, hx]
  show (((d.syncAt die p).value : Int) + 1).toNat = _
  omega

/-! ### Completion -/

/-- The races that end with a command are all that its end changes beside its queue (R121). -/
theorem Dev.settlePast_frame (d : Dev) (core q : Nat) (x : QCmd) : ∃ p, d.settlePast core q x = { d with past := p } := by
  unfold Dev.settlePast
  split
  · exact ⟨_, rfl⟩
  · split
    · exact ⟨_, rfl⟩
    · split
      · exact ⟨_, rfl⟩
      · exact ⟨_, rfl⟩

/-- A queue without a command, with the word of its completion (R122, R123). -/
def Queue.completed (u : Queue) (x : QCmd) (w : Nat) : Queue :=
  { u with cmds := u.cmds.filter (fun y => y.accept ≠ x.accept), lastWord := w, lastTag := x.tag }

/-- A command's word in its queue and in MFPSTAT, before it signals or stops the queue. -/
def Dev.takeWord (d : Dev) (core q : Nat) (x : QCmd) (w : Nat) : Dev :=
  ((d.modQue core q (fun u => u.completed x w)).settlePast core q x).orFpstat core w

theorem Dev.takeWord_at (d : Dev) (core q : Nat) (x : QCmd) (w : Nat) :
    (d.takeWord core q x w).queAt core q = (d.queAt core q).completed x w ∧ (d.takeWord core q x w).sync = d.sync
      ∧ ((d.takeWord core q x w).coreAt core).fpstat = (d.coreAt core).fpstat ||| field w 8 8 := by
  have hq : (d.modQue core q (fun u => u.completed x w)).queAt core q = (d.queAt core q).completed x w := d.modQue_at core q _
  have hs : (d.modQue core q (fun u => u.completed x w)).sync = d.sync := rfl
  have hc : (d.modQue core q (fun u => u.completed x w)).core = d.core := rfl
  unfold Dev.takeWord
  generalize d.modQue core q (fun u => u.completed x w) = e at hq hs hc
  obtain ⟨p, hp⟩ := e.settlePast_frame core q x
  rw [hp]
  refine ⟨hq, hs, ?_⟩
  simp only [Dev.orFpstat, Dev.modCore, Dev.coreAt, tblGet_mod_self, hc]

theorem Dev.endCmd_fails (d : Dev) (c : CtxId) (core q : Nat) (x : QCmd) {w : Nat} (hw : w % 256 ≠ 0) :
    d.endCmd c core q x w = (d.takeWord core q x w).stopQue core q w x.tag := if_pos hw

theorem Dev.endCmd_ok (d : Dev) (c : CtxId) (core q : Nat) (x : QCmd) {w : Nat} (hw : w % 256 = 0) :
    d.endCmd c core q x w = if x.sig then
        (d.takeWord core q x w).cmdSignal c (core / 12) x.sync ⟨(d.takeWord core q x w).moduleId, queueUnit core q, none, 2⟩
      else d.takeWord core q x w := if_neg (fun h => h hw)

/-- A failure stops the queue and is kept, unless one is kept already (R124, R167). -/
theorem Dev.endCmd_stops (d : Dev) (c : CtxId) (core q : Nat) (x : QCmd) {w : Nat} (hw : w % 256 ≠ 0) :
    (d.endCmd c core q x w).sync = d.sync ∧ (d.endCmd c core q x w).queAt core q = { (d.queAt core q).completed x w with
      stopped := true, fail := some (((d.queAt core q).fail).getD (w, x.tag)) } := by
  obtain ⟨hq, hs, -⟩ := d.takeWord_at core q x w
  rw [d.endCmd_fails c core q x hw]
  refine ⟨hs, ?_⟩
  rw [Dev.stopQue, Dev.modQue_at, hq]
  have hfail : ((d.queAt core q).completed x w).fail = (d.queAt core q).fail := rfl
  rw [hfail]
  cases (d.queAt core q).fail <;> rfl

/-- OK takes the command out of the queue, shows its word and signals (R122, R123, R269). -/
theorem Dev.endCmd_completes (d : Dev) (c : CtxId) (core q : Nat) (x : QCmd) {w : Nat} (hw : w % 256 = 0) :
    (d.endCmd c core q x w).queAt core q = (d.queAt core q).completed x w
    ∧ ((d.endCmd c core q x w).coreAt core).fpstat = (d.coreAt core).fpstat ||| field w 8 8
    ∧ (x.sig = false → (d.endCmd c core q x w).sync = d.sync)
    ∧ (∀ p, x.sig = true → d.physOf c (core / 12) x.sync = some p → (d.syncAt (core / 12) p).kind = kEvent →
      (d.syncAt (core / 12) p).value < (d.syncAt (core / 12) p).limit →
      ((d.endCmd c core q x w).syncAt (core / 12) p).value = (d.syncAt (core / 12) p).value + 1) := by
  obtain ⟨hq, hs, hf⟩ := d.takeWord_at core q x w
  rw [d.endCmd_ok c core q x hw]
  generalize d.takeWord core q x w = e at hq hs hf
  have hphys : ∀ die vid, e.physOf c die vid = d.physOf c die vid := fun die vid => by simp only [Dev.physOf, hs]
  have hobj := Dev.syncAt_of_sync hs (core / 12)
  cases hsig : x.sig with
  | false => exact ⟨hq, hf, fun _ => hs, fun _ h => absurd h (by decide)⟩
  | true =>
    have hup := e.cmdSignal_updates c (core / 12) x.sync ⟨e.moduleId, queueUnit core q, none, 2⟩
    refine ⟨(Dev.queAt_of_que hup.que core q).trans hq, ?_, fun h => absurd h (by decide), fun p _ hp hkind hlim => ?_⟩
    · rw [← hf, Dev.coreAt, if_pos rfl, hup.core]
      rfl
    · rw [if_pos rfl, Dev.cmdSignal_adds _ (by rw [hphys]; exact hp) (by rw [hobj]; exact hkind) (by rw [hobj]; exact hlim), hobj]

end Sys2Proof.Machine

namespace Sys2Proof.Proofs

open Sys2Proof.Machine Sys2Proof.Laws

/-- Settles O45: every row runs its queue's front command, and the completion ends it. -/
theorem unitCommands : Obligations.UnitCommands := by
  unfold Obligations.UnitCommands
  refine ⟨?_, ?_, ?_⟩
  · intro e core s hcore p hp
    have hgroup : queueGroup core e.k.val = engGroup core e.k.val := if_pos e.k.isLt
    have he : exec p.1 s = .next (s.run (runFront core e.k.val p.2.1 (p.2.2 core e.k.val))) := by
      subst hcore
      simp only [engineRows, List.mem_cons, List.not_mem_nil, or_false] at hp
      rcases hp with rfl | rfl | rfl | rfl | rfl | rfl | rfl <;> rfl
    obtain ⟨h1, h2, h3, h4⟩ := row_performs he
    rw [hgroup] at h3
    exact ⟨h1, h2, h3, h4, fun x hx => Dev.raced_of_none hx⟩
  · intro u core s hcore p hp
    have he : exec p.1 s = .next (s.run (runFront core 4 p.2.1 (p.2.2 core))) := by
      subst hcore
      simp only [vectorRows, List.mem_cons, List.not_mem_nil, or_false] at hp
      rcases hp with rfl | rfl | rfl | rfl | rfl <;> rfl
    exact row_performs he
  · intro u core c x rest s hcore hq hholder hrun hcmds
    have hact : ∀ d', s.dev.completeFront core u.q.val = d' → ∀ P : State → Prop, (∀ t, s.onlyDev t → t.dev = d' → P t) →
        Answers (.commandCompletion u) s P := by
      rintro d' rfl P hP
      subst hcore
      refine answers_device (d := s.dev.completeFront (coreNo u.die.val u.core.val) u.q.val) rfl ?_ hP
      simp only [Act.dev, hq, if_true]
    have hnot : ¬ (s.dev.ctxAt c).state ≠ .running := fun h => h hrun
    have hqueue : ∀ w, (s.dev.queAt core u.q.val).completed x w = { s.dev.queAt core u.q.val with
        cmds := (x :: rest).filter (fun y => y.accept ≠ x.accept), lastWord := w, lastTag := x.tag } := fun w => by
      rw [Queue.completed, hcmds]
    have hword : ∀ w, x.result = some w → s.dev.completeFront core u.q.val = s.dev.endCmd c core u.q.val x w := fun w hw => by
      simp only [Dev.completeFront, hholder, hcmds, hnot, if_false, hw]
    refine ⟨fun w hw hfail => ?_, fun w hw hok => ?_, fun hnone hfront hop hadm => ?_⟩
    · obtain ⟨hsync, hque⟩ := s.dev.endCmd_stops c core u.q.val x hfail
      rw [hqueue] at hque
      exact hact _ (hword w hw) _ (fun t honly hdev => ⟨honly, by rw [hdev, hsync], by rw [hdev, hque]⟩)
    · obtain ⟨hque, hfp, hsync, hevent⟩ := s.dev.endCmd_completes c core u.q.val x hok
      rw [hqueue] at hque
      refine hact _ (hword w hw) _ (fun t honly hdev => ?_)
      rw [hdev]
      exact ⟨honly, hque, hfp, hsync, hevent⟩
    · have hbad : s.dev.completeFront core u.q.val = s.dev.endCmd c core u.q.val x 1 := by
        simp only [Dev.completeFront, hholder, hcmds, hnot, if_false, hnone, hfront, hop, hadm, Option.isSome_some, Bool.not_false, Bool.and_self,
          if_true]
        rfl
      obtain ⟨-, hque⟩ := s.dev.endCmd_stops c core u.q.val x (w := 1) (by decide)
      rw [hqueue] at hque
      exact hact _ hbad _ (fun t honly hdev => by rw [hdev, hque]; exact ⟨honly, rfl, rfl, rfl⟩)

end Sys2Proof.Proofs
end

section
/-! What a stream engine does with the next piece of a LINEAR transfer of bytes (R207, R218, R220, R223 to R225, R234). -/

namespace Sys2Proof.Machine

open Sys2Proof.Laws

/-! ### Clean source reads -/

theorem Mem.length_read (m : Mem) (a n : Nat) : (m.read a n).length = n := by
  simp only [Mem.read, List.length_map, List.length_range]

/-- A clean read of memory gives its bytes, none of them cold (R199, R202). -/
theorem Dev.homeRead_of {d : Dev} {m : Mem} {c : CtxId} {a n : Nat} (H : d.ReadsClean m c a n) :
    d.homeRead m c (.mem a) n = .data (m.read a n) false false := by
  simp only [Dev.homeRead, H.check, H.tags, H.clean, H.written, Bool.false_eq_true, if_false]

theorem Dev.readParts_clean {d : Dev} {m : Mem} {c : CtxId} {a n : Nat} (H : d.ReadsClean m c a n) (v : Nat) :
    d.readParts m c [⟨.here (.mem a), v, n⟩] = .data ⟨m.read a n, [(a, n)], none⟩ := by
  simp only [Dev.readParts, List.foldl_cons, List.foldl_nil, Dev.homeRead_of H, List.nil_append, Option.isSome_none, Bool.false_or, Bool.not_false,
    if_true]

/-- No part of clean bytes is poisoned. -/
theorem SrcData.poison_clean {m : Mem} {a n : Nat} (h : m.poisoned a n = false) (o l : Nat) :
    (⟨m.read a n, [(a, n)], none⟩ : SrcData).poison m o l = false := by
  have hhi : Nat.min (o + l) n ≤ n := Nat.min_le_right _ _
  simp only [SrcData.poison, List.foldl_cons, List.foldl_nil, Bool.false_or, Nat.zero_add, Nat.sub_zero, Nat.max_eq_left (Nat.zero_le o)]
  by_cases hlt : o < Nat.min (o + l) n
  · rw [Mem.poisoned_part h (by omega) (by omega) (by omega), Bool.and_false]
  · rw [decide_eq_false hlt, Bool.false_and]

theorem poisonBits_of_none {ps : List Bool} (h : ∀ p ∈ ps, p = false) : poisonBits ps = 0 := by
  have hnone : (List.range ps.length).filter (fun i => ps.getD i false) = [] := by
    rw [List.filter_eq_nil_iff]
    intro i hi
    rw [List.mem_range] at hi
    rw [List.getD_eq_getElem _ _ hi, h _ (List.getElem_mem hi)]
    decide
  rw [poisonBits, hnone]
  rfl

/-! ### The descriptor of a LINEAR transfer of bytes -/

section
variable {b : Bytes} (hf : dsSfmt b = dsDfmt b)
include hf

theorem dsConv_of_same : dsConv b = false := by simp only [dsConv, hf, ne_eq, not_true_eq_false, decide_false]

theorem dsSizes_of_same : dsSizes b = (1, 1) := by simp only [dsSizes, dsConv_of_same hf, Bool.false_eq_true, if_false]

theorem dsRunDst_linear (hk : dsKind b = 1) : dsRunDst b = dsLen b := by
  simp only [dsRunDst, dsRunSrc, dsSizes_of_same hf, hk, Nat.reduceEqDiff, if_false, Nat.div_one, Nat.mul_one]

end

theorem dsRuns_linear {b : Bytes} (hk : dsKind b = 1) : dsRuns b = 1 := by simp only [dsRuns, hk]

theorem Dev.runEnds_linear {b : Bytes} (hk : dsKind b = 1) (d : Dev) (m : Mem) (c : CtxId) (k run : Nat) :
    d.runEnds m c k b run = .ends ⟨dsSrcKind b, dsSrc b, dsDstKind b, dsDst b, false⟩ d false false := by
  simp only [Dev.runEnds, hk]

/-! ### One piece -/

/-- How many bytes of its run a transfer tries to move next: the rest of a short write, or of a segment (R223). -/
def Transfer.nextPiece (t : Transfer) : Nat :=
  if dsLen t.desc ≤ 256 then dsLen t.desc - t.off else segLeft (segments (dsLen t.desc) (dsSeg t.desc)) t.off

/-- What a piece that is put at its destination leaves: the transfer has moved on. -/
theorem Dev.issueStep_moves {d f x : Dev} {m : Mem} {k a b n out : Nat} {c : CtxId} {t : Transfer} {es : List MemEff}
    (H : d.MovesPiece m k c t a b n f) (hn : t.nextPiece = n)
    (hpage : dsLen t.desc ≤ 256 → addr64 (dsDst t.desc) (t.off : Nat) % 4096 + n ≤ 4096)
    (hput : f.putBytes m c ⟨k, t.accept, t.index, addr64 (dsDst t.desc) (t.off : Nat)⟩ (.here (.mem b)) (m.read a n) 0
      (decide (dsLen t.desc ≤ 256)) (some a) = .done x es out) :
    d.issueStep m c k t = .step (x.modTransfer k t.accept t.index (fun y => y.advance 1 (dsLen t.desc) n out)) es := by
  obtain ⟨⟨e, hsrc, hclean, hdst⟩, hplain, -⟩ := H
  obtain ⟨hkind, hfmt, hbram, hcast, hpops⟩ := hplain
  have hshort : (if decide (dsLen t.desc ≤ 256) && !false then dsLen t.desc - t.off else segLeft (segments (dsLen t.desc) (dsSeg t.desc)) t.off) = n := by
    rw [← hn, Transfer.nextPiece]
    simp only [Bool.not_false, Bool.and_true, decide_eq_true_eq]
  have hread := Dev.readParts_clean hclean (addr64 (dsSrc t.desc) (t.off : Nat))
  have hwant : ceilDiv (t.off + n) 1 - t.off = n := by simp [ceilDiv]
  have hmarks : ∀ ps : List Nat, poisonBits (ps.map (fun _ => false)) = 0 := fun ps => poisonBits_of_none (fun p hp => by
    obtain ⟨-, -, rfl⟩ := List.mem_map.mp hp
    rfl)
  have hlen : (if decide (dsLen t.desc ≤ 256) then Nat.min n (4096 - addr64 (dsDst t.desc) (t.off : Nat) % 4096) else n) = n := by
    split
    · next h =>
      have := hpage (by simpa using h)
      simp only [Nat.min_def]
      split <;> omega
    · rfl
  have hall : (m.read a n).take n = m.read a n := List.take_of_length_le (by rw [Mem.length_read])
  rw [strCore] at hsrc hdst
  have hnote : e.noteSource c k t none false 0 = .ok (e.afterRead k t) := rfl
  unfold Dev.issueStep
  simp only [hpops, hbram, Dev.runEnds_linear hkind, ne_eq, not_true_eq_false, Bool.or_self, Bool.false_eq_true, if_false]
  unfold Dev.issueRun
  simp only [dsRunDst_linear hfmt hkind, dsRuns_linear hkind, dsSizes_of_same hfmt, dsConv_of_same hfmt, hcast, hkind, hshort, Nat.reduceEqDiff,
    Bool.false_eq_true, if_false, Nat.div_one, Nat.mul_one, hwant, hsrc, localLead, List.takeWhile, List.map_cons, List.map_nil, List.foldl_cons,
    List.foldl_nil, Nat.zero_add, Nat.lt_irrefl, hread, Bool.false_or, SrcData.poison_clean hclean.clean, Nat.sub_self, hnote, List.drop_zero]
  unfold Dev.issueBytes
  simp only [hcast, hlen, hdst, List.head?_cons, hall, hmarks, Bool.not_false, Bool.and_true, Bool.false_eq_true, if_false, hput]

end Sys2Proof.Machine
end

section
/-! What the commands of a stream engine start, set or write (R207, R212 to R218, R226, R229, R232). -/

namespace Sys2Proof.Machine

open Sys2Proof.Laws

/-! ### Records that are put together -/

theorem leNat_leBytes (n v : Nat) : leNat (leBytes n v) = v % 256 ^ n := by
  induction n generalizing v with
  | zero => simp only [leBytes, leNat, Nat.pow_zero, Nat.mod_one]
  | succ n ih =>
    have hmod : v % 256 ^ (n + 1) = v % 256 + 256 * (v / 256 % 256 ^ n) := by rw [pow_succ', Nat.mod_mul]
    rw [leBytes, leNat, ih, BitVec.toNat_ofNat, hmod]

/-- A field of a record that is put together from its parts. -/
theorem rd_of_parts {bs pre post : Bytes} {o n v : Nat} (h : bs = pre ++ (leBytes n v ++ post)) (ho : pre.length = o) :
    rd bs o n = v % 256 ^ n := by
  subst h ho
  have hlen := length_leBytes n v
  rw [rd, sub, List.drop_left' rfl, List.take_left' hlen]
  simp only [hlen, Nat.sub_self, List.replicate_zero, List.append_nil, leNat_leBytes]

/-! ### Fields of the descriptor of an XFER or a SHORT -/

section
variable (src dst sk dk len seg mask : Nat) (mc : Bool)

theorem dsLen_linearDesc (h : len < 2 ^ 32) : dsLen (linearDesc src dst sk dk len seg mc mask) = len :=
  (rd_of_parts (pre := leBytes 1 1 ++ leBytes 1 (8 * b2n mc) ++ leBytes 1 (sk + 4 * dk) ++ zeros 5 ++ leBytes 8 src ++ leBytes 8 dst)
    (post := zeros 25 ++ leBytes 1 mask ++ leBytes 1 seg ++ zeros 1 ++ leBytes 2 0xFFFF ++ zeros 6)
    (by simp only [linearDesc, List.append_assoc])
    (by simp only [List.length_append, length_leBytes, zeros, List.length_replicate])).trans (Nat.mod_eq_of_lt h)

theorem dsDst_linearDesc (h : dst < 2 ^ 64) : dsDst (linearDesc src dst sk dk len seg mc mask) = dst :=
  (rd_of_parts (pre := leBytes 1 1 ++ leBytes 1 (8 * b2n mc) ++ leBytes 1 (sk + 4 * dk) ++ zeros 5 ++ leBytes 8 src)
    (post := leBytes 4 len ++ zeros 25 ++ leBytes 1 mask ++ leBytes 1 seg ++ zeros 1 ++ leBytes 2 0xFFFF ++ zeros 6)
    (by simp only [linearDesc, List.append_assoc])
    (by simp only [List.length_append, length_leBytes, zeros, List.length_replicate])).trans (Nat.mod_eq_of_lt h)

/-- The byte of its address kinds. -/
theorem kinds_linearDesc (h : sk + 4 * dk < 256) : rdb (linearDesc src dst sk dk len seg mc mask) 2 = sk + 4 * dk :=
  (rd_of_parts (pre := leBytes 1 1 ++ leBytes 1 (8 * b2n mc))
    (post := zeros 5 ++ leBytes 8 src ++ leBytes 8 dst ++ leBytes 4 len ++ zeros 25 ++ leBytes 1 mask ++ leBytes 1 seg ++ zeros 1
      ++ leBytes 2 0xFFFF ++ zeros 6)
    (by simp only [linearDesc, List.append_assoc])
    (by simp only [List.length_append, length_leBytes])).trans (Nat.mod_eq_of_lt h)

theorem dsSrcKind_linearDesc (hs : sk < 4) (hd : dk < 4) : dsSrcKind (linearDesc src dst sk dk len seg mc mask) = sk := by
  rw [dsSrcKind, kinds_linearDesc _ _ _ _ _ _ _ _ (by omega), field]
  omega

theorem dsDstKind_linearDesc (hs : sk < 4) (hd : dk < 4) : dsDstKind (linearDesc src dst sk dk len seg mc mask) = dk := by
  rw [dsDstKind, kinds_linearDesc _ _ _ _ _ _ _ _ (by omega), field]
  omega

end

/-! ### The next command -/

theorem Dev.modStr_at (d : Dev) (k : Nat) (f : Stream → Stream) : (d.modStr k f).strAt k = f (d.strAt k) := by
  simp only [Dev.modStr, Dev.strAt, tblGet_mod_self]

theorem Dev.strAt_of_str {a b : Dev} (h : b.str = a.str) (k : Nat) : b.strAt k = a.strAt k := by
  unfold Dev.strAt
  rw [h]

/-- A start with FENCE sees the descriptors behind it as they are now, which changes what is kept of old contents alone (R214). -/
theorem Dev.fenceSees_frame (d : Dev) (m : Mem) (k : Nat) (x : QCmd) : ∃ p, d.fenceSees m k x = { d with past := p } := by
  unfold Dev.fenceSees Dev.seeAgain
  split
  · split
    · exact ⟨_, rfl⟩
    · exact ⟨_, rfl⟩
  · exact ⟨_, rfl⟩

section
variable {u : StreamRef} {k op : Nat} {c : CtxId} {x : QCmd} {body : Nat → CtxId → QCmd → Mem → Dev → StartEnd} {m : Mem} {d f : Dev}
  (hk : k = strOf u) (H : d.NextStream k op c x) (fu : Fuses)
include hk H

theorem startCmd_goes {es : List MemEff} (hb : body k c x m (d.fenceSees m k x) = .go f es) :
    startCmd u op body fu m d = { dev := f, mem := es } := by
  subst hk
  simp only [startCmd, H.next, H.op, H.admitted, ne_eq, not_true_eq_false, if_false, Bool.not_true, Bool.false_eq_true, hb]

theorem startCmd_waits (hb : body k c x m (d.fenceSees m k x) = .wait) : startCmd u op body fu m d = { dev := d } := by
  subst hk
  simp only [startCmd, H.next, H.op, H.admitted, ne_eq, not_true_eq_false, if_false, Bool.not_true, Bool.false_eq_true, hb]

/-- A command that fails stays as a transfer that stops the engine (R237). -/
theorem startCmd_fails {st acc a : Nat} (hb : body k c x m (d.fenceSees m k x) = .fail st acc a f) :
    startCmd u op body fu m d = { dev := f.addTransfer k { Transfer.init with
      accept := x.accept, cmd := x.bytes, status := st, access := acc, fault := a } } := by
  subst hk
  simp only [startCmd, H.next, H.op, H.admitted, ne_eq, not_true_eq_false, if_false, Bool.not_true, Bool.false_eq_true, hb]

end

section
variable {s : State} {u : StreamRef} {k op : Nat} {c : CtxId} {x : QCmd} {body : Nat → CtxId → QCmd → Mem → Dev → StartEnd} {j : Instr}
  (he : exec j s = .next (s.run (startCmd u op body))) (hk : k = strOf u) (H : s.dev.NextStream k op c x)
include he hk H

/-- A command that changes its engine alone. -/
theorem start_changes {g : Stream → Stream} (hb : body k c x s.mem (s.dev.fenceSees s.mem k x)
      = .go ((s.dev.fenceSees s.mem k x).modStr k g) []) :
    Answers j s (fun t => s.onlyDev t ∧ t.dev.strAt k = g (s.dev.strAt k)) := by
  obtain ⟨p, hp⟩ := s.dev.fenceSees_frame s.mem k x
  refine answers_device he (startCmd_goes hk H s.fuse hb) (fun t honly hdev => ⟨honly, ?_⟩)
  rw [hdev, Dev.modStr_at, hp]
  rfl

/-- A command that fails. -/
theorem start_fails {st acc a : Nat} (hb : body k c x s.mem (s.dev.fenceSees s.mem k x) = .fail st acc a (s.dev.fenceSees s.mem k x)) :
    Answers j s (fun t => s.onlyDev t ∧ t.dev.strAt k = { s.dev.strAt k with
      transfers := (s.dev.strAt k).transfers ++ [{ Transfer.init with
        accept := x.accept, cmd := x.bytes, status := st, access := acc, fault := a }] }) := by
  obtain ⟨p, hp⟩ := s.dev.fenceSees_frame s.mem k x
  refine answers_device he (startCmd_fails hk H s.fuse hb) (fun t honly hdev => ⟨honly, ?_⟩)
  rw [hdev, Dev.addTransfer, Dev.modStr_at, hp]
  rfl

end

/-! ### XFER -/

theorem segBytes_none {v : Nat} (h : v = 1 ∨ 64 < v) : segBytes v = none := by
  unfold segBytes
  rw [if_neg (by omega), if_neg (by simp; omega)]

theorem segBytes_some {v : Nat} (h : v = 0 ∨ 2 ≤ v ∧ v ≤ 64) : (segBytes v).isNone = false := by
  unfold segBytes
  split
  · rfl
  · rw [if_pos (by simp; omega)]
    rfl

section
variable {k : Nat} {c : CtxId} {x : QCmd} {m : Mem} {d e : Dev} {p : Tbl (List Past)} (hp : e = { d with past := p })
include hp

/-- An XFER of a legal length, segment and kinds becomes a LINEAR transfer (R213). -/
theorem xferStart_goes {desc : Bytes} (hslot : (d.strAt k).hasSlot = true)
    (hd : desc = linearDesc (rd x.bytes 8 8) (rd x.bytes 0x10 8) (field (rdb x.bytes 0x1C) 0 2) (field (rdb x.bytes 0x1C) 2 2)
      (rd x.bytes 0x18 4) (rdb x.bytes 0x1D) (bit (rdb x.bytes 0x1C) 4) (rdb x.bytes 0x1E))
    (h1 : 1 ≤ rd x.bytes 0x18 4) (h2 : rd x.bytes 0x18 4 ≤ 2 ^ 31) (hseg : rdb x.bytes 0x1D = 0 ∨ 2 ≤ rdb x.bytes 0x1D ∧ rdb x.bytes 0x1D ≤ 64)
    (hsk : field (rdb x.bytes 0x1C) 0 2 ≠ 3) (hdk : field (rdb x.bytes 0x1C) 2 2 ≠ 3)
    (hmc : bit (rdb x.bytes 0x1C) 4 = true → d.mcastCheck c desc = 0) :
    xferStart k c x m e = .go (e.addTransfer k { Transfer.init with accept := x.accept, cmd := x.bytes, desc := desc }) [] := by
  subst hp
  have hslot' : (Dev.strAt { d with past := p } k).hasSlot = true := hslot
  have hs4 : field (rdb x.bytes 0x1C) 0 2 < 4 := field_lt _ _ _
  have hd4 : field (rdb x.bytes 0x1C) 2 2 < 4 := field_lt _ _ _
  have hcount : countOk (rd x.bytes 0x18 4) = true := by rw [countOk, decide_eq_true h1, decide_eq_true h2]; rfl
  have hcast : Dev.mcastCheck { d with past := p } c desc = d.mcastCheck c desc := rfl
  have hst : (if bit (rdb x.bytes 0x1C) 4 then Dev.mcastCheck { d with past := p } c desc else 0) = 0 := by
    split
    · next h => rw [hcast, hmc h]
    · rfl
  unfold xferStart
  simp only [← hd]
  simp only [hslot', hst, Bool.not_true, Bool.false_eq_true, if_false, segBytes_some hseg]
  rw [hd] at *
  simp only [dsLen_linearDesc _ _ _ _ _ _ _ _ (rd_lt x.bytes 0x18 4), dsSrcKind_linearDesc _ _ _ _ _ _ _ _ hs4 hd4,
    dsDstKind_linearDesc _ _ _ _ _ _ _ _ hs4 hd4, hcount, hsk, hdk, Bool.not_true, Bool.or_self, Bool.false_eq_true, decide_false, if_false, ne_eq,
    not_true_eq_false]

/-- An XFER of an illegal length or segment (R213). -/
theorem xferStart_fails (hslot : (d.strAt k).hasSlot = true)
    (h : rd x.bytes 0x18 4 = 0 ∨ 2 ^ 31 < rd x.bytes 0x18 4 ∨ rdb x.bytes 0x1D = 1 ∨ 64 < rdb x.bytes 0x1D) :
    xferStart k c x m e = .fail 3 0 0 e := by
  subst hp
  have hslot' : (Dev.strAt { d with past := p } k).hasSlot = true := hslot
  have hbad : (!countOk (rd x.bytes 0x18 4) || (segBytes (rdb x.bytes 0x1D)).isNone) = true := by
    rcases h with h | h | h | h
    · simp [countOk, h]
    · rw [countOk, decide_eq_false (Nat.not_le.mpr h), Bool.and_false]
      rfl
    · simp [segBytes_none (.inl h)]
    · simp [segBytes_none (.inr h)]
  unfold xferStart
  simp only [hslot', dsLen_linearDesc _ _ _ _ _ _ _ _ (rd_lt x.bytes 0x18 4), hbad, Bool.not_true, Bool.false_eq_true, if_false, if_true]

end

end Sys2Proof.Machine
end

section
/-! Where a piece of a transfer goes, short writes, markers, handles and the descriptors of a chain (R214 to R216, R224 to R231). -/

namespace Sys2Proof.Machine

open Sys2Proof.Laws

/-! ### Putting bytes at a destination -/

/-- A piece for the core's own memory is written at once (R174, R194, R196). -/
theorem Dev.putBytes_own {d : Dev} {c : CtxId} {k b : Nat} {bs : Bytes} (H : d.WritesOwn c (strCore k) b bs.length) (m : Mem) (accept index v : Nat)
    (short : Bool) (src : Option Nat) : d.putBytes m c ⟨k, accept, index, v⟩ (.here (.mem b)) bs 0 short src
      = .done (d.unitWrite m c b bs false).1 [.write b bs false] 0 := by
  have hcore : d.coreOf b = some (k / 2) := H.home
  have hheld : d.inHeld (k / 2) (d.toCoreLocal b) bs.length = false := H.held
  have htags : d.tagBlock (k / 2) (d.toCoreLocal b) bs.length true = none := H.tags
  have hwrite : d.homeWrite m c (.mem b) bs false (some (k / 2)) = (.done 0 false false, (d.unitWrite m c b bs false).1, [.write b bs false]) := by
    unfold Dev.homeWrite
    simp only [H.check, hcore, hheld, htags, Option.isSome_none, ne_eq, not_true_eq_false, decide_false, Bool.false_and, Bool.false_eq_true, if_false,
      if_true]
    rfl
  unfold Dev.putBytes
  simp only [hcore, decide_true, if_true, hwrite, Place.marks_zero, List.append_nil]

/-- A piece for another core leaves as a write unit (R224). -/
theorem Dev.putBytes_away {d : Dev} {k b : Nat} (h : d.coreOf b ≠ some (strCore k)) (c : CtxId) (m : Mem) (accept index v : Nat) (bs : Bytes)
    (src : Option Nat) : d.putBytes m c ⟨k, accept, index, v⟩ (.here (.mem b)) bs 0 false src
      = .done { d with flight := d.flight ++ [⟨d.nextFlight, c, strCode k, none, none, b, bs, 0, .stream k accept index v none, false, none⟩]
                       nextFlight := d.nextFlight + 1 } [] 1 := by
  have h' : ¬ d.coreOf b = some (k / 2) := h
  unfold Dev.putBytes
  simp only [h', decide_false, Bool.false_eq_true, if_false]
  rfl

/-! ### SHORT -/

/-- A transfer that has moved its whole run of one is issued. -/
theorem Transfer.advance_issued (t : Transfer) {len n out : Nat} (h : len ≤ n) : (t.advance 1 len n out).issued = true := by
  have hlen : len ≤ t.off + n := by omega
  simp only [Transfer.advance, hlen, if_true]
  exact decide_eq_true (by omega)

theorem Transfer.advance_is (t : Transfer) (runs len n out accept index : Nat) : (t.advance runs len n out).is accept index = t.is accept index := rfl

/-- After its one piece a short write has issued all of it. -/
theorem issueAll_issued (c : CtxId) (k accept r n len out : Nat) (m : Mem) (d : Dev) (es : List MemEff) (h : len ≤ n) :
    issueAll c k accept r m (d.modTransfer k accept 0 (fun y => y.advance 1 len n out)) es
      = .go (d.modTransfer k accept 0 (fun y => y.advance 1 len n out)) es := by
  generalize hx : d.modTransfer k accept 0 (fun y => y.advance 1 len n out) = x
  have hat : x.strAt k = { d.strAt k with
      transfers := (d.strAt k).transfers.map (fun t => if t.is accept 0 then t.advance 1 len n out else t) } := by
    rw [← hx, Dev.modTransfer, Dev.modStr_at]
  cases r with
  | zero => rfl
  | succ r =>
    unfold issueAll
    cases hfind : (x.strAt k).mine.find? (fun t => t.is accept 0) with
    | none => rfl
    | some t =>
      have hmem := List.mem_of_find?_eq_some hfind
      have his := List.find?_some hfind
      rw [Stream.mine, hat, List.mem_filter, List.mem_map] at hmem
      obtain ⟨⟨y, -, rfl⟩, -⟩ := hmem
      have hissued : (if y.is accept 0 then y.advance 1 len n out else y).issued = true := by
        split
        · exact y.advance_issued h
        · next hno => exact absurd (by rwa [if_neg hno] at his) hno
      simp only [hissued, if_true]

/-- The command that starts next has no transfer yet (R208). -/
theorem Dev.nextCmd_fresh {d : Dev} {k : Nat} {c : CtxId} {x : QCmd} (h : d.nextCmd k = some (c, x)) :
    ∀ t ∈ (d.strAt k).mine, t.accept ≠ x.accept := by
  unfold Dev.nextCmd at h
  simp only at h
  split at h
  · next c' x' hctx hfind =>
    split at h
    · obtain ⟨-, rfl⟩ := Prod.mk.inj (Option.some.inj h)
      have hnot := List.find?_some hfind
      simp only [Bool.and_eq_true, Bool.not_eq_true', List.any_eq_false, decide_eq_true_eq] at hnot
      exact fun t ht => hnot.2 t ht
    · exact absurd h (by simp)
  · exact absurd h (by simp)

/-- A SHORT within its core writes its bytes as it starts (R215, R231). -/
theorem shortStart_goes {k n a b : Nat} {c : CtxId} {x : QCmd} {m : Mem} {e f : Dev} {desc : Bytes} {tr : Transfer}
    (hn : n = rd x.bytes 0x14 2) (h1 : 1 ≤ n) (h2 : n ≤ 256) (hdk : field (rdb x.bytes 0x16) 2 2 ≠ 3)
    (hcore : e.inCoreMem (strCore k) (rd x.bytes 0x10 4) n = true) (hpage : rd x.bytes 8 8 % 4096 + n ≤ 4096)
    (hdesc : desc = linearDesc (rd x.bytes 0x10 4) (rd x.bytes 8 8) 0 (field (rdb x.bytes 0x16) 2 2) n 0 false 0)
    (htr : tr = { Transfer.init with accept := x.accept, cmd := x.bytes, desc := desc })
    (hfresh : ∀ t ∈ (e.strAt k).mine, t.accept ≠ x.accept) (H : (e.addTransfer k tr).MovesPiece m k c tr a b n f)
    (hown : f.WritesOwn c (strCore k) b n) : shortStart k c x m e
      = .go ((f.unitWrite m c b (m.read a n) false).1.modTransfer k x.accept 0 (fun y => y.advance 1 n n 0)) [.write b (m.read a n) false] := by
  have hacc : tr.accept = x.accept := by rw [htr]
  have hidx : tr.index = 0 := by rw [htr]; rfl
  have hoff : tr.off = 0 := by rw [htr]; rfl
  have hnew : tr.own = none ∧ tr.issued = false := by rw [htr]; exact ⟨rfl, rfl⟩
  have hlen : dsLen tr.desc = n := by
    rw [htr, hdesc]
    exact dsLen_linearDesc _ _ _ _ _ _ _ _ (by omega)
  have hdst : addr64 (dsDst tr.desc) (tr.off : Nat) = rd x.bytes 8 8 := by
    have hlt : rd x.bytes 8 8 < 2 ^ 64 := rd_lt x.bytes 8 8
    have hd : dsDst tr.desc = rd x.bytes 8 8 := by
      rw [htr, hdesc]
      exact dsDst_linearDesc _ _ _ _ _ _ _ _ hlt
    rw [hoff, hd, addr64, ofSigned]
    omega
  have hpiece : tr.nextPiece = n := by
    rw [Transfer.nextPiece, hlen, if_pos h2, hoff, Nat.sub_zero]
  have hput := Dev.putBytes_own (bs := m.read a n) (by rw [Mem.length_read]; exact hown) m tr.accept tr.index
    (addr64 (dsDst tr.desc) (tr.off : Nat)) (decide (dsLen tr.desc ≤ 256)) (some a)
  have hstep := Dev.issueStep_moves H hpiece (fun _ => by rw [hdst]; exact hpage) hput
  have hfind : ((e.addTransfer k tr).strAt k).mine.find? (fun t => t.is x.accept 0) = some tr := by
    have hold : (e.strAt k).mine.find? (fun t => t.is x.accept 0) = none := by
      rw [List.find?_eq_none]
      intro t ht his
      simp only [Transfer.is, Bool.and_eq_true, decide_eq_true_eq] at his
      exact hfresh t ht his.1.2
    rw [Dev.addTransfer, Dev.modStr_at]
    simp only [Stream.mine, List.filter_append, List.find?_append] at hold ⊢
    rw [hold]
    simp [hnew, Transfer.is, hacc, hidx]
  have hrange : (decide (n = 0) || decide (256 < n)) = false := by
    rw [decide_eq_false (by omega), decide_eq_false (by omega)]
    rfl
  unfold shortStart
  simp only [← hn, hrange, hdk, hcore, Bool.not_true, Bool.false_eq_true, if_false, ← hdesc, ← htr]
  unfold issueAll
  simp only [hfind, hnew, hstep, Bool.false_eq_true, if_false, List.nil_append]
  rw [hacc, hidx, hlen]
  exact issueAll_issued c k x.accept 15 n n 0 _ _ _ (Nat.le_refl n)

/-! ### SDEP, HPUSH and SSAVE -/

/-- An SDEP on no object or on an arrival counter (R216). -/
theorem sdepStart_free {k : Nat} {c : CtxId} {x : QCmd} (h : rdb x.bytes 8 = 0 ∨ rdb x.bytes 8 = 2) (m : Mem) (e : Dev) :
    sdepStart k c x m e = .go (e.modStr k (fun s => { s with
      marker := some ⟨rdb x.bytes 8, rd x.bytes 0xA 2 % 64, rd x.bytes 0x10 8, false⟩ })) [] := by
  have hle : ¬ 2 < rdb x.bytes 8 := by omega
  have hne : ¬ rdb x.bytes 8 = 1 := by omega
  simp only [sdepStart, Dev.markerOf, hle, hne, if_false]

/-- An SDEP on a sync object that is bound (R216, R265). -/
theorem sdepStart_object {k p : Nat} {c : CtxId} {x : QCmd} {e : Dev} (h : rdb x.bytes 8 = 1)
    (hp : e.physOf c (strCore k / 12) (rd x.bytes 0xA 2 % 4096) = some p) (m : Mem) :
    sdepStart k c x m e = .go (e.modStr k (fun s => { s with
      marker := some ⟨1, rd x.bytes 0xA 2 % 4096, rd x.bytes 0x10 8, false⟩ })) [] := by
  have hle : ¬ 2 < 1 := by decide
  simp only [sdepStart, Dev.markerOf, h, hle, if_false, if_true, hp, Option.map_some]

theorem sdepStart_fails {k : Nat} {c : CtxId} {x : QCmd} (h : 2 < rdb x.bytes 8) (m : Mem) (e : Dev) : sdepStart k c x m e = .fail 3 0 0 e := by
  simp only [sdepStart, h, if_true]

section
variable {k core : Nat} {c : CtxId} {x : QCmd} {e : Dev} (h : rdb x.bytes 0x11 = 0xFF ∧ core = strCore k ∨
  rdb x.bytes 0x11 ≤ 11 ∧ core = coreNo (strCore k / 12) (rdb x.bytes 0x11)) (m : Mem)
include h

/-- The core whose handle queue an HPUSH names (R216). -/
theorem hpush_names : (decide (11 < rdb x.bytes 0x11) && decide (rdb x.bytes 0x11 ≠ 0xFF)) = false
    ∧ (if rdb x.bytes 0x11 = 0xFF then strCore k else coreNo (strCore k / 12) (rdb x.bytes 0x11)) = core := by
  obtain ⟨hn, rfl⟩ | ⟨hn, rfl⟩ := h
  · simp [hn]
  · have hle : ¬ 11 < rdb x.bytes 0x11 := by omega
    have hne : ¬ rdb x.bytes 0x11 = 0xFF := by omega
    simp [hle, hne]

theorem hpushStart_pushes {f : Dev} (hpush : e.pushHandle c core (rdb x.bytes 0x10 % 8) (BitVec.ofNat 64 (rd x.bytes 8 8)) = .done f) :
    hpushStart k c x m e = .go (f.doneCmd k x.accept) [] := by
  obtain ⟨hok, hcore⟩ := hpush_names h
  simp only [hpushStart, hok, hcore, hpush, Bool.false_eq_true, if_false]

theorem hpushStart_waits (hpush : e.pushHandle c core (rdb x.bytes 0x10 % 8) (BitVec.ofNat 64 (rd x.bytes 8 8)) = .wait) :
    hpushStart k c x m e = .wait := by
  obtain ⟨hok, hcore⟩ := hpush_names h
  simp only [hpushStart, hok, hcore, hpush, Bool.false_eq_true, if_false]

end

section
variable {d : Dev} {c : CtxId} {core q : Nat} (hcore : (d.ctxAt c).cores.contains core = true) (hadm : d.admitted (csGroup core) = true)
include hcore hadm

/-- A handle queue with room takes the handle (R229). -/
theorem Dev.pushHandle_room (h : (d.handleQueue core q).length < 32) (v : W64) :
    d.pushHandle c core q v = .done (d.putHandles core q (d.handleQueue core q ++ [v])) := by
  have hle : ¬ 32 ≤ (d.handleQueue core q).length := by omega
  simp only [Dev.pushHandle, hcore, hadm, hle, Bool.not_true, Bool.false_eq_true, if_false]

/-- A push to a full handle queue waits (R229). -/
theorem Dev.pushHandle_full (h : 32 ≤ (d.handleQueue core q).length) (v : W64) : d.pushHandle c core q v = .wait := by
  simp only [Dev.pushHandle, hcore, hadm, h, Bool.not_true, Bool.false_eq_true, if_false, if_true]

end

theorem Dev.putHandles_at (d : Dev) (core q : Nat) (hs : List W64) : (d.putHandles core q hs).handleQueue core q = hs := by
  simp only [Dev.putHandles, Dev.modCore, Dev.handleQueue, Dev.coreAt, tblGet_mod_self, tblGet_set_self]

/-- An SSAVE of no area, or of a legal one (R216). -/
theorem ssaveStart_sets {k a : Nat} {c : CtxId} {x : QCmd} {e : Dev} (ha : a = rd x.bytes 8 4)
    (h : a = 0 ∨ a % 256 = 0 ∧ e.inCoreMem (strCore k) a 256 = true) (m : Mem) :
    ssaveStart k c x m e = .go ((e.modStr k (fun s => { s with
      save := if a = 0 then none else some a
      fsync := if rd x.bytes 0xC 2 = 0xFFFF then none else some (rd x.bytes 0xC 2 % 4096) })).doneCmd k x.accept) [] := by
  have hok : (decide (a ≠ 0) && (decide (a % 256 ≠ 0) || !e.inCoreMem (strCore k) a 256)) = false := by
    obtain h | ⟨h, hin⟩ := h
    · simp [h]
    · simp [h, hin]
  simp only [ssaveStart, ← ha, hok, Bool.false_eq_true, if_false]

/-- An SSAVE of an area that is not aligned (R216). -/
theorem ssaveStart_fails {k a : Nat} {c : CtxId} {x : QCmd} (ha : a = rd x.bytes 8 4) (h : a % 256 ≠ 0) (m : Mem) (e : Dev) :
    ssaveStart k c x m e = .fail 4 1 a e := by
  have hne : a ≠ 0 := fun h0 => h (by rw [h0])
  simp only [ssaveStart, ← ha, h, hne, ne_eq, not_false_eq_true, decide_true, Bool.true_or, Bool.and_self, if_true]

/-! ### Descriptors of a chain -/

section
variable {d : Dev} {m : Mem} {k : Nat} {c : CtxId} {ch : ChainRun} {b : Bytes} (H : d.ChainNext m k c ch b)
include H

/-- The descriptor that stands ready is read as it stands (R214). -/
theorem Dev.readDesc_ready : d.readDesc m c k ch.accept (rd ch.cmd 8 4 + 64 * ch.next) = .desc b false false d := by
  unfold Dev.readDesc
  simp only [H.tags, Option.isSome_none, Bool.false_eq_true, if_false, H.settled, H.written, H.clean, ← H.bytes]

variable {u : StreamRef} {kinds : Nat → Bool} (hk : k = strOf u) (hkind : kinds (dsKind b) = true) (fu : Fuses)
include hk hkind

/-- A descriptor without a marker starts in a free slot (R207, R222). -/
theorem chainAct_starts (h1 : dsFlag b 1 = false) (h2 : dsFlag b 2 = false) (hslot : (d.strAt k).hasSlot = true) :
    chainAct u kinds fu m d = { dev := d.startDesc m c k ch b false false } := by
  subst hk
  obtain ⟨hstop, hmark⟩ := H.runs
  simp only [chainAct, H.ctx, H.chain, H.unread, hstop, hmark, Option.isSome_none, Bool.or_self, Bool.false_eq_true, if_false, Dev.readDesc_ready H, hkind,
    Bool.not_true, h1, h2, hslot]

/-- A descriptor with DEP but not ORDER first sets a marker without a condition (R226). -/
theorem chainAct_marks (h1 : dsFlag b 1 = true) (h2 : dsFlag b 2 = false) :
    chainAct u kinds fu m d = { dev := d.modStr k (fun s => { s with
      marker := some ⟨0, rd b 0x3A 2 % 64, rd b 0x3C 4, false⟩, chain := some { ch with desc := some b } }) } := by
  subst hk
  have h0 : ¬ (0 : Nat) = 1 := by decide
  obtain ⟨hstop, hmark⟩ := H.runs
  simp only [chainAct, H.ctx, H.chain, H.unread, hstop, hmark, Option.isSome_none, Bool.or_self, Bool.false_eq_true, if_false, Dev.readDesc_ready H, hkind,
    Bool.not_true, h1, h2, Bool.true_or, Bool.not_false, if_true, Dev.markerOf, h0]

end

/-- What starting a descriptor makes of its engine (R207, R214). -/
theorem Dev.startDesc_at {d : Dev} {k : Nat} {ch : ChainRun} (hch : (d.strAt k).chain = some ch) (m : Mem) (c : CtxId) (b : Bytes) :
    (((d.startDesc m c k ch b false false).strAt k).transfers = (d.strAt k).transfers ++ [{ Transfer.init with
      accept := ch.accept, cmd := ch.cmd, desc := b, index := ch.next, last := ch.next + 1 = rd ch.cmd 0xC 2
      status := d.dsCheck m c (strCore k) b, access := if d.dsCheck m c (strCore k) b = 0 then 0 else 3
      pops := d.dsCheck m c (strCore k) b = 0 && dsHin b ≠ 15 }])
    ∧ ((d.startDesc m c k ch b false false).strAt k).chain
      = if ch.next + 1 < rd ch.cmd 0xC 2 then some { ch with next := ch.next + 1, desc := none } else none := by
  unfold Dev.startDesc
  constructor
  · rw [Dev.addTransfer, Dev.modStr_at, Dev.chainOn, Dev.modStr_at]
    rfl
  · rw [Dev.addTransfer, Dev.modStr_at, Dev.chainOn, Dev.modStr_at]
    simp only [hch, Option.bind_some]

end Sys2Proof.Machine
end

section
/-! The settling of the commands of the stream engines. -/

namespace Sys2Proof.Machine

open Sys2Proof.Laws

theorem Dev.doneCmd_str (d : Dev) (k accept : Nat) : (d.doneCmd k accept).str = d.str := rfl

section
variable {s : State} {u : StreamRef} {k : Nat} {c : CtxId} {ch : ChainRun} {b : Bytes} (hk : k = strOf u) (H : s.dev.ChainNext s.mem k c ch b)
  {p : Instr × Nat} (hp : p ∈ chainRows u) (hkind : dsKind b = p.2)
include hk H hp hkind

omit hk H in
/-- The rows of a chain's descriptors take those of their KIND (R218). -/
theorem exec_chainRows : ∃ kinds : Nat → Bool, exec p.1 s = .next (s.run (chainAct u kinds)) ∧ kinds (dsKind b) = true := by
  rw [hkind]
  simp only [chainRows, List.mem_cons, List.not_mem_nil, or_false] at hp
  rcases hp with rfl | rfl | rfl | rfl | rfl
  · exact ⟨fun k => k = 0 || k = 1 || 5 < k, rfl, rfl⟩
  · exact ⟨fun k => k = 2, rfl, rfl⟩
  · exact ⟨fun k => k = 3, rfl, rfl⟩
  · exact ⟨fun k => k = 4, rfl, rfl⟩
  · exact ⟨fun k => k = 5, rfl, rfl⟩

/-- A descriptor of a chain starts as a transfer with the status of its checks (R207, R222). -/
theorem chainRow_starts (h1 : dsFlag b 1 = false) (h2 : dsFlag b 2 = false) (hslot : (s.dev.strAt k).hasSlot = true) :
    Answers p.1 s (fun t => s.onlyDev t
      ∧ (t.dev.strAt k).transfers = (s.dev.strAt k).transfers ++ [{ Transfer.init with
          accept := ch.accept, cmd := ch.cmd, desc := b, index := ch.next, last := ch.next + 1 = rd ch.cmd 0xC 2
          status := s.dev.dsCheck s.mem c (strCore k) b, access := if s.dev.dsCheck s.mem c (strCore k) b = 0 then 0 else 3
          pops := s.dev.dsCheck s.mem c (strCore k) b = 0 && dsHin b ≠ 15 }]
      ∧ (t.dev.strAt k).chain = if ch.next + 1 < rd ch.cmd 0xC 2 then some { ch with next := ch.next + 1, desc := none } else none) := by
  obtain ⟨kinds, he, hin⟩ := exec_chainRows (s := s) hp hkind
  refine answers_device he (chainAct_starts H hk hin s.fuse h1 h2 hslot) (fun t honly hdev => ?_)
  rw [hdev]
  exact ⟨honly, Dev.startDesc_at H.chain s.mem c b⟩

/-- A descriptor with DEP first is a marker (R226). -/
theorem chainRow_marks (h1 : dsFlag b 1 = true) (h2 : dsFlag b 2 = false) : Answers p.1 s (fun t => s.onlyDev t
      ∧ t.dev.strAt k = { s.dev.strAt k with
          marker := some ⟨0, rd b 0x3A 2 % 64, rd b 0x3C 4, false⟩
          chain := some { ch with desc := some b } }) := by
  obtain ⟨kinds, he, hin⟩ := exec_chainRows (s := s) hp hkind
  refine answers_device he (chainAct_marks H hk hin s.fuse h1 h2) (fun t honly hdev => ⟨honly, ?_⟩)
  rw [hdev, Dev.modStr_at]

end

/-- A SHORT within its core (R215). -/
theorem short_writes {u : StreamRef} {k n a b : Nat} {desc : Bytes} {c : CtxId} {x : QCmd} {tr : Transfer} {f : Dev} {s : State} (hk : k = strOf u)
    (H : s.dev.NextStream k 0x22 c x) (hn : n = rd x.bytes 0x14 2) (h1 : 1 ≤ n) (h2 : n ≤ 256) (hdk : field (rdb x.bytes 0x16) 2 2 ≠ 3)
    (hcore : s.dev.inCoreMem (strCore k) (rd x.bytes 0x10 4) n = true) (hpage : rd x.bytes 8 8 % 4096 + n ≤ 4096)
    (hdesc : desc = linearDesc (rd x.bytes 0x10 4) (rd x.bytes 8 8) 0 (field (rdb x.bytes 0x16) 2 2) n 0 false 0)
    (htr : tr = { Transfer.init with accept := x.accept, cmd := x.bytes, desc := desc })
    (hmove : ((s.dev.fenceSees s.mem k x).addTransfer k tr).MovesPiece s.mem k c tr a b n f) (hown : f.WritesOwn c (strCore k) b n) :
    Answers (.short u) s (fun t => t.fuse = s.fuse ∧ t.pending = s.pending ∧ t.mem = s.mem.write b (s.mem.read a n) false
      ∧ t.dev = ((f.unitWrite s.mem c b (s.mem.read a n) false).1).modTransfer k x.accept 0 (fun y => y.advance 1 n n 0)) := by
  obtain ⟨p, hp⟩ := s.dev.fenceSees_frame s.mem k x
  have hcore' : (s.dev.fenceSees s.mem k x).inCoreMem (strCore k) (rd x.bytes 0x10 4) n = true := by
    rw [hp]
    exact hcore
  have hfresh : ∀ t ∈ ((s.dev.fenceSees s.mem k x).strAt k).mine, t.accept ≠ x.accept := by
    rw [hp]
    exact Dev.nextCmd_fresh H.next
  exact answers_of_act rfl (startCmd_goes hk H s.fuse (shortStart_goes hn h1 h2 hdk hcore' hpage hdesc htr hfresh hmove hown)) ⟨rfl, rfl, rfl, rfl⟩

/-- An HPUSH to a core of the context (R216, R229). -/
theorem hpush_appends {u : StreamRef} {k core q : Nat} {c : CtxId} {x : QCmd} {s : State} (hk : k = strOf u) (H : s.dev.NextStream k 0x24 c x)
    (hq : q = rdb x.bytes 0x10 % 8) (hto : rdb x.bytes 0x11 = 0xFF ∧ core = strCore k ∨
      rdb x.bytes 0x11 ≤ 11 ∧ core = coreNo (strCore k / 12) (rdb x.bytes 0x11))
    (hcore : (s.dev.ctxAt c).cores.contains core = true) (hadm : s.dev.admitted (csGroup core) = true) :
    ((s.dev.handleQueue core q).length < 32 → Answers (.hpush u) s (fun t => s.onlyDev t
      ∧ t.dev.handleQueue core q = s.dev.handleQueue core q ++ [BitVec.ofNat 64 (rd x.bytes 8 8)]
      ∧ t.dev.que = (s.dev.doneCmd k x.accept).que ∧ t.dev.str = s.dev.str))
    ∧ (32 ≤ (s.dev.handleQueue core q).length → Answers (.hpush u) s (fun t => t = s)) := by
  subst hq
  obtain ⟨p, hp⟩ := s.dev.fenceSees_frame s.mem k x
  have hcore' : ((s.dev.fenceSees s.mem k x).ctxAt c).cores.contains core = true := by rw [hp]; exact hcore
  have hadm' : (s.dev.fenceSees s.mem k x).admitted (csGroup core) = true := by rw [hp]; exact hadm
  have hqueue : ∀ j, (s.dev.fenceSees s.mem k x).handleQueue core j = s.dev.handleQueue core j := fun j => by rw [hp]; rfl
  refine ⟨fun hroom => ?_, fun hfull => ?_⟩
  · have hpush := Dev.pushHandle_room hcore' hadm' (q := rdb x.bytes 0x10 % 8) (by rw [hqueue]; exact hroom) (BitVec.ofNat 64 (rd x.bytes 8 8))
    have hat := (s.dev.fenceSees s.mem k x).putHandles_at core (rdb x.bytes 0x10 % 8)
      ((s.dev.fenceSees s.mem k x).handleQueue core (rdb x.bytes 0x10 % 8) ++ [BitVec.ofNat 64 (rd x.bytes 8 8)])
    refine answers_device rfl (startCmd_goes hk H s.fuse (hpushStart_pushes hto s.mem hpush)) (fun t honly hdev => ?_)
    rw [hdev]
    rw [hqueue] at hat ⊢
    refine ⟨honly, hat, ?_, ?_⟩
    · rw [hp]; rfl
    · rw [hp]; rfl
  · exact answers_same rfl (startCmd_waits hk H s.fuse
      (hpushStart_waits hto s.mem (Dev.pushHandle_full hcore' hadm' (by rw [hqueue]; exact hfull) _)))

/-- An SSAVE of no area or a legal one (R216). -/
theorem ssave_sets {u : StreamRef} {k a : Nat} {c : CtxId} {x : QCmd} {s : State} (hk : k = strOf u) (H : s.dev.NextStream k 0x25 c x)
    (ha : a = rd x.bytes 8 4) (h : a = 0 ∨ a % 256 = 0 ∧ s.dev.inCoreMem (strCore k) a 256 = true) : Answers (.ssave u) s (fun t => s.onlyDev t
      ∧ t.dev.strAt k = { s.dev.strAt k with
          save := if a = 0 then none else some a
          fsync := if rd x.bytes 0xC 2 = 0xFFFF then none else some (rd x.bytes 0xC 2 % 4096) }
      ∧ t.dev.que = (s.dev.doneCmd k x.accept).que) := by
  obtain ⟨p, hp⟩ := s.dev.fenceSees_frame s.mem k x
  have h' : a = 0 ∨ a % 256 = 0 ∧ (s.dev.fenceSees s.mem k x).inCoreMem (strCore k) a 256 = true := by rw [hp]; exact h
  refine answers_device rfl (startCmd_goes hk H s.fuse (ssaveStart_sets ha h' s.mem)) (fun t honly hdev => ?_)
  rw [hdev, hp]
  refine ⟨honly, ?_, rfl⟩
  rw [Dev.strAt_of_str (Dev.doneCmd_str _ k x.accept), Dev.modStr_at]
  rfl

end Sys2Proof.Machine

namespace Sys2Proof.Proofs

open Sys2Proof.Machine Sys2Proof.Laws

/-- Settles O48: what each command and each descriptor of a chain starts, writes or sets. -/
theorem streamCommands : Obligations.StreamCommands := by
  unfold Obligations.StreamCommands
  refine ⟨?_, ?_, ?_, ?_, ?_, ?_, ?_⟩
  · intro u k c x s hk H hslot
    obtain ⟨p, hp⟩ := s.dev.fenceSees_frame s.mem k x
    refine ⟨fun desc hd h1 h2 hseg hsk hdk hmc => ?_, fun h => ?_⟩
    · exact start_changes rfl hk H (xferStart_goes hp hslot hd h1 h2 hseg hsk hdk hmc)
    · exact start_fails rfl hk H (xferStart_fails hp hslot h)
  · intro u k c x s hk H hne hal hin
    obtain ⟨p, hp⟩ := s.dev.fenceSees_frame s.mem k x
    have hin' : (s.dev.fenceSees s.mem k x).inCoreMem (strCore k) (rd x.bytes 8 4) (64 * rd x.bytes 0xC 2) = true := by
      rw [hp]
      exact hin
    refine start_changes (g := fun y => { y with chain := some ⟨x.accept, x.bytes, 0, none⟩ }) rfl hk H ?_
    simp only [chainStart, hne, hal, hin', if_false, ne_eq, not_true_eq_false, decide_false, Bool.not_true, Bool.or_self, Bool.false_eq_true]
  · intro u k n a b desc c x tr f s hk H hn h1 h2 hdk hcore hpage hdesc htr hmove hown
    exact short_writes hk H hn h1 h2 hdk hcore hpage hdesc htr hmove hown
  · intro u k c x s hk H
    obtain ⟨p, hp⟩ := s.dev.fenceSees_frame s.mem k x
    refine ⟨fun h => ?_, fun o h ho => ?_, fun h => ?_⟩
    · exact start_changes rfl hk H (sdepStart_free h s.mem _)
    · exact start_changes rfl hk H (sdepStart_object h (by rw [hp]; exact ho) s.mem)
    · exact start_fails rfl hk H (sdepStart_fails h s.mem _)
  · intro u k core q c x s hk H hq hto hcore hadm
    exact hpush_appends hk H hq hto hcore hadm
  · intro u k a c x s hk H ha
    exact ⟨ssave_sets hk H ha, fun h => start_fails rfl hk H (ssaveStart_fails ha h s.mem _)⟩
  · intro u k c ch b s hk H p hp hkind
    refine ⟨fun ⟨h1, h2⟩ hslot => ⟨fun hok => ?_, fun hbad => ?_⟩, fun h1 h2 => chainRow_marks hk H hp hkind h1 h2⟩
    · obtain ⟨t, hexec, honly, htr, hch⟩ := chainRow_starts hk H hp hkind h1 h2 hslot
      refine ⟨t, hexec, honly, ?_, hch⟩
      rw [htr]
      simp only [hok, if_true, decide_true, Bool.true_and]
      rfl
    · obtain ⟨t, hexec, honly, htr, -⟩ := chainRow_starts hk H hp hkind h1 h2 hslot
      exact ⟨t, hexec, honly, _, htr, rfl, if_neg hbad, rfl, rfl⟩

end Sys2Proof.Proofs
end

section
/-! Segments, markers, completion and stops of a stream engine (R208, R212, R223 to R226, R237). -/

namespace Sys2Proof.Machine

open Sys2Proof.Laws

/-! ### Markers -/

theorem Dev.seeAgain_frame (d : Dev) (m : Mem) (core q : Nat) : (d.seeAgain m core q).str = d.str ∧ (d.seeAgain m core q).que = d.que := by
  unfold Dev.seeAgain
  split
  · exact ⟨rfl, rfl⟩
  · exact ⟨rfl, rfl⟩

theorem Dev.doneCmd_que {a b : Dev} (h : b.que = a.que) (k accept : Nat) : (b.doneCmd k accept).que = (a.doneCmd k accept).que := by
  unfold Dev.doneCmd Dev.modCmd Dev.modQue
  rw [h]

section
variable {d : Dev} {k : Nat} {c : CtxId} {mark : Marker} (hctx : d.strCtx k = some c) (hmark : (d.strAt k).marker = some mark) (m : Mem)
include hctx hmark

/-- A marker that is held leaves everything (R226). -/
theorem Dev.releaseMarker_held (h : (d.strAt k).mine ≠ [] ∨ d.markerHolds c (strCore k) mark = false) : d.releaseMarker m k = d := by
  have hno : (!(d.strAt k).mine.isEmpty || !d.markerHolds c (strCore k) mark) = true := by
    obtain h | h := h
    · rw [List.isEmpty_eq_false_iff.mpr h]
      rfl
    · rw [h]
      exact Bool.or_true _
  simp only [Dev.releaseMarker, hctx, hmark, hno, if_true]

/-- A marker that is released goes; an SDEP is then done (R226). -/
theorem Dev.releaseMarker_at (hnone : (d.strAt k).mine = []) (hholds : d.markerHolds c (strCore k) mark = true) :
    (d.releaseMarker m k).strAt k = { d.strAt k with marker := none }
    ∧ ((d.strAt k).chain.isSome = true → (d.releaseMarker m k).que = d.que)
    ∧ (∀ x, (d.strAt k).chain = none → (d.queAt (strCore k) (strQueue k)).cmds.find? (fun y => y.result.isNone) = some x →
      (d.releaseMarker m k).que = (d.doneCmd k x.accept).que) := by
  have hat : ((d.modStr k (fun s => { s with marker := none })).seeAgain m (strCore k) (strQueue k)).strAt k = { d.strAt k with marker := none } := by
    rw [Dev.strAt_of_str (Dev.seeAgain_frame _ m _ _).1, Dev.modStr_at]
  have hque : ((d.modStr k (fun s => { s with marker := none })).seeAgain m (strCore k) (strQueue k)).que = d.que := (Dev.seeAgain_frame _ m _ _).2
  simp only [Dev.releaseMarker, hctx, hmark, hnone, hholds, List.isEmpty_nil, Bool.not_true, Bool.or_self, Bool.false_eq_true, if_false]
  generalize (d.modStr k (fun s => { s with marker := none })).seeAgain m (strCore k) (strQueue k) = x at hat hque
  rw [Dev.queAt_of_que hque]
  by_cases hch : (d.strAt k).chain.isSome = true
  · rw [if_pos hch]
    exact ⟨hat, fun _ => hque, fun y hnone _ => absurd hch (by rw [hnone]; decide)⟩
  · rw [if_neg hch]
    refine ⟨?_, fun h => absurd h hch, fun y _ hfind => ?_⟩
    · split
      · exact (Dev.strAt_of_str (Dev.doneCmd_str x k _) k).trans hat
      · exact hat
    · simp only [hfind]
      exact Dev.doneCmd_que hque k y.accept

end

/-! ### Segments -/

/-- A transfer of the context's own in a slot takes its next step (R207, R223). -/
theorem segmentIssue_steps {s : State} {u : StreamRef} {slot : Fin 6} {k : Nat} {c : CtxId} {tr : Transfer} {x : Dev} {es : List MemEff} (hk : k = strOf u)
    (hslot : ((s.dev.strAt k).transfers.filter (fun y => y.slotted))[slot.val]? = some tr) (hctx : s.dev.strCtx k = some c)
    (hstop : (s.dev.strAt k).stopper = none) (hissued : tr.issued = false) (hown : tr.own = none)
    (hstep : s.dev.issueStep s.mem c k tr = .step x es) {P : State → Prop}
    (hP : P { s with mem := s.mem.apply es, dev := x }) : Answers (.segmentIssue u slot) s P := by
  subst hk
  refine ⟨_, rfl, ?_⟩
  simp only [State.run, hslot, hown, hctx, hstop, hissued, Option.isSome_none, Bool.or_self, Bool.false_eq_true, if_false, hstep, IssueEnd.res]
  exact hP

section
variable {s : State} {u : StreamRef} {slot : Fin 6} {k a b n : Nat} {c : CtxId} {tr : Transfer} {f : Dev} (hk : k = strOf u)
  (hslot : ((s.dev.strAt k).transfers.filter (fun y => y.slotted))[slot.val]? = some tr) (hctx : s.dev.strCtx k = some c)
  (hstop : (s.dev.strAt k).stopper = none) (hissued : tr.issued = false) (hlen : 256 < dsLen tr.desc)
  (hn : n = segLeft (segments (dsLen tr.desc) (dsSeg tr.desc)) tr.off) (H : s.dev.MovesPiece s.mem k c tr a b n f)
include hk hslot hctx hstop hissued hlen hn H

/-- A segment within the core is written as it is issued (R223, R224). -/
theorem segmentIssue_own (hown : f.WritesOwn c (strCore k) b n) : Answers (.segmentIssue u slot) s (fun t => t.fuse = s.fuse ∧ t.pending = s.pending
      ∧ t.mem = s.mem.write b (s.mem.read a n) false
      ∧ t.dev = ((f.unitWrite s.mem c b (s.mem.read a n) false).1).modTransfer k tr.accept tr.index
          (fun y => y.advance 1 (dsLen tr.desc) n 0)) := by
  have hnot : ¬ dsLen tr.desc ≤ 256 := by omega
  have hput := Dev.putBytes_own (bs := s.mem.read a n) (by rw [Mem.length_read]; exact hown) s.mem tr.accept tr.index
    (addr64 (dsDst tr.desc) (tr.off : Nat)) (decide (dsLen tr.desc ≤ 256)) (some a)
  have hstep := Dev.issueStep_moves H (by rw [Transfer.nextPiece, if_neg hnot, hn]) (fun h => absurd h hnot) hput
  exact segmentIssue_steps hk hslot hctx hstop hissued H.own hstep ⟨rfl, rfl, rfl, rfl⟩

/-- A segment for another core goes out as a write unit (R224). -/
theorem segmentIssue_away (haway : f.coreOf b ≠ some (strCore k)) : Answers (.segmentIssue u slot) s (fun t => s.onlyDev t
      ∧ t.dev.flight = f.flight ++ [⟨f.nextFlight, c, strCode k, none, none, b, s.mem.read a n, 0,
          .stream k tr.accept tr.index (addr64 (dsDst tr.desc) (tr.off : Nat)) none, false, none⟩]
      ∧ t.dev.str = (f.modTransfer k tr.accept tr.index (fun y => y.advance 1 (dsLen tr.desc) n 1)).str) := by
  have hnot : ¬ dsLen tr.desc ≤ 256 := by omega
  have hput := Dev.putBytes_away haway c s.mem tr.accept tr.index (addr64 (dsDst tr.desc) (tr.off : Nat)) (s.mem.read a n) (some a)
  have hstep := Dev.issueStep_moves H (by rw [Transfer.nextPiece, if_neg hnot, hn]) (fun h => absurd h hnot)
    (by rw [decide_eq_false hnot]; exact hput)
  exact segmentIssue_steps hk hslot hctx hstop hissued H.own hstep ⟨⟨rfl, rfl, rfl⟩, rfl, rfl⟩

end

/-! ### Completion of a transfer -/

theorem leBytes_leNat : ∀ bs : Bytes, leBytes bs.length (leNat bs) = bs
  | [] => rfl
  | b :: bs => by
    have hlt : b.toNat < 256 := b.isLt
    have hdiv : (b.toNat + 256 * leNat bs) / 256 = leNat bs := by omega
    rw [List.length_cons, leNat, leBytes, hdiv, leBytes_leNat bs]
    congr 1
    apply BitVec.eq_of_toNat_eq
    rw [BitVec.toNat_ofNat]
    omega

/-- Writing what stands there changes nothing. -/
theorem wr_same {bs v : Bytes} {o : Nat} (h : o + v.length ≤ bs.length) (hv : sub bs o v.length = v) : wr bs o v = bs := by
  have htake : (bs.drop o).take v.length = v := by
    have hlen : ((bs.drop o).take v.length).length = v.length := by
      simp only [List.length_take, List.length_drop]
      omega
    have h' := hv
    rw [sub] at h'
    simpa [hlen] using h'
  have hall : v.take (bs.length - o) = v := List.take_of_length_le (by omega)
  rw [wr, hall, ← List.drop_drop]
  conv_lhs => rw [← htake]
  rw [List.length_take, List.length_drop, Nat.min_eq_left (by omega), List.append_assoc, List.take_append_drop, List.take_append_drop]

/-- A descriptor whose HRET is spent already (R228). -/
theorem wr_spent {b : Bytes} (hlen : b.length = 64) (h : dsHret b = 15) : wr b 0x38 (leBytes 1 (setField (rdb b 0x38) 4 4 15)) = b := by
  have hlt : rdb b 0x38 < 256 := rd_lt b 0x38 1
  have hset : setField (rdb b 0x38) 4 4 15 = rdb b 0x38 := by
    unfold dsHret at h
    have hfield : field (rdb b 0x38) 4 4 = 15 := by
      unfold field
      omega
    rw [setField, hfield, Nat.shiftLeft_eq]
    omega
  rw [hset]
  refine wr_same (by rw [length_leBytes, hlen]; decide) ?_
  have hbytes := leBytes_leNat (sub b 0x38 1)
  rw [length_sub] at hbytes
  rw [length_leBytes]
  exact hbytes.symm

end Sys2Proof.Machine
end

section
/-! The completion of a transfer, the stop of an engine, and opcodes of no stream command (R122, R208, R212, R224, R237). -/

namespace Sys2Proof.Machine

open Sys2Proof.Laws

/-! ### Completion -/

/-- Changing only the transfer that is meant, to itself, changes nothing. -/
theorem Stream.map_same {s : Stream} {tr : Transfer} (hmine : s.mine = [tr]) :
    s.transfers.map (fun y => if y.is tr.accept tr.index then tr else y) = s.transfers := by
  have hsame : ∀ y ∈ s.transfers, (if y.is tr.accept tr.index then tr else y) = y := by
    intro y hy
    split
    · next his =>
      simp only [Transfer.is, Bool.and_eq_true] at his
      have hin : y ∈ s.mine := List.mem_filter.mpr ⟨hy, his.1.1⟩
      rw [hmine, List.mem_singleton] at hin
      exact hin.symm
    · rfl
  calc s.transfers.map _ = s.transfers.map id := List.map_congr_left (fun y hy => hsame y hy)
    _ = s.transfers := List.map_id _

/-- Once its one transfer has left, an engine has none of the context's own. -/
theorem Stream.mine_left {s : Stream} {tr : Transfer} (hmine : s.mine = [tr]) (hown : tr.own = none) :
    ({ s with transfers := s.transfers.filter (fun y => !(y.is tr.accept tr.index)) } : Stream).mine = [] := by
  have his : tr.is tr.accept tr.index = true := by simp [Transfer.is, hown]
  have hcomm : (s.transfers.filter (fun y => !(y.is tr.accept tr.index))).filter (fun y => y.own.isNone)
      = s.mine.filter (fun y => !(y.is tr.accept tr.index)) := by
    rw [Stream.mine, List.filter_filter, List.filter_filter]
    exact List.filter_congr (fun y _ => Bool.and_comm _ _)
  show (s.transfers.filter (fun y => !(y.is tr.accept tr.index))).filter (fun y => y.own.isNone) = []
  rw [hcomm, hmine]
  simp [his]

/-- Flags added to the commands of one accept number are not seen among the others. -/
theorem filter_map_flags (n g : Nat) (cmds : List QCmd) :
    (cmds.map (fun y => if y.accept = n then { y with flags := y.flags ||| g } else y)).filter (fun y => y.accept ≠ n)
      = cmds.filter (fun y => y.accept ≠ n) := by
  induction cmds with
  | nil => rfl
  | cons y ys ih =>
    simp only [List.map_cons, List.filter_cons, ih]
    by_cases h : y.accept = n <;> simp [h]

theorem Dev.takeWord_str (d : Dev) (core q : Nat) (x : QCmd) (w : Nat) : (d.takeWord core q x w).str = d.str := by
  have hs : (d.modQue core q (fun u => u.completed x w)).str = d.str := rfl
  unfold Dev.takeWord
  generalize d.modQue core q (fun u => u.completed x w) = e at hs
  obtain ⟨p, hp⟩ := e.settlePast_frame core q x
  rw [hp]
  exact hs

/-- What a transfer without handles leaves of its engine and queue as it goes. -/
def Dev.left (d : Dev) (k : Nat) (tr : Transfer) : Dev :=
  ((d.modTransfer k tr.accept tr.index (fun _ => tr)).modStr k (fun s => { s with
    transfers := s.transfers.filter (fun y => !(y.is tr.accept tr.index)) })).nextMove k

section
variable {d : Dev} {k : Nat} {c : CtxId} {tr : Transfer} (hmine : (d.strAt k).mine = [tr])
include hmine

theorem Dev.own_of_mine : tr.own = none := by
  have hin : tr ∈ (d.strAt k).mine := by
    rw [hmine]
    exact List.mem_singleton_self tr
  have hnone := (List.mem_filter.mp hin).2
  simpa using hnone

/-- The engine and the queue of a transfer that goes. -/
theorem Dev.left_at (hwait : (d.strAt k).ownWait = []) : ((d.left k tr).strAt k).mine = [] ∧ (d.left k tr).que = d.que := by
  have hat : (d.left k tr).strAt k = { d.strAt k with
      transfers := (d.strAt k).transfers.filter (fun y => !(y.is tr.accept tr.index)) } := by
    rw [Dev.left, Dev.nextMove, Dev.modStr_at, Dev.modStr_at, Dev.modTransfer, Dev.modStr_at]
    simp only [hwait, Stream.map_same hmine]
  rw [hat]
  exact ⟨Stream.mine_left hmine (Dev.own_of_mine hmine), rfl⟩

omit hmine in
/-- The last transfer of an XFER takes its command with it (R208, R224). -/
theorem Dev.leave_completes {x : QCmd} {rest : List QCmd} (hop : tr.cmd.head? = some 0x20) (hlast : tr.last = true)
    (hqueue : (((d.left k tr).modCmd (strCore k) (strQueue k) tr.accept (fun y => { y with flags := y.flags ||| tr.flags })).queAt (strCore k)
      (strQueue k)).cmds = x :: rest) (hacc : x.accept = tr.accept)
    (hstr : (((d.left k tr).modCmd (strCore k) (strQueue k) tr.accept (fun y => { y with flags := y.flags ||| tr.flags })).strAt k).mine = []) :
    (d.modTransfer k tr.accept tr.index (fun _ => tr)).leave c k tr
      = ((d.left k tr).modCmd (strCore k) (strQueue k) tr.accept (fun y => { y with flags := y.flags ||| tr.flags })).endCmd c
        (strCore k) (strQueue k) x x.flags := by
  have hchain : ¬ ((0x20 : Byte) = 0x21) := by decide
  have hleft : ((d.modTransfer k tr.accept tr.index (fun _ => tr)).modStr k (fun s => { s with
    transfers := s.transfers.filter (fun y => !(y.is tr.accept tr.index)) })).nextMove k = d.left k tr := rfl
  unfold Dev.leave
  simp only [hop, Option.some.injEq, hchain, decide_false, Bool.false_and, Bool.false_eq_true, if_false, hleft]
  simp only [hqueue, List.find?_cons, hacc, decide_true, hlast, hstr, List.any_nil, Bool.not_false, Bool.and_self, if_true]

/-- A transfer of an XFER with no handle to return or give leaves, with its flags in its command (R224, R228). -/
theorem Dev.finishTransfer_leaves {x : QCmd} {rest : List QCmd} (hwait : (d.strAt k).ownWait = [])
    (hcmds : (d.queAt (strCore k) (strQueue k)).cmds = x :: rest) (hacc : x.accept = tr.accept) (hlast : tr.last = true)
    (hop : tr.cmd.head? = some 0x20) (hret : dsHret tr.desc = 15) (hout : dsHout tr.desc = 15) (hlen : tr.desc.length = 64) :
    d.finishTransfer c k tr = ((d.left k tr).modCmd (strCore k) (strQueue k) tr.accept (fun y => { y with flags := y.flags ||| tr.flags })).endCmd c
      (strCore k) (strQueue k) { x with flags := x.flags ||| tr.flags } (x.flags ||| tr.flags) := by
  have hreturn : d.returnHandle c k tr = .done d := by
    unfold Dev.returnHandle
    cases tr.handle with
    | none => rfl
    | some h => simp only [hret, if_true]
  have hspent : { tr with desc := wr tr.desc 0x38 (leBytes 1 (setField (rdb tr.desc 0x38) 4 4 15)) } = tr := by rw [wr_spent hlen hret]
  obtain ⟨hnone, hque⟩ := Dev.left_at hmine hwait
  have hqueue : (((d.left k tr).modCmd (strCore k) (strQueue k) tr.accept (fun y => { y with flags := y.flags ||| tr.flags })).queAt (strCore k)
      (strQueue k)).cmds = { x with flags := x.flags ||| tr.flags } :: rest.map (fun y => if y.accept = tr.accept then
        { y with flags := y.flags ||| tr.flags } else y) := by
    rw [Dev.modCmd, Dev.modQue_at, Dev.queAt_of_que hque]
    simp only [hcmds, List.map_cons, hacc, if_true]
  have hstr : (((d.left k tr).modCmd (strCore k) (strQueue k) tr.accept (fun y => { y with flags := y.flags ||| tr.flags })).strAt k).mine = [] :=
    hnone
  have hgive : (d.modTransfer k tr.accept tr.index (fun _ => tr)).giveHandle c k tr = .done (d.modTransfer k tr.accept tr.index (fun _ => tr)) := by
    simp only [Dev.giveHandle, hout, if_true]
  unfold Dev.finishTransfer
  simp only [hreturn, hspent, hgive]
  exact Dev.leave_completes hop hlast hqueue hacc hstr

end

/-- TRANSFER_COMPLETION of an engine's one transfer (R208, R224). -/
theorem transferCompletion_completes {s : State} {u : StreamRef} {k : Nat} {c : CtxId} {tr : Transfer} {x : QCmd} {rest : List QCmd} (hk : k = strOf u)
    (hctx : s.dev.strCtx k = some c) (hmine : (s.dev.strAt k).mine = [tr]) (hperf : tr.performed = true) (hwait : (s.dev.strAt k).ownWait = [])
    (hcmds : (s.dev.queAt (strCore k) (strQueue k)).cmds = x :: rest) (hres : x.result = none) (hacc : x.accept = tr.accept) (hlast : tr.last = true)
    (hop : tr.cmd.head? = some 0x20) (hret : dsHret tr.desc = 15) (hout : dsHout tr.desc = 15) (hlen : tr.desc.length = 64)
    (hok : (x.flags ||| tr.flags) % 256 = 0) (hsig : x.sig = false) :
    Answers (.transferCompletion u) s (fun t => s.onlyDev t ∧ (t.dev.strAt k).mine = []
      ∧ (t.dev.queAt (strCore k) (strQueue k)).cmds = rest.filter (fun y => y.accept ≠ x.accept)
      ∧ (t.dev.queAt (strCore k) (strQueue k)).lastWord = x.flags ||| tr.flags
      ∧ (t.dev.queAt (strCore k) (strQueue k)).stopped = (s.dev.queAt (strCore k) (strQueue k)).stopped) := by
  have hact : s.dev.completeStream k = s.dev.finishTransfer c k tr := by
    simp only [Dev.completeStream, hctx, hmine, hcmds, hres, hperf, List.head?_cons, reduceCtorEq, decide_false, Bool.false_and, Bool.false_eq_true,
      if_false, if_true]
  rw [Dev.finishTransfer_leaves hmine hwait hcmds hacc hlast hop hret hout hlen] at hact
  obtain ⟨hnone, hque⟩ := Dev.left_at hmine hwait
  generalize hx : (s.dev.left k tr).modCmd (strCore k) (strQueue k) tr.accept (fun y => { y with flags := y.flags ||| tr.flags }) = e at hact
  have hmine' : (e.strAt k).mine = [] := by
    rw [← hx]
    exact hnone
  have hqueue : e.queAt (strCore k) (strQueue k) = { s.dev.queAt (strCore k) (strQueue k) with
      cmds := (x :: rest).map (fun y => if y.accept = tr.accept then { y with flags := y.flags ||| tr.flags } else y) } := by
    rw [← hx, Dev.modCmd, Dev.modQue_at, Dev.queAt_of_que hque, hcmds]
  rw [Dev.endCmd_ok _ _ _ _ _ hok, if_neg (by rw [show QCmd.sig { x with flags := x.flags ||| tr.flags } = x.sig from rfl, hsig]; decide)] at hact
  obtain ⟨hq, -, -⟩ := e.takeWord_at (strCore k) (strQueue k) { x with flags := x.flags ||| tr.flags } (x.flags ||| tr.flags)
  have hstr := e.takeWord_str (strCore k) (strQueue k) { x with flags := x.flags ||| tr.flags } (x.flags ||| tr.flags)
  rw [hqueue] at hq
  subst hk
  refine answers_device (d := s.dev.completeStream (strOf u)) rfl rfl (fun t honly hdev => ?_)
  rw [hdev, hact, hq, Dev.strAt_of_str hstr]
  refine ⟨honly, hmine', ?_, rfl, rfl⟩
  show List.filter (fun y : QCmd => y.accept ≠ x.accept) _ = _
  rw [hacc, filter_map_flags, List.filter_cons, if_neg (by simp [hacc])]

end Sys2Proof.Machine
end

section
/-! The stop of an engine and opcodes of no stream command (R124, R212, R237). -/

namespace Sys2Proof.Machine

open Sys2Proof.Laws

/-! ### Stops -/

/-- Counting a stop and telling of it leaves the queues (R237, R243). -/
theorem Dev.countStop_que (d : Dev) (c : CtxId) (k : Nat) (tr : Transfer) : (d.countStop c k tr).que = d.que := by
  unfold Dev.countStop
  simp only
  split
  · exact Dev.count_que _ _ _ _
  · split
    · split
      · rw [Dev.count_que, Dev.put_que, Dev.put_que, Dev.count_que]
      · rw [Dev.put_que, Dev.put_que, Dev.count_que]
    · split
      · rfl
      · rfl

theorem Dev.tellStop_que (d : Dev) (c : CtxId) (k : Nat) {tr : Transfer} (h : tr.status ≠ 0xB) : (d.tellStop c k tr).que = d.que := by
  unfold Dev.tellStop
  rw [if_neg h]
  exact (Dev.Reports.event d c 3 _).que

/-- The queue of an engine that stops with a word (R124, R167, R237, R238). -/
theorem Dev.stopped_queue (d : Dev) (k : Nat) {tr : Transfer} (w : Nat) (h : tr.status ≠ 0xB) :
    (((d.stopQue (strCore k) (strQueue k) w (rd tr.cmd 4 2)).failStopper k tr w).queAt (strCore k) (strQueue k)).stopped = true
    ∧ (((d.stopQue (strCore k) (strQueue k) w (rd tr.cmd 4 2)).failStopper k tr w).queAt (strCore k) (strQueue k)).fail
      = some (((d.queAt (strCore k) (strQueue k)).fail).getD (w, rd tr.cmd 4 2))
    ∧ (tr.status = 0xA → (((d.stopQue (strCore k) (strQueue k) w (rd tr.cmd 4 2)).failStopper k tr w).queAt (strCore k) (strQueue k)).cmds
      = (d.queAt (strCore k) (strQueue k)).cmds)
    ∧ (tr.status ≠ 0xA →
      (((d.stopQue (strCore k) (strQueue k) w (rd tr.cmd 4 2)).failStopper k tr w).queAt (strCore k) (strQueue k)).lastWord = w) := by
  have hat : (d.stopQue (strCore k) (strQueue k) w (rd tr.cmd 4 2)).queAt (strCore k) (strQueue k) = { d.queAt (strCore k) (strQueue k) with
      stopped := true, fail := some (((d.queAt (strCore k) (strQueue k)).fail).getD (w, rd tr.cmd 4 2)) } := by
    rw [Dev.stopQue, Dev.modQue_at]
    cases (d.queAt (strCore k) (strQueue k)).fail <;> rfl
  generalize d.stopQue (strCore k) (strQueue k) w (rd tr.cmd 4 2) = e at hat
  unfold Dev.failStopper
  by_cases hres : tr.status = 0xA
  · simp only [hres, decide_true, Bool.true_or, if_true, hat]
    exact ⟨trivial, trivial, fun _ => trivial, fun h => absurd rfl h⟩
  · have hno : (decide (tr.status = 0xA) || decide (tr.status = 0xB)) = false := by simp [hres, h]
    simp only [hno, Bool.false_eq_true, if_false]
    generalize hf : e.modQue (strCore k) (strQueue k) _ = f
    have hq : (f.orFpstat (strCore k) w).queAt (strCore k) (strQueue k) = f.queAt (strCore k) (strQueue k) := Dev.queAt_of_que rfl _ _
    rw [hq, ← hf, Dev.modQue_at, hat]
    exact ⟨rfl, rfl, fun h => absurd h hres, fun _ => rfl⟩

/-- STREAM_STOP of an engine with nothing outstanding and no save area (R237). -/
theorem streamStop_stops {s : State} {u : StreamRef} {k : Nat} {c : CtxId} {tr : Transfer} (hk : k = strOf u) (hctx : s.dev.strCtx k = some c)
    (hstop : (s.dev.strAt k).stopper = some tr) (hquiet : ∀ y ∈ (s.dev.strAt k).mine, y.unacked = 0) (hlead : (s.dev.strAt k).leading tr = [])
    (hsave : (s.dev.strAt k).save = none) (hst : tr.status ≠ 0xB) :
    Answers (.streamStop u) s (fun t => s.onlyDev t ∧ (t.dev.queAt (strCore k) (strQueue k)).stopped = true
      ∧ ∃ word, word = tr.status + ((((s.dev.queAt (strCore k) (strQueue k)).cmds.find? (fun y => y.accept = tr.accept)).elim 0
            QCmd.flags) ||| tr.flags)
        ∧ (t.dev.queAt (strCore k) (strQueue k)).fail
          = some (((s.dev.queAt (strCore k) (strQueue k)).fail).getD (word, rd tr.cmd 4 2))
        ∧ (tr.status = 0xA → (t.dev.queAt (strCore k) (strQueue k)).cmds = (s.dev.queAt (strCore k) (strQueue k)).cmds)
        ∧ (tr.status ≠ 0xA → (t.dev.queAt (strCore k) (strQueue k)).lastWord = word)) := by
  have hnone : (s.dev.strAt k).mine.any (fun y => y.unacked ≠ 0) = false := by
    rw [List.any_eq_false]
    intro y hy
    simp [hquiet y hy]
  generalize hw : tr.status + ((((s.dev.queAt (strCore k) (strQueue k)).cmds.find? (fun y => y.accept = tr.accept)).elim 0 QCmd.flags) ||| tr.flags) = w
  obtain ⟨hstopped, hfail, hcmds, hword⟩ := s.dev.stopped_queue k w hst
  generalize hx : (s.dev.stopQue (strCore k) (strQueue k) w (rd tr.cmd 4 2)).failStopper k tr w = x at hstopped hfail hcmds hword
  have hact : stopAct u s.fuse s.mem s.dev = { dev := (x.countStop c k tr).tellStop c k tr } := by
    subst hk
    simp only [stopAct, hctx, hstop, hnone, hlead, hsave, List.foldl_nil, List.isEmpty_nil, Bool.not_true, Bool.false_eq_true, if_false, hw, hx]
  have hque : ((x.countStop c k tr).tellStop c k tr).queAt (strCore k) (strQueue k) = x.queAt (strCore k) (strQueue k) :=
    Dev.queAt_of_que ((Dev.tellStop_que _ c k hst).trans (x.countStop_que c k tr)) _ _
  refine answers_device rfl hact (fun t honly hdev => ?_)
  rw [hdev, hque]
  exact ⟨honly, hstopped, w, rfl, hfail, hcmds, hword⟩

/-! ### Signals leave the transfers of engines -/

/-- From `a` to `b` an engine that has transfers keeps them. -/
def Dev.KeepsTransfers (a b : Dev) : Prop := ∀ k, (a.strAt k).transfers ≠ [] → (b.strAt k).transfers = (a.strAt k).transfers

namespace Dev.KeepsTransfers

variable {a b c : Dev}

theorem trans (h : a.KeepsTransfers b) (g : b.KeepsTransfers c) : a.KeepsTransfers c := fun k hk =>
  (g k (by rw [h k hk]; exact hk)).trans (h k hk)

theorem of_str (h : b.str = a.str) : a.KeepsTransfers b := fun k _ => by rw [Dev.strAt_of_str h]

theorem refl : a.KeepsTransfers a := of_str rfl

end Dev.KeepsTransfers

theorem Stream.test_transfers (s : Stream) (kind obj value : Nat) : (s.test kind obj value).transfers = s.transfers := by
  unfold Stream.test
  split
  · split
    · rfl
    · rfl
  · rfl

theorem Dev.offer_transfers (d : Dev) (cores : List Nat) (tkind skind obj value : Nat) : d.KeepsTransfers (d.offer cores tkind skind obj value) := by
  intro k hk
  have hkeep : (if cores.contains (k / 2) then (d.strAt k).test skind obj value else d.strAt k).transfers = (d.strAt k).transfers := by
    split
    · exact (d.strAt k).test_transfers skind obj value
    · rfl
  have hne : d.strAt k ≠ Stream.init := fun e => hk (by rw [e]; rfl)
  have hne' : (if cores.contains (k / 2) then (d.strAt k).test skind obj value else d.strAt k) ≠ Stream.init :=
    fun e => hk (by rw [← hkeep, e]; rfl)
  have hmap := tblGet_map_of_ne (e := Stream.init) (v := d.strAt k) (k := k)
    (f := fun k s => if cores.contains (k / 2) then s.test skind obj value else s) (t := d.str) hne' hne rfl
  exact (congrArg Stream.transfers hmap).trans hkeep

theorem Dev.digestSync_str (d : Dev) (c : CtxId) (die vid old new : Nat) : (d.digestSync c die vid old new).str = d.str := by
  unfold Dev.digestSync
  simp only
  split
  · rfl
  · rfl

theorem Dev.syncFault_str (d : Dev) (c : CtxId) (die vid : Nat) (inc : Int) (cause : Nat) (s : Signaller) :
    (d.syncFault c die vid inc cause s).str = d.str := by
  have htell : ∀ (x : Dev) (bs : Bytes), x.str = d.str → ((x.event c 4 bs).count SYN_STAT.FAULTS die).str = d.str := fun x bs h =>
    (Dev.count_str _ _ _ _).trans ((Dev.Reports.event x c 4 bs).str.trans h)
  have hbeside : ∀ (z : Dev) (g : Ctx → Ctx), z.str = d.str → (if z.locked c then z.modCtx c g else z).str = d.str := fun z g h => by
    split
    · exact h
    · exact h
  unfold Dev.syncFault
  cases d.physOf c die vid with
  | none =>
    simp only
    exact hbeside _ _ (htell d _ rfl)
  | some p =>
    simp only
    exact hbeside _ _ (htell _ _ rfl)

theorem Dev.latchSettle_str (d : Dev) (line : Nat) : (d.latchSettle line).str = d.str := by
  unfold Dev.latchSettle
  split
  · rfl
  · simp only
    split
    · rfl
    · rfl

theorem Dev.bump_transfers (d : Dev) (c : CtxId) (die vid p : Nat) (inc : Int) (s : Signaller) : d.KeepsTransfers (d.bump c die vid p inc s).2 := by
  have hfault : ∀ cause, d.KeepsTransfers (d.syncFault c die vid inc cause s) := fun cause => .of_str (d.syncFault_str c die vid inc cause s)
  have hseen : ∀ x : Dev, x.str = d.str → ∀ old v, d.KeepsTransfers ((x.digestSync c die vid old v).offerSync c die vid v) := fun x hx old v =>
    .trans (.of_str ((x.digestSync_str c die vid old v).trans hx)) (Dev.offer_transfers _ _ _ _ _ _)
  unfold Dev.bump
  simp only
  split
  · split
    · exact hfault 6
    · split
      · exact hfault 5
      · exact .of_str (Dev.latchSettle_str _ _)
  · split
    · exact hfault 6
    · split
      · exact .refl
      · split
        · exact hfault 1
        · split
          · exact hfault 2
          · simp only
            generalize hx : d.modSync die p _ = x
            have hstr : x.str = d.str := by
              rw [← hx]
              rfl
            exact hseen x hstr _ _

theorem Dev.cmdSignal_transfers (d : Dev) (c : CtxId) (die vid : Nat) (s : Signaller) : d.KeepsTransfers (d.cmdSignal c die vid s) := by
  unfold Dev.cmdSignal
  split
  · exact .of_str (d.syncFault_str _ _ _ _ _ _)
  · simp only
    split
    · exact .of_str (d.syncFault_str _ _ _ _ _ _)
    · exact d.bump_transfers _ _ _ _ _ _

/-- The end of a command leaves the transfers of engines that have any. -/
theorem Dev.endCmd_transfers (d : Dev) (c : CtxId) (core q : Nat) (x : QCmd) (w : Nat) : d.KeepsTransfers (d.endCmd c core q x w) := by
  have hword : d.KeepsTransfers (d.takeWord core q x w) := .of_str (d.takeWord_str core q x w)
  by_cases hw : w % 256 = 0
  · rw [d.endCmd_ok c core q x hw]
    split
    · exact hword.trans (Dev.cmdSignal_transfers _ _ _ _ _)
    · exact hword
  · rw [d.endCmd_fails c core q x hw]
    exact hword.trans (.of_str rfl)

/-! ### Opcodes of no stream command -/

/-- A command starts only on an engine that has not been stopped, in a running context (R237). -/
theorem Dev.nextCmd_clear {d : Dev} {k : Nat} {c : CtxId} {x : QCmd} (h : d.nextCmd k = some (c, x)) :
    d.strCtx k = some c ∧ (d.strAt k).stopper = none := by
  unfold Dev.nextCmd at h
  simp only at h
  split at h
  · next c' x' hctx _ =>
    split at h
    · next hclear =>
      obtain ⟨rfl, -⟩ := Prod.mk.inj (Option.some.inj h)
      simp only [Bool.and_eq_true, Option.isNone_iff_eq_none] at hclear
      exact ⟨hctx, hclear.1.1.1.1⟩
    · exact absurd h (by simp)
  · exact absurd h (by simp)

/-- An engine whose one transfer has failed before it issued anything completes at most the command ahead of it. -/
theorem Dev.completeStream_failed {d : Dev} {k : Nat} {tr : Transfer} (hmine : (d.strAt k).mine = [tr]) (hissued : tr.issued = false) :
    d.KeepsTransfers (d.completeStream k) := by
  have hperf : tr.performed = false := by simp [Transfer.performed, hissued]
  unfold Dev.completeStream
  cases d.strCtx k with
  | none => exact .refl
  | some c =>
    cases hhead : (d.queAt (strCore k) (strQueue k)).cmds.head? with
    | none =>
      simp only [hmine, List.head?_cons, hhead, hperf, Bool.false_eq_true, if_false]
      exact .refl
    | some x =>
      simp only [hmine, List.head?_cons, hhead, hperf, Bool.false_eq_true, if_false]
      split
      · exact d.endCmd_transfers _ _ _ _ _
      · exact .refl

end Sys2Proof.Machine
end

section
/-! The settling of the transfers of the stream engines. -/

namespace Sys2Proof.Machine

open Sys2Proof.Laws

/-- COMMAND_COMPLETION of a stream queue whose next command is no stream command (R212). -/
theorem commandCompletion_badOpcode {s : State} {u : QueueRef} {k : Nat} {c : CtxId} {x : QCmd} (hq : 5 ≤ u.q.val)
    (hk : k = 2 * coreNo u.die.val u.core.val + (u.q.val - 5)) (hnext : s.dev.nextCmd k = some (c, x))
    (hadm : s.dev.admitted (csGroup (strCore k)) = true) (hop : x.op < 0x20 ∨ 0x25 < x.op) (hmine : (s.dev.strAt k).mine = []) :
    Answers (.commandCompletion u) s (fun t => s.onlyDev t ∧ (t.dev.strAt k).stopper
        = some { Transfer.init with accept := x.accept, cmd := x.bytes, status := 1 }) := by
  generalize htr : ({ Transfer.init with accept := x.accept, cmd := x.bytes, status := 1 } : Transfer) = tr
  have hnew : tr.own = none ∧ tr.issued = false ∧ tr.status = 1 := by
    rw [← htr]
    exact ⟨rfl, rfl, rfl⟩
  have hrange : (decide (0x20 ≤ x.op) && decide (x.op ≤ 0x25)) = false := by
    rw [Bool.and_eq_false_iff, decide_eq_false_iff_not, decide_eq_false_iff_not]
    omega
  have hbad : s.dev.badStreamOp k = s.dev.addTransfer k tr := by
    simp only [Dev.badStreamOp, hnext, hrange, Bool.false_eq_true, if_false, hadm, if_true, ← htr]
    rfl
  have hat : (s.dev.addTransfer k tr).strAt k = { s.dev.strAt k with transfers := (s.dev.strAt k).transfers ++ [tr] } := by
    rw [Dev.addTransfer, Dev.modStr_at]
  generalize s.dev.addTransfer k tr = e at hbad hat
  have hone : (e.strAt k).mine = [tr] := by
    rw [hat]
    show ((s.dev.strAt k).transfers ++ [tr]).filter (fun y => y.own.isNone) = [tr]
    have hold : (s.dev.strAt k).transfers.filter (fun y => y.own.isNone) = [] := hmine
    rw [List.filter_append, hold]
    simp [hnew]
  have hkeep := Dev.completeStream_failed hone hnew.2.1 k (by rw [hat]; exact List.append_ne_nil_of_right_ne_nil _ (List.cons_ne_nil _ _))
  have hstop : (e.strAt k).stopper = some tr := by
    have hold : (s.dev.strAt k).transfers.find? (fun t => t.own.isNone && t.status ≠ 0) = none := (Dev.nextCmd_clear hnext).2
    rw [hat]
    show ((s.dev.strAt k).transfers ++ [tr]).find? (fun t => t.own.isNone && t.status ≠ 0) = some tr
    rw [List.find?_append, hold]
    simp [hnew]
  have hnot : ¬ u.q.val < 5 := by omega
  refine answers_device (d := (s.dev.badStreamOp k).completeStream k) rfl ?_ (fun t honly hdev => ⟨honly, ?_⟩)
  · subst hk
    simp only [Act.dev, hnot, if_false]
  · rw [hdev, hbad, Stream.stopper, hkeep]
    exact hstop

end Sys2Proof.Machine

namespace Sys2Proof.Proofs

open Sys2Proof.Machine Sys2Proof.Laws

/-- Settles O49: markers, segments, the completion of a transfer, the stop of an engine, and an opcode of no stream command. -/
theorem streamTransfers : Obligations.StreamTransfers := by
  unfold Obligations.StreamTransfers
  refine ⟨?_, ?_, ?_, ?_, ?_⟩
  · intro u k c mark s hk hctx hmark
    subst hk
    refine ⟨fun hnone hholds => ?_, fun hheld => answers_same rfl ?_⟩
    · refine answers_device (d := s.dev.releaseMarker s.mem (strOf u)) rfl rfl (fun t honly hdev => ?_)
      rw [hdev]
      exact ⟨honly, Dev.releaseMarker_at hctx hmark s.mem hnone hholds⟩
    · show ({ dev := s.dev.releaseMarker s.mem (strOf u) } : Res) = _
      rw [Dev.releaseMarker_held hctx hmark s.mem hheld]
  · intro u slot k a b n c tr f s hk hslot hctx hstop hissued hlen hn _ H
    exact ⟨segmentIssue_own hk hslot hctx hstop hissued hlen hn H, segmentIssue_away hk hslot hctx hstop hissued hlen hn H⟩
  · intro u k c tr x rest s
    exact transferCompletion_completes
  · intro u k c tr s
    exact streamStop_stops
  · intro u k c x s hq hk hnext hadm hop hmine
    exact commandCompletion_badOpcode hq hk hnext hadm hop hmine

end Sys2Proof.Proofs
end
